-- ==== Sys2Proof/Word.lean ====
section
/-!
DEFINITION. The words of the PX-64: bytes, 32-bit words and 64-bit words (00 R3 to R5).
-/

set_option Elab.async false

namespace Sys2Proof

/-- A byte of HBM, of a packet or of a flash (00 R5). -/
abbrev Byte := BitVec 8
/-- The aligned word of a tile store (02 R51). -/
abbrev W32 := BitVec 32
/-- A register of the device, or a g register of a tile (00 R8, 05 R141). -/
abbrev W64 := BitVec 64

end Sys2Proof
end

