-- ==== Sys2Proof/Syntax.lean ====
section
/-!
DEFINITION. The commands of the PX-64: one constructor per row of spec/opcode_table.json.
Operands are what the spec's text gives the step: a command packet's header and payload (10 R318), the
physical tile and bits [47:0] of an instruction word (05 R143, R144), the unit an event happens at, and
what arrives from outside (a word, a frame, a pin level).
-/

set_option Elab.async false

namespace Sys2Proof

/-- The header of a command packet without its opcode, which the command itself names (10 R318). -/
structure Header where
  flags : BitVec 16
  queue : BitVec 16
  payloadLen : BitVec 16
  tag : BitVec 32
  cones : BitVec 32
  dlSec : BitVec 48
  dlNs : BitVec 32
  rsvd : BitVec 48
  w0 : BitVec 64
  w1 : BitVec 64
  w2 : BitVec 64
  w3 : BitVec 64
  deriving DecidableEq, Repr, Inhabited

/-- The receive sources of a coil, in the order of the accept bits [20] to [24] (02 R63). -/
inductive PushSrc where
  | host | tile | sense | loop | kiln
  deriving DecidableEq, Repr, Inhabited

/-- The units that can fail (14 R477). -/
inductive UnitKind where
  | tile | loopEngine | senseGroup | pseudoChannel
  deriving DecidableEq, Repr, Inhabited

/-- The message types of IEEE 1588 that the device distinguishes (16 R527). -/
inductive PtpKind where
  | sync | followUp | delayReq | delayResp | announce | pdelay | signaling | management
  deriving DecidableEq, Repr, Inhabited

/-- A PTP message as received (12 R406, 16 R527, R528). Times are in 2^-16 ns. -/
structure PtpMsg where
  kind : PtpKind
  domain : Nat
  clockId : BitVec 64
  portNum : BitVec 16
  seqId : BitVec 16
  twoStep : Bool
  correction : Int
  tsSec : Nat
  tsNs : Nat
  /-- PCS stamp of the arrival, before the correction by rx_dly (16 R530) -/
  ingress : Int
  priority1 : Nat
  clockClass : Nat
  clockAccuracy : Nat
  variance : Nat
  priority2 : Nat
  grandmaster : BitVec 64
  stepsRemoved : Nat
  udp : Bool
  reqClockId : BitVec 64
  reqPort : BitVec 16
  logInterval : Int
  /-- the frame as it came, from the destination address on, without its frame check sequence; what follows the fields above, such as
  TLVs, stands here (16 R527) -/
  frame : List Byte := []
  deriving DecidableEq, Repr, Inhabited

/-- What the port sees of a received Ethernet frame (16 R525, R527). -/
structure EthFrame where
  fcsOk : Bool
  tagged : Bool
  vid : BitVec 12
  ethertype : BitVec 16
  dst : BitVec 48
  udpPort : Nat
  dstIp : BitVec 32
  pause : Bool
  ptp : Option PtpMsg
  deriving DecidableEq, Repr, Inhabited

namespace Machine

/-- A whole command packet (10 R318). -/
structure Packet where
  opcode : BitVec 16
  hdr : Header
  payload : List Byte
  put : List Byte
  deriving DecidableEq, Repr, Inhabited

/-- A completion and its extension (10 R329, R334). -/
structure Record where
  queue : Nat := 0
  seq : Nat := 0
  opcode : BitVec 16 := 0
  tag : BitVec 32 := 0
  status : Byte := 0
  flags : BitVec 32 := 0
  cflags : Byte := 0
  ltile : BitVec 16 := 0xFFFF
  accept : BitVec 32 := 0
  start : BitVec 32 := 0
  stop : BitVec 32 := 0
  cones : BitVec 32 := 0
  location : W64 := 0
  r0 : W64 := 0
  r1 : W64 := 0
  ext : List Byte := []
  deriving DecidableEq, Repr, Inhabited

/-- An accepted command that has no completion yet, with its captured inputs (10 R321). -/
structure Outst where
  seq : Nat
  accept : Nat
  pkt : Packet
  captured : List Byte
  rerun : Bool := false
  replayed : Bool := false
  inv : Bool := false
  /-- tile, start and finish that admission reserved at the count of arrival, of a job with a deadline (11 R353) -/
  pin : Option (Nat × Nat × Nat) := none
  /-- the determinism mode that held at acceptance (12 R392) -/
  tput : Bool := false
  deriving DecidableEq, Repr, Inhabited

/-- A finished record in the reorder buffer, and the commit entry it waits for (10 R335, 14 R464). -/
structure Done where
  record : Record
  commit : Nat
  mirrored : Bool
  capBytes : Nat
  tput : Bool
  vals : List Byte
  deriving DecidableEq, Repr, Inhabited

/-- A queue pair (10 R313, R317, R324, R335, R336). -/
structure Queue where
  enabled : Bool := false
  dataClass : Bool := false
  prio : Nat := 0
  depthLog2 : Nat := 0
  stopped : Bool := false
  nextSeq : Nat := 1
  released : Nat := 0
  outst : List Outst := []
  reorder : List Done := []
  ring : List Record := []
  overflow : List Record := []
  tags : List (BitVec 32 × Nat × Nat) := []
  merged : Option Record := none
  deriving DecidableEq, Repr, Inhabited

/-- The current content of a section that a TEMPER job wrote, with its weight digest (14 R465, R466); the image is named by
its two digests. -/
structure SecCopy where
  program : List Byte
  weight : List Byte
  index : Nat
  content : List Byte
  digest : List Byte
  deriving DecidableEq, Repr, Inhabited

/-- Where the ACTIVE device's cell link stands when a joining device takes it over (09 R309; 14 R460). -/
structure LinkCopy where
  link : Nat
  seq : BitVec 16
  bseq : Byte
  echoFor : Option Byte
  wasUp : Bool
  delayUi : BitVec 16
  sent : Option (Nat × Nat)
  beaconAt : Option Nat
  records : List Byte
  txRd : Bool
  cmd : List (Nat × W64) := []
  deriving DecidableEq, Repr, Inhabited

/-- The ACTIVE device's section copies and the standing of its cell links, as BULK brings them (14 R460). -/
structure BulkCopy where
  sections : List SecCopy
  links : List LinkCopy
  deriving DecidableEq, Repr, Inhabited

end Machine

/-- The commands of the block. -/
inductive Instr where
  /-- ACK -/
  | ack (h : Header) (pl : List Byte)
  /-- QUEUE_SET -/
  | queueSet (h : Header) (pl : List Byte)
  /-- REG_READ -/
  | regRead (h : Header) (pl : List Byte)
  /-- REG_WRITE -/
  | regWrite (h : Header) (pl : List Byte)
  /-- SET_CONE_BUDGET -/
  | setConeBudget (h : Header) (pl : List Byte)
  /-- SET_RUNG -/
  | setRung (h : Header) (pl : List Byte)
  /-- RUNG_REACHED -/
  | rungReached (dom : Nat)
  /-- SELF_TEST -/
  | selfTest (h : Header) (pl : List Byte)
  /-- SELF_TEST_RUN -/
  | selfTestRun (dom : Nat) (sig : BitVec 64)
  /-- ATTEST -/
  | attest (h : Header) (pl : List Byte)
  /-- FW_LOAD -/
  | fwLoad (h : Header) (pl : List Byte)
  /-- ATTACH -/
  | attach (h : Header) (pl : List Byte)
  /-- ATTACH_BULK_DONE -/
  | attachBulkDone (mem : List (Nat × List Byte)) (copies : Machine.BulkCopy) (binds : List (Nat × Machine.Packet))
  /-- ATTACH_FINAL_DONE -/
  | attachFinalDone (qs : List (Nat × Machine.Queue)) (ix : BitVec 64)
  /-- DETACH -/
  | detach (h : Header) (pl : List Byte)
  /-- DETACH_EFFECT -/
  | detachEffect
  /-- ROLE_SWAP -/
  | roleSwap (h : Header) (pl : List Byte)
  /-- ROLE_SWAP_COUNT -/
  | roleSwapCount
  /-- JOURNAL_READ -/
  | journalRead (h : Header) (pl : List Byte)
  /-- BIND_SLOT -/
  | bindSlot (h : Header) (pl : List Byte)
  /-- UNBIND -/
  | unbind (h : Header) (pl : List Byte)
  /-- SWAP_COEF -/
  | swapCoef (h : Header) (pl : List Byte)
  /-- BIND_STANDING -/
  | bindStanding (h : Header) (pl : List Byte)
  /-- BIND_LANE -/
  | bindLane (h : Header) (pl : List Byte)
  /-- BIND_PWM -/
  | bindPwm (h : Header) (pl : List Byte)
  /-- BIND_LINK -/
  | bindLink (h : Header) (pl : List Byte)
  /-- LAUNCH -/
  | launch (h : Header) (pl : List Byte)
  /-- LAUNCH_COUNT -/
  | launchCount (q sq : Nat)
  /-- SOLVE_QP -/
  | solveQp (h : Header) (pl : List Byte)
  /-- SOLVE_LS -/
  | solveLs (h : Header) (pl : List Byte)
  /-- ESTIMATE -/
  | estimate (h : Header) (pl : List Byte)
  /-- INFER -/
  | infer (h : Header) (pl : List Byte)
  /-- TEMPER -/
  | temper (h : Header) (pl : List Byte)
  /-- RUN_PROGRAM -/
  | runProgram (h : Header) (pl : List Byte)
  /-- DATA_PUT -/
  | dataPut (h : Header) (pl : List Byte) (d : List Byte)
  /-- DATA_GET -/
  | dataGet (h : Header) (pl : List Byte)
  /-- HEARTH_PIN -/
  | hearthPin (h : Header) (pl : List Byte)
  /-- WITNESS_START -/
  | witnessStart (h : Header) (pl : List Byte)
  /-- WITNESS_RECORD_START -/
  | witnessRecordStart
  /-- WITNESS_STOP -/
  | witnessStop (h : Header) (pl : List Byte)
  /-- WITNESS_GAP -/
  | witnessGap
  /-- REPLAY_START -/
  | replayStart (h : Header) (pl : List Byte)
  /-- REPLAY_ENTRY -/
  | replayEntry
  /-- REPLAY_END -/
  | replayEnd
  /-- TIME_MODE -/
  | timeMode (h : Header) (pl : List Byte)
  /-- QUEUE_MIRROR_ACK -/
  | queueMirrorAck
  /-- COMPLETION_RELEASE -/
  | completionRelease (q : Nat)
  /-- COMMIT_MIRROR_ACK -/
  | commitMirrorAck (ix : Nat)
  /-- PENDING_MAP_PIECE -/
  | pendingMapPiece (piece : Nat)
  /-- USB_DB_CTL_ALL -/
  | usbDbCtlAll (h : Header)
  /-- TELEMETRY_RECORD -/
  | telemetryRecord
  /-- USB_BUS_RESET -/
  | usbBusReset
  /-- USB_SUSPEND -/
  | usbSuspend
  /-- SMBUS_BLOCK_READ -/
  | smbusBlockRead (addr : BitVec 7) (code : Byte) (pecOk : Bool)
  /-- JOB_DISPATCH -/
  | jobDispatch
  /-- REFILL_TICK -/
  | refillTick
  /-- INVOCATION_START -/
  | invocationStart (b : Nat)
  /-- STANDING_BOUNDARY -/
  | standingBoundary (b : Nat)
  /-- STANDING_RELEASE -/
  | standingRelease (b : Nat)
  /-- DEADLINE_FREEZE -/
  | deadlineFreeze (t : Nat) (cut : Nat)
  /-- MAILBOX_PUBLISH -/
  | mailboxPublish (b : Nat)
  /-- BUDGET_WATCHDOG_EXPIRY -/
  | budgetWatchdogExpiry (t : Nat)
  /-- CONTEXT_SWITCH -/
  | contextSwitch (t : Nat)
  /-- CONTEXT_EVICT -/
  | contextEvict (t : Nat)
  /-- CONTEXT_SWAP_IN -/
  | contextSwapIn (t : Nat)
  /-- IDLE_RUNG_STEP -/
  | idleRungStep (t : Nat)
  /-- WAKE_SLOT -/
  | wakeSlot
  /-- BANK_TRANSITION_DONE -/
  | bankTransitionDone (t bank : Nat)
  /-- THERMAL_READING -/
  | thermalReading (temps : List Int)
  /-- NOP -/
  | nop (t : Nat) (f : BitVec 48)
  /-- JEND -/
  | jend (t : Nat) (f : BitVec 48)
  /-- FPBAR -/
  | fpbar (t : Nat) (f : BitVec 48)
  /-- IDLE -/
  | idle (t : Nat) (f : BitVec 48)
  /-- FLGRD -/
  | flgrd (t : Nat) (f : BitVec 48)
  /-- FLGCLR -/
  | flgclr (t : Nat) (f : BitVec 48)
  /-- TRAPW -/
  | trapw (t : Nat) (f : BitVec 48)
  /-- ADD -/
  | add (t : Nat) (f : BitVec 48)
  /-- SUB -/
  | sub (t : Nat) (f : BitVec 48)
  /-- AND -/
  | and (t : Nat) (f : BitVec 48)
  /-- OR -/
  | or (t : Nat) (f : BitVec 48)
  /-- XOR -/
  | xor (t : Nat) (f : BitVec 48)
  /-- SHL -/
  | shl (t : Nat) (f : BitVec 48)
  /-- SHR -/
  | shr (t : Nat) (f : BitVec 48)
  /-- SAR -/
  | sar (t : Nat) (f : BitVec 48)
  /-- MOV -/
  | mov (t : Nat) (f : BitVec 48)
  /-- ADDS -/
  | adds (t : Nat) (f : BitVec 48)
  /-- SUBS -/
  | subs (t : Nat) (f : BitVec 48)
  /-- ADDI -/
  | addi (t : Nat) (f : BitVec 48)
  /-- ANDI -/
  | andi (t : Nat) (f : BitVec 48)
  /-- ORI -/
  | ori (t : Nat) (f : BitVec 48)
  /-- XORI -/
  | xori (t : Nat) (f : BitVec 48)
  /-- SHLI -/
  | shli (t : Nat) (f : BitVec 48)
  /-- SHRI -/
  | shri (t : Nat) (f : BitVec 48)
  /-- SARI -/
  | sari (t : Nat) (f : BitVec 48)
  /-- MOVI -/
  | movi (t : Nat) (f : BitVec 48)
  /-- MOVHI -/
  | movhi (t : Nat) (f : BitVec 48)
  /-- ADDSI -/
  | addsi (t : Nat) (f : BitVec 48)
  /-- MUL -/
  | mul (t : Nat) (f : BitVec 48)
  /-- MULH -/
  | mulh (t : Nat) (f : BitVec 48)
  /-- MULHU -/
  | mulhu (t : Nat) (f : BitVec 48)
  /-- MULHSU -/
  | mulhsu (t : Nat) (f : BitVec 48)
  /-- DIV -/
  | div (t : Nat) (f : BitVec 48)
  /-- DIVU -/
  | divu (t : Nat) (f : BitVec 48)
  /-- REM -/
  | rem (t : Nat) (f : BitVec 48)
  /-- REMU -/
  | remu (t : Nat) (f : BitVec 48)
  /-- CMP -/
  | cmp (t : Nat) (f : BitVec 48)
  /-- PAND -/
  | pand (t : Nat) (f : BitVec 48)
  /-- POR -/
  | por (t : Nat) (f : BitVec 48)
  /-- PXOR -/
  | pxor (t : Nat) (f : BitVec 48)
  /-- PNOT -/
  | pnot (t : Nat) (f : BitVec 48)
  /-- BR -/
  | br (t : Nat) (f : BitVec 48)
  /-- CALL -/
  | call (t : Nat) (f : BitVec 48)
  /-- RET -/
  | ret (t : Nat) (f : BitVec 48)
  /-- LOOP -/
  | loop (t : Nat) (f : BitVec 48)
  /-- LD_W -/
  | ldW (t : Nat) (f : BitVec 48)
  /-- LD_D -/
  | ldD (t : Nat) (f : BitVec 48)
  /-- ST_W -/
  | stW (t : Nat) (f : BitVec 48)
  /-- ST_D -/
  | stD (t : Nat) (f : BitVec 48)
  /-- TBREAD_S -/
  | tbreadS (t : Nat) (f : BitVec 48)
  /-- TBREAD_L -/
  | tbreadL (t : Nat) (f : BitVec 48)
  /-- TBDL -/
  | tbdl (t : Nat) (f : BitVec 48)
  /-- TBWAIT -/
  | tbwait (t : Nat) (f : BitVec 48)
  /-- MBWR -/
  | mbwr (t : Nat) (f : BitVec 48)
  /-- COPEN -/
  | copen (t : Nat) (f : BitVec 48)
  /-- CCLOSE -/
  | cclose (t : Nat) (f : BitVec 48)
  /-- CFILL -/
  | cfill (t : Nat) (f : BitVec 48)
  /-- CHEAD -/
  | chead (t : Nat) (f : BitVec 48)
  /-- CLAST -/
  | clast (t : Nat) (f : BitVec 48)
  /-- CPOPN -/
  | cpopn (t : Nat) (f : BitVec 48)
  /-- CPUSHN -/
  | cpushn (t : Nat) (f : BitVec 48)
  /-- CWAIT -/
  | cwait (t : Nat) (f : BitVec 48)
  /-- CDRAIN -/
  | cdrain (t : Nat) (f : BitVec 48)
  /-- VRAND -/
  | vrand (t : Nat) (f : BitVec 48)
  /-- HSHA -/
  | hsha (t : Nat) (f : BitVec 48)
  /-- HWAIT -/
  | hwait (t : Nat) (f : BitVec 48)
  /-- BANKPWR -/
  | bankpwr (t : Nat) (f : BitVec 48)
  /-- BPWAIT -/
  | bpwait (t : Nat) (f : BitVec 48)
  /-- VADD -/
  | vadd (t : Nat) (f : BitVec 48)
  /-- VSUB -/
  | vsub (t : Nat) (f : BitVec 48)
  /-- VAND -/
  | vand (t : Nat) (f : BitVec 48)
  /-- VOR -/
  | vor (t : Nat) (f : BitVec 48)
  /-- VXOR -/
  | vxor (t : Nat) (f : BitVec 48)
  /-- VSHL -/
  | vshl (t : Nat) (f : BitVec 48)
  /-- VSHR -/
  | vshr (t : Nat) (f : BitVec 48)
  /-- VSAR -/
  | vsar (t : Nat) (f : BitVec 48)
  /-- VADDS -/
  | vadds (t : Nat) (f : BitVec 48)
  /-- VSUBS -/
  | vsubs (t : Nat) (f : BitVec 48)
  /-- VMUL_I -/
  | vmulI (t : Nat) (f : BitVec 48)
  /-- VMULS -/
  | vmuls (t : Nat) (f : BitVec 48)
  /-- VMIN -/
  | vmin (t : Nat) (f : BitVec 48)
  /-- VMAX -/
  | vmax (t : Nat) (f : BitVec 48)
  /-- VCMP -/
  | vcmp (t : Nat) (f : BitVec 48)
  /-- VSEL -/
  | vsel (t : Nat) (f : BitVec 48)
  /-- VNEG -/
  | vneg (t : Nat) (f : BitVec 48)
  /-- VABS -/
  | vabs (t : Nat) (f : BitVec 48)
  /-- VBCAST -/
  | vbcast (t : Nat) (f : BitVec 48)
  /-- VADD_F -/
  | vaddF (t : Nat) (f : BitVec 48)
  /-- VSUB_F -/
  | vsubF (t : Nat) (f : BitVec 48)
  /-- VMUL_F -/
  | vmulF (t : Nat) (f : BitVec 48)
  /-- VMULA_F -/
  | vmulaF (t : Nat) (f : BitVec 48)
  /-- VMIN_F -/
  | vminF (t : Nat) (f : BitVec 48)
  /-- VMAX_F -/
  | vmaxF (t : Nat) (f : BitVec 48)
  /-- VMINNUM -/
  | vminnum (t : Nat) (f : BitVec 48)
  /-- VMAXNUM -/
  | vmaxnum (t : Nat) (f : BitVec 48)
  /-- VCMP_F -/
  | vcmpF (t : Nat) (f : BitVec 48)
  /-- VSEL_F -/
  | vselF (t : Nat) (f : BitVec 48)
  /-- VNEG_F -/
  | vnegF (t : Nat) (f : BitVec 48)
  /-- VABS_F -/
  | vabsF (t : Nat) (f : BitVec 48)
  /-- VCPYSGN -/
  | vcpysgn (t : Nat) (f : BitVec 48)
  /-- VCVT -/
  | vcvt (t : Nat) (minor : Byte) (f : BitVec 48)
  /-- VLD -/
  | vld (t : Nat) (f : BitVec 48)
  /-- VST -/
  | vst (t : Nat) (f : BitVec 48)
  /-- VMOVG -/
  | vmovg (t : Nat) (f : BitVec 48)
  /-- VQB -/
  | vqb (t : Nat) (f : BitVec 48)
  /-- VDQB -/
  | vdqb (t : Nat) (f : BitVec 48)
  /-- VREQ -/
  | vreq (t : Nat) (f : BitVec 48)
  /-- VCLAMP -/
  | vclamp (t : Nat) (f : BitVec 48)
  /-- VRED_ADD_F -/
  | vredAddF (t : Nat) (f : BitVec 48)
  /-- VRED_ADD_I -/
  | vredAddI (t : Nat) (f : BitVec 48)
  /-- VRED_MAX_F -/
  | vredMaxF (t : Nat) (f : BitVec 48)
  /-- TSTORE -/
  | tstore (t : Nat) (minor : Byte) (f : BitVec 48)
  /-- MMUL -/
  | mmul (t : Nat) (f : BitVec 48)
  /-- MMULZ -/
  | mmulz (t : Nat) (f : BitVec 48)
  /-- FCHOL -/
  | fchol (t : Nat) (f : BitVec 48)
  /-- FLDL -/
  | fldl (t : Nat) (f : BitVec 48)
  /-- FQR -/
  | fqr (t : Nat) (f : BitVec 48)
  /-- FGIVENS -/
  | fgivens (t : Nat) (f : BitVec 48)
  /-- FTRSV -/
  | ftrsv (t : Nat) (f : BitVec 48)
  /-- FUPDATE -/
  | fupdate (t : Nat) (f : BitVec 48)
  /-- DPUSH -/
  | dpush (t : Nat) (f : BitVec 48)
  /-- DWAIT -/
  | dwait (t : Nat) (f : BitVec 48)
  /-- DQCFG -/
  | dqcfg (t : Nat) (f : BitVec 48)
  /-- CMINIT -/
  | cminit (t : Nat) (f : BitVec 48)
  /-- CMOFFER -/
  | cmoffer (t : Nat) (f : BitVec 48)
  /-- CMSTAT -/
  | cmstat (t : Nat) (f : BitVec 48)
  /-- DMA_DESCRIPTOR_DONE -/
  | dmaDescriptorDone (t q : Nat)
  /-- RECEIVE_PUSH -/
  | receivePush (t coil : Nat) (src : PushSrc) (prod : Nat) (n6 : BitVec 6) (d : List Byte)
  /-- ATOMIC_ADD -/
  | atomicAdd (t coil word : Nat) (fp : Bool) (ws : List (BitVec 32))
  /-- STORE_SCRUB -/
  | storeScrub (t store off : Nat)
  /-- UNIT_FAILURE -/
  | unitFailure (kind : UnitKind) (n : Nat)
  /-- TILE_CTL_BCONF_CLEAR -/
  | tileCtlBconfClear (h : Header) (t : Nat)
  /-- HBM_SCRUB -/
  | hbmScrub (addr : Nat)
  /-- HBM_REFRESH -/
  | hbmRefresh (pc bank : Nat)
  /-- SLOT_START -/
  | slotStart (e sl : Nat)
  /-- SLOT_SAMPLE -/
  | slotSample (e sl : Nat)
  /-- SLOT_COMMIT -/
  | slotCommit (e sl : Nat)
  /-- LE_SLOT_MODE_AUTO -/
  | leSlotModeAuto (h : Header) (e sl : Nat) (auto : Bool)
  /-- LE_SLOT_MODE_FB_EXIT -/
  | leSlotModeFbExit (h : Header) (e sl : Nat)
  /-- LE_SLOT_MODE_MAN_FROM_LAST -/
  | leSlotModeManFromLast (h : Header) (e sl : Nat)
  /-- LE_SLOT_MAN_WRITE -/
  | leSlotManWrite (h : Header) (e sl : Nat) (v : BitVec 64)
  /-- LE_SLOT_FB_WRITE -/
  | leSlotFbWrite (h : Header) (e sl : Nat) (v : BitVec 64)
  /-- LE_SLOT_BANK_WRITE -/
  | leSlotBankWrite (h : Header) (e sl : Nat) (bankB : Bool) (word : Nat) (v : BitVec 64)
  /-- CONVERT_PULSE -/
  | convertPulse (n : Nat)
  /-- WORD_RECEIVED -/
  | wordReceived (n word nbits lastBit : Nat)
  /-- LANE_SAMPLE -/
  | laneSample (n : Nat) (bits : List Bool)
  /-- SNS_LANE_SWAP -/
  | snsLaneSwap (h : Header) (n : Nat) (v : BitVec 64)
  /-- MODULATOR_LOSS -/
  | modulatorLoss (n : Nat)
  /-- OC_EXCEEDANCE -/
  | ocExceedance (n : Nat) (bits : List Bool)
  /-- TRIP_INPUT -/
  | tripInput (n : Nat) (low : Bool) (width : Nat)
  /-- PWM_TRIP_SW -/
  | pwmTripSw (h : Header) (raise : Bool)
  /-- TRIP_LATCH_CLEAR -/
  | tripLatchClear (h : Header) (n : Nat)
  /-- PAIR_RESUME -/
  | pairResume (n : Nat)
  /-- SHADOW_LOAD -/
  | shadowLoad (n : Nat)
  /-- DOWNLINK_SEND -/
  | downlinkSend (l : Nat)
  /-- UPLINK_RECEIVED -/
  | uplinkReceived (l : Nat) (rd : Bool) (groups : List (BitVec 10))
  /-- UPLINK_PUSH -/
  | uplinkPush (l : Nat)
  /-- BEACON_SEND -/
  | beaconSend (l : Nat)
  /-- BEACON_ECHO_RECEIVED -/
  | beaconEchoReceived (l : Nat) (rd : Bool) (groups : List (BitVec 10)) (rtt : Nat)
  /-- LINK_SYNC -/
  | linkSync (l : Nat)
  /-- SYNC_LOST -/
  | syncLost (l : Nat)
  /-- TIMEBASE_TICK -/
  | timebaseTick
  /-- COUNTER_STEP -/
  | counterStep
  /-- PTP_SYNC_RECEIVED -/
  | ptpSyncReceived (port : Nat) (m : PtpMsg)
  /-- PTP_FOLLOW_UP_RECEIVED -/
  | ptpFollowUpReceived (port : Nat) (m : PtpMsg)
  /-- PTP_DELAY_RESP_RECEIVED -/
  | ptpDelayRespReceived (port : Nat) (m : PtpMsg)
  /-- PTP_ANNOUNCE_RECEIVED -/
  | ptpAnnounceReceived (port : Nat) (m : PtpMsg)
  /-- PTP_DELAY_REQ_RECEIVED -/
  | ptpDelayReqReceived (port : Nat) (m : PtpMsg)
  /-- DELAY_REQ_SEND -/
  | delayReqSend (port : Nat)
  /-- SYNC_SEND -/
  | syncSend (port : Nat)
  /-- ANNOUNCE_SEND -/
  | announceSend (port : Nat)
  /-- HOLDOVER_ENTRY -/
  | holdoverEntry
  /-- TC_FORWARD -/
  | tcForward (port : Nat) (m : PtpMsg) (egress : Int)
  /-- TC_RESIDENCE_TIMEOUT -/
  | tcResidenceTimeout (port : Nat) (sid : Nat) (seqId : BitVec 16)
  /-- ETH_FRAME_RECEIVED -/
  | ethFrameReceived (port : Nat) (fr : EthFrame)
  /-- ETH_CTL_WRITE -/
  | ethCtlWrite (h : Header) (port : Nat) (v : BitVec 64)
  /-- TB_SERVO_WRITE -/
  | tbServoWrite (h : Header) (v : BitVec 64)
  /-- PPS_IN_EDGE -/
  | ppsInEdge
  /-- PPS_OUT_EDGE -/
  | ppsOutEdge
  /-- HEARTBEAT_SEND -/
  | heartbeatSend
  /-- HEARTBEAT_INTERVAL_END -/
  | heartbeatIntervalEnd
  /-- LEAVING_RECEIVED -/
  | leavingReceived
  /-- PEER_ACTIVE_CHANGE -/
  | peerActiveChange (level : Bool)
  /-- PROMOTION -/
  | promotion
  /-- FLIT_RECEIVED -/
  | flitReceived (fl : List Byte)
  /-- NAK_RECEIVED -/
  | nakReceived (ackd : BitVec 16)
  /-- TIMEBASE_LOCK_RECEIVED -/
  | timebaseLockReceived (egress arrival : Int) (resent : Bool)
  /-- COMMIT_ENTRY_RECEIVED -/
  | commitEntryReceived (en : List Byte)
  /-- LOOP_SHADOW_RECEIVED -/
  | loopShadowReceived (e sl : Nat) (image : List Byte) (crc : BitVec 32)
  /-- CATCHUP -/
  | catchup (b : Nat) (data : List (Nat × List Byte))
  /-- WATCHDOG_EXPIRY -/
  | watchdogExpiry
  /-- MG_RESET_CTL_WARM -/
  | mgResetCtlWarm (h : Header)
  /-- MG_RESET_CTL_HEALTH_CLEAR -/
  | mgResetCtlHealthClear (h : Header)
  /-- POWER_ON_RESET -/
  | powerOnReset
  /-- WARM_RESET -/
  | warmReset (cause : Nat)
  /-- RESET_RELEASE -/
  | resetRelease (bootSel : BitVec 3) (twinPref : Bool) (pwmSafe : BitVec 2) (failedTiles : List Nat)
  /-- ENTER_SERVICE -/
  | enterService
  /-- EVC_CTL_FREEZE -/
  | evcCtlFreeze (h : Header) (fz : Bool)
  /-- EVC_CTL_CLEAR_ALL -/
  | evcCtlClearAll (h : Header)
  /-- EVC_SEL_WRITE -/
  | evcSelWrite (h : Header) (tile : Option Nat) (n : Nat) (v : BitVec 64)
  /-- TWIN_LINK_TRAINED -/
  | twinLinkTrained
  /-- TWIN_LANE_LOCK_LOSS -/
  | twinLaneLockLoss (lane : Nat)
  /-- ETH_PCS_LOCK_CHANGE -/
  | ethPcsLockChange (port : Nat) (link fec : Bool)
  /-- USB_LINK_TRAINED -/
  | usbLinkTrained (speed : BitVec 3)
  /-- USB_RESUME -/
  | usbResume
  /-- U1_U2_REQUEST -/
  | u1U2Request (u2 : Bool)
  /-- MANCHESTER_CODE_VIOLATION -/
  | manchesterCodeViolation (n : Nat)
  /-- MODULATOR_CLOCK_RETURN -/
  | modulatorClockReturn (n : Nat)
  /-- PREFETCH_DROPPED -/
  | prefetchDropped (rq : Nat)
  /-- AGE_PROMOTION -/
  | agePromotion (rq : Nat)
  /-- HEARTH_PIN_DONE -/
  | hearthPinDone (q sq : Nat)
  /-- DATA_GET_DONE -/
  | dataGetDone (q sq : Nat)
  /-- FW_LOAD_DONE -/
  | fwLoadDone
  /-- TRNG_HEALTH_FAIL -/
  | trngHealthFail (fail : Bool)
  deriving DecidableEq, Repr

end Sys2Proof
end

