-- ==== Sys2Proof/Decode.lean ====
section
/-!
DEFINITION. The command that a word of the opcode table spells. The block has no instruction decoder of a
processor's kind, and no row of spec/opcode_table.json gives bits: a command arrives as a packet (10 R318), a frame,
a pin level or an event, which the operands of `Instr` hold.
-/

set_option Elab.async false

namespace Sys2Proof

/-- No row of the table gives bits, so no word spells a command. -/
def decodeTableWord (_nbits _w : Nat) : Option Instr := none

end Sys2Proof
end

