-- ==== Sys2Proof/Config.lean ====
section
/-!
DEFINITION. What the device fixes or leaves open, with no value that a proof can see.
A definition without a body is a free value: a statement holds for every value of it.
-/

set_option Elab.async false

namespace Sys2Proof.Config

open Sys2Proof

/-- The ordering code: true is PX64-E, false is PX64-S (00 R1, 15 R515). -/
opaque extended : Bool

/-- Firmware's expected MISR signature of a domain kind and a pattern set (14 R483; not printed in the spec). -/
opaque misr : Nat → BitVec 2 → W64

/-- The estimate of an invocation's energy in cones, from cycles and per-engine energies held in the firmware
(11 R370; not printed in the spec); the index is fresh for each job. -/
opaque energy : Nat → Nat

/-- The matrix command block of ga to ga+3: its layout is not in the spec (05 R160). In order: 1 when it is well formed,
the datapath (0 INT8, 1 INT4, 2 FP16, 3 FP32), 1 for signed weights, 1 for signed activations, 1 for block-quantised
weights, offset and bytes of the weights in the W-store (of the descriptor when block-quantised), offset and bytes of the
activations in the A-store, offset and bytes of the sums in the P-store, weight tiles along the inputs and along the
outputs, columns, and 1 plus the output coil or 0. -/
opaque matBlock : W64 → W64 → W64 → W64 → List Nat

/-- The place of a weight (input, output), an activation (column, input) and a sum (column, output) among the elements of
their ranges, for a matrix block: not in the spec. -/
opaque matPlace : List Nat → Nat → Nat → Nat → Nat

/-- The signature by an identity key over a report body, with a salt of the given draw (15 R512): the RSASSA-PSS signature of R502; how the
key's bytes give its private exponent is not stated. -/
opaque identitySign : List Byte → List Byte → Nat → List Byte

/-- The public modulus of the signer check: SHA-512 of the vendor root key, fixed in mask ROM (15 R502). -/
opaque vendorKeyHash : List Byte

/-- Values that the spec leaves open: one for each draw. -/
opaque free64 : Nat → W64

/-- The device secret that the fuzzy extractor reconstructs from this device's SRAM and the helper data of an identity area, none where it
fails (15 R509). -/
opaque pufSecret : List Byte → Option (List Byte)

/-- The wrapped identity key of an identity area and its code: their places there are not stated (15 R500, R509). -/
opaque wrappedKey : List Byte → List Byte × List Byte

/-- Whether the host enables remote wake as it suspends the link (16 R521). -/
opaque remoteWake : Nat → Bool


/-- The device certificate, 1,088 bytes, in the identity area (15 R510): its place there is not stated. -/
opaque certificate : List Byte → List Byte

/-- The one-way delay of the twin link that the timebase-lock exchange removes, in 2^-16 ns (12 R409, 16 R536; how
the exchange measures it is not stated). -/
opaque twinDelay : Int

/-- The cycles of SOLVE_QP up to the CMOFFER of its first check iteration beside the factor unit's, for n, m and check (11 R354; not
printed), and those of SOLVE_LS and ESTIMATE beside the factor unit's, by opcode and the word of the dimensions. -/
opaque builtinRest : Nat → W64 → Nat

/-- The destination address of witness and telemetry frames (12 R418; 16 R523), which is not stated. -/
opaque streamDst : BitVec 48

opaque firstOffer : Nat → Nat → Nat → Nat

/-- The word staged for a committed value that is NaN, which bounds that are NaN give (06 R209 states none). -/
opaque nanSetpoint : W32 → W32

/-- The program digest of a built-in solver image, by opcode and word: the images are firmware (06 R186). -/
opaque builtinDigest : Nat → Nat → W64

/-- The budget of a built-in solver image in tile cycles, by opcode and dimensions (11 R354; only its parts of 06 R191 are
printed), and the energy that it declares. -/
opaque builtinCycles : Nat → W64 → Nat
opaque builtinCones : Nat → W64 → Nat

/-- The cycles of an iteration of SOLVE_QP beside the factor unit's, for n, m and the batch (06 R221 prints them for one size), and the
cycles that are left to the deadline at a check iteration of a job, by its acceptance stamp and the iteration (06 R201). -/
opaque iterationRest : Nat → Nat → Nat → Nat
opaque cyclesLeft : Nat → Nat → Nat

/-- The measurement coil of ESTIMATE, by the word of its dimensions (06 R219): no rule names it. -/
opaque measurementCoil : W64 → Option Nat

/-- Whether the ACTIVE device is in FREE when it sends a timebase-lock message (01 R34: both report holdover; what the message
says of it is not stated). -/
opaque peerFree : Nat → Bool

/-- Where in the device region an item begins, in bursts of 32 bytes: its layout is internal (10 R316). Kinds: 0 captured inputs of
a queue and sequence number, 1 their record, 2 a commit entry by its index, 3 a journal slot, 4 an entry of the witness buffer by
its number, 5 an entry of a submission ring by its queue and sequence number. -/
opaque devPlace : Nat → Nat → Nat → Nat

/-- The TWIN_PREF strap of the peer: a fact of the board (14 R456). -/
opaque peerPref : Bool

/-- Whether the peer allows an ATTACH now: its allow_attach, and the copy sets of its bindings (14 R460, R461), which no
heartbeat carries. -/
opaque peerAllows : Nat → Bool

/-- Whether the captured inputs or the record of an accepted command lay on a pseudo-channel that failed (13 R434): where they lie
in the device region is not stated. -/
opaque onFailedChannel : Nat → Bool

/-- Whether the lost ACTIVE device had dispatched a job (14 R469): no message of the twin link says so. -/
opaque hadDispatched : Nat → Bool

/-- What the bytes of a twin-link message say (14 R457): their layouts are not stated. Role and pair state of a heartbeat as the
codes of TW_STAT; a role-change message as a number (1 LEAVING, 2 ROLE_SWAP, 3 a pair state, 4 a request for a copy set) and its argument; a mirrored
submission as packet, captured inputs, acceptance stamp and sequence number, or none for an ACK command. -/
opaque heartbeatRole : List Byte → Nat
opaque heartbeatPair : List Byte → Nat
opaque roleMessage : List Byte → Nat × Nat
opaque mirrored : List Byte → List Byte × Option (List Byte × Nat × Nat)

/-- The bytes of a twin-link message of a class whose layout is not stated (14 R457), and those of a timebase-lock message with the
egress stamp of its flit in 2^-16 ns (16 R536). -/
opaque twinBytes : Nat → Nat → List Byte
opaque lockBytes : Int → List Byte

/-- ESTIMATE by recursive least squares (06 R220): the rows of P held as LDLᵀ that the array P of the problem data gives, the
array that shows such rows, and the regressors with their targets in the problem data. 10 R344 lays out the data of the Kalman filter
only. -/
opaque rlsFactor : Nat → List W32 → List (List W32)
opaque rlsArray : Nat → List (List W32) → List W32
opaque rlsData : W64 → List Byte → Nat → List (List W32 × W32)

end Sys2Proof.Config
end

