-- ==== Sys2Proof/Machine/Bits.lean ====
section
/-!
DEFINITION. Bit fields, byte order, sign extension and saturation (00 R4, R5; 07 R226).
-/

set_option Elab.async false

namespace Sys2Proof.Machine

open Sys2Proof

/-- Field of `n` bits from bit `lo` of a word, as a number (00 R4). -/
def fld {w : Nat} (x : BitVec w) (lo n : Nat) : Nat := (x.toNat >>> lo) % 2 ^ n

/-- The same field, as a signed number. -/
def sfld {w : Nat} (x : BitVec w) (lo n : Nat) : Int := (BitVec.ofNat n (fld x lo n)).toInt

/-- Bit `n` of a word. -/
def bit {w : Nat} (x : BitVec w) (n : Nat) : Bool := x.getLsbD n

/-- A word with the field `[lo + n - 1 : lo]` replaced. -/
def setFld {w : Nat} (x : BitVec w) (lo n v : Nat) : BitVec w :=
  (x &&& ~~~(BitVec.ofNat w ((2 ^ n - 1) <<< lo))) ||| BitVec.ofNat w ((v % 2 ^ n) <<< lo)

/-- Bits of `old` outside `m`, bits of `v` inside it. -/
def mask64 (old v m : W64) : W64 := (old &&& ~~~m) ||| (v &&& m)

/-- A number shifted into its place in a register image. -/
def at64 (v lo : Nat) : W64 := BitVec.ofNat 64 (v <<< lo)

def b2n (b : Bool) : Nat := if b then 1 else 0

/-- The little-endian bytes of a number (00 R5). -/
def leBytes : Nat → Nat → List Byte
  | 0, _ => []
  | n + 1, x => BitVec.ofNat 8 x :: leBytes n (x / 256)

/-- The number little-endian bytes give (00 R5). -/
def leNat : List Byte → Nat
  | [] => 0
  | b :: bs => b.toNat + 256 * leNat bs

/-- The number big-endian bytes give, the order of PKCS #1 (15 R501) and of SHA-512. -/
def beNat (bs : List Byte) : Nat := bs.foldl (fun a b => a * 256 + b.toNat) 0

/-- The big-endian bytes of a number. -/
def beBytes (n x : Nat) : List Byte := (leBytes n x).reverse

/-- `n` bytes of a list from offset `o`; bytes beyond its end read zero. -/
def slice (o n : Nat) (bs : List Byte) : List Byte := (List.range n).map (fun j => bs.getD (o + j) 0)

/-- The little-endian number of `n` bytes at offset `o`. -/
def leAt (o n : Nat) (bs : List Byte) : Nat := leNat ((bs.drop o).take n)

def w64At (o : Nat) (bs : List Byte) : W64 := BitVec.ofNat 64 (leAt o 8 bs)
def w32At (o : Nat) (bs : List Byte) : W32 := BitVec.ofNat 32 (leAt o 4 bs)

def w32Bytes (x : W32) : List Byte := leBytes 4 x.toNat
def w64Bytes (x : W64) : List Byte := leBytes 8 x.toNat

/-- Rounds up to a multiple of `m`. -/
def roundUp (m x : Nat) : Nat := (x + m - 1) / m * m

def zeros (n : Nat) : List Byte := List.replicate n 0

/-- Clamps to `[lo, hi]`, taking `hi` when the limits cross (07 R230, R234). -/
def clampI (x lo hi : Int) : Int := if x > hi then hi else if x < lo then (if lo > hi then hi else lo) else x

/-- SAT32 of 07 R226. -/
def sat32 (x : Int) : Int := clampI x (-2147483648) 2147483647

/-- SAT64 of 07 R226. -/
def sat64 (x : Int) : Int := clampI x (-9223372036854775808) 9223372036854775807

/-- RSH of 07 R226: an arithmetic shift whose ties round toward +∞. -/
def rsh (p : Int) (n : Nat) : Int := if n = 0 then p else (p + 2 ^ (n - 1)) / 2 ^ n

def i32 (x : Int) : W32 := BitVec.ofInt 32 x
def i64 (x : Int) : W64 := BitVec.ofInt 64 x

/-- Counts up, holding at the largest value (the saturating counters of the registers). -/
def satAdd {w : Nat} (x : BitVec w) (n : Nat) : BitVec w := if x.toNat + n < 2 ^ w then BitVec.ofNat w (x.toNat + n) else BitVec.allOnes w

/-- Truncated division, toward zero (05 R117, 07 R233). -/
def tdiv (a b : Int) : Int := Int.tdiv a b

end Sys2Proof.Machine
end

