-- ==== Sys2Proof/Machine/Crypto.lean ====
section
/-!
DEFINITION. The digests, checks and signatures the spec names: SHA-512 (10 R347, 12 R416, 15 R501), RSASSA-PSS
with RSA-4096 (15 R502) and CRC-32C (07 R246, 09 R293, 14 R457). Their algorithms are PRESUMED from the standards
that the spec names (log entry 9).
-/

set_option Elab.async false

namespace Sys2Proof.Machine

open Sys2Proof

/-! ## SHA-512 -/

/-- The eight initial hash words of FIPS 180-4. -/
def shaH0 : List W64 :=
  [0x6A09E667F3BCC908, 0xBB67AE8584CAA73B, 0x3C6EF372FE94F82B, 0xA54FF53A5F1D36F1,
   0x510E527FADE682D1, 0x9B05688C2B3E6C1F, 0x1F83D9ABFB41BD6B, 0x5BE0CD19137E2179]

/-- Round constants 0 to 15. -/
def shaK0 : List W64 :=
  [0x428A2F98D728AE22, 0x7137449123EF65CD, 0xB5C0FBCFEC4D3B2F, 0xE9B5DBA58189DBBC,
   0x3956C25BF348B538, 0x59F111F1B605D019, 0x923F82A4AF194F9B, 0xAB1C5ED5DA6D8118,
   0xD807AA98A3030242, 0x12835B0145706FBE, 0x243185BE4EE4B28C, 0x550C7DC3D5FFB4E2,
   0x72BE5D74F27B896F, 0x80DEB1FE3B1696B1, 0x9BDC06A725C71235, 0xC19BF174CF692694]

/-- Round constants 16 to 31. -/
def shaK1 : List W64 :=
  [0xE49B69C19EF14AD2, 0xEFBE4786384F25E3, 0x0FC19DC68B8CD5B5, 0x240CA1CC77AC9C65,
   0x2DE92C6F592B0275, 0x4A7484AA6EA6E483, 0x5CB0A9DCBD41FBD4, 0x76F988DA831153B5,
   0x983E5152EE66DFAB, 0xA831C66D2DB43210, 0xB00327C898FB213F, 0xBF597FC7BEEF0EE4,
   0xC6E00BF33DA88FC2, 0xD5A79147930AA725, 0x06CA6351E003826F, 0x142929670A0E6E70]

/-- Round constants 32 to 47. -/
def shaK2 : List W64 :=
  [0x27B70A8546D22FFC, 0x2E1B21385C26C926, 0x4D2C6DFC5AC42AED, 0x53380D139D95B3DF,
   0x650A73548BAF63DE, 0x766A0ABB3C77B2A8, 0x81C2C92E47EDAEE6, 0x92722C851482353B,
   0xA2BFE8A14CF10364, 0xA81A664BBC423001, 0xC24B8B70D0F89791, 0xC76C51A30654BE30,
   0xD192E819D6EF5218, 0xD69906245565A910, 0xF40E35855771202A, 0x106AA07032BBD1B8]

/-- Round constants 48 to 63. -/
def shaK3 : List W64 :=
  [0x19A4C116B8D2D0C8, 0x1E376C085141AB53, 0x2748774CDF8EEB99, 0x34B0BCB5E19B48A8,
   0x391C0CB3C5C95A63, 0x4ED8AA4AE3418ACB, 0x5B9CCA4F7763E373, 0x682E6FF3D6B2B8A3,
   0x748F82EE5DEFB2FC, 0x78A5636F43172F60, 0x84C87814A1F0AB72, 0x8CC702081A6439EC,
   0x90BEFFFA23631E28, 0xA4506CEBDE82BDE9, 0xBEF9A3F7B2C67915, 0xC67178F2E372532B]

/-- Round constants 64 to 79. -/
def shaK4 : List W64 :=
  [0xCA273ECEEA26619C, 0xD186B8C721C0C207, 0xEADA7DD6CDE0EB1E, 0xF57D4F7FEE6ED178,
   0x06F067AA72176FBA, 0x0A637DC5A2C898A6, 0x113F9804BEF90DAE, 0x1B710B35131C471B,
   0x28DB77F523047D84, 0x32CAAB7B40C72493, 0x3C9EBE0A15C9BEBC, 0x431D67C49C100D4C,
   0x4CC5D4BECB3E42B6, 0x597F299CFC657E2A, 0x5FCB6FAB3AD6FAEC, 0x6C44198C4A475817]

def shaK : List W64 := shaK0 ++ shaK1 ++ shaK2 ++ shaK3 ++ shaK4

def ror64 (x : W64) (n : Nat) : W64 := (x >>> n) ||| (x <<< (64 - n))

/-- The next word of the message schedule, from the last sixteen, newest first. -/
def shaNextW (w : List W64) : W64 :=
  let a := w.getD 1 0
  let b := w.getD 14 0
  (ror64 a 19 ^^^ ror64 a 61 ^^^ (a >>> 6)) + w.getD 6 0 +
    (ror64 b 1 ^^^ ror64 b 8 ^^^ (b >>> 7)) + w.getD 15 0

/-- The eight working variables after one round. -/
def shaRound (v : List W64) (k w : W64) : List W64 :=
  match v with
  | [a, b, c, d, e, f, g, h] =>
    let t1 := h + (ror64 e 14 ^^^ ror64 e 18 ^^^ ror64 e 41) + ((e &&& f) ^^^ (~~~e &&& g)) + k + w
    let t2 := (ror64 a 28 ^^^ ror64 a 34 ^^^ ror64 a 39) + ((a &&& b) ^^^ (a &&& c) ^^^ (b &&& c))
    [t1 + t2, a, b, c, d + t1, e, f, g]
  | _ => v

/-- The rounds with the constants `ks`; `win` holds the last sixteen words, newest first, and `todo` the words of the
block not yet used. -/
def shaRounds : List W64 → List W64 → List W64 → List W64 → List W64
  | [], _, _, v => v
  | k :: ks, todo, win, v =>
    match todo with
    | w :: todo' => shaRounds ks todo' ((w :: win).take 16) (shaRound v k w)
    | [] => shaRounds ks [] ((shaNextW win :: win).take 16) (shaRound v k (shaNextW win))

/-- The big-endian 64-bit words of a byte list. -/
def beWords : Nat → List Byte → List W64
  | 0, _ => []
  | n + 1, bs => BitVec.ofNat 64 (beNat (bs.take 8)) :: beWords n (bs.drop 8)

def shaBlock (h : List W64) (blk : List Byte) : List W64 :=
  (h.zip (shaRounds shaK (beWords 16 blk) [] h)).map (fun p => p.1 + p.2)

def shaBlocks : Nat → List W64 → List Byte → List W64
  | 0, h, _ => h
  | n + 1, h, bs => shaBlocks n (shaBlock h (bs.take 128)) (bs.drop 128)

def shaPad (m : List Byte) : List Byte :=
  let l := m.length
  let z := (239 - l % 128) % 128
  m ++ [0x80] ++ zeros z ++ beBytes 16 (8 * l)

/-- The 64-byte SHA-512 digest. -/
def sha512 (m : List Byte) : List Byte :=
  let p := shaPad m
  ((shaBlocks (p.length / 128) shaH0 p).map (fun w => beBytes 8 w.toNat)).foldr (· ++ ·) []

def xorBytes (a b : List Byte) : List Byte := (a.zip b).map (fun p => p.1 ^^^ p.2)

/-! ## Keys of the security block (15 R505, R508, R509) -/

/-- HMAC-SHA-512. -/
def hmac512 (key msg : List Byte) : List Byte :=
  let k := if 128 < key.length then sha512 key else key
  let pad := fun (b : Byte) => xorBytes (k ++ zeros (128 - k.length)) (List.replicate 128 b)
  sha512 (pad 0x5C ++ sha512 (pad 0x36 ++ msg))

/-- SHA-512(secret ‖ label), with an ASCII label. -/
def secKey (secret : List Byte) (label : String) : List Byte := sha512 (secret ++ label.toList.map (fun c => BitVec.ofNat 8 c.toNat))

/-- A SHA-512 counter-mode keystream; the form of the counter is not stated (log entry 212). -/
def keystream (key : List Byte) (n : Nat) : List Byte := ((List.range ((n + 63) / 64)).flatMap (fun i => sha512 (key ++ leBytes 8 i))).take n

/-- The message authentication code that the key of a label makes; without a secret there is none. -/
def macOf (secret : Option (List Byte)) (label : String) (msg : List Byte) : List Byte :=
  match secret with
  | some k => hmac512 (secKey k label) msg
  | none => []

/-- A code verifies under the key of a label; without a secret none does. -/
def macGood (secret : Option (List Byte)) (label : String) (msg mac : List Byte) : Bool := secret.isSome && decide (mac = macOf secret label msg)

/-! ## RSASSA-PSS (15 R502) -/

/-- MGF1 with SHA-512: `n` blocks from counter `c`. -/
def mgf1 (seed : List Byte) : Nat → Nat → List Byte
  | 0, _ => []
  | n + 1, c => sha512 (seed ++ beBytes 4 c) ++ mgf1 seed n (c + 1)

/-- x^(2^k) mod n. -/
def sqMod (n : Nat) : Nat → Nat → Nat
  | 0, x => x % n
  | k + 1, x => sqMod n k (x * x % n)

/-- The check of EMSA-PSS with a 64-byte salt and the trailer 0xBC, for a 4,096-bit modulus. -/
def pssCheck (digest em : List Byte) : Bool :=
  let db := em.take 447
  let h := (em.drop 447).take 64
  let clear := match xorBytes db (mgf1 h 7 0) with
    | b :: bs => (b &&& 0x7F) :: bs
    | [] => []
  decide (em.getD 511 0 = 0xBC) && decide (em.getD 0 0 &&& 0x80 = 0) &&
    decide (clear.take 382 = zeros 382) && decide (clear.getD 382 0 = 1) &&
    decide (h = sha512 (zeros 8 ++ digest ++ clear.drop 383))

/-- RSASSA-PSS verification with exponent 65,537. The modulus and the signature are big-endian byte lists
(15 R501). -/
def pssVerify (modulus msg sig : List Byte) : Bool :=
  let n := beNat modulus
  let s := beNat sig
  if n = 0 ∨ s ≥ n ∨ sig.length ≠ 512 ∨ modulus.length ≠ 512 then false
  else pssCheck (sha512 msg) (beBytes 512 (sqMod n 16 s * s % n))

/-! ## CRC-32C (07 R246, 09 R293) -/

/-- Eight steps of the reflected polynomial. -/
def crcShift (p : W32) : Nat → W32 → W32
  | 0, c => c
  | n + 1, c => crcShift p n (if c.getLsbD 0 then (c >>> 1) ^^^ p else c >>> 1)

def crcBytes (p : W32) : List Byte → W32 → W32
  | [], c => c
  | b :: bs, c => crcBytes p bs (crcShift p 8 (c ^^^ b.setWidth 32))

/-- CRC-32C: reflected polynomial 0x82F63B78, initial value and final exclusive OR all ones. -/
def crc32c (bs : List Byte) : W32 := ~~~(crcBytes 0x82F63B78 bs 0xFFFFFFFF)

/-- CRC-32 of IEEE 802.3 (16 R533): reflected polynomial 0xEDB88320, initial value and final exclusive OR all ones. -/
def crc32 (bs : List Byte) : W32 := ~~~(crcBytes 0xEDB88320 bs 0xFFFFFFFF)

end Sys2Proof.Machine
end

