-- ==== Sys2Proof/Machine/Flags.lean ====
section
/-!
DEFINITION. The bits of the completion flags word and of the flag word of a tile (10 R331, 03 R105, R106).
-/

set_option Elab.async false

namespace Sys2Proof.Machine

open Sys2Proof

namespace Fl

/-- A small pivot was replaced, or p_min raised a variance (10 R331 bit 0). -/
def perturbed : W32 := 0x1
/-- A warm-start blob was rejected (10 R331 bit 1). -/
def coldStart : W32 := 0x2
/-- An integer or storage result was clamped (03 R105). -/
def sat : W32 := 0x4
/-- An escape was refused (04 R136). -/
def grogFull : W32 := 0x8
/-- An element was crushed to code 0 (04 R136). -/
def crushed : W32 := 0x10
/-- An FP32 subnormal was read as zero, or a result was flushed (03 R105). -/
def fz : W32 := 0x20
/-- Inexact (03 R105). -/
def nx : W32 := 0x40
/-- Overflow to infinity (03 R105). -/
def of_ : W32 := 0x80
/-- Tiny and inexact (03 R105). -/
def uf : W32 := 0x100
/-- Invalid (03 R105). -/
def iv : W32 := 0x200
/-- Divide by zero (03 R105). -/
def dz : W32 := 0x400
/-- The work was re-run (10 R331 bit 11). -/
def rerun : W32 := 0x800
/-- A fill deadline passed, or a bank was woken (10 R331 bit 12). -/
def lateFill : W32 := 0x1000
/-- The job waited for cones or ran below rung 4 (10 R331 bit 13). -/
def throttled : W32 := 0x2000
/-- The estimator found no new measurement (10 R331 bit 14). -/
def staleInput : W32 := 0x4000
/-- The work ran from the witness log (10 R331 bit 15). -/
def replayed : W32 := 0x8000

/-- A flag where the condition holds. -/
def when (c : Bool) (f : W32) : W32 := if c then f else 0

/-- Bits 2 and 5 to 10, which an arithmetic operation may raise and the job accumulator reports (03 R107). -/
def arith : W32 := 0x7E4

end Fl

end Sys2Proof.Machine
end

