-- ==== Sys2Proof/Machine/State.lean ====
section
/-!
DEFINITION. The state of the PX-64 as plain data, and the state right after a power-on reset.
Registers with read-write fields are kept as their 64-bit word; status fields are kept by name.
Indexed units stand in sparse tables: an index that is not listed holds the unit's reset value.
Counts of the timebase are in nanoseconds since the start of its scale (12 R400, R401).
-/

set_option Elab.async false

namespace Sys2Proof.Machine

open Sys2Proof

/-- A sparse table: rising indexes, no entry equal to what an unlisted index holds. -/
abbrev Tbl (α : Type) := List (Nat × α)

/-- A byte-addressed memory in the canonical form of `Tbl` (Host.Cell). -/
abbrev Mem := List Host.Cell

/-! ## Packets, completions and queues (10) -/

/-- What a completion carries beside its record: kind, digest and payload of its commit entry (14 R466). -/
structure Effects where
  kind : Nat := 0
  digest : List Byte := List.replicate 64 0
  payload : List Byte := []
  tput : Bool := false
  vals : List Byte := []
  deriving DecidableEq, Repr, Inhabited

/-- Who changed something: the queue, tag, sequence number and opcode of a command, or the device itself (10 R346). -/
structure Cause where
  queue : Nat := 0xFFFF
  tag : BitVec 32 := 0
  seq : Nat := 0
  opcode : Nat := 0xFFFF
  deriving DecidableEq, Repr, Inhabited

/-- What a queue holds after a power-on reset (10 R313): Q0 enabled, depth 256, priority 7; Q16 upward of data class
(log entry 82). -/
def Queue.reset (q : Nat) : Queue :=
  match q with
  | 0 => { enabled := true, prio := 7, depthLog2 := 8 }
  | _ => { dataClass := decide (16 ≤ q) }

/-- A submission that waits for the twin's acknowledgement, or for nothing on a solo device (10 R321). -/
structure Mirror where
  pkt : Packet
  arrival : Nat
  /-- row 7 of 10 R322 as judged on the state at the arrival, with what admission reserved there (11 R352, R353) -/
  admitted : Bool := false
  pin : Option (Nat × Nat × Nat) := none
  deriving DecidableEq, Repr, Inhabited

/-- What the device sends to the host on EP1 IN, in order (10 R325, R329, R348). -/
inductive Ep1In where
  | reply (code : Byte) (queue : BitVec 16) (tag : BitVec 32) (seq : Nat) (reason : Nat) (stamp : Nat)
  | completion (r : Record)
  deriving DecidableEq, Repr, Inhabited

/-- A DATA_GET whose stream is under way (10 R341, 16 R522). -/
structure Stream where
  queue : Nat
  seq : Nat
  src : Nat
  len : Nat
  stream : Nat
  /-- bytes that have been delivered (16 R522) -/
  sent : Nat := 0
  deriving DecidableEq, Repr, Inhabited

/-- The USB port (10 R348 to R350, 16 R519 to R523, R537). -/
structure Usb where
  speed : BitVec 3 := 0
  u3 : Bool := false
  ctl : W64 := 4
  coalesce : BitVec 16 := 0x10
  ep1 : List Ep1In := []
  held : List Ep1In := []
  mapSent : Tbl (List Byte) := []
  ep3 : List (List Byte) := []
  lastPiece : Option Nat := none
  ep2tele : List (List Byte) := []
  ep2wit : List Byte := []
  ep2data : List (Nat × List Byte) := []
  gets : List Stream := []
  wake : Bool := false
  /-- the host has enabled remote wake (16 R521) -/
  remoteWake : Bool := false
  lowPower : Nat := 0
  teleNo : Nat := 0
  deriving DecidableEq, Repr, Inhabited

/-! ## Timebase (12) -/

/-- A leader heard on a port (16 R528). -/
structure Foreign where
  port : Nat
  msg : PtpMsg
  heard : List Nat
  deriving DecidableEq, Repr, Inhabited

/-- The counter and increment saved for a replay: the shadow counter of 12 R422. -/
structure ShadowCtr where
  sec : BitVec 48
  ns : BitVec 30
  frac : BitVec 32
  inc : W64
  deriving DecidableEq, Repr, Inhabited

/-- The timebase island (12 R400 to R410, R424, R425). -/
structure Timebase where
  sec : BitVec 48 := 0
  ns : BitVec 30 := 0
  frac : BitVec 32 := 0
  inc : W64 := 0xAAAAAAAB
  servo : W64 := 0x84300000002E02DD
  servoNext : Option W64 := none
  acc : Int := 0
  theta : Int := 0
  pd : Int := 0
  delays : List Int := []
  incHist : List Nat := []
  modeCfg : BitVec 2 := 0
  modeEff : BitVec 2 := 0
  holdover : Bool := false
  qualified : Bool := false
  timescale : Bool := false
  stepWait : Bool := false
  steps : BitVec 16 := 0
  holdovers : BitVec 16 := 0
  validRun : Nat := 0
  syncIvl : Nat := 1000000000
  /-- how far steps have moved the counter, in nanoseconds (12 R403) -/
  stepped : Int := 0
  lastOffset : Nat := 0
  /-- the interval between Delay_Reqs that the leader advertises, in nanoseconds (16 R529) -/
  reqIvl : Nat := 1000000000
  /-- a STEERED increment that was stored and not applied (01 R34, R36) -/
  steer : Option W64 := none
  /-- acc takes its preset at the next servo update (12 R407) -/
  preset : Bool := false
  /-- acc of the servo that a STANDBY device computes from its own source and does not apply (01 R34) -/
  ptpAcc : Int := 0
  foreign : List Foreign := []
  leader : Option (Nat × BitVec 64) := none
  sync : Option (Nat × PtpMsg) := none
  lastSync : Option (Nat × Int × Int) := none
  delayReq : List (Nat × BitVec 16 × Int) := []
  pps : Bool := false
  shadow : Option ShadowCtr := none
  deriving DecidableEq, Repr, Inhabited

/-- A frame that a port sends (16 R526). -/
inductive EthOut where
  | ptp (kind : PtpKind) (seqId : BitVec 16) (sec ns : Nat) (correction : Int) (fwd : Option PtpMsg)
  | stream (ethertype : BitVec 16) (no : Nat) (first : Nat) (body : List Byte)
  deriving DecidableEq, Repr, Inhabited

/-- An Ethernet port (16 R524 to R531, R538, R539; 12 R411). -/
structure EthPort where
  ctl : W64 := 0x0000008080C00000
  dly : W64 := 0
  mac : W64 := 0
  ip : W64 := 0
  ptpState : BitVec 3 := 0
  linkUp : Bool := false
  fecLock : Bool := false
  rxPtp : BitVec 16 := 0
  rxDropped : BitVec 16 := 0
  tcUnmatched : BitVec 16 := 0
  fcsErr : BitVec 16 := 0
  seqId : BitVec 16 := 0
  residences : List (BitVec 64 × BitVec 16 × BitVec 16 × Int × Nat) := []
  /-- the frames that have left, and their bytes -/
  out : List EthOut := []
  wire : List (List Byte) := []
  /-- frames that wait while another is in transmission, and until when one is (16 R526) -/
  wait : List EthOut := []
  busy : Nat := 0
  /-- when Sync and Announce were sent last, and the interval of the last Delay_Req (16 R529) -/
  syncAt : Option Nat := none
  annAt : Option Nat := none
  reqAt : Option Nat := none
  frameNo : Nat := 0
  teleNo : Nat := 0
  deriving DecidableEq, Repr, Inhabited

/-! ## Management, boot, security (15, 18) -/

/-- The device states of 15 R495. -/
inductive DevState where
  | startUp | service | recovery | test
  deriving DecidableEq, Repr, Inhabited

/-- Why ALERT_N is asserted (11 R374, R375; 13 R434; 14 R453, R470, R477; 07 R246). -/
inductive Alert where
  | standing | critical | roleConflict | promoteBlocked | unit | pseudoChannel | pairCheck | unmapped | watchdog
  deriving DecidableEq, Repr, Inhabited

/-- One change-journal entry is its 64 bytes (10 R346). -/
structure Journal where
  index : W64 := 0
  ring : Tbl (List Byte) := []
  /-- none: the digest of zero bytes, with which the journal starts (10 R347) -/
  digest : Option (List Byte) := none
  deriving DecidableEq, Repr, Inhabited

/-- Failed units kept in the health record, and the HMAC over it (15 R508). -/
structure Health where
  tiles : List Nat := []
  pcs : List Nat := []
  engines : List Nat := []
  groups : List Nat := []
  generation : Nat := 0
  mac : List Byte := []
  deriving DecidableEq, Repr, Inhabited

/-- What the configuration area says (15 R504): its defaults where it is invalid. -/
structure CfgArea where
  good : Bool := false
  cosign : Bool := false
  minFw : Nat := 0
  wait : Nat := 1000
  entries : List (Nat × W64) := []
  owner : List Byte := []
  deriving DecidableEq, Repr, Inhabited

/-- The boot flash (15 R500), external and kept over both resets: the configuration area, both firmware slots, the identity area, of whose
content the enrollment record stands in fields of its own, and the two copies of the health record. -/
structure Flash where
  config : List Byte := []
  slotA : List Byte := []
  slotB : List Byte := []
  identity : List Byte := []
  ownerKey : List Byte := []
  serialFloor : Nat := 0
  /-- the HMAC of the enrollment record (15 R505) -/
  ownerMac : List Byte := []
  /-- the copy of the health record in use, and the other one (15 R508) -/
  health : Health := { }
  healthOld : Health := { }
  deriving DecidableEq, Repr, Inhabited

/-- Firmware load under way (15 R507). -/
structure FwLoad where
  queue : Nat
  seq : Nat
  object : List Byte
  ok : Bool
  deriving DecidableEq, Repr, Inhabited

/-- Management registers, straps, security and boot state (15 R494, R515 to R518; 14 R489; 18 R556). -/
structure Mgmt where
  dev : DevState := .startUp
  inReset : Bool := true
  bootSel : BitVec 3 := 0
  twinPref : Bool := false
  pwmSafe : BitVec 2 := 0
  /-- the live levels of the PWM_SAFE balls (18 R560) -/
  safeBall : BitVec 2 := 0
  fwVersion : BitVec 32 := 0
  cfgSkipped : Byte := 0
  strapErr : Bool := false
  cfgInvalid : Bool := false
  healthReset : Bool := false
  slotB : Bool := false
  resetCause : BitVec 3 := 0
  recoveryWhy : BitVec 3 := 0
  timeWait : Nat := 1000
  startUpTest : Bool := false
  fwStart : Nat := 0
  releasedAt : Nat := 0
  detDefault : W64 := 0
  healthClear : Bool := false
  /-- writes of MG_RESET_CTL.warm whose completions are not released, and the warm resets that are due: count and cause (15 R491) -/
  warmCmd : List (Nat × Nat) := []
  warmAt : List (Nat × Nat) := []
  devregUnc : Bool := false
  unitFault : Bool := false
  wdExpired : Bool := false
  sgFailed : List Nat := []
  leFailed : List Nat := []
  alerts : List Alert := []
  trngFails : BitVec 16 := 0
  trngOk : Bool := false
  identityOk : Bool := false
  pufOk : Bool := false
  /-- the device secret and the identity key: they never leave the security block (15 R509) -/
  secret : Option (List Byte) := none
  idKey : List Byte := []
  /-- the configuration area as the last boot read it (15 R504, R507) -/
  area : CfgArea := { }
  deviceId : List Byte := []
  flash : Flash := { }
  fwDigest : List Byte := []
  cfgDigest : List Byte := []
  load : Option FwLoad := none
  avsFail : Bool := false
  avsIn : Bool := false
  avsMeas : BitVec 16 := 0
  avsSet : BitVec 16 := 0x02EE
  smb : Option (List Byte) := none
  journal : Journal := { }
  deriving DecidableEq, Repr, Inhabited

/-! ## Tiles (02 to 06) -/

/-- Power state of a store bank (11 R381). -/
inductive BankSt where
  | off | retain | on | moving
  deriving DecidableEq, Repr, Inhabited

/-- A request to take a bank to a state; `by_` is the context slot whose BANKPWR made it (05 R173, 11 R382). -/
structure BankReq where
  bank : Nat
  goal : BankSt
  by_ : Option Nat := none
  deriving DecidableEq, Repr, Inhabited

/-- A section of a program image (05 R179). -/
structure Section where
  kind : Nat
  persistent : Bool
  reload : Bool
  store : Nat
  fileOff : Nat
  length : Nat
  storeOff : Nat
  size : Nat
  deriving DecidableEq, Repr, Inhabited

/-- A program image as read at acceptance (05 R177 to R182). -/
structure Image where
  addr : Nat := 0
  bytes : Nat := 0
  flags : BitVec 16 := 0
  structSig : W64 := 0
  wcet : Nat := 0
  cones : Nat := 0
  entry : Nat := 0
  batchMax : Nat := 1
  programDigest : List Byte := []
  weightDigest : List Byte := []
  sections : List Section := []
  deriving DecidableEq, Repr, Inhabited

/-- A unit of work for a tile: an on-demand job or an invocation of a standing job (10 R328, 11 R352 to R360). -/
structure Job where
  queue : Nat := 0
  seq : Nat := 0
  tag : BitVec 32 := 0
  opcode : BitVec 16 := 0
  pkt : Packet := default
  captured : List Byte := []
  image : Image := { }
  tput : Bool := false
  accept : Nat := 0
  deadline : Option Nat := none
  cones : Nat := 0
  budget : Nat := 0
  pin : Option Nat := none
  startAt : Nat := 0
  finishAt : Nat := 0
  prio : Nat := 0
  binding : Option Nat := none
  boundary : Nat := 0
  inv : Nat := 0
  rerun : Bool := false
  throttled : Bool := false
  replayed : Bool := false
  lateFill : Bool := false
  prov : Bool := false
  deriving DecidableEq, Repr, Inhabited

/-- A coil descriptor (02 R63). -/
structure Coil where
  store : Nat := 0
  base : Nat := 0
  size : Nat := 0
  head : Nat := 0
  headLap : Bool := false
  tail : Nat := 0
  tailLap : Bool := false
  accept : BitVec 5 := 0
  policy : BitVec 2 := 0
  receive : Bool := false
  isOpen : Bool := false
  elem : Nat := 0
  refused : BitVec 32 := 0
  overrun : BitVec 32 := 0
  deriving DecidableEq, Repr, Inhabited

/-- An entry of the commit map (06 R205). -/
structure MapEntry where
  lo : W32
  hi : W32
  index : Nat
  frac : Nat
  mailbox : Option Nat
  deriving DecidableEq, Repr, Inhabited

/-- The iterate held for one problem (06 R206, R209). -/
structure Held where
  xs : List W32 := []
  converged : Bool := false
  iter : Nat := 0
  offers : Nat := 1
  rejected : Nat := 0
  late : Nat := 0
  cut : Nat := 0
  rp : W32 := 0x7F800000
  rd : W32 := 0x7F800000
  epsP : W32 := 0x7F800000
  epsD : W32 := 0x7F800000
  merit : W32 := 0x7F800000
  accepted : Nat := 0
  sawNan : Bool := false
  flags : BitVec 32 := 0
  deriving DecidableEq, Repr, Inhabited

/-- The deadline commit unit after CMINIT (06 R203 to R209). -/
structure CommitUnit where
  n : Nat := 0
  m : Nat := 0
  k : Nat := 0
  recordRef : Nat := 0
  map : List (List MapEntry) := []
  held : List Held := []
  owner : Nat := 0
  /-- in a replay the recorded offers have come: the iterates are frozen and their records written (06 R213) -/
  frozen : Bool := false
  deriving DecidableEq, Repr, Inhabited

/-- Why a context is blocked (11 R363): it waits for a fill level of a coil, or for the commit unit. -/
inductive Wait where
  | coil (c level : Nat)
  | commit
  deriving DecidableEq, Repr, Inhabited

/-- A tile context (05 R141), with the job it runs. -/
structure Ctx where
  job : Job := { }
  live : Bool := false
  g : Tbl W64 := []
  p : Tbl Bool := []
  v : Tbl (BitVec 2048) := []
  k : Tbl W64 := []
  pc : Nat := 0
  flagW : BitVec 32 := 0
  jobAcc : BitVec 32 := 0
  trapW : BitVec 32 := 0
  trap : Bool := false
  draw : BitVec 48 := 0
  seed : W64 := 0
  inv : BitVec 32 := 0
  coils : Tbl Coil := []
  staged : Tbl W32 := []
  mbwr : List Nat := []
  wait : Option Wait := none
  waitSince : Nat := 0
  started : Option Nat := none
  cycBase : Nat := 0
  cycSince : Nat := 0
  wroteHbm : List (Nat × Nat) := []
  wroteSecs : List Nat := []
  charged : Nat := 0
  inputs : Tbl (List Byte) := []
  progress : Nat := 0
  stage1 : List Nat := []
  /-- the sticky flag copies of sequencer (0), vector engine (1), matrix array (2) and factor unit (3) (03 R106) -/
  unitFlags : Tbl (BitVec 32) := []
  /-- cycles of the budget watchdog up to cycSince (05 R184) -/
  wdBase : Nat := 0
  /-- what a VDQB that stalled at a full coil still has to push, and how its tensor ended: 0 whole, 1 a sequence mismatch,
  2 an illegal entry (02 R68; 04 R127) -/
  rest : Option (List (List Byte) × Nat) := none
  /-- an access from outside the program met an uncorrectable word or a bank that is not ON: the job ends with this status and
  location (02 R54; 05 R174) -/
  doomed : Option (Byte × W64) := none
  /-- the image could not be loaded whole and true (05 R182) -/
  badImage : Bool := false
  deriving DecidableEq, Repr, Inhabited

/-- A scoreboard entry (02 R62). -/
structure SbEntry where
  valid : Bool := false
  write : Bool := false
  engine : Nat := 0
  store : Nat := 0
  first : Nat := 0
  last : Nat := 0
  owner : Nat := 0
  deriving DecidableEq, Repr, Inhabited

/-- A DMA descriptor (02 R48) in its queue, with its four words. -/
structure Desc where
  w0 : W64
  w1 : W64
  w2 : W64
  w3 : W64
  attr : BitVec 10
  no : Nat
  active : Bool
  slot : Nat
  row : Nat
  entry : Nat
  deriving DecidableEq, Repr, Inhabited

/-- A DMA queue (02 R45, 13 R441). -/
structure DmaQueue where
  attr : BitVec 10 := 0
  descs : List Desc := []
  count : Nat := 0
  doneEvent : Bool := false
  doneTag : Byte := 0
  deriving DecidableEq, Repr, Inhabited

/-- An element in the receive port's buffer (02 R71, 13 R446). -/
structure RxElem where
  coil : Nat
  src : PushSrc
  prod : Nat
  n6 : BitVec 6
  data : List Byte
  deriving DecidableEq, Repr, Inhabited

/-- An event counter (17 R548, R549). -/
structure Counter where
  sel : W64 := 0
  ovf : Bool := false
  count : BitVec 48 := 0
  deriving DecidableEq, Repr, Inhabited

/-- A physical tile (02). Stores lie at their window offsets (02 R49); its rung stands in the power domain. -/
structure Tile where
  failed : Bool := false
  selfTest : Bool := false
  closed : Bool := false
  reserved : Bool := false
  clkStep : BitVec 2 := 0
  ctl : W64 := 6
  eccValid : Bool := false
  eccUnc : BitVec 16 := 0
  eccCor : BitVec 32 := 0
  eccLog : W64 := 0
  bqSkew : BitVec 16 := 0
  bqGrogFull : BitVec 16 := 0
  bqCrushed : BitVec 32 := 0
  bconf : Tbl (BitVec 32) := []
  mem : Mem := []
  upset : Tbl (BitVec 39) := []
  /-- words that have met an uncorrectable error, with whether they were written since; when such errors were counted, newest first; and
  whether they have failed the tile (14 R477) -/
  uncMet : List (Nat × Bool) := []
  uncAt : List Nat := []
  failing : Bool := false
  banks : Tbl BankSt := []
  bankReq : List BankReq := []
  sb : Tbl SbEntry := []
  dma : Tbl DmaQueue := []
  dmaNo : Nat := 0
  ctx0 : Option Ctx := none
  ctx1 : Option Ctx := none
  exec1 : Bool := false
  cu : Option CommitUnit := none
  rx : List RxElem := []
  rxNext : Tbl (BitVec 6) := []
  coils : Tbl Coil := []
  evc : Tbl Counter := []
  residents : List Image := []
  /-- sections, by index, whose contents a resident image has lost since they were loaded (02 R73) -/
  lost : List (Image × Nat) := []
  /-- sections, by index, that were written since they were loaded (12 R398) -/
  written : List (Image × Nat) := []
  /-- the stamp of the measurement that the last estimation of an estimator used (06 R219) -/
  estStamps : List (Nat × W32) := []
  restCoils : List (Image × Tbl Coil) := []
  idleSince : Nat := 0
  coolBanks : List Nat := []
  dryKeep : List (Nat × List Byte) := []
  deriving DecidableEq, Repr, Inhabited

/-- A context that was swapped out: the saved state of 11 R365. -/
structure Swapped where
  ctx : Ctx
  saved : List (Nat × List Byte)
  home : Nat
  runnable : Bool
  deriving DecidableEq, Repr, Inhabited

/-! ## Mailboxes, loop slots (01, 07) -/

/-- How an expected publish of a mailbox turned out (07 R237). -/
inductive MbEval where
  | fresh | stale | released
  deriving DecidableEq, Repr, Inhabited

/-- A set-point mailbox (01 R18 to R20). -/
structure Mailbox where
  value : W32 := 0
  /-- the value before the oldest publish of `pubs` -/
  prev : W32 := 0
  pubCount : Option Nat := none
  status : Byte := 0
  writer : Option Nat := none
  /-- publish counts with their values, newest first -/
  pubs : List (Nat × W32) := []
  /-- how every expected publish turned out, newest first -/
  evals : List (Nat × MbEval) := []
  deriving DecidableEq, Repr, Inhabited

/-- The states of a loop slot (07 R224, R244, R252). -/
inductive SlotSt where
  | unbound | armed | running | pairCopy
  deriving DecidableEq, Repr, Inhabited

/-- The chain state that LE_SLOT_STATE shows (07 R254). -/
structure Chain where
  acc : W64 := 0
  pgR : W64 := 0
  pgV : W64 := 0
  pgA : W64 := 0
  yPrev : W32 := 0
  errPrev : W32 := 0
  uPrev : W32 := 0
  tgtEff : W32 := 0
  n1x1 : W32 := 0
  n1x2 : W32 := 0
  n1y1 : W32 := 0
  n1y2 : W32 := 0
  n2x1 : W32 := 0
  n2x2 : W32 := 0
  n2y1 : W32 := 0
  n2y2 : W32 := 0
  deriving DecidableEq, Repr, Inhabited

/-- A change that waits for its effect count (07 R225). -/
inductive SlotChange where
  | mode (v : W64)
  | man (v : W64)
  | fb (v : W64)
  | rebind (regs : List W64) (bank : List W64)
  deriving DecidableEq, Repr, Inhabited

/-- A change, its effect count and its command. -/
structure SlotPend where
  at_ : Nat
  what : SlotChange
  cause : Cause
  deriving DecidableEq, Repr, Inhabited

/-- The result of a sample on its way to the destination: commit count, sample phase, output, the copy's output of a
paired slot, and whether the copies' states differ (07 R245). -/
structure Staged where
  at_ : Nat
  phase : Nat
  out : W32
  copy : Option W32
  stateMis : Bool
  deriving DecidableEq, Repr, Inhabited

/-- A loop slot (07). -/
structure Slot where
  cfg : W64 := 0
  src : W64 := 0
  phase : W64 := 0
  dest : W64 := 0
  fb : W64 := 0x800
  man : W64 := 0
  auto : Bool := false
  flags : BitVec 10 := 0
  lastOut : W32 := 0
  staleCnt : Byte := 0
  atHi : Bool := false
  atLo : Bool := false
  bankSel : Bool := false
  fallback : Bool := false
  autoEff : Bool := false
  st : SlotSt := .unbound
  late : BitVec 16 := 0
  stale : BitVec 16 := 0
  pairMis : BitVec 16 := 0
  fbEntries : BitVec 16 := 0
  bankA : Tbl W64 := []
  bankB : Tbl W64 := []
  chain : Chain := { }
  start : Option Nat := none
  phaseDone : Option Nat := none
  computed : Bool := false
  swapAt : Option Nat := none
  pend : List SlotPend := []
  manUse : W32 := 0
  manTgt : W32 := 0
  fbUse : W64 := 0x800
  fbTgt : W32 := 0
  staged : Option Staged := none
  casc : List (Nat × W32) := []
  lastEval : Nat := 0
  misRun : Nat := 0
  stopped : Bool := false
  unbindAt : Option (Nat × Cause) := none
  shadowCrc : Option W32 := none
  deriving DecidableEq, Repr, Inhabited

/-- A SWAP_COEF that waits for its slots (07 R242). -/
structure SwapCmd where
  cause : Cause
  slots : List Nat
  at_ : Nat
  deriving DecidableEq, Repr, Inhabited

/-! ## Sense lanes, trips, PWM (08) -/

/-- A delivered sample: its phase, its raw value and its calibrated value (08 R257, R259, R266). -/
structure Got where
  phase : Nat
  raw : W32
  val : W32
  /-- the count of the delivery -/
  came : Nat
  deriving DecidableEq, Repr, Inhabited

/-- A sense lane (08 R255 to R269, R285 to R287). -/
structure Lane where
  mode : W64 := 0x80
  time : W64 := 0
  calA : W64 := 0x100
  calB : W64 := 0x100
  oc : W64 := 0x7FFFFF8000000000
  bankSel : Bool := false
  swapAt : Option Nat := none
  swapNs : BitVec 30 := 0
  late : BitVec 16 := 0
  frame : BitVec 16 := 0
  loss : BitVec 16 := 0
  fOcRaised : Bool := false
  fCalSat : Bool := false
  fCode : Bool := false
  fLoss : Bool := false
  fFrame : Bool := false
  fLate : Bool := false
  convUntil : Nat := 0
  wordPhase : Option Nat := none
  wordMet : Bool := false
  /-- accepted words that are not delivered yet, with their sample phases, newest first -/
  words : List (Nat × W32) := []
  phase : Option Nat := none
  hist : List Got := []
  /-- consumed samples that no SAMPLE entry holds yet: phase and raw value (08 R284) -/
  unlogged : List (Nat × W32) := []
  lost : Bool := false
  ocRun : Nat := 0
  deriving DecidableEq, Repr, Inhabited

/-- A push channel of a sense group (08 R267, R288). -/
structure Push where
  reg : W64 := 0
  count : Nat := 0
  since : Nat := 0
  deriving DecidableEq, Repr, Inhabited

/-- A PWM channel pair (08 R277 to R282, R289, R290). -/
structure Pair where
  cfg : W64 := 0
  time : W64 := 0
  shadow : W64 := 0
  active : W64 := 0
  firstStamp : W32 := 0
  firstSrc : BitVec 7 := 0
  firstValid : Bool := false
  safe : Bool := true
  pairCause : Bool := false
  unitCause : Bool := false
  swallow : Byte := 0
  clamp : Byte := 0
  loaded : Bool := false
  loadedTo : Nat := 0
  clearAt : Option Nat := none
  shadowAt : Option Nat := none
  shadowOld : W64 := 0
  cmdA : Bool := false
  hOn : Bool := false
  lOn : Bool := false
  riseAt : Nat := 0
  deriving DecidableEq, Repr, Inhabited

/-- A trip source (08 R271, R273, R291). -/
structure TripSrc where
  latch : Bool := false
  raised : Bool := false
  filter : BitVec 2 := 0
  mask : BitVec 48 := 0
  deriving DecidableEq, Repr, Inhabited

/-- The masks of sources 80 and 82 read all ones (08 R291). -/
def TripSrc.reset (n : Nat) : TripSrc :=
  if n = 80 ∨ n = 82 then { mask := 0xFFFFFFFFFFFF } else { }

/-! ## Cell links (09) -/

/-- The states of a link (09 R307). -/
inductive LinkSt where
  | down | align | sync | up
  deriving DecidableEq, Repr, Inhabited

/-- A cell link (09 R298 to R312). -/
structure Link where
  cfg : W64 := 0x7F000000
  time : W64 := 0
  time2 : W64 := 0
  push : W64 := 0
  delayUi : BitVec 16 := 0xFFFF
  seq : BitVec 16 := 0
  ulMissing : BitVec 16 := 0
  ulCrc : BitVec 16 := 0
  ulLate : BitVec 16 := 0
  syncLost : BitVec 16 := 0
  fDelay : Bool := false
  fStale : Bool := false
  fUlMiss : Bool := false
  fSyncLost : Bool := false
  wasUp : Bool := false
  st : LinkSt := .down
  cmd : Tbl W64 := []
  start : Nat := 0
  sent : Option (Nat × Nat) := none
  uplink : Option (List Byte) := none
  ulSeen : Bool := false
  /-- up_due of the period has passed -/
  ulDue : Bool := false
  records : List Byte := []
  pushedAt : Option Nat := none
  bseq : Byte := 0
  echoFor : Option Byte := none
  beaconAt : Option Nat := none
  unitHold : Bool := false
  /-- send count and the bytes between SOF and EOF of each frame sent -/
  out : List (Nat × List Byte) := []
  /-- running disparity of the transmitter, positive or not; an IDLE ordered set keeps it -/
  txRd : Bool := false
  /-- of each frame sent: the count at which it begins on the line, the IDLE ordered sets before it, and its code groups from SOF to EOF -/
  wire : List (Nat × Nat × List (BitVec 10)) := []
  deriving DecidableEq, Repr, Inhabited

/-! ## Kiln, power, standing jobs (11) -/

/-- A power domain (11 R376, R377, R386). -/
structure Dom where
  busy : Bool := false
  target : BitVec 3 := 4
  closed : Bool := false
  rung : BitVec 3 := 4
  waiting : Bool := false
  want : BitVec 3 := 0
  byCmd : List (Nat × Nat × W64) := []
  /-- A self-test kept the block closed (14 R483). -/
  kept : Bool := false
  deriving DecidableEq, Repr, Inhabited

/-- A publish count that an invocation has before it (01 R19, 06 R210). -/
structure Pub where
  due : Nat
  seq : Nat
  qseq : Nat
  ended : Bool
  publishes : Bool
  status : Byte
  staged : Tbl W32
  held : Option (Record × Effects)
  flags : BitVec 32 := 0
  deriving DecidableEq, Repr, Inhabited

/-- A bound standing job (10 R342, 11 R367, R368). -/
structure Binding where
  queue : Nat := 0
  tag : BitVec 32 := 0
  image : Image := { }
  seed : W64 := 0
  first : Option Nat := none
  cqueue : Nat := 0
  period : Nat := 0
  deadline : Nat := 0
  ltile : Nat := 0
  adapt : Bool := false
  mailboxes : List Nat := []
  record : List Byte := []
  tput : Bool := false
  prov : Bool := false
  inv : Nat := 0
  next : Nat := 0
  seq : Option Nat := none
  boundary : Nat := 0
  running : Bool := false
  pubs : List Pub := []
  lastEnd : Nat := 0
  unbindAt : Option (Nat × Cause) := none
  toStart : Bool := false
  awaitImage : Option Nat := none
  firstRerun : Bool := false
  divRun : Nat := 0
  catchup : Bool := false
  /-- not caught up at a promotion: every invocation fails until it is rebound (14 R485) -/
  behind : Bool := false
  deriving DecidableEq, Repr, Inhabited

/-- A pending LAUNCH (12 R412). -/
structure Launch where
  queue : Nat
  seq : Nat
  at_ : Nat
  bindings : List Nat
  slots : List Nat
  dropped : Bool := false
  deriving DecidableEq, Repr, Inhabited

/-- A self-test that was accepted (14 R481 to R484). -/
structure SelfTest where
  queue : Nat
  seq : Nat
  dom : Nat
  options : W64
  /-- queue and sequence number of the commands that wait for the test's end -/
  waits : List (Nat × Nat) := []
  deriving DecidableEq, Repr, Inhabited

/-- The kiln and the power sequencer (11). -/
structure Kiln where
  admitCtl : W64 := 0x0000006403E80000
  idle : W64 := 0x000003E8003207D0
  level : Int := 0
  capMw : BitVec 32 := 0x2E630
  depth : BitVec 32 := 0x2E630
  newBudget : Option (BitVec 32 × BitVec 32 × Cause) := none
  ready : List Job := []
  headSince : Option (Nat × Nat × Nat) := none
  swapped : List Swapped := []
  launches : List Launch := []
  tMax : BitVec 8 := 0
  tTile : BitVec 7 := 0
  steps : BitVec 16 := 0
  critical : Bool := false
  standingReq : Bool := false
  thermLevel : BitVec 2 := 0
  temps : List Int := []
  stepAt : Option Nat := none
  /-- clock steps that were decided: tile, count and step (11 R373) -/
  stepsDue : List (Nat × Nat × BitVec 2) := []
  coolSince : Option Nat := none
  hotSince : Option Nat := none
  safeSince : Option Nat := none
  wakes : List Nat := []
  tests : List SelfTest := []
  /-- blocks whose test a promotion cut off, and until when their state is being restored (14 R485) -/
  aborted : List (Nat × Nat) := []
  copies : List SecCopy := []
  deriving DecidableEq, Repr, Inhabited

/-! ## Memory and hearth cache (13) -/

/-- A pseudo-channel (13 R434, R449). -/
structure Pc where
  mapped : Bool := false
  failed : Bool := false
  refresh2x : Bool := false
  corrected : BitVec 24 := 0
  uncorrected : BitVec 16 := 0
  /-- when the last uncorrectable bursts were returned, newest first (13 R434) -/
  uncAt : List Nat := []
  /-- the scrubber's pass: when it began, and the last burst it read (13 R432) -/
  passAt : Nat := 0
  scrubbed : Option Nat := none
  refreshed : Tbl Nat := []
  deriving DecidableEq, Repr, Inhabited

/-- A pin that waits until all lines of its range are resident (13 R439). -/
structure PinReq where
  queue : Nat
  seq : Nat
  lines : List Nat
  deriving DecidableEq, Repr, Inhabited

/-- A request that waits at a slice or a controller (13 R443). -/
structure HbmReq where
  id : Nat
  cls : Nat
  pf : Bool
  deadline : Nat
  arrival : Nat
  tile : Nat
  desc : Nat
  /-- when it began to wait (`State.up`) -/
  since : Nat := 0
  /-- the range of the request -/
  addr : Nat := 0
  len : Nat := 0
  deriving DecidableEq, Repr, Inhabited

/-- A line of the hearth cache (13 R437, R438): the address of its 128 bytes, whether it is dirty, and its error: 0 none, 1 correctable,
2 not. Its bytes are those of `Hbm.mem`, which every agent sees (13 R436). -/
structure Line where
  addr : Nat
  dirty : Bool := false
  err : Nat := 0
  deriving DecidableEq, Repr, Inhabited

/-- HBM, its controllers and the hearth cache (13). Burst errors: 1 is correctable, 2 is not. -/
structure Hbm where
  mem : Mem := []
  upset : Tbl Nat := []
  pcs : Tbl Pc := []
  logValid : Bool := false
  logAddr : BitVec 40 := 0
  ctl : W64 := 0x1801
  stackTemp : Int := 0
  /-- the lines of the hearth cache, the most recently used first -/
  cache : List Line := []
  /-- a pseudo-channel of a SOLO device failed, and accepted commands that lay on it are to end (13 R434) -/
  losing : Bool := false
  pinned : List Nat := []
  pins : List PinReq := []
  hearthUnc : BitVec 16 := 0
  pfDropped : BitVec 16 := 0
  waiting : List HbmReq := []
  nextReq : Nat := 0
  deriving DecidableEq, Repr, Inhabited

/-! ## Twin (14, 16) -/

/-- The device roles (01 R27). -/
inductive Role where
  | solo | active | standby
  deriving DecidableEq, Repr, Inhabited

/-- The pair states (14 R459). -/
inductive PairSt where
  | none | lost | bulk | final | synced | catchup
  deriving DecidableEq, Repr, Inhabited

/-- A message the device puts on the twin link (14 R457, 16 R533). -/
inductive TwinOut where
  | heartbeat (role : Role) (pair : PairSt) (applied : W64) (count : W32)
  | leaving
  | roleSwap (at_ : Nat)
  | pairState (pair : PairSt)
  | mirror (p : Packet) (captured : List Byte) (seq : Nat)
  | accepted (queue seq : Nat) (stamp : Nat)
  | ackMirror (queue : Nat) (upTo : Nat)
  | entry (bytes : List Byte)
  | ackEntry (ix : Nat)
  | shadow (e sl : Nat) (image : List Byte) (crc : W32)
  | lock
  | catchupReq (b : Nat)
  | copySet (b : Nat) (data : List (Nat × List Byte))
  | bulkCopy (mem : Mem) (sections : List SecCopy) (slots : Tbl Slot) (lanes : Tbl Lane) (pushes : Tbl Push) (pairs : Tbl Pair) (links : Tbl Link)
      (bindings : Tbl Binding)
  | hostWrite (addr : Nat) (bytes : List Byte)
  | finalCopy (queues : Tbl Queue) (ix : W64)
  deriving DecidableEq, Repr, Inhabited

/-- The twin logic, its link and the commit log (14, 16 R532 to R536, R540). -/
structure Twin where
  ctl : W64 := 0xC80802
  role : Role := .solo
  pair : PairSt := .none
  roleConflict : Bool := false
  leaveReason : BitVec 4 := 0
  peerActive : Bool := false
  active : Bool := false
  promotions : BitVec 16 := 0
  divStanding : BitVec 16 := 0
  divLoop : BitVec 16 := 0
  catchups : BitVec 16 := 0
  applied : W64 := 0
  peerLowAt : Option Nat := none
  bothHighAt : Option Nat := none
  blocked : Bool := false
  hbSeen : Bool := false
  hbMissed : Nat := 0
  hbCount : Nat := 0
  hbEnd : Nat := 0
  peerRole : Role := .solo
  peerPair : PairSt := .none
  declared : Option Nat := none
  detachAt : Option (Nat × Nat × Nat) := none
  swapAt : Option (Nat × Nat × Nat) := none
  attachBy : Option (Nat × Nat) := none
  mirrors : List Mirror := []
  commitIx : Nat := 0
  /-- entries that wait for the peer's acknowledgement, and the commit log in the device region: index and bytes (14 R464) -/
  entries : List (Nat × List Byte) := []
  log : List (Nat × List Byte) := []
  received : List (List Byte) := []
  /-- invocation entries that came before the device's own run had ended (14 R472) -/
  early : List (Record × Tbl W32) := []
  /-- messages that wait for flits -/
  out : List TwinOut := []
  /-- the rest of a message under way, by class -/
  part : Tbl (List Byte) := []
  /-- the flits put on the link -/
  sent : List (List Byte) := []
  wdGone : Bool := false
  linkState : BitVec 2 := 0
  lanesLocked : BitVec 4 := 0
  retries : BitVec 16 := 0
  crcErr : BitVec 16 := 0
  lockLoss : BitVec 16 := 0
  dly : W64 := 0
  txSeq : BitVec 16 := 0
  replayBuf : List (BitVec 16 × List Byte) := []
  rxSeq : BitVec 16 := 0
  nakSent : Bool := false
  retryRun : Nat := 0
  msg : Tbl (List Byte) := []
  shadowDone : List Nat := []
  /-- bindings whose copy set the peer has asked for (14 R461) -/
  wanted : List Nat := []
  enabled : Bool := false
  deriving DecidableEq, Repr, Inhabited

/-! ## Witness recorder (12) -/

/-- Witness modes (01 R27, 12 R426). -/
inductive WitMode where
  | off | record | replay
  deriving DecidableEq, Repr, Inhabited

/-- The witness recorder and a replay under way (12 R414 to R422, R426). -/
structure Witness where
  mode : WitMode := .off
  outputs : BitVec 3 := 0
  startAt : Option (Nat × BitVec 3 × Cause) := none
  recording : Bool := false
  buffer : List (List Byte) := []
  lost : Nat := 0
  lseq : Nat := 0
  entries : Nat := 0
  mismStrict : BitVec 16 := 0
  mismTput : BitVec 16 := 0
  gaps : BitVec 16 := 0
  skipped : BitVec 16 := 0
  snapSlots : List Nat := []
  snapBindings : List Nat := []
  log : List Byte := []
  logPos : Nat := 0
  by_ : Option (Nat × Nat) := none
  gapMet : Bool := false
  strictMis : Bool := false
  cuts : List (Nat × Nat × Nat × Nat) := []
  orders : List (Nat × Nat × Nat × Nat) := []
  accepts : List (Nat × Nat × Nat × Nat × Nat) := []
  results : List (Nat × Nat × List Byte) := []
  seqMap : List (Nat × Nat × Nat) := []
  deriving DecidableEq, Repr, Inhabited

/-! ## The whole device -/

/-- The state of the block: everything the spec gives the device, and the queue of commands. -/
structure State where
  pending : List Instr := []
  freeIx : Nat := 0
  tb : Timebase := { }
  mg : Mgmt := { }
  queues : Tbl Queue := []
  usb : Usb := { }
  eth : Tbl EthPort := []
  kiln : Kiln := { }
  bindings : Tbl Binding := []
  doms : Tbl Dom := []
  tileMap : Tbl Nat := []
  tiles : Tbl Tile := []
  mailboxes : Tbl Mailbox := []
  slots : Tbl Slot := []
  swaps : List SwapCmd := []
  lanes : Tbl Lane := []
  pushes : Tbl Push := []
  pairs : Tbl Pair := []
  trips : Tbl TripSrc := []
  tripSw : Bool := false
  links : Tbl Link := []
  hbm : Hbm := { }
  twin : Twin := { }
  wit : Witness := { }
  evc : Tbl Counter := []
  evcCtl : W64 := 0
  deriving DecidableEq, Repr

/-- Why the machine stops with a fault. -/
inductive Fault where
  /-- Raised by every command whose operand names a unit the device does not have (a tile above 67, a slot,
  lane, pair, link, mailbox or port beyond its count: 01 R22, 02 R39, 07 R222, 08 R255, R277, 09 R292).
  Safe: the machine stops where the spec has nothing. -/
  | noSuchUnit
  deriving DecidableEq, Repr

/-- Why a command has no meaning. -/
inductive Refusal where
  /-- Raised by an arm of `exec` whose meaning is not written. Safe: nothing can be proved of it. -/
  | notModelled (mnemonic : String)
  deriving DecidableEq, Repr

/-- The device right after a power-on reset (15 R490, R492, R496 time 0), with no command waiting. -/
def State.reset : State := { }

end Sys2Proof.Machine
end

