-- ==== Sys2Proof/Machine/Table.lean ====
section
/-!
DEFINITION. Reading and writing a sparse table, and the byte memories made of it.
-/

set_option Elab.async false

namespace Sys2Proof.Machine

open Sys2Proof

/-- The entry at `k`, or `d` where none is listed. -/
def Tbl.get {α : Type} (d : α) (k : Nat) : Tbl α → α
  | [] => d
  | (j, a) :: t => if j = k then a else Tbl.get d k t

/-- Puts `v` at `k`, keeping rising indexes. -/
def Tbl.insert {α : Type} (k : Nat) (v : α) : Tbl α → Tbl α
  | [] => [(k, v)]
  | (j, a) :: t => if k < j then (k, v) :: (j, a) :: t else if j = k then (k, v) :: t else (j, a) :: Tbl.insert k v t

/-- Takes `k` out of the table. -/
def Tbl.erase {α : Type} (k : Nat) : Tbl α → Tbl α
  | [] => []
  | (j, a) :: t => if j = k then Tbl.erase k t else (j, a) :: Tbl.erase k t

/-- Writes `v` at `k`; writing what an unlisted index holds removes the entry. -/
def Tbl.set {α : Type} [DecidableEq α] (d : α) (k : Nat) (v : α) (t : Tbl α) : Tbl α :=
  if v = d then Tbl.erase k t else Tbl.insert k v t

/-- The canonical form: rising indexes, none of them holding the default. -/
def Tbl.wf {α : Type} [DecidableEq α] (d : α) (t : Tbl α) : Bool :=
  decide (t.Pairwise (fun a b => a.1 < b.1)) && t.all (fun e => decide (e.2 ≠ d))

/-- A byte that nothing has written reads as zero: zero with valid check bits in the stores (02 R74), cleared in the
device region (15 R496), DESIGN CHOICE in the host range, log entry 5. -/
def Mem.blank : Byte := 0

/-- One byte. -/
def Mem.read (a : Nat) (m : Mem) : Byte := Tbl.get Mem.blank a m

/-- Stores one byte. -/
def Mem.write (a : Nat) (b : Byte) (m : Mem) : Mem := Tbl.set Mem.blank a b m

/-- The canonical form of a memory. -/
abbrev Mem.wf (m : Mem) : Bool := Tbl.wf Mem.blank m

/-- `n` bytes from `a` upward. -/
def Mem.bytes (a n : Nat) (m : Mem) : List Byte := (List.range n).map (fun j => Mem.read (a + j) m)

/-- Stores bytes from `a` upward, in ascending order. -/
def Mem.store (a : Nat) : List Byte → Mem → Mem
  | [], m => m
  | b :: bs, m => Mem.store (a + 1) bs (Mem.write a b m)

/-- Clears `[lo, lo + n)`: what a bank that loses its contents or memory that is lost holds (02 R73, R74). -/
def Mem.clear (lo n : Nat) (m : Mem) : Mem := m.filter (fun c => decide (¬ (lo ≤ c.1 ∧ c.1 < lo + n)))

end Sys2Proof.Machine
end

