-- ==== Sys2Proof/Machine/Ops.lean ====
section
/-!
DEFINITION. The named operations on the state that every family shares: one home for each unit, the counter and its
stamps, alerts, event counters, the change journal and the witness recorder.
-/

set_option Elab.async false

namespace Sys2Proof.Machine

open Sys2Proof

/-- What a meaning answers. -/
abbrev Res := Host.Outcome State Fault Refusal

/-- A meaning that names unit `n` of `bound` (log entry 6). -/
def within (n bound : Nat) (t : State) : Res := if n < bound then .next t else .fault .noSuchUnit

namespace State

/-! ## One home for each unit -/

def queue (q : Nat) (s : State) : Queue := Tbl.get (Queue.reset q) q s.queues
def setQueue (q : Nat) (v : Queue) (s : State) : State := { s with queues := Tbl.set (Queue.reset q) q v s.queues }
def updQueue (q : Nat) (f : Queue → Queue) (s : State) : State := s.setQueue q (f (s.queue q))

def port (p : Nat) (s : State) : EthPort := Tbl.get { } p s.eth
def setPort (p : Nat) (v : EthPort) (s : State) : State := { s with eth := Tbl.set { } p v s.eth }
def updPort (p : Nat) (f : EthPort → EthPort) (s : State) : State := s.setPort p (f (s.port p))

def binding (b : Nat) (s : State) : Option Binding := Tbl.get none b (s.bindings.map (fun e => (e.1, some e.2)))
def setBinding (b : Nat) (v : Binding) (s : State) : State := { s with bindings := Tbl.insert b v s.bindings }
def dropBinding (b : Nat) (s : State) : State := { s with bindings := Tbl.erase b s.bindings }
def updBinding (b : Nat) (f : Binding → Binding) (s : State) : State :=
  match s.binding b with
  | some v => s.setBinding b (f v)
  | none => s

def dom (d : Nat) (s : State) : Dom := Tbl.get { } d s.doms
def setDom (d : Nat) (v : Dom) (s : State) : State := { s with doms := Tbl.set { } d v s.doms }
def updDom (d : Nat) (f : Dom → Dom) (s : State) : State := s.setDom d (f (s.dom d))

def tile (p : Nat) (s : State) : Tile := Tbl.get { } p s.tiles
def setTile (p : Nat) (v : Tile) (s : State) : State := { s with tiles := Tbl.set { } p v s.tiles }
def updTile (p : Nat) (f : Tile → Tile) (s : State) : State := s.setTile p (f (s.tile p))

def mailbox (m : Nat) (s : State) : Mailbox := Tbl.get { } m s.mailboxes
def setMailbox (m : Nat) (v : Mailbox) (s : State) : State := { s with mailboxes := Tbl.set { } m v s.mailboxes }
def updMailbox (m : Nat) (f : Mailbox → Mailbox) (s : State) : State := s.setMailbox m (f (s.mailbox m))

/-- Slot Sj of engine LEe lies at index 8e + j. -/
def slot (n : Nat) (s : State) : Slot := Tbl.get { } n s.slots
def setSlot (n : Nat) (v : Slot) (s : State) : State := { s with slots := Tbl.set { } n v s.slots }
def updSlot (n : Nat) (f : Slot → Slot) (s : State) : State := s.setSlot n (f (s.slot n))

def lane (n : Nat) (s : State) : Lane := Tbl.get { } n s.lanes
def setLane (n : Nat) (v : Lane) (s : State) : State := { s with lanes := Tbl.set { } n v s.lanes }
def updLane (n : Nat) (f : Lane → Lane) (s : State) : State := s.setLane n (f (s.lane n))

/-- Push channel c of group SGg lies at index 4g + c. -/
def push (n : Nat) (s : State) : Push := Tbl.get { } n s.pushes
def setPush (n : Nat) (v : Push) (s : State) : State := { s with pushes := Tbl.set { } n v s.pushes }

def pair (n : Nat) (s : State) : Pair := Tbl.get { } n s.pairs
def setPair (n : Nat) (v : Pair) (s : State) : State := { s with pairs := Tbl.set { } n v s.pairs }
def updPair (n : Nat) (f : Pair → Pair) (s : State) : State := s.setPair n (f (s.pair n))

def tripSrc (n : Nat) (s : State) : TripSrc := Tbl.get (TripSrc.reset n) n s.trips
def setTrip (n : Nat) (v : TripSrc) (s : State) : State := { s with trips := Tbl.set (TripSrc.reset n) n v s.trips }
def updTrip (n : Nat) (f : TripSrc → TripSrc) (s : State) : State := s.setTrip n (f (s.tripSrc n))

def link (n : Nat) (s : State) : Link := Tbl.get { } n s.links
def setLink (n : Nat) (v : Link) (s : State) : State := { s with links := Tbl.set { } n v s.links }
def updLink (n : Nat) (f : Link → Link) (s : State) : State := s.setLink n (f (s.link n))

def pc (n : Nat) (s : State) : Pc := Tbl.get { } n s.hbm.pcs
def setPc (n : Nat) (v : Pc) (s : State) : State := { s with hbm := { s.hbm with pcs := Tbl.set { } n v s.hbm.pcs } }

def setTb (v : Timebase) (s : State) : State := { s with tb := v }
def setMg (v : Mgmt) (s : State) : State := { s with mg := v }
def setUsb (v : Usb) (s : State) : State := { s with usb := v }
def setKiln (v : Kiln) (s : State) : State := { s with kiln := v }
def setHbm (v : Hbm) (s : State) : State := { s with hbm := v }
def setTwin (v : Twin) (s : State) : State := { s with twin := v }
def setWit (v : Witness) (s : State) : State := { s with wit := v }

/-! ## The counter and its stamps (12 R400, R401) -/

/-- The count in nanoseconds since the start of its scale. -/
def now (s : State) : Nat := s.tb.sec.toNat * 1000000000 + s.tb.ns.toNat

/-- Nanoseconds since power-on: the count without the steps that were made of it (12 R403). Lengths of time are measured by it. -/
def up (s : State) : Nat := ((s.now : Int) - s.tb.stepped).toNat

/-- The stamp state is LONG outside normal service and in a replay (01 R27, 12 R37, 15 R495). -/
def stampLong (s : State) : Bool := decide (s.mg.dev ≠ .service) || decide (s.wit.mode = .replay)

/-- Whether some slot is bound (01 R23). -/
def anySlotBound (s : State) : Bool := s.slots.any (fun e => decide (e.2.st ≠ .unbound))

/-- Whether an enabled link is bound (12 R403, 09 R307). -/
def anyLinkBound (s : State) : Bool := s.links.any (fun e => bit e.2.cfg 0)

/-- A step is allowed (12 R403), apart from the stamp state. -/
def nothingTimed (s : State) : Bool :=
  !s.anySlotBound && s.bindings.isEmpty && !s.anyLinkBound && s.kiln.launches.isEmpty && s.swaps.isEmpty

/-- A paired device whose mirrors and entries go to its peer (14 R459). -/
def mirrored (s : State) : Bool := decide (s.twin.pair = .synced) || decide (s.twin.pair = .catchup)

end State

/-- The SHORT stamp of a count (12 R401). -/
def short (n : Nat) : W32 := BitVec.ofNat 32 n

/-- A LONG stamp as 6 bytes of seconds and 4 of nanoseconds (10 R325, R346). -/
def stampBytes (n : Nat) : List Byte := leBytes 6 (n / 1000000000) ++ leBytes 4 (n % 1000000000)

/-- The count that a LONG count in two words gives (10 R320). -/
def longCount (sec ns : W64) : Nat := sec.toNat * 1000000000 + ns.toNat

/-! ## Free values (log entry 10) -/

/-- A fresh free value. -/
def State.free (s : State) : W64 × State := (Config.free64 s.freeIx, { s with freeIx := s.freeIx + 1 })

/-- `n` fresh free words. -/
def State.frees : Nat → State → List W64 × State
  | 0, s => ([], s)
  | n + 1, s =>
    let r := s.free
    let t := State.frees n r.2
    (r.1 :: t.1, t.2)

/-! ## Logical and physical tiles (02 R39) -/

/-- The physical tile of a logical tile. The table holds its number plus one; zero means unmapped. -/
def State.phys (l : Nat) (s : State) : Option Nat :=
  match Tbl.get 0 l s.tileMap with
  | 0 => none
  | p + 1 => some p

/-- The logical tile of a physical tile. -/
def State.logical (p : Nat) (s : State) : Option Nat := (s.tileMap.find? (fun e => e.2 = p + 1)).map (·.1)

/-! ## Alerts (14 R476, R489) -/

def State.alert (a : Alert) (s : State) : State :=
  if s.mg.alerts.contains a then s else s.setMg { s.mg with alerts := a :: s.mg.alerts }

def State.unalert (a : Alert) (s : State) : State :=
  s.setMg { s.mg with alerts := s.mg.alerts.filter (fun x => decide (x ≠ a)) }

/-! ## Blocks under test (14 R483, R485) -/

/-- The pad logic holds the pins of a block under test, and of one whose state is being restored after a test that was cut off. -/
def State.underTest (d : Nat) (s : State) : Bool :=
  s.kiln.tests.any (fun k => decide (k.dom = d)) || s.kiln.aborted.any (fun e => decide (e.1 = d ∧ s.up < e.2))

/-! ## Event counters (17 R541 to R549) -/

/-- A global counter's reset value: instance 0x7F (17 R549). -/
def gCounter : Counter := { sel := 0x3F800 }

/-- Adds `n` occurrences: the count wraps and sets ovf (17 R542). -/
def Counter.add (n : Nat) (c : Counter) : Counter :=
  { c with count := BitVec.ofNat 48 (c.count.toNat + n), ovf := c.ovf || decide (c.count.toNat + n ≥ 2 ^ 48) }

/-- Events of blocks with one instance, which ignore the instance field: the queues, the kiln, the timebase, the witness recorder
and the management plane (17 R550, R551). -/
def oneInstance (ev : Nat) : Bool := decide ((0x1C0 ≤ ev ∧ ev < 0x200) ∨ 0x2C0 ≤ ev)

/-- `n` occurrences of an event at an instance, on every global counter that selects it and is not frozen. -/
def State.event (ev inst n : Nat) (s : State) : State :=
  if bit s.evcCtl 1 then s
  else { s with evc := s.evc.map (fun e =>
    if bit e.2.sel 10 && decide (fld e.2.sel 0 10 = ev) && (oneInstance ev || decide (fld e.2.sel 11 7 = 0x7F) || decide (fld e.2.sel 11 7 = inst))
    then (e.1, Counter.add n e.2) else e) }

/-- An event of a physical tile, on its own counters and on the global ones. Below FIRE no tile event occurs (17 R546). -/
def State.tileEvent (p ev n : Nat) (s : State) : State :=
  if (s.dom p).rung ≠ 0 then s else
  let t := s.tile p
  let t' := { t with evc := t.evc.map (fun e =>
    if bit e.2.sel 8 && decide (fld e.2.sel 0 8 = ev) then (e.1, Counter.add n e.2) else e) }
  (s.setTile p t').event ev p n

/-! ## Change journal (10 R345 to R347) -/

/-- A change that the device makes on its own. -/
def byDevice : Cause := { }

/-- The first 128 bits of the SHA-512 over a target's state. The bytes of an object's state are not stated, so
for an object (none) they are free (log entry 11). -/
def State.digest128 (x : Option (List Byte)) (s : State) : List Byte × State :=
  match x with
  | some b => ((sha512 b).take 16, s)
  | none =>
    let r := s.frees 2
    ((r.1.map w64Bytes).foldr (· ++ ·) [], r.2)

/-- Enters one entry for a change that takes effect at `at_`. -/
def State.journalAt (at_ : Nat) (c : Cause) (target : W64) (before after : Option (List Byte)) (s : State) : State :=
  let b := s.digest128 before
  let a := b.2.digest128 after
  let s := a.2
  let j := s.mg.journal
  let e := stampBytes at_ ++ leBytes 2 c.queue ++ w32Bytes c.tag ++ leBytes 6 c.seq ++ leBytes 2 c.opcode ++
    w64Bytes target ++ b.1 ++ a.1
  let prev := match j.digest with
    | some d => d
    | none => sha512 []
  (s.setMg { s.mg with journal := { index := j.index + 1, ring := Tbl.insert (j.index.toNat % 4096) e j.ring,
                                    digest := some (sha512 (prev ++ e)) } }).event 0x2C5 0 1

/-- An entry for a change that takes effect now. -/
def State.journalNow (c : Cause) (target : W64) (before after : Option (List Byte)) (s : State) : State :=
  s.journalAt s.now c target before after

/-- The target of a bound object: its opcode class and index (10 R346). -/
def objTarget (cls ix : Nat) : W64 := at64 cls 56 ||| at64 (ix % 2 ^ 24) 0

/-- A device-initiated entry about an object. -/
def State.journalDev (cls ix : Nat) (s : State) : State := s.journalNow byDevice (objTarget cls ix) none none

/-! ## Witness recorder (12 R414 to R417) -/

/-- Bytes that the buffer of the device region holds at most: 512 MiB. -/
def witRoom : Nat := 536870912

def witFill (w : Witness) : Nat := (w.buffer.map List.length).sum

/-- One entry's bytes: header, payload, and padding to a multiple of 8 (12 R415). -/
def witBytes (typ src stamp lseq : Nat) (pl : List Byte) : List Byte :=
  leBytes 1 typ ++ leBytes 1 src ++ leBytes 2 pl.length ++ stampBytes stamp ++ leBytes 2 lseq ++ pl ++
    zeros (roundUp 8 pl.length - pl.length)

/-- Writes one entry, or loses it whole when the buffer is full (12 R417). -/
def State.witPut (typ src stamp : Nat) (pl : List Byte) (s : State) : State :=
  let w := s.wit
  let e := witBytes typ src stamp (w.lseq % 65536) pl
  if w.lost > 0 ∨ witFill w + e.length > witRoom then (s.setWit { w with lost := w.lost + 1 }).event 0x2C4 0 1
  else (s.setWit { w with buffer := w.buffer ++ [e], lseq := w.lseq + 1, entries := w.entries + 1 }).event 0x2C3 0 1

/-- An input recorded in RECORD mode, from the effect count onward (12 R416). -/
def State.witness (typ src stamp : Nat) (pl : List Byte) (s : State) : State :=
  if s.wit.recording then s.witPut typ src stamp pl else s

/-- A SNAPSHOT entry: kind and index of the object, the length of its content, and the content (12 R416; log entry 84). -/
def State.snapshot (kind ix stamp : Nat) (content : List Byte) (s : State) : State :=
  s.witness 0x02 0 stamp (leBytes 1 kind ++ leBytes 3 ix ++ leBytes 4 content.length ++ content)

/-- The whole command packet as bytes (10 R318). -/
def packetBytes (p : Packet) : List Byte :=
  let h := p.hdr
  leBytes 2 p.opcode.toNat ++ leBytes 2 h.flags.toNat ++ leBytes 2 h.queue.toNat ++ leBytes 2 h.payloadLen.toNat ++
    w32Bytes h.tag ++ w32Bytes h.cones ++ leBytes 6 h.dlSec.toNat ++ w32Bytes h.dlNs ++ leBytes 6 h.rsvd.toNat ++
    w64Bytes h.w0 ++ w64Bytes h.w1 ++ w64Bytes h.w2 ++ w64Bytes h.w3 ++ p.payload ++ p.put

/-- The packet that bytes spell (10 R318), for a replay (12 R420). -/
def packetOf (bs : List Byte) : Packet :=
  let pl := leAt 6 2 bs
  { opcode := BitVec.ofNat 16 (leAt 0 2 bs)
    hdr := { flags := BitVec.ofNat 16 (leAt 2 2 bs), queue := BitVec.ofNat 16 (leAt 4 2 bs),
             payloadLen := BitVec.ofNat 16 pl, tag := w32At 8 bs, cones := w32At 12 bs,
             dlSec := BitVec.ofNat 48 (leAt 16 6 bs), dlNs := w32At 22 bs, rsvd := BitVec.ofNat 48 (leAt 26 6 bs),
             w0 := w64At 32 bs, w1 := w64At 40 bs, w2 := w64At 48 bs, w3 := w64At 56 bs }
    payload := (bs.drop 64).take pl
    put := bs.drop (64 + pl) }

/-! ## HBM and its regions (10 R316, 13 R427) -/

def hbmLo : Nat := 0x400000000
def hbmDev : Nat := 0x700000000
def hbmHi : Nat := 0x800000000

/-- A byte range that a host may name: HBM below the device region. -/
def hostRange (a n : Nat) : Bool := decide (hbmLo ≤ a ∧ a + n ≤ hbmDev)

def State.hbmBytes (a n : Nat) (s : State) : List Byte := Mem.bytes a n s.hbm.mem
def State.hbmStore (a : Nat) (bs : List Byte) (s : State) : State :=
  s.setHbm { s.hbm with mem := Mem.store a bs s.hbm.mem }

end Sys2Proof.Machine
end

