-- ==== Sys2Proof/Machine/Queues.lean ====
section
/-!
DEFINITION. Queue pairs: acceptance and its replies, completion, the commit entry, release, overflow and
acknowledgement (10 R321 to R337, 14 R464 to R466).
-/

set_option Elab.async false

namespace Sys2Proof.Machine

open Sys2Proof

/-! ## Reply codes and status codes (R326, R330) -/

namespace Code
def accepted : Byte := 0
def malformed : Byte := 1
def queueFull : Byte := 2
def infeasible : Byte := 3
def testBusy : Byte := 4
def twinUnsynced : Byte := 5
def duplicate : Byte := 6
end Code

namespace St
def done : Byte := 0x00
def flagged : Byte := 0x01
def partialResult : Byte := 0x02
def singular : Byte := 0x20
def skew : Byte := 0x21
def dataError : Byte := 0x22
def fpTrap : Byte := 0x23
def overrun : Byte := 0x24
def unit : Byte := 0x25
def power : Byte := 0x26
end St

/-- The FAILED range (R330). -/
def failed (st : Byte) : Bool := decide (0x20 ≤ st.toNat)

/-! ## Locations (R332) -/

def locStore (p st off : Nat) : W64 := at64 1 60 ||| at64 p 40 ||| at64 st 32 ||| at64 off 0
def locHbm (a : Nat) : W64 := at64 2 60 ||| at64 (a % 2 ^ 40) 0
def locInstr (p ix : Nat) : W64 := at64 3 60 ||| at64 p 40 ||| at64 ix 0
def locDma (p q e : Nat) : W64 := at64 4 60 ||| at64 p 40 ||| at64 q 8 ||| at64 e 0
def locReg (a : Nat) : W64 := at64 5 60 ||| at64 (a % 2 ^ 40) 0
def locUnit (n kind : Nat) : W64 := at64 6 60 ||| at64 n 40 ||| at64 kind 32

/-! ## To the host (R325, R329, R348; 16 R521) -/

/-- Puts a message on EP1 IN; in U3 it waits in the device (16 R521). -/
def State.toHost (m : Ep1In) (s : State) : State :=
  let s := s.event 0x281 0 1
  if s.usb.u3 then s.setUsb { s.usb with held := s.usb.held ++ [m] }
  else s.setUsb { s.usb with ep1 := s.usb.ep1 ++ [m] }

/-- Signals remote wake while the link is in U3 and the host has enabled it (16 R521). -/
def State.signalWake (s : State) : State := if s.usb.u3 && s.usb.remoteWake then s.setUsb { s.usb with wake := true } else s

def State.signalIf (c : Bool) (s : State) : State := if c then s.signalWake else s

/-- ALERT_N asserted: it also wakes the host when wake_alert is set (16 R521). -/
def State.raiseAlert (a : Alert) (s : State) : State :=
  if bit s.usb.ctl 2 then (s.alert a).signalWake else s.alert a

/-- The 32 bytes of an acceptance reply (R325). -/
def replyBytes (code : Byte) (queue : BitVec 16) (tag : BitVec 32) (sq reason stamp : Nat) : List Byte :=
  [1, code] ++ leBytes 2 queue.toNat ++ w32Bytes tag ++ leBytes 6 sq ++ leBytes 2 reason ++ stampBytes stamp ++ zeros 6

/-- The acceptance reply (R325). -/
def State.reply (p : Packet) (code : Byte) (sq reason stamp : Nat) (s : State) : State :=
  let s := s.toHost (.reply code p.hdr.queue p.hdr.tag sq reason stamp)
  s.witness 0x21 0 stamp (leBytes 2 p.hdr.queue.toNat ++ w32Bytes p.hdr.tag ++ leBytes 6 sq ++ [code])

/-! ## Queue counts (R317, R335) -/

def Queue.depth (q : Queue) : Nat := 2 ^ q.depthLog2

/-- Accepted commands with no completion yet. -/
def Queue.outstanding (q : Queue) : Nat := (q.outst.filter (fun o => !o.inv)).length

/-- Submission entries in use: accepted commands whose record is not released (R335). -/
def Queue.entriesUsed (q : Queue) : Nat := q.outstanding + (q.reorder.filter (fun d => !bit d.record.cflags 1)).length

/-- Bytes of the capture area in use (R316, R321, R335). -/
def Queue.captureUsed (q : Queue) : Nat :=
  (q.outst.map (fun o => o.captured.length)).sum + (q.reorder.map (fun d => d.capBytes)).sum

def State.captureUsed (s : State) : Nat := (s.queues.map (fun e => e.2.captureUsed)).sum

/-- Released and not acknowledged: the pending-map bit of a queue (R349). -/
def Queue.pendingBit (q : Queue) : Bool := !q.ring.isEmpty || !q.overflow.isEmpty

/-- A drained queue (R315), but for the binding condition. -/
def Queue.drained (q : Queue) : Bool :=
  q.outst.isEmpty && q.reorder.isEmpty && q.ring.isEmpty && q.overflow.isEmpty && q.merged.isNone

/-- A tag held on the queue: its sequence number and stamp (R324). -/
def Queue.tagHeld (t : BitVec 32) (q : Queue) : Option (Nat × Nat) :=
  (q.tags.find? (fun e => decide (e.1 = t))).map (·.2)

/-! ## Acceptance (R321) -/

/-- Writes the entry under the queue's next sequence number. The tag is held, but not in a replay (12 R420). -/
def State.enter (o : Outst) (s : State) : State :=
  s.updQueue o.pkt.hdr.queue.toNat (fun v =>
    { v with nextSeq := v.nextSeq + 1, outst := v.outst ++ [o],
             tags := if o.replayed then v.tags else v.tags ++ [(o.pkt.hdr.tag, o.seq, o.accept)] })

def State.outstOf (q sq : Nat) (s : State) : Option Outst := (s.queue q).outst.find? (fun o => decide (o.seq = sq))

/-- In a replay an invocation stands for the earliest recorded one of its queue that none stands for yet (12 R421): a RESULT
whose sequence number no replayed command has. -/
def State.mapInvocation (q sq : Nat) (s : State) : State :=
  let w := s.wit
  let free := w.results.filter (fun e => decide (e.1 = q) && !w.accepts.any (fun a => decide (a.1 = q ∧ a.2.2.1 = e.2.1)) &&
    !w.seqMap.any (fun m => decide (m.1 = q ∧ m.2.2 = e.2.1)))
  match w.mode, (free.map (fun e => e.2.1)).min? with
  | .replay, some old => s.setWit { w with seqMap := w.seqMap ++ [(q, sq, old)] }
  | _, _ => s

/-- The next sequence number of a queue for an invocation record (R328); while the queue is stopped the invocations
share one (R336). In a replay its work runs from the witness log (R331). -/
def State.enterInvocation (q : Nat) (tag : BitVec 32) (boundary : Nat) (s : State) : Nat × State :=
  let v := s.queue q
  match v.stopped, v.merged with
  | true, some r => (r.seq, s)
  | st, _ =>
    let o : Outst := { seq := v.nextSeq, accept := boundary, captured := [], inv := true, replayed := decide (s.wit.mode = .replay),
                       pkt := { opcode := 0x1004, hdr := { (default : Header) with tag := tag, queue := BitVec.ofNat 16 q },
                                payload := [], put := [] } }
    let m : Option Record := if st then some { queue := q, seq := v.nextSeq, opcode := 0x1004, tag := tag, cflags := 6, accept := short boundary } else v.merged
    (v.nextSeq, (s.setQueue q { v with nextSeq := v.nextSeq + 1, outst := v.outst ++ [o], merged := m }).mapInvocation q v.nextSeq)

/-! ## Completion (R327, R329, R334) and the commit entry (14 R464 to R466) -/

def tagExt (tag : List Byte) (n : Nat) : List Byte := tag ++ leBytes 8 n ++ zeros 24

/-- The 64 bytes of a completion (R329). -/
def recordBytes (r : Record) : List Byte :=
  leBytes 1 (if r.ext.isEmpty then 2 else 3) ++ [r.status] ++ leBytes 2 r.queue ++ w32Bytes r.tag ++ leBytes 6 r.seq ++
    leBytes 2 r.opcode.toNat ++ w32Bytes r.flags ++ [r.cflags, 0] ++ leBytes 2 r.ltile.toNat ++ w32Bytes r.accept ++
    w32Bytes r.start ++ w32Bytes r.stop ++ w32Bytes r.cones ++ w64Bytes r.location ++ w64Bytes r.r0 ++ w64Bytes r.r1

/-- What EP1 IN carries for a message: a reply, or a completion and its extension (R325, R329, R334, R348). -/
def Ep1In.bytes : Ep1In → List Byte
  | .reply code queue tag sq reason stamp => replyBytes code queue tag sq reason stamp
  | .completion r => recordBytes r ++ r.ext

/-- The completion that a record's 64 bytes spell, with its extension. -/
def recordOf (bs ext : List Byte) : Record :=
  { queue := leAt 2 2 bs, seq := leAt 8 6 bs, opcode := BitVec.ofNat 16 (leAt 14 2 bs), tag := w32At 4 bs,
    status := bs.getD 1 0, flags := w32At 16 bs, cflags := bs.getD 20 0, ltile := BitVec.ofNat 16 (leAt 22 2 bs),
    accept := w32At 24 bs, start := w32At 28 bs, stop := w32At 32 bs, cones := w32At 36 bs, location := w64At 40 bs,
    r0 := w64At 48 bs, r1 := w64At 56 bs, ext := if leAt 0 1 bs = 3 then ext else [] }

def entryBytes (ix : Nat) (e : Effects) (r : Record) : List Byte :=
  leBytes 8 ix ++ leBytes 1 e.kind ++ zeros 7 ++ leBytes 8 e.payload.length ++ zeros 8 ++ recordBytes r ++
    (if r.ext.isEmpty then zeros 64 else r.ext) ++ e.digest ++ e.payload

/-- Writes an entry into the commit log of the device region (14 R464). -/
def State.logEntry (ix : Nat) (bs : List Byte) (s : State) : State := s.setTwin { s.twin with log := s.twin.log ++ [(ix, bs)] }

/-- Forms the commit entry and writes it into the commit log. A STANDBY device applies the ACTIVE device's entries, so its own
completions take no new index: their entries carry the last one applied (log entry 12); but for Q0 they wait for the ACTIVE
device's entry. Answers the index and whether the record waits. -/
def State.commitEntry (e : Effects) (r : Record) (s : State) : Nat × Bool × State :=
  if s.twin.role = .standby then
    (0, decide (r.queue ≠ 0), s.logEntry s.twin.applied.toNat (entryBytes s.twin.applied.toNat e r))
  else
    let ix := s.twin.applied.toNat + 1
    let bs := entryBytes ix e r
    let s := s.logEntry ix bs
    if s.mirrored then
      (ix, true, s.setTwin { s.twin with applied := BitVec.ofNat 64 ix, commitIx := ix, entries := s.twin.entries ++ [(ix, bs)],
                                         out := s.twin.out ++ [.entry bs] })
    else (ix, false, s.setTwin { s.twin with applied := BitVec.ofNat 64 ix, commitIx := ix })

/-- The place of a status in the order DONE, DONE_FLAGGED, PARTIAL, FAILED (R336). -/
def statusRank (st : Byte) : Nat := min st.toNat 0x20

/-- The worse status, in the order FAILED, PARTIAL, DONE_FLAGGED, DONE; the first of equals (R336). -/
def worseStatus (a b : Byte) : Byte := if statusRank a < statusRank b then b else a

/-- One more invocation in the merged record (R336). Status and location are those of the first invocation of the worst
rank, so that they agree (R332). -/
def mergeRecord (m r : Record) : Record :=
  if m.r0 = 0 then { r with seq := m.seq, cflags := 6, r0 := 1, r1 := 0, accept := m.accept }
  else
    let w := if statusRank m.status < statusRank r.status then r else m
    { m with status := w.status, location := w.location, flags := m.flags ||| r.flags, r0 := m.r0 + 1, stop := r.stop }

/-- Puts a finished record into the reorder buffer with its commit entry. -/
def State.reorderPut (q : Nat) (r : Record) (e : Effects) (cap : Nat) (s : State) : State :=
  let c := s.commitEntry e r
  let d : Done := { record := r, commit := c.1, mirrored := !c.2.1, capBytes := cap, tput := e.tput, vals := e.vals }
  c.2.2.updQueue q (fun v => { v with reorder := v.reorder ++ [d] })

/-- The invocations that still run under a shared sequence number. -/
def State.sharing (q sq : Nat) (s : State) : Nat :=
  (s.bindings.filter (fun b => decide (b.2.cqueue = q) &&
    ((b.2.running && decide (b.2.seq = some sq)) || b.2.pubs.any (fun x => x.held.isSome && decide (x.qseq = sq))))).length

/-- Closes the merged record once its queue runs again and no invocation still adds to it (R336). -/
def State.closeMerged (q : Nat) (s : State) : State :=
  let v := s.queue q
  match v.merged with
  | some m =>
    if !v.stopped && decide (s.sharing q m.seq = 0) && decide (m.r0 ≠ 0) then
      let s := s.setQueue q { v with merged := none, outst := v.outst.filter (fun o => decide (o.seq ≠ m.seq)) }
      s.reorderPut q m { } 0
    else s
  | none => s

/-- The extension of a command that is no job (R334; 12 R399): zeros where it failed. It names no image and feeds no byte, and
the spec states no tag for it, so the tag is free (log entry 184). -/
def State.bareExt (o : Outst) (r : Record) (s : State) : Record × State :=
  if o.inv || !bit o.pkt.hdr.flags 0 || !r.ext.isEmpty then (r, s)
  else if 0x20 ≤ r.status.toNat then ({ r with ext := zeros 64 }, s)
  else ({ r with ext := tagExt ((List.range 4).flatMap (fun i => w64Bytes (Config.free64 (s.freeIx + i)))) 0 }, { s with freeIx := s.freeIx + 4 })

/-- Completes an accepted command or invocation: its identity comes from the entry (R327, R329). -/
def State.completeAt (stop : W32) (q sq : Nat) (r : Record) (e : Effects) (s : State) : State :=
  match s.outstOf q sq with
  | none => s
  | some o =>
    let r := { r with queue := q, seq := sq, tag := o.pkt.hdr.tag, opcode := o.pkt.opcode, accept := short o.accept,
                      cflags := if o.inv then 2 else 0, stop := stop,
                      flags := r.flags ||| Fl.when o.rerun Fl.rerun ||| Fl.when o.replayed Fl.replayed }
    let x := s.bareExt o r
    let r := x.1
    let s := x.2
    let v := s.queue q
    match v.merged with
    | some m =>
      if m.seq = sq then (s.setQueue q { v with merged := some (mergeRecord m r) }).closeMerged q
      else (s.setQueue q { v with outst := v.outst.filter (fun x => decide (x.seq ≠ sq)) }).reorderPut q r e o.captured.length
    | none => (s.setQueue q { v with outst := v.outst.filter (fun x => decide (x.seq ≠ sq)) }).reorderPut q r e o.captured.length

/-- A command completes, and its work ends, now. -/
def State.complete (q sq : Nat) (r : Record) (e : Effects) (s : State) : State := s.completeAt (short s.now) q sq r e

/-- A completion with a status and nothing else. -/
def State.finish (q sq : Nat) (status : Byte) (s : State) : State := s.complete q sq { status := status } { }

/-! ## Release (R335, R336, R349; 12 R421) -/

/-- The first 128 bits over status, flags, location and result (12 R414). The flag REPLAYED tells a replay from the live run
and is left out, so that the two can be equal (log entry 203). -/
def resultDigest (r : Record) : List Byte :=
  (sha512 ([r.status] ++ w32Bytes (r.flags &&& ~~~Fl.replayed) ++ w64Bytes r.location ++ w64Bytes r.r0 ++ w64Bytes r.r1)).take 16

/-- Compares a replayed completion with its RESULT entry (12 R421). -/
def State.replayCheck (q : Nat) (d : Done) (s : State) : State :=
  let w := s.wit
  if w.mode = .replay then
    let old := match w.seqMap.find? (fun e => decide (e.1 = q ∧ e.2.1 = d.record.seq)) with
      | some e => e.2.2
      | none => d.record.seq
    match w.results.find? (fun e => decide (e.1 = q ∧ e.2.1 = old)) with
    | some e =>
      if e.2.2 = resultDigest d.record ++ d.vals then s
      else if d.tput then s.setWit { w with mismTput := satAdd w.mismTput 1 }
      else s.setWit { w with mismStrict := satAdd w.mismStrict 1, strictMis := true }
    | none => s
  else s

/-- A STANDBY device keeps the records of the pair's queues for its host; it offers them when it is promoted (R338, R339). -/
def State.keepsQuiet (q : Nat) (s : State) : Bool := decide (s.twin.role = .standby) && decide (q ≠ 0)

/-- Writes a record into the completion ring and delivers it once (R335). A pending-map bit that becomes set wakes the host
(16 R521). -/
def State.deliver (q : Nat) (r : Record) (s : State) : State :=
  let was := (s.queue q).pendingBit
  let s := s.updQueue q (fun v => { v with ring := v.ring ++ [r] })
  if s.keepsQuiet q then s else (s.toHost (.completion r)).signalIf (!was)

/-- The entry in the reorder buffer whose turn it is. -/
def Queue.turn (v : Queue) : Option Done := v.reorder.find? (fun d => decide (d.record.seq = v.released + 1))

/-- The warm reset that a REG_WRITE asked for starts 100 µs after its completion is released (15 R491). -/
def State.noteWarm (q sq : Nat) (s : State) : State :=
  if s.mg.warmCmd.contains (q, sq) then
    s.setMg { s.mg with warmCmd := s.mg.warmCmd.filter (fun e => decide (e ≠ (q, sq))), warmAt := s.mg.warmAt ++ [(s.up + 100000, 2)] }
  else s

/-- Releases the record whose turn it is, when its entry has been mirrored and the queue is not stopped. -/
def State.releaseNext (q : Nat) (s : State) : State :=
  let v := s.queue q
  match v.turn with
  | none => s
  | some d =>
    if v.stopped || !d.mirrored then s
    else
      let v' := { v with released := v.released + 1, reorder := v.reorder.filter (fun x => decide (x.record.seq ≠ d.record.seq)) }
      let s := ((s.replayCheck q d).setQueue q v').noteWarm q d.record.seq
      let s := s.witness 0x30 0 s.now (leBytes 2 q ++ leBytes 6 d.record.seq ++ resultDigest d.record ++ d.vals)
      let s := s.event 0x1C4 0 1
      if v.ring.length < v.depth ∧ v.overflow = [] then s.deliver q d.record
      else
        let o := v.overflow ++ [d.record]
        (s.updQueue q (fun x => { x with overflow := o, stopped := decide (o.length ≥ 4096) })).event 0x1C5 0 1

end Sys2Proof.Machine
end

