-- ==== Sys2Proof/Machine/Frames.lean ====
section
/-!
DEFINITION. The frames of the Ethernet ports as bytes: PTP messages over layer 2 and over UDP, their checksums and the frame check
sequence (12 R411, R414, R418; 16 R523, R525 to R529).
-/

set_option Elab.async false

namespace Sys2Proof.Machine

open Sys2Proof

/-! ## PTP messages (IEEE 1588-2019 layout, log entry 13) -/

def kindCode : PtpKind → Nat
  | .sync => 0
  | .delayReq => 1
  | .pdelay => 2
  | .followUp => 8
  | .delayResp => 9
  | .announce => 11
  | .signaling => 12
  | .management => 13

/-- An event message: it is stamped as it passes (12 R411; 16 R526). -/
def isEvent (k : PtpKind) : Bool := decide (k = .sync ∨ k = .delayReq ∨ k = .pdelay)

/-- The message from the PTP header onward. -/
def ptpBytes (m : PtpMsg) : List Byte :=
  [BitVec.ofNat 8 (kindCode m.kind), 2] ++ beBytes 2 (match m.kind with | .announce => 64 | .delayResp => 54 | _ => 44) ++
    [BitVec.ofNat 8 m.domain, 0, (if m.twoStep then 2 else 0), 0] ++ beBytes 8 (i64 m.correction).toNat ++ zeros 4 ++
    beBytes 8 m.clockId.toNat ++ beBytes 2 m.portNum.toNat ++ beBytes 2 m.seqId.toNat ++
    [0, BitVec.ofInt 8 m.logInterval] ++ beBytes 6 m.tsSec ++ beBytes 4 m.tsNs ++
    (match m.kind with
     | .delayResp => beBytes 8 m.reqClockId.toNat ++ beBytes 2 m.reqPort.toNat
     | .announce => zeros 3 ++ [BitVec.ofNat 8 m.priority1, BitVec.ofNat 8 m.clockClass, BitVec.ofNat 8 m.clockAccuracy] ++
         beBytes 2 m.variance ++ [BitVec.ofNat 8 m.priority2] ++ beBytes 8 m.grandmaster.toNat ++ beBytes 2 m.stepsRemoved ++ [0]
     | _ => [])

def beAt (o n : Nat) (bs : List Byte) : Nat := leNat ((bs.drop o).take n).reverse

/-- Bytes of a frame with some of them replaced from an offset on. -/
def patch (o : Nat) (new bs : List Byte) : List Byte := bs.take o ++ new ++ bs.drop (o + new.length)

/-- Where a received frame's network header begins: after one 802.1Q tag, if it has one. -/
def netAt (f : List Byte) : Nat := if beAt 12 2 f = 0x8100 then 18 else 14

/-- Where a received frame's UDP header begins. -/
def udpAt (f : List Byte) : Nat := netAt f + 4 * ((f.getD (netAt f) 0).toNat % 16)

/-- Where a received frame's PTP header begins. -/
def ptpAt (udp : Bool) (f : List Byte) : Nat := if udp then udpAt f + 8 else netAt f

/-- The received frame from the PTP header onward: as it came where its bytes are at hand. -/
def ptpReceived (m : PtpMsg) : List Byte := if m.frame.isEmpty then ptpBytes m else m.frame.drop (ptpAt m.udp m.frame)

/-! ## Checksums -/

/-- The ones' complement sum of 16 bits. -/
def fold16 (n : Nat) : Nat :=
  let a := n % 65536 + n / 65536
  let b := a % 65536 + a / 65536
  b % 65536 + b / 65536

def words16 : List Byte → List Nat
  | a :: b :: bs => (256 * a.toNat + b.toNat) :: words16 bs
  | [a] => [256 * a.toNat]
  | [] => []

def sum16 (bs : List Byte) : Nat := fold16 (words16 bs).sum

/-- A checksum after some of the words that it covers have changed; a checksum of 0 says that there is none (12 R411). -/
def sumUpdated (old : Nat) (before after : List Byte) : Nat :=
  if old = 0 then 0
  else
    let c := 65535 - fold16 ((65535 - old) + ((words16 before).map (65535 - ·)).sum + (words16 after).sum)
    if c = 0 then 65535 else c

/-- A frame with its frame check sequence. -/
def withFcs (f : List Byte) : List Byte := f ++ w32Bytes (crc32 f)

/-- A received frame with a new correctionField: the UDP checksum is updated and the FCS formed anew (12 R411). -/
def forwarded (m : PtpMsg) (correction : Int) : List Byte :=
  let f := m.frame
  let o := ptpAt m.udp f + 8
  let new := beBytes 8 (i64 correction).toNat
  let g := patch o new f
  let u := udpAt f + 6
  withFcs (if m.udp then patch u (beBytes 2 (sumUpdated (beAt u 2 f) (slice o 8 f) new)) g else g)

/-! ## The frames of a port -/

/-- clockIdentity: the MAC address with 0xFFFE after its third byte (16 R528). -/
def EthPort.clockId (e : EthPort) : BitVec 64 := at64 (fld e.mac 24 24) 40 ||| at64 0xFFFE 24 ||| at64 (fld e.mac 0 24) 0

/-- A signed field of four bits of ETH_CTL (16 R538). -/
def EthPort.log4 (o : Nat) (e : EthPort) : Int := (BitVec.ofNat 4 (fld e.ctl o 4)).toInt

/-- A message of the port's own: its dataset, its intervals, and for a Delay_Resp the port that asked (16 R528, R529). -/
def EthPort.message (k : PtpKind) (sq : BitVec 16) (sec ns : Nat) (c : Int) (req : Option PtpMsg) (e : EthPort) : PtpMsg :=
  { (default : PtpMsg) with
    kind := k, domain := fld e.ctl 40 8, clockId := e.clockId, portNum := 1, seqId := sq, twoStep := false, correction := c, tsSec := sec, tsNs := ns,
    priority1 := fld e.ctl 32 8, clockClass := 248, clockAccuracy := 0xFE, variance := 0xFFFF, priority2 := fld e.ctl 24 8, grandmaster := e.clockId,
    stepsRemoved := 0, udp := bit e.ctl 5, frame := [],
    reqClockId := match req with | some r => r.clockId | none => 0
    reqPort := match req with | some r => r.portNum | none => 0
    logInterval := match k with | .sync => e.log4 20 | .delayResp => e.log4 20 | .announce => e.log4 16 | _ => 0x7F }

/-- A frame of the port's own, padded to the least length of Ethernet. -/
def EthPort.framed (dst : Nat) (ethertype : Nat) (body : List Byte) (e : EthPort) : List Byte :=
  let f := beBytes 6 dst ++ beBytes 6 (fld e.mac 0 48) ++ beBytes 2 ethertype ++ body
  withFcs (f ++ zeros (60 - f.length))

/-- PTP over layer 2, or over UDP to 224.0.1.129 only (16 R525, R527; log entry 13). -/
def EthPort.ptpFrame (m : PtpMsg) (e : EthPort) : List Byte :=
  let b := ptpBytes m
  if m.udp then
    let udpPort := if isEvent m.kind then 319 else 320
    let src := beBytes 4 (fld e.ip 0 32)
    let dst := beBytes 4 0xE0000181
    let ip := fun (sum : Nat) => [0x45, 0] ++ beBytes 2 (28 + b.length) ++ [0, 0, 0, 0, 1, 17] ++ beBytes 2 sum ++ src ++ dst
    let udp := fun (sum : Nat) => beBytes 2 udpPort ++ beBytes 2 udpPort ++ beBytes 2 (8 + b.length) ++ beBytes 2 sum ++ b
    let s := 65535 - sum16 (src ++ dst ++ beBytes 2 17 ++ beBytes 2 (8 + b.length) ++ udp 0)
    e.framed 0x01005E000181 0x0800 (ip (65535 - sum16 (ip 0)) ++ udp (if s = 0 then 65535 else s))
  else e.framed 0x011B19000000 0x88F7 b

/-- The frame as bytes: a forwarded one is the received one with its new correctionField; a stream frame has the header of 12 R418. -/
def EthPort.bytesOf (o : EthOut) (e : EthPort) : List Byte :=
  match o with
  | .ptp k sq sec ns c fwd =>
    match fwd with
    | some m =>
      if m.kind ≠ k then e.ptpFrame (e.message k sq sec ns c fwd)
      else if m.frame.isEmpty then e.ptpFrame { m with correction := c }
      else forwarded m c
    | none => e.ptpFrame (e.message k sq sec ns c none)
  | .stream ty no first body => e.framed Config.streamDst.toNat ty.toNat (leBytes 4 no ++ leBytes 2 first ++ zeros 2 ++ body)

/-- How long a frame is in transmission: 487 ns for 1,522 bytes at 25GBASE-R, 1,218 ns at 10GBASE-R (16 R526). -/
def EthPort.frameNs (n : Nat) (e : EthPort) : Nat := if bit e.ctl 1 then (8 * n + 12) / 25 else (8 * n + 5) / 10

end Sys2Proof.Machine
end

