-- ==== Sys2Proof/Machine/Time.lean ====
section
/-!
DEFINITION. The device counter, its servo, precise time over Ethernet, holdover, PPS, the transparent clock and the
Ethernet ports (12 R400 to R411, R424, R425; 16 R524 to R531, R538, R539).
-/

set_option Elab.async false

namespace Sys2Proof.Machine

open Sys2Proof

/-! ## The counter (12 R400) -/

def incNominal : Int := 0xAAAAAAAB
def incMin : Int := 0xAAA64C30
def incMax : Int := 0xAAAF0926

/-- One tick of seconds, nanoseconds and fraction by an increment. -/
def tickBy (sec ns frac inc : Nat) : Nat × Nat × Nat :=
  let f := frac + inc
  let n := ns + f / 2 ^ 32
  if n ≥ 1000000000 then (sec + 1, n - 1000000000, f % 2 ^ 32) else (sec, n, f % 2 ^ 32)

def Timebase.tick (b : Timebase) : Timebase :=
  let r := tickBy b.sec.toNat b.ns.toNat b.frac.toNat b.inc.toNat
  { b with sec := BitVec.ofNat 48 r.1, ns := BitVec.ofNat 30 r.2.1, frac := BitVec.ofNat 32 r.2.2 }

/-- The shadow counter of a replay goes on at the saved increment (12 R422). -/
def ShadowCtr.tick (c : ShadowCtr) : ShadowCtr :=
  let r := tickBy c.sec.toNat c.ns.toNat c.frac.toNat c.inc.toNat
  { c with sec := BitVec.ofNat 48 r.1, ns := BitVec.ofNat 30 r.2.1, frac := BitVec.ofNat 32 r.2.2 }

/-- The counter in units of 2^-16 ns, the unit of the PTP stamps (12 R406). -/
def State.now16 (s : State) : Int := (s.now * 65536 + s.tb.frac.toNat / 65536 : Nat)

/-- Sets the counter to a value in 2^-32 ns: a step (12 R403). -/
def State.stepTo (v : Nat) (s : State) : State :=
  let n := v / 2 ^ 32
  let b := { s.tb with sec := BitVec.ofNat 48 (n / 1000000000), ns := BitVec.ofNat 30 (n % 1000000000),
                       frac := BitVec.ofNat 32 v, steps := satAdd s.tb.steps 1 }
  let b := { b with stepped := s.tb.stepped + ((s.setTb b).now : Int) - (s.now : Int) }
  ((s.setTb b).event 0x2C2 0 1).journalDev 0x40 0

/-- Steps by minus theta, which sets the counter to its source's time (12 R403, R404). -/
def State.stepBack (theta : Int) (s : State) : State :=
  let v : Int := (s.now * 2 ^ 32 + s.tb.frac.toNat : Nat) - theta * 65536
  (s.stepTo v.toNat).setTb { (s.stepTo v.toNat).tb with timescale := true, stepWait := false }

/-! ## The servo (12 R407, R409) -/

/-- TB_SERVO as last written (12 R425). -/
def Timebase.written (b : Timebase) : W64 := b.servoNext.getD b.servo

def Timebase.src (b : Timebase) : Nat := fld b.written 62 2
def Timebase.qualN (b : Timebase) : Nat := fld b.servo 56 4
def Timebase.lostN (b : Timebase) : Nat := fld b.servo 52 4
def Timebase.ki (b : Timebase) : Nat := fld b.servo 16 16
def Timebase.kp (b : Timebase) : Nat := fld b.servo 0 16

/-- A TB_SERVO write takes effect (12 R425): at the next valid offset, and where no servo moves the increment at once
(log entry 202). -/
def Timebase.takeWrite (b : Timebase) : Timebase := { b with servo := b.written, servoNext := none }

/-- Puts an increment in force; it is a witness entry (12 R414). -/
def State.setInc (v : W64) (s : State) : State :=
  let s := s.setTb { s.tb with inc := v, incHist := (v.toNat :: s.tb.incHist).take 16 }
  s.witness 0x03 0 s.now (w64Bytes v)

/-- acc such that an update with theta = 0 leaves inc unchanged, toward zero (12 R407). -/
def Timebase.presetAcc (b : Timebase) : Int :=
  if b.ki = 0 then b.acc else tdiv ((incNominal - (b.inc.toNat : Int)) * 2 ^ 24) b.ki

/-- acc and inc after a valid offset (12 R407). -/
def servoStep (b : Timebase) (theta : Int) : Int × Int :=
  let acc := clampI (b.acc + theta) (-(2 ^ 40)) (2 ^ 40)
  let adj := ((b.kp : Int) * theta + (b.ki : Int) * acc) / 2 ^ 24
  (acc, clampI (incNominal - adj) (incNominal - 286331) (incNominal + 286331))

/-- The servo before an update: a TB_SERVO write takes effect, and acc takes the preset that a resumption left open, under
the gains of this update (12 R407, R425). -/
def Timebase.ready (b : Timebase) : Timebase :=
  let c := { b with servo := b.written, servoNext := none }
  if c.preset then { c with acc := c.presetAcc, preset := false } else c

/-- The servo moves (12 R407). A STANDBY device computes what its own source gives with an acc of its own, and does not
apply it (01 R34). -/
def State.servoUpdate (theta : Int) (apply : Bool) (s : State) : State :=
  let b := s.tb.ready
  if apply then
    let r := servoStep b theta
    ((s.setTb { b with acc := r.1 }).event 0x2C0 0 1).setInc (i64 r.2)
  else
    (s.setTb { s.tb with servo := b.servo, servoNext := none, ptpAcc := (servoStep { b with acc := b.ptpAcc } theta).1 }).event 0x2C0 0 1

def timeEvent (code : Nat) (s : State) : State := s.witness 0x05 0 s.now (leBytes 1 code ++ leBytes 1 s.tb.modeCfg.toNat ++ leBytes 1 s.tb.modeEff.toNat)

/-- Holdover entry: the mean of the last increments, rounded to nearest (12 R409). A STANDBY device follows the twin lock, and
a replay its log (01 R34, R36). -/
def State.enterHoldover (s : State) : State :=
  if s.tb.modeCfg ≠ 0 ∨ s.tb.holdover ∨ s.twin.role = .standby ∨ s.wit.mode = .replay then s
  else
    let h := s.tb.incHist
    let mean := (2 * h.sum + h.length) / (2 * h.length)
    let s := s.setTb { s.tb.takeWrite with modeEff := 2, holdover := true, holdovers := satAdd s.tb.holdovers 1,
                                           validRun := 0, qualified := false }
    let s := if h.isEmpty then s else s.setInc (BitVec.ofNat 64 mean)
    timeEvent 1 ((s.event 0x2C1 0 1).journalDev 0x40 1)

/-- Holdover exit with acc preset, so that the rate does not step (12 R407, R409). -/
def State.exitHoldover (s : State) : State :=
  let s := s.setTb { s.tb with modeEff := 0, holdover := false, preset := true }
  timeEvent 2 (s.journalDev 0x40 1)

/-- The increments that every mode keeps to (12 R400). -/
def limitInc (v : W64) : W64 := i64 (clampI (v.toNat : Int) incMin incMax)

/-- The configured mode takes over from what governed the timebase, the twin lock or a log: the count and the increment go on
from where they are, whatever increment was stored meanwhile (01 R34, R36; log entry 186). -/
def State.resumeMode (s : State) : State :=
  let b := s.tb
  let t := s.setTb { b with modeEff := b.modeCfg, holdover := decide (b.modeCfg = 2), preset := decide (b.modeCfg = 0), steer := none }
  if t.tb.modeEff = b.modeEff ∧ t.tb.holdover = b.holdover then t else timeEvent 0 (t.journalDev 0x40 1)

/-- A step is allowed (12 R403). -/
def State.stepAllowed (s : State) : Bool := s.stampLong && s.nothingTimed

/-- The first setting of the scale concerns a SOLO device in SERVICE whose scale is its own (12 R404). -/
def State.firstScale (s : State) : Bool :=
  decide (s.twin.role = .solo) && !s.stampLong && !s.tb.timescale

/-- A valid offset from the selected source (12 R403, R404, R407, R409; 01 R34, R36). In every mode it counts toward the qualification
of the source, and a TB_SERVO write takes effect. -/
def State.offset (theta : Int) (s : State) : State :=
  let b := s.tb.takeWrite
  let run := b.validRun + 1
  let newly := decide (run ≥ b.qualN)
  let s := s.setTb { b with theta := theta, validRun := run, lastOffset := s.up, qualified := b.qualified || newly }
  if s.twin.role = .standby then s.servoUpdate theta false
  else if b.modeCfg ≠ 0 ∨ s.wit.mode = .replay then s
  else
    if s.firstScale && newly then
      if s.nothingTimed then s.stepBack theta else s.setTb { s.tb with stepWait := true }
    else if s.tb.stepWait then s
    else if b.holdover then (if newly then s.exitHoldover.servoUpdate theta true else s)
    else if s.stepAllowed && decide (theta.natAbs > 65536000000) then s.stepBack theta
    else s.servoUpdate theta true

/-! ## PTP (12 R406, 16 R527 to R530) -/

/-- A port on which PTP runs. -/
def EthPort.ptpOn (e : EthPort) : Bool := bit e.ctl 0 && bit e.ctl 4

def EthPort.rxDly (e : EthPort) : Int := fld e.dly 0 32
def EthPort.txDly (e : EthPort) : Int := fld e.dly 32 32

/-- Whether the source selection includes the port (12 R405). -/
def srcPort (b : Timebase) (p : Nat) : Bool := decide (b.src = p) || decide (b.src = 2)

/-- Seconds that 2^l stands for, in nanoseconds. -/
def logNs (l : Int) : Nat := if l ≥ 0 then 1000000000 * 2 ^ l.toNat else 1000000000 / 2 ^ (-l).toNat

/-- A received PTP message is recorded with its ingress stamp, which is corrected (01 R36; 16 R530). -/
def State.ptpRecord (p : Nat) (m : PtpMsg) (s : State) : State :=
  s.witness 0x04 p s.now ([BitVec.ofNat 8 p] ++ w64Bytes (i64 (m.ingress - (s.port p).rxDly)) ++ ptpReceived m)

/-- A consumed PTP message: counted and recorded. In REPLAY it is counted and dropped (01 R36). Answers none where
the port does not take it. -/
def State.ptpTake (p : Nat) (m : PtpMsg) (s : State) : Option State :=
  let e := s.port p
  if !e.ptpOn || decide (m.domain ≠ fld e.ctl 40 8) then none
  else if s.wit.mode = .replay then none
  else some ((((s.setPort p { e with rxPtp := satAdd e.rxPtp 1 }).event 0x283 (p + 1) 1).event 0x280 (p + 1) 1).ptpRecord p m)

/-- A message that the port does not take: in REPLAY it is counted and dropped; one of another domain is recorded and
ignored (01 R36; 16 R527). -/
def State.ptpDrop (p : Nat) (m : PtpMsg) (s : State) : State :=
  if !(s.port p).ptpOn then s
  else if s.wit.mode = .replay then s.updPort p (fun e => { e with rxDropped := satAdd e.rxDropped 1 })
  else s.ptpRecord p m

/-- The timestamp of a message in 2^-16 ns. -/
def ptpTs (m : PtpMsg) : Int := ((m.tsSec * 1000000000 + m.tsNs) * 65536 : Nat)

/-- Whether a message comes from the selected leader on its port. -/
def State.fromLeader (p : Nat) (m : PtpMsg) (s : State) : Bool :=
  decide (s.tb.leader = some (p, m.clockId)) && srcPort s.tb p

/-- t1 and t2 of a Sync give the offset (12 R406). -/
def State.syncOffset (p : Nat) (t1 t2 : Int) (s : State) : State :=
  (s.setTb { s.tb with lastSync := some (p, t1, t2), sync := none }).offset (t2 - t1 - s.tb.pd)

/-- A Sync (12 R406): the ingress stamp less rx_dly; a two-step Sync waits for its Follow_Up. -/
def State.ptpSync (p : Nat) (m : PtpMsg) (s : State) : State :=
  match s.ptpTake p m with
  | none => s.ptpDrop p m
  | some s =>
    if !s.fromLeader p m then s
    else
      let t2 := m.ingress - (s.port p).rxDly
      let s := s.setTb { s.tb with syncIvl := logNs m.logInterval }
      if m.twoStep then s.setTb { s.tb with sync := some (p, { m with ingress := t2 }) }
      else s.syncOffset p (ptpTs m + m.correction) t2

/-- The Follow_Up of the Sync that waits. -/
def State.ptpFollowUp (p : Nat) (m : PtpMsg) (s : State) : State :=
  match s.ptpTake p m with
  | none => s.ptpDrop p m
  | some s =>
    match s.tb.sync with
    | some (q, y) =>
      if q = p ∧ y.clockId = m.clockId ∧ y.portNum = m.portNum ∧ y.seqId = m.seqId ∧ s.fromLeader p m then
        s.syncOffset p (ptpTs m + m.correction + y.correction) y.ingress
      else s
    | none => s

/-- A Delay_Resp gives one delay; pd is the mean of the last eight (12 R406). Quotients round toward zero. -/
def State.ptpDelayResp (p : Nat) (m : PtpMsg) (s : State) : State :=
  match s.ptpTake p m with
  | none => s.ptpDrop p m
  | some s =>
    match s.tb.lastSync, s.tb.delayReq.find? (fun e => decide (e.1 = p ∧ e.2.1 = m.seqId)) with
    | some (q, t1, t2), some (_, _, t3) =>
      if q = p ∧ m.reqClockId = (s.port p).clockId ∧ s.fromLeader p m then
        let d := tdiv ((t2 - t1) + (ptpTs m - t3 - m.correction)) 2
        let ds := (d :: s.tb.delays).take 8
        s.setTb { s.tb with delays := ds, pd := tdiv ds.sum ds.length, reqIvl := logNs m.logInterval,
                            delayReq := s.tb.delayReq.filter (fun e => decide ¬ (e.1 = p ∧ e.2.1 = m.seqId)) }
      else s
    | _, _ => s

/-- Whether the first of two lists comes before the second. -/
def listBefore : List Nat → List Nat → Bool
  | x :: xs, y :: ys => if x < y then true else if y < x then false else listBefore xs ys
  | _, _ => false

/-- A dataset of the comparison: the grandmaster, what it announces of itself, and the path by which it is heard. -/
structure Dataset where
  grandmaster : Nat
  quality : List Nat
  path : List Nat

/-- The dataset comparison: whether the first beats the second (IEEE 1588-2019, log entry 13). Two of one grandmaster are
compared by their paths: steps removed, sender, and receiving port. -/
def betterDs (a b : Dataset) : Bool :=
  if a.grandmaster = b.grandmaster then listBefore a.path b.path
  else listBefore (a.quality ++ [a.grandmaster]) (b.quality ++ [b.grandmaster])

/-- The dataset that a message announces, heard on a port. -/
def ptpDataset (p : Nat) (m : PtpMsg) : Dataset :=
  { grandmaster := m.grandmaster.toNat, quality := [m.priority1, m.clockClass, m.clockAccuracy, m.variance, m.priority2],
    path := [m.stepsRemoved, m.clockId.toNat, m.portNum.toNat, p] }

/-- The device's own dataset on a port (16 R528). -/
def EthPort.dataset (p : Nat) (e : EthPort) : Dataset := ptpDataset p (e.message .announce 0 0 0 0 none)

/-- A foreign leader counts with 2 Announces in 4 announce intervals (16 R528). -/
def Foreign.counts (t : Nat) (f : Foreign) : Bool :=
  decide ((f.heard.filter (fun h => decide (t ≤ h + 4 * logNs f.msg.logInterval))).length ≥ 2)

def bestForeign : List Foreign → Option Foreign
  | [] => none
  | f :: fs =>
    match bestForeign fs with
    | none => some f
    | some g => if betterDs (ptpDataset f.port f.msg) (ptpDataset g.port g.msg) then some f else some g

/-- Whether a port's own dataset wins, so that it becomes leader (16 R528). -/
def State.ownWins (p : Nat) (best : Option Foreign) (s : State) : Bool :=
  let e := s.port p
  e.ptpOn && bit e.ctl 6 && (match best with
    | none => true
    | some f => betterDs (e.dataset p) (ptpDataset f.port f.msg))

/-- Leader selection over the foreign leaders heard, and the states of both ports (16 R528). A change of the selected
leader enters holdover. -/
def State.selectLeader (s : State) : State :=
  let live := s.tb.foreign.filter (fun f => Foreign.counts s.up f && (s.port f.port).ptpOn)
  let best := bestForeign live
  let cand := bestForeign (live.filter (fun f => srcPort s.tb f.port && !s.ownWins f.port best))
  let sel := cand.map (fun f => (f.port, f.msg.clockId))
  let st := fun (p : Nat) =>
    if !(s.port p).ptpOn then (0 : BitVec 3)
    else if s.ownWins p best then 3
    else match sel with
      | some l => if l.1 = p then 2 else 4
      | none => 1
  let old := s.tb.leader
  let s := (s.updPort 0 (fun e => { e with ptpState := st 0 })).updPort 1 (fun e => { e with ptpState := st 1 })
  if sel = old then s
  else
    let s := s.setTb { s.tb with leader := sel, validRun := 0, qualified := false, delays := [], sync := none, lastSync := none }
    if old.isSome then s.enterHoldover else s

/-- An Announce: noted as a foreign leader, then selection runs (16 R528). -/
def State.ptpAnnounce (p : Nat) (m : PtpMsg) (s : State) : State :=
  match s.ptpTake p m with
  | none => s.ptpDrop p m
  | some s =>
    let same := fun (f : Foreign) => decide (f.port = p ∧ f.msg.clockId = m.clockId ∧ f.msg.portNum = m.portNum)
    let heard := match s.tb.foreign.find? same with
      | some f => f.heard
      | none => []
    let f : Foreign := { port := p, msg := m, heard := (s.up :: heard).take 4 }
    (s.setTb { s.tb with foreign := f :: s.tb.foreign.filter (fun g => !same g) }).selectLeader

/-- The egress stamp of a frame that leaves now (16 R530). -/
def State.egress (p : Nat) (s : State) : Int := s.now16 + (s.port p).txDly

def ns16 (t : Int) : Nat × Nat := ((t / 65536).toNat / 1000000000, (t / 65536).toNat % 1000000000)

/-- A frame leaves, and the port is busy with it. -/
def State.depart (p : Nat) (o : EthOut) (s : State) : State :=
  let e := s.port p
  let bs := e.bytesOf o
  (s.setPort p { e with out := e.out ++ [o], wire := e.wire ++ [bs], busy := s.up + e.frameNs bs.length }).event 0x281 (p + 1) 1

/-- A frame leaves an enabled port at once, or waits while another is in transmission (16 R526, R538). -/
def State.send (p : Nat) (o : EthOut) (s : State) : State :=
  let e := s.port p
  if !bit e.ctl 0 then s
  else if e.wait.isEmpty && decide (e.busy ≤ s.up) then s.depart p o
  else s.setPort p { e with wait := e.wait ++ [o] }

/-- Whether a waiting frame is a PTP event frame of the port's own. -/
def EthOut.event : EthOut → Bool
  | .ptp k .. => isEvent k
  | .stream .. => false

/-- The stamps of a frame that had to wait are taken as it leaves (16 R526, R529). -/
def State.restamp (p : Nat) (o : EthOut) (s : State) : State × EthOut :=
  let t := s.egress p
  match o with
  | .ptp .sync sq _ _ _ none => (s, .ptp .sync sq (ns16 t).1 (ns16 t).2 (t % 65536) none)
  | .ptp .delayReq sq _ _ _ none =>
    (s.setTb { s.tb with delayReq := s.tb.delayReq.map (fun x => if x.1 = p ∧ x.2.1 = sq then (x.1, x.2.1, t) else x) }, o)
  | _ => (s, o)

/-- When the frame in transmission has left, the first waiting PTP event frame goes, or else the first of the others (16 R526). -/
def State.portNext (p : Nat) (s : State) : State :=
  let e := s.port p
  if e.wait.isEmpty || decide (s.up < e.busy) then s
  else
    let next := match e.wait.find? EthOut.event with
      | some o => some o
      | none => e.wait.head?
    match next with
    | none => s
    | some o =>
      let r := (s.setPort p { e with wait := e.wait.erase o }).restamp p o
      r.1.depart p r.2

/-- As leader: a Delay_Req is answered with its corrected ingress stamp (16 R529). -/
def State.ptpDelayReq (p : Nat) (m : PtpMsg) (s : State) : State :=
  match s.ptpTake p m with
  | none => s.ptpDrop p m
  | some s =>
    if (s.port p).ptpState = 3 then
      let t4 := m.ingress - (s.port p).rxDly
      s.send p (.ptp .delayResp m.seqId (ns16 t4).1 (ns16 t4).2 (m.correction - t4 % 65536) (some m))
    else s

/-- As follower: one Delay_Req leaves in each advertised interval, and its egress stamp t3 is kept (12 R406, 16 R529). -/
def State.delayReqOut (p : Nat) (s : State) : State :=
  let e := s.port p
  if e.ptpState = 2 ∧ e.reqAt ≠ some (s.up / s.tb.reqIvl) then
    let t3 := s.egress p
    let s := s.setTb { s.tb with delayReq := (p, e.seqId, t3) :: s.tb.delayReq.take 7 }
    (s.setPort p { e with seqId := e.seqId + 1, reqAt := some (s.up / s.tb.reqIvl) }).send p (.ptp .delayReq e.seqId 0 0 0 none)
  else s

/-- An interval has passed since a message was sent last. -/
def passed (last : Option Nat) (ivl now : Nat) : Bool := last.all (fun c => decide (c + ivl ≤ now))

/-- As leader: a one-step Sync every 2^log_sync s, whose origin is the egress count (12 R411, 16 R529). -/
def State.syncOut (p : Nat) (s : State) : State :=
  let e := s.port p
  if e.ptpState = 3 ∧ passed e.syncAt (logNs (e.log4 20)) s.up = true then
    let t := s.egress p
    (s.setPort p { e with seqId := e.seqId + 1, syncAt := some s.up }).send p (.ptp .sync e.seqId (ns16 t).1 (ns16 t).2 (t % 65536) none)
  else s

/-- As leader: an Announce every 2^log_announce s (16 R529). -/
def State.announceOut (p : Nat) (s : State) : State :=
  let e := s.port p
  if e.ptpState = 3 ∧ passed e.annAt (logNs (e.log4 16)) s.up = true then
    (s.setPort p { e with seqId := e.seqId + 1, annAt := some s.up }).send p (.ptp .announce e.seqId 0 0 0 none)
  else s

/-! ## Transparent clock (12 R411, 16 R527, R531) -/

def State.tcOn (s : State) : Bool := bit (s.port 0).ctl 7 && (s.port 0).ptpOn && (s.port 1).ptpOn

def sameSync (m : PtpMsg) (r : BitVec 64 × BitVec 16 × BitVec 16 × Int × Nat) : Bool :=
  decide (r.1 = m.clockId ∧ r.2.1 = m.portNum ∧ r.2.2.1 = m.seqId)

/-- A PTP frame received on port `p` leaves on the other at the PCS stamp `egress`, before any of the device's own (16 R526); in REPLAY
none does (01 R36). -/
def State.tcForward (p : Nat) (m : PtpMsg) (egress : Int) (s : State) : State :=
  let q := 1 - p
  let out := fun (c : Int) (s : State) => s.depart q (.ptp m.kind m.seqId m.tsSec m.tsNs c (some { m with correction := c }))
  if !s.tcOn ∨ s.wit.mode = .replay then s
  else
    let res := (egress + (s.port q).txDly) - (m.ingress - (s.port p).rxDly)
    match m.kind with
    | .pdelay => s
    | .delayReq => out (m.correction + res) s
    | .sync =>
      if m.twoStep then
        let s := s.updPort p (fun e => if e.residences.length < 16 then
          { e with residences := e.residences ++ [(m.clockId, m.portNum, m.seqId, res, s.up)] } else e)
        out m.correction s
      else out (m.correction + res) s
    | .followUp =>
      match (s.port p).residences.find? (sameSync m) with
      | some r => out (m.correction + r.2.2.2.1) (s.updPort p (fun e => { e with residences := e.residences.filter (fun x => !sameSync m x) }))
      | none => out m.correction s
    | .delayResp => out m.correction s
    | .announce => out m.correction s
    | .signaling => out m.correction s
    | .management => out m.correction s

/-- A held residence with no Follow_Up within 1 s is discarded and counted (12 R411). -/
def State.tcTimeout (p sid : Nat) (sq : BitVec 16) (s : State) : State :=
  let hit := fun (r : BitVec 64 × BitVec 16 × BitVec 16 × Int × Nat) =>
    decide (r.1.toNat * 65536 + r.2.1.toNat = sid ∧ r.2.2.1 = sq ∧ r.2.2.2.2 + 1000000000 ≤ s.up)
  let e := s.port p
  if e.residences.any hit then
    s.setPort p { e with residences := e.residences.filter (fun r => !hit r), tcUnmatched := satAdd e.tcUnmatched 1 }
  else s

/-! ## Ethernet frames and registers (16 R525, R527, R538, R539) -/

/-- Whether the port consumes the frame (16 R525). -/
def EthPort.consumes (e : EthPort) (fr : EthFrame) : Bool :=
  let tagOk := !fr.tagged || (bit e.ctl 8 && decide (fr.vid = BitVec.ofNat 12 (fld e.ctl 48 12)))
  let l2 := decide (fr.ethertype = 0x88F7) && (decide (fr.dst = 0x011B19000000) || decide (fr.dst.toNat = fld e.mac 0 48))
  let udp := decide (fr.ethertype = 0x0800) && (decide (fr.dstIp = 0xE0000181) || decide (fr.dstIp.toNat = fld e.ip 0 32)) &&
    (decide (fr.udpPort = 319) || decide (fr.udpPort = 320))
  tagOk && !fr.pause && (l2 || udp)

/-- A frame that is not consumed is dropped and counted; Pdelay is dropped and counted, Signaling and Management are
ignored and counted (16 R525, R527). A consumed frame of another kind is the PTP commands' own. -/
def State.ethFrame (p : Nat) (fr : EthFrame) (s : State) : State :=
  let e := s.port p
  if !bit e.ctl 0 then s
  else if !fr.fcsOk then (s.setPort p { e with fcsErr := satAdd e.fcsErr 1 }).event 0x282 (p + 1) 1
  else
    let unused := fun (m : PtpMsg) => decide (m.kind = .pdelay ∨ m.kind = .signaling ∨ m.kind = .management)
    let drop := (s.setPort p { e with rxDropped := satAdd e.rxDropped 1 }).event 0x280 (p + 1) 1
    match e.consumes fr, fr.ptp with
    | true, some m => if !unused m then s else if e.ptpOn then drop.ptpRecord p m else drop
    | _, _ => drop

/-- Whether the port is the selected time source (16 R538). -/
def State.isSource (p : Nat) (s : State) : Bool :=
  decide (s.tb.src = p) || (decide (s.tb.src = 2) && (match s.tb.leader with
    | some l => decide (l.1 = p)
    | none => false))

/-- ETH_CTL: a change of en, rate, fec_en or udp drops the link (16 R538). -/
def State.ethCtl (p : Nat) (v : W64) (s : State) : State :=
  let e := s.port p
  let drops := decide ((e.ctl ^^^ v) &&& 0x27 ≠ 0)
  let e' := if drops then { e with ctl := v, linkUp := false, fecLock := false } else { e with ctl := v }
  let src := s.isSource p
  let s := s.setPort p e'
  let s := if drops && src then s.enterHoldover else s
  s.selectLeader

def ethWritable : W64 := 0x0FFFFFFFFFFF03F7

def EthPort.peek (o : Nat) (e : EthPort) : Option W64 :=
  match o with
  | 0x00 => some (e.ctl &&& ethWritable)
  | 0x08 => some e.dly
  | 0x10 => some (e.mac &&& 0xFFFFFFFFFFFF)
  | 0x18 => some (e.ip &&& 0xFFFFFFFF)
  | 0x20 => some (at64 (b2n e.fecLock) 4 ||| at64 (b2n e.linkUp) 3 ||| at64 e.ptpState.toNat 0)
  | 0x28 => some (at64 e.rxPtp.toNat 48 ||| at64 e.rxDropped.toNat 32 ||| at64 e.tcUnmatched.toNat 16 ||| at64 e.fcsErr.toNat 0)
  | _ => none

/-- The RC fields that a read of the register clears. -/
def EthPort.clear (o : Nat) (e : EthPort) : EthPort :=
  if o = 0x28 then { e with rxPtp := 0, rxDropped := 0, tcUnmatched := 0, fcsErr := 0 } else e

/-! ## Timebase registers (12 R424, R425) -/

def State.tbPeek (o : Nat) (s : State) : Option W64 :=
  let b := s.tb
  match o with
  | 0x00 => some (at64 b.sec.toNat 0)
  | 0x08 => some (at64 b.ns.toNat 0)
  | 0x10 => some b.inc
  | 0x18 => some (at64 b.steps.toNat 48 ||| at64 b.holdovers.toNat 32 ||| at64 (b2n b.stepWait) 10 ||| at64 (b2n b.timescale) 9 |||
      at64 (b2n b.qualified) 8 ||| at64 (b2n b.holdover) 7 ||| at64 (b2n s.stampLong) 6 ||| at64 b.modeEff.toNat 4 ||| at64 b.modeCfg.toNat 2)
  | 0x20 => some (b.written &&& 0xFFF00000FFFFFFFF)
  | 0x28 => some (i64 b.theta)
  | 0x30 => some (i64 b.pd)
  | _ => none

def State.tbClear (o : Nat) (s : State) : State :=
  if o = 0x18 then s.setTb { s.tb with steps := 0, holdovers := 0 } else s

/-- A TB_SERVO write waits for the next update, where there is one; src and ref10_en change only while a step is allowed, and a new
src selects a leader anew (12 R405, R425; 16 R528). Answers none where the write fails. -/
def State.servoWrite (v : W64) (s : State) : Option State :=
  if fld (s.tb.written ^^^ v) 61 3 ≠ 0 ∧ !s.stepAllowed then none
  else
    let t := s.setTb { s.tb with servoNext := some v }
    let t := if s.tb.modeEff ≠ 0 ∧ s.twin.role ≠ .standby then t.setTb t.tb.takeWrite else t
    some (if t.tb.src ≠ s.tb.src then t.selectLeader else t)

/-! ## TIME_MODE (12 R408, R409; 01 R34, R36) -/

/-- The increment that STEERED may set (12 R400, R408). -/
def incLegal (v : W64) : Bool := decide (incMin ≤ (v.toNat : Int) ∧ (v.toNat : Int) ≤ incMax)

/-- The configured mode changes, SERVO in holdover remains what it is (12 R409); on a STANDBY device and in REPLAY it is stored and not applied. TB_STAT of a STANDBY device
goes on showing the effective mode from before ATTACH, on which the spec is silent (log entry 187). -/
def State.timeMode (m : Nat) (inc : W64) (s : State) : State :=
  let b := s.tb
  if s.twin.role = .standby ∨ s.wit.mode = .replay then
    timeEvent 0 (s.setTb { b with modeCfg := BitVec.ofNat 2 m, steer := if m = 1 then some inc else none })
  else if m = 0 ∧ b.modeCfg = 0 then s
  else
    let b := if m = 0 then b else b.takeWrite
    let s := s.setTb { b with modeCfg := BitVec.ofNat 2 m, modeEff := BitVec.ofNat 2 m, holdover := decide (m = 2),
                              preset := b.preset || decide (m = 0 ∧ b.modeEff ≠ 0), steer := none }
    let s := if m = 1 then s.setInc inc else s
    timeEvent 0 s

/-- TIME_MODE has changed a mode or an increment, in force or stored (12 R408). -/
def State.timeModeChanged (t s : State) : Bool :=
  decide ((s.tb.modeCfg, s.tb.modeEff, s.tb.inc, s.tb.steer) ≠ (t.tb.modeCfg, t.tb.modeEff, t.tb.inc, t.tb.steer))

/-! ## The events -/

/-- The first setting of the scale that waited happens at the first instant at which its conditions hold
(12 R404). -/
def execCounterStep (s : State) : Res :=
  .next (if s.tb.stepWait && s.firstScale && s.nothingTimed then s.stepBack s.tb.theta else s)

/-- A Sync is stamped and gives an offset (12 R406). -/
def execPtpSyncReceived (port : Nat) (m : PtpMsg) (s : State) : Res := within port 2 (s.ptpSync port m)

/-- The precise origin timestamp of a two-step Sync (12 R406). -/
def execPtpFollowUpReceived (port : Nat) (m : PtpMsg) (s : State) : Res := within port 2 (s.ptpFollowUp port m)

/-- The mean path delay (12 R406). -/
def execPtpDelayRespReceived (port : Nat) (m : PtpMsg) (s : State) : Res := within port 2 (s.ptpDelayResp port m)

/-- Leader selection (16 R528). -/
def execPtpAnnounceReceived (port : Nat) (m : PtpMsg) (s : State) : Res := within port 2 (s.ptpAnnounce port m)

/-- A Delay_Req answered as leader (16 R529). -/
def execPtpDelayReqReceived (port : Nat) (m : PtpMsg) (s : State) : Res := within port 2 (s.ptpDelayReq port m)

/-- A Delay_Req sent as follower (16 R529). -/
def execDelayReqSend (port : Nat) (s : State) : Res := within port 2 (s.delayReqOut port)

/-- A Sync sent as leader (16 R529). -/
def execSyncSend (port : Nat) (s : State) : Res := within port 2 (s.syncOut port)

/-- An Announce sent as leader (16 R529). -/
def execAnnounceSend (port : Nat) (s : State) : Res := within port 2 (s.announceOut port)

/-- Holdover when no valid offset has arrived for lost_n expected Sync intervals (12 R409). -/
def execHoldoverEntry (s : State) : Res :=
  .next (if s.up ≥ s.tb.lastOffset + s.tb.lostN * s.tb.syncIvl ∧ s.twin.role ≠ .standby ∧ s.wit.mode ≠ .replay then s.enterHoldover else s)

/-- A PTP frame through the transparent clock (12 R411). -/
def execTcForward (port : Nat) (m : PtpMsg) (egress : Int) (s : State) : Res := within port 2 (s.tcForward port m egress)

/-- A residence that found no Follow_Up (12 R411). -/
def execTcResidenceTimeout (port sid : Nat) (seqId : BitVec 16) (s : State) : Res := within port 2 (s.tcTimeout port sid seqId)

/-- A frame that is not consumed (16 R525). -/
def execEthFrameReceived (port : Nat) (fr : EthFrame) (s : State) : Res := within port 2 (s.ethFrame port fr)

/-- PCS and RS-FEC lock, the latter at 25GBASE-R only (16 R524, R539). -/
def execEthPcsLockChange (port : Nat) (link fec : Bool) (s : State) : Res :=
  within port 2 (s.updPort port (fun e => { e with linkUp := link && bit e.ctl 0, fecLock := fec && bit e.ctl 2 && bit e.ctl 1 && bit e.ctl 0 }))

/-- A rising edge of PPS_IN is a phase offset when it is the source (12 R405). -/
def execPpsInEdge (s : State) : Res :=
  let n : Int := s.tb.ns.toNat * 65536 + s.tb.frac.toNat / 65536
  let th := if s.tb.ns.toNat ≥ 500000000 then n - 65536000000000 else n
  .next (if s.tb.src = 3 ∧ s.wit.mode ≠ .replay then (s.setTb { s.tb with syncIvl := 1000000000 }).offset th else s)

/-- PPS_OUT rises at nanosecond 0 and falls at 100,000,000 (12 R410). -/
def execPpsOutEdge (s : State) : Res :=
  .next (if bit s.tb.servo 60 then s.setTb { s.tb with pps := decide (s.tb.ns.toNat < 100000000) } else s)

end Sys2Proof.Machine
end

