-- ==== Sys2Proof/Machine/Pairing.lean ====
section
/-!
DEFINITION. What every family shares of the twin and of unit failures: roles, leaving a pair, and the failure record
(14 R452 to R459, R477, R479, R486 to R489; 15 R508).
-/

set_option Elab.async false

namespace Sys2Proof.Machine

open Sys2Proof

def Role.num : Role → Nat
  | .solo => 0
  | .active => 1
  | .standby => 2

def PairSt.num : PairSt → Nat
  | .none => 0
  | .lost => 1
  | .bulk => 2
  | .final => 3
  | .synced => 4
  | .catchup => 5

/-- TW_STAT (R487). -/
def Twin.stat (t : Twin) : W64 :=
  at64 (b2n t.roleConflict) 16 ||| at64 t.leaveReason.toNat 12 ||| at64 (b2n t.peerActive) 11 ||| at64 (b2n t.active) 10 |||
    at64 t.role.num 8 ||| at64 t.pair.num 0

def twStatAddr : W64 := 0x70008

/-- A change of the twin's role or pair state: one device-initiated journal entry over TW_STAT, and a witness entry
where the role changes (10 R345, 12 R414); the peer is told of a new pair state (R457). A device that is STANDBY no more goes on
in its configured time mode (01 R34). -/
def State.twinChange (v : Twin) (s : State) : State :=
  let old := s.twin
  if v.role = old.role ∧ v.pair = old.pair then s.setTwin v
  else
    let v := if v.pair = old.pair then v else { v with out := v.out ++ [.pairState v.pair] }
    let s := (s.setTwin v).journalNow byDevice twStatAddr (some (w64Bytes old.stat)) (some (w64Bytes v.stat))
    let s := if v.role = old.role then s else s.witness 0x24 0 s.now [BitVec.ofNat 8 v.role.num]
    if old.role = .standby ∧ v.role ≠ .standby then s.resumeMode else s

def State.tell (m : TwinOut) (s : State) : State := s.setTwin { s.twin with out := s.twin.out ++ [m] }

/-- A binding of this device is to be caught up: the peer is asked for its copy set, and a STANDBY device is in CATCHUP meanwhile
(R461, R472, R478, R485). -/
def State.askCatchup (b : Nat) (s : State) : State :=
  let s := (s.updBinding b (fun v => { v with divRun := 0, catchup := true })).tell (.catchupReq b)
  if s.twin.role = .standby ∧ s.twin.pair = .synced then s.twinChange { s.twin with pair := .catchup } else s

/-- The peer is gone: mirrors without acknowledgement are discarded, their commands were never accepted; no entry
waits for the peer any more (R468, R471). -/
def State.unmirror (s : State) : State :=
  let s := s.setTwin { s.twin with mirrors := [], entries := [], wanted := [], early := [] }
  { s with queues := s.queues.map (fun e => (e.1, { e.2 with reorder := e.2.reorder.map (fun d => { d with mirrored := true }) })) }

/-- Both pins are high for more than 20 ns: the device whose TWIN_PREF is 0 lowers its pin; with equal straps both do, and a role
conflict is recorded (R453). -/
def State.pinConflict (s : State) : Bool :=
  s.twin.active && s.twin.peerActive && (match s.twin.bothHighAt with
    | some c => decide (c + 20 < s.up)
    | none => false)

/-- The peer's pin has been low for 50 ns (R453). -/
def State.peerLow (s : State) : Bool := !s.twin.peerActive && s.twin.peerLowAt.any (fun c => decide (c + 50 ≤ s.up))

/-- TWIN_ACTIVE of a SOLO or ACTIVE device rises once the peer's pin has been low for 50 ns (R452, R453). -/
def State.raisePin (s : State) : State :=
  let t := s.twin
  if !s.mg.inReset && decide (t.role ≠ .standby) && !t.active && s.peerLow && !t.blocked && !t.wdGone then s.setTwin { t with active := true } else s

/-- A STANDBY device that becomes SOLO keeps no accepted work of the pair's queues: its peer has it (R339, R462). -/
def State.forgetWork (s : State) : State :=
  if s.twin.role = .standby then
    { s with queues := s.queues.map (fun e => if e.1 = 0 then e
        else (e.1, { e.2 with outst := [], reorder := [], merged := none, tags := [], released := e.2.nextSeq - 1 })) }
  else s

/-- An ATTACH ends with a status and the resulting role. -/
def State.attachEnds (st : Byte) (s : State) : State :=
  match s.twin.attachBy with
  | some (q, sq) => (s.setTwin { s.twin with attachBy := none }).complete q sq { status := st, r0 := BitVec.ofNat 64 s.twin.role.num } { }
  | none => s

/-- A ROLE_SWAP ends without its swap. -/
def State.swapEnds (s : State) : State :=
  match s.twin.swapAt with
  | some (_, q, sq) => (s.setTwin { s.twin with swapAt := none }).complete q sq { status := St.flagged, r0 := BitVec.ofNat 64 s.twin.role.num } { }
  | none => s

/-- An ATTACH is accepted, and the timebases are not locked yet (R460). -/
def State.joining (s : State) : Bool := s.twin.attachBy.isSome && decide (s.twin.pair = .none)

/-- The device leaves its pair: TWIN_ACTIVE falls, LEAVING is sent, and it is SOLO (R455, R479; 01 R35). It may raise its pin again once
its peer's pin has been low for 50 ns from here on (R452, R453; log entry 205). An ATTACH or a ROLE_SWAP under way ends flagged. A device that is in
no pair leaves none. -/
def State.leavePair (reason : BitVec 4) (s : State) : State :=
  if s.twin.pair = .none then s
  else
    let s := s.unmirror.forgetWork
    let s := s.twinChange { s.twin with leaveReason := reason, role := .solo, pair := .none, active := false,
                                        peerLowAt := if s.twin.peerActive then s.twin.peerLowAt else some s.up,
                                        out := s.twin.out ++ [.leaving] }
    (s.attachEnds St.flagged).swapEnds

/-! ## Unit failures (R477, R479, R489; 15 R508) -/

/-- The four spares (02 R39). -/
def spareTiles : List Nat := [16, 33, 50, 67]

/-- The spares that no logical tile is mapped to and that have not failed. -/
def State.freeSpares (s : State) : List Nat := spareTiles.filter (fun p => (s.logical p).isNone && !(s.tile p).failed)

def State.failedTiles (s : State) : Nat := ((List.range 68).filter (fun p => (s.tile p).failed)).length

/-- The spares that a logical tile is mapped to. -/
def State.sparesUsed (s : State) : Nat := (spareTiles.filter (fun p => (s.logical p).isSome)).length

/-- MG_FAULT (R489). -/
def State.faultReg (s : State) : W64 :=
  let m := s.mg
  at64 s.failedTiles 40 ||| at64 s.sparesUsed 36 ||| at64 ((m.sgFailed.map (fun g => 2 ^ g)).sum) 32 |||
    at64 ((m.leFailed.map (fun e => 2 ^ e)).sum) 16 ||| at64 (b2n m.devregUnc) 3 ||| at64 (b2n m.unitFault) 2 |||
    at64 (b2n m.wdExpired) 1 ||| at64 (b2n (!m.alerts.isEmpty)) 0

def faultAddr : W64 := 0x110

/-- A unit has failed: its record changes as `f` says, with one device-initiated entry over MG_FAULT. -/
def State.recordFailure (f : State → State) (a : Alert) (s : State) : State :=
  let old := s.faultReg
  let t := f s
  let t := (t.setMg { t.mg with unitFault := true }).raiseAlert a
  t.journalNow byDevice faultAddr (some (w64Bytes old)) (some (w64Bytes t.faultReg))

/-- The bytes of a health record, in a layout of the model's (log entry 212). -/
def Health.bytes (h : Health) : List Byte :=
  leBytes 8 h.generation ++ [h.tiles, h.pcs, h.engines, h.groups].flatMap (fun l => leBytes 4 l.length ++ l.flatMap (leBytes 1))

/-- The record with its HMAC under the key "health" (15 R508, R509). -/
def Health.signed (secret : Option (List Byte)) (h : Health) : Health := { h with mac := macOf secret "health" h.bytes }

def Health.valid (secret : Option (List Byte)) (h : Health) : Bool := macGood secret "health" h.bytes h.mac

/-- The valid copy of the higher generation is the first of the two (15 R508). -/
def Flash.firstCopy (secret : Option (List Byte)) (f : Flash) : Bool :=
  f.health.valid secret && (!f.healthOld.valid secret || decide (f.healthOld.generation ≤ f.health.generation))

/-- The health record in force: the valid copy of the higher generation, or an empty record (15 R508). -/
def Flash.record (secret : Option (List Byte)) (f : Flash) : Health :=
  if f.firstCopy secret then f.health else if f.healthOld.valid secret then f.healthOld else { generation := f.health.generation }

/-- A new record overwrites the older copy (15 R508). -/
def Flash.newRecord (secret : Option (List Byte)) (h : Health) (f : Flash) : Flash :=
  let r := f.record secret
  { f with health := Health.signed secret { h with generation := r.generation + 1 }, healthOld := if f.firstCopy secret then f.health else f.healthOld }

/-- An update of the health record starts from the record in force (15 R508). -/
def State.health (f : Health → Health) (s : State) : State :=
  s.setMg { s.mg with flash := s.mg.flash.newRecord s.mg.secret (f (s.mg.flash.record s.mg.secret)) }

end Sys2Proof.Machine
end

