-- ==== Sys2Proof/Machine/Memory.lean ====
section
/-!
DEFINITION. HBM, its error correction, pseudo-channels, pins of the hearth cache and waiting requests (13 R427 to R443,
R449 to R451; 10 R316), and what is read back from its device region (14 R480; 10 R336, R337).
-/

set_option Elab.async false

namespace Sys2Proof.Machine

open Sys2Proof

/-! ## The address map (R427 to R429) -/

/-- The pseudo-channels in the interleave, ascending. -/
def State.pcSlots (s : State) : List Nat := (List.range 32).filter (fun n => (s.pc n).mapped)

/-- Bytes of the stack: 512 MiB for each mapped pseudo-channel (R429). -/
def State.stackBytes (s : State) : Nat := s.pcSlots.length * 0x20000000

/-- The end of the host range: each mapped-out pseudo-channel takes 512 MiB from its top (R429). -/
def State.hostEnd (s : State) : Nat := hbmLo + (s.stackBytes - 0x100000000)

/-- A byte range of the host range (R316, R429). -/
def State.inHost (a n : Nat) (s : State) : Bool := decide (hbmLo ≤ a ∧ a + n ≤ s.hostEnd)

/-- The stack offset of an address (R429). -/
def State.stackOff (a : Nat) (s : State) : Nat :=
  if a ≥ hbmDev then s.stackBytes - 0x100000000 + (a - hbmDev) else a - hbmLo

/-- The pseudo-channel of a granule number (R428). -/
def pcOfGranule (slots : List Nat) (g : Nat) : Nat :=
  if slots.length = 32 then
    (g % 32) ^^^ (g / 2 ^ 5 % 32) ^^^ (g / 2 ^ 10 % 32) ^^^ (g / 2 ^ 15 % 32) ^^^ (g / 2 ^ 20 % 32)
  else slots.getD (g % slots.length) 0

/-- The number L of a granule within its pseudo-channel (R428). -/
def granuleL (slots : List Nat) (g : Nat) : Nat := if slots.length = 32 then g / 32 % 2 ^ 21 else g / slots.length

/-- Where a granule lies in the stack (R428). -/
structure Place where
  pc : Nat
  column : Nat
  group : Nat
  bank : Nat
  sid : Nat
  row : Nat
  deriving DecidableEq, Repr

/-- The split of L: column granule, bank group, bank, SID and row (R428). -/
def placeOf (slots : List Nat) (g : Nat) : Place :=
  let l := granuleL slots g
  { pc := pcOfGranule slots g, column := l % 4, group := l / 4 % 4, bank := l / 16 % 4, sid := l / 64 % 2, row := l / 128 % 2 ^ 14 }

/-- The number of a place's bank among the 32 of its pseudo-channel. -/
def Place.bankNo (x : Place) : Nat := x.group + 4 * x.bank + 16 * x.sid

def State.placeOf (a : Nat) (s : State) : Place := Machine.placeOf s.pcSlots (s.stackOff a / 256)
def State.pcOf (a : Nat) (s : State) : Nat := (s.placeOf a).pc

/-- The hearth slice, set and tag of a line index (R437). -/
def sliceOf (m : Nat) : Nat := (m % 16) ^^^ (m / 16 % 16) ^^^ (m / 256 % 16) ^^^ (m / 4096 % 16)
def setOf (m : Nat) : Nat := m / 16 % 2048
def tagOf (m : Nat) : Nat := m / 2 ^ 15

/-- The line index of an address. -/
def State.lineIx (a : Nat) (s : State) : Nat := s.stackOff a / 128
def State.sliceAt (a : Nat) (s : State) : Nat := sliceOf (s.lineIx a)

/-! ## A pseudo-channel fails (R434) -/

/-- A paired device leaves its pair; on a SOLO device the accepted commands that lay on the channel are to end. -/
def State.pcFailed (n : Nat) (s : State) : State :=
  let c := s.pc n
  if c.failed then s
  else
    let s := s.recordFailure (fun t => t.setPc n { c with failed := true }) .pseudoChannel
    let s := s.health (fun h => { h with pcs := h.pcs ++ [n] })
    if s.twin.pair = .none then s.setHbm { s.hbm with losing := true } else s.leavePair 7

/-! ## Reads of HBM and their errors (R430, R431, R434) -/

/-- The bursts of 32 bytes of a range that carry an error. -/
def State.badBursts (a n : Nat) (s : State) : List (Nat × Nat) :=
  s.hbm.upset.filter (fun e => decide (a / 32 * 32 ≤ e.1 ∧ e.1 < a + n))

/-- HBMC_ECC_LOG holds the first uncorrectable address (R431). -/
def State.logBurst (b : Nat) (s : State) : State :=
  if s.hbm.logValid then s else s.setHbm { s.hbm with logValid := true, logAddr := BitVec.ofNat 40 b }

/-- One erroneous burst that a read meets: corrected, or counted and logged; the sixteenth uncorrectable one within 1 s fails the
pseudo-channel (R434). -/
def State.meetBurst (b kind : Nat) (s : State) : State :=
  let p := s.pcOf b
  let c := s.pc p
  if kind = 1 then (s.setPc p { c with corrected := satAdd c.corrected 1 }).event 0x202 p 1
  else
    let ts := (s.up :: c.uncAt).take 16
    let s := (s.setPc p { c with uncorrected := satAdd c.uncorrected 1, uncAt := ts }).event 0x203 p 1
    let s := s.logBurst b
    if ts.length = 16 ∧ s.up ≤ ts.getLastD 0 + 1000000000 then s.pcFailed p else s

/-- The address at which a read that wants bytes from `a` on fails in a burst. -/
def failsAt (a b : Nat) : Nat := if b + 32 ≤ a then b else max a b

/-! ## The hearth cache (R436 to R440, R442) -/

/-- The lines of 128 bytes of a range, by their addresses. -/
def linesOf (a n : Nat) : List Nat := if n = 0 then [] else (List.range ((a + n - 1) / 128 - a / 128 + 1)).map (fun i => (a / 128 + i) * 128)

def State.cached (a : Nat) (s : State) : Option Line := s.hbm.cache.find? (fun x => decide (x.addr = a))

/-- Two lines lie in one set of one slice. -/
def State.sameSet (a b : Nat) (s : State) : Bool :=
  decide (s.sliceAt a = s.sliceAt b ∧ setOf (s.lineIx a) = setOf (s.lineIx b))

/-- The ways that a line's set holds, the most recently used first. -/
def State.ways (a : Nat) (s : State) : List Line := s.hbm.cache.filter (fun x => s.sameSet x.addr a)

def State.pinnedLine (a : Nat) (s : State) : Bool := s.hbm.pinned.contains (s.lineIx a)

/-- A dirty line is written back: its bursts in HBM are whole again. -/
def State.writeBack (x : Line) (s : State) : State :=
  let s := s.setHbm { s.hbm with cache := s.hbm.cache.map (fun y => if y.addr = x.addr then { y with dirty := false } else y),
                                 upset := s.hbm.upset.filter (fun e => decide (¬ (x.addr ≤ e.1 ∧ e.1 < x.addr + 128))) }
  (s.event 0x20A (s.sliceAt x.addr) 1).event 0x201 (s.pcOf x.addr) 4

/-- Room for a line: of 16 ways the least recently used one that is not pinned is evicted (R438, R439). -/
def State.evictFor (a : Nat) (s : State) : State :=
  if (s.ways a).length < 16 then s
  else match ((s.ways a).filter (fun x => !s.pinnedLine x.addr)).getLast? with
    | none => s
    | some x =>
      let s := if x.dirty then s.writeBack x else s
      s.setHbm { s.hbm with cache := s.hbm.cache.filter (fun y => decide (y.addr ≠ x.addr)) }

/-- A line is read from HBM: the state with its counts, and the address of the first failing burst. -/
def State.loadLine (a : Nat) (s : State) : State × Option Nat :=
  let p := s.pcOf a
  if (s.pc p).failed then (s.logBurst a, some a)
  else
    let bad := s.badBursts a 128
    let s := (bad.foldl (fun s e => s.meetBurst e.1 e.2) s).event 0x200 p 4
    (s, (bad.filter (fun e => decide (e.2 ≠ 1))).head?.map (·.1))

/-- A line enters its set, as the most recently used one or as the least. -/
def State.enterLine (x : Line) (front : Bool) (s : State) : State :=
  let s := s.evictFor x.addr
  s.setHbm { s.hbm with cache := if front then x :: s.hbm.cache else s.hbm.cache ++ [x] }

/-- An access to a line. A hit is served from the cache, pinned or not; an uncorrectable error of the line fails it, and is counted where
the line is dirty. A miss reads HBM, but for a write of the whole line. Answers the failing address. -/
def State.useLine (a : Nat) (write whole : Bool) (s : State) : State × Option Nat :=
  match s.cached a with
  | some x =>
    let s := s.event 0x208 (s.sliceAt a) 1
    let y := { x with dirty := x.dirty || (write && (whole || decide (x.err ≠ 2))), err := if write && whole then 0 else x.err }
    let s := s.setHbm { s.hbm with cache := y :: s.hbm.cache.filter (fun z => decide (z.addr ≠ a)) }
    if y.err = 2 then (if x.dirty then s.setHbm { s.hbm with hearthUnc := satAdd s.hbm.hearthUnc 1 } else s, some a) else (s, none)
  | none =>
    let s := s.event 0x209 (s.sliceAt a) 1
    if write && whole && !(s.pc (s.pcOf a)).failed then (s.enterLine { addr := a, dirty := true } true, none)
    else
      let r := s.loadLine a
      match r.2 with
      | some b => (r.1, some b)
      | none => (r.1.enterLine { addr := a, dirty := write } true, none)

/-- Accesses to lines in turn; answers the first failing address. -/
def State.useLines (lo : Nat) (write whole : Bool) (ls : List Nat) (s : State) : State × Option Nat :=
  ls.foldl (fun r m =>
    let x := r.1.useLine m write whole
    (x.1, match r.2 with
      | some b => some b
      | none => x.2.map (failsAt lo))) (s, none)

/-- A read of `n` bytes: the bytes, the state with its counts, and the address of the first failing byte. -/
def State.hbmRead (a n : Nat) (s : State) : List Byte × State × Option Nat :=
  let r := s.useLines a false false (linesOf a n)
  (s.hbmBytes a n, r.1, r.2)

/-- While BULK copies the host range, a write of the ACTIVE device to it is forwarded (14 R460). -/
def State.forward (a : Nat) (bs : List Byte) (s : State) : State :=
  if s.twin.role = .active ∧ s.twin.pair = .bulk ∧ a < s.hostEnd then s.tell (.hostWrite a bs) else s

/-- A write. The lines that it covers in part are read first, and it fails with them; nothing is then written (R438). Answers the address
of the failing byte. -/
def State.hbmWrite (a : Nat) (bs : List Byte) (s : State) : State × Option Nat :=
  let n := bs.length
  let whole := fun (m : Nat) => decide (a ≤ m ∧ m + 128 ≤ a + n)
  let r := s.useLines a true false ((linesOf a n).filter (fun m => !whole m))
  match r.2 with
  | some x => (r.1, some x)
  | none =>
    let r := r.1.useLines a true true ((linesOf a n).filter whole)
    match r.2 with
    | some x => (r.1, some x)
    | none => ((r.1.hbmStore a bs).forward a bs, none)

/-- A prefetch of a line: it enters as the least recently used one of its set. One that meets an error leaves the line absent and reports
nothing (R431, R438, R442). -/
def State.prefetchLine (a : Nat) (s : State) : State :=
  if (s.cached a).isSome || (s.pc (s.pcOf a)).failed || (s.badBursts a 128).any (fun e => decide (e.2 ≠ 1)) then s
  else ((s.loadLine a).1.enterLine { addr := a } false).event 0x20B (s.sliceAt a) 1

/-- The lines of indexes `ms` are written back where they are dirty. -/
def State.cleanLines (ms : List Nat) (s : State) : State :=
  s.hbm.cache.foldl (fun s x => if x.dirty && ms.contains (s.lineIx x.addr) then s.writeBack x else s) s

/-- Every dirty line is written back, and the cache is empty (R440). -/
def State.flushCache (s : State) : State :=
  let s := s.hbm.cache.foldl (fun s x => if x.dirty then s.writeBack x else s) s
  s.setHbm { s.hbm with cache := [], pinned := [] }

/-! ## The device region (14 R480) -/

/-- A read of `n` bytes of an item of the device region: an uncorrectable burst is counted, and its address answered. The item itself
is a field of State (log entry 158). -/
def State.devRead (kind a b n : Nat) (s : State) : State × Option Nat :=
  let r := s.hbmRead (hbmDev + 32 * (Config.devPlace kind a b % 0x7000000)) n
  match r.2.2 with
  | some x => (r.2.1.setMg { r.2.1.mg with devregUnc := true }, some x)
  | none => (r.2.1, none)

/-- An item that the peer holds too: while the pair is SYNCED it is read again from there. -/
def State.pairRead (kind a b n : Nat) (s : State) : State × Option Nat :=
  let r := s.devRead kind a b n
  (r.1, if s.twin.pair = .synced then none else r.2)

/-- The record of a command whose own record, or commit entry, was not readable. -/
def lostRecord (x : Nat) (r : Record) : Record :=
  { r with status := St.dataError, location := locHbm x, flags := 0, r0 := 0, r1 := 0, ext := if r.ext.isEmpty then [] else zeros 64 }

/-! ## Acknowledgement (10 R336, R337) -/

/-- A released record as it is read back. -/
def State.readRecord (q : Nat) (r : Record) (s : State) : Record × State :=
  let d := s.pairRead 1 q r.seq (64 + r.ext.length)
  (match d.2 with
   | some x => lostRecord x r
   | none => r, d.1)

/-- Moves records from the overflow area into the ring while there is room, in sequence order. -/
def State.drainOverflow (q : Nat) : Nat → State → State
  | 0, s => s
  | n + 1, s =>
    let v := s.queue q
    match v.overflow with
    | r :: rest =>
      if v.ring.length < v.depth then
        let x := (s.setQueue q { v with overflow := rest }).readRecord q r
        State.drainOverflow q n (x.2.deliver q x.1)
      else s
    | [] => s

/-- Offers every released and unacknowledged record again, of the ring and of the overflow area, marked re-offered, in sequence
order. -/
def State.reoffer (q : Nat) (s : State) : State :=
  ((s.queue q).ring ++ (s.queue q).overflow).foldl (fun s r =>
    let x := s.readRecord q r
    x.2.toHost (.completion { x.1 with cflags := r.cflags ||| 1 })) s

/-- Acknowledges up to `upTo`: frees ring space and tags, fills the ring, offers the rest again where that was asked, and
restarts a stopped queue. -/
def State.acknowledge (q upTo : Nat) (again : Bool) (s : State) : State :=
  let v := s.queue q
  let keep := fun (r : Record) => decide (r.seq > upTo)
  let v' := { v with ring := v.ring.filter keep, overflow := v.overflow.filter keep,
                     tags := v.tags.filter (fun e => decide (e.2.1 > upTo)) }
  let s := s.setQueue q v'
  let s := s.drainOverflow q v.overflow.length
  let s := if again then s.reoffer q else s
  let s := s.updQueue q (fun x => { x with stopped := x.stopped && decide (x.overflow.length ≥ 4096) })
  s.closeMerged q

/-! ## Patrol scrub and refresh (R432, R433) -/

/-- A request waits for the bank of a burst. -/
def State.bankWaits (b : Nat) (s : State) : Bool :=
  let x := s.placeOf b
  s.hbm.waiting.any (fun r => decide (r.len ≠ 0) && (List.range ((r.addr + r.len - 1) / 256 - r.addr / 256 + 1)).any (fun i =>
    let y := s.placeOf ((r.addr / 256 + i) * 256)
    decide (y.pc = x.pc ∧ y.bankNo = x.bankNo)))

/-- The scrubber of a mapped pseudo-channel reads a burst in a cycle in which no request waits for its bank: one that lies beyond those
it has read in this pass. A pass begins scrub_h hours after the one before. Answers the channel as it then stands. -/
def State.scrubTakes (b : Nat) (s : State) : Option Pc :=
  let c := s.pc (s.pcOf b)
  let c := if c.passAt + 3600000000000 * fld s.hbm.ctl 8 8 ≤ s.up then { c with passAt := s.up, scrubbed := none } else c
  if !bit s.hbm.ctl 0 || !(decide (hbmLo ≤ b ∧ b < hbmHi)) || !c.mapped || c.scrubbed.any (fun x => decide (b ≤ x)) || s.bankWaits b then none
  else some { c with scrubbed := some b }

/-- One burst of the patrol scrub: a corrected one is written back, an uncorrectable one logged and counted (R432). -/
def State.hbmScrub (addr : Nat) (s : State) : State :=
  let b := addr / 32 * 32
  match s.scrubTakes b with
  | none => s
  | some c =>
    let s := (s.setPc (s.pcOf b) c).event 0x200 (s.pcOf b) 1
    match Tbl.get 0 b s.hbm.upset with
    | 1 => (s.meetBurst b 1).setHbm { (s.meetBurst b 1).hbm with upset := Tbl.erase b s.hbm.upset }
    | 2 => s.meetBurst b 2
    | _ => s

/-- A bank is refreshed; the rate doubles while the stack is above 85 °C. -/
def State.hbmRefresh (p bank : Nat) (s : State) : State :=
  let c := s.pc p
  (s.setPc p { c with refreshed := Tbl.insert bank s.up c.refreshed, refresh2x := decide (s.hbm.stackTemp > 85) }).event 0x204 p 1

/-! ## Pins (R439) -/

/-- The line indexes of a range, by stack offset. -/
def State.lines (a n : Nat) (s : State) : List Nat :=
  let o := s.stackOff a
  if n = 0 then [] else (List.range ((o + n - 1) / 128 - o / 128 + 1)).map (· + o / 128)

/-- A pin that would put more than 8 pinned ways in a set is refused. -/
def pinFits (pinned lines : List Nat) : Bool :=
  let new := lines.filter (fun m => !pinned.contains m)
  new.all (fun m =>
    decide (((pinned ++ new).filter (fun x => decide (sliceOf x = sliceOf m ∧ setOf x = setOf m))).length ≤ 8))

/-- Lines that a pending pin has loaded and that are being loaded count as pinned. -/
def State.pinnedSoon (s : State) : List Nat := s.hbm.pinned ++ (s.hbm.pins.flatMap (·.lines))

/-- The address of a line index (R429). -/
def State.lineAddr (m : Nat) (s : State) : Nat :=
  if s.stackBytes = 0 ∨ 128 * m < s.stackBytes - 0x100000000 then hbmLo + 128 * m else hbmDev + (128 * m - (s.stackBytes - 0x100000000))

/-- All lines of a pinned range are resident: the absent ones are loaded. A line that cannot be loaded ends the command (R475; log
entry 207). -/
def State.pinDone (q sq : Nat) (s : State) : State :=
  match s.hbm.pins.find? (fun p => decide (p.queue = q ∧ p.seq = sq)) with
  | none => s
  | some p =>
    let new := p.lines.filter (fun m => !s.hbm.pinned.contains m)
    let s := s.setHbm { s.hbm with pins := s.hbm.pins.filter (fun x => decide (¬ (x.queue = q ∧ x.seq = sq))) }
    let r := s.useLines 0 false false (new.map (fun m => s.lineAddr m))
    match r.2 with
    | some x => r.1.complete q sq { status := St.dataError, location := locHbm x } { }
    | none =>
    let s := r.1.setHbm { r.1.hbm with pinned := r.1.hbm.pinned ++ new }
    let c : Cause := match s.outstOf q sq with
      | some o => { queue := q, tag := o.pkt.hdr.tag, seq := sq, opcode := o.pkt.opcode.toNat }
      | none => byDevice
    let s := if new.isEmpty then s else s.journalNow c (objTarget 0x30 (p.lines.headD 0)) none none
    s.finish q sq St.done

/-! ## Requests that wait for HBM (R441 to R443) -/

/-- A request waits at its slice or controller. -/
def State.request (cls : Nat) (pf : Bool) (deadline tile desc addr len : Nat) (s : State) : State :=
  let r : HbmReq := { id := s.hbm.nextReq, cls := cls, pf := pf, deadline := deadline, arrival := s.now, since := s.up, tile := tile, desc := desc, addr := addr, len := len }
  s.setHbm { s.hbm with waiting := s.hbm.waiting ++ [r], nextReq := s.hbm.nextReq + 1 }

/-- A descriptor's requests are served. -/
def State.served (tile desc : Nat) (s : State) : State :=
  s.setHbm { s.hbm with waiting := s.hbm.waiting.filter (fun r => decide (¬ (r.tile = tile ∧ r.desc = desc))) }

/-- A prefetch that has waited 5 µs is dropped (R442). -/
def State.prefetchDrop (rq : Nat) (s : State) : State :=
  match s.hbm.waiting.find? (fun r => decide (r.id = rq)) with
  | some r =>
    if r.pf && decide (s.up ≥ r.since + 5000) then
      (s.setHbm { s.hbm with waiting := s.hbm.waiting.filter (fun x => decide (x.id ≠ rq)),
                             pfDropped := satAdd s.hbm.pfDropped 1 }).event 0x20C (s.sliceAt r.addr) 1
    else s
  | none => s

/-- A request of class 2, 3 or 4 that has waited 20 µs moves to class 1, its arrival its deadline (R443). -/
def State.agePromote (rq : Nat) (s : State) : State :=
  match s.hbm.waiting.find? (fun r => decide (r.id = rq)) with
  | some r =>
    if decide (2 ≤ r.cls) && decide (s.up ≥ r.since + 20000) then
      (s.setHbm { s.hbm with waiting := s.hbm.waiting.map (fun x =>
        if x.id = rq then { x with cls := 1, deadline := x.arrival } else x) }).event 0x20D (s.sliceAt r.addr) 1
    else s
  | none => s

/-- The order in which waiting requests are served (R443): class, deadline by the wrap rule of 05 R167, arrival. -/
def HbmReq.before (a b : HbmReq) : Bool :=
  if a.cls ≠ b.cls then decide (a.cls < b.cls)
  else if (short a.deadline) ≠ (short b.deadline) then decide (((short b.deadline) - (short a.deadline)).toNat < 2 ^ 31)
  else decide (a.arrival < b.arrival)

/-! ## Registers (R449 to R451) -/

def State.hbmPeek (o : Nat) (s : State) : Option W64 :=
  if o % 8 ≠ 0 then none
  else if o < 0x100 then
    let c := s.pc (o / 8)
    some (at64 c.uncorrected.toNat 32 ||| at64 c.corrected.toNat 8 ||| at64 (b2n c.refresh2x) 2 ||| at64 (b2n c.failed) 1 |||
      at64 (b2n c.mapped) 0)
  else if o = 0x100 then some (at64 (b2n s.hbm.logValid) 63 ||| at64 s.hbm.logAddr.toNat 0)
  else if o = 0x200 then some (s.hbm.ctl &&& 0xFF01)
  else if o = 0x10000 then some (at64 s.hbm.hearthUnc.toNat 48 ||| at64 s.hbm.pfDropped.toNat 32 ||| at64 s.hbm.pinned.length 0)
  else none

def State.hbmClear (o : Nat) (s : State) : State :=
  if o < 0x100 then
    let c := s.pc (o / 8)
    s.setPc (o / 8) { c with uncorrected := 0, corrected := 0 }
  else if o = 0x10000 then s.setHbm { s.hbm with hearthUnc := 0, pfDropped := 0 }
  else s

def State.hbmPoke (o : Nat) (v m : W64) (s : State) : Option State :=
  if o = 0x200 then
    let w := mask64 s.hbm.ctl v m &&& 0xFF01
    if fld w 8 8 = 0 then none else some (s.setHbm { s.hbm with ctl := w })
  else if o = 0x100 then some (s.setHbm { s.hbm with logValid := s.hbm.logValid && !(bit v 63 && bit m 63) })
  else some s

/-! ## The events -/

/-- The patrol scrubber meets a burst (R432). -/
def execHbmScrub (addr : Nat) (s : State) : Res := .next (s.hbmScrub addr)

/-- One bank is refreshed (R433). -/
def execHbmRefresh (pc bank : Nat) (s : State) : Res := if pc < 32 ∧ bank < 32 then .next (s.hbmRefresh pc bank) else .fault .noSuchUnit

/-- The lines of a HEARTH_PIN are resident (R439). -/
def execHearthPinDone (q sq : Nat) (s : State) : Res := .next (s.pinDone q sq)

/-- A prefetch is dropped (R442). -/
def execPrefetchDropped (rq : Nat) (s : State) : Res := .next (s.prefetchDrop rq)

/-- A request moves to class 1 (R443). -/
def execAgePromotion (rq : Nat) (s : State) : Res := .next (s.agePromote rq)

end Sys2Proof.Machine
end

