-- ==== Sys2Proof/Machine/Tiles.lean ====
section
/-!
DEFINITION. What a tile's engines and ports share: its stores with SECDED, banks, coils, the receive port and the tile
registers (02 R49 to R79, R576; 04 R131; 13 R446; 17 R548).
-/

set_option Elab.async false

namespace Sys2Proof.Machine

open Sys2Proof

/-! ## Stores and banks (R49, R50) -/

/-- Window offset of a store: 0 W, 1 A, 2 P, 3 I. -/
def storeBase : Nat → Nat
  | 0 => 0x000000
  | 1 => 0x400000
  | 2 => 0x600000
  | _ => 0x700000

def storeSize : Nat → Nat
  | 0 => 0x300000
  | 1 => 0x200000
  | 2 => 0x100000
  | _ => 0x40000

/-- The bank of an offset: W banks are 0 to 15, A banks 16 to 31, P banks 32 to 39. The I-store has none. -/
def bankOf (st off : Nat) : Nat :=
  match st with
  | 0 => off / 0x30000
  | 1 => 16 + off / 0x20000
  | _ => 32 + off / 0x20000

/-- Store, first offset and bytes of a bank. -/
def bankRange (b : Nat) : Nat × Nat × Nat :=
  if b < 16 then (0, b * 0x30000, 0x30000)
  else if b < 32 then (1, (b - 16) * 0x20000, 0x20000)
  else (2, (b - 32) * 0x20000, 0x20000)

/-- The banks that `n` bytes from `off` touch. -/
def banksOf (st off n : Nat) : List Nat :=
  if st = 3 ∨ n = 0 then []
  else (List.range (bankOf st (off + n - 1) - bankOf st off + 1)).map (· + bankOf st off)

def Tile.bank (b : Nat) (t : Tile) : BankSt := Tbl.get .off b t.banks
def Tile.setBank (b : Nat) (v : BankSt) (t : Tile) : Tile := { t with banks := Tbl.set .off b v t.banks }

/-- Whether every bank of a range is ON (the I-store follows the tile's logic). -/
def Tile.on (st off n : Nat) (t : Tile) : Bool := (banksOf st off n).all (fun b => decide (t.bank b = .on))

/-- A range inside one store. -/
def inStore (st off n : Nat) : Bool := decide (st < 4) && decide (off + n ≤ storeSize st)

/-- The end of the section that covers an offset, for the sections given (05 R180). -/
def covers (st off : Nat) : List Section → Option Nat
  | [] => none
  | s :: ss => if s.kind ≠ 5 ∧ s.store = st ∧ s.storeOff ≤ off ∧ off < s.storeOff + s.size then some (s.storeOff + s.size) else covers st off ss

/-- Whether [off, e) lies in the union of the sections; `fuel` is one more than their number. -/
def coveredTo (st e : Nat) (ss : List Section) : Nat → Nat → Bool
  | 0, off => decide (e ≤ off)
  | k + 1, off => if e ≤ off then true else match covers st off ss with
    | none => false
    | some x => coveredTo st e ss k x

/-- A range inside the context's footprint (05 R180). -/
def inFoot (im : Image) (st off n : Nat) : Bool := inStore st off n && coveredTo st (off + n) im.sections (im.sections.length + 1) off

/-! ## SECDED (R51, R53, R54, R576) -/

/-- The codeword positions from 1 to 38 that are not powers of two, in ascending order: one for each data bit. -/
def dataPos : List Nat :=
  [3, 5, 6, 7, 9, 10, 11, 12, 13, 14, 15, 17, 18, 19, 20, 21, 22, 23, 24, 25, 26, 27, 28, 29, 30, 31, 33, 34, 35, 36, 37, 38]

/-- The parity of a list of bits. -/
def parity (bs : List Bool) : Bool := bs.foldl (fun a b => a != b) false

/-- Check bits c0 to c6 of a data word (R576). -/
def checkBits (w : W32) : BitVec 7 :=
  let c := fun (i : Nat) => parity ((dataPos.zipIdx).map (fun p => w.getLsbD p.2 && p.1.testBit i))
  let low := (List.range 6).map c
  let c6 := parity ((List.range 32).map (fun i => w.getLsbD i) ++ low)
  BitVec.ofNat 7 (((low ++ [c6]).zipIdx.map (fun p => if p.1 then 2 ^ p.2 else 0)).sum)

/-- The syndrome that flipped bits give: bits [31:0] of the mask are data bits, [37:32] c0 to c5, [38] c6. -/
def syndrome (m : BitVec 39) : BitVec 7 :=
  let c := checkBits (m.setWidth 32)
  let low := (c ^^^ BitVec.ofNat 7 (fld m 32 6)) &&& 0x3F
  if parity ((List.range 39).map (fun i => m.getLsbD i)) then low ||| 0x40 else low

/-- A single-bit error that stage 4 corrects. -/
def correctable (sy : BitVec 7) : Bool := bit sy 6 && decide (fld sy 0 6 ≤ 38)

/-- The data bits that remain wrong after stage 4 has flipped the position a correctable syndrome names. -/
def residual (m : BitVec 39) : W32 :=
  let sy := syndrome m
  let d : W32 := m.setWidth 32
  match dataPos.findIdx? (fun x => decide (x = fld sy 0 6)) with
  | some i => if correctable sy then d ^^^ BitVec.ofNat 32 (2 ^ i) else d
  | none => d

/-- TILE_ECC_LOG of an uncorrectable word (R79). -/
def eccEntry (sy : BitVec 7) (eng st off : Nat) : W64 :=
  at64 sy.toNat 32 ||| at64 eng 28 ||| at64 (match st with | 0 => off / 0x30000 | 3 => 0 | _ => off / 0x20000) 24 ||| at64 st 22 ||| at64 off 0

/-- One erroneous word met by an access or by the scrubber: counted, and logged when it cannot be corrected. -/
def Tile.meet (eng st off : Nat) (m : BitVec 39) (t : Tile) : Tile :=
  if correctable (syndrome m) then { t with eccCor := satAdd t.eccCor 1 }
  else if t.eccValid then { t with eccUnc := satAdd t.eccUnc 1 }
  else { t with eccUnc := satAdd t.eccUnc 1, eccValid := true, eccLog := eccEntry (syndrome m) eng st off }

/-- The erroneous words of a range, as offsets in the store with their masks. -/
def Tile.upsets (st off n : Nat) (t : Tile) : List (Nat × BitVec 39) :=
  (t.upset.filter (fun e => decide (storeBase st + off / 4 * 4 ≤ e.1 ∧ e.1 < storeBase st + off + n ∧ syndrome e.2 ≠ 0))).map
    (fun e => (e.1 - storeBase st, e.2))

/-- An uncorrectable error of the word at a place of the window is met: it counts once until the word is written again. A second one of a
word that was written since fails the tile, and so does the fourth that counts within 1 s (14 R477); it fails at the next tick. -/
def Tile.countUnc (up a : Nat) (t : Tile) : Tile :=
  let old := t.uncMet.find? (fun e => decide (e.1 = a))
  if old.any (fun e => !e.2) then t
  else
    let at4 := (up :: t.uncAt).take 4
    { t with uncMet := (a, false) :: t.uncMet.filter (fun e => decide (e.1 ≠ a)), uncAt := at4,
             failing := t.failing || old.isSome || (decide (at4.length = 4) && decide (up < at4.getLastD 0 + 1000000000)) }

/-- The words of a range of the window are written (14 R477). -/
def Tile.rewritten (a n : Nat) (t : Tile) : Tile :=
  { t with uncMet := t.uncMet.map (fun e => if a / 4 * 4 ≤ e.1 ∧ e.1 < a + n then (e.1, true) else e) }

/-- A read of a range by an engine: the bytes delivered, the state, and the offset of the first uncorrectable word. -/
def State.storeRead (p eng st off n : Nat) (s : State) : List Byte × State × Option Nat :=
  let t := s.tile p
  let us := t.upsets st off n
  let raw := Mem.bytes (storeBase st + off) n t.mem
  match us with
  | [] => (raw, s, none)
  | _ =>
    let t' := us.foldl (fun t e => t.meet eng st e.1 e.2) t
    let bad := us.filter (fun e => !correctable (syndrome e.2))
    let t' := bad.foldl (fun t e => t.countUnc s.up (storeBase st + e.1)) t'
    let fixed := raw.zipIdx.map (fun b =>
      let w := (off + b.2) / 4 * 4
      match us.find? (fun e => decide (e.1 = w)) with
      | some e => b.1 ^^^ BitVec.ofNat 8 ((residual e.2).toNat >>> (8 * ((off + b.2) % 4)))
      | none => b.1)
    let s := s.setTile p t'
    let s := s.tileEvent p 0x14 (us.length - bad.length)
    (fixed, (if bad.isEmpty then s else s.tileEvent p 0x15 bad.length), bad.head?.map (·.1))

/-- A write of whole words: the words it writes carry fresh check bits (R51). -/
def State.storeWrite (p st off : Nat) (bs : List Byte) (s : State) : State :=
  let t := s.tile p
  let a := storeBase st + off
  s.setTile p (Tile.rewritten a bs.length { t with
    mem := Mem.store a bs t.mem
    upset := t.upset.filter (fun e => decide (¬ (a / 4 * 4 ≤ e.1 ∧ e.1 < a + bs.length))) })

/-- A bank's contents become zero with valid check bits (R73, R74). -/
def Tile.wipe (st off n : Nat) (t : Tile) : Tile :=
  let a := storeBase st + off
  Tile.rewritten a n { t with mem := Mem.clear a n t.mem, upset := t.upset.filter (fun e => decide (¬ (a ≤ e.1 ∧ e.1 < a + n))) }

/-! ## Contexts of a tile (05 R141, 11 R363) -/

/-- The executing context's slot: 0 or 1. -/
def Tile.execSlot (t : Tile) : Nat := if t.exec1 then 1 else 0

def Tile.slot (w : Nat) (t : Tile) : Option Ctx := if w = 0 then t.ctx0 else t.ctx1
def Tile.setSlot (w : Nat) (c : Option Ctx) (t : Tile) : Tile := if w = 0 then { t with ctx0 := c } else { t with ctx1 := c }

/-- The context that executes. -/
def Tile.cur (t : Tile) : Option Ctx := t.slot t.execSlot

def Tile.setCur (c : Ctx) (t : Tile) : Tile := t.setSlot t.execSlot (some c)

/-- A job is executing (R77). -/
def Tile.running (t : Tile) : Bool :=
  match t.cur with
  | some c => c.live && decide (c.wait = none)
  | none => false

/-- Context slots that a job or a standing binding holds. -/
def Tile.contexts (t : Tile) : Nat := b2n t.ctx0.isSome + b2n t.ctx1.isSome

/-! ## Coils (R63 to R68) -/

def Coil.empty (c : Coil) : Bool := decide (c.head = c.tail ∧ c.headLap = c.tailLap)
def Coil.full (c : Coil) : Bool := decide (c.head = c.tail ∧ c.headLap ≠ c.tailLap)

/-- Fill level in elements (R65). -/
def Coil.fill (c : Coil) : Nat :=
  if c.elem = 0 then 0
  else if c.full then c.size / c.elem
  else ((c.tail + c.size - c.head) % c.size) / c.elem

/-- A pointer and its lap bit one element on (R65). -/
def advance (c : Coil) (x : Nat) (lap : Bool) : Nat × Bool := if x + c.elem = c.size then (0, !lap) else (x + c.elem, lap)

def Coil.pop (c : Coil) : Coil :=
  let h := advance c c.head c.headLap
  { c with head := h.1, headLap := h.2 }

def Coil.pushed (c : Coil) : Coil :=
  let h := advance c c.tail c.tailLap
  { c with tail := h.1, tailLap := h.2 }

def Coil.popN : Nat → Coil → Coil
  | 0, c => c
  | n + 1, c => Coil.popN n c.pop

/-- Sets head to tail (05 R161 CDRAIN). -/
def Coil.drain (c : Coil) : Coil := { c with head := c.tail, headLap := c.tailLap }

/-- Offset of the element just before the tail. -/
def Coil.last (c : Coil) : Nat := if c.tail = 0 then c.size - c.elem else c.tail - c.elem

/-- What an element's space costs at a full coil: the coil ready to take it, or none where it cannot (R68). -/
inductive Room where
  | ready (c : Coil)
  | dropped (c : Coil)
  | blocked
  deriving DecidableEq, Repr

def Coil.room (c : Coil) : Room :=
  if !c.full then .ready c
  else if c.policy = 1 then .ready { c.pop with overrun := satAdd c.overrun 1 }
  else if c.policy = 2 then .dropped { c with overrun := satAdd c.overrun 1 }
  else .blocked

def Ctx.coil (n : Nat) (c : Ctx) : Coil := Tbl.get { } n c.coils
def Ctx.setCoil (n : Nat) (v : Coil) (c : Ctx) : Ctx := { c with coils := Tbl.set { } n v c.coils }

/-- Two images with the same digests and sections. -/
def Image.same (a b : Image) : Bool := decide (a.programDigest = b.programDigest ∧ a.weightDigest = b.weightDigest ∧ a.sections = b.sections)

/-- The tile holds the image whole. -/
def Tile.holdsImage (im : Image) (t : Tile) : Bool := t.residents.any (fun r => r.same im)

/-- The descriptors that a resident image without a job keeps (R73). -/
def Tile.restOf (im : Image) (t : Tile) : Tbl Coil :=
  if t.holdsImage im then (match t.restCoils.find? (fun e => e.1.same im) with
    | some e => e.2
    | none => []) else []

/-- The resident image without a job that has coil `n` open, else one that has had it. -/
def Tile.restHome (n : Nat) (t : Tile) : Option (Image × Tbl Coil) :=
  match t.restCoils.find? (fun e => t.holdsImage e.1 && (Tbl.get { } n e.2).isOpen) with
  | some e => some e
  | none => t.restCoils.find? (fun e => t.holdsImage e.1 && e.2.any (fun x => decide (x.1 = n)))

/-- The home of coil `n` as the receive port and the registers see it: the context that has it open, else the
resident image without a job that has it open, else the executing context, else the resident image that has had it
(these two are 3), else the descriptors of a tile without a context (log entry 14). -/
def Tile.coilHome (n : Nat) (t : Tile) : Nat :=
  let isOpen := fun (w : Nat) => match t.slot w with
    | some c => (c.coil n).isOpen
    | none => false
  if isOpen t.execSlot then t.execSlot
  else if isOpen (1 - t.execSlot) then 1 - t.execSlot
  else if (t.restHome n).any (fun e => (Tbl.get { } n e.2).isOpen) then 3
  else if t.cur.isSome then t.execSlot
  else if (t.restHome n).isSome then 3
  else 2

/-- Resident images that no context slot runs. -/
def Tile.idleImages (t : Tile) : List Image :=
  t.residents.filter (fun r => !((t.ctx0.toList ++ t.ctx1.toList).any (fun c => c.job.image.same r)))

/-- Resident contexts, 0 to 2: held slots, and slots that only a resident image holds (11 R356). -/
def Tile.shown (t : Tile) : Nat := min 2 (t.contexts + t.idleImages.length)

/-- Two slots in all: what no slot is left for is discarded, the oldest first (11 R356). -/
def Tile.trim (t : Tile) : Tile :=
  let keep := t.idleImages.take (2 - t.contexts)
  { t with residents := t.residents.filter (fun r => keep.any (fun k => k.same r) || !(t.idleImages.any (fun k => k.same r))) }

def Tile.coil (n : Nat) (t : Tile) : Coil :=
  match t.slot (t.coilHome n), t.coilHome n, t.restHome n with
  | _, 3, some e => Tbl.get { } n e.2
  | some c, 0, _ => c.coil n
  | some c, 1, _ => c.coil n
  | _, _, _ => Tbl.get { } n t.coils

def Tile.setCoil (n : Nat) (v : Coil) (t : Tile) : Tile :=
  match t.slot (t.coilHome n), t.coilHome n, t.restHome n with
  | _, 3, some e => { t with restCoils := t.restCoils.map (fun x => if x = e then (e.1, Tbl.set { } n v e.2) else x) }
  | some c, 0, _ => t.setSlot 0 (some (c.setCoil n v))
  | some c, 1, _ => t.setSlot 1 (some (c.setCoil n v))
  | _, _, _ => { t with coils := Tbl.set { } n v t.coils }

/-- A wait on a coil is satisfied when its fill level is reached (11 R363). -/
def Ctx.wake (c : Ctx) : Ctx :=
  match c.wait with
  | some (.coil n l) => if (c.coil n).fill ≥ l then { c with wait := none } else c
  | _ => c

def Tile.wake (t : Tile) : Tile := { t with ctx0 := t.ctx0.map Ctx.wake, ctx1 := t.ctx1.map Ctx.wake }

/-! ## Scoreboard (R59, R60) -/

/-- Whether a range of a store overlaps a valid entry that it must wait for. -/
def SbEntry.hits (write : Bool) (st off n : Nat) (e : SbEntry) : Bool :=
  e.valid && decide (n ≠ 0) && decide (e.store = st) && (e.write || write) &&
    decide (off / 64 ≤ e.last ∧ e.first ≤ (off + n - 1) / 64)

/-- A range conflicts with an entry of the scoreboard. -/
def Tile.sbBusy (write : Bool) (st off n : Nat) (t : Tile) : Bool := t.sb.any (fun e => SbEntry.hits write st off n e.2)

/-- A request to turn the bank ON is pending (05 R174). -/
def Tile.onPending (b : Nat) (t : Tile) : Bool := t.bankReq.any (fun r => decide (r.bank = b ∧ r.goal = .on))

/-- The first bank of a range that is not ON. -/
def Tile.offBank (st off n : Nat) (t : Tile) : Option Nat := (banksOf st off n).find? (fun b => decide (t.bank b ≠ .on))

/-- Some bank of a range is not ON and no request will turn it ON (05 R174; 11 R383). -/
def Tile.dark (st off n : Nat) (t : Tile) : Bool := (banksOf st off n).any (fun b => decide (t.bank b ≠ .on) && !t.onPending b)

/-- The slot that owns a coil, or none where no context has it open. -/
def Tile.coilOwner (n : Nat) (t : Tile) : Option Nat :=
  if t.coilHome n < 2 && (t.coil n).isOpen then some (t.coilHome n) else none

/-- The write entry of a descriptor that pushes or adds into a coil of its own tile does not hold back the port that writes its rows
(log entry 41). -/
def Tile.pusher (p coil owner : Nat) (t : Tile) : Bool :=
  t.dma.any (fun e => e.2.descs.any (fun d => decide (d.no = owner) && (bit d.w2 45 || bit d.attr 8) && decide (fld d.w1 8 8 = p ∧ fld d.w1 0 5 = coil)))

/-- A range that the receive port writes for a coil conflicts with the scoreboard (R60, R71). -/
def Tile.rxBusy (p coil st off n : Nat) (t : Tile) : Bool :=
  t.sb.any (fun e => SbEntry.hits true st off n e.2 && !t.pusher p coil e.2.owner)

/-! ## The receive port (R69 to R72, 13 R446) -/

def srcCode : PushSrc → Nat
  | .host => 0
  | .tile => 1
  | .sense => 2
  | .loop => 3
  | .kiln => 4

/-- A source that never waits (R70). A push of the kiln that meets a full coil or a full buffer is held like one of a tile
or the host (DESIGN CHOICE, log entry 182). -/
def neverWaits : PushSrc → Bool
  | .sense => true
  | .loop => true
  | _ => false

/-- A host or a tile: their order at a coil is recorded, and a swapped-out context wakes for them (11 R365; 12 R394). -/
def ordered : PushSrc → Bool
  | .host => true
  | .tile => true
  | _ => false

/-- The key of the expected sequence number: one for each source and coil (13 R446). -/
def rxKey (coil : Nat) (src : PushSrc) (prod : Nat) : Nat := coil + 32 * (srcCode src + 8 * prod)

/-- How a push ended. -/
inductive Pushed where
  | taken | refused | held
  deriving DecidableEq, Repr

/-- A push is refused by the coil as it stands on arrival (R69, R70). -/
def Coil.refuses (src : PushSrc) (n : Nat) (c : Coil) : Bool :=
  !c.isOpen || !c.receive || !bit c.accept (srcCode src) || decide (c.elem ≠ n) || (neverWaits src && decide (c.policy = 0))

/-- The recorded order of a coil's host and tile producers, in a replay (12 R394, R420). -/
def State.orderOf (p coil : Nat) (s : State) : Option (Nat × Nat × Nat × Nat) :=
  if s.wit.mode = .replay then s.wit.orders.find? (fun o => decide (some o.1 = s.logical p ∧ o.2.1 = coil)) else none

/-- In a replay an element of a host or tile waits for its recorded place. -/
def State.orderTurn (p coil : Nat) (src : PushSrc) (prod : Nat) (s : State) : Bool :=
  !ordered src || (match s.orderOf p coil with
    | some o => decide (o.2.2.1 = srcCode src ∧ o.2.2.2 = prod % 256)
    | none => true)

/-- Records the producer of an element where several producers may interleave, or moves on in the recorded order (12 R394). -/
def State.coilOrder (p coil : Nat) (src : PushSrc) (prod : Nat) (s : State) : State :=
  if !ordered src then s
  else
    let s := s.witness 0x23 p s.now [BitVec.ofNat 8 ((s.logical p).getD 0xFF), BitVec.ofNat 8 coil, BitVec.ofNat 8 (srcCode src), BitVec.ofNat 8 prod]
    match s.orderOf p coil with
    | some o => s.setWit { s.wit with orders := s.wit.orders.erase o }
    | none => s

/-- Writes an element whose turn it is, if its slot is free and not in use (R60, R68, R71). The port is an engine: at a bank that
is not ON its write waits for a request that turns the bank ON; without one it has no effect, and the job whose coil it is ends
with FAILED_POWER (05 R174; 11 R383). Where no job has the coil the element waits (log entry 204). -/
def State.rxWrite (p : Nat) (e : RxElem) (s : State) : State × Pushed :=
  let t := s.tile p
  let c := t.coil e.coil
  let k := rxKey e.coil e.src e.prod
  let next := fun (t : Tile) => { t with rxNext := Tbl.set 0 k (e.n6 + 1) t.rxNext }
  match c.room with
  | .blocked => (s, .held)
  | .dropped c' => ((s.setTile p (next (t.setCoil e.coil c'))).tileEvent p 0x22 1, .taken)
  | .ready c' =>
    let off := c.base + c'.tail
    if !s.orderTurn p e.coil e.src e.prod || t.rxBusy p e.coil c.store off c.elem then (s, .held)
    else if !t.on c.store off c.elem then
      (match t.dark c.store off c.elem, t.coilOwner e.coil, t.offBank c.store off c.elem with
       | true, some w, some _ => (s.setTile p (next (t.setSlot w ((t.slot w).map (fun x => { x with doomed := some (St.power, locStore p c.store off) })))), .taken)
       | _, _, _ => (s, .held))
    else
      let lapped := decide (c'.overrun ≠ c.overrun)
      let s := s.storeWrite p c.store (c.base + c'.tail) e.data
      let s := s.updTile p (fun t => (next (t.setCoil e.coil c'.pushed)).wake)
      let s := s.tileEvent p 0x20 1
      ((if lapped then s.tileEvent p 0x22 1 else s).coilOrder p e.coil e.src e.prod, .taken)

/-- The first buffered element whose turn has come. -/
def State.rxReady (p : Nat) (s : State) : Option RxElem :=
  (s.tile p).rx.find? (fun e => decide (Tbl.get 0 (rxKey e.coil e.src e.prod) (s.tile p).rxNext = e.n6) && s.orderTurn p e.coil e.src e.prod)

/-- Writes what the buffer holds as far as it can (R71). -/
def State.rxDrain (p : Nat) : Nat → State → State
  | 0, s => s
  | n + 1, s =>
    match s.rxReady p with
    | none => s
    | some e =>
      let r := s.rxWrite p e
      if r.2 = .taken then State.rxDrain p n (r.1.updTile p (fun t => { t with rx := t.rx.erase e })) else s

/-- A swapped-out context of the tile for which the push waits at its handshake (11 R365). -/
def awaits (p : Nat) (e : RxElem) (x : Swapped) : Bool :=
  decide (x.home = p) && ordered e.src && !(x.ctx.coil e.coil).refuses e.src e.data.length

/-- A push arrives: refused, held by its handshake, buffered, or written in sequence order (R69 to R71, 13 R446). A push
held for a swapped-out context makes the context runnable (11 R365). -/
def State.arrive (p : Nat) (e : RxElem) (s : State) : State × Pushed :=
  let t := s.tile p
  let c := t.coil e.coil
  if !c.isOpen && s.kiln.swapped.any (awaits p e) then
    (s.setKiln { s.kiln with swapped := s.kiln.swapped.map (fun x => if awaits p e x then { x with runnable := true } else x) }, .held)
  else if c.refuses e.src e.data.length then
    ((s.setTile p (t.setCoil e.coil { c with refused := satAdd c.refused 1 })).tileEvent p 0x21 1, .refused)
  else
    let turn := decide (Tbl.get 0 (rxKey e.coil e.src e.prod) t.rxNext = e.n6)
    let r := if turn then s.rxWrite p e else (s, .held)
    match r.2 with
    | .taken => (r.1.rxDrain p 16, .taken)
    | _ =>
      if turn && c.full && decide (c.policy = 0) then (s, .held)
      else if t.rx.length < 16 then (s.setTile p { t with rx := t.rx ++ [e] }, .taken)
      else if neverWaits e.src then
        ((s.setTile p (t.setCoil e.coil { c with overrun := satAdd c.overrun 1 })).tileEvent p 0x22 1, .taken)
      else (s, .held)

/-- A push of a source that sends in order, with the next sequence number of its pair. -/
def State.pushTo (p coil : Nat) (src : PushSrc) (prod : Nat) (d : List Byte) (s : State) : State × Pushed :=
  let n6 := Tbl.get (0 : BitVec 6) (rxKey coil src prod) (s.tile p).rxNext
  let buffered := ((s.tile p).rx.filter (fun e => decide (rxKey e.coil e.src e.prod = rxKey coil src prod))).length
  s.arrive p { coil := coil, src := src, prod := prod, n6 := n6 + BitVec.ofNat 6 buffered, data := d }

/-- A push by logical tile; a push at an unmapped tile reaches no port. -/
def State.pushLogical (l coil : Nat) (src : PushSrc) (prod : Nat) (d : List Byte) (s : State) : State :=
  match s.phys l with
  | some p => (s.pushTo p coil src prod d).1
  | none => s

/-- The judgement of a binding on the coil it names (R70). -/
def State.coilJudged (l coil elem : Nat) (s : State) : Bool :=
  match s.phys l with
  | some p =>
    let c := (s.tile p).coil coil
    !c.isOpen || (decide (c.policy ≠ 0) && decide (c.elem = elem))
  | none => true

/-! ## Scrubbing (R55) -/

/-- The scrubber reads one word of an ON bank and writes back a correction; an uncorrectable word is logged and
counted, and no job fails. -/
def State.scrub (p st off : Nat) (s : State) : State :=
  let t := s.tile p
  let w := off / 4 * 4
  if !bit t.ctl 1 || !inStore st w 4 || !t.on st w 4 then s
  else
    match t.upsets st w 4 with
    | [] => s
    | e :: _ =>
      let t' := t.meet 6 st e.1 e.2
      if correctable (syndrome e.2) then
        let a := storeBase st + w
        let d := w32Bytes (BitVec.ofNat 32 (leNat (Mem.bytes a 4 t.mem)) ^^^ residual e.2)
        (s.setTile p { t' with upset := Tbl.erase a t'.upset, mem := Mem.store a d t'.mem }).tileEvent p 0x14 1
      else (s.setTile p (t'.countUnc s.up (storeBase st + w))).tileEvent p 0x15 1

/-! ## Registers (R58, R62, R63, R76 to R79; 04 R131; 17 R548) -/

/-- The power domain of a tile has the tile's number (11 R377). -/
def State.tileRung (p : Nat) (s : State) : BitVec 3 := (s.dom p).rung

def sbReg (e : SbEntry) : W64 :=
  at64 (b2n e.valid) 38 ||| at64 (b2n e.write) 37 ||| at64 e.engine 34 ||| at64 e.store 32 ||| at64 e.last 16 ||| at64 e.first 0

def coilReg (c : Coil) : Nat → W64
  | 0 => at64 c.size 32 ||| at64 c.store 22 ||| at64 c.base 0
  | 1 => at64 (b2n c.headLap) 54 ||| at64 c.head 32 ||| at64 (b2n c.tailLap) 22 ||| at64 c.tail 0
  | 2 => at64 c.accept.toNat 20 ||| at64 c.policy.toNat 15 ||| at64 (b2n c.receive) 14 ||| at64 (b2n c.isOpen) 13 ||| at64 c.elem 0
  | _ => at64 c.refused.toNat 32 ||| at64 c.overrun.toNat 0

/-- The index of a conflict counter, where its offset is not reserved (R58). -/
def bconfIx (o : Nat) : Option Nat :=
  let k := (o - 0x800) / 8
  if 0x800 ≤ o ∧ o < 0xE00 ∧ o % 8 = 0 ∧ k % 64 / 8 ≤ 5 ∧ k % 8 ≤ 5 ∧ k % 64 / 8 ≠ k % 8 then some k else none

def State.tilePeek (p o : Nat) (s : State) : Option W64 :=
  let t := s.tile p
  if o % 8 ≠ 0 then none
  else match o with
  | 0x00 => some (at64 (p / 17) 16 ||| at64 (b2n (decide (p % 17 = 16))) 15 ||| at64 (b2n (s.logical p).isSome) 14 |||
      at64 ((s.logical p).getD 0) 8 ||| at64 p 0)
  | 0x08 => some (at64 (b2n t.failed) 11 ||| at64 (b2n t.selfTest) 10 ||| at64 (b2n t.closed) 9 ||| at64 (b2n t.running) 8 |||
      at64 t.shown 6 ||| at64 (b2n t.reserved) 5 ||| at64 t.clkStep.toNat 3 ||| at64 (s.tileRung p).toNat 0)
  | 0x10 => some (t.ctl &&& 6)
  | 0x20 => some (at64 (b2n t.eccValid) 48 ||| at64 t.eccUnc.toNat 32 ||| at64 t.eccCor.toNat 0)
  | 0x28 => some t.eccLog
  | 0x30 => some (at64 t.bqSkew.toNat 48 ||| at64 t.bqGrogFull.toNat 32 ||| at64 t.bqCrushed.toNat 0)
  | _ =>
    if 0x100 ≤ o ∧ o < 0x500 then some (coilReg (t.coil ((o - 0x100) / 32)) (o % 32 / 8))
    else if 0x600 ≤ o ∧ o < 0x680 then some (sbReg (Tbl.get { } ((o - 0x600) / 8) t.sb))
    else if 0xE00 ≤ o ∧ o < 0xE80 then
      let c := Tbl.get { } ((o - 0xE00) / 16) t.evc
      some (if o % 16 = 0 then c.sel &&& 0x1FF else at64 (b2n c.ovf) 48 ||| at64 c.count.toNat 0)
    else (bconfIx o).map (fun k => at64 (Tbl.get 0 k t.bconf).toNat 0)

/-- The RC fields that a read clears. -/
def Tile.clear (o : Nat) (t : Tile) : Tile :=
  match o with
  | 0x20 => { t with eccUnc := 0, eccCor := 0 }
  | 0x30 => { t with bqSkew := 0, bqGrogFull := 0, bqCrushed := 0 }
  | _ => match bconfIx o with
    | some k => { t with bconf := Tbl.erase k t.bconf }
    | none => t

/-- The codes of the tile events that a tile counter may select (17 R551). -/
def tileEventCode (c : Nat) : Bool :=
  decide (c ≤ 6) || (decide (8 ≤ c) && decide (c ≤ 0xE)) || (decide (0x10 ≤ c) && decide (c ≤ 0x12)) || decide (c = 0x14) || decide (c = 0x15) ||
    (decide (0x18 ≤ c) && decide (c ≤ 0x1B)) || (decide (0x20 ≤ c) && decide (c ≤ 0x22)) || (decide (0x24 ≤ c) && decide (c ≤ 0x26)) ||
    decide (c = 0x28) || decide (c = 0x29) || decide (c = 0x30) || decide (c = 0x31)

/-- A selection register: a change of the event clears the count and ovf (17 R543, R550). -/
def Counter.select (ev : W64) (v : W64) (c : Counter) : Counter :=
  if (c.sel ^^^ v) &&& ev = 0 then { c with sel := v } else { sel := v, ovf := false, count := 0 }

/-- A write to a count register: ovf is W1C, the count is RW (17 R543, R548). `m` is the mask of bits written. -/
def Counter.put (v m : W64) (c : Counter) : Counter :=
  { c with ovf := c.ovf && !(bit v 48 && bit m 48), count := (mask64 (c.count.setWidth 64) v m).setWidth 48 }

/-- A write of the bits `m` of a tile register. Answers none where it fails. -/
def Tile.poke (o : Nat) (v m : W64) (t : Tile) : Option Tile :=
  match o with
  | 0x10 =>
    let t := { t with ctl := mask64 t.ctl v m &&& 6 }
    some (if bit v 0 && bit m 0 then { t with bconf := [] } else t)
  | 0x20 => some { t with eccValid := t.eccValid && !(bit v 48 && bit m 48) }
  | _ =>
    if 0xE00 ≤ o ∧ o < 0xE80 then
      let k := (o - 0xE00) / 16
      let c := Tbl.get { } k t.evc
      if o % 16 = 0 then
        let w := mask64 c.sel v m &&& 0x1FF
        if tileEventCode (fld w 0 8) then some { t with evc := Tbl.set { } k (Counter.select 0xFF w c) t.evc } else none
      else some { t with evc := Tbl.set { } k (Counter.put v m c) t.evc }
    else some t

/-! ## The event of the scrubber -/

/-- The background scrubber meets a word (R55). -/
def execStoreScrub (t store off : Nat) (s : State) : Res := within t 68 (s.scrub t store off)

end Sys2Proof.Machine
end

