-- ==== Sys2Proof/Machine/Contexts.lean ====
section
/-!
DEFINITION. What a job's context may touch: flags, cycles, footprint writes, bank requests and the scoreboard (02 R59 to
R61; 03 R106 to R108; 05 R141, R180, R184; 10 R341; 11 R381, R382).
-/

set_option Elab.async false

namespace Sys2Proof.Machine

open Sys2Proof

/-! ## Contexts -/

def State.ctx (p w : Nat) (s : State) : Option Ctx := (s.tile p).slot w

def State.setCtx (p w : Nat) (c : Ctx) (s : State) : State := s.updTile p (Tile.setSlot w (some c))

def State.updCtx (p w : Nat) (f : Ctx → Ctx) (s : State) : State :=
  match s.ctx p w with
  | some c => s.setCtx p w (f c)
  | none => s

/-- Flags that an operation of unit `u` raises (0 sequencer, 1 vector engine, 2 matrix array, 3 factor unit): the unit's
sticky copy, the flag word and the job accumulator take them, and a trap becomes pending when the trap bit of a flag of
the flag word is set (03 R106 to R108). -/
def Ctx.raise (u : Nat) (f : W32) (c : Ctx) : Ctx :=
  { c with unitFlags := Tbl.set 0 u (Tbl.get 0 u c.unitFlags ||| (f &&& Fl.arith)) c.unitFlags, flagW := c.flagW ||| (f &&& Fl.arith),
           jobAcc := c.jobAcc ||| f, trap := c.trap || decide (f &&& Fl.arith &&& c.trapW ≠ 0) }

/-- Tile cycles per nanosecond of a clock step, as a fraction (02 R40, R77). -/
def clkRatio (step : BitVec 2) : Nat × Nat := if step = 0 then (3, 2) else if step = 1 then (9, 8) else (3, 4)

/-- Tile cycles since the job's first instruction, but for those in which it was swapped out (02 R48). -/
def State.cycles (p : Nat) (c : Ctx) (s : State) : Nat :=
  if c.started.isNone then 0
  else c.cycBase + (s.up - c.cycSince) * (clkRatio (s.tile p).clkStep).1 / (clkRatio (s.tile p).clkStep).2

/-- Cycles counted by the budget watchdog: those at a lower clock step do not count (05 R184). -/
def State.wdCycles (p : Nat) (c : Ctx) (s : State) : Nat :=
  if c.started.isNone then 0
  else c.wdBase + (if (s.tile p).clkStep = 0 then (s.up - c.cycSince) * 3 / 2 else 0)

/-- Store and offset of a window offset. -/
def windowStore (a : Nat) : Nat × Nat :=
  if a < 0x400000 then (0, a) else if a < 0x600000 then (1, a - 0x400000) else if a < 0x700000 then (2, a - 0x600000) else (3, a - 0x700000)

/-- The cycles so far are kept when the clock step or the swap state of a context changes. -/
def State.foldCycles (p w : Nat) (s : State) : State :=
  s.updCtx p w (fun c => { c with cycBase := s.cycles p c, wdBase := s.wdCycles p c, cycSince := s.up })

/-! ## Sections a job may write (05 R180, 10 R341) -/

/-- A WEIGHT section or a persistent region. -/
def Section.kept (x : Section) : Bool := decide (x.kind = 2) || (x.persistent && decide (x.kind = 4))

def Section.meets (st off n : Nat) (x : Section) : Bool :=
  decide (x.kind ≠ 5 ∧ x.store = st ∧ x.storeOff < off + n ∧ off < x.storeOff + x.size)

/-- A range that the job may write: inside the footprint, and for INFER outside WEIGHT and persistent sections. -/
def Ctx.mayWrite (st off n : Nat) (c : Ctx) : Bool :=
  inFoot c.job.image st off n &&
    !(decide (c.job.opcode = 0x2004) && c.job.image.sections.any (fun x => x.kept && x.meets st off n))

/-- The indexes of the kept sections that a write touches. -/
def Image.keptIn (st off n : Nat) (im : Image) : List Nat :=
  (im.sections.zipIdx.filter (fun e => e.1.kept && e.1.meets st off n)).map (·.2)

/-- Notes the kept sections that a write touches (14 R465, 12 R398). -/
def Ctx.noteWrite (st off n : Nat) (c : Ctx) : Ctx :=
  { c with wroteSecs := c.wroteSecs ++ (c.job.image.keptIn st off n).filter (fun i => !c.wroteSecs.contains i) }

/-- The sections, by index, that a range meets. -/
def Image.secsIn (st off n : Nat) (im : Image) : List Nat := (im.sections.zipIdx.filter (fun e => e.1.meets st off n)).map (·.2)

/-- Adds sections of an image to a list of image sections, each once. -/
def addSecs (im : Image) (ixs : List Nat) (l : List (Image × Nat)) : List (Image × Nat) :=
  l ++ (ixs.filter (fun i => !l.any (fun e => decide (e.2 = i) && e.1.same im))).map (fun i => (im, i))

/-- A write by a program of image `im`: the kept sections that it meets are no longer as they were loaded, and another
resident image has lost what it meets there (02 R73; 12 R398). -/
def Tile.noteWrite (im : Image) (st off n : Nat) (t : Tile) : Tile :=
  { t with written := addSecs im (im.keptIn st off n) t.written,
           lost := (t.residents.filter (fun r => !r.same im)).foldl (fun l r => addSecs r (r.secsIn st off n) l) t.lost }

/-- A write of the job's own program. -/
def State.ownWrite (p w st off : Nat) (bs : List Byte) (s : State) : State :=
  match s.ctx p w with
  | none => s.storeWrite p st off bs
  | some c => ((s.storeWrite p st off bs).updTile p (Tile.noteWrite c.job.image st off bs.length)).updCtx p w (Ctx.noteWrite st off bs.length)

/-! ## Bank power (11 R381, R382) -/

/-- The state a bank reaches when every request made of it has taken effect. -/
def Tile.bankGoal (b : Nat) (t : Tile) : BankSt :=
  match (t.bankReq.filter (fun r => decide (r.bank = b))).getLast? with
  | some r => r.goal
  | none => t.bank b

/-- Accesses that wait at stage 1, descriptors and buffered elements in flight at a bank (05 R174, 11 R382). -/
def Tile.inFlight (b : Nat) (t : Tile) : Nat :=
  let r := bankRange b
  (t.sb.filter (fun e => e.2.valid && decide (e.2.store = r.1) && decide (e.2.first * 64 < r.2.1 + r.2.2 ∧ r.2.1 < (e.2.last + 1) * 64))).length +
    (t.rx.filter (fun e =>
      let c := t.coil e.coil
      c.isOpen && decide (c.store = r.1 ∧ c.base < r.2.1 + r.2.2 ∧ r.2.1 < c.base + c.size))).length +
    ((t.ctx0.toList ++ t.ctx1.toList).filter (fun c => c.live && c.stage1.contains b)).length

/-- A request that must wait: a bank with accesses in flight does not leave ON until they finish (05 R173, 11 R382). A
request for ON, and one of a bank that is not ON, does not wait (log entry 58). -/
def Tile.gated (r : BankReq) (t : Tile) : Bool :=
  decide (r.goal ≠ .on) && decide (t.bank r.bank = .on) && decide (t.inFlight r.bank ≠ 0)

/-- The first request of a bank is under way where it need not wait. -/
def Tile.startBank (b : Nat) (t : Tile) : Tile :=
  match t.bankReq.find? (fun r => decide (r.bank = b)) with
  | some r => if t.gated r then t else t.setBank b .moving
  | none => t

/-- A request from BANKPWR (of the context in slot `by_`), the kiln or SET_RUNG. A request for the state the bank has, or
for RETAIN of an OFF bank, changes nothing; one for a state that is already on its way ends with that transition. -/
def Tile.requestBank (b : Nat) (g : BankSt) (by_ : Option Nat) (t : Tile) : Tile :=
  let now := t.bankGoal b
  if (now = g ∧ (by_ = none ∨ !t.bankReq.any (fun r => decide (r.bank = b)))) ∨ (now = .off ∧ g = .retain) then t
  else Tile.startBank b { t with bankReq := t.bankReq ++ [{ bank := b, goal := g, by_ := by_ }] }

/-- The first request of bank `b`, with those for the same state that follow it directly, is done. -/
def dropSame (b : Nat) (g : BankSt) : List BankReq → List BankReq
  | [] => []
  | r :: rs => if r.bank ≠ b then r :: dropSame b g rs else if r.goal = g then dropSame b g rs else r :: rs

/-- A context that leaves its slot no longer waits for the transitions it requested. -/
def Tile.disown (w : Nat) (t : Tile) : Tile :=
  { t with bankReq := t.bankReq.map (fun r => if r.by_ = some w then { r with by_ := none } else r) }

/-- The images whose sections a tile holds: the resident ones and those of its contexts. -/
def Tile.images (t : Tile) : List Image := t.residents ++ (t.ctx0.toList ++ t.ctx1.toList).map (fun c => c.job.image)

/-- The images of the tile have lost what they held in a range (02 R73). -/
def Tile.loseIn (st off n : Nat) (t : Tile) : Tile :=
  { t with lost := t.images.foldl (fun l im => addSecs im (im.secsIn st off n) l) t.lost }

/-- A bank takes a state. One that goes OFF has lost its contents, and holds zero when it comes ON again (02 R73, R74). -/
def Tile.bankTo (b : Nat) (g : BankSt) (t : Tile) : Tile :=
  let x := bankRange b
  let t := t.setBank b g
  if g = .off then (t.wipe x.1 x.2.1 x.2.2).loseIn x.1 x.2.1 x.2.2 else t

/-- A transition takes effect, and the bank's next request is under way. -/
def Tile.bankDone (b : Nat) (t : Tile) : Tile :=
  match t.bankReq.find? (fun r => decide (r.bank = b)) with
  | none => t
  | some r => if t.gated r then t else (Tile.bankTo b r.goal { t with bankReq := dropSame b r.goal t.bankReq }).startBank b

/-- Every pending transition takes effect. -/
def Tile.settleBanks (t : Tile) : Tile := { (t.bankReq.foldl (fun t r => t.bankTo r.bank r.goal) t) with bankReq := [] }

/-! ## Scoreboard entries and spans (02 R59, R60; 05 R149, R150) -/

/-- Entries that are free. -/
def Tile.sbFree (t : Tile) : List Nat := (List.range 16).filter (fun i => !(Tbl.get { } i t.sb).valid)

def Tile.sbDma (t : Tile) : Nat := (t.sb.filter (fun e => e.2.valid && decide (e.2.engine = 4))).length

def Tile.sbAlloc (es : List SbEntry) (t : Tile) : Tile :=
  (t.sbFree.zip es).foldl (fun t x => { t with sb := Tbl.set { } x.1 x.2 t.sb }) t

def Tile.sbRelease (owner : Nat) (t : Tile) : Tile :=
  { t with sb := t.sb.filter (fun e => decide (e.2.owner ≠ owner)) }

end Sys2Proof.Machine
end

