-- ==== Sys2Proof/Machine/Fp.lean ====
section
/-!
DEFINITION. The number formats and their arithmetic, bit for bit (03 R80 to R117). A finite value is held exactly,
as a sign and a magnitude m * 2^e; an operation computes exactly and narrows once.
-/

set_option Elab.async false

namespace Sys2Proof.Machine

open Sys2Proof

/-- A value of any of the floating-point formats. -/
inductive Num where
  | nan
  | inf (neg : Bool)
  | fin (neg : Bool) (m : Nat) (e : Int)
  deriving DecidableEq, Repr, Inhabited

/-- How a magnitude is narrowed: to nearest even, by truncation, or upward (03 R91, R94; 04 R133). -/
inductive Rm where
  | rne | trunc | up
  deriving DecidableEq, Repr

def Num.neg : Num → Num
  | .nan => .nan
  | .inf n => .inf (!n)
  | .fin n m e => .fin (!n) m e

def Num.isNan : Num → Bool
  | .nan => true
  | _ => false

def Num.isZero : Num → Bool
  | .fin _ 0 _ => true
  | _ => false

def Num.isFin : Num → Bool
  | .fin _ _ _ => true
  | _ => false

def Num.sign : Num → Bool
  | .nan => false
  | .inf n => n
  | .fin n _ _ => n

def one : Num := .fin false 1 0

/-- An integer as a value. -/
def Num.ofInt (x : Int) : Num := .fin (decide (x < 0)) x.natAbs 0

/-! ## Reading the formats (R82, R83, R84, R99) -/

/-- FP32; a subnormal reads as zero of its sign. -/
def f32Num (x : W32) : Num :=
  let e := fld x 23 8
  let f := fld x 0 23
  let n := bit x 31
  if e = 255 then (if f = 0 then .inf n else .nan)
  else if e = 0 then .fin n 0 0
  else .fin n (f + 2 ^ 23) ((e : Int) - 150)

/-- FZ where an FP32 operand is a subnormal (R99). -/
def f32Fz (x : W32) : W32 := Fl.when (fld x 23 8 = 0 && fld x 0 23 ≠ 0) Fl.fz

/-- The operand with its subnormal flushed. -/
def f32Flush (x : W32) : W32 := if fld x 23 8 = 0 then x &&& 0x80000000 else x

/-- FP16, with full subnormals. -/
def f16Num (x : BitVec 16) : Num :=
  let e := fld x 10 5
  let f := fld x 0 10
  let n := bit x 15
  if e = 31 then (if f = 0 then .inf n else .nan)
  else if e = 0 then .fin n f (-24)
  else .fin n (f + 2 ^ 10) ((e : Int) - 25)

/-- F8: one NaN, no infinity, no negative zero. -/
def f8Num (x : Byte) : Num :=
  let e := fld x 3 4
  let f := fld x 0 3
  let n := bit x 7
  if x = 0x80 then .nan
  else if e = 0 then .fin n f (-9)
  else .fin n (f + 8) ((e : Int) - 10)

/-! ## Narrowing (R91, R94, R97, R99, R105) -/

/-- The numerator and denominator of (n/d) * 2^e / 2^q. -/
def scaleTo (n d : Nat) (e q : Int) : Nat × Nat :=
  if e ≥ q then (n * 2 ^ (e - q).toNat, d) else (n, d * 2 ^ (q - e).toNat)

/-- n/d rounded to an integer, and whether a digit was lost. -/
def roundQ (rm : Rm) (n d : Nat) : Nat × Bool :=
  let m := n / d
  let r := n % d
  let inc := match rm with
    | .trunc => false
    | .up => decide (r ≠ 0)
    | .rne => decide (2 * r > d) || (decide (2 * r = d) && decide (m % 2 = 1))
  (if inc then m + 1 else m, decide (r ≠ 0))

/-- (n/d) * 2^e rounded to a multiple of 2^q: the multiple, and whether it is inexact. -/
def roundAt (rm : Rm) (n d : Nat) (e q : Int) : Nat × Bool :=
  let p := scaleTo n d e q
  roundQ rm p.1 p.2

/-- The exponent of the leading bit of n/d, for n and d not zero. -/
def ilogQ (n d : Nat) : Int :=
  let k : Int := (Nat.log2 n : Int) - (Nat.log2 d : Int)
  let p := scaleTo n d 0 k
  if p.1 < p.2 then k - 1 else k

/-- A significand of `p` bits, its exponent and inexactness: rounding with an unbounded exponent (R94). -/
def roundP (rm : Rm) (p : Nat) (n d : Nat) (e : Int) : Nat × Int × Bool :=
  let q := ilogQ n d + e - ((p : Int) - 1)
  let r := roundAt rm n d e q
  if r.1 = 2 ^ p then (2 ^ (p - 1), q + 1, r.2) else (r.1, q, r.2)

def sign32 (n : Bool) : W32 := if n then 0x80000000 else 0
def sign16 (n : Bool) : BitVec 16 := if n then 0x8000 else 0

def nan32 : W32 := 0x7FC00000
def nan16 : BitVec 16 := 0x7E00

/-- FP32 from a sign and the exact magnitude (n/d) * 2^e (R91, R94, R99). -/
def pack32 (rm : Rm) (neg : Bool) (n d : Nat) (e : Int) : W32 × W32 :=
  if n = 0 then (sign32 neg, 0)
  else
    let r := roundP rm 24 n d e
    let x := r.2.1 + 23
    if x < -126 then (sign32 neg, Fl.fz ||| Fl.uf ||| Fl.nx)
    else if x > 127 then (sign32 neg ||| 0x7F800000, Fl.of_ ||| Fl.nx)
    else (sign32 neg ||| BitVec.ofNat 32 ((x + 127).toNat * 2 ^ 23 + (r.1 - 2 ^ 23)), Fl.when r.2.2 Fl.nx)

/-- FP16 with gradual underflow (R94, R97). -/
def pack16 (rm : Rm) (neg : Bool) (n d : Nat) (e : Int) : BitVec 16 × W32 :=
  if n = 0 then (sign16 neg, 0)
  else
    let r := roundP rm 11 n d e
    let x := r.2.1 + 10
    if x > 15 then (sign16 neg ||| 0x7C00, Fl.of_ ||| Fl.nx)
    else if x < -14 then
      let t := roundAt rm n d e (-24)
      (sign16 neg ||| BitVec.ofNat 16 t.1, Fl.when t.2 (Fl.uf ||| Fl.nx))
    else (sign16 neg ||| BitVec.ofNat 16 ((x + 15).toNat * 2 ^ 10 + (r.1 - 2 ^ 10)), Fl.when r.2.2 Fl.nx)

/-- F8, saturating at 480 (R84, R113). -/
def packF8 (neg : Bool) (n d : Nat) (e : Int) : Byte × W32 :=
  if n = 0 then (0, 0)
  else
    let sgn : Byte := if neg then 0x80 else 0
    let r := roundP .rne 4 n d e
    let x := r.2.1 + 3
    if x > 8 ∨ (x = 8 ∧ r.1 > 15) then (sgn ||| 0x7F, Fl.sat ||| Fl.nx)
    else if x < -6 then
      let t := roundAt .rne n d e (-9)
      (if t.1 = 0 then 0 else sgn ||| BitVec.ofNat 8 t.1, Fl.when t.2 (Fl.uf ||| Fl.nx))
    else (sgn ||| BitVec.ofNat 8 ((x + 7).toNat * 8 + (r.1 - 8)), Fl.when r.2.2 Fl.nx)

/-- FP32 of any value, to nearest even. -/
def num32 (x : Num) : W32 × W32 :=
  match x with
  | .nan => (nan32, Fl.iv)
  | .inf n => (sign32 n ||| 0x7F800000, 0)
  | .fin n m e => pack32 .rne n m 1 e

/-- FP16 of any value, to nearest even. -/
def num16 (x : Num) : BitVec 16 × W32 :=
  match x with
  | .nan => (nan16, Fl.iv)
  | .inf n => (sign16 n ||| 0x7C00, 0)
  | .fin n m e => pack16 .rne n m 1 e

/-- F8 of any value (R113). -/
def numF8 (x : Num) : Byte × W32 :=
  match x with
  | .nan => (0x80, Fl.iv)
  | .inf n => (if n then 0xFF else 0x7F, Fl.sat)
  | .fin n m e => packF8 n m 1 e

/-- An integer in [lo, hi], to nearest even, saturating (R113). -/
def numInt (lo hi : Int) (x : Num) : Int × W32 :=
  match x with
  | .nan => (0, Fl.iv)
  | .inf n => (if n then lo else hi, Fl.sat)
  | .fin n m e =>
    let r := roundAt .rne m 1 e 0
    let v : Int := if n then -(r.1 : Int) else r.1
    if v > hi then (hi, Fl.sat ||| Fl.nx)
    else if v < lo then (lo, Fl.sat ||| Fl.nx)
    else (v, Fl.when r.2 Fl.nx)

/-! ## Exact sums, products and comparisons -/

/-- The signed integer s with value s * 2^e, for a common exponent not above the value's own. -/
def alignTo (q : Int) (neg : Bool) (m : Nat) (e : Int) : Int :=
  let v : Int := (m * 2 ^ (e - q).toNat : Nat)
  if neg then -v else v

/-- The exact sum with the IEEE sign of a zero result (R100). The flag is IV for an invalid sum. -/
def Num.add (a b : Num) : Num :=
  match a, b with
  | .nan, _ => .nan
  | _, .nan => .nan
  | .inf m, .inf n => if m = n then .inf m else .nan
  | .inf m, _ => .inf m
  | _, .inf n => .inf n
  | .fin na ma ea, .fin nb mb eb =>
    if ma = 0 ∧ mb = 0 then .fin (na && nb) 0 0
    else
      let q := min ea eb
      let v := alignTo q na ma ea + alignTo q nb mb eb
      .fin (decide (v < 0)) v.natAbs q

/-- The exact product (R100, R105). -/
def Num.mul (a b : Num) : Num :=
  match a, b with
  | .nan, _ => .nan
  | _, .nan => .nan
  | .inf m, .inf n => .inf (m != n)
  | .inf m, .fin n v _ => if v = 0 then .nan else .inf (m != n)
  | .fin m v _, .inf n => if v = 0 then .nan else .inf (m != n)
  | .fin na ma ea, .fin nb mb eb => .fin (na != nb) (ma * mb) (ea + eb)

/-- Less, equal, greater; none where a NaN makes the pair unordered (R103). -/
def Num.cmp (a b : Num) : Option Ordering :=
  match a, b with
  | .nan, _ => none
  | _, .nan => none
  | .inf m, .inf n => some (if m = n then .eq else if m then .lt else .gt)
  | .inf m, _ => some (if m then .lt else .gt)
  | _, .inf n => some (if n then .gt else .lt)
  | .fin na ma ea, .fin nb mb eb =>
    let q := min ea eb
    let x := alignTo q na ma ea
    let y := alignTo q nb mb eb
    some (if x < y then .lt else if x = y then .eq else .gt)

def Num.abs : Num → Num
  | .nan => .nan
  | .inf _ => .inf false
  | .fin _ m e => .fin false m e

/-- a > b, false where unordered. -/
def Num.gt (a b : Num) : Bool := a.cmp b = some .gt

/-! ## FP32 operations (R91 to R93, R99 to R112) -/

/-- The addition of every datapath (R110). -/
def fadd (a b : W32) : W32 × W32 :=
  let r := num32 (Num.add (f32Num a) (f32Num b))
  (r.1, r.2 ||| f32Fz a ||| f32Fz b)

def fneg (a : W32) : W32 := a ^^^ 0x80000000

def fsub (a b : W32) : W32 × W32 :=
  if (f32Num b).isNan then fadd a b else fadd a (fneg b)

/-- The truncating multiplier of the matrix array and the vector engine (R91, R109). -/
def fmulT (a b : W32) : W32 × W32 :=
  let fz := f32Fz a ||| f32Fz b
  match Num.mul (f32Num a) (f32Num b) with
  | .nan => (nan32, Fl.iv ||| fz)
  | .inf n => (sign32 n ||| 0x7F800000, fz)
  | .fin n m e =>
    let r := pack32 .trunc n m 1 e
    (r.1, r.2 ||| fz)

/-- The fused multiply-add of the factor unit (R93, R111). -/
def fma (a b c : W32) : W32 × W32 :=
  let r := num32 (Num.add (Num.mul (f32Num a) (f32Num b)) (f32Num c))
  (r.1, r.2 ||| f32Fz a ||| f32Fz b ||| f32Fz c)

/-- A correctly rounded quotient of the factor unit. -/
def fdiv (a b : W32) : W32 × W32 :=
  let fz := f32Fz a ||| f32Fz b
  match f32Num a, f32Num b with
  | .nan, _ => (nan32, Fl.iv ||| fz)
  | _, .nan => (nan32, Fl.iv ||| fz)
  | .inf _, .inf _ => (nan32, Fl.iv ||| fz)
  | .inf m, .fin n _ _ => (sign32 (m != n) ||| 0x7F800000, fz)
  | .fin m _ _, .inf n => (sign32 (m != n), fz)
  | .fin na ma ea, .fin nb mb eb =>
    if mb = 0 then (if ma = 0 then (nan32, Fl.iv ||| fz) else (sign32 (na != nb) ||| 0x7F800000, Fl.dz ||| fz))
    else
      let r := pack32 .rne (na != nb) ma mb (ea - eb)
      (r.1, r.2 ||| fz)

/-- The reciprocal unit's RCP (R87, R111). -/
def frcp (a : W32) : W32 × W32 :=
  match f32Num a with
  | .nan => (nan32, Fl.iv)
  | .inf n => (sign32 n, 0)
  | .fin n m e =>
    if m = 0 then (sign32 n ||| 0x7F800000, Fl.dz ||| f32Fz a)
    else pack32 .rne n 1 m (-e)

/-- The integer square root, bit by bit from bit k - 1 down. -/
def isqrtFrom : Nat → Nat → Nat → Nat
  | 0, _, r => r
  | k + 1, n, r => if (r + 2 ^ k) * (r + 2 ^ k) ≤ n then isqrtFrom k n (r + 2 ^ k) else isqrtFrom k n r

/-- The reciprocal unit's RSQ (R87, R111). -/
def frsq (a : W32) : W32 × W32 :=
  match f32Num a with
  | .nan => (nan32, Fl.iv)
  | .inf n => if n then (nan32, Fl.iv) else (0, 0)
  | .fin n m e =>
    if m = 0 then (sign32 n ||| 0x7F800000, Fl.dz ||| f32Fz a)
    else if n then (nan32, Fl.iv)
    else
      -- x = m' * 4^h; 1/sqrt x = 2^(-h) / sqrt m', taken with 60 bits and a sticky bit
      let m' := if e % 2 = 0 then m else 2 * m
      let h := (if e % 2 = 0 then e else e - 1) / 2
      let y := isqrtFrom 61 (2 ^ 120 / m') 0
      let sticky := if y * y * m' = 2 ^ 120 then 0 else 1
      pack32 .rne false (2 * y + sticky) 1 (-h - 61)

/-- FSQRT of the factor unit's methods: the correctly rounded square root (06 R186 uses RSQ and RCP). -/
def fsqrt (a : W32) : W32 × W32 :=
  match f32Num a with
  | .nan => (nan32, Fl.iv)
  | .inf n => if n then (nan32, Fl.iv) else (a, 0)
  | .fin n m e =>
    if m = 0 then (sign32 n, f32Fz a)
    else if n then (nan32, Fl.iv)
    else
      let m' := if e % 2 = 0 then m else 2 * m
      let h := (if e % 2 = 0 then e else e - 1) / 2
      let y := isqrtFrom 64 (m' * 2 ^ 80) 0
      let sticky := if y * y = m' * 2 ^ 80 then 0 else 1
      pack32 .rne false (2 * y + sticky) 1 (h - 41)

/-- The condition of a floating-point comparison (R103): 0 EQ, 1 NE, 2 LT, 3 LE, 4 GT, 5 GE. FZ of R99 is raised by EQ
and NE too (DESIGN CHOICE, log entry 179). -/
def fcmp (cc : Nat) (a b : W32) : Bool × W32 :=
  let fz := f32Fz a ||| f32Fz b
  let o := Num.cmp (f32Num a) (f32Num b)
  let r := match cc, o with
    | 0, o => decide (o = some .eq)
    | 1, o => decide (o ≠ some .eq)
    | 2, o => decide (o = some .lt)
    | 3, o => decide (o = some .lt ∨ o = some .eq)
    | 4, o => decide (o = some .gt)
    | _, o => decide (o = some .gt ∨ o = some .eq)
  (r, fz ||| Fl.when (o = none && decide (2 ≤ cc)) Fl.iv)

/-- Whether a lies below b when -0 lies below +0 (R104). -/
def fless (a b : W32) : Bool :=
  match Num.cmp (f32Num a) (f32Num b) with
  | some .lt => true
  | some .eq => bit a 31 && !bit b 31
  | _ => false

/-- MIN and MAX (R104): NaN is returned with IV. -/
def fminmax (mx : Bool) (a b : W32) : W32 × W32 :=
  let fz := f32Fz a ||| f32Fz b
  if (f32Num a).isNan || (f32Num b).isNan then (nan32, Fl.iv ||| fz)
  else (f32Flush (if fless a b != mx then a else b), fz)

/-- MINNUM and MAXNUM (R104): a NaN operand is passed over. A subnormal other operand reads as zero and raises FZ (R99)
there too (DESIGN CHOICE, log entry 179). -/
def fminmaxnum (mx : Bool) (a b : W32) : W32 × W32 :=
  let fz := f32Fz a ||| f32Fz b
  match (f32Num a).isNan, (f32Num b).isNan with
  | true, true => (nan32, Fl.iv)
  | true, false => (f32Flush b, fz)
  | false, true => (f32Flush a, fz)
  | false, false => (f32Flush (if fless a b != mx then a else b), fz)

/-- VCLAMP of one lane, and the box projection (05 R158). -/
def fclamp (v lo hi : W32) : W32 × W32 :=
  let a := fminmax true v lo
  let b := fminmax false a.1 hi
  (b.1, a.2 ||| b.2)

/-- A finite value. -/
def ffinite (x : W32) : Bool := decide (fld x 23 8 ≠ 255)

def fnan (x : W32) : Bool := (f32Num x).isNan

/-- A value above zero, a flushed subnormal being zero. -/
def fpositive (x : W32) : Bool := (fcmp 4 x 0).1

/-! ## FP16 products and dequantisation (R86, R92, R112) -/

/-- The exact FP32 product of two FP16 operands (R92, R112). -/
def f16mul (a b : BitVec 16) : W32 × W32 :=
  match Num.mul (f16Num a) (f16Num b) with
  | .nan => (nan32, Fl.iv)
  | .inf n => (sign32 n ||| 0x7F800000, 0)
  | .fin n m e => pack32 .rne n m 1 e

/-- code * scale, rounded once to FP16 (R86). -/
def dequant (code : Int) (scale : BitVec 16) : BitVec 16 × W32 := num16 (Num.mul (Num.ofInt code) (f16Num scale))

/-- The magnitude of a quotient rounded upward to FP16 with gradual underflow; 0x7BFF beyond 65,504 (04 R133). -/
def f16RoundUp (n d : Nat) (e : Int) : BitVec 16 :=
  let r := (pack16 .up false n d e).1
  if r = 0x7C00 then 0x7BFF else r

/-! ## Stochastic rounding (R95, R96) -/

/-- (n/d) * 2^e cut to a multiple of 2^q and rounded with 16 random bits: the multiple, and whether it is inexact. -/
def stochAt (n d : Nat) (e q : Int) (r : Nat) : Nat × Bool :=
  let p := scaleTo n d e q
  let m := p.1 / p.2
  let dd := (p.1 % p.2) * 65536 / p.2
  (if dd + r ≥ 65536 then m + 1 else m, decide (p.1 % p.2 ≠ 0))

/-- The value that the same rule gives with unbounded exponent lies below 2^-14 (R94). -/
def stochTiny (m : Nat) (e : Int) (r : Nat) : Bool :=
  let x := ilogQ m 1 + e
  decide (x < -15) || (decide (x = -15) && decide ((stochAt m 1 e (x - 10) r).1 < 2048))

/-- TSTORE to FP16 (R95, R96). -/
def tsF16 (x : W32) (r : Nat) : BitVec 16 × W32 :=
  match f32Num x with
  | .nan => (nan16, Fl.iv)
  | .inf n => (sign16 n ||| 0x7BFF, Fl.sat)
  | .fin n m e =>
    if m = 0 then (sign16 n, f32Fz x)
    else
      let q := max (ilogQ m 1 + e - 10) (-24)
      let t := stochAt m 1 e q r
      let w := pack16 .rne n t.1 1 q
      if w.1 &&& 0x7FFF = 0x7C00 then (sign16 n ||| 0x7BFF, Fl.sat ||| Fl.nx)
      else (w.1, Fl.when t.2 (Fl.nx ||| Fl.when (stochTiny m e r) Fl.uf))

/-- TSTORE to an integer target with limits, of the quotient (n/d) * 2^e (R95, R96). -/
def tsIntQ (lo hi : Int) (neg : Bool) (n d : Nat) (e : Int) (r : Nat) : Int × W32 :=
  let t := stochAt n d e 0 r
  let v : Int := if neg then -(t.1 : Int) else t.1
  if v > hi then (hi, Fl.sat ||| Fl.nx)
  else if v < lo then (lo, Fl.sat ||| Fl.nx)
  else (v, Fl.when t.2 Fl.nx)

/-- TSTORE to INT8 (R96). -/
def tsI8 (x : W32) (r : Nat) : Int × W32 :=
  match f32Num x with
  | .nan => (0, Fl.iv)
  | .inf n => (if n then -128 else 127, Fl.sat)
  | .fin n m e =>
    let t := tsIntQ (-128) 127 n m 1 e r
    (t.1, t.2 ||| f32Fz x)

/-! ## Requantisation (04 R140) -/

/-- p / 2^k, ties to even, and whether a digit was lost. -/
def rneShift (p : Int) (k : Nat) : Int × Bool :=
  let r := roundQ .rne p.natAbs (2 ^ k)
  (if p < 0 then -(r.1 : Int) else r.1, r.2)

/-- VREQ of one accumulator (04 R140). -/
def requant (acc bias : Int) (mult shift : Nat) (zo lo hi : Int) : Int × W32 :=
  let q := rneShift ((acc + bias) * mult) (31 + shift)
  let y := q.1 + zo
  (clampI y lo hi, Fl.when q.2 Fl.nx ||| Fl.when (decide (y < lo ∨ hi < y)) Fl.sat)

/-! ## The reduction tree of the vector engine (05 R157) -/

/-- One level of the tree: lane i takes lane i + h. -/
def treeLevel (op : W32 → W32 → W32 × W32) (h : Nat) (r : List W32 × W32) : List W32 × W32 :=
  let rs := ((r.1.take h).zip (r.1.drop h)).map (fun x => op x.1 x.2)
  (rs.map (·.1), rs.foldl (fun f x => f ||| x.2) r.2)

/-- The fixed tree over 64 lanes (R157). -/
def treeReduce (op : W32 → W32 → W32 × W32) (xs : List W32) : W32 × W32 :=
  let r := [32, 16, 8, 4, 2, 1].foldl (fun r h => treeLevel op h r) (xs, 0)
  (r.1.headD 0, r.2)

end Sys2Proof.Machine
end

