-- ==== Sys2Proof/Machine/Copies.lean ====
section
/-!
DEFINITION. DMA descriptors: judging, spans, activation and copying, with remote atomic adds (02 R45 to R48; 05 R150,
R171; 11 R383; 13 R441, R447, R448).
-/

set_option Elab.async false

namespace Sys2Proof.Machine

open Sys2Proof

/-! ## Remote atomic adds (13 R447, R448) -/

/-- The words of one add are applied to the words of a coil, each by one FP32 or saturating INT32 addition. -/
def addWord (fp : Bool) (a b : W32) : W32 × W32 :=
  if fp then fadd a b
  else
    let x := a.toInt + b.toInt
    (i32 (sat32 x), Fl.when (decide (sat32 x ≠ x)) Fl.sat)

/-- One remote atomic add: applied, refused, or held while a range it needs is in use (R60) or an element of the coil that arrived
before it waits in the receive buffer (13 R446, R447). One that meets an uncorrectable word, or a bank that nothing turns ON,
writes nothing, and the job whose coil it names ends (02 R54; 05 R174). -/
def State.atomicAdd (p coil word : Nat) (fp : Bool) (ws : List W32) (s : State) : State × Pushed :=
  let t := s.tile p
  let c := t.coil coil
  let strict := match t.coilOwner coil with
    | some w => (match t.slot w with
      | some x => !x.job.tput
      | none => true)
    | none => true
  let off := c.base + 4 * word
  let n := 4 * ws.length
  if strict || !c.isOpen || !c.receive || !bit c.accept 1 || decide (c.size < 4 * word + n) then
    let s := s.setTile p (t.setCoil coil { c with refused := satAdd c.refused 1 })
    ((s.tileEvent p 0x21 1).event 0x243 (p / 17 * 2) 1, .refused)
  else if t.rx.any (fun e => decide (e.coil = coil)) || t.rxBusy p coil c.store off n then (s, .held)
  else if !t.on c.store off n then
    (match t.dark c.store off n, t.coilOwner coil with
     | true, some w => (s.updCtx p w (fun x => { x with doomed := some (St.power, locStore p c.store off) }), .taken)
     | _, _ => (s, .held))
  else
    let r := s.storeRead p 5 c.store off n
    match t.coilOwner coil, r.2.2 with
    | some w, some o => (r.2.1.updCtx p w (fun x => { x with doomed := some (St.dataError, locStore p c.store o) }), .taken)
    | _, _ =>
    let old := (List.range ws.length).map (fun k => w32At (4 * k) r.1)
    let rs := (old.zip ws).map (fun x => addWord fp x.1 x.2)
    let s := r.2.1.storeWrite p c.store off (rs.flatMap (fun x => w32Bytes x.1))
    let fl := rs.foldl (fun a x => a ||| x.2) 0
    let s := match t.coilOwner coil with
      | some w => s.updCtx p w (fun x => { x with jobAcc := x.jobAcc ||| fl })
      | none => s
    (s.event 0x242 (p / 17 * 2) 1, .taken)

/-! ## The sides of a descriptor (02 R46, R48) -/

def winBase (p : Nat) : Nat := 0x1000000000 + p * 0x1000000

/-- Where an address of a descriptor lies. -/
inductive Side where
  | own (st off : Nat)
  | hbm (a : Nat)
  | other
  deriving DecidableEq, Repr

/-- W, A and P windows of the tile itself; HBM; anything else is not for a descriptor. -/
def sideOf (p a : Nat) : Side :=
  let o := a - winBase p
  if hbmLo ≤ a ∧ a < hbmHi then .hbm a
  else if a < winBase p then .other
  else if o < 0x300000 then .own 0 o
  else if 0x400000 ≤ o ∧ o < 0x600000 then .own 1 (o - 0x400000)
  else if 0x600000 ≤ o ∧ o < 0x700000 then .own 2 (o - 0x600000)
  else .other

namespace Desc

def rows (d : Desc) : Nat := fld d.w2 24 15 + 1
def rowBytes (d : Desc) : Nat := fld d.w2 0 24
def coilPush (d : Desc) : Bool := bit d.w2 45
def srcIsCoil (d : Desc) : Bool := bit d.w2 39
def srcCoil (d : Desc) : Nat := fld d.w2 40 5
def add (d : Desc) : Bool := bit d.attr 8
def addFp (d : Desc) : Bool := bit d.attr 9
/-- A push or an add names a coil of a tile by dst_addr. -/
def toCoil (d : Desc) : Bool := d.coilPush || d.add
def dstTile (d : Desc) : Nat := fld d.w1 8 8
def dstCoil (d : Desc) : Nat := fld d.w1 0 5
def srcAt (d : Desc) (i : Nat) : Nat := fld d.w0 0 40 + i * fld d.w0 40 24
def dstAt (d : Desc) (i : Nat) : Nat := fld d.w1 0 40 + i * fld d.w1 40 24

/-- First byte and length of the span of a side. -/
def srcSpan (d : Desc) : Nat × Nat := (d.srcAt 0, d.srcAt (d.rows - 1) - d.srcAt 0 + d.rowBytes)
def dstSpan (d : Desc) : Nat × Nat := (d.dstAt 0, d.dstAt (d.rows - 1) - d.dstAt 0 + d.rowBytes)

end Desc

/-- `n` elements of a coil from pointer `x` on, as a store range; the whole coil where they pass its end. -/
def Coil.span (write : Bool) (x n : Nat) (k : Coil) : List (Bool × Nat × Nat × Nat) :=
  if n = 0 then []
  else if x + n * k.elem ≤ k.size then [(write, k.store, k.base + x, n * k.elem)]
  else [(write, k.store, k.base, k.size)]

/-- The span of a coil source: the elements it has still to read that lie in the coil. A span over the free slots of elements yet to
come would hold back the pushes that it waits for (log entry 41). -/
def coilSpan (d : Desc) (t : Tile) : List (Bool × Nat × Nat × Nat) :=
  let k := match t.slot d.slot with
    | some c => c.coil d.srcCoil
    | none => { }
  if !k.isOpen || decide (k.elem ≠ d.rowBytes) then [] else k.span false k.head (min k.fill (d.rows - d.row))

/-- The span of a push or an add into a coil of the own tile: the free slots that its rows take next, or the words that it adds to. -/
def pushSpan (p : Nat) (d : Desc) (t : Tile) : List (Bool × Nat × Nat × Nat) :=
  let k := t.coil d.dstCoil
  let left := d.rows - d.row
  if decide (d.dstTile ≠ p) || !k.isOpen then []
  else if d.add then [(true, k.store, k.base + 4 * (fld d.w1 16 16) + d.row * d.rowBytes, left * d.rowBytes)]
  else if k.elem ≠ d.rowBytes then []
  else k.span true k.tail (min left (k.size / k.elem - k.fill))

/-- The store spans of a descriptor: write, store, offset, bytes. -/
def descRanges (p : Nat) (t : Tile) (d : Desc) : List (Bool × Nat × Nat × Nat) :=
  (if d.srcIsCoil then coilSpan d t else match sideOf p d.srcSpan.1 with
    | .own st off => [(false, st, off, d.srcSpan.2)]
    | _ => []) ++
  (if d.toCoil then pushSpan p d t else match sideOf p d.dstSpan.1 with
    | .own st off => [(true, st, off, d.dstSpan.2)]
    | _ => [])

/-- Its HBM spans: write, address, bytes. -/
def descHbm (p : Nat) (d : Desc) : List (Bool × Nat × Nat) :=
  (if d.srcIsCoil then [] else match sideOf p d.srcSpan.1 with
    | .hbm a => [(false, a, d.srcSpan.2)]
    | _ => []) ++
  (if d.toCoil then [] else match sideOf p d.dstSpan.1 with
    | .hbm a => [(true, a, d.dstSpan.2)]
    | _ => [])

/-- Two granule ranges overlap (02 R59). -/
def granMeet (a n b m : Nat) : Bool :=
  decide (n ≠ 0 ∧ m ≠ 0 ∧ a / 64 ≤ (b + m - 1) / 64 ∧ b / 64 ≤ (a + n - 1) / 64)

/-- Every descriptor that the tile's queues hold, with its queue. -/
def Tile.descs (t : Tile) : List (Nat × Desc) := t.dma.flatMap (fun e => e.2.descs.map (fun d => (e.1, d)))

/-- An instruction's store range conflicts with a span of some queue other than `not` (05 R150). -/
def Tile.spanBusy (p : Nat) (not : Option Nat) (write : Bool) (st off n : Nat) (t : Tile) : Bool :=
  t.descs.any (fun e => decide (some e.1 ≠ not) && (descRanges p t e.2).any (fun r =>
    (r.1 || write) && decide (r.2.1 = st) && granMeet r.2.2.1 r.2.2.2 off n))

/-- An HBM range conflicts with a span of another queue. -/
def Tile.hbmBusy (p : Nat) (not : Nat) (write : Bool) (a n : Nat) (t : Tile) : Bool :=
  t.descs.any (fun e => decide (e.1 ≠ not) && (descHbm p e.2).any (fun r => (r.1 || write) && granMeet r.2.1 r.2.2 a n))

/-- A range of an instruction must wait: for a scoreboard entry or for a span (02 R60, 05 R150). -/
def Tile.busy (p : Nat) (write : Bool) (st off n : Nat) (t : Tile) : Bool :=
  t.sbBusy write st off n || t.spanBusy p none write st off n

/-! ## Judging a descriptor (02 R46, 05 R180, 13 R429) -/

def State.sideGood (p : Nat) (c : Ctx) (rows : List Nat) (n : Nat) (s : State) : Bool :=
  rows.all (fun a => decide (a % 4 = 0) && (match sideOf p a with
    | .own st off => inFoot c.job.image st off n
    | .hbm x => s.inHost x n
    | .other => false))

/-- Whether a descriptor keeps every rule of R46. For a coil push, bits of dst_addr for which R48 names no field must be zero
(DESIGN CHOICE, log entry 41). -/
def State.descGood (p : Nat) (c : Ctx) (d : Desc) (s : State) : Bool :=
  let n := d.rowBytes
  let src := (List.range d.rows).map d.srcAt
  let dst := (List.range d.rows).map d.dstAt
  let ownSrc := d.srcIsCoil || (match sideOf p (d.srcAt 0) with
    | .own _ _ => true
    | _ => false)
  let ownDst := !d.toCoil && (match sideOf p (d.dstAt 0) with
    | .own _ _ => true
    | _ => false)
  decide (4 ≤ n ∧ n % 4 = 0) && (ownSrc || ownDst) &&
    (d.srcIsCoil || s.sideGood p c src n) &&
    (if d.toCoil then
      decide (fld d.w1 32 8 = 0 ∧ d.dstTile < 68 ∧ fld d.w1 5 3 = 0) && (d.add || decide (fld d.w1 16 16 = 0))
     else s.sideGood p c dst n)

/-! ## Copying (02 R45 to R47, 11 R383) -/

/-- How far a row, a descriptor or an instruction came. An instruction that waits at stage 1 or at dispatch has not issued (02 R60;
05 R150), nor one whose access waits for banks to come ON (05 R174); one that holds has issued and is not done. -/
inductive Halt where
  | ok
  | wait
  | hold
  | banks (bs : List Nat)
  | bad (st : Byte) (loc : W64)
  deriving DecidableEq, Repr

/-- A DMA access to a bank that is not ON (11 R383): with auto_wake it waits for the bank, and LATE_FILL is set, whoever
asked for ON. -/
def State.dmaBank (p q : Nat) (d : Desc) (write : Bool) (b : Nat) (s : State) : State × Halt :=
  let t := s.tile p
  let late := fun (s : State) => s.updCtx p d.slot (fun c => { c with jobAcc := c.jobAcc ||| Fl.lateFill })
  if !bit t.ctl 2 || (!write && !t.onPending b && decide (t.bankGoal b = .off)) then (s, .bad St.power (locDma p q d.entry))
  else if t.onPending b then (late s, .wait)
  else ((late (s.setTile p (t.requestBank b .on none))).tileEvent p 0x1B 1, .wait)

/-- The captured input range of a job that runs an image: its address and bytes (10 R321). -/
def Job.inputRange (j : Job) : Nat × Nat :=
  if 0x2004 ≤ j.opcode.toNat ∧ j.opcode.toNat ≤ 0x2006 then (fld j.pkt.hdr.w1 0 40, fld j.pkt.hdr.w1 40 24) else (0, 0)

/-- A job reads HBM, and its inputs from the captured copy (12 R389; 10 R321, R338). -/
def State.jobRead (p w a n : Nat) (s : State) : List Byte × State × Option Nat :=
  match s.ctx p w with
  | none => s.hbmRead a n
  | some c =>
    let r := c.job.inputRange
    if decide (a + n ≤ r.1) || decide (r.1 + r.2 ≤ a) then s.hbmRead a n
    else if r.1 ≤ a ∧ a + n ≤ r.1 + r.2 then (slice (a - r.1) n c.job.captured, s, none)
    else
      let x := s.hbmRead a n
      ((List.range n).map (fun i => if r.1 ≤ a + i ∧ a + i < r.1 + r.2 then c.job.captured.getD (a + i - r.1) 0 else x.1.getD i 0), x.2.1, x.2.2)

/-- The first `n` bytes of ranges, as lines. -/
def aheadLines : List (Nat × Nat) → Nat → List Nat
  | [], _ => []
  | (a, m) :: rs, n => if n = 0 then [] else linesOf a (min n m) ++ aheadLines rs (n - min n m)

/-- Rows of a descriptor from row `i` on that lie in HBM. -/
def Desc.hbmRows (p i : Nat) (d : Desc) : List (Nat × Nat) :=
  if d.srcIsCoil then []
  else match sideOf p (d.srcAt 0) with
    | .hbm _ => (List.range (d.rows - i)).map (fun k => (d.srcAt (i + k), d.rowBytes))
    | _ => []

/-- A stream prefetch tracker keeps the lines from the read position up to pf_depth ahead resident, within the rows that the queue's
descriptors name, as long as the prefetch has not been dropped (13 R441, R442). -/
def State.track (p q : Nat) (d : Desc) (i : Nat) (s : State) : State :=
  if bit d.attr 1 && s.hbm.waiting.any (fun r => r.pf && decide (r.tile = p ∧ r.desc = d.no)) then
    let later := (Tbl.get { } q (s.tile p).dma).descs.filter (fun e => decide (d.no < e.no))
    ((aheadLines (d.hbmRows p i ++ later.flatMap (fun e => e.hbmRows p 0)) (1024 * (fld d.attr 2 5 + 1))).dedup).foldl (fun s a => s.prefetchLine a) s
  else s

/-- The bytes of one source row. -/
def State.dmaRead (p q : Nat) (d : Desc) (i : Nat) (s : State) : List Byte × State × Halt :=
  let n := d.rowBytes
  let fromStore := fun (st off : Nat) (s : State) => match (s.tile p).offBank st off n with
    | some b =>
      let r := s.dmaBank p q d false b
      (([] : List Byte), r.1, r.2)
    | none =>
      let r := s.storeRead p 4 st off n
      (r.1, r.2.1, match r.2.2 with
        | some o => .bad St.dataError (locStore p st o)
        | none => .ok)
  if d.srcIsCoil then
    match s.ctx p d.slot with
    | none => ([], s, .wait)
    | some c =>
      let k := c.coil d.srcCoil
      if !k.isOpen || decide (k.elem ≠ n) then ([], s, .bad St.dataError (locDma p q d.entry))
      else if k.empty then ([], s, .wait)
      else fromStore k.store (k.base + k.head) s
  else match sideOf p (d.srcAt i) with
    | .own st off => fromStore st off s
    | .hbm a =>
      let r := s.jobRead p d.slot a n
      (r.1, (r.2.1.tileEvent p 0x18 ((a + n + 63) / 64 - a / 64)).track p q d (i + 1), match r.2.2 with
        | some x => .bad St.dataError (locHbm x)
        | none => .ok)
    | .other => ([], s, .bad St.dataError (locDma p q d.entry))

/-- One destination row takes its bytes. -/
def State.dmaWrite (p q : Nat) (d : Desc) (i : Nat) (bs : List Byte) (s : State) : State × Halt :=
  let n := bs.length
  let refused := Halt.bad St.dataError (locDma p q d.entry)
  let of := fun (r : State × Pushed) => (r.1, match r.2 with
    | .taken => Halt.ok
    | .held => Halt.wait
    | .refused => refused)
  if d.add then
    of (s.atomicAdd d.dstTile d.dstCoil (fld d.w1 16 16 + i * (n / 4)) d.addFp ((List.range (n / 4)).map (fun k => w32At (4 * k) bs)))
  else if d.coilPush then of (s.pushTo d.dstTile d.dstCoil .tile p bs)
  else match sideOf p (d.dstAt i) with
    | .own st off =>
      let may := match s.ctx p d.slot with
        | some c => c.mayWrite st off n
        | none => false
      if !may then (s, refused)
      else (match (s.tile p).offBank st off n with
        | some b => s.dmaBank p q d true b
        | none => (s.ownWrite p d.slot st off bs, .ok))
    | .hbm a =>
      let r := s.hbmWrite a bs
      ((r.1.tileEvent p 0x19 ((a + n + 63) / 64 - a / 64)).updCtx p d.slot (fun c => { c with wroteHbm := c.wroteHbm ++ [(a, n)] }),
        match r.2 with
        | some x => .bad St.dataError (locHbm x)
        | none => .ok)
    | .other => (s, refused)

/-- One row: read, written, and then popped where the source is a coil; the provenance attribute feeds what was read
into the input digest in DPUSH order (05 R171). -/
def State.dmaRow (p q : Nat) (d : Desc) (i : Nat) (s : State) : State × Halt :=
  let r := s.dmaRead p q d i
  match r.2.2 with
  | .ok =>
    let x := r.2.1.dmaWrite p q d i r.1
    (match x.2 with
     | .ok =>
       let s := if d.srcIsCoil then x.1.updCtx p d.slot (fun c => c.setCoil d.srcCoil (c.coil d.srcCoil).pop) else x.1
       let s := if bit d.attr 0 then
         s.updCtx p d.slot (fun c => { c with inputs := Tbl.insert d.no (Tbl.get [] d.no c.inputs ++ r.1) c.inputs }) else s
       (s.updTile p Tile.wake, .ok)
     | _ => x)
  | h => (r.2.1, h)

/-- Rows from the first that is not copied yet; answers the rows that are done. -/
def State.dmaRows (p q : Nat) (d : Desc) : Nat → Nat → State → State × Nat × Halt
  | 0, i, s => (s, i, .ok)
  | k + 1, i, s =>
    let r := s.dmaRow p q d i
    match r.2 with
    | .ok => State.dmaRows p q d k (i + 1) r.1
    | h => (r.1, i, h)

/-! ## Activation (02 R45) -/

/-- An entry of a descriptor that names no granule. -/
def bareEntry (write : Bool) (d : Desc) : SbEntry := { valid := true, write := write, engine := 4, first := 0xFFFF, last := 0, owner := d.no }

/-- Scoreboard entries of a descriptor: one for each side in the tile's own stores, over its span (02 R45, R59). The entry of a coil
side whose span is empty now names no granule. -/
def descEntries (p : Nat) (t : Tile) (d : Desc) : List SbEntry :=
  (descRanges p t d).map (fun r => { valid := true, write := r.1, engine := 4, store := r.2.1, first := r.2.2.1 / 64,
                                     last := (r.2.2.1 + r.2.2.2 - 1) / 64, owner := d.no }) ++
    (if d.srcIsCoil && (coilSpan d t).isEmpty then [bareEntry false d] else []) ++
    (if d.toCoil && decide (d.dstTile = p) && (pushSpan p d t).isEmpty then [bareEntry true d] else [])

/-- A range conflicts with the span of an active descriptor over a coil, as the coil stands now. -/
def Tile.coilBusy (p no : Nat) (write : Bool) (st off n : Nat) (t : Tile) : Bool :=
  t.descs.any (fun e => e.2.active && decide (e.2.no ≠ no) && (coilSpan e.2 t ++ (if e.2.toCoil then pushSpan p e.2 t else [])).any (fun r =>
    (r.1 || write) && decide (r.2.1 = st) && granMeet r.2.2.1 r.2.2.2 off n))

/-- The entries of an active descriptor follow its spans over coils as rows come and go. -/
def Tile.respan (p : Nat) (d : Desc) (t : Tile) : Tile :=
  if d.srcIsCoil || d.toCoil then (let u := t.sbRelease d.no; u.sbAlloc (descEntries p u d)) else t

/-- The head of a queue becomes active when its entries fit and no range of it conflicts. -/
def Tile.activate (p q : Nat) (t : Tile) : Tile :=
  let v := Tbl.get { } q t.dma
  match v.descs with
  | [] => t
  | d :: rest =>
    let es := descEntries p t d
    if d.active || decide (t.sbDma + es.length > 8) || decide (t.sbFree.length < es.length) ||
        (descRanges p t d).any (fun r => t.sbBusy r.1 r.2.1 r.2.2.1 r.2.2.2 || t.coilBusy p d.no r.1 r.2.1 r.2.2.1 r.2.2.2) then t
    else
      { (t.sbAlloc es) with dma := Tbl.set { } q { v with descs := { d with active := true } :: rest } t.dma }

/-- Every queue's head is tried, in queue order. -/
def Tile.activateAll (p : Nat) (t : Tile) : Tile := (List.range 16).foldl (fun t q => t.activate p q) t

/-- The head of a queue leaves it. -/
def Tile.dropHead (q : Nat) (t : Tile) : Tile :=
  let v := Tbl.get { } q t.dma
  match v.descs with
  | [] => t
  | d :: rest => { (t.sbRelease d.no) with dma := Tbl.set { } q { v with descs := rest } t.dma }

/-- The head of a queue copies as far as it can. When its last row is written it completes: LATE_FILL past its fill
deadline, the done event, and its entries are released (02 R47, R48, R61). -/
def State.dmaHead (p q : Nat) (s : State) : State × Halt :=
  let v := Tbl.get { } q (s.tile p).dma
  match v.descs with
  | [] => (s, .wait)
  | d :: rest =>
    if !d.active then (s, .wait)
    else
      let r := s.dmaRows p q d (d.rows - d.row) d.row
      match r.2.2 with
      | .wait | .hold | .banks _ =>
        (r.1.updTile p (fun t =>
          let d' := { d with row := r.2.1 }
          Tile.respan p d' { t with dma := Tbl.set { } q { v with descs := d' :: rest } t.dma }), .wait)
      | .bad st loc => (r.1, .bad st loc)
      | .ok =>
        let s := r.1
        let late := bit d.w2 47 && (match s.ctx p d.slot with
          | some c => decide (s.cycles p c > fld d.w3 0 32)
          | none => false)
        let s := if late then (s.updCtx p d.slot (fun c => { c with jobAcc := c.jobAcc ||| Fl.lateFill })).tileEvent p 0x1A 1 else s
        let v' := if bit d.w2 46 then { v with descs := rest, doneEvent := true, doneTag := BitVec.ofNat 8 (fld d.w3 32 8) }
          else { v with descs := rest }
        ((s.updTile p (fun t => ({ (t.sbRelease d.no) with dma := Tbl.set { } q v' t.dma }).activateAll p)).served p d.no, .ok)

/-- The queues without the descriptors of a context. -/
def Tile.dropDescs (w : Nat) (t : Tile) : Tile :=
  let keep := fun (v : DmaQueue) => { v with descs := v.descs.filter (fun d => decide (d.slot ≠ w)) }
  let qs := t.dma.map (fun e => (e.1, keep e.2))
  { t with dma := qs.filter (fun e => decide (e.2 ≠ { })) }

/-- At a job's end what is active retires and what waits is dropped (02 R54, R62); a later error changes nothing. -/
def State.dmaDrain (p w : Nat) (s : State) : State :=
  let qs := ((s.tile p).descs.filter (fun e => decide (e.2.slot = w ∧ e.2.active))).map (·.1)
  let s := qs.foldl (fun s q => (s.dmaHead p q).1) s
  let gone := ((s.tile p).descs.filter (fun e => decide (e.2.slot = w))).map (fun e => e.2.no)
  let s := gone.foldl (fun s n => (s.updTile p (Tile.sbRelease n)).served p n) s
  s.updTile p (fun t => (t.dropDescs w).activateAll p)

end Sys2Proof.Machine
end

