-- ==== Sys2Proof/Machine/Commit.lean ====
section
/-!
DEFINITION. The deadline commit unit: warm starts, offers, records and the freeze (06 R203 to R215).
-/

set_option Elab.async false

namespace Sys2Proof.Machine

open Sys2Proof

/-! ## What an engine needs of the stores (02 R60, 05 R160, R174) -/

/-- A range that an instruction reads or writes. -/
structure Range where
  write : Bool
  st : Nat
  off : Nat
  n : Nat
  deriving DecidableEq, Repr

/-- Whether the ranges can be accessed now: the instruction waits for the scoreboard and for a bank that is being
turned ON; an access to another bank that is not ON fails. -/
def State.need (p : Nat) (rs : List Range) (s : State) : Halt :=
  let t := s.tile p
  rs.foldl (fun h r => match h with
    | .bad a b => .bad a b
    | h =>
      if r.n = 0 then h
      else match t.offBank r.st r.off r.n with
        | some b =>
          if t.onPending b then (match h with
            | .banks bs => .banks (b :: bs)
            | _ => .banks [b])
          else .bad St.power (locStore p r.st r.off)
        | none =>
          if t.busy p r.write r.st r.off r.n then (match h with
            | .banks bs => .banks bs
            | _ => .wait)
          else h) .ok

/-- A 24-bit store reference (06 R189, 05 R147). -/
def refSt (x : Nat) : Nat := x / 2 ^ 22 % 4
def refOff (x : Nat) : Nat := x % 2 ^ 22

/-- A reference to the A- or P-store of `n` bytes inside the footprint; an empty range is not checked (R189, R204). -/
def Ctx.refGood (x n : Nat) (c : Ctx) : Bool :=
  decide (n = 0) || (decide (refSt x = 1 ∨ refSt x = 2) && decide (refOff x % 64 = 0) && inFoot c.job.image (refSt x) (refOff x) n)

def rangeOf (write : Bool) (x n : Nat) : Range := { write := write, st := refSt x, off := refOff x, n := n }

/-- FP32 words of bytes. -/
def wordsOf (bs : List Byte) : List W32 := (List.range (bs.length / 4)).map (fun k => w32At (4 * k) bs)

/-- Words of a store, read by engine `eng`; answers the first uncorrectable offset. -/
def State.readWords (p eng st off n : Nat) (s : State) : List W32 × State × Option Nat :=
  let r := s.storeRead p eng st off (4 * n)
  (wordsOf r.1, r.2.1, r.2.2)

def bytesOfWords (ws : List W32) : List Byte := ws.flatMap w32Bytes

/-! ## The commit map (R205) -/

def mapEntryOf (bs : List Byte) : MapEntry :=
  { lo := w32At 0 bs, hi := w32At 4 bs, index := leAt 8 2 bs, frac := leAt 10 1 bs,
    mailbox := if leAt 11 1 bs = 1 then some (leAt 12 1 bs) else none }

def mapEntryGood (n : Nat) (bs : List Byte) : Bool :=
  decide (leAt 8 2 bs < n ∧ leAt 10 1 bs ≤ 31 ∧ leAt 11 1 bs ≤ 1 ∧ leAt 13 3 bs = 0)

/-- The mailboxes that a job may write: those of its binding (01 R18). -/
def State.mailboxesOf (j : Job) (s : State) : List Nat :=
  match j.binding with
  | some b => (match s.binding b with
    | some v => v.mailboxes
    | none => [])
  | none => []

def noRepeat : List Nat → Bool
  | [] => true
  | x :: xs => !xs.contains x && noRepeat xs

/-! ## Offers (R206 to R208) -/

/-- The mapped elements of an iterate, projected. -/
def projected (m : List MapEntry) (x : List W32) : List W32 := m.map (fun e => (fclamp (x.getD e.index 0) e.lo e.hi).1)

/-- max(rp * rcp(eps_p), rd * rcp(eps_d)) (R206). -/
def meritOf (rp rd ep ed : W32) : W32 :=
  (fminmax true (fma rp (frcp ep).1 0).1 (fma rd (frcp ed).1 0).1).1

/-- rp ≤ eps_p and rd ≤ eps_d (R199). -/
def isConverged (rp rd ep ed : W32) : Bool := (fcmp 3 rp ep).1 && (fcmp 3 rd ed).1

/-- What an offer did. -/
inductive Offered where
  | held | kept | rejected | late
  deriving DecidableEq, Repr

/-- One offer against the held iterate. -/
def Held.offer (m : List MapEntry) (x : List W32) (iter : Nat) (rp rd ep ed : W32) (late : Bool) (h : Held) : Held × Offered :=
  if late then ({ h with late := h.late + 1 }, .late)
  else
    let els := m.map (fun e => x.getD e.index 0)
    let merit := meritOf rp rd ep ed
    let h := { h with offers := h.offers + 1, cut := h.offers }
    if els.any (fun v => !ffinite v) || fnan merit || !fpositive ep || !fpositive ed then
      ({ h with rejected := h.rejected + 1,
                sawNan := h.sawNan || (els ++ [rp, rd, ep, ed]).any fnan }, .rejected)
    else
      let cv := isConverged rp rd ep ed
      if (cv && !h.converged) || (decide (cv = h.converged) && (fcmp 3 merit h.merit).1) then
        ({ h with xs := projected m x, converged := cv, iter := iter, rp := rp, rd := rd, epsP := ep, epsD := ed,
                  merit := merit, accepted := h.accepted + 1 }, .held)
      else (h, .kept)

/-! ## Staged words, statuses and records (R209, R211, R212) -/

/-- round_nearest_even(v * 2^frac), saturated to INT32: the word and whether it was clamped. A NaN has no stated word. -/
def stagedWord (v : W32) (frac : Nat) : W32 × Bool :=
  if fnan v then (Config.nanSetpoint v, false)
  else
    let r := numInt (-2147483648) 2147483647 (Num.mul (f32Num v) (.fin false 1 (frac : Int)))
    (i32 r.1, decide (r.2 &&& Fl.sat ≠ 0))

/-- The words that a problem stages for its mailboxes. -/
def Held.staged (m : List MapEntry) (h : Held) : List (Nat × W32) :=
  (m.zip h.xs).filterMap (fun e => e.1.mailbox.map (fun mb => (mb, (stagedWord e.2 e.1.frac).1)))

/-- The flags the unit adds to a problem's own: IV of R211 and SAT of R209. -/
def Held.ownFlags (m : List MapEntry) (h : Held) : W32 :=
  h.flags ||| Fl.when (decide (h.accepted = 0) && h.sawNan) Fl.iv |||
    Fl.when ((m.zip h.xs).any (fun e => e.1.mailbox.isSome && (stagedWord e.2 e.1.frac).2)) Fl.sat

/-- The flags that turn DONE into DONE_FLAGGED (R212). -/
def Fl.flagging : W32 := Fl.perturbed ||| Fl.coldStart ||| Fl.staleInput ||| Fl.sat

/-- The status of one problem; `acc` is the job accumulator. -/
def Held.status (m : List MapEntry) (acc : W32) (h : Held) : Byte :=
  if !h.converged then St.partialResult
  else if (h.ownFlags m ||| acc) &&& Fl.flagging ≠ 0 then St.flagged else St.done

def sat16 (n : Nat) : Nat := min n 65535

/-- The 64 bytes of a commit record and its values, padded to the stride. -/
def Held.record (m : List MapEntry) (acc stamp : W32) (h : Held) : List Byte :=
  let body := [h.status m acc, (if h.converged then 1 else 0)] ++ leBytes 2 h.iter ++ leBytes 2 (sat16 h.offers) ++
    leBytes 2 (sat16 h.rejected) ++ leBytes 2 (sat16 h.late) ++ leBytes 2 (sat16 h.cut) ++
    bytesOfWords [h.rp, h.rd, h.epsP, h.epsD, h.merit, (h.ownFlags m ||| acc) &&& 0xFFFF, stamp] ++ zeros 24 ++
    bytesOfWords h.xs
  body ++ zeros (roundUp 64 body.length - body.length)

def CommitUnit.records (acc stamp : W32) (u : CommitUnit) : List Byte :=
  (u.map.zip u.held).flatMap (fun e => e.2.record e.1 acc stamp)

def CommitUnit.status (acc : W32) (u : CommitUnit) : Byte :=
  (u.map.zip u.held).foldl (fun st e => worseStatus st (e.2.status e.1 acc)) St.done

def CommitUnit.flags (u : CommitUnit) : W32 := (u.map.zip u.held).foldl (fun f e => f ||| e.2.ownFlags e.1) 0

def CommitUnit.staged (u : CommitUnit) : Tbl W32 :=
  ((u.map.zip u.held).flatMap (fun e => e.2.staged e.1)).foldl (fun t e => Tbl.insert e.1 e.2 t) []

/-- The mailboxes of the commit map. -/
def CommitUnit.mailboxes (u : CommitUnit) : List Nat := u.map.flatMap (fun m => m.filterMap (·.mailbox))

/-! ## Warm starts (R215) -/

def vecBytes (n : Nat) : Nat := roundUp 64 (4 * n)
def blobStride (n m : Nat) : Nat := 64 + vecBytes n + 2 * vecBytes m + roundUp 64 ((m + 3) / 4)
def iterStride (n m : Nat) : Nat := vecBytes n + 2 * vecBytes m
def recordStride (k : Nat) : Nat := roundUp 64 (64 + 4 * k)

/-- x, z and y. -/
structure Iterate where
  x : List W32
  z : List W32
  y : List W32
  deriving DecidableEq, Repr

def coldIterate (n m : Nat) (l u : List W32) : Iterate :=
  { x := List.replicate n 0, y := List.replicate m 0, z := (l.zip u).map (fun b => (fclamp 0 b.1 b.2).1) }

/-- The blob's iterate, or none where a check fails. -/
def blobIterate (sig : W64) (n m : Nat) (l u : List W32) (bs : List Byte) : Option Iterate :=
  let fl := leAt 0xC 2 bs
  let x := (List.range n).map (fun i => w32At (64 + 4 * i) bs)
  let z := (List.range m).map (fun i => w32At (64 + vecBytes n + 4 * i) bs)
  let y := if fl % 2 = 1 then (List.range m).map (fun i => w32At (64 + vecBytes n + vecBytes m + 4 * i) bs) else List.replicate m 0
  let code := fun (i : Nat) => if fl / 2 % 2 = 1 then (leAt (64 + vecBytes n + 2 * vecBytes m + i / 4) 1 bs) / 4 ^ (i % 4) % 4 else 0
  let good := decide (w64At 0 bs = sig ∧ leAt 8 2 bs = n ∧ leAt 0xA 2 bs = m ∧ fl / 4 = 0 ∧ leAt 0xE 2 bs = 0 ∧ leAt 0x14 44 bs = 0) &&
    (x ++ z ++ y).all ffinite && (List.range m).all (fun i => decide (code i ≠ 3))
  if good then
    some { x := x, y := y, z := (List.range m).map (fun i => if code i = 1 then l.getD i 0 else if code i = 2 then u.getD i 0 else z.getD i 0) }
  else none

/-- The iterate of one problem and its flags: the blob's, else the cold start (R215). -/
def startIterate (sig : W64) (blob : Option (List Byte)) (n m : Nat) (l u : List W32) : Iterate × W32 :=
  match blob with
  | some bs => (match blobIterate sig n m l u bs with
    | some i => (i, 0)
    | none => (coldIterate n m l u, Fl.coldStart))
  | none => (coldIterate n m l u, 0)

/-- Offer 0 of a problem (R207). -/
def offerZero (m : List MapEntry) (i : Iterate × W32) : Held := { xs := projected m i.1.x, flags := i.2 }

/-! ## The recorded cut (R213) -/

/-- The recorded cut of a problem of the job, in a replay (R213; 12 R421). -/
def State.cutOf (q sq pr : Nat) (s : State) : Option Nat :=
  if s.wit.mode = .replay then
    let old := match s.wit.seqMap.find? (fun e => decide (e.1 = q ∧ e.2.1 = sq)) with
      | some e => e.2.2
      | none => sq
    (s.wit.cuts.find? (fun e => decide (e.1 = q ∧ e.2.1 = old ∧ e.2.2.1 = pr))).map (·.2.2.2)
  else none

/-- The cut of each problem is a witness entry (12 R414). -/
def State.recordCuts (q sq : Nat) (p : Nat) (cuts : List Nat) (s : State) : State :=
  cuts.zipIdx.foldl (fun s e => s.witness 0x22 p s.now (leBytes 2 q ++ leBytes 6 sq ++ leBytes 1 e.2 ++ leBytes 2 e.1)) s

/-- The records of a unit that freezes now (R209). -/
def State.writeRecords (p w : Nat) (c : Ctx) (u : CommitUnit) (s : State) : State :=
  let s := s.recordCuts c.job.queue c.job.seq p (u.held.map (·.cut))
  let stamp := match c.job.deadline with
    | some d => min d s.now
    | none => s.now
  s.ownWrite p w (refSt u.recordRef) (refOff u.recordRef) (u.records c.jobAcc (short stamp))

/-- The recorded offer of a problem has come (R213). -/
def State.cutMet (q sq pr : Nat) (h : Held) (s : State) : Bool :=
  match s.cutOf q sq pr with
  | some k => decide (k < h.offers)
  | none => false

/-- In a replay the unit freezes once the recorded offer of every problem has come, at whatever count that is (R213). -/
def State.freezeReplayed (p w : Nat) (c : Ctx) (s : State) : State :=
  match (s.tile p).cu with
  | some u =>
    if !u.frozen && u.held.zipIdx.all (fun e => s.cutMet c.job.queue c.job.seq e.2 e.1) then
      (s.writeRecords p w c u).updTile p (fun t => { t with cu := some { u with frozen := true } })
    else s
  | none => s

/-! ## CMINIT (R204, R205, R215) -/

/-- The parts of a CMINIT block. -/
structure CmBlock where
  n : Nat
  m : Nat
  k : Nat
  b : Nat
  map : Nat
  iter : Nat
  blob : Nat
  record : Nat
  lu : Nat
  blobEn : Bool
  deriving DecidableEq, Repr

def cmBlock (w0 w1 w2 w3 : W64) : CmBlock :=
  { n := fld w0 48 16, m := fld w0 32 16, k := fld w0 24 8, b := fld w0 20 4 + 1, map := fld w1 24 24, iter := fld w1 0 24,
    blob := fld w2 24 24, record := fld w2 0 24, lu := fld w3 24 24, blobEn := bit w3 1 }

/-- Reserved bits and the ranges of R204. -/
def cmBlockGood (w0 w1 w2 w3 : W64) (c : Ctx) : Bool :=
  let u := cmBlock w0 w1 w2 w3
  decide (fld w0 0 20 = 0 ∧ fld w1 48 16 = 0 ∧ fld w2 48 16 = 0 ∧ fld w3 48 16 = 0 ∧ fld w3 2 22 = 0 ∧ fld w3 0 1 = 0) &&
    decide (1 ≤ u.n ∧ u.n ≤ 256 ∧ u.m ≤ 1024 ∧ u.k ≠ 0) &&
    c.refGood u.map (u.b * u.k * 16) && c.refGood u.iter (u.b * iterStride u.n u.m) &&
    c.refGood u.record (u.b * recordStride u.k) && c.refGood u.lu (u.b * 2 * vecBytes u.m) &&
    (!u.blobEn || c.refGood u.blob (u.b * blobStride u.n u.m)) &&
    c.mayWrite (refSt u.iter) (refOff u.iter) (u.b * iterStride u.n u.m) &&
    c.mayWrite (refSt u.record) (refOff u.record) (u.b * recordStride u.k)

/-- The bytes of the iterate area of one problem that are written: x, z and y at their places. -/
def State.writeIterate (p w x n m : Nat) (i : Iterate) (s : State) : State :=
  let st := refSt x
  let o := refOff x
  let s := s.ownWrite p w st o (bytesOfWords i.x)
  let s := if m = 0 then s else s.ownWrite p w st (o + vecBytes n) (bytesOfWords i.z)
  if m = 0 then s else s.ownWrite p w st (o + vecBytes n + vecBytes m) (bytesOfWords i.y)

/-- The parts of the stores that CMINIT reads: map, bounds and blobs, with the first uncorrectable word. -/
def State.cmReads (p : Nat) (u : CmBlock) (s : State) : List Byte × List Byte × List Byte × State × Option W64 :=
  let a := s.storeRead p 1 (refSt u.map) (refOff u.map) (u.b * u.k * 16)
  let l := if u.m = 0 then ([], a.2.1, none) else a.2.1.storeRead p 1 (refSt u.lu) (refOff u.lu) (u.b * 2 * vecBytes u.m)
  let b := if u.blobEn then l.2.1.storeRead p 1 (refSt u.blob) (refOff u.blob) (u.b * blobStride u.n u.m) else ([], l.2.1, none)
  let err := match a.2.2, l.2.2, b.2.2 with
    | some o, _, _ => some (locStore p (refSt u.map) o)
    | none, some o, _ => some (locStore p (refSt u.lu) o)
    | none, none, some o => some (locStore p (refSt u.blob) o)
    | none, none, none => none
  (a.1, l.1, b.1, b.2.1, err)

/-- CMINIT of context `w`; `bad` is the failure at dispatch (R160). It installs offer 0, after which a unit whose recorded cuts are all
0 freezes in a replay (R213). -/
def State.cmInit (p w : Nat) (c : Ctx) (w0 w1 w2 w3 : W64) (bad : Halt) (s : State) : State × Halt :=
  let u := cmBlock w0 w1 w2 w3
  let t := s.tile p
  match t.cu with
  | some v => if v.owner = w then (s, bad) else (s.setCtx p w { c with wait := some .commit, waitSince := s.now }, .hold)
  | none =>
    if !cmBlockGood w0 w1 w2 w3 c then (s, bad)
    else
      match s.need p [rangeOf false u.map (u.b * u.k * 16), rangeOf true u.iter (u.b * iterStride u.n u.m),
                      rangeOf true u.record (u.b * recordStride u.k), rangeOf false u.lu (u.b * 2 * vecBytes u.m),
                      rangeOf false u.blob (if u.blobEn then u.b * blobStride u.n u.m else 0)] with
      | .ok =>
        let r := s.cmReads p u
        let entry := fun (i j : Nat) => slice (16 * (i * u.k + j)) 16 r.1
        let raw := (List.range u.b).map (fun i => (List.range u.k).map (entry i))
        let maps := raw.map (fun m => m.map mapEntryOf)
        let named := maps.flatMap (fun m => m.filterMap (·.mailbox))
        let mine := s.mailboxesOf c.job
        let s := r.2.2.2.1
        if !raw.all (fun m => m.all (mapEntryGood u.n)) || !noRepeat named || named.any (fun x => !mine.contains x || c.mbwr.contains x) then (s, bad)
        else
          match r.2.2.2.2 with
          | some loc => (s, .bad St.dataError loc)
          | none =>
            let lu := fun (i k : Nat) => (List.range u.m).map (fun j => w32At ((2 * i + k) * vecBytes u.m + 4 * j) r.2.1)
            let blob := fun (i : Nat) => if u.blobEn then some (slice (i * blobStride u.n u.m) (blobStride u.n u.m) r.2.2.1) else none
            let its := (List.range u.b).map (fun i => startIterate c.job.image.structSig (blob i) u.n u.m (lu i 0) (lu i 1))
            let s := its.zipIdx.foldl (fun s e => s.writeIterate p w (u.iter + e.2 * iterStride u.n u.m) u.n u.m e.1.1) s
            let cu : CommitUnit := { n := u.n, m := u.m, k := u.k, recordRef := u.record, map := maps, owner := w,
                                     held := (maps.zip its).map (fun e => offerZero e.1 e.2) }
            ((s.updTile p (fun t => { t with cu := some cu })).freezeReplayed p w c, .ok)
      | h => (s, h)

/-! ## CMOFFER and CMSTAT -/

/-- CMOFFER. In a replay an offer after the recorded one is not looked at, and no deadline makes one late (R213). Reserved bits, the
problem and the range are checked at dispatch. -/
def State.cmOffer (p w : Nat) (c : Ctx) (w0 w1 w2 w3 : W64) (bad : Halt) (s : State) : State × Halt :=
  match (s.tile p).cu with
  | none => (s, bad)
  | some u =>
    let x := fld w0 24 24
    let pr := fld w0 16 4
    if u.owner ≠ w || !decide (fld w0 48 16 = 0 ∧ fld w0 20 4 = 0 ∧ w3 = 0) || decide (u.held.length ≤ pr) || !c.refGood x (4 * u.n) then (s, bad)
    else
      match s.need p [rangeOf false x (4 * u.n)] with
      | .ok =>
        let r := s.readWords p 1 (refSt x) (refOff x) u.n
        (match r.2.2 with
         | some o => (r.2.1, .bad St.dataError (locStore p (refSt x) o))
         | none =>
           let h := u.held.getD pr { }
           let late := match s.cutOf c.job.queue c.job.seq pr, c.job.deadline with
             | none, some d => decide (s.now ≥ d)
             | _, _ => false
           if u.frozen || s.cutMet c.job.queue c.job.seq pr h then (r.2.1, .ok)
           else
             let f := Held.offer (u.map.getD pr []) r.1 (fld w0 0 16) (w1.extractLsb' 32 32) (w1.setWidth 32) (w2.extractLsb' 32 32) (w2.setWidth 32) late h
             let s := r.2.1.updTile p (fun t => { t with cu := some { u with held := u.held.set pr f.1 } })
             let s := match f.2 with
               | .held => s.tileEvent p 0xC 1
               | .rejected => s.tileEvent p 0xD 1
               | .late => s.tileEvent p 0xE 1
               | .kept => s
             (s.freezeReplayed p w c, .ok))
      | h => (s, h)

/-- CMSTAT: the records that a freeze at this count would write (R209). -/
def State.cmStat (p w : Nat) (c : Ctx) (w0 w1 w2 w3 : W64) (bad : Halt) (s : State) : State × Halt :=
  match (s.tile p).cu with
  | none => (s, bad)
  | some u =>
    let x := fld w0 0 24
    let bs := u.records c.jobAcc (short s.now)
    if u.owner ≠ w || !decide (fld w0 24 40 = 0 ∧ w1 = 0 ∧ w2 = 0 ∧ w3 = 0) || !c.refGood x bs.length || !c.mayWrite (refSt x) (refOff x) bs.length then (s, bad)
    else
      match s.need p [rangeOf true x bs.length] with
      | .ok => (s.ownWrite p w (refSt x) (refOff x) bs, .ok)
      | h => (s, h)

/-! ## The freeze (R209, R210, R213) -/

/-- Writes the records, unless the unit is frozen already, and lets the unit go. -/
def State.freeze (p w : Nat) (c : Ctx) (u : CommitUnit) (s : State) : State :=
  (if u.frozen then s else s.writeRecords p w c u).updTile p (fun t => { t with cu := none })

end Sys2Proof.Machine
end

