-- ==== Sys2Proof/Machine/Jobs.lean ====
section
/-!
DEFINITION. The end of a job: digests and provenance, effects, settlement, completion and publishing (01 R18 to R20;
05 R176, R182; 06 R209 to R213; 10 R327 to R334; 11 R361, R370; 12 R398, R399; 14 R464 to R466).
-/

set_option Elab.async false

namespace Sys2Proof.Machine

open Sys2Proof

/-! ## Digests (05 R179, R182; 12 R398) -/

/-- The 32 bytes of a section entry. -/
def Section.entry (x : Section) : List Byte :=
  leBytes 2 x.kind ++ leBytes 2 (b2n x.persistent + 2 * b2n x.reload) ++ leBytes 1 x.store ++ zeros 3 ++ leBytes 4 x.fileOff ++
    leBytes 4 x.length ++ leBytes 4 x.storeOff ++ leBytes 4 x.size ++ zeros 8

/-- The weight digest over the current sections, read by the hash assist: the digest and the state, with the location
of an uncorrectable word. -/
def State.weightNow (p : Nat) (im : Image) (s : State) : List Byte × State × Option W64 :=
  let r := (im.sections.filter (fun x => decide (x.kind = 2))).foldl (fun (a : List Byte × State × Option W64) x =>
    let e := a.2.1.storeRead p 4 0 x.storeOff x.length
    (a.1 ++ x.entry ++ e.1, e.2.1, match a.2.2, e.2.2 with
      | some l, _ => some l
      | none, some o => some (locStore p 0 o)
      | none, none => none)) ([], s, none)
  (sha512 r.1, r.2.1, r.2.2)

/-- Section `i` of an image is a WEIGHT section. -/
def Image.weightIx (im : Image) (i : Nat) : Bool := (im.sections[i]?).any (fun x => decide (x.kind = 2))

/-- A WEIGHT section of the image was written since it was loaded, by this job or by one before it (12 R398). -/
def Tile.wroteWeight (im : Image) (t : Tile) : Bool := t.written.any (fun e => e.1.same im && im.weightIx e.2)

/-- The bytes fed into the input digest, in DPUSH order. -/
def Ctx.inputBytes (c : Ctx) : List Byte := c.inputs.flatMap (·.2)

/-- The 64-byte provenance extension (10 R334). -/
def provenance (im : Image) (weight : List Byte) (input : List Byte) : List Byte :=
  tagExt ((sha512 (im.programDigest ++ weight ++ sha512 input)).take 32) input.length

/-! ## Effects (14 R465, R466) -/

/-- Sections read back from the stores by the DMA engine: a key and the content of each, with the location of the first word that does
not read (02 R53, R54). -/
def State.readSecs (p : Nat) (xs : List (Nat × Section)) (s : State) : List (Nat × List Byte) × State × Option W64 :=
  xs.foldl (fun (a : List (Nat × List Byte) × State × Option W64) e =>
    let r := a.2.1.storeRead p 4 e.2.store e.2.storeOff e.2.size
    (a.1 ++ [(e.1, r.1)], r.2.1, match a.2.2 with
      | some l => some l
      | none => r.2.2.map (locStore p e.2.store))) ([], s, none)

/-- Ranges of HBM read back, with the location of the first byte that does not read (13 R431). -/
def State.readHbm (rs : List (Nat × Nat)) (s : State) : List (Nat × List Byte) × State × Option W64 :=
  rs.foldl (fun (a : List (Nat × List Byte) × State × Option W64) e =>
    let r := a.2.1.hbmRead e.1 e.2
    (a.1 ++ [(e.1, r.1)], r.2.1, match a.2.2 with
      | some l => some l
      | none => r.2.2.map locHbm)) ([], s, none)

/-- What a job on demand wrote, read back at its end, with the location of what does not read. -/
structure Wrote where
  parts : List (Nat × List Byte) := []
  ranges : List (Nat × List Byte) := []
  bad : Option W64 := none
  deriving DecidableEq, Repr

/-- The current content of the sections and of the ranges that a job wrote; a standing job carries only its staged values (R465). -/
def State.wrote (p : Nat) (c : Ctx) (s : State) : Wrote × State :=
  if c.job.binding.isSome then ({ }, s)
  else
    let a := s.readSecs p (c.wroteSecs.filterMap (fun i => (c.job.image.sections[i]?).map (fun x => (i, x))))
    let b := a.2.1.readHbm c.wroteHbm
    ({ parts := a.1, ranges := b.1, bad := match a.2.2 with
        | some l => some l
        | none => b.2.2 }, b.2.1)

/-- Kind 1: each range the job wrote, with its content. -/
def rangeEffects (rs : List (Nat × List Byte)) : List Byte :=
  rs.flatMap (fun r => leBytes 8 r.1 ++ leBytes 8 r.2.length ++ r.2 ++ zeros (roundUp 64 r.2.length - r.2.length))

/-- Kind 2: the content of each written section. The ranges of HBM that the job wrote too follow them, under the index of no section,
in the form of kind 1 (DESIGN CHOICE: log entry 208). -/
def Wrote.sectionEffects (e : Wrote) : List Byte :=
  let part := fun (x : Nat × List Byte) => leBytes 4 x.1 ++ leBytes 4 x.2.length ++ x.2
  e.parts.flatMap part ++ (if e.ranges.isEmpty then [] else part (0xFFFFFFFF, rangeEffects e.ranges))

/-- Staged values in ascending mailbox order. -/
def stagedBytes (t : Tbl W32) : List Byte := t.flatMap (fun e => w32Bytes e.2)

/-- Kind 3: a mailbox mask and the staged values. -/
def invocationPayload (t : Tbl W32) : List Byte :=
  leBytes 32 ((t.map (fun e => 2 ^ e.1)).sum) ++ stagedBytes t

def invocationDigest (st : Byte) (flags : W32) (t : Tbl W32) : List Byte := sha512 ([st] ++ w32Bytes flags ++ stagedBytes t)

/-- The effects of a job's completion; `weight` is the digest of the weights as they are now. -/
def Ctx.effectsOf (st : Byte) (flags : W32) (staged : Tbl W32) (weight : List Byte) (e : Wrote) (c : Ctx) : Effects :=
  if c.job.binding.isSome then
    { kind := 3, digest := invocationDigest st flags staged, payload := invocationPayload staged, tput := c.job.tput, vals := stagedBytes staged }
  else if failed st then { tput := c.job.tput }
  else if !c.wroteSecs.isEmpty then { kind := 2, digest := weight, payload := e.sectionEffects, tput := c.job.tput }
  else if !c.wroteHbm.isEmpty then { kind := 1, payload := rangeEffects e.ranges, tput := c.job.tput }
  else { tput := c.job.tput }

/-! ## The current content of a section (14 R465) -/

/-- A job's section effects become the image's current sections; other tiles no longer match them (14 R465). -/
def State.keepSections (im : Image) (digest : List Byte) (parts : List (Nat × List Byte)) (except : Option Nat) (s : State) : State :=
  let new := parts.map (fun e => ({ program := im.programDigest, weight := im.weightDigest, index := e.1, content := e.2, digest := digest } : SecCopy))
  let old := s.kiln.copies.filter (fun c => !(new.any (fun n => decide (n.program = c.program ∧ n.weight = c.weight ∧ n.index = c.index))))
  let old := old.map (fun c => if c.program = im.programDigest ∧ c.weight = im.weightDigest then { c with digest := digest } else c)
  let s := s.setKiln { s.kiln with copies := old ++ new }
  { s with tiles := s.tiles.map (fun e => if except = some e.1 then e
      else (e.1, { e.2 with residents := e.2.residents.filter (fun r => !r.same im && decide (r.weightDigest ≠ im.weightDigest)) })) }

/-! ## What the recorder keeps of a binding (11 R365; 12 R416) -/

/-- The sections of a context that are saved: all but CODE and unwritten WEIGHT sections. -/
def Ctx.savedSections (c : Ctx) : List Section :=
  (c.job.image.sections.zipIdx.filter (fun e => decide (e.1.kind = 3 ∨ e.1.kind = 4) || (decide (e.1.kind = 2) && c.wroteSecs.contains e.2))).map (·.1)

def coilBytes (e : Nat × Coil) : List Byte := leBytes 8 e.1 ++ (List.range 4).flatMap (fun i => w64Bytes (coilReg e.2 i))

/-- The binding record, the next invocation and boundary, the image, the saved sections and the coils (log entry 84); none where a
word of them does not read. -/
def State.bindingContent (v : Binding) (p : Nat) (c : Ctx) (s : State) : Option (List Byte) × State :=
  let secs := s.readSecs p (c.savedSections.map (fun x => (storeBase x.store + x.storeOff, x)))
  let im := secs.2.1.readHbm [(v.image.addr, v.image.bytes)]
  let bs := v.record ++ leBytes 8 v.inv ++ stampBytes v.next ++ leBytes 2 v.queue ++ w32Bytes v.tag ++ leBytes 8 v.image.bytes ++ im.1.flatMap (·.2) ++
    leBytes 8 secs.1.length ++ secs.1.flatMap (fun e => leBytes 8 e.1 ++ leBytes 8 e.2.length ++ e.2) ++ c.coils.flatMap coilBytes
  (if secs.2.2.isSome || im.2.2.isSome then none else some bs, im.2.1)

/-- The snapshot of a binding after the first JEND that follows the effect count; where a word does not read, after a later one
(log entry 84). -/
def State.snapBinding (b : Nat) (c : Ctx) (s : State) : State :=
  match s.wit.snapBindings.contains b, s.binding b with
  | true, some v =>
    (match s.phys v.ltile with
     | some p =>
       let r := s.bindingContent v p c
       (match r.1 with
        | some bs => (r.2.setWit { r.2.wit with snapBindings := r.2.wit.snapBindings.filter (fun m => decide (m ≠ b)) }).snapshot 7 b s.now bs
        | none => r.2)
     | none => s)
  | _, _ => s

/-! ## The end of a job -/

/-- The flags that a job has of its history and not of its program (10 R331). -/
def Job.marks (j : Job) : W32 :=
  Fl.when j.throttled Fl.throttled ||| Fl.when j.rerun Fl.rerun ||| Fl.when j.lateFill Fl.lateFill ||| Fl.when j.replayed Fl.replayed

/-- How a job ends. -/
structure Fin where
  st : Byte
  loc : W64 := 0
  flags : W32 := 0
  staged : Tbl W32 := []
  mapped : Bool := false
  r0 : W64 := 0
  r1 : W64 := 0
  deriving DecidableEq, Repr

/-- The commit unit is free: a context that waited for it runs again (11 R363). -/
def Tile.freeUnit (w : Nat) (t : Tile) : Tile :=
  let go := fun (c : Ctx) => if c.wait = some .commit then { c with wait := none } else c
  match t.cu with
  | some u => if u.owner = w then { t with cu := none, ctx0 := t.ctx0.map go, ctx1 := t.ctx1.map go } else t
  | none => { t with ctx0 := t.ctx0.map go, ctx1 := t.ctx1.map go }

/-- The context after its job: an on-demand job leaves the tile and its image stays resident, unless a job that failed
has changed its sections or the image did not load whole and true (05 R182); a standing context stays with its coils (02 R73, 11 R368). -/
def Tile.leave (w now : Nat) (ok : Bool) (c : Ctx) (t : Tile) : Tile :=
  let t := (t.freeUnit w).disown w
  let t := if c.job.binding.isSome then t.setSlot w (some { c with live := false, wait := none })
    else
      let t := t.setSlot w none
      let t := { t with restCoils := (c.job.image, c.coils) :: t.restCoils.filter (fun e => !e.1.same c.job.image) }
      let rest := t.residents.filter (fun i => !i.same c.job.image)
      let t := if c.job.image.sections.isEmpty then t
        else if !c.badImage && (ok || c.wroteSecs.isEmpty) then { t with residents := c.job.image :: rest }.trim
        else { t with residents := rest }
      { t with restCoils := t.restCoils.filter (fun e => t.holdsImage e.1) }
  { t with idleSince := now }

/-- Settles the cones: the declaration against the estimate (11 R370). Answers the estimate in cones. -/
def State.settle (c : Ctx) (s : State) : Nat × State :=
  let e := Config.energy s.freeIx
  let s := { s with freeIx := s.freeIx + 1 }
  let back : Int := if c.job.binding.isSome then (if e > c.job.cones * 1000 then (c.job.cones * 1000 : Int) - e else 0)
    else (c.charged : Int) - e
  ((e + 999) / 1000, s.setKiln { s.kiln with level := s.kiln.level + back })

/-- The invocation's entry among its binding's publish counts takes the outcome. -/
def endPub (sq : Nat) (f : Pub → Pub) (ps : List Pub) : List Pub := ps.map (fun x => if x.seq = sq ∧ !x.ended then f x else x)

/-! ## A STANDBY device's own run against the ACTIVE device's (14 R472) -/

/-- The binding that an invocation's record belongs to. -/
def State.invocationOf (r : Record) (s : State) : Option (Nat × Binding) :=
  let mine := s.bindings.filter (fun e => decide (e.2.cqueue = r.queue))
  match mine.find? (fun e => decide (e.2.tag = r.tag)) with
  | some e => some e
  | none => mine.find? (fun e => e.2.pubs.any (fun x => decide (x.qseq = r.seq)))

/-- What is compared of a run: status, flags and staged values. -/
abbrev RunOf := Byte × W32 × List Byte

def Pub.run (x : Pub) : RunOf := (x.status, x.flags, stagedBytes x.staged)

/-- The device's own run of an invocation that has ended: its publish count is still to come, or its record waits for its turn. -/
def State.ownRun (r : Record) (s : State) : Option RunOf :=
  match (s.invocationOf r).bind (fun e => e.2.pubs.find? (fun x => decide (x.qseq = r.seq))) with
  | some x => if x.ended then some x.run else none
  | none => ((s.queue r.queue).reorder.find? (fun d => decide (d.record.seq = r.seq))).map (fun d => (d.record.status, d.record.flags, d.vals))

/-- The device's own run of the invocation goes on. -/
def State.stillRuns (r : Record) (s : State) : Bool :=
  (s.invocationOf r).any (fun e => e.2.pubs.any (fun x => decide (x.qseq = r.seq) && !x.ended))

/-- The mailboxes take the entry's values: at the publish count where it is still to come, else now. -/
def State.adopt (r : Record) (vs : Tbl W32) (s : State) : State :=
  match s.invocationOf r with
  | none => s
  | some (b, v) =>
    if v.pubs.any (fun x => decide (x.qseq = r.seq)) then
      s.setBinding b { v with pubs := v.pubs.map (fun x => if x.qseq = r.seq then
        { x with ended := true, publishes := !failed r.status, status := r.status, staged := vs } else x) }
    else vs.foldl (fun s e => s.updMailbox e.1 (fun m => { m with value := e.2, pubs := (s.now, e.2) :: m.pubs, pubCount := some s.now })) s

/-- An invocation entry against the device's own run. -/
def State.judgeRun (r : Record) (vs : Tbl W32) (own : Option RunOf) (s : State) : State :=
  match s.invocationOf r with
  | none => s
  | some (b, _) =>
    if own = some (r.status, r.flags, stagedBytes vs) then s.updBinding b (fun v => { v with divRun := 0 })
    else
      let s := (s.setTwin { s.twin with divStanding := satAdd s.twin.divStanding 1 }).event 0x2C6 0 1
      let s := (s.adopt r vs).updBinding b (fun v => { v with divRun := v.divRun + 1 })
      let n := match s.binding b with
        | some v => v.divRun
        | none => 0
      let limit := fld s.twin.ctl 8 8
      if limit ≠ 0 ∧ limit ≤ n then s.askCatchup b else s

/-- An invocation entry arrives: it is judged now, or once the device's own run has ended. -/
def State.compareRun (r : Record) (vs : Tbl W32) (s : State) : State :=
  if s.stillRuns r then s.setTwin { s.twin with early := s.twin.early ++ [(r, vs)] } else s.judgeRun r vs (s.ownRun r)

/-- The device's own run has ended: an entry that came before is judged. -/
def State.judgeEarly (q sq : Nat) (s : State) : State :=
  match s.twin.early.find? (fun e => decide (e.1.queue = q ∧ e.1.seq = sq)) with
  | some e =>
    (s.setTwin { s.twin with early := s.twin.early.filter (fun x => decide (¬ (x.1.queue = q ∧ x.1.seq = sq))) }).judgeRun e.1 e.2 (s.ownRun e.1)
  | none => s

/-- The standing part of a job's end: what will be published, and whether the record waits for the publish count, as that of any
job with mailboxes in its commit map does (06 R209, R210). -/
def State.endInvocation (b : Nat) (c : Ctx) (f : Fin) (st : Byte) (r : Record) (e : Effects) (s : State) : State :=
  match s.binding b with
  | none => s.complete c.job.queue c.job.seq r e
  | some v =>
    let due := (v.pubs.find? (fun x => decide (x.seq = c.job.inv))).map (·.due)
    let hold := f.mapped && (match due with
      | some d => decide (s.now < d)
      | none => false)
    let g := fun (x : Pub) => { x with ended := true, qseq := c.job.seq, publishes := !failed st, status := st, flags := r.flags, staged := if failed st then [] else f.staged,
                                       held := if hold then some ({ r with stop := short s.now }, e) else none }
    let s := (s.setBinding b { v with running := false, lastEnd := s.now, pubs := endPub c.job.inv g v.pubs }).judgeEarly c.job.queue c.job.seq
    let s := if failed st then s else s.snapBinding b c
    if hold then s else s.complete c.job.queue c.job.seq r e

/-! ## The copy set of a standing binding (14 R461) -/

/-- The sections of a copy set: CONST without the reload flag, persistent regions, and WEIGHT sections written since they were loaded. -/
def Tile.copySections (im : Image) (t : Tile) : List Section :=
  (im.sections.zipIdx.filter (fun e => (decide (e.1.kind = 3) && !e.1.reload) || (decide (e.1.kind = 4) && e.1.persistent) ||
    (decide (e.1.kind = 2) && t.written.any (fun x => x.1.same im && decide (x.2 = e.2))))).map (·.1)

/-- The areas of the open receive coils of a binding: they are fed on both devices. -/
def Ctx.rxAreas (c : Ctx) : List (Nat × Nat × Nat) :=
  (c.coils.filter (fun e => e.2.isOpen && e.2.receive)).map (fun e => (e.2.store, e.2.base, e.2.size))

/-- What is left of a range outside another, both as first and past-the-last offset. -/
def outside (a x : Nat × Nat) : List (Nat × Nat) := [(x.1, min x.2 a.1), (max x.1 a.2, x.2)].filter (fun r => decide (r.1 < r.2))

/-- The ranges of a copy set, in the window of the tile, less the areas of open receive coils. -/
def Ctx.copyRanges (t : Tile) (c : Ctx) : List (Nat × Nat) :=
  let rs := (t.copySections c.job.image).map (fun x => (storeBase x.store + x.storeOff, storeBase x.store + x.storeOff + x.size))
  c.rxAreas.foldl (fun l a => l.flatMap (outside (storeBase a.1 + a.2.1, storeBase a.1 + a.2.1 + a.2.2))) rs

/-- The duration of a catch-up in nanoseconds: bytes / 24 GB/s + bytes / 10 GB/s + 10 µs. -/
def catchupNs (n : Nat) : Nat := (17 * n + 119) / 120 + 10000

/-- The bytes of the ranges, read by the DMA engine, and whether one was not readable. -/
def State.readRanges (p : Nat) (rs : List (Nat × Nat)) (s : State) : List (Nat × List Byte) × State × Bool :=
  rs.foldl (fun (a : List (Nat × List Byte) × State × Bool) r =>
    let x := windowStore r.1
    let e := a.2.1.storeRead p 4 x.1 x.2 (r.2 - r.1)
    (a.1 ++ [(r.1, e.1)], e.2.1, a.2.2 || e.2.2.isSome)) ([], s, false)

/-- After the JEND of an invocation its copy set goes to a peer that has asked for it, where the transfer ends before the next
boundary. -/
def State.sendCopySet (p b : Nat) (c : Ctx) (s : State) : State :=
  if !s.mirrored || !s.twin.wanted.contains b then s
  else
    let rs := c.copyRanges (s.tile p)
    match s.binding b with
    | none => s
    | some v =>
      if v.next ≤ s.now + catchupNs ((rs.map (fun r => r.2 - r.1)).sum) then s
      else
        let r := s.readRanges p rs
        if r.2.2 then r.2.1
        else r.2.1.setTwin { r.2.1.twin with wanted := r.2.1.twin.wanted.filter (· ≠ b), out := r.2.1.twin.out ++ [.copySet b r.1] }

/-- Ends the job in slot `w` of tile `p` (05 R176, 10 R329). -/
def State.endJob (p w : Nat) (f : Fin) (s : State) : State :=
  let s := s.dmaDrain p w
  match s.ctx p w with
  | none => s
  | some c =>
    let changed := c.job.prov && (s.tile p).wroteWeight c.job.image
    let needsWeight := !failed f.st && (changed || (c.job.binding.isNone && !c.wroteSecs.isEmpty))
    let wd := if needsWeight then s.weightNow p c.job.image else (c.job.image.weightDigest, s, none)
    let wr := if failed f.st then ({ }, wd.2.1) else wd.2.1.wrote p c
    let s := wr.2
    let unread := match wd.2.2 with
      | some l => some l
      | none => wr.1.bad
    let st := if unread.isSome then St.dataError else f.st
    let loc := match unread with
      | some l => l
      | none => if st = St.dataError ∨ st = St.power ∨ st = St.unit then f.loc else 0
    let flags := (c.jobAcc ||| f.flags ||| c.job.marks) &&& 0xFFFF
    let ext := if c.job.prov then (if failed st then zeros 64 else provenance c.job.image (if changed then wd.1 else c.job.image.weightDigest) c.inputBytes) else []
    let m := s.settle c
    let s := m.2
    let staged := if failed st then [] else f.staged
    let r : Record := { status := st, flags := flags, ltile := if c.started.isNone then 0xFFFF else BitVec.ofNat 16 ((s.logical p).getD 0xFFFF),
                        start := short (c.started.getD 0), cones := BitVec.ofNat 32 m.1, location := loc,
                        r0 := if failed st then 0 else f.r0, r1 := if failed st then 0 else f.r1, ext := ext }
    let e := c.effectsOf st flags staged wd.1 wr.1
    let s := if st = St.fpTrap then s.tileEvent p 0x24 1 else s
    let s := s.updTile p (Tile.leave w s.now (!failed st) c)
    let s := if e.kind = 2 then s.keepSections c.job.image wd.1 wr.1.parts (some p) else s
    match c.job.binding with
    | some b => (if failed st then s else s.sendCopySet p b c).endInvocation b c f st r e
    | none => s.complete c.job.queue c.job.seq r e

/-- The job in slot `w` has mailboxes in its commit map. -/
def Tile.mapped (w : Nat) (t : Tile) : Bool := t.cu.any (fun u => decide (u.owner = w) && !u.mailboxes.isEmpty)

/-- A job that ends with a FAILED status; its record too waits for its publish count (06 R210). -/
def State.failJob (p w : Nat) (st : Byte) (loc : W64) (s : State) : State := s.endJob p w { st := st, loc := loc, mapped := (s.tile p).mapped w }

/-- Jobs of a tile end for whose coil the receive port met an uncorrectable word or a dark bank (02 R54; 05 R174). -/
def State.failDoomed (p : Nat) (s : State) : State :=
  [0, 1].foldl (fun s w => match (s.ctx p w).bind (·.doomed) with
    | some l => s.failJob p w l.1 l.2
    | none => s) s

/-- A job whose image did not load whole and true. -/
def State.failLoad (p w : Nat) (loc : W64) (s : State) : State := (s.updCtx p w (fun c => { c with badImage := true })).failJob p w St.dataError loc

/-- A job that no tile has had ends in failure. -/
def State.endReady (j : Job) (st : Byte) (loc : W64) (s : State) : State :=
  s.complete j.queue j.seq { status := st, flags := j.marks, location := loc, ext := if j.prov then zeros 64 else [] } { tput := j.tput }

/-- A job that is swapped out ends in failure: its record names the tile that it ran on, its start, its cones and its flags (10 R329). -/
def State.endSwapped (e : Swapped) (st : Byte) (loc : W64) (s : State) : State :=
  let j := e.ctx.job
  let m := s.settle e.ctx
  m.2.complete j.queue j.seq
    { status := st, flags := (e.ctx.jobAcc ||| j.marks) &&& 0xFFFF, location := loc,
      ltile := if e.ctx.started.isNone then 0xFFFF else BitVec.ofNat 16 ((s.logical e.home).getD 0xFFFF),
      start := short (e.ctx.started.getD 0), cones := BitVec.ofNat 32 m.1, ext := if j.prov then zeros 64 else [] } { tput := j.tput }

/-! ## Publishing (01 R18 to R20, 07 R237) -/

/-- One expected publish of a mailbox: fresh with its value, or stale. -/
def Mailbox.publish (due : Nat) (x : Option W32) (status : Byte) (m : Mailbox) : Mailbox :=
  { m with value := x.getD m.value, pubs := (due, x.getD m.value) :: m.pubs, pubCount := some due, status := status,
           evals := (due, MbEval.fresh) :: m.evals }

def Mailbox.missed (due : Nat) (m : Mailbox) : Mailbox := { m with evals := (due, MbEval.stale) :: m.evals }

/-- The writer of a mailbox is unbound at its release count (07 R237). -/
def Mailbox.release (at_ : Nat) (m : Mailbox) : Mailbox := { m with writer := none, evals := (at_, MbEval.released) :: m.evals }

/-- The publish count of a binding's oldest invocation: all its mailboxes together, then the record that waited. -/
def State.publish (b : Nat) (s : State) : State :=
  match s.binding b with
  | none => s
  | some v =>
    match v.pubs with
    | [] => s
    | x :: rest =>
      if s.now < x.due then s
      else
        let s := s.setBinding b { v with pubs := rest }
        let ok := x.ended && x.publishes
        let s := v.mailboxes.foldl (fun s m => s.updMailbox m (fun y =>
          if ok then y.publish x.due (if x.staged.any (fun e => decide (e.1 = m)) then some (Tbl.get 0 m x.staged) else none) x.status
          else y.missed x.due)) s
        match x.held with
        | some h => s.completeAt h.1.stop v.cqueue x.qseq h.1 h.2
        | none => s

end Sys2Proof.Machine
end

