-- ==== Sys2Proof/Machine/Images.lean ====
section
/-!
DEFINITION. Program images: reading and checking them, placing them on a tile, and what stays resident (05 R177 to R183;
02 R73; 11 R356, R383; 14 R465).
-/

set_option Elab.async false

namespace Sys2Proof.Machine

open Sys2Proof

/-! ## Reading an image (R177 to R181) -/

def sectionOf (bs : List Byte) : Section :=
  { kind := leAt 0 2 bs, persistent := bit (BitVec.ofNat 16 (leAt 2 2 bs)) 0, reload := bit (BitVec.ofNat 16 (leAt 2 2 bs)) 1,
    store := leAt 4 1 bs, fileOff := leAt 8 4 bs, length := leAt 12 4 bs, storeOff := leAt 16 4 bs, size := leAt 20 4 bs }

/-- The reserved fields of a section entry are zero and its values are in range (R179, R181). -/
def sectionGood (bytes : Nat) (bs : List Byte) : Bool :=
  let x := sectionOf bs
  decide (1 ≤ x.kind ∧ x.kind ≤ 5) && decide (leAt 2 2 bs < 4) && decide (leAt 5 3 bs = 0) && decide (leAt 24 8 bs = 0) &&
    decide (x.fileOff % 64 = 0 ∧ x.fileOff + x.length ≤ bytes) &&
    (match x.kind with
     | 1 => decide (x.store = 3)
     | 2 => decide (x.store = 0)
     | 3 => decide (x.store = 1 ∨ x.store = 2)
     | 4 => decide (x.store < 3 ∧ x.length = 0)
     | _ => decide (x.store < 4)) &&
    (decide (x.kind = 5) || (decide (x.storeOff % 64 = 0 ∧ x.size % 64 = 0 ∧ x.length ≤ x.size) && inStore x.store x.storeOff x.size))

/-- Two sections overlap in a store. -/
def Section.overlaps (a b : Section) : Bool :=
  decide (a.kind ≠ 5 ∧ b.kind ≠ 5 ∧ a.store = b.store ∧ a.storeOff < b.storeOff + b.size ∧ b.storeOff < a.storeOff + a.size)

def noOverlap : List Section → Bool
  | [] => true
  | x :: xs => xs.all (fun y => !x.overlaps y) && noOverlap xs

/-- The image at an address, as its header and table spell it. -/
def State.imageAt (a : Nat) (s : State) : Image :=
  let h := s.hbmBytes a 256
  let n := leAt 12 2 h
  { addr := a, bytes := leAt 8 4 h, flags := BitVec.ofNat 16 (leAt 14 2 h), structSig := w64At 16 h, wcet := leAt 24 8 h, cones := leAt 32 4 h,
    entry := leAt 36 4 h, batchMax := leAt 40 2 h, programDigest := slice 0x30 64 h, weightDigest := slice 0x70 64 h,
    sections := (List.range (min n 64)).map (fun i => sectionOf (s.hbmBytes (a + 256 + 32 * i) 32)) }

/-- The checks of R181 but for the job's kind, mode and problem count. -/
def State.imageGood (a : Nat) (s : State) : Bool :=
  let h := s.hbmBytes a 256
  let n := leAt 12 2 h
  let im := s.imageAt a
  s.inHost a 256 && decide (leAt 0 4 h = 0x4D495850 ∧ leAt 4 2 h = 1 ∧ leAt 6 2 h = 0x100 ∧ 1 ≤ n ∧ n ≤ 64) &&
    decide (im.bytes % 64 = 0 ∧ 256 + 32 * n ≤ im.bytes) && s.inHost a im.bytes && decide (leAt 14 2 h < 32) &&
    decide (1 ≤ im.wcet ∧ im.wcet ≤ 2 ^ 40) && decide (leAt 42 6 h = 0) && decide (leNat (slice 0xB0 80 h) = 0) &&
    (List.range n).all (fun i => sectionGood im.bytes (s.hbmBytes (a + 256 + 32 * i) 32)) && noOverlap im.sections &&
    decide (im.entry < 32768) && im.sections.any (fun x => decide (x.kind = 1 ∧ x.storeOff / 8 ≤ im.entry ∧ im.entry < (x.storeOff + x.length) / 8)) &&
    (if bit im.flags 4 then decide (1 ≤ im.batchMax ∧ im.batchMax ≤ 16) else decide (im.batchMax = 1))

/-- The flags allow a kind of job in a determinism mode (R178, R181). -/
def Image.allows (standing tput : Bool) (im : Image) : Bool :=
  bit im.flags (if standing then 0 else 1) && !(bit im.flags 2 && tput) && !(bit im.flags 3 && !tput)

/-! ## What is resident (R182, R183; 02 R73) -/

def Image.weightsOf (im : Image) : List Section := im.sections.filter (fun x => decide (x.kind = 2))

/-- Section `i` of the image has been lost. -/
def Tile.lostSec (im : Image) (i : Nat) (t : Tile) : Bool := t.lost.any (fun e => decide (e.2 = i) && e.1.same im)

/-- The tile holds the image, and has lost none of it. -/
def Tile.whole (im : Image) (t : Tile) : Bool := t.holdsImage im && !t.lost.any (fun e => e.1.same im)

/-- The tile holds the image's weights: those of a resident image that lost none of them and, where it is another image,
did not write them. -/
def Tile.holdsWeights (im : Image) (t : Tile) : Bool :=
  !im.weightsOf.isEmpty && t.residents.any (fun r => decide (r.weightDigest = im.weightDigest ∧ r.weightsOf = im.weightsOf) &&
    !t.lost.any (fun e => e.1.same r && r.weightIx e.2) && (r.same im || !t.wroteWeight r))

/-- The sections of an image that are not on the tile. -/
def Tile.absent (im : Image) (t : Tile) : List (Section × Nat) :=
  im.sections.zipIdx.filter (fun e => decide (e.1.kind ≠ 5) && (!t.holdsImage im || t.lostSec im e.2) && !(decide (e.1.kind = 2) && t.holdsWeights im))

/-- A reload at every invocation (R183). -/
def Section.again (x : Section) : Bool := decide (x.kind = 3) && x.reload

/-- Footprints of two images overlap (R180). -/
def Image.overlaps (a b : Image) : Bool := a.sections.any (fun x => b.sections.any (fun y => x.overlaps y))

/-- Bytes to load before the first instruction (11 R353). -/
def Tile.loadBytes (im : Image) (t : Tile) : Nat :=
  (((t.absent im).filter (fun e => decide (e.1.kind ≠ 4))).map (·.1.size)).sum

/-- 24 GB/s, rounded up to a whole ns (11 R353). -/
def loadNs (bytes : Nat) : Nat := (bytes + 23) / 24

/-! ## Loading (R182; 11 R383) -/

/-- The banks of an image's sections come ON; the kiln's load wakes them without a flag (11 R383). -/
def Tile.wakeFor (im : Image) (t : Tile) : Tile :=
  let bs := im.sections.flatMap (fun x => if x.kind = 5 then [] else banksOf x.store x.storeOff x.size)
  bs.foldl (fun t b =>
    if t.bank b = .on then t
    else
      let r := bankRange b
      let t := if t.bank b = .off then t.wipe r.1 r.2.1 r.2.2 else t
      { (t.setBank b .on) with bankReq := t.bankReq.filter (fun q => decide (q.bank ≠ b)) }) t

/-- The current content of a section that a TEMPER job wrote (14 R465). -/
def State.copyOf (im : Image) (i : Nat) (s : State) : Option SecCopy :=
  s.kiln.copies.find? (fun c => decide (c.program = im.programDigest ∧ c.weight = im.weightDigest ∧ c.index = i))

/-- The content of section `i`: the image's own, or its current content, which has the section's size. A REGION has none of
its own. Answers the address of a failing byte. -/
def State.secContent (im : Image) (i : Nat) (x : Section) (s : State) : List Byte × State × Option Nat :=
  match s.copyOf im i with
  | some c => (c.content.take x.size, s, none)
  | none => s.hbmRead (im.addr + x.fileOff) x.length

/-- Section `i` of the image is as it was loaded. -/
def Tile.loaded (im : Image) (i : Nat) (t : Tile) : Tile :=
  let other := fun (e : Image × Nat) => !(decide (e.2 = i) && e.1.same im)
  { t with lost := t.lost.filter other, written := t.written.filter other }

/-- Loads a list of sections into the stores; bytes beyond the content load as zero (R179). Answers a failing HBM address. -/
def State.loadSections (p : Nat) (im : Image) : List (Section × Nat) → State → State × Option Nat
  | [], s => (s, none)
  | (x, i) :: xs, s =>
    let r := s.secContent im i x
    match r.2.2 with
    | some a => (r.2.1, some a)
    | none => State.loadSections p im xs 
        ((r.2.1.storeWrite p x.store x.storeOff (r.1 ++ zeros (x.size - r.1.length))).updTile p (Tile.loaded im i))

/-- What the loader read: the outcome of its check, the state, and the location of a byte that does not read. -/
abbrev Checked := Bool × State × Option W64

/-- The program digest recomputed from HBM is the header's (R182). -/
def State.programMatch (im : Image) (s : State) : Checked :=
  let code := im.sections.filter (fun x => decide (x.kind = 1 ∨ x.kind = 3))
  let r := s.readHbm ((im.addr, 256) :: (im.addr + 256, 32 * im.sections.length) :: code.map (fun x => (im.addr + x.fileOff, x.length)))
  let bs := r.1.map (·.2)
  let h := bs.headD []
  (decide (sha512 (h.take 0x30 ++ zeros 128 ++ h.drop 0xB0 ++ (bs.drop 1).flatten) = im.programDigest), r.2.1, r.2.2)

/-- The weight digest of the content that is loaded equals the header's, or the entry's where a section has a current content
(R182; 14 R465). -/
def State.weightsMatch (im : Image) (s : State) : Checked :=
  let ws := im.sections.zipIdx.filter (fun e => decide (e.1.kind = 2))
  let next := fun (a : List Byte × State × Option W64) (e : Section × Nat) =>
    let c := a.2.1.secContent im e.2 e.1
    (a.1 ++ e.1.entry ++ c.1.take e.1.length, c.2.1, a.2.2.or (c.2.2.map locHbm))
  let r : List Byte × State × Option W64 := ws.foldl next ([], s, none)
  let want : List Byte := match (ws.filterMap (fun e => s.copyOf im e.2)).head? with
    | some c => c.digest
    | none => im.weightDigest
  let got : List Byte := sha512 r.1
  (got == want, r.2.1, r.2.2)

/-- Both digests, the weights' where they are not on the tile already. -/
def State.digestsMatch (im : Image) (weights : Bool) (s : State) : Checked :=
  let a := s.programMatch im
  if weights || a.2.2.isSome then a
  else
    let b := a.2.1.weightsMatch im
    (a.1 && b.1, b.2.1, b.2.2)

/-- What ends a job before its first instruction. -/
inductive Loaded where
  | ok
  | bad (location : W64)
  deriving DecidableEq, Repr

/-- An image is placed on a tile: residents whose footprint it meets are discarded, its banks come ON, and what is not
there is loaded and checked, a REGION as zero (R179, R182, R183); weights that a discarded resident held stay. The location of a
mismatch is the image's address. -/
def State.placeImage (p : Nat) (im : Image) (s : State) : State × Loaded :=
  let t := s.tile p
  let whole := t.whole im
  let weights := t.holdsWeights im
  let todo := t.absent im ++ (im.sections.zipIdx.filter (fun e => e.1.again && !(t.absent im).contains e))
  let anew := fun (l : List (Image × Nat)) => if t.holdsImage im then l else l.filter (fun e => !e.1.same im)
  let t := Tile.wakeFor im { t with
    residents := t.residents.filter (fun r => r.same im || !r.overlaps im)
    lost := anew t.lost, written := anew t.written }
  let s := s.setTile p t
  if im.sections.isEmpty then (s, .ok)
  else
    let r := s.loadSections p im todo
    match r.2 with
    | some a => (r.1, .bad (locHbm a))
    | none =>
      let g := if whole then (true, r.1, none) else r.1.digestsMatch im weights
      (g.2.1.updTile p Tile.trim, match g.2.2 with
        | some l => .bad l
        | none => if g.1 then .ok else .bad (locHbm im.addr))

/-- CONST sections with the reload flag are loaded at the start of each invocation (R183). -/
def State.reloadConst (p : Nat) (im : Image) (s : State) : State × Option Nat :=
  s.loadSections p im (im.sections.zipIdx.filter (fun e => e.1.again))

end Sys2Proof.Machine
end

