-- ==== Sys2Proof/Machine/Pwm.lean ====
section
/-!
DEFINITION. PWM pairs and the trip logic (08 R271 to R283, R289 to R291).
-/

set_option Elab.async false

namespace Sys2Proof.Machine

open Sys2Proof

/-! ## Counts of a periodic event -/

/-- The first of the counts off + k * per at or after `t`. -/
def nextAt (off per t : Nat) : Nat := if t ≤ off ∨ per = 0 then off else off + (t - off + per - 1) / per * per

/-- The last of the counts off + k * per at or before `t`. -/
def lastAt (off per t : Nat) : Option Nat := if t < off ∨ per = 0 then none else some (off + (t - off) / per * per)

/-! ## The carrier (R277 to R280) -/

namespace Pair

def per (x : Pair) : Nat := fld x.time 24 24
def off (x : Pair) : Nat := fld x.time 0 24
def en (x : Pair) : Bool := bit x.cfg 0
def updown (x : Pair) : Bool := bit x.cfg 2

/-- The top value T in steps (R278). -/
def top (x : Pair) : Nat := if x.updown then 6 * x.per else 12 * x.per

/-- TIME holds a legal period and offset (R289). -/
def timeOk (tm : W64) : Bool := decide (400 ≤ fld tm 24 24) && decide (fld tm 0 24 < fld tm 24 24)

/-- The compare of a shadow image, and whether the duty was clamped (R279). -/
def compare (top : Nat) (sh : W64) : Nat × Bool :=
  if bit sh 48 then (min (fld sh 0 32) top, decide (fld sh 0 32 > top))
  else
    let m := sfld sh 0 32
    let c := clampI m (-1073741824) 1073741824
    ((((c + 1073741824) * top + 1073741824) / 2147483648).toNat, decide (c ≠ m))

def dt (x : Pair) : Nat := fld x.active 32 16

/-- The internal command A at a step of 1/12 ns (R278): the position lies below the compare. -/
def command (x : Pair) (u : Nat) : Bool :=
  let c := (compare x.top x.active).1
  let r := (((u : Int) - 12 * x.off) % (12 * x.per)).toNat
  if x.updown then decide (r < c) || decide (r + c ≥ 2 * x.top) && decide (c ≠ 0) else decide (r < c)

/-- One step of the outputs (R280): falling edges at once, rising edges after the dead time; an output that would have turned on
and does not, since A stayed less than dt, is a swallowed pulse. -/
def advance (u : Nat) (x : Pair) : Pair :=
  let rise := fun (y : Pair) => if u ≥ y.riseAt then { y with hOn := y.cmdA, lOn := !y.cmdA } else y
  let a := x.command u
  let y := rise x
  if a = y.cmdA then y
  else rise { y with cmdA := a, hOn := false, lOn := false, riseAt := u + y.dt, swallow := if y.hOn || y.lOn then y.swallow else satAdd y.swallow 1 }

/-- The outputs start at a step: dead time applies to the first edges (R275). -/
def begin_ (u : Nat) (x : Pair) : Pair :=
  let y := { x with safe := false, clearAt := none, cmdA := x.command u, hOn := false, lOn := false, riseAt := u + x.dt }
  y.advance u

/-- The pair stops driving: disabled, or its island reset (R282). -/
def stop (x : Pair) : Pair :=
  { x with safe := true, loaded := false, clearAt := none, cmdA := false, hOn := false, lOn := false, riseAt := 0 }

/-- The island's clock stops: the outputs are off (R283). -/
def still (x : Pair) : Pair := { x with safe := true, clearAt := none, hOn := false, lOn := false }

end Pair

/-- The island of pair `p` is at FIRE, and its clock runs (R283). -/
def State.pwmRuns (p : Nat) (s : State) : Bool := decide ((s.dom (97 + p / 24)).rung = 0)

/-- The counter in steps of 1/12 ns (R277). -/
def Timebase.steps12 (b : Timebase) : Nat := ((b.sec.toNat * 1000000000 + b.ns.toNat) * 2 ^ 32 + b.frac.toNat) * 12 / 2 ^ 32

/-- The steps from `a` to `b`; a counter step is taken whole. -/
def Pair.run (a b : Nat) (x : Pair) : Pair :=
  if x.safe then x
  else if b ≤ a + 24 then (List.range (b - a)).foldl (fun y j => y.advance (a + 1 + j)) x
  else x.advance b

/-- The outputs of every pair that is not safe, for a tick from step `a` to step `b`. -/
def State.runPairs (a b : Nat) (s : State) : State :=
  s.pairs.foldl (fun s e =>
    let y := if s.pwmRuns e.1 then e.2.run a b else e.2
    if y = e.2 then s
    else
      let s := s.setPair e.1 y
      if y.swallow ≠ e.2.swallow then s.event 0x14A e.1 1 else s) s

/-! ## The pins (R281 to R283) -/

/-- In STANDBY the outputs are off, until 2 µs into a promotion or 100 ns after a role swap (R282; 14 R463, R468). -/
def State.onStandby (s : State) : Bool := decide (s.twin.role = .standby) && !s.twin.enabled

/-- The device may drive its PWM pins (R282, R284): SOLO or ACTIVE, and no replay. -/
def State.drives (s : State) : Bool := !s.onStandby && decide (s.wit.mode ≠ .replay)

/-- A power-on reset that RESET_N has not released yet: no strap is sampled (R282). In a warm reset the pins are at their safe level
(15 R493). -/
def State.unreleased (s : State) : Bool := s.mg.inReset && decide (s.mg.resetCause = 0)

/-- The levels of PW_H[p] and PW_L[p]: none is high-Z (R282, 14 R454). The PWM_SAFE strap gives the polarity (R281); an island that is
not at FIRE, or is under test, leaves its pins at the safe level (R283; 14 R483, R485). -/
def State.pins (p : Nat) (s : State) : Option (Bool × Bool) :=
  let x := s.pair p
  let pol := bit s.mg.pwmSafe (p / 24)
  if s.unreleased ∨ s.onStandby ∨ (!s.twin.active ∧ s.twin.peerActive) then none
  else if s.drives && !x.safe && s.pwmRuns p && !s.underTest (97 + p / 24) then some (x.hOn != pol, x.lOn != pol) else some (pol, pol)

/-- The weak pull of the pins of pair `p`: before the release it follows the live level of the island's PWM_SAFE ball (R282; 18 R560). -/
def State.pull (p : Nat) (s : State) : Option Bool := if s.unreleased then some (bit s.mg.safeBall (p / 24)) else none

/-! ## Trip sources and causes (R271 to R276) -/

/-- A latched source maps to the pair, or a cause of its own holds it (R273, R274). -/
def State.caused (p : Nat) (s : State) : Bool :=
  let x := s.pair p
  x.pairCause || x.unitCause ||
    (List.range 83).any (fun n => (s.tripSrc n).latch && bit (s.tripSrc n).mask p)

/-- A pair follows its causes: a cause forces it safe at once and is recorded when the pair had left the safe state
(R274); the last cause that clears starts the wait for its carrier start (R275). -/
def State.settlePair (src p : Nat) (s : State) : State :=
  let x := s.pair p
  if s.caused p then
    if x.safe then s.setPair p { x with clearAt := none }
    else (s.setPair p { x with safe := true, clearAt := none, hOn := false, lOn := false, firstSrc := BitVec.ofNat 7 src,
                               firstStamp := short s.now, firstValid := true }).event 0x14B p 1
  else if x.safe && x.loaded && x.clearAt.isNone then s.setPair p { x with clearAt := some s.now }
  else s

def State.settlePairs (src : Nat) (s : State) : State := (List.range 48).foldl (fun s p => s.settlePair src p) s

/-- Source `n` is raised: its latch sets (R273). -/
def State.raiseTrip (n : Nat) (s : State) : State :=
  (s.updTrip n (fun t => { t with raised := true, latch := true })).settlePairs n

/-- Source `n` clears; its latch stays. -/
def State.lowerTrip (n : Nat) (s : State) : State := s.updTrip n (fun t => { t with raised := false })

/-- A write of 1 to a latch clears it only if its source is not raised (R273). -/
def State.clearLatch (n : Nat) (s : State) : State :=
  if (s.tripSrc n).raised then s else (s.updTrip n (fun t => { t with latch := false })).settlePairs n

/-- Filter of a source in nanoseconds (R291). -/
def TripSrc.filterNs (t : TripSrc) : Nat := 4 * t.filter.toNat

/-- The edge of a TRIP_N input after its filter: low raises the source (R273, R284). -/
def State.tripEdge (n : Nat) (low : Bool) (s : State) : State :=
  let s := s.witness 0x12 0 s.now [BitVec.ofNat 8 n, if low then 0 else 1]
  if low then s.raiseTrip n else s.lowerTrip n

/-- A pulse shorter than the filter is ignored; in REPLAY the log replaces the pin (R273, R284). -/
def State.tripInput (n : Nat) (low : Bool) (width : Nat) (s : State) : State :=
  if s.wit.mode = .replay ∨ (low ∧ width < (s.tripSrc n).filterNs) ∨ (s.tripSrc n).raised = low then s else s.tripEdge n low

/-! ## Shadow loads and resume (R26, R275, R280, R282) -/

/-- A pair's shadow is written at count `c`; a load point on the same count still takes the value before (R26). -/
def State.shadowWrite (c p : Nat) (v : W64) (s : State) : State :=
  s.updPair p (fun x => { x with shadow := v, shadowAt := some c, shadowOld := if x.shadowAt = some c then x.shadowOld else x.shadow })

/-- The duty field written by a loop slot (07 R234). -/
def State.dutyWrite (c p : Nat) (v : W32) (s : State) : State := s.shadowWrite c p (setFld (s.pair p).shadow 0 32 v.toNat)

/-- The count of the last load point at or before `t` (R280). -/
def Pair.loadPoint (t : Nat) (x : Pair) : Option Nat :=
  let v := if bit x.cfg 3 then lastAt x.off x.per t else none
  let k := if bit x.cfg 4 && x.updown then lastAt (x.off + x.per / 2) x.per t else none
  match v, k with
  | some a, some b => some (max a b)
  | some a, none => some a
  | none, b => b

/-- The load of the last load point: duty, fmt and dt together. The first load lets a pair without a cause drive. -/
def State.shadowLoad (p : Nat) (s : State) : State :=
  let x := s.pair p
  match x.loadPoint s.now with
  | none => s
  | some l =>
    if !x.en || l ≤ x.loadedTo || !s.pwmRuns p then s
    else
      let sh := match x.shadowAt with
        | some w => if w < l then x.shadow else x.shadowOld
        | none => x.shadow
      let cl := (Pair.compare x.top sh).2
      let y := { x with active := sh, loaded := true, loadedTo := l, clamp := if cl then satAdd x.clamp 1 else x.clamp }
      let y := if !x.loaded && !s.caused p then y.begin_ s.tb.steps12 else y
      let s := (s.setPair p y).event 0x148 p 1
      if cl then s.event 0x149 p 1 else s

/-- A pair whose causes have cleared resumes at its next carrier start (R275). -/
def State.pairResume (p : Nat) (s : State) : State :=
  let x := s.pair p
  match x.clearAt with
  | none => s
  | some c =>
    if x.en && x.loaded && x.safe && !s.caused p && s.pwmRuns p && decide (nextAt x.off x.per c ≤ s.now) then s.setPair p (x.begin_ s.tb.steps12)
    else s

/-- A PWM island reaches a rung: off FIRE its pairs are at their safe level; back at FIRE those without a cause wait for their carrier
start, as after a cause (R283, R275; log entry 190). -/
def State.islandRung (i : Nat) (s : State) : State :=
  s.pairs.foldl (fun s e =>
    if e.1 / 24 ≠ i then s
    else if s.pwmRuns e.1 then s.updPair e.1 (fun x => if x.safe && x.loaded && x.clearAt.isNone && !s.caused e.1 then { x with clearAt := some s.now } else x)
    else s.updPair e.1 Pair.still) s

/-! ## Enabling and registers (R280, R289 to R291) -/

/-- The pair takes a configuration: enabling starts its carrier, disabling leaves it at its safe level (R282). -/
def State.pairConfigure (p : Nat) (cfg : W64) (s : State) : State :=
  s.updPair p (fun x =>
    if bit cfg 0 then (if x.en then { x with cfg := cfg } else { x with cfg := cfg, loadedTo := s.now })
    else { x with cfg := cfg }.stop)

/-- A pair unbound: disabled, and its registers at reset. -/
def State.pairUnbind (p : Nat) (s : State) : State :=
  s.updPair p (fun x => ({ x with cfg := 0, time := 0, shadow := 0, active := 0, shadowAt := none, shadowOld := 0, loadedTo := 0 } : Pair).stop)

def State.pwmPeek (o : Nat) (s : State) : Option W64 :=
  if o % 8 ≠ 0 then none
  else if o < 0xC00 then
    let x := s.pair (o / 0x40)
    match o % 0x40 with
    | 0x00 => some (x.cfg &&& 0x1D)
    | 0x08 => some (x.time &&& 0xFFFFFFFFFFFF)
    | 0x10 => some (x.shadow &&& 0x1FFFFFFFFFFFF)
    | 0x18 => some (x.active &&& 0x1FFFFFFFFFFFF)
    | 0x20 => some (at64 x.firstStamp.toNat 32 ||| at64 x.firstSrc.toNat 25 ||| at64 (b2n x.safe) 24 ||| at64 (b2n x.pairCause) 23 |||
        at64 (b2n x.firstValid) 16 ||| at64 x.swallow.toNat 8 ||| at64 x.clamp.toNat 0)
    | _ => none
  else if 0x1000 ≤ o ∧ o < 0x1000 + 8 * 83 then
    let t := s.tripSrc ((o - 0x1000) / 8)
    some (at64 (b2n t.latch) 63 ||| at64 (b2n t.raised) 62 ||| at64 t.filter.toNat 60 ||| at64 t.mask.toNat 0)
  else if o = 0x1400 then some (at64 (b2n s.tripSw) 0)
  else none

def State.pwmClear (o : Nat) (s : State) : State :=
  if o < 0xC00 ∧ o % 0x40 = 0x20 then s.updPair (o / 0x40) (fun x => { x with swallow := 0, clamp := 0 }) else s

/-- PWM_TRIP_SW raises source 81 while its bit 0 is 1 (R291). -/
def State.softTrip (on : Bool) (s : State) : State :=
  let s := { s with tripSw := on }
  if on then (if (s.tripSrc 81).raised then s else s.raiseTrip 81) else s.lowerTrip 81

/-- A write of the pair registers; `byslot` says that a slot writes the pair (R289). -/
def State.pairPoke (p r : Nat) (v m : W64) (byslot : Bool) (s : State) : Option State :=
  let x := s.pair p
  match r with
  | 0x00 =>
    let w := mask64 x.cfg v m &&& 0x1D
    if x.en && bit w 0 && decide (bit w 2 ≠ bit x.cfg 2) then none
    else if bit w 0 && !x.en && !Pair.timeOk x.time then none
    else some (s.pairConfigure p w)
  | 0x08 =>
    let w := mask64 x.time v m &&& 0xFFFFFFFFFFFF
    if w = x.time then some s else if x.en || !Pair.timeOk w then none else some (s.setPair p { x with time := w })
  | 0x10 => if byslot then none else some (s.shadowWrite s.now p (mask64 x.shadow v m &&& 0x1FFFFFFFFFFFF))
  | 0x18 => some s
  | 0x20 => some (if bit v 23 && bit m 23 then (s.setPair p { x with pairCause := false }).settlePair 0x7E p else s)
  | _ => none

/-- A write of a trip source (R291): the masks of sources 80 and 82 are fixed. -/
def State.tripPoke (n : Nat) (v m : W64) (s : State) : Option State :=
  let t := s.tripSrc n
  let w := mask64 (at64 t.filter.toNat 60 ||| at64 t.mask.toNat 0) v m
  if fld w 60 2 = 3 then none
  else
    let t' := { t with filter := BitVec.ofNat 2 (fld w 60 2),
                       mask := if n = 80 ∨ n = 82 then t.mask else BitVec.ofNat 48 (fld w 0 48) }
    let s := (s.setTrip n t').settlePairs n
    some (if bit v 63 && bit m 63 then s.clearLatch n else s)

def State.pwmPoke (o : Nat) (v m : W64) (byslot : Bool) (s : State) : Option State :=
  if o % 8 ≠ 0 then none
  else if o < 0xC00 then s.pairPoke (o / 0x40) (o % 0x40) v m byslot
  else if 0x1000 ≤ o ∧ o < 0x1000 + 8 * 83 then s.tripPoke ((o - 0x1000) / 8) v m
  else if o = 0x1400 then some (s.softTrip (bit (mask64 (at64 (b2n s.tripSw) 0) v m) 0))
  else none

/-! ## The events -/

/-- TRIP_N[n] changes level (R271 to R276). -/
def execTripInput (n : Nat) (low : Bool) (width : Nat) (s : State) : Res := within n 16 (s.tripInput n low width)

/-- A pair resumes (R275). -/
def execPairResume (n : Nat) (s : State) : Res := within n 48 (s.pairResume n)

/-- A shadow load point (R26, R277 to R282). -/
def execShadowLoad (n : Nat) (s : State) : Res := within n 48 (s.shadowLoad n)

end Sys2Proof.Machine
end

