-- ==== Sys2Proof/Machine/Factor.lean ====
section
/-!
DEFINITION. The factor unit: LDLᵀ, LLᵀ, square-root-free QR, triangular solves and rank-one updates under the pivot
policy (06 R190 to R197). Every product and sum is one fused multiply-add of 03 R93, in ascending index order.
-/

set_option Elab.async false

namespace Sys2Proof.Machine

open Sys2Proof

/-- What a command of the factor unit gathers: flags, replaced pivots, and whether the job ends as singular. Once it does, nothing
more is gathered (R195, R197). -/
structure FacAcc where
  flags : W32 := 0
  pert : Nat := 0
  first : Nat := 0xFFFF
  bad : Bool := false
  deriving DecidableEq, Repr

abbrev Fac := StateM FacAcc

/-- The value of an operation; its flags are kept. -/
def Fac.op (r : W32 × W32) : Fac W32 := fun a => (r.1, if a.bad then a else { a with flags := a.flags ||| r.2 })

def Fac.fail : Fac Unit := fun a => ((), { a with bad := true })

def Fac.perturb (i : Nat) : Fac Unit := fun a =>
  ((), if a.bad then a else { a with pert := a.pert + 1, first := if a.pert = 0 then i else a.first, flags := a.flags ||| Fl.perturbed })

/-- A product, as an FMA with a +0 addend. -/
def facMul (a b : W32) : Fac W32 := Fac.op (fma a b 0)

/-- acc - a * b. -/
def facSub (a b acc : W32) : Fac W32 := Fac.op (fma (fneg a) b acc)

def mapFac {α β : Type} (f : α → Fac β) : List α → Fac (List β)
  | [] => pure []
  | a :: as => do
    let b ← f a
    let bs ← mapFac f as
    pure (b :: bs)

/-- A fold in list order. -/
def foldFac {α β : Type} (f : β → α → Fac β) : β → List α → Fac β
  | b, [] => pure b
  | b, a :: as => do
    let b' ← f b a
    foldFac f b' as

/-! ## Pivots (R193 to R195) -/

def fabs32 (x : W32) : W32 := x &&& 0x7FFFFFFF

/-- The pivot settings of a command. -/
structure Pivot where
  tau : Nat
  delta : Nat
  dis : Bool
  deriving DecidableEq, Repr

/-- Zero selects the default exponents 20 and 26 (R189). -/
def pivotOf (tau delta : Nat) (dis : Bool) : Pivot :=
  { tau := if tau = 0 then 20 else tau, delta := if delta = 0 then 26 else delta, dis := dis }

def pow2 (e : Int) : Num := .fin false 1 e

/-- The largest magnitude; NaN if one is NaN. -/
def maxMag (xs : List W32) : Fac W32 := foldFac (fun m x => Fac.op (fminmax true m (fabs32 x))) 0 xs

/-- The largest value, with its sign; NaN if one is NaN. -/
def maxVal : List W32 → Fac W32
  | [] => pure 0
  | x :: xs => foldFac (fun m y => Fac.op (fminmax true m y)) x xs

/-- delta = max(delta_rel * M, 2^-100). -/
def Pivot.repl (v : Pivot) (m : W32) : W32 :=
  let a := Num.mul (f32Num m) (pow2 (-(v.delta : Int)))
  (num32 (if a.gt (pow2 (-100)) then a else pow2 (-100))).1

/-- A small pivot: at most tau * M, or below 2^-100; Cholesky takes the pivot with its sign. -/
def Pivot.small (v : Pivot) (signed : Bool) (m p : W32) : Bool :=
  let x := if signed then f32Num p else (f32Num p).abs
  let t := Num.mul (f32Num m) (pow2 (-(v.tau : Int)))
  (f32Num p).isFin && ((f32Num m).isZero || !x.gt t || (pow2 (-100)).gt (f32Num p).abs)

/-- One pivot under the policy; `neg` is the sign of a replacement. -/
def Pivot.take (v : Pivot) (signed neg : Bool) (m : W32) (i : Nat) (p : W32) : Fac W32 := do
  if fnan p || fnan m then
    Fac.fail
    pure p
  else if v.small signed m p then
    if v.dis then
      Fac.fail
      pure p
    else
      Fac.perturb i
      pure (if neg then fneg (v.repl m) else v.repl m)
  else pure p

/-! ## The factor (R190) -/

/-- A factor: its rows from the diagonal on, the reciprocals of the pivots, the carried right-hand sides, and how many pivots have been
replaced with the index of the first. -/
structure Factor where
  kind : Nat
  rows : List (List W32)
  recs : List W32
  ys : List (List W32)
  maxDiag : W32
  delta : W32
  rss : List W32
  pert : Nat := 0
  first : Nat := 0xFFFF
  deriving DecidableEq, Repr

/-- Replacements go on counting from those of the factor (R194). -/
def Factor.acc (f : Factor) : FacAcc := { pert := f.pert, first := f.first }

/-- The upper triangle, row by row, of a full row-major matrix; `upper` chooses the triangle that is read. -/
def triangle (n : Nat) (upper : Bool) (a : List W32) : List (List W32) :=
  (List.range n).map (fun i => (List.range (n - i)).map (fun k => if upper then a.getD (i * n + i + k) 0 else a.getD ((i + k) * n + i) 0))

/-- The rows of a packed upper triangle. -/
def packedRows : Nat → List W32 → List (List W32)
  | 0, _ => []
  | n + 1, a => a.take (n + 1) :: packedRows n (a.drop (n + 1))

def diagOf (rows : List (List W32)) : List W32 := rows.map (fun r => r.headD 0)

/-- The remaining rows less a multiple of the pivot row: row m loses mult_m * v, from its own column on. -/
def eliminate : List W32 → List W32 → List (List W32) → Fac (List (List W32))
  | u :: us, v, r :: rs => do
    let r' ← mapFac (fun x => facSub u x.1 x.2) (v.zip r)
    let rs' ← eliminate us (v.drop 1) rs
    pure (r' :: rs')
  | _, _, rs => pure rs

/-- LDLᵀ (R191, R193): unit rows, with the pivots on the diagonal. -/
def ldlGo (v : Pivot) (m : W32) (signs : List Bool) : Nat → Nat → List (List W32) → Fac (List (List W32) × List W32)
  | n + 1, i, (d :: r) :: rs => do
    let d ← v.take false (signs.getD i false) m i d
    let q ← Fac.op (frcp d)
    let u ← mapFac (fun x => facMul x q) r
    let rs ← eliminate u r rs
    let t ← ldlGo v m signs n (i + 1) rs
    pure ((d :: u) :: t.1, q :: t.2)
  | _, _, _ => pure ([], [])

def fldl (v : Pivot) (rows : List (List W32)) : Fac Factor := do
  let m ← maxMag (diagOf rows)
  let t ← ldlGo v m ((diagOf rows).map (fun x => bit x 31 && !(f32Num x).isZero)) rows.length 0 rows
  pure { kind := 1, rows := t.1, recs := t.2, ys := [], maxDiag := m, delta := v.repl m, rss := [] }

/-- LLᵀ (R191, R193): the reciprocal is RSQ of the pivot, and the diagonal is the pivot times it. -/
def cholGo (v : Pivot) (m : W32) : Nat → Nat → List (List W32) → Fac (List (List W32) × List W32)
  | n + 1, i, (d :: r) :: rs => do
    let d ← v.take true false m i d
    let q ← Fac.op (frsq d)
    let l ← facMul d q
    let u ← mapFac (fun x => facMul x q) r
    let rs ← eliminate u u rs
    let t ← cholGo v m n (i + 1) rs
    pure ((l :: u) :: t.1, q :: t.2)
  | _, _, _ => pure ([], [])

def fchol (v : Pivot) (rows : List (List W32)) : Fac Factor := do
  let m ← maxMag (diagOf rows)
  let t ← cholGo v m rows.length 0 rows
  pure { kind := 0, rows := t.1, recs := t.2, ys := [], maxDiag := m, delta := v.repl m, rss := [] }

/-! ## Square-root-free QR (R192) -/

/-- One streamed row is rotated against the rows of the factor; answers the rows and what remains of its right-hand
sides, with its weight. A rotation is skipped where x[j] is ±0 and nowhere else (R192; log entry 70). -/
def givensRow : List (List W32) → List (List W32) → W32 → List W32 → List W32 → Fac (List (List W32) × List (List W32) × W32 × List W32)
  | (d :: r) :: rs, y :: ys, w, x :: xs, e => do
    let xf ← Fac.op (f32Flush x, f32Fz x)
    if (f32Num xf).isZero then
      let u ← givensRow rs ys w xs e
      pure ((d :: r) :: u.1, y :: u.2.1, u.2.2)
    else
      let t ← facMul w x
      let dn ← Fac.op (fma t x d)
      let q ← Fac.op (frcp dn)
      let sn ← facMul t q
      let c ← facMul d q
      let w' ← facMul w c
      let xs' ← mapFac (fun k => facSub x k.1 k.2) (r.zip xs)
      let r' ← mapFac (fun k => Fac.op (fma sn k.2 k.1)) (r.zip xs')
      let e' ← mapFac (fun k => facSub x k.1 k.2) (y.zip e)
      let y' ← mapFac (fun k => Fac.op (fma sn k.2 k.1)) (y.zip e')
      let u ← givensRow rs ys w' xs' e'
      pure ((dn :: r') :: u.1, y' :: u.2.1, u.2.2)
  | rs, ys, w, _, e => pure (rs, ys, w, e)

/-- Rows are streamed in order; each adds w * e * e to the residual sums that are kept. -/
def givensRows : List (W32 × List W32 × List W32) → List (List W32) → List (List W32) → List W32 → Fac (List (List W32) × List (List W32) × List W32)
  | [], rs, ys, ss => pure (rs, ys, ss)
  | (w, x, e) :: t, rs, ys, ss => do
    let g ← givensRow rs ys w x e
    let ss' ← mapFac (fun (k : W32 × W32) => do
      let we ← facMul g.2.2.1 k.2
      Fac.op (fma we k.2 k.1)) (ss.zip g.2.2.2)
    givensRows t g.1 g.2.1 ss'

/-- The pivot policy once all rows are streamed: row j becomes the unit row, its right-hand sides +0, d_j +delta (R194). -/
def qrPivots (v : Pivot) (m : W32) : Nat → List (List W32) → List (List W32) → Fac (List (List W32) × List (List W32) × List W32)
  | i, (d :: r) :: rs, y :: ys => do
    let d' ← v.take false false m i d
    let q ← Fac.op (frcp d')
    let t ← qrPivots v m (i + 1) rs ys
    let repl := v.small false m d && !fnan d && !fnan m
    pure ((d' :: (if repl then r.map (fun _ => 0) else r)) :: t.1, (if repl then y.map (fun _ => 0) else y) :: t.2.1, q :: t.2.2)
  | _, _, _ => pure ([], [], [])

/-- Streams rows into a factor (FGIVENS), or into a cleared one (FQR). -/
def fgivens (v : Pivot) (f : Factor) (rows : List (W32 × List W32 × List W32)) : Fac Factor := do
  let g ← givensRows rows f.rows f.ys f.rss
  let m ← maxVal (diagOf g.1)
  let p ← qrPivots v m 0 g.1 g.2.1
  pure { kind := 2, rows := p.1, recs := p.2.2, ys := p.2.1, maxDiag := m, delta := v.repl m, rss := g.2.2 }

/-- A cleared factor: d = 0 and R = 0. A residual sum is kept of right-hand side 0 (R190, R192). -/
def clearedFactor (n r : Nat) : Factor :=
  { kind := 2, rows := (List.range n).map (fun i => List.replicate (n - i) 0), recs := List.replicate n 0,
    ys := List.replicate n (List.replicate r 0), maxDiag := 0, delta := 0, rss := List.replicate (min r 1) 0 }

/-! ## Triangular solves (R189, R191, R196) -/

/-- L y = b, where row k of the factor is column k of L. -/
def forward (unit : Bool) : List (List W32) → List W32 → List W32 → Fac (List W32)
  | r :: rs, qs, b :: bs => do
    let y ← if unit then pure b else facMul b (qs.headD 0)
    let bs' ← mapFac (fun x => facSub x.1 y x.2) (((r.drop 1).zip bs))
    let ys ← forward unit rs (qs.drop 1) bs'
    pure (y :: ys)
  | _, _, _ => pure []

/-- U x = b: each row subtracts in ascending index order what the rows below it have given. -/
def backward (unit : Bool) : List (List W32) → List W32 → List W32 → Fac (List W32)
  | r :: rs, qs, b :: bs => do
    let xs ← backward unit rs (qs.drop 1) bs
    let a ← foldFac (fun acc x => facSub x.1 x.2 acc) b ((r.drop 1).zip xs)
    let x ← if unit then pure a else facMul a (qs.headD 0)
    pure (x :: xs)
  | _, _, _ => pure []

/-- FTRSV of one right-hand side: 0 unit lower, 1 unit upper, 2 lower, 3 upper, 4 LDLᵀ, 5 LLᵀ. -/
def ftrsv (mode : Nat) (f : Factor) (b : List W32) : Fac (List W32) :=
  match mode with
  | 0 => forward true f.rows f.recs b
  | 1 => backward true f.rows f.recs b
  | 2 => forward false f.rows f.recs b
  | 3 => backward false f.rows f.recs b
  | 4 => do
    let y ← forward true f.rows f.recs b
    let z ← mapFac (fun x => facMul x.1 x.2) (y.zip f.recs)
    backward true f.rows f.recs z
  | _ => do
    let y ← forward false f.rows f.recs b
    backward false f.rows f.recs y

/-- The kinds of factor a mode solves with. -/
def modeKind (mode kind : Nat) : Bool :=
  match mode with
  | 0 => decide (kind = 1 ∨ kind = 2)
  | 1 => decide (kind = 1 ∨ kind = 2)
  | 4 => decide (kind = 1)
  | _ => decide (kind = 0)

/-! ## Rank-one updates -/

/-- The rotation of R192 with weight +1 or -1 against each row of an LDLᵀ factor, each updated pivot under the policy
(R193, R194). -/
def updateGo (v : Pivot) (m : W32) : Nat → List (List W32) → W32 → List W32 → Fac (List (List W32) × List W32)
  | i, (d :: r) :: rs, w, x :: xs => do
    let t ← facMul w x
    let dn ← Fac.op (fma t x d)
    let dn ← v.take false (bit d 31) m i dn
    let q ← Fac.op (frcp dn)
    let sn ← facMul t q
    let c ← facMul d q
    let w' ← facMul w c
    let xs' ← mapFac (fun k => facSub x k.1 k.2) (r.zip xs)
    let r' ← mapFac (fun k => Fac.op (fma sn k.2 k.1)) (r.zip xs')
    let u ← updateGo v m (i + 1) rs w' xs'
    pure ((dn :: r') :: u.1, q :: u.2)
  | _, _, _, _ => pure ([], [])

def fupdate (v : Pivot) (down : Bool) (f : Factor) (x : List W32) : Fac Factor := do
  let m ← maxMag (diagOf f.rows)
  let t ← updateGo v m 0 f.rows (if down then 0xBF800000 else 0x3F800000) x
  pure { f with rows := t.1, recs := t.2, maxDiag := m, delta := v.repl m }

/-! ## Cycles (R191): occupancy and added latency -/

def ceilDiv (a b : Nat) : Nat := (a + b - 1) / b

/-- FCHOL and FLDL. -/
def fldlCycles (n : Nat) : Nat := ceilDiv (n * (n * n - 1)) 96 + 14 * n + 30

def fqrCycles (n rows r : Nat) : Nat :=
  ceilDiv ((rows - n) * (n * (n - 1 + 2 * r)) / 2 + n * (n - 1) * (2 * n - 1 + 3 * r) / 6) 8 + 4 * n + 40

def fgivensCycles (n rows r : Nat) : Nat := ceilDiv (rows * (n * (n - 1 + 2 * r))) 16 + 4 * n + 40

def ftrsvCycles (mode n r : Nat) : Nat :=
  (match mode with
   | 0 => ceilDiv (r * (n * (n - 1))) 32
   | 1 => ceilDiv (r * (n * (n - 1))) 32
   | 2 => ceilDiv (r * (n * (n + 1))) 32
   | 3 => ceilDiv (r * (n * (n + 1))) 32
   | 4 => ceilDiv (r * (n * n)) 16
   | _ => ceilDiv (r * (n * (n + 1))) 16) + n + 20

def fupdateCycles (n : Nat) : Nat := ceilDiv (n * n) 16 + 14 * n + 30

/-- FTRSV of any number of right-hand sides, 16 to a command. -/
def ftrsvAll (mode n r : Nat) : Nat := r / 16 * ftrsvCycles mode n 16 + (if r % 16 = 0 then 0 else ftrsvCycles mode n (r % 16))

/-! ## The factor area (R190) -/

/-- Bytes of a factor area. -/
def facBytes (n r : Nat) : Nat := 64 + 4 * (n * (n + 1) / 2 + n + n * r)

/-- The header's 64 bytes. -/
def facHeader (valid : Nat) (n : Nat) (f : Factor) (a : FacAcc) : List Byte :=
  leBytes 4 valid ++ leBytes 2 n ++ leBytes 1 f.kind ++ zeros 1 ++ w32Bytes f.maxDiag ++ w32Bytes f.delta ++ leBytes 4 a.pert ++
    leBytes 2 a.first ++ zeros 2 ++ w32Bytes (f.rss.headD 0) ++ zeros 36

def facBody (f : Factor) : List Byte :=
  (f.rows.flatMap (fun r => r.flatMap w32Bytes)) ++ f.recs.flatMap w32Bytes ++ f.ys.flatMap (fun y => y.flatMap w32Bytes)

/-- The factor that an area holds: valid, of order `n`, with `r` right-hand sides. -/
def factorOf (n r : Nat) (bs : List Byte) : Option Factor :=
  if leAt 0 4 bs = 1 ∧ leAt 4 2 bs = n then
    let t := n * (n + 1) / 2
    let ws := (List.range (t + n + n * r)).map (fun k => w32At (64 + 4 * k) bs)
    some { kind := leAt 6 1 bs, rows := packedRows n ws, recs := (ws.drop t).take n,
           ys := (List.range n).map (fun i => (ws.drop (t + n + i * r)).take r), maxDiag := w32At 8 bs, delta := w32At 0xC bs,
           rss := if r = 0 then [] else [w32At 0x18 bs], pert := leAt 0x10 4 bs, first := leAt 0x14 2 bs }
  else none

end Sys2Proof.Machine
end

