-- ==== Sys2Proof/Machine/Codes.lean ====
section
/-!
DEFINITION. The major and minor codes of an instruction word, and the instruction that they name (05 R143, R145, R147).
-/

set_option Elab.async false

namespace Sys2Proof.Machine

open Sys2Proof

/-- The instruction classes (R145). -/
inductive Major where
  | sys | alu | alui | muldiv | pred | branch | ldst | time | mbox | coil | rnghash | power | vint | vfp | vcvt | vldst | vquant | vproj
  | vtemper | mat | fac | dma | cmt
  deriving DecidableEq, Repr

/-- The class of a major code; every other code is reserved (R145). -/
def majorOf : Nat → Option Major
  | 0x00 => some .sys
  | 0x01 => some .alu
  | 0x02 => some .alui
  | 0x03 => some .muldiv
  | 0x04 => some .pred
  | 0x05 => some .branch
  | 0x06 => some .ldst
  | 0x07 => some .time
  | 0x08 => some .mbox
  | 0x09 => some .coil
  | 0x0A => some .rnghash
  | 0x0B => some .power
  | 0x10 => some .vint
  | 0x11 => some .vfp
  | 0x12 => some .vcvt
  | 0x13 => some .vldst
  | 0x14 => some .vquant
  | 0x15 => some .vproj
  | 0x16 => some .vtemper
  | 0x20 => some .mat
  | 0x21 => some .fac
  | 0x22 => some .dma
  | 0x23 => some .cmt
  | _ => none

/-- How an instruction of a class is made from its tile and bits [47:0]: the minor codes from 0 upward, none where a code
is reserved (R147). VCVT is not among them: its minor code names two formats. -/
def minors : Major → List (Option (Nat → BitVec 48 → Instr))
  | .sys => [some .nop, some .jend, some .fpbar, some .idle, some .flgrd, some .flgclr, some .trapw]
  | .alu => [some .add, some .sub, some .and, some .or, some .xor, some .shl, some .shr, some .sar, some .mov, some .adds, some .subs]
  | .alui => [some .addi, none, some .andi, some .ori, some .xori, some .shli, some .shri, some .sari, some .movi, some .movhi, some .addsi]
  | .muldiv => [some .mul, some .mulh, some .mulhu, some .mulhsu, some .div, some .divu, some .rem, some .remu]
  | .pred => [some .cmp, some .pand, some .por, some .pxor, some .pnot]
  | .branch => [some .br, some .call, some .ret, some .loop]
  | .ldst => [some .ldW, some .ldD, some .stW, some .stD]
  | .time => [some .tbreadS, some .tbreadL, some .tbdl, some .tbwait]
  | .mbox => [some .mbwr]
  | .coil => [some .copen, some .cclose, some .cfill, some .chead, some .cpopn, some .clast, some .cwait, some .cdrain, some .cpushn]
  | .rnghash => [some .vrand, some .hsha, some .hwait]
  | .power => [some .bankpwr, some .bpwait]
  | .vint => [some .vadd, some .vsub, some .vand, some .vor, some .vxor, some .vshl, some .vshr, some .vsar, some .vadds, some .vsubs, some .vmulI,
      some .vmuls, some .vmin, some .vmax, some .vcmp, some .vsel, some .vneg, some .vabs, some .vbcast]
  | .vfp => [some .vaddF, some .vsubF, some .vmulF, some .vmulaF, some .vminF, some .vmaxF, some .vminnum, some .vmaxnum, some .vcmpF, some .vselF,
      some .vnegF, some .vabsF, some .vcpysgn]
  | .vcvt => []
  | .vldst => [some .vld, some .vst, some .vmovg]
  | .vquant => [some .vqb, some .vdqb, some .vreq]
  | .vproj => [some .vclamp, some .vredAddF, some .vredAddI, some .vredMaxF]
  | .vtemper => [0, 1, 2, 3].map (fun m => some (fun t f => .tstore t m f))
  | .mat => [some .mmul, some .mmulz]
  | .fac => [some .fchol, some .fldl, some .fqr, some .fgivens, some .ftrsv, some .fupdate]
  | .dma => [some .dpush, some .dwait, some .dqcfg]
  | .cmt => [some .cminit, some .cmoffer, some .cmstat]

/-- The instruction of tile `t` that a word spells; none where its major or minor code is reserved (R143, R145 to R147). -/
def tileInstr (t : Nat) (w : W64) : Option Instr :=
  let f : BitVec 48 := w.setWidth 48
  let minor := fld w 48 8
  match majorOf (fld w 56 8) with
  | none => none
  | some .vcvt => some (.vcvt t (BitVec.ofNat 8 minor) f)
  | some m => ((minors m).getD minor none).map (fun make => make t f)

end Sys2Proof.Machine
end

