-- ==== Sys2Proof/Machine/Operands.lean ====
section
/-!
DEFINITION. The instruction formats of a tile, its registers, and the issue of one instruction (05 R141 to R149, R164).
A command names the physical tile and bits [47:0] of the word; its constructor gives the major and minor codes.
-/

set_option Elab.async false

namespace Sys2Proof.Machine

open Sys2Proof

/-! ## Fields (R143, R144) -/

namespace Fmt

def guard (f : BitVec 48) : Nat := fld f 45 3
def gneg (f : BitVec 48) : Bool := bit f 44
/-- [43:39]: d, vd, the a of formats B and E. -/
def d (f : BitVec 48) : Nat := fld f 39 5
/-- [38:34]: a, va, the base of format M, the queue of format E. -/
def a (f : BitVec 48) : Nat := fld f 34 5
/-- [33:29]: b, vb. -/
def b (f : BitVec 48) : Nat := fld f 29 5
/-- [28:24]: c, vc. -/
def c (f : BitVec 48) : Nat := fld f 24 5
/-- The modifier of format R. -/
def rmod (f : BitVec 48) : Nat := fld f 0 24
/-- The modifier of format I. -/
def imod (f : BitVec 48) : Nat := fld f 32 2
def imm (f : BitVec 48) : W32 := f.setWidth 32
/-- imm32, sign-extended. -/
def simm (f : BitVec 48) : W64 := (imm f).signExtend 64
/-- The store of format M. -/
def store (f : BitVec 48) : Nat := fld f 32 2
/-- The modifier of format M, bits [31:22]. -/
def mmod (f : BitVec 48) : Nat := fld f 22 10
/-- The signed byte offset of format M. -/
def moff (f : BitVec 48) : W64 := (f.setWidth 22 : BitVec 22).signExtend 64
/-- The modifier of format E, bits [33:0]. -/
def emod (f : BitVec 48) : Nat := fld f 0 34
/-- The mask, lane type and modifier of format V. -/
def k (f : BitVec 48) : Nat := fld f 21 3
def lt (f : BitVec 48) : Nat := fld f 19 2
def vmod (f : BitVec 48) : Nat := fld f 0 19

end Fmt

/-! ## Registers (R141) -/

namespace Ctx

/-- g0 reads zero. -/
def reg (n : Nat) (c : Ctx) : W64 := if n = 0 then 0 else Tbl.get 0 n c.g
/-- Writes to g0 are ignored. -/
def setReg (n : Nat) (v : W64) (c : Ctx) : Ctx := if n = 0 then c else { c with g := Tbl.set 0 n v c.g }
/-- p0 reads 1. -/
def pred (n : Nat) (c : Ctx) : Bool := if n = 0 then true else Tbl.get false n c.p
def setPred (n : Nat) (v : Bool) (c : Ctx) : Ctx := if n = 0 then c else { c with p := Tbl.set false n v c.p }
def vec (n : Nat) (c : Ctx) : BitVec 2048 := Tbl.get 0 n c.v
def setVec (n : Nat) (v : BitVec 2048) (c : Ctx) : Ctx := { c with v := Tbl.set 0 n v c.v }
/-- k0 reads all ones. -/
def mask (n : Nat) (c : Ctx) : W64 := if n = 0 then BitVec.allOnes 64 else Tbl.get 0 n c.k
def setMask (n : Nat) (v : W64) (c : Ctx) : Ctx := if n = 0 then c else { c with k := Tbl.set 0 n v c.k }

/-- The guard condition of a word (R144). -/
def guarded (f : BitVec 48) (c : Ctx) : Bool := c.pred (Fmt.guard f) != Fmt.gneg f

/-- A fetch inside the image's CODE sections (R146). -/
def inCode (c : Ctx) : Bool :=
  c.job.image.sections.any (fun x => decide (x.kind = 1 ∧ x.storeOff ≤ 8 * c.pc ∧ 8 * c.pc + 8 ≤ x.storeOff + x.size))

/-- pc names one of the 32,768 words of the I-store (R141). -/
def jump (n : Nat) (c : Ctx) : Ctx := { c with pc := n % 32768 }

end Ctx

/-! ## Format checks (R146, R147) -/

/-- The .W form is the only modifier of ALU and MULDIV; c is not used. -/
def goodAlu (f : BitVec 48) : Bool := decide (Fmt.c f = 0 ∧ fld f 1 23 = 0)
/-- The same, with one operand. -/
def goodAlu1 (f : BitVec 48) : Bool := goodAlu f && decide (Fmt.b f = 0)
def goodAlui (f : BitVec 48) : Bool := decide (fld f 33 1 = 0)
/-- Three predicate numbers. -/
def goodPred (f : BitVec 48) : Bool := decide (Fmt.d f < 8 ∧ Fmt.a f < 8 ∧ Fmt.b f < 8 ∧ fld f 0 29 = 0)
/-- Format I with fields that are not used zero: d, a and the immediate are used where the argument says so. -/
def goodI (d a imm : Bool) (f : BitVec 48) : Bool :=
  decide (Fmt.imod f = 0) && (d || decide (Fmt.d f = 0)) && (a || decide (Fmt.a f = 0)) && (imm || decide (Fmt.imm f = 0))
def goodB (a off : Bool) (f : BitVec 48) : Bool :=
  decide (fld f 32 7 = 0) && (a || decide (Fmt.d f = 0)) && (off || decide (Fmt.imm f = 0))
/-- Scalar loads and stores: the A- or P-store, no modifier. -/
def goodM (f : BitVec 48) : Bool := decide ((Fmt.store f = 1 ∨ Fmt.store f = 2) ∧ Fmt.mmod f = 0)
/-- Engine commands: a block of four registers, no queue, no modifier. -/
def goodE (f : BitVec 48) : Bool := decide (Fmt.d f % 4 = 0 ∧ Fmt.a f = 0 ∧ Fmt.emod f = 0)
/-- Vector operations of one, two or three operands with a lane type of the list. -/
def goodV (n : Nat) (lts : List Nat) (f : BitVec 48) : Bool :=
  lts.contains (Fmt.lt f) && decide (Fmt.vmod f = 0) && (decide (1 ≤ n) || decide (Fmt.a f = 0)) &&
    (decide (2 ≤ n) || decide (Fmt.b f = 0)) && (decide (3 ≤ n) || decide (Fmt.c f = 0))

/-! ## Issue (R146, R148, R164; 02 R54) -/

/-- What a body works on: the tile, the context's slot, the context at issue with pc on the next word, the word, and
the failure with location INSTR. -/
structure At where
  p : Nat
  w : Nat
  c : Ctx
  f : BitVec 48
  bad : Halt
  deriving DecidableEq, Repr

/-- The effect of an instruction on the state: done, to be tried again, or the end of the job. -/
abbrev Body := At → State → State × Halt

/-- A change of the context. -/
def At.set (h : At) (g : Ctx → Ctx) (s : State) : State := s.updCtx h.p h.w g

/-- The instruction is done. -/
def At.done (h : At) (g : Ctx → Ctx) (s : State) : State × Halt := (h.set g s, .ok)

/-- SOLVE_QP, SOLVE_LS and ESTIMATE run a built-in image, whose instructions are firmware (06 R186). -/
def Job.builtin (j : Job) : Bool := decide (0x2001 ≤ j.opcode.toNat ∧ j.opcode.toNat ≤ 0x2003)

/-- The context that may issue on a tile at FIRE (11 R376): live, not blocked, within its budget (R184), and not a
built-in image. -/
def State.issuing (p : Nat) (s : State) : Option Ctx :=
  match (s.tile p).cur with
  | some c => if c.live && decide ((s.dom p).rung = 0) && !c.job.builtin && decide (c.wait = none) && decide (c.job.image.wcet = 0 ∨ s.wdCycles p c < c.job.image.wcet) then some c else none
  | none => none

/-- A job's first instruction, when it issues, starts the budget watchdog (R184). -/
def Ctx.begin_ (t up : Nat) (c : Ctx) : Ctx := if c.started.isNone then { c with started := some t, cycSince := up } else c

/-- An instruction is executed, guard and all. A stall leaves pc where it was; an instruction that holds has issued, and its time
counts (R184). One that ends the job has issued too (17 R551). -/
def State.retire (p w : Nat) (c : Ctx) (f : BitVec 48) (body : Body) (s : State) : State :=
  let c := { c with stage1 := [] }
  let s := s.setCtx p w (((c.begin_ s.now s.up).jump (c.pc + 1)))
  if !c.guarded f then s.tileEvent p 0x2 1
  else
    let r := body { p := p, w := w, c := (c.begin_ s.now s.up).jump (c.pc + 1), f := f, bad := .bad St.dataError (locInstr p c.pc) } s
    match r.2 with
    | .ok => r.1.tileEvent p 0x2 1
    | .wait => r.1.updCtx p w (fun x => { x with pc := c.pc, started := c.started, cycSince := c.cycSince })
    | .hold => r.1.updCtx p w (fun x => { x with pc := c.pc })
    | .banks bs => r.1.updCtx p w (fun x => { x with pc := c.pc, started := c.started, cycSince := c.cycSince, stage1 := bs })
    | .bad st loc => (r.1.tileEvent p 0x2 1).failJob p w st loc

/-- The word that is fetched names an instruction (R145 to R147). What it spells is the command, or the command replaces it
(log entry 34). -/
def codeGood (p : Nat) (bs : List Byte) : Bool := (tileInstr p (w64At 0 bs)).isSome

/-- The checks before an instruction has any effect. -/
def State.issued (p w : Nat) (c : Ctx) (f : BitVec 48) (good : Bool) (body : Body) (s : State) : State :=
  match c.doomed with
  | some l => s.failJob p w l.1 l.2
  | none =>
  if c.trap && c.job.tput then s.failJob p w St.fpTrap 0
  else if !c.inCode then s.failJob p w St.dataError (locInstr p c.pc)
  else
    let r := s.storeRead p 7 3 (8 * c.pc) 8
    match r.2.2 with
    | some o => r.2.1.failJob p w St.dataError (locStore p 3 o)
    | none => if good && codeGood p r.1 then r.2.1.retire p w c f body else r.2.1.failJob p w St.dataError (locInstr p c.pc)

/-- One instruction on tile `t`: what every instruction's meaning is made of. With no context that may issue, nothing
happens (log entry 3). -/
def issue (t : Nat) (f : BitVec 48) (good : Bool) (body : Body) (s : State) : Res :=
  if t < 68 then
    match s.issuing t with
    | some c => .next (s.issued t (s.tile t).execSlot c f good body)
    | none => .next s
  else .fault .noSuchUnit

/-- A store access of an instruction: it waits for the scoreboard, spans and banks (02 R60; 05 R150, R174). -/
def At.access (h : At) (write : Bool) (st off n : Nat) (s : State) : Halt :=
  if !inFoot h.c.job.image st off n || (write && !h.c.mayWrite st off n) then h.bad
  else s.need h.p [{ write := write, st := st, off := off, n := n }]

/-- The address of a format M access, when it is a multiple of `n`. -/
def At.addr (h : At) (n : Nat) : Option Nat :=
  let a := (h.c.reg (Fmt.a h.f) + Fmt.moff h.f).toNat
  if a % n = 0 then some a else none

/-- Reads a range that may be accessed, and goes on with its bytes; an uncorrectable word ends the job (02 R54). -/
def At.reading (h : At) (eng st off n : Nat) (k : List Byte → State → State × Halt) (s : State) : State × Halt :=
  match h.access false st off n s with
  | .ok =>
    let r := s.storeRead h.p eng st off n
    (match r.2.2 with
     | some o => (r.2.1, .bad St.dataError (locStore h.p st o))
     | none => k r.1 r.2.1)
  | e => (s, e)

/-- Writes a range that may be accessed. -/
def At.writing (h : At) (st off : Nat) (bs : List Byte) (s : State) : State × Halt :=
  match h.access true st off bs.length s with
  | .ok => (s.ownWrite h.p h.w st off bs, .ok)
  | e => (s, e)

end Sys2Proof.Machine
end

