-- ==== Sys2Proof/Machine/Solvers.lean ====
section
/-!
DEFINITION. The built-in solver jobs: SOLVE_QP, SOLVE_LS and ESTIMATE (06 R186 to R202, R211 to R220; 10 R343, R344).
They run on captured problem data; what they compute does not depend on a store.
-/

set_option Elab.async false

namespace Sys2Proof.Machine

open Sys2Proof

/-! ## Vectors and matrices (R198: products of R91, sums of R88 and R110) -/

abbrev Vec := List W32
abbrev Mat := List Vec

def mulV (a b : W32) : Fac W32 := Fac.op (fmulT a b)
def addV (a b : W32) : Fac W32 := Fac.op (fadd a b)
def subV (a b : W32) : Fac W32 := Fac.op (fsub a b)

def zipV (f : W32 → W32 → Fac W32) (x y : Vec) : Fac Vec := mapFac (fun e => f e.1 e.2) (x.zip y)
def scaleV (a : W32) (x : Vec) : Fac Vec := mapFac (mulV a) x

/-- A column of the matrix array: from +0, in ascending order. -/
def dotV (x y : Vec) : Fac W32 := foldFac (fun acc e => do
  let p ← mulV e.1 e.2
  addV acc p) 0 (x.zip y)

def matVec (a : Mat) (x : Vec) : Fac Vec := mapFac (fun r => dotV r x) a

def transposeM (cols : Nat) (a : Mat) : Mat := (List.range cols).map (fun j => a.map (fun r => r.getD j 0))

/-- a * bᵀ, with the rows of b. -/
def mulRows (a b : Mat) : Fac Mat := mapFac (fun r => mapFac (fun c => dotV r c) b) a

def zipM (f : W32 → W32 → Fac W32) (a b : Mat) : Fac Mat := mapFac (fun e => zipV f e.1 e.2) (a.zip b)

/-- ‖x‖∞: +0 for an empty vector, NaN if an element is NaN (R199). -/
def normInf (x : Vec) : Fac W32 := maxMag x

/-- x * 2^k, exact up to the range. -/
def scale2 (k : Int) (x : W32) : W32 := (num32 (Num.mul (f32Num x) (pow2 k))).1

/-! ## Problem data (R343, R344; 10 R340) -/

/-- Arrays of words in order, each from a 64-byte boundary. -/
def arraysAt : Nat → List Nat → List Byte → List Vec
  | _, [], _ => []
  | o, n :: ns, bs => (List.range n).map (fun i => w32At (o + 4 * i) bs) :: arraysAt (o + roundUp 64 (4 * n)) ns bs

def arraysLen (ns : List Nat) : Nat := (ns.map (fun n => roundUp 64 (4 * n))).sum

/-- Arrays written the same way. -/
def putArrays (vs : List Vec) : List Byte := vs.flatMap (fun v => bytesOfWords v ++ zeros (roundUp 64 (4 * v.length) - 4 * v.length))

def rowsOf (n : Nat) : Nat → Vec → Mat
  | 0, _ => []
  | k + 1, v => v.take n :: rowsOf n k (v.drop n)

/-- The settings record (R188), with its defaults. -/
structure Settings where
  rho : W32
  sigma : W32
  alpha : W32
  epsAbs : W32
  epsRel : W32
  eqShift : Nat
  balExp : Nat
  cap : Nat
  check : Nat
  adapt : Bool
  pertDis : Bool
  blobEn : Bool
  tau : Nat
  delta : Nat
  gate : W32
  lambda : W32
  pMin : W32
  ridge : W32
  method : Nat
  deriving DecidableEq, Repr

def orElseN (x d : Nat) : Nat := if x = 0 then d else x

/-- An empty record selects every default (R343). In a record a zero selects the default of the fields that say so; tau_exp and
delta_exp are left to the pivot policy. -/
def settingsOf (bs : List Byte) : Settings :=
  let f := leAt 0x1B 1 bs
  let w := fun (o : Nat) (d : W32) => if bs.isEmpty then d else w32At o bs
  { rho := w 0 0x3E000000, sigma := w 4 0x36800000, alpha := w 8 0x3FC00000, epsAbs := w 0xC 0x39800000, epsRel := w 0x10 0x3B800000,
    eqShift := orElseN (leAt 0x14 1 bs) 10, balExp := orElseN (leAt 0x15 1 bs) 3, cap := if bs.isEmpty then 1024 else leAt 0x18 2 bs,
    check := if bs.isEmpty then 4 else leAt 0x1A 1 bs, adapt := decide (f % 2 = 1), pertDis := decide (f / 2 % 2 = 1), blobEn := decide (f / 4 % 2 = 1),
    tau := leAt 0x1C 1 bs, delta := leAt 0x1D 1 bs, gate := w 0x20 0x7F800000, lambda := w 0x24 0x3F800000,
    pMin := w32At 0x28 bs, ridge := w32At 0x2C bs, method := leAt 0x30 1 bs }

/-- A positive finite value. -/
def posFin (x : W32) : Bool := fpositive x && ffinite x
/-- Zero, or positive and finite. -/
def zeroPos (x : W32) : Bool := decide (x &&& 0x7FFFFFFF = 0) || (fpositive x && ffinite x)

/-- The ranges of R188, and zero in the fields that do not apply to the job; lambda applies to RLS. -/
def settingsGood (op : Nat) (bs : List Byte) : Bool :=
  bs.isEmpty ||
    (decide (bs.length = 64) &&
      decide (leAt 0x16 2 bs = 0 ∧ leAt 0x1E 2 bs = 0 ∧ leNat (slice 0x31 15 bs) = 0 ∧ leAt 0x1B 1 bs < 8 ∧ leAt 0x1C 1 bs ≤ 60 ∧ leAt 0x1D 1 bs ≤ 60) &&
      (if op = 0x2001 then
        posFin (w32At 0 bs) && posFin (w32At 4 bs) && fpositive (w32At 8 bs) && (fcmp 2 (w32At 8 bs) 0x40000000).1 &&
          posFin (w32At 0xC bs) && zeroPos (w32At 0x10 bs) && decide (leAt 0x14 1 bs ≤ 20 ∧ leAt 0x15 1 bs ≤ 10 ∧ leAt 0x18 2 bs ≠ 0) &&
          decide (1 ≤ leAt 0x1A 1 bs ∧ leAt 0x1A 1 bs ≤ 16) &&
          decide (leNat (slice 0x20 17 bs) = 0)
      else
        decide (leNat (slice 0 0x1B bs) = 0) &&
          (if op = 0x2002 then decide (leNat (slice 0x20 12 bs) = 0 ∧ leAt 0x30 1 bs ≤ 2) && zeroPos (w32At 0x2C bs)
          else decide (w32At 0x2C bs = 0 ∧ leAt 0x30 1 bs ≤ 1) && fpositive (w32At 0x20 bs) && zeroPos (w32At 0x28 bs) &&
            (if leAt 0x30 1 bs = 1 then fpositive (w32At 0x24 bs) && (fcmp 3 (w32At 0x24 bs) 0x3F800000).1 else decide (w32At 0x24 bs = 0)))))

/-- The dimensions of a job: n, m or rows or measurements, batch or right-hand sides, commit entries or inputs. -/
structure Dims where
  n : Nat
  m : Nat
  b : Nat
  k : Nat
  deriving DecidableEq, Repr

def dimsOf (w : W64) : Dims := { n := fld w 48 16, m := fld w 32 16, b := fld w 24 8, k := fld w 16 8 }

/-- The limits of R187. A commit map needs at least one entry per problem (R204). -/
def dimsGood (op : Nat) (w : W64) : Bool :=
  let d := dimsOf w
  decide (fld w 0 16 = 0) &&
    (match op with
     | 0x2001 => decide (1 ≤ d.n ∧ d.n ≤ 256 ∧ d.m ≤ 1024 ∧ 1 ≤ d.b ∧ d.b ≤ 16 ∧ 1 ≤ d.k ∧ d.b * d.k ≤ 256)
     | 0x2002 => decide (1 ≤ d.n ∧ d.n ≤ 256 ∧ 1 ≤ d.m ∧ d.m ≤ 4096 ∧ 1 ≤ d.b ∧ d.b ≤ 16 ∧ d.k = 0)
     | _ => decide (1 ≤ d.n ∧ d.n ≤ 64 ∧ 1 ≤ d.m ∧ d.m ≤ 32 ∧ 1 ≤ d.b ∧ d.b ≤ 16 ∧ d.k ≤ 32))

/-- The array sizes of the input before map and blobs. -/
def inputShape (op : Nat) (d : Dims) : List Nat :=
  match op with
  | 0x2001 => [d.n * (d.n + 1) / 2, d.m * d.n] ++ (List.range d.b).flatMap (fun _ => [d.n, d.m, d.m])
  | 0x2002 => [d.m * d.n, d.m * d.b]
  | _ => [d.n * d.n, d.n * d.k, d.m * d.n, d.n * d.n, d.m * d.m] ++ (List.range d.b).flatMap (fun _ => [d.n, d.n * d.n, d.k, d.m])

/-- Bytes of the problem data. -/
def inputBytes (op : Nat) (d : Dims) (blobs : Bool) : Nat :=
  arraysLen (inputShape op d) +
    (if op = 0x2001 then roundUp 64 (16 * d.b * d.k) + (if blobs then d.b * blobStride d.n d.m else 0) else 0)

/-- Bytes of the output. -/
def outputBytes (op : Nat) (d : Dims) : Nat :=
  match op with
  | 0x2001 => d.b * recordStride d.k + d.b * vecBytes d.n
  | 0x2002 => arraysLen [d.n * d.b, d.b]
  | _ => d.b * arraysLen [d.n, d.n * d.n]

/-! ## SOLVE_QP (R198 to R201, R215, R216) -/

/-- What the problems of a batch share: K's factor, the penalties and their reciprocals. -/
structure Shared where
  f : Factor
  rho : W32
  rhos : Vec
  rinv : Vec
  deriving DecidableEq, Repr

/-- One problem; `shown` and `iters` are its x and its iterations at the last check iteration that counts. -/
structure Prob where
  q : Vec
  l : Vec
  u : Vec
  map : List MapEntry
  it : Iterate
  ax : Vec
  g : Vec
  held : Held
  done : Bool
  shown : Vec := []
  iters : Nat := 0
  deriving DecidableEq, Repr

/-- The fixed parts of a batch: P, A, Aᵀ and the settings. -/
structure Qp where
  d : Dims
  p : Mat
  a : Mat
  at_ : Mat
  v : Pivot
  st : Settings
  deriving DecidableEq, Repr

/-- The full symmetric matrix of a packed upper triangle. -/
def symOf (n : Nat) (t : Vec) : Mat :=
  let rs := packedRows n t
  (List.range n).map (fun i => (List.range n).map (fun j => if i ≤ j then (rs.getD i []).getD (j - i) 0 else (rs.getD j []).getD (i - j) 0))

/-- K = P + σI + AᵀRA as the rows of its upper triangle. -/
def Qp.form (q : Qp) (rhos : Vec) : Fac (List Vec) := do
  let ra ← mapFac (fun e => scaleV e.1 e.2) (rhos.zip q.a)
  let rat := transposeM q.d.n ra
  mapFac (fun i => mapFac (fun k => do
    let x := (q.p.getD i []).getD (i + k) 0
    let x ← if k = 0 then addV x q.st.sigma else pure x
    let y ← dotV (q.at_.getD i []) (rat.getD (i + k) [])
    addV x y) (List.range (q.d.n - i))) (List.range q.d.n)

/-- The penalties of the rows: 2^eq_shift times ρ where the bounds are equal. -/
def Qp.penalties (q : Qp) (rho : W32) (l u : Vec) : Vec :=
  (l.zip u).map (fun e => if (fcmp 0 e.1 e.2).1 then scale2 (q.st.eqShift : Int) rho else rho)

def Qp.share (q : Qp) (rho : W32) (l u : Vec) : Fac Shared := do
  let rhos := q.penalties rho l u
  let rinv ← mapFac (fun r => Fac.op (frcp r)) rhos
  let k ← q.form rhos
  let f ← fldl q.v k
  pure { f := f, rho := rho, rhos := rhos, rinv := rinv }

/-- g = Aᵀ(R z - y). -/
def Qp.gOf (q : Qp) (h : Shared) (z y : Vec) : Fac Vec := do
  let rz ← zipV mulV h.rhos z
  let d ← zipV subV rz y
  matVec q.at_ d

/-- One iteration of one problem (R198). -/
def Qp.iterate (q : Qp) (h : Shared) (x : Prob) : Fac Prob := do
  let sx ← scaleV q.st.sigma x.it.x
  let r ← zipV subV sx x.q
  let r ← zipV addV r x.g
  let xt ← ftrsv 4 h.f r
  let zh ← matVec q.a xt
  let one_ ← subV 0x3F800000 q.st.alpha
  let relax := fun (new old : Vec) => do
    let a ← scaleV q.st.alpha new
    let b ← scaleV one_ old
    zipV addV a b
  let xs ← relax xt x.it.x
  let ax ← relax zh x.ax
  let zr ← relax zh x.it.z
  let ry ← zipV mulV h.rinv x.it.y
  let w ← zipV addV zr ry
  let zn ← mapFac (fun e => Fac.op (fclamp e.1 e.2.1 e.2.2)) (w.zip (x.l.zip x.u))
  let dz ← zipV subV zr zn
  let rd ← zipV mulV h.rhos dz
  let y ← zipV addV x.it.y rd
  let g ← q.gOf h zn y
  pure { x with it := { x := xs, z := zn, y := y }, ax := ax, g := g }

/-- rp, rd, eps_p, eps_d (R199). -/
def Qp.residuals (q : Qp) (x : Prob) : Fac (W32 × W32 × W32 × W32) := do
  let d ← zipV subV x.ax x.it.z
  let rp ← normInf d
  let nax ← normInf x.ax
  let nz ← normInf x.it.z
  let sp ← addV nax nz
  let tp ← mulV q.st.epsRel sp
  let ep ← addV q.st.epsAbs tp
  let px ← matVec q.p x.it.x
  let aty ← matVec q.at_ x.it.y
  let e ← zipV addV px x.q
  let e ← zipV addV e aty
  let rd ← normInf e
  let npx ← normInf px
  let naty ← normInf aty
  let nq ← normInf x.q
  let sd ← addV npx naty
  let sd ← addV sd nq
  let td ← mulV q.st.epsRel sd
  let ed ← addV q.st.epsAbs td
  pure (rp, rd, ep, ed)

/-- The check iteration of one problem: its offer, counted while the cut allows, and its end when converged. -/
def Qp.checkProb (q : Qp) (k : Nat) (cut : Option Nat) (x : Prob) : Fac (Prob × (W32 × W32 × W32 × W32)) := do
  let r ← q.residuals x
  let past := match cut with
    | some c => decide (c < x.held.offers)
    | none => false
  if past then pure ({ x with done := true }, r)
  else
    let h := (Held.offer x.map x.it.x k r.1 r.2.1 r.2.2.1 r.2.2.2 false x.held).1
    pure ({ x with held := h, done := isConverged r.1 r.2.1 r.2.2.1 r.2.2.2, shown := x.it.x, iters := k }, r)

/-- Four times a, or a quarter: the change of ρ that R201 makes, if it makes one. -/
def Qp.balance (q : Qp) (rho : W32) (r : W32 × W32 × W32 × W32) : Fac (Option Int) := do
  let ip ← Fac.op (frcp r.2.2.1)
  let a ← facMul r.1 ip
  let id_ ← Fac.op (frcp r.2.2.2)
  let b ← facMul r.2.1 id_
  let band := pow2 (q.st.balExp : Int)
  let base := f32Num q.st.rho
  if (f32Num a).gt (Num.mul (f32Num b) band) then
    pure (if (f32Num (scale2 2 rho)).gt (Num.mul base (pow2 32)) then none else some 2)
  else if (f32Num b).gt (Num.mul (f32Num a) band) then
    pure (if (Num.mul base (pow2 (-32))).gt (f32Num (scale2 (-2) rho)) then none else some (-2))
  else pure none

/-- After a change of ρ: K is factored again and every g is formed again (R201). -/
def Qp.rebalance (q : Qp) (h : Shared) (e : Int) (xs : List Prob) : Fac (Shared × List Prob) := do
  let x0 := xs.headD { q := [], l := [], u := [], map := [], it := { x := [], z := [], y := [] }, ax := [], g := [], held := { }, done := true }
  let h' ← q.share (scale2 e h.rho) x0.l x0.u
  let ys ← mapFac (fun (x : Prob) => do
    if x.done then pure x
    else
      let g ← q.gOf h' x.it.z x.it.y
      pure { x with g := g }) xs
  pure (h', ys)

/-- The iterations of a batch, from iteration `k` on (R200, R216); after the last one, where the solve stops, nothing is balanced.
`fits` says whether a refactor may be made. -/
def Qp.run (q : Qp) (cuts : List (Option Nat)) (fits : Nat → Bool) : Nat → Nat → Shared → List Prob → Fac (List Prob)
  | 0, _, _, xs => pure xs
  | fuel + 1, k, h, xs => do
    if xs.all (·.done) then pure xs
    else
      let xs ← mapFac (fun (x : Prob) => if x.done then pure x else q.iterate h x) xs
      if k % q.st.check = 0 ∨ fuel = 0 then
        let rs ← mapFac (fun (e : Prob × Option Nat) => do
          if e.1.done then pure (e.1, (none : Option (W32 × W32 × W32 × W32)))
          else
            let r ← q.checkProb k e.2 e.1
            pure (r.1, some r.2)) (xs.zip cuts)
        let xs := rs.map (·.1)
        let lag := (rs.filterMap (fun e => if e.1.done then none else e.2)).head?
        match lag, q.st.adapt && decide (fuel ≠ 0) with
        | some r, true =>
          let e ← q.balance h.rho r
          match e with
          | some e =>
            if fits k then
              let t ← q.rebalance h e xs
              Qp.run q cuts fits fuel (k + 1) t.1 t.2
            else Qp.run q cuts fits fuel (k + 1) h xs
          | none => Qp.run q cuts fits fuel (k + 1) h xs
        | _, _ => Qp.run q cuts fits fuel (k + 1) h xs
      else Qp.run q cuts fits fuel (k + 1) h xs

/-- The batch as the captured data spell it. -/
def qpOf (d : Dims) (st : Settings) (sig : W64) (bs : List Byte) : Qp × List Prob :=
  let vs := arraysAt 0 (inputShape 0x2001 d) bs
  let a := rowsOf d.n d.m (vs.getD 1 [])
  let o := arraysLen (inputShape 0x2001 d)
  let ob := o + roundUp 64 (16 * d.b * d.k)
  let prob := fun (i : Nat) =>
    let l := vs.getD (3 + 3 * i) []
    let u := vs.getD (4 + 3 * i) []
    let map := (List.range d.k).map (fun j => mapEntryOf (slice (o + 16 * (i * d.k + j)) 16 bs))
    let s := startIterate sig (if st.blobEn then some (slice (ob + i * blobStride d.n d.m) (blobStride d.n d.m) bs) else none) d.n d.m l u
    ({ q := vs.getD (2 + 3 * i) [], l := l, u := u, map := map, it := s.1, ax := [], g := [], held := offerZero map s, done := false, shown := s.1.x } : Prob)
  ({ d := d, p := symOf d.n (vs.getD 0 []), a := a, at_ := transposeM d.n a, v := pivotOf st.tau st.delta st.pertDis, st := st },
   (List.range d.b).map prob)

/-- The commit map obeys R204 and R205; a job on demand writes no mailbox. -/
def mapsGood (d : Dims) (bs : List Byte) : Bool :=
  let o := arraysLen (inputShape 0x2001 d)
  (List.range (d.b * d.k)).all (fun j => mapEntryGood d.n (slice (o + 16 * j) 16 bs) && decide (leAt 11 1 (slice (o + 16 * j) 16 bs) = 0))

/-- The whole solve: K is factored, ax and g are formed, and the iterations run. -/
def Qp.solve (q : Qp) (xs : List Prob) (cuts : List (Option Nat)) (fits : Nat → Bool) : Fac (List Prob) := do
  let x0 := xs.headD { q := [], l := [], u := [], map := [], it := { x := [], z := [], y := [] }, ax := [], g := [], held := { }, done := true }
  let h ← q.share q.st.rho x0.l x0.u
  let xs ← mapFac (fun (x : Prob) => do
    let ax ← matVec q.a x.it.x
    let g ← q.gOf h x.it.z x.it.y
    pure { x with ax := ax, g := g }) xs
  q.run cuts fits q.st.cap 1 h xs

/-! ## SOLVE_LS (R217) -/

/-- Blocks of at most 256 rows. -/
def blocksOf {α : Type} : Nat → List α → List (List α)
  | 0, _ => []
  | _ + 1, [] => []
  | k + 1, xs => xs.take 256 :: blocksOf k (xs.drop 256)

/-- Method 0: FQR and FGIVENS over the rows, the ridge rows last; x and the residual sums, one of each right-hand side (R217). -/
def lsQr (v : Pivot) (d : Dims) (ridge : W32) (a b : Mat) : Fac (Mat × Vec) := do
  let extra ← if (f32Num ridge).isZero then pure []
    else do
      let r ← Fac.op (frsq ridge)
      let w ← facMul ridge r
      pure ((List.range d.n).map (fun i => ((List.range d.n).map (fun j => if j = i then w else 0), List.replicate d.b (0 : W32))))
  let rows := ((a.zip b) ++ extra).map (fun e => ((0x3F800000 : W32), e.1, e.2))
  let f ← foldFac (fun f block => fgivens v f block) { clearedFactor d.n d.b with rss := List.replicate d.b 0 } (blocksOf 20 rows)
  let xs ← mapFac (fun j => ftrsv 1 f (f.ys.map (fun y => y.getD j 0))) (List.range d.b)
  pure (transposeM d.n xs, f.rss)

/-- Lists of 64 lanes, the last filled up with +0. -/
def laneBlocks : Nat → Vec → List Vec
  | 0, _ => []
  | _ + 1, [] => []
  | k + 1, xs => (xs.take 64 ++ List.replicate (64 - xs.length) 0) :: laneBlocks k (xs.drop 64)

/-- A sum of squares by the vector engine: vectors of 64 lanes added in ascending order, then the reduction tree of 05 R157. The spec
does not state the order (log entry 73). -/
def sumSquares (e : Vec) : Fac W32 := do
  let sq ← zipV mulV e e
  let acc ← foldFac (fun acc v => zipV addV acc v) (List.replicate 64 0) (laneBlocks (sq.length / 64 + 1) sq)
  Fac.op (treeReduce fadd acc)

/-- Methods 1 and 2: the normal equations by FCHOL or FLDL, and the residual sums. -/
def lsNormal (v : Pivot) (ldl : Bool) (d : Dims) (ridge : W32) (a b : Mat) : Fac (Mat × Vec) := do
  let ac := transposeM d.n a
  let bc := transposeM d.b b
  let rows ← mapFac (fun i => mapFac (fun k => do
    let x ← dotV (ac.getD i []) (ac.getD (i + k) [])
    if k = 0 then addV x ridge else pure x) (List.range (d.n - i))) (List.range d.n)
  let f ← if ldl then fldl v rows else fchol v rows
  let xs ← mapFac (fun c => do
    let r ← mapFac (fun ai => dotV ai c) ac
    ftrsv (if ldl then 4 else 5) f r) bc
  let rss ← mapFac (fun e => do
    let ax ← matVec a e.1
    let res ← zipV subV e.2 ax
    sumSquares res) (xs.zip bc)
  pure (transposeM d.n xs, rss)

/-! ## ESTIMATE (R218) -/

/-- The model of a batch of estimators. -/
structure Model where
  f : Mat
  g : Mat
  h : Mat
  q : Mat
  r : Mat
  deriving DecidableEq, Repr

/-- One estimator: state, covariance, input, measurement. -/
structure Estim where
  x : Vec
  p : Mat
  u : Vec
  zm : Vec
  deriving DecidableEq, Repr

/-- P[i][i] is raised to p_min (R218); answers whether one was. -/
def raiseDiag (pm : W32) (p : Mat) : Mat × Bool :=
  let low := fun (i : Nat) (r : Vec) => (fcmp 2 (r.getD i 0) pm).1
  ((p.zipIdx).map (fun e => if low e.2 e.1 then e.1.set e.2 pm else e.1), p.zipIdx.any (fun e => low e.2 e.1))

/-- The prediction: xp and Pp. -/
def predict (d : Dims) (m : Model) (e : Estim) : Fac (Vec × Mat) := do
  let fx ← matVec m.f e.x
  let gu ← matVec m.g e.u
  let xp ← zipV addV fx gu
  let fp ← mulRows m.f (transposeM d.n e.p)
  let fpf ← mulRows fp m.f
  let pp ← zipM addV fpf m.q
  pure (xp, pp)

/-- One Kalman step; answers the estimator and whether its measurement was rejected. Without a new measurement it is the prediction
only, which counts as no rejection (R219). -/
def kalman (v : Pivot) (d : Dims) (gate pm : W32) (stale : Bool) (m : Model) (e : Estim) : Fac (Estim × Bool) := do
  let pr ← predict d m e
  let xp := pr.1
  let pp := pr.2
  if stale then pure ({ e with x := xp, p := pp }, false) else
  let hx ← matVec m.h xp
  let nu ← zipV subV e.zm hx
  let hp ← mulRows m.h (transposeM d.n pp)
  let hph ← mulRows hp m.h
  let s ← zipM addV hph m.r
  let l ← fchol v (triangle d.m false s.flatten)
  let y ← ftrsv 2 l nu
  let sq ← zipV mulV y y
  let d2 ← Fac.op (treeReduce fadd (sq ++ List.replicate (64 - sq.length) 0))
  if (f32Num d2).gt (f32Num gate) then pure ({ e with x := xp, p := pp }, true)
  else
    let ph ← mulRows pp m.h
    let k ← mapFac (fun r => do
      let t ← ftrsv 2 l r
      ftrsv 3 l t) ph
    let kn ← matVec k nu
    let x ← zipV addV xp kn
    let ks ← mulRows k (transposeM d.m s)
    let ksk ← mulRows ks k
    let p1 ← zipM subV pp ksk
    let p2 ← zipM addV p1 (transposeM d.n p1)
    let p3 ← mapFac (fun r => scaleV 0x3F000000 r) p2
    let p4 := raiseDiag pm p3
    fun acc => (({ e with x := x, p := p4.1 }, false), if p4.2 then { acc with flags := acc.flags ||| Fl.perturbed } else acc)

def modelOf (d : Dims) (bs : List Byte) : Model × List Estim :=
  let vs := arraysAt 0 (inputShape 0x2003 d) bs
  let v := fun (i : Nat) => vs.getD i []
  ({ f := rowsOf d.n d.n (v 0), g := rowsOf d.k d.n (v 1), h := rowsOf d.n d.m (v 2), q := rowsOf d.n d.n (v 3), r := rowsOf d.m d.m (v 4) },
   (List.range d.b).map (fun i => { x := v (5 + 4 * i), p := rowsOf d.n d.n (v (6 + 4 * i)), u := v (7 + 4 * i), zm := v (8 + 4 * i) }))

/-! ## ESTIMATE by recursive least squares (R220) -/

/-- Rows of the packed triangle of order `n`, whatever an open layout gives. -/
def shaped (n : Nat) (rows : Mat) : Mat :=
  (List.range n).map (fun i => (List.range (n - i)).map (fun k => (rows.getD i []).getD k 0))

/-- Lᵀ x, from the rows of the factor. -/
def upperTimes : Mat → Vec → Fac Vec
  | r :: rs, x :: xs => do
    let y ← foldFac (fun acc e => Fac.op (fma e.1 e.2 acc)) x ((r.drop 1).zip xs)
    let ys ← upperTimes rs xs
    pure (y :: ys)
  | _, _ => pure []

/-- L x: column i of L is row i of the factor. -/
def lowerTimes : Mat → Vec → Fac Vec
  | r :: rs, x :: xs => do
    let ys ← lowerTimes rs xs
    let zs ← mapFac (fun e => Fac.op (fma e.1 x e.2)) ((r.drop 1).zip ys)
    pure (x :: zs)
  | _, _ => pure []

/-- One regressor with its target updates θ and P. The pivot of R193 has M = lambda; FUPDATE mode 1 takes P φ / √a, and D is scaled by
rcp(lambda). -/
def rlsStep (v : Pivot) (lam : W32) (e : Vec × Mat) (q : Vec × W32) : Fac (Vec × Mat) := do
  let y ← upperTimes e.2 q.1
  let g ← mapFac (fun x => facMul x.1 x.2) ((diagOf e.2).zip y)
  let pf ← lowerTimes e.2 g
  let f ← dotV q.1 pf
  let a ← addV lam f
  let a ← v.take false false lam 0 a
  let r ← Fac.op (frcp a)
  let k ← mapFac (fun x => facMul x r) pf
  let y ← dotV q.1 e.1
  let err ← subV q.2 y
  let theta ← mapFac (fun x => Fac.op (fma x.1 err x.2)) (k.zip e.1)
  let rt ← Fac.op (frsq a)
  let u ← mapFac (fun x => facMul x rt) pf
  let fac ← fupdate v true { kind := 1, rows := e.2, recs := [], ys := [], maxDiag := 0, delta := 0, rss := [] } u
  let rl ← Fac.op (frcp lam)
  let rows ← mapFac (fun (r : Vec) => match r with
    | [] => pure []
    | d :: t => do
      let d ← facMul d rl
      pure (d :: t)) fac.rows
  pure (theta, rows)

/-- Every regressor of one estimator in order, then p_min on the variances of the array P, as R218 has it. -/
def rls (v : Pivot) (n : Nat) (lam pm : W32) (data : List (Vec × W32)) (x : Vec) (p : Vec) : Fac (Vec × Vec) := do
  let r ← foldFac (rlsStep v lam) (x, shaped n (Config.rlsFactor n p)) (data.map (fun q => ((List.range n).map (fun i => q.1.getD i 0), q.2)))
  let out := Config.rlsArray n (shaped n r.2)
  let fl := raiseDiag pm (rowsOf n n ((List.range (n * n)).map (fun i => out.getD i 0)))
  fun acc => ((r.1, fl.1.flatten), if fl.2 then { acc with flags := acc.flags ||| Fl.perturbed } else acc)

/-! ## The end of a built-in job -/

/-- Payload after the words of p8 (10 R319). -/
def Packet.rest (p : Packet) : List Byte := if bit p.hdr.flags 2 then p.payload.drop 32 else p.payload

/-- The settings bytes of a job: by a data descriptor its captured inputs begin with them (10 R319, R321). -/
def Job.settings (j : Job) : List Byte := if bit j.pkt.hdr.flags 1 then j.captured.take 64 else j.pkt.rest.take 64

/-- The problem data of a job. -/
def Job.data (j : Job) : List Byte := if bit j.pkt.hdr.flags 1 then j.captured.drop 64 else j.captured

/-- The output goes to its area, and the job ends; the status is FAILED_DATA_ERROR where HBM fails. -/
def State.solved (p w : Nat) (out : List Byte) (f : Fin) (s : State) : State :=
  match s.ctx p w with
  | none => s
  | some c =>
    let a := fld c.job.pkt.hdr.w2 0 40
    let r := s.hbmWrite a out
    match r.2 with
    | some x => r.1.failJob p w St.dataError (locHbm x)
    | none => (r.1.updCtx p w (fun c => { c with wroteHbm := [(a, out.length)] })).endJob p w f

/-- Flags of the work join the job's accumulator. -/
def State.accumulate (p w : Nat) (fl : W32) (s : State) : State := s.updCtx p w (fun c => { c with jobAcc := c.jobAcc ||| fl })

/-- DONE, or DONE_FLAGGED where a flag of R212 is set. -/
def doneOr (fl : W32) : Byte := if fl &&& Fl.flagging ≠ 0 then St.flagged else St.done

/-- SOLVE_QP ends with the offers up to `cut`, or at its own end (R211). -/
def State.endQp (p w : Nat) (c : Ctx) (cut : Option Nat) (s : State) : State :=
  let d := dimsOf c.job.pkt.hdr.w0
  let st := settingsOf c.job.settings
  if !mapsGood d c.job.data then s.failJob p w St.dataError (locInstr p c.pc)
  else
    let q := qpOf d st c.job.image.structSig c.job.data
    let cuts := (List.range d.b).map (fun i => match s.cutOf c.job.queue c.job.seq i with
      | some k => some k
      | none => cut)
    let fits := fun (k : Nat) => c.job.deadline.isNone ||
      decide (fldlCycles d.n + 4 * (ftrsvCycles 4 d.n d.b + Config.iterationRest d.n d.m d.b) ≤ Config.cyclesLeft c.job.accept k)
    let r := q.1.solve q.2 cuts fits { }
    let s := s.accumulate p w (r.2.flags &&& Fl.arith)
    if r.2.bad then s.failJob p w St.singular 0
    else
      let pert := Fl.when (decide (r.2.pert ≠ 0)) Fl.perturbed
      let held := r.1.map (fun x => { x.held with flags := x.held.flags ||| pert })
      let u : CommitUnit := { n := d.n, m := d.m, k := d.k, map := r.1.map (·.map), held := held }
      let acc := c.jobAcc ||| (r.2.flags &&& Fl.arith)
      let stamp := match c.job.deadline with
        | some t => min t s.now
        | none => s.now
      let s := s.recordCuts c.job.queue c.job.seq p (held.map (·.cut))
      let out := u.records acc (short stamp) ++ putArrays (r.1.map (·.shown))
      let r0 := at64 (((held.map (·.converged)).filter id).length) 16 ||| at64 (((r.1.map (·.iters)).headD 0) % 65536) 0
      s.solved p w out { st := u.status acc, flags := u.flags, r0 := r0 }

def State.endLs (p w : Nat) (c : Ctx) (s : State) : State :=
  let d := dimsOf c.job.pkt.hdr.w0
  let st := settingsOf c.job.settings
  let vs := arraysAt 0 (inputShape 0x2002 d) c.job.data
  let a := rowsOf d.n d.m (vs.getD 0 [])
  let b := rowsOf d.b d.m (vs.getD 1 [])
  let v := pivotOf st.tau st.delta st.pertDis
  let r := if st.method = 0 then lsQr v d st.ridge a b { } else lsNormal v (decide (st.method = 2)) d st.ridge a b { }
  let fl := r.2.flags &&& (Fl.arith ||| Fl.perturbed)
  let s := s.accumulate p w (fl &&& Fl.arith)
  if r.2.bad then s.failJob p w St.singular 0
  else s.solved p w (putArrays [r.1.1.flatten, r.1.2]) { st := doneOr (fl ||| c.jobAcc), flags := fl, r0 := BitVec.ofNat 64 r.2.pert }

/-- The stamp of the newest element of the measurement coil, as the receive port has that coil, none where it is empty. Which coil that
is, or whether the job has one, no rule says (log entry 77); its elements are those of a sense group, a sample and its stamp (02 R66, 08 R267). -/
def State.newestStamp (p k : Nat) (s : State) : Option W32 :=
  let x := (s.tile p).coil k
  if !x.isOpen || x.empty then none
  else some (w32At 4 (Mem.bytes (storeBase x.store + x.base + x.last) x.elem (s.tile p).mem))

/-- What makes two jobs invocations of one estimator: the address of its problem data (log entry 77). -/
def Ctx.estimator (c : Ctx) : Nat := fld c.job.pkt.hdr.w1 0 40

/-- ESTIMATE has no new measurement (R219). A job without a measurement coil takes that of its problem data as new. -/
def State.staleMeasurement (p : Nat) (c : Ctx) (s : State) : Bool :=
  match Config.measurementCoil c.job.pkt.hdr.w0 with
  | none => false
  | some k => match s.newestStamp p k with
    | none => true
    | some st => (s.tile p).estStamps.contains (c.estimator, st)

/-- The element that an estimation has used. -/
def State.useMeasurement (p : Nat) (c : Ctx) (s : State) : State :=
  match (Config.measurementCoil c.job.pkt.hdr.w0).bind (fun k => s.newestStamp p k) with
  | some st => s.updTile p (fun t => { t with estStamps := (c.estimator, st) :: t.estStamps.filter (fun e => decide (e.1 ≠ c.estimator)) })
  | none => s

/-- ESTIMATE. Of method 1 the spec gives no data layout, and its regressors and the form of P are open; it has no prediction, so
without a new measurement its estimators stay. -/
def State.endEstimate (p w : Nat) (c : Ctx) (s : State) : State :=
  let d := dimsOf c.job.pkt.hdr.w0
  let stale := s.staleMeasurement p c
  let s := s.useMeasurement p c
  let st := settingsOf c.job.settings
  let m := modelOf d c.job.data
  let v := pivotOf st.tau st.delta st.pertDis
  let ends := fun (bad : Bool) (flags : W32) (out : List Vec) (r0 : Nat) =>
    let fl := (flags &&& (Fl.arith ||| Fl.perturbed)) ||| Fl.when stale Fl.staleInput
    let s := s.accumulate p w (fl &&& Fl.arith)
    if bad then s.failJob p w St.singular 0
    else s.solved p w (putArrays out) { st := doneOr (fl ||| c.jobAcc), flags := fl, r0 := BitVec.ofNat 64 r0 }
  if st.method = 1 then
    let r := mapFac (fun (e : Estim × Nat) => if stale then pure (e.1.x, e.1.p.flatten) else rls v d.n st.lambda st.pMin (Config.rlsData c.job.pkt.hdr.w0 c.job.data e.2) e.1.x e.1.p.flatten) m.2.zipIdx { }
    ends r.2.bad r.2.flags (r.1.flatMap (fun e => [e.1, e.2])) 0
  else
    let r := mapFac (fun e => kalman v d st.gate st.pMin stale m.1 e) m.2 { }
    ends r.2.bad r.2.flags (r.1.flatMap (fun e => [e.1.x, e.1.p.flatten])) ((r.1.filter (·.2)).length)

/-- A built-in job reaches its end; `cut` bounds the offers of SOLVE_QP that count. -/
def State.endBuiltin (p w : Nat) (c : Ctx) (cut : Option Nat) (s : State) : State :=
  let s := s.updCtx p w (fun c => { c with inputs := [(0, c.job.captured)] })
  if c.job.opcode = 0x2001 then s.endQp p w c cut
  else if c.job.opcode = 0x2002 then s.endLs p w c
  else s.endEstimate p w c

/-- The context of a built-in job that executes on a tile. -/
def State.builtinAt (p : Nat) (s : State) : Option Ctx :=
  match (s.tile p).cur with
  | some c => if c.live && c.job.builtin && decide ((s.dom p).rung = 0) then some c else none
  | none => none

end Sys2Proof.Machine
end

