-- ==== Sys2Proof/Machine/Scalar.lean ====
section
/-!
DEFINITION. The sequencer's own instructions: SYS, ALU, ALUI, MULDIV, PRED, BRANCH, LDST, TIME, MBOX and POWER (05 R147, R152
to R155, R163 to R169, R173, R174, R176; 03 R116, R117; 06 R209 to R213).
-/

set_option Elab.async false

namespace Sys2Proof.Machine

open Sys2Proof

/-! ## Arithmetic (R147, R152; 03 R116, R117) -/

/-- A .W result is bits [31:0], sign-extended. -/
def wForm (w : Bool) (x : W64) : W64 := if w then (x.setWidth 32 : W32).signExtend 64 else x

/-- A shift count: b[5:0], or b[4:0] in the .W form. -/
def shiftBy (w : Bool) (b : W64) : Nat := fld b 0 (if w then 5 else 6)

def aluAdd (_ : Bool) (a b : W64) : W64 := a + b
def aluSub (_ : Bool) (a b : W64) : W64 := a - b
def aluAnd (_ : Bool) (a b : W64) : W64 := a &&& b
def aluOr (_ : Bool) (a b : W64) : W64 := a ||| b
def aluXor (_ : Bool) (a b : W64) : W64 := a ^^^ b
def aluShl (w : Bool) (a b : W64) : W64 := a <<< shiftBy w b
def aluShr (w : Bool) (a b : W64) : W64 := if w then ((a.setWidth 32 : W32) >>> shiftBy w b).setWidth 64 else a >>> shiftBy w b
def aluSar (w : Bool) (a b : W64) : W64 :=
  if w then ((a.setWidth 32 : W32).sshiftRight (shiftBy w b)).signExtend 64 else a.sshiftRight (shiftBy w b)

/-- The signed operand of a form. -/
def sOf (w : Bool) (x : W64) : Int := if w then (x.setWidth 32 : W32).toInt else x.toInt
/-- The unsigned operand of a form. -/
def uOf (w : Bool) (x : W64) : Int := if w then ((x.setWidth 32 : W32).toNat : Int) else (x.toNat : Int)

/-- A saturating signed result and its flag (03 R116). -/
def satForm (w : Bool) (x : Int) : W64 × W32 :=
  let y := if w then sat32 x else sat64 x
  (i64 y, Fl.when (decide (y ≠ x)) Fl.sat)

def aluAdds (w : Bool) (a b : W64) : W64 × W32 := satForm w (sOf w a + sOf w b)
def aluSubs (w : Bool) (a b : W64) : W64 × W32 := satForm w (sOf w a - sOf w b)

/-- The high half of a product. -/
def highHalf (w : Bool) (x : Int) : W64 := wForm w (i64 (x / (if w then 2 ^ 32 else 2 ^ 64)))

def mulLow (w : Bool) (a b : W64) : W64 := wForm w (i64 (sOf w a * sOf w b))
def mulHigh (w : Bool) (a b : W64) : W64 := highHalf w (sOf w a * sOf w b)
def mulHighU (w : Bool) (a b : W64) : W64 := highHalf w (uOf w a * uOf w b)
def mulHighSU (w : Bool) (a b : W64) : W64 := highHalf w (sOf w a * uOf w b)

/-- Quotient and flags (03 R117). -/
def divS (w : Bool) (a b : W64) : W64 × W32 :=
  let hi : Int := if w then 2 ^ 31 - 1 else 2 ^ 63 - 1
  let x := sOf w a
  let y := sOf w b
  if y = 0 then (i64 (if x < 0 then -hi - 1 else hi), Fl.dz)
  else if tdiv x y > hi then (i64 hi, Fl.sat)
  else (i64 (tdiv x y), 0)

def divU (w : Bool) (a b : W64) : W64 × W32 :=
  if uOf w b = 0 then (BitVec.allOnes 64, Fl.dz) else (wForm w (i64 (uOf w a / uOf w b)), 0)

/-- The remainder takes the sign of the dividend; a zero divisor leaves the dividend. -/
def remS (w : Bool) (a b : W64) : W64 × W32 :=
  if sOf w b = 0 then (wForm w a, Fl.dz) else (i64 (Int.tmod (sOf w a) (sOf w b)), 0)

def remU (w : Bool) (a b : W64) : W64 × W32 :=
  if uOf w b = 0 then (wForm w a, Fl.dz) else (wForm w (i64 (uOf w a % uOf w b)), 0)

/-- d ← a op b, without a flag. -/
def aluOp (op : Bool → W64 → W64 → W64) : Body := fun h s =>
  let w := bit h.f 0
  h.done (fun c => c.setReg (Fmt.d h.f) (wForm w (op w (h.c.reg (Fmt.a h.f)) (h.c.reg (Fmt.b h.f))))) s

/-- d ← a op b, with flags. -/
def flagOp (op : Bool → W64 → W64 → W64 × W32) : Body := fun h s =>
  let r := op (bit h.f 0) (h.c.reg (Fmt.a h.f)) (h.c.reg (Fmt.b h.f))
  h.done (fun c => (c.setReg (Fmt.d h.f) r.1).raise 0 r.2) s

/-- d ← a op imm32, sign-extended. -/
def immOp (op : Bool → W64 → W64 → W64) : Body := fun h s =>
  let w := bit h.f 32
  h.done (fun c => c.setReg (Fmt.d h.f) (wForm w (op w (h.c.reg (Fmt.a h.f)) (Fmt.simm h.f)))) s

def execAdd (t : Nat) (f : BitVec 48) (s : State) : Res := issue t f (goodAlu f) (aluOp aluAdd) s
def execSub (t : Nat) (f : BitVec 48) (s : State) : Res := issue t f (goodAlu f) (aluOp aluSub) s
def execAnd (t : Nat) (f : BitVec 48) (s : State) : Res := issue t f (goodAlu f) (aluOp aluAnd) s
def execOr (t : Nat) (f : BitVec 48) (s : State) : Res := issue t f (goodAlu f) (aluOp aluOr) s
def execXor (t : Nat) (f : BitVec 48) (s : State) : Res := issue t f (goodAlu f) (aluOp aluXor) s
def execShl (t : Nat) (f : BitVec 48) (s : State) : Res := issue t f (goodAlu f) (aluOp aluShl) s
def execShr (t : Nat) (f : BitVec 48) (s : State) : Res := issue t f (goodAlu f) (aluOp aluShr) s
def execSar (t : Nat) (f : BitVec 48) (s : State) : Res := issue t f (goodAlu f) (aluOp aluSar) s
/-- MOV: d ← a. -/
def execMov (t : Nat) (f : BitVec 48) (s : State) : Res := issue t f (goodAlu1 f) (aluOp (fun _ a _ => a)) s
def execAdds (t : Nat) (f : BitVec 48) (s : State) : Res := issue t f (goodAlu f) (flagOp aluAdds) s
def execSubs (t : Nat) (f : BitVec 48) (s : State) : Res := issue t f (goodAlu f) (flagOp aluSubs) s

def execAddi (t : Nat) (f : BitVec 48) (s : State) : Res := issue t f (goodAlui f) (immOp aluAdd) s
def execAndi (t : Nat) (f : BitVec 48) (s : State) : Res := issue t f (goodAlui f) (immOp aluAnd) s
def execOri (t : Nat) (f : BitVec 48) (s : State) : Res := issue t f (goodAlui f) (immOp aluOr) s
def execXori (t : Nat) (f : BitVec 48) (s : State) : Res := issue t f (goodAlui f) (immOp aluXor) s
def execShli (t : Nat) (f : BitVec 48) (s : State) : Res := issue t f (goodAlui f) (immOp aluShl) s
def execShri (t : Nat) (f : BitVec 48) (s : State) : Res := issue t f (goodAlui f) (immOp aluShr) s
def execSari (t : Nat) (f : BitVec 48) (s : State) : Res := issue t f (goodAlui f) (immOp aluSar) s
/-- MOVI: d ← imm32, sign-extended; a is zero. -/
def execMovi (t : Nat) (f : BitVec 48) (s : State) : Res := issue t f (goodAlui f && decide (Fmt.a f = 0)) (immOp (fun _ _ b => b)) s
/-- MOVHI: d[63:32] ← imm32, d[31:0] ← a[31:0]. -/
def execMovhi (t : Nat) (f : BitVec 48) (s : State) : Res :=
  issue t f (goodAlui f) (immOp (fun _ a b => (b <<< 32) ||| (a &&& 0xFFFFFFFF))) s
def execAddsi (t : Nat) (f : BitVec 48) (s : State) : Res :=
  issue t f (goodAlui f) (fun h s =>
    let r := aluAdds (bit h.f 32) (h.c.reg (Fmt.a h.f)) (Fmt.simm h.f)
    h.done (fun c => (c.setReg (Fmt.d h.f) r.1).raise 0 r.2) s) s

def execMul (t : Nat) (f : BitVec 48) (s : State) : Res := issue t f (goodAlu f) (aluOp mulLow) s
def execMulh (t : Nat) (f : BitVec 48) (s : State) : Res := issue t f (goodAlu f) (aluOp mulHigh) s
def execMulhu (t : Nat) (f : BitVec 48) (s : State) : Res := issue t f (goodAlu f) (aluOp mulHighU) s
def execMulhsu (t : Nat) (f : BitVec 48) (s : State) : Res := issue t f (goodAlu f) (aluOp mulHighSU) s
def execDiv (t : Nat) (f : BitVec 48) (s : State) : Res := issue t f (goodAlu f) (flagOp divS) s
def execDivu (t : Nat) (f : BitVec 48) (s : State) : Res := issue t f (goodAlu f) (flagOp divU) s
def execRem (t : Nat) (f : BitVec 48) (s : State) : Res := issue t f (goodAlu f) (flagOp remS) s
def execRemu (t : Nat) (f : BitVec 48) (s : State) : Res := issue t f (goodAlu f) (flagOp remU) s

/-! ## Compares and predicates (R147) -/

/-- The conditions of CMP: 0 EQ, 1 NE, 2 LT, 3 LE, 4 LTU, 5 LEU. -/
def cmpCc (cc : Nat) (w : Bool) (a b : W64) : Bool :=
  match cc with
  | 0 => decide (uOf w a = uOf w b)
  | 1 => decide (uOf w a ≠ uOf w b)
  | 2 => decide (sOf w a < sOf w b)
  | 3 => decide (sOf w a ≤ sOf w b)
  | 4 => decide (uOf w a < uOf w b)
  | _ => decide (uOf w a ≤ uOf w b)

def execCmp (t : Nat) (f : BitVec 48) (s : State) : Res :=
  issue t f (decide (Fmt.d f < 8 ∧ Fmt.c f = 0 ∧ fld f 4 20 = 0 ∧ fld f 0 3 ≤ 5))
    (fun h s => h.done (fun c => c.setPred (Fmt.d h.f) (cmpCc (fld h.f 0 3) (bit h.f 3) (h.c.reg (Fmt.a h.f)) (h.c.reg (Fmt.b h.f)))) s) s

/-- d ← a op b over predicates. -/
def predOp (op : Bool → Bool → Bool) : Body := fun h s =>
  h.done (fun c => c.setPred (Fmt.d h.f) (op (h.c.pred (Fmt.a h.f)) (h.c.pred (Fmt.b h.f)))) s

def execPand (t : Nat) (f : BitVec 48) (s : State) : Res := issue t f (goodPred f) (predOp (· && ·)) s
def execPor (t : Nat) (f : BitVec 48) (s : State) : Res := issue t f (goodPred f) (predOp (· || ·)) s
def execPxor (t : Nat) (f : BitVec 48) (s : State) : Res := issue t f (goodPred f) (predOp (· != ·)) s
def execPnot (t : Nat) (f : BitVec 48) (s : State) : Res := issue t f (goodPred f && decide (Fmt.b f = 0)) (predOp (fun a _ => !a)) s

/-! ## Branches (R147, R152) -/

/-- A taken branch, counted (17 R551). `here` is the index of the branch itself. -/
def At.branch (h : At) (g : Ctx → Ctx) (target : Nat) (s : State) : State × Halt :=
  ((h.set (fun c => (g c).jump target) s).tileEvent h.p 0x6 1, .ok)

/-- The target: the offset counts from the branch itself. -/
def At.target (h : At) : Nat := (h.c.pc + 32767 + fld h.f 0 15) % 32768

def execBr (t : Nat) (f : BitVec 48) (s : State) : Res := issue t f (goodB false true f) (fun h s => h.branch id h.target s) s
/-- CALL: ga takes the index of the next instruction. -/
def execCall (t : Nat) (f : BitVec 48) (s : State) : Res :=
  issue t f (goodB true true f) (fun h s => h.branch (fun c => c.setReg (Fmt.d h.f) (BitVec.ofNat 64 h.c.pc)) h.target s) s
def execRet (t : Nat) (f : BitVec 48) (s : State) : Res :=
  issue t f (goodB true false f) (fun h s => h.branch id (h.c.reg (Fmt.d h.f)).toNat s) s
/-- LOOP: ga ← ga − 1; the branch is taken if ga then reads other than zero. -/
def execLoop (t : Nat) (f : BitVec 48) (s : State) : Res :=
  issue t f (goodB true true f) (fun h s =>
    let g := fun (c : Ctx) => c.setReg (Fmt.d h.f) (h.c.reg (Fmt.d h.f) - 1)
    if (g h.c).reg (Fmt.d h.f) ≠ 0 then h.branch g h.target s else h.done g s) s

/-! ## Loads and stores (R155) -/

def loadBody (n : Nat) (ext : List Byte → W64) : Body := fun h s =>
  match h.addr n with
  | none => (s, h.bad)
  | some a => h.reading 0 (Fmt.store h.f) a n (fun bs s => h.done (fun c => c.setReg (Fmt.d h.f) (ext bs)) s) s

def storeBody (n : Nat) : Body := fun h s =>
  match h.addr n with
  | none => (s, h.bad)
  | some a => h.writing (Fmt.store h.f) a (leBytes n (h.c.reg (Fmt.d h.f)).toNat) s

/-- LD.W sign-extends. -/
def execLdW (t : Nat) (f : BitVec 48) (s : State) : Res := issue t f (goodM f) (loadBody 4 (fun bs => (w32At 0 bs).signExtend 64)) s
def execLdD (t : Nat) (f : BitVec 48) (s : State) : Res := issue t f (goodM f) (loadBody 8 (fun bs => w64At 0 bs)) s
def execStW (t : Nat) (f : BitVec 48) (s : State) : Res := issue t f (goodM f) (storeBody 4) s
def execStD (t : Nat) (f : BitVec 48) (s : State) : Res := issue t f (goodM f) (storeBody 8) s

/-! ## Time (R166, R167; 01 R31) -/

/-- What TBREAD reads: the live count, or in a STRICT job the reference count. -/
def Ctx.readCount (now : Nat) (c : Ctx) : Nat := if c.job.tput then now else if c.job.binding.isSome then c.job.boundary else c.job.accept

def execTbreadS (t : Nat) (f : BitVec 48) (s : State) : Res :=
  issue t f (goodI true false false f) (fun h s => h.done (fun c => c.setReg (Fmt.d h.f) ((short (h.c.readCount s.now)).setWidth 64)) s) s

def execTbreadL (t : Nat) (f : BitVec 48) (s : State) : Res :=
  issue t f (goodI true false false f && decide (Fmt.d f ≠ 31)) (fun h s =>
    let n := h.c.readCount s.now
    h.done (fun c => (c.setReg (Fmt.d h.f) (BitVec.ofNat 64 (n / 1000000000))).setReg (Fmt.d h.f + 1) (BitVec.ofNat 64 (n % 1000000000))) s) s

def execTbdl (t : Nat) (f : BitVec 48) (s : State) : Res :=
  issue t f (goodI true false false f) (fun h s =>
    let d : W32 := match h.c.job.deadline with
      | some d => short d
      | none => 0xFFFFFFFF
    h.done (fun c => c.setReg (Fmt.d h.f) (d.setWidth 64)) s) s

/-- TBWAIT holds until the target does not lie ahead of the live count. -/
def execTbwait (t : Nat) (f : BitVec 48) (s : State) : Res :=
  issue t f (goodI false true false f) (fun h s =>
    if (short s.now - (h.c.reg (Fmt.a h.f)).setWidth 32).toNat < 2 ^ 31 then h.done id s else (s, .hold)) s

/-! ## Mailboxes (R168, R169) -/

def execMbwr (t : Nat) (f : BitVec 48) (s : State) : Res :=
  issue t f (goodI false true true f && decide (fld f 8 24 = 0)) (fun h s =>
    let m := fld h.f 0 8
    let mapped := match (s.tile h.p).cu with
      | some u => decide (u.owner = h.w) && u.mailboxes.contains m
      | none => false
    if mapped || !(s.mailboxesOf h.c.job).contains m then (s, h.bad)
    else h.done (fun c => { c with staged := Tbl.insert m ((h.c.reg (Fmt.a h.f)).setWidth 32) c.staged,
                                   mbwr := if c.mbwr.contains m then c.mbwr else c.mbwr ++ [m] }) s) s

/-! ## Bank power (R173, R174) -/

/-- A bank that the context may take off: wholly inside its footprint, no open coil, no persistent region. -/
def State.mayTakeOff (p : Nat) (c : Ctx) (b : Nat) (s : State) : Bool :=
  let r := bankRange b
  let t := s.tile p
  let meets := fun (st off n : Nat) => decide (st = r.1 ∧ off < r.2.1 + r.2.2 ∧ r.2.1 < off + n)
  let coilIn := fun (x : Coil) => x.isOpen && meets x.store x.base x.size
  let open_ := (t.ctx0.toList ++ t.ctx1.toList).any (fun x => x.coils.any (fun e => coilIn e.2)) ||
    t.restCoils.any (fun x => t.holdsImage x.1 && x.2.any (fun e => coilIn e.2))
  inFoot c.job.image r.1 r.2.1 r.2.2 && !open_ &&
    !t.images.any (fun im => im.sections.any (fun x => decide (x.kind = 4) && x.persistent && x.meets r.1 r.2.1 r.2.2))

def execBankpwr (t : Nat) (f : BitVec 48) (s : State) : Res :=
  issue t f (goodI false true true f && decide ((Fmt.imm f).toNat ≤ 2)) (fun h s =>
    let m := h.c.reg (Fmt.a h.f)
    let g : BankSt := match (Fmt.imm h.f).toNat with
      | 0 => .off
      | 1 => .retain
      | _ => .on
    let bs := (List.range 40).filter (fun b => bit m b)
    if fld m 40 24 ≠ 0 || (decide (g ≠ .on) && bs.any (fun b => !s.mayTakeOff h.p h.c b)) then (s, h.bad)
    else (s.updTile h.p (fun t => bs.foldl (fun t b => t.requestBank b g (some h.w)) t), .ok)) s

/-- BPWAIT stalls while a transition that the context requested is pending. -/
def execBpwait (t : Nat) (f : BitVec 48) (s : State) : Res :=
  issue t f (goodI false false false f) (fun h s => if (s.tile h.p).bankReq.all (fun r => decide (r.by_ ≠ some h.w)) then h.done id s else (s, .hold)) s

/-! ## SYS (R163 to R165, R176) -/

def execNop (t : Nat) (f : BitVec 48) (s : State) : Res := issue t f (goodI false false false f) (fun h s => h.done id s) s

/-- Every operation that was issued has completed, so FPBAR only takes a pending trap (log entry 7). -/
def execFpbar (t : Nat) (f : BitVec 48) (s : State) : Res :=
  issue t f (goodI false false false f) (fun h s => if h.c.trap then (s, .bad St.fpTrap 0) else h.done id s) s

/-- The DMA queues are empty and the scoreboard is released. -/
def Tile.quiet (t : Tile) : Bool := t.dma.all (fun e => e.2.descs.isEmpty) && t.sb.all (fun e => !e.2.valid)

def execIdle (t : Nat) (f : BitVec 48) (s : State) : Res :=
  issue t f (goodI false false false f) (fun h s => if (s.tile h.p).quiet then h.done id s else (s, .hold)) s

def execFlgrd (t : Nat) (f : BitVec 48) (s : State) : Res :=
  issue t f (goodI true false false f) (fun h s => h.done (fun c => c.setReg (Fmt.d h.f) (h.c.flagW.setWidth 64)) s) s

def execFlgclr (t : Nat) (f : BitVec 48) (s : State) : Res :=
  issue t f (goodI false false true f) (fun h s => h.done (fun c => { c with flagW := h.c.flagW &&& ~~~(Fmt.imm h.f) }) s) s

def execTrapw (t : Nat) (f : BitVec 48) (s : State) : Res :=
  issue t f (goodI false true false f) (fun h s => h.done (fun c => { c with trapW := (h.c.reg (Fmt.a h.f)).setWidth 32 }) s) s

/-- The bytes of the output area that a job has written (10 R341). -/
def writtenIn (lo n : Nat) : List (Nat × Nat) → List (Nat × Nat) → Nat
  | _, [] => 0
  | seen, r :: rs =>
    let a := max lo r.1
    let e := min (lo + n) (r.1 + r.2)
    ((List.range (e - a)).filter (fun j => !seen.any (fun x => decide (x.1 ≤ a + j ∧ a + j < x.1 + x.2)))).length + writtenIn lo n (r :: seen) rs

/-- The result words of an on-demand job at JEND (10 R341). -/
def Ctx.result (c : Ctx) : W64 :=
  if c.job.binding.isSome then 0
  else if c.job.opcode = 0x2006 then c.reg 1
  else if c.job.opcode = 0x2004 ∨ c.job.opcode = 0x2005 then
    BitVec.ofNat 64 (writtenIn (fld c.job.pkt.hdr.w2 0 40) (fld c.job.pkt.hdr.w2 40 24) [] c.wroteHbm)
  else 0

/-- The commit map's values over those of MBWR. -/
def mergeStaged (a b : Tbl W32) : Tbl W32 := b.foldl (fun t e => Tbl.insert e.1 e.2 t) a

/-- The held iterates are frozen and the job ends with the status of R211 and R212; without a commit map it is DONE. -/
def State.commitEnd (p w : Nat) (c : Ctx) (s : State) : State :=
  match (s.tile p).cu with
  | some u =>
    if u.owner = w then
      (s.freeze p w c u).endJob p w { st := u.status c.jobAcc, flags := u.flags, staged := mergeStaged c.staged u.staged,
                                      mapped := (s.tile p).mapped w, r0 := c.result }
    else s.endJob p w { st := St.done, staged := c.staged, r0 := c.result }
  | none => s.endJob p w { st := St.done, staged := c.staged, r0 := c.result }

/-- The deadline count (06 R210, R211): what was issued has retired. A pending trap is taken; the held iterates are frozen;
a job without them fails. -/
def State.freezeAt (p w cut : Nat) (c : Ctx) (s : State) : State :=
  if c.job.builtin then
    if c.job.opcode ≠ 0x2001 ∨ c.started.all (fun t => decide (s.now < t)) then s.failJob p w St.overrun 0 else s.endBuiltin p w c (some cut)
  else if c.trap then s.failJob p w St.fpTrap 0
  else if (s.tile p).cu.any (fun u => decide (u.owner = w)) then s.commitEnd p w c
  else s.failJob p w St.overrun 0

/-- JEND of the executing program; of a built-in image, its own end. -/
def execJend (t : Nat) (f : BitVec 48) (s : State) : Res :=
  match s.builtinAt t with
  | some c => within t 68 (s.endBuiltin t (s.tile t).execSlot c none)
  | none => issue t f (goodI false false false f) (fun h s =>
    if !(s.tile h.p).quiet then (s, .hold)
    else if h.c.trap then (s, .bad St.fpTrap 0)
    else (s.commitEnd h.p h.w h.c, .ok)) s

end Sys2Proof.Machine
end

