-- ==== Sys2Proof/Machine/Power.lean ====
section
/-!
DEFINITION. The power sequencer: rungs, wake slots, bank transitions, clock steps and heat (11 R372 to R388).
A transition starts where a rule requests it and ends with RUNG_REACHED; a wake that needs a slot waits for WAKE_SLOT.
-/

set_option Elab.async false

namespace Sys2Proof.Machine

open Sys2Proof

/-! ## Who caused a change -/

/-- The command with a sequence number, for its journal entry (10 R346). -/
def State.causeOf (q sq : Nat) (s : State) : Cause :=
  match s.outstOf q sq with
  | some o => { queue := q, tag := o.pkt.hdr.tag, seq := sq, opcode := o.pkt.opcode.toNat }
  | none => { queue := q, seq := sq }

/-! ## Domains (R377, R386) -/

/-- The domains with no rung but FIRE: HBM controllers and PHY, USB, mesh segments. -/
def fireOnly (d : Nat) : Bool := decide (84 ≤ d ∧ d ≤ 92) || decide (d = 106) || decide (108 ≤ d ∧ d ≤ 115)

/-- Whether a condition of R377 holds the domain at its rung: a commit unit or a built-in SOLVE_QP with an iterate (06 R214);
a domain that is always in service, once it is at FIRE. -/
def State.held (d : Nat) (s : State) : Bool :=
  if d < 68 then (s.tile d).cu.isSome || ((s.tile d).ctx0.toList ++ (s.tile d).ctx1.toList).any (fun c => c.live && decide (c.job.opcode = 0x2001))
  else if fireOnly d then decide ((s.dom d).rung = 0)
  else if d ≤ 83 ∨ (93 ≤ d ∧ d ≤ 98) then s.anySlotBound
  else if d ≤ 102 then s.links.any (fun e => decide (e.1 / 8 = d - 99) && bit e.2.cfg 0)
  else if d ≤ 104 then
    bit (s.port (d - 103)).ctl 0 && (bit (s.port (d - 103)).ctl 4 || (decide (s.wit.mode = .record) && bit s.wit.outputs (d - 103)))
  else if d = 105 then decide (s.twin.role ≠ .solo)
  else decide (s.wit.mode ≠ .off)

/-- The rungs that SET_RUNG may ask of a domain now (R377, R378). -/
def State.rungAllowed (d r : Nat) (s : State) : Bool :=
  decide (r = 0) || (if d < 68 then decide (r = 1) || !((s.tile d).reserved || s.held d) else !fireOnly d && !s.held d)

/-- A tile takes no new work: SET_RUNG holds it, or a self-test kept it closed. -/
def Dom.shutOut (x : Dom) : Bool := x.closed || x.kept

/-- PWR_DOMn. The rung requested of a tile that SET_RUNG closed shows before its job has ended. -/
def State.domReg (d : Nat) (s : State) : W64 :=
  let x := s.dom d
  at64 (b2n (s.held d)) 8 ||| at64 (b2n x.busy) 7 ||| at64 (if x.closed then x.want else x.target).toNat 4 ||| at64 (b2n x.closed) 3 ||| at64 x.rung.toNat 0

def domAddr (d : Nat) : Nat := 0x500000 + 8 * d

/-! ## What a rung does to a tile (R376, R381; 02 R73) -/

/-- The persistent regions of the resident images, which are saved before DRY. -/
def Tile.persistent (t : Tile) : List Section := t.residents.flatMap (fun i => i.sections.filter (fun x => decide (x.kind = 4) && x.persistent))

/-- The saved bytes of a list of sections, read by the DMA engine through SECDED (02 R53), with the first uncorrectable
word. A region that is saved for DRY keeps the bytes delivered, since no job ends (log entry 183). -/
def State.saveSections (p : Nat) : List Section → State → List (Nat × List Byte) × State × Option W64
  | [], s => ([], s, none)
  | x :: xs, s =>
    let r := s.storeRead p 4 x.store x.storeOff x.size
    let t := State.saveSections p xs r.2.1
    ((storeBase x.store + x.storeOff, r.1) :: t.1, t.2.1, match r.2.2 with
      | some o => some (locStore p x.store o)
      | none => t.2.2)

/-- What is pending takes effect, every ON bank goes to RETAIN, and comes back at the exit. -/
def Tile.cool (t : Tile) : Tile :=
  let t := t.settleBanks
  let bs := (List.range 40).filter (fun b => decide (t.bank b = .on))
  { (bs.foldl (fun t b => t.setBank b .retain) t) with coolBanks := bs }

/-- After the save every bank is OFF and the I-store is lost. The resident images keep their coil descriptors, and of
their sections the persistent regions. -/
def Tile.dry (keep : List (Nat × List Byte)) (t : Tile) : Tile :=
  let lost := t.residents.foldl (fun l im => addSecs im ((im.sections.zipIdx.filter (fun e => decide (e.1.kind ≠ 5) && !(decide (e.1.kind = 4) && e.1.persistent))).map (·.2)) l) []
  { t with dryKeep := keep, lost := lost, coolBanks := [], bankReq := [], banks := [], mem := [], upset := [] }

/-- The banks return to ON. -/
def Tile.uncool (t : Tile) : Tile := { (t.coolBanks.foldl (fun t b => t.setBank b .on) t) with coolBanks := [] }

/-- The bank of a window offset below the I-store. -/
def windowBank (a : Nat) : Nat :=
  if a < 0x400000 then bankOf 0 a else if a < 0x600000 then bankOf 1 (a - 0x400000) else bankOf 2 (a - 0x600000)

/-- The saved regions are restored into banks that come ON. -/
def Tile.undry (t : Tile) : Tile :=
  let t := t.dryKeep.foldl (fun t e =>
    let bs := (List.range (windowBank (e.1 + e.2.length - 1) - windowBank e.1 + 1)).map (· + windowBank e.1)
    let t := bs.foldl (fun t b => t.setBank b .on) t
    { t with mem := Mem.store e.1 e.2 t.mem }) t
  { t with dryKeep := [] }

/-- A tile changes from one rung to another. `keep` is what the save before DRY read. -/
def Tile.changeRung (old new : Nat) (keep : List (Nat × List Byte)) (t : Tile) : Tile :=
  let t := if old = 4 ∧ new < 4 then t.undry else t
  let t := if 3 ≤ old ∧ new < 3 then t.uncool else t
  if new = 4 ∧ old < 4 then t.dry keep
  else if new = 3 ∧ old ≠ 3 then t.cool else t

/-- The same with the save. -/
def State.changeRung (p old new : Nat) (s : State) : State :=
  if new = 4 ∧ old < 4 then
    let r := s.saveSections p (s.tile p).persistent
    r.2.1.updTile p (Tile.changeRung old new r.1)
  else s.updTile p (Tile.changeRung old new [])

/-! ## Transitions (R376, R378, R380) -/

/-- A transition starts. Exits from BANK, COOL and DRY wait for a wake slot. -/
def State.moveDom (d : Nat) (r : BitVec 3) (s : State) : State :=
  let x := s.dom d
  let others := s.kiln.wakes.filter (fun w => decide (w ≠ d))
  if x.rung = r then (s.setDom d { x with busy := false, target := r, waiting := false }).setKiln { s.kiln with wakes := others }
  else
    let slot := decide (r.toNat < x.rung.toNat ∧ 2 ≤ x.rung.toNat)
    let wakes := if slot then (if x.waiting then s.kiln.wakes else others ++ [d]) else others
    (s.setDom d { x with busy := true, target := r, waiting := slot }).setKiln { s.kiln with wakes := wakes }

/-- The commands that asked for a rung complete, each with its journal entry (R378; 10 R345). -/
def State.rungDone (d : Nat) (s : State) : State :=
  let x := s.dom d
  let s := s.setDom d { x with byCmd := [] }
  x.byCmd.foldl (fun s c =>
    let now := s.domReg d
    let s := if now = c.2.2 then s else s.journalNow (s.causeOf c.1 c.2.1) (at64 (domAddr d) 0) (some (w64Bytes c.2.2)) (some (w64Bytes now))
    s.finish c.1 c.2.1 St.done) s

/-- The tile is quiet: no descriptor is active and no access is in flight at a bank (R376, R382). -/
def Tile.atRest (t : Tile) : Bool := t.descs.isEmpty && t.sb.all (fun e => !e.2.valid) && (List.range 40).all (fun b => decide (t.inFlight b = 0))

/-- The domain of the twin link leaves FIRE, and the link is down; at FIRE it trains (16 R532, R540). -/
def State.linkRung (r : BitVec 3) (s : State) : State :=
  if r ≠ 0 then s.setTwin { s.twin with linkState := 0, lanesLocked := 0 }
  else if s.twin.linkState = 0 then s.setTwin { s.twin with linkState := 1 }
  else s

/-- The rung of a transition is reached. A tile enters a lower rung after quiescence (R376). -/
def State.rungReached (d : Nat) (s : State) : State :=
  let x := s.dom d
  if !x.busy || x.waiting || (decide (d < 68 ∧ x.rung.toNat < x.target.toNat) && !(s.tile d).atRest) then s
  else
    let s := s.setDom d { x with busy := false, rung := x.target }
    let s := if d < 68 then (s.changeRung d x.rung.toNat x.target.toNat).updTile d (fun t => { t with idleSince := if x.target = 0 then s.now else t.idleSince }) else s
    let s := if d = 97 ∨ d = 98 then s.islandRung (d - 97) else s
    let s := if d = 105 then s.linkRung x.target else s
    if x.byCmd.isEmpty ∨ x.want ≠ x.target then s else s.rungDone d

/-- A tile comes to FIRE. -/
def State.rouse (p : Nat) (s : State) : State :=
  let x := s.dom p
  if x.target = 0 ∧ (x.busy ∨ x.rung = 0) then s else s.moveDom p 0

/-- SET_RUNG holds the tile below FIRE (R378). -/
def State.shut (p : Nat) (s : State) : Bool := (s.dom p).closed && decide ((s.dom p).target ≠ 0)

/-- A tile of which the kiln wants work comes to FIRE, unless SET_RUNG holds it at its rung. -/
def State.wake (p : Nat) (s : State) : State := if s.shut p then s else s.rouse p

/-- Every domain that a condition now holds at FIRE comes to FIRE (01 R23; R377); SET_RUNG no longer holds it below, and a
SET_RUNG under way completes there (log entry 183). -/
def State.fireHeld (s : State) : State :=
  ((List.range 116).drop 68).foldl (fun s d =>
    if s.held d && decide ((s.dom d).target ≠ 0) then (s.moveDom d 0).updDom d (fun x => { x with closed := false, want := 0 }) else s) s

/-- A program runs on the tile. -/
def Tile.executing (t : Tile) : Bool :=
  let go := fun (c : Option Ctx) => match c with
    | some c => c.live && decide (c.wait = none)
    | none => false
  go t.ctx0 || go t.ctx1

/-! ## Swapping contexts out (R364 to R366) -/

/-- The descriptors and scoreboard entries of a context are gone (02 R62). -/
def Tile.quietFor (w : Nat) (t : Tile) : Bool := t.descs.all (fun e => decide (e.2.slot ≠ w)) && t.sb.all (fun e => !e.2.valid)

/-- The context in slot `w` leaves its tile, with its architectural state and its saved sections. A context that waits
for the commit unit may run where the unit is free. A save that meets an uncorrectable word ends the job (02 R54). -/
def State.swapOut (p w : Nat) (s : State) : State :=
  let s := s.foldCycles p w
  match s.ctx p w with
  | none => s
  | some c =>
    let r := s.saveSections p c.savedSections
    match r.2.2 with
    | some l => r.2.1.failJob p w St.dataError l
    | none =>
    let s := r.2.1
    let t := (s.tile p).disown w
    let saved := r.1
    let c' := match c.wait with
      | some .commit => { c with wait := none }
      | _ => c
    let e : Swapped := { ctx := c', saved := saved, home := p, runnable := decide (c'.wait = none) }
    ((s.setTile p { (t.setSlot w none) with residents :=
      (if c.wroteSecs.isEmpty then [c.job.image] else []) ++ t.residents.filter (fun r => !r.same c.job.image) }).setKiln
      { s.kiln with swapped := s.kiln.swapped ++ [e] }).tileEvent p 0x29 1

/-- The on-demand contexts of a tile that do not execute are swapped out, where they are quiet. A context that holds the
commit unit stays until its freeze (R364). -/
def State.swapAll (p : Nat) (s : State) : State :=
  [0, 1].foldl (fun s w =>
    match s.ctx p w with
    | some c =>
      let t := s.tile p
      if c.live && c.job.binding.isNone && t.quietFor w && !t.cu.any (fun u => decide (u.owner = w)) && (decide (c.wait ≠ none) || decide (t.execSlot ≠ w)) then s.swapOut p w else s
    | none => s) s

/-! ## SET_RUNG (R378) -/

/-- A closed tile goes to its rung once no job runs there, and no condition holds it above (06 R214; R368). -/
def State.settleRung (p : Nat) (s : State) : State :=
  let x := s.dom p
  if !x.closed || (s.tile p).executing || decide (x.want = x.target) || ((s.held p || (s.tile p).reserved) && decide (2 ≤ x.want.toNat)) then s
  else
    let s := if x.want = 4 then s.swapAll p else s
    if x.want = 4 ∧ (s.tile p).contexts ≠ 0 then s else s.moveDom p x.want

/-- SET_RUNG no longer holds a tile below SOAK; one under way completes at the rung that the tile reaches (R368; log entry 183). -/
def State.unshut (p : Nat) (s : State) : State :=
  let x := s.dom p
  if !x.closed || decide (x.want.toNat ≤ 1) then s
  else
    let s := (s.updDom p (fun x => { x with closed := false, want := 0 })).rouse p
    if (s.dom p).rung = 0 ∧ !(s.dom p).busy then s.rungDone p else s

/-- SET_RUNG is accepted. For a tile, rung 0 returns it to the automatic policy and the others close it; PWR_DOMn shows any
domain closed that is held below FIRE (R386). -/
def State.setRung (d r q sq : Nat) (s : State) : State :=
  let before := s.domReg d
  let s := s.updDom d (fun x => { x with want := BitVec.ofNat 3 r, closed := decide (r ≠ 0), kept := false, byCmd := x.byCmd ++ [(q, sq, before)] })
  let s := if d < 68 then s.updTile d (fun t => { t with closed := t.reserved || t.selfTest || decide (r ≠ 0) }) else s
  let s := if d < 68 ∧ r ≠ 0 then s.settleRung d else s.moveDom d (BitVec.ofNat 3 r)
  let x := s.dom d
  if x.rung = BitVec.ofNat 3 r ∧ !x.busy then s.rungDone d else s

/-! ## The automatic ladder (R214, R368, R379) -/

/-- Since when no context executes. -/
def Tile.idleFrom (t : Tile) : Nat :=
  let go := fun (c : Option Ctx) => match c with
    | some c => if c.live then c.waitSince else 0
    | none => 0
  max t.idleSince (max (go t.ctx0) (go t.ctx1))

/-- The next rung down whose time has passed; a threshold is measured from the start of the idle time, and a field of
zero disables its step. -/
def State.idleRung (p : Nat) (s : State) : Option Nat :=
  let t := s.tile p
  let k := s.kiln.idle
  let r := (s.dom p).rung.toNat
  let since := t.idleFrom
  let passed := fun (ns : Nat) => decide (ns ≠ 0) && decide (since + ns ≤ s.now)
  if r < 1 ∧ passed (fld k 0 16) then some 1
  else if t.reserved ∨ s.held p then none
  else if r < 2 ∧ passed (1000 * fld k 16 16) then some 2
  else if r < 3 ∧ passed (1000 * fld k 32 16) then some 3
  else none

def State.idleStep (p : Nat) (s : State) : State :=
  let t := s.tile p
  let x := s.dom p
  if x.closed then s.settleRung p
  else if t.failed || t.executing || x.busy || s.kiln.ready.any (fun j => decide (j.pin = some p)) then s
  else
    match s.idleRung p with
    | some r => s.moveDom p (BitVec.ofNat 3 r)
    | none => s

/-! ## The ready-list order (R358) -/

/-- Deadline with none last, acceptance stamp, queue. -/
def jobKey (j : Job) : List Nat :=
  [(match j.deadline with | some _ => 0 | none => 1), j.deadline.getD 0, j.accept, j.queue]

def keyLt : List Nat → List Nat → Bool
  | x :: xs, y :: ys => decide (x < y) || (decide (x = y) && keyLt xs ys)
  | _, _ => false

/-- The higher priority first, then by the key. -/
def jobBefore (a b : Job) : Bool := decide (b.prio < a.prio) || (decide (a.prio = b.prio) && keyLt (jobKey a) (jobKey b))

/-- The earliest of a list in ready-list order, the first of equals. -/
def firstJob : List Job → Option Job
  | [] => none
  | j :: js =>
    match firstJob js with
    | some k => some (if jobBefore k j then k else j)
    | none => some j

/-! ## Wake slots (R380) and clock steps (R373) -/

/-- The clock step of a tile in the list of waiting wakes. -/
def stepWake : Nat := 200

/-- The job that a waiting wake is for. -/
def State.wakeJob (w : Nat) (s : State) : Option Job :=
  if w < 68 then firstJob ([(s.tile w).ctx0, (s.tile w).ctx1].filterMap (fun c => match c with
    | some c => if c.live then some c.job else none
    | none => none))
  else none

/-- Wakes for jobs come in ready-list order, before the others in the order in which they began to wait. -/
def State.nextWake (s : State) : Option Nat :=
  let js := s.kiln.wakes.filterMap (fun w => s.wakeJob w)
  match firstJob js with
  | some j => s.kiln.wakes.find? (fun w => decide (s.wakeJob w = some j))
  | none => s.kiln.wakes.head?

/-- TILE_STATUS address of a physical tile. -/
def tileStatusAddr (p : Nat) : Nat := 0x1000008 + p * 0x10000

/-- A tile takes a clock step: its cycles so far are kept, the jobs that it holds are throttled, and the step is a
device-initiated journal entry (R361, R373). -/
def State.takeStep (p : Nat) (c : BitVec 2) (s : State) : State :=
  if (s.tile p).clkStep = c then s
  else
    let before := s.tilePeek p 8
    let s := (s.foldCycles p 0).foldCycles p 1
    let mark := fun (x : Ctx) => if x.live && decide (c ≠ 0) then { x with job := { x.job with throttled := true } } else x
    let s := s.updTile p (fun t => { t with clkStep := c, ctx0 := t.ctx0.map mark, ctx1 := t.ctx1.map mark })
    let s := (s.setKiln { s.kiln with steps := satAdd s.kiln.steps 1 }).event 0x1C8 0 1
    s.journalNow byDevice (at64 (tileStatusAddr p) 0) (before.map w64Bytes) ((s.tilePeek p 8).map w64Bytes)

/-- The step at which a tile is, or to which it is on its way. -/
def State.stepGoal (p : Nat) (s : State) : BitVec 2 :=
  match s.kiln.stepsDue.find? (fun e => decide (e.1 = p)) with
  | some e => e.2.2
  | none => (s.tile p).clkStep

/-- A step is decided: it takes effect 100 ns later (R373). -/
def State.stepClock (p : Nat) (c : BitVec 2) (s : State) : State :=
  if s.stepGoal p = c then s
  else
    let others := s.kiln.stepsDue.filter (fun e => decide (e.1 ≠ p))
    s.setKiln { s.kiln with stepsDue := others ++ (if (s.tile p).clkStep = c then [] else [(p, s.now + 100, c)]) }

/-- The steps whose count has come take effect. -/
def State.clockSteps (s : State) : State :=
  let due := s.kiln.stepsDue.filter (fun e => decide (e.2.1 ≤ s.now))
  if due.isEmpty then s
  else due.foldl (fun s e => s.takeStep e.1 e.2.2) (s.setKiln { s.kiln with stepsDue := s.kiln.stepsDue.filter (fun e => decide (s.now < e.2.1)) })

/-- A slot opens: one waiting wake starts. -/
def State.wakeSlot (s : State) : State :=
  match s.nextWake with
  | none => s
  | some w =>
    let s := (s.setKiln { s.kiln with wakes := s.kiln.wakes.filter (fun x => decide (x ≠ w)) }).event 0x1C9 0 1
    if w < stepWake then s.updDom w (fun x => { x with waiting := false })
    else
      let p := w - stepWake
      if (s.tile p).reserved ∨ s.kiln.hotSince.isSome ∨ s.kiln.critical then s else s.stepClock p (s.stepGoal p - 1)

/-! ## Heat (R372 to R375) -/

def critTemp : Int := if Config.extended then 115 else 110

/-- The hottest reading and its tile. -/
def hottest (ts : List Int) : Int × Nat :=
  ((ts.take 68).zipIdx).foldl (fun (m : Int × Nat) e => if m.1 < e.1 then e else m) (ts.headD 0, 0)

def thermLevelOf (t : Int) : BitVec 2 := if t ≥ critTemp then 3 else if t ≥ 100 then 2 else if t ≥ 95 then 1 else 0

/-- The tiles that throttling concerns. -/
def State.unreserved (s : State) : List Nat := (List.range 68).filter (fun p => !(s.tile p).reserved && !(s.tile p).failed)

/-- The derating factor in tenths (R369). -/
def derate (t : Int) : Nat := if t < 95 then 10 else if t = 95 then 9 else if t = 96 then 8 else if t = 97 then 7 else if t = 98 then 6 else 5

/-- Millicones per µs reserved by standing bindings (R369), each rounded up. -/
def reservedOf (cones period : Nat) : Nat := if period = 0 then 0 else (cones * 1000000 + period - 1) / period

def State.reservedRate (s : State) : Nat := (s.bindings.map (fun e => reservedOf e.2.image.cones e.2.period)).sum

/-- The refill per tick at the present derating (R369); a fraction is dropped. -/
def State.refill (s : State) : Nat := s.kiln.capMw.toNat * derate s.kiln.tMax.toInt / 10

def State.onDemandRate (s : State) : Int := (s.refill : Int) - s.reservedRate

/-- The standing-throttle condition (R374). -/
def State.standingThrottle (s : State) : Bool :=
  decide (s.onDemandRate < 0) ||
    (match s.kiln.hotSince with
     | some h => decide (h + 2000000 ≤ s.now) && s.unreserved.all (fun p => decide ((s.tile p).clkStep = 2) || decide ((s.dom p).rung ≠ 0))
     | none => false)

/-- While the condition holds, standing_req is set and ALERT_N asserted; ALERT_N is released when the bit has been
cleared and the condition is gone. -/
def State.standingCheck (s : State) : State :=
  if s.standingThrottle then (s.setKiln { s.kiln with standingReq := true }).raiseAlert .standing
  else if s.kiln.standingReq then s else s.unalert .standing

/-- PWR_THERM. -/
def State.thermReg (s : State) : W64 :=
  let k := s.kiln
  at64 k.tMax.toNat 56 ||| at64 k.tTile.toNat 48 ||| at64 k.steps.toNat 16 ||| at64 (b2n k.critical) 3 ||| at64 (b2n k.standingReq) 2 |||
    at64 k.thermLevel.toNat 0

def thermAddr : Nat := 0x501000

/-- The critical action starts or ends: a device-initiated change of PWR_THERM (R375; 10 R345). -/
def State.criticalChange (on : Bool) (s : State) : State :=
  let before := s.thermReg
  let s := s.setKiln { s.kiln with critical := on, safeSince := none }
  let s := s.journalNow byDevice (at64 thermAddr 0) (some (w64Bytes before)) (some (w64Bytes s.thermReg))
  if on then
    let s := (s.raiseTrip 80).raiseAlert .critical
    s.unreserved.foldl (fun s p =>
      let s := s.stepClock p 2
      if (s.tile p).executing || s.held p || decide (3 ≤ (s.dom p).target.toNat) || decide (3 ≤ (s.dom p).rung.toNat ∧ !(s.dom p).busy) then s else s.moveDom p 3) s
  else (s.lowerTrip 80).unalert .critical

/-- Steps down at the first reading at the throttle level and 1 ms after that step. -/
def State.throttleDown (s : State) : State :=
  let k := s.kiln
  match k.hotSince with
  | none =>
    let s := s.setKiln { k with hotSince := some s.now, stepAt := some (s.now + 100), coolSince := none,
                                wakes := k.wakes.filter (fun w => decide (w < stepWake)) }
    s.unreserved.foldl (fun s p => if s.stepGoal p = 0 then s.stepClock p 1 else s) s
  | some _ =>
    match k.stepAt with
    | some c =>
      if c + 1000000 ≤ s.now then
        let s := s.setKiln { k with stepAt := none }
        s.unreserved.foldl (fun s p => if s.stepGoal p = 1 then s.stepClock p 2 else s) s
      else s
    | none => s

/-- One step up after t_max has stayed at or below 96 °C for 1 ms; each waits for its wake slot. -/
def State.throttleUp (t : Int) (s : State) : State :=
  let k := { s.kiln with hotSince := none, stepAt := none }
  let low := s.unreserved.filter (fun p => decide (s.stepGoal p ≠ 0))
  if t > 96 ∨ low.isEmpty then s.setKiln { k with coolSince := none }
  else
    match k.coolSince with
    | none => s.setKiln { k with coolSince := some s.now }
    | some c =>
      if c + 1000000 ≤ s.now then
        s.setKiln { k with coolSince := some s.now, wakes := k.wakes ++ (low.map (· + stepWake)).filter (fun w => !k.wakes.contains w) }
      else s.setKiln k

/-- The critical level, and its end once t_max has stayed 10 °C below the threshold for 1 ms. -/
def State.criticalStep (t : Int) (s : State) : State :=
  if !s.kiln.critical then (if t ≥ critTemp then s.criticalChange true else s)
  else if t > critTemp - 10 then s.setKiln { s.kiln with safeSince := none }
  else
    match s.kiln.safeSince with
    | none => s.setKiln { s.kiln with safeSince := some s.now }
    | some c => if c + 1000000 ≤ s.now then s.criticalChange false else s

/-- A reading of every tile's sensor, and of the HBM stack in the 69th place. -/
def State.thermal (ts : List Int) (s : State) : State :=
  let h := hottest ts
  let s := s.setHbm { s.hbm with stackTemp := ts.getD 68 s.hbm.stackTemp }
  let s := s.setKiln { s.kiln with temps := ts, tMax := BitVec.ofInt 8 h.1, tTile := BitVec.ofNat 7 h.2, thermLevel := thermLevelOf h.1 }
  let s := if h.1 ≥ 100 then s.throttleDown else s.throttleUp h.1
  (s.criticalStep h.1).standingCheck

/-! ## Registers (R384 to R388) -/

/-- PWR_BANK_WA and PWR_BANK_P of a physical tile. -/
def bankCode : BankSt → Nat
  | .off => 0
  | .retain => 1
  | .on => 2
  | .moving => 3

def Tile.bankField (t : Tile) (first n : Nat) : Nat := ((List.range n).map (fun i => bankCode (t.bank (first + i)) * 4 ^ i)).sum

def State.pwrPeek (o : Nat) (s : State) : Option W64 :=
  if o % 8 ≠ 0 then none
  else if o < 116 * 8 then some (s.domReg (o / 8))
  else if o = 0x1000 then some s.thermReg
  else if 0x2000 ≤ o ∧ o < 0x2000 + 68 * 16 then
    let t := s.tile ((o - 0x2000) / 16)
    some (if o % 16 = 0 then at64 (t.bankField 16 16) 32 ||| at64 (t.bankField 0 16) 0 else at64 (t.bankField 32 8) 0)
  else none

def State.pwrClear (o : Nat) (s : State) : State := if o = 0x1000 then s.setKiln { s.kiln with steps := 0 } else s

/-- standing_req is W1C. -/
def State.pwrPoke (o : Nat) (v m : W64) (s : State) : Option State :=
  match s.pwrPeek o with
  | none => none
  | some _ => some (if o = 0x1000 ∧ bit v 2 ∧ bit m 2 then (s.setKiln { s.kiln with standingReq := false }).standingCheck else s)

/-! ## The events -/

/-- A transition ends (R376, R378). -/
def execRungReached (dom : Nat) (s : State) : Res := within dom 116 (s.rungReached dom)

/-- The automatic ladder moves an idle tile one rung down (R379). -/
def execIdleRungStep (t : Nat) (s : State) : Res := within t 68 (s.idleStep t)

/-- A wake slot opens (R380). -/
def execWakeSlot (s : State) : Res := .next s.wakeSlot

/-- A bank transition takes effect (R381, R382). -/
def execBankTransitionDone (t bank : Nat) (s : State) : Res :=
  if t < 68 ∧ bank < 40 then .next (s.updTile t (Tile.bankDone bank)) else .fault .noSuchUnit

/-- The temperature sensors are read (R372 to R375). -/
def execThermalReading (temps : List Int) (s : State) : Res := .next (s.thermal temps)

end Sys2Proof.Machine
end

