-- ==== Sys2Proof/Machine/Sense.lean ====
section
/-!
DEFINITION. Sense lanes, calibration, pushes and the fast over-current path (08 R255 to R270, R284 to R288).
-/

set_option Elab.async false

namespace Sys2Proof.Machine

open Sys2Proof

/-! ## Lane fields (R255 to R263, R285) -/

namespace Lane

def kind (x : Lane) : Nat := fld x.mode 0 3
def wordMode (x : Lane) : Bool := decide (x.kind = 4)
def sdMode (x : Lane) : Bool := decide (1 ≤ x.kind ∧ x.kind ≤ 3)
def off (x : Lane) : Nat := fld x.time 0 24
def per (x : Lane) : Nat := fld x.time 24 24
def lead (x : Lane) : Nat := fld x.time 48 16
def wlen (x : Lane) : Nat := 16 + 2 * fld x.mode 12 2
def order (x : Lane) : Nat := fld x.mode 14 2
def osr (x : Lane) : Nat := fld x.mode 16 8 + 1
def div (x : Lane) : Nat := fld x.mode 24 8
def arrWin (x : Lane) : Nat := fld x.mode 3 5

/-- Group delay D in ns, and bits of a filter window (R262, R263). -/
def groupDelay (x : Lane) : Nat := if x.sdMode then x.order * (x.osr - 1) * x.div / 2 else 0
def window (x : Lane) : Nat := x.order * (x.osr - 1) + 1

/-- From the sample phase to the delivery (R259, R263). -/
def delay (x : Lane) : Nat := x.groupDelay + 24

def cal (x : Lane) : W64 := if x.bankSel then x.calB else x.calA

/-- The legal values of MODE and TIME (R255, R260 to R262, R285). -/
def legal (mode time : W64) : Bool :=
  let x : Lane := { mode := mode, time := time }
  match x.kind with
  | 0 => true
  | 4 => decide (50 ≤ x.per ∧ x.off < x.per ∧ x.lead < x.per ∧ x.arrWin ≤ 16 ∧ fld mode 12 2 ≠ 3)
  | 1 => decide (50 ≤ x.per ∧ x.off < x.per ∧ x.lead < x.per ∧ x.arrWin ≤ 16 ∧ x.div % 2 = 0 ∧ 40 ≤ x.div ∧ x.div ≤ 200 ∧ 4 ≤ x.osr ∧ 1 ≤ x.order ∧ x.per = x.osr * x.div)
  | 2 => decide (50 ≤ x.per ∧ x.off < x.per ∧ x.lead < x.per ∧ x.arrWin ≤ 16 ∧ x.div % 2 = 0 ∧ 40 ≤ x.div ∧ x.div ≤ 200 ∧ 4 ≤ x.osr ∧ 1 ≤ x.order ∧ x.per = x.osr * x.div)
  | 3 => decide (50 ≤ x.per ∧ x.off < x.per ∧ x.lead < x.per ∧ x.arrWin ≤ 16 ∧ x.div % 2 = 0 ∧ 40 ≤ x.div ∧ x.div ≤ 200 ∧ 4 ≤ x.osr ∧ 1 ≤ x.order ∧ x.per = x.osr * x.div)
  | _ => false

/-- A count is one of the lane's sample phases (R257). -/
def isPhase (c : Nat) (x : Lane) : Bool := decide (x.kind ≠ 0 ∧ x.per ≠ 0 ∧ x.off ≤ c ∧ (c - x.off) % x.per = 0)

/-- The sample delivered for a phase. -/
def at_ (c : Nat) (x : Lane) : Option W32 := (x.hist.find? (fun g => decide (g.phase = c))).map (·.val)

/-- The newest sample at or before a phase. -/
def newest (c : Nat) (x : Lane) : Option Got := x.hist.find? (fun g => decide (g.phase ≤ c))

end Lane

/-! ## Who reads a lane -/

namespace Slot

def pgEn (x : Slot) : Bool := bit x.cfg 16
def divEn (x : Slot) : Bool := bit x.cfg 22
def ffSrc (x : Slot) : Nat := fld x.cfg 35 3
def inLane (x : Slot) : Nat := fld x.src 0 6
def divLane (x : Slot) : Nat := fld x.src 8 6
def ffLane (x : Slot) : Nat := fld x.src 16 6
def period (x : Slot) : Nat := fld x.phase 40 24
def sampleOff (x : Slot) : Nat := fld x.phase 16 24
def commitDly (x : Slot) : Nat := fld x.phase 0 16
def destKind (x : Slot) : Nat := fld x.dest 0 3
def pwmPair (x : Slot) : Nat := fld x.dest 8 6
def writesPwm (x : Slot) : Bool := decide (x.destKind = 1 ∨ x.destKind = 4)
def writesCoil (x : Slot) : Bool := decide (x.destKind = 3 ∨ x.destKind = 4)
/-- Index of the inner slot of a cascade. -/
def inner (x : Slot) : Nat := 8 * fld x.dest 31 4 + fld x.dest 28 3
def cascN (x : Slot) : Nat := if fld x.dest 40 8 = 0 then 256 else fld x.dest 40 8
def targetSrc (x : Slot) : Nat := fld x.cfg 38 2
def paired (x : Slot) : Bool := bit x.cfg 23

/-- The lanes a slot reads (07 R235). -/
def lanes (x : Slot) : List Nat :=
  [x.inLane] ++ (if x.divEn then [x.divLane] else []) ++ (if x.ffSrc = 3 then [x.ffLane] else [])

end Slot

namespace Push

def en (x : Push) : Bool := bit x.reg 56
def dec (x : Push) : Nat := fld x.reg 48 8 + 1
def ltile (x : Push) : Nat := fld x.reg 42 6
def coil (x : Push) : Nat := fld x.reg 37 5
/-- The lanes of channel `i`, ascending. -/
def lanes (i : Nat) (x : Push) : List Nat := ((List.range 16).filter (fun j => bit x.reg j)).map (· + 16 * (i / 4))

end Push

/-- A slot as its pending reconfigurations leave it, for what they name (07 R225). -/
def Slot.claims (x : Slot) : List Slot :=
  x :: x.pend.filterMap (fun p => match p.what with
    | .rebind ws _ => some { x with cfg := ws.getD 0 0, src := ws.getD 1 0, phase := ws.getD 2 0, dest := ws.getD 3 0 }
    | _ => none)

/-- A bound slot or an enabled push channel reads the lane (R285). -/
def State.laneConsumed (n : Nat) (s : State) : Bool :=
  s.slots.any (fun e => decide (e.2.st ≠ .unbound) && e.2.claims.any (fun x => x.lanes.contains n)) ||
    s.pushes.any (fun e => e.2.en && (e.2.lanes e.1).contains n)

/-- The lanes of a push have a common sample phase (R257). -/
def commonPhase (ls : List Lane) : Bool :=
  ls.all (fun a => decide (a.kind ≠ 0) && ls.all (fun b => decide (((a.off : Int) - b.off) % (Nat.gcd a.per b.per : Nat) = 0)))

/-! ## The modulator clock (R255, R261) -/

/-- SNS_B[n] is an output: in SD_CLK_OUT, and in SD_MANCHESTER with mclk_drv set (R255, R261). -/
def Lane.drivesB (x : Lane) : Bool := decide (x.kind = 1) || (decide (x.kind = 3) && bit x.mode 10)

/-- The level that the device drives on SNS_B[n]; none where the pair is an input, or its group is off. The clock has div ns a bit;
a bit is clocked D after a sample phase (R263), where the level rises (log entry 192). -/
def State.snsB (n : Nat) (s : State) : Option Bool :=
  let x := s.lane n
  if s.mg.inReset || !x.drivesB || decide (x.div = 0) || decide ((s.dom (93 + n / 16)).rung ≠ 0) || s.mg.sgFailed.contains (n / 16) then none
  else some (decide (2 * ((s.now + x.div * x.per - (x.off + x.groupDelay) % x.div) % x.div) < x.div))

/-! ## Filters (R262, R269) -/

/-- The sums of every window of `r` consecutive values. -/
def windowSums (r : Nat) (xs : List Int) : List Int :=
  (List.range (xs.length + 1 - r)).map (fun j => ((xs.drop j).take r).sum)

/-- sinc^N over a window of bits, oldest first: 1 counts +1 and 0 counts −1 (R261, R262). -/
def sinc (n r : Nat) (bits : List Bool) : Int :=
  ((List.range n).foldl (fun xs _ => windowSums r xs) (bits.map (fun b => if b then (1 : Int) else -1))).headD 0

/-- The raw value of a word (R259). -/
def wordRaw (x : Lane) (w : Nat) : W32 :=
  let n := x.wlen
  if bit x.mode 11 then i32 ((w % 2 ^ n : Nat) - (2 ^ (n - 1) : Nat)) else i32 ((BitVec.ofNat n w).toInt)

/-- Calibration (R266), and whether it clamped. -/
def calibrate (cal : W64) (raw : W32) : W32 × Bool :=
  let p := (raw.toInt - sfld cal 32 32) * sfld cal 8 24
  let y := rsh p (fld cal 0 6)
  (i32 (sat32 y), decide (sat32 y ≠ y))

/-! ## Events of a lane (R260, R265, R284) -/

inductive LaneEv where
  | frame | late | loss | code
  deriving DecidableEq, Repr

def LaneEv.num : LaneEv → Nat
  | .frame => 0
  | .late => 1
  | .loss => 2
  | .code => 3

/-- The flag and counter of an event, and its witness entry. -/
def State.laneEvent (n : Nat) (e : LaneEv) (s : State) : State :=
  let s := s.witness 0x11 n s.now [BitVec.ofNat 8 n, BitVec.ofNat 8 e.num]
  match e with
  | .frame => (s.updLane n (fun x => { x with fFrame := true, frame := satAdd x.frame 1 })).event 0x142 n 1
  | .late => (s.updLane n (fun x => { x with fLate := true, late := satAdd x.late 1 })).event 0x141 n 1
  | .loss => (s.updLane n (fun x => { x with fLoss := true, loss := satAdd x.loss 1, lost := true, ocRun := 0 })).event 0x143 n 1
  | .code => (s.updLane n (fun x => { x with fCode := true, fLoss := true, loss := satAdd x.loss 1, lost := true, ocRun := 0 })).event 0x143 n 1

/-! ## Delivery (R257, R263, R266 to R268) -/

/-- The lanes of a group. -/
def groupLanes (g : Nat) : List Nat := (List.range 16).map (· + 16 * g)

/-- The SAMPLE entry of a group's common phase, with every value of it that no entry holds yet (R284). -/
def State.sampleEntry (g c : Nat) (s : State) : State :=
  let got := (groupLanes g).filterMap (fun n => ((s.lane n).unlogged.find? (fun x => decide (x.1 = c))).map (fun x => (n, x.2)))
  let s := s.witness 0x10 g c (leBytes 2 ((got.map (fun e => 2 ^ (e.1 - 16 * g))).sum) ++ got.flatMap (fun e => w32Bytes e.2))
  got.foldl (fun s e => s.updLane e.1 (fun x => { x with unlogged := x.unlogged.filter (fun y => decide (y.1 ≠ c)) })) s

/-- The phases of a group whose values are not logged yet, oldest first, each once. -/
def State.unloggedPhases (g : Nat) (s : State) : List Nat :=
  (((groupLanes g).flatMap (fun n => (s.lane n).unlogged.map (·.1))).mergeSort (fun a b => decide (a ≤ b))).dedup

/-- Every consumed lane that has the phase is through it. -/
def State.phaseMet (g c : Nat) (s : State) : Bool :=
  (groupLanes g).all (fun n => !((s.lane n).isPhase c && s.laneConsumed n) || (s.lane n).phase.any (fun p => decide (c ≤ p)))

/-- The SAMPLE entries of a group that can be written: each value is logged once, whatever binds or unbinds meanwhile. -/
def State.sampleEntries (g : Nat) (s : State) : State :=
  (s.unloggedPhases g).foldl (fun s c => if s.phaseMet g c then s.sampleEntry g c else s) s

/-- The element of a push: sample and stamp of each lane, ascending (R267). -/
def State.pushElem (ls : List Nat) (c : Nat) (s : State) : List Byte :=
  ls.flatMap (fun n => match (s.lane n).newest c with
    | some g => w32Bytes g.val ++ w32Bytes (short g.phase)
    | none => zeros 8)

/-- Push channel `i` at phase `c`: at every d-th common phase one element is pushed; nothing ever waits (R267, R268). -/
def State.pushAt (i c : Nat) (s : State) : State :=
  let x := s.push i
  let ls := x.lanes i
  if x.en && decide (x.since ≤ c) && ls.all (fun n => (s.lane n).isPhase c && (s.lane n).phase.any (fun p => decide (c ≤ p))) then
    let s := s.setPush i { x with count := x.count + 1 }
    if x.count % x.dec = 0 then s.pushLogical x.ltile x.coil .sense (i / 4) (s.pushElem ls c) else s
  else s

/-- A lane is through sample phase `c`, with a raw value or without. -/
def State.laneThrough (n c : Nat) (raw : Option W32) (s : State) : State :=
  let x := s.lane n
  let x := match x.swapAt with
    | some a => if a ≤ c then { x with bankSel := !x.bankSel, swapAt := none } else x
    | none => x
  let x := { x with phase := some c, words := x.words.filter (fun w => decide (c < w.1)) }
  let s := match raw with
    | none => s.setLane n x
    | some r =>
      let y := calibrate x.cal r
      let s := (s.setLane n { x with hist := (Got.mk c r y.1 (if s.wit.mode = WitMode.replay then c + x.delay else s.now) :: x.hist).take 2048, fCalSat := x.fCalSat || y.2 }).event 0x140 n 1
      if y.2 then s.event 0x144 n 1 else s
  let s := match raw with
    | some r => if s.wit.recording && s.laneConsumed n then s.updLane n (fun x => { x with unlogged := x.unlogged ++ [(c, r)] }) else s
    | none => s
  let s := if s.wit.recording then s.sampleEntries (n / 16) else s
  (List.range 4).foldl (fun s j => if (s.push (4 * (n / 16) + j)).lanes (4 * (n / 16) + j) |>.contains n then s.pushAt (4 * (n / 16) + j) c else s) s

/-- The delivery of the newest sample phase that is due. -/
def State.laneSample (n : Nat) (bits : List Bool) (s : State) : State :=
  let x := s.lane n
  if s.wit.mode = .replay ∨ x.kind = 0 ∨ 4 < x.kind ∨ s.now < x.delay then s
  else match lastAt x.off x.per (s.now - x.delay) with
    | none => s
    | some c =>
      if x.phase.any (fun p => decide (c ≤ p)) then s
      else if x.wordMode then
        s.laneThrough n c ((x.words.find? (fun w => decide (w.1 = c))).map (·.2))
      else s.laneThrough n c (if x.lost || decide (bits.length ≠ x.window) then none else some (i32 (sinc x.order x.osr bits)))

/-! ## Word mode (R258 to R260) -/

/-- The convert output of a WORD lane (R256). -/
def Lane.conv (x : Lane) : Nat := fld x.mode 8 2

/-- The lanes of a group's convert output (R256). -/
def State.onConvert (g j : Nat) (s : State) : List Nat :=
  ((List.range 16).map (· + 16 * g)).filter (fun m => (s.lane m).wordMode && decide ((s.lane m).conv = j))

/-- The levels of SGg_CONV[3:0]: high for the 20 ns of a pulse of one of its lanes (R256, R258). -/
def State.convPin (g j : Nat) (s : State) : Bool :=
  (s.onConvert g j).any (fun m => decide (s.now < (s.lane m).convUntil))

/-- The convert edge of one lane, conv_lead before a sample phase; no word since the last edge is a late word. A word that waits for
its delivery is kept. -/
def State.convertLane (n : Nat) (s : State) : State :=
  let x := s.lane n
  match lastAt x.off x.per (s.now + x.lead) with
    | none => s
    | some c =>
      if x.wordPhase.any (fun p => decide (c ≤ p)) then s
      else
        let s := if x.wordPhase.isSome && !x.wordMet then s.laneEvent n .late else s
        s.updLane n (fun x => { x with wordPhase := some c, wordMet := false, convUntil := c - x.lead + 20 })

/-- A pulse of lane `n`'s convert output: every lane on the output has its edge (R256; log entry 191). -/
def State.convert (n : Nat) (s : State) : State :=
  if s.wit.mode = .replay ∨ !(s.lane n).wordMode then s
  else (s.onConvert (n / 16) (s.lane n).conv).foldl (fun s m => s.convertLane m) s

/-- A word of `nbits` bits whose last bit arrived at `lastBit`. -/
def State.wordIn (n w nbits lastBit : Nat) (s : State) : State :=
  let x := s.lane n
  match x.wordPhase with
  | none => s
  | some c =>
    if s.wit.mode = .replay ∨ !x.wordMode ∨ x.wordMet then s
    else
      let s := s.setLane n { x with wordMet := true }
      if nbits ≠ x.wlen then s.laneEvent n .frame
      else if c + x.arrWin < lastBit then s.laneEvent n .late
      else s.updLane n (fun x => { x with words := (c, wordRaw x w) :: x.words })

/-! ## Fast over-current (R269, R270) -/

/-- The comparator's output: the sinc2 filter over its window, or the raw word. -/
def Lane.comparator (bits : List Bool) (x : Lane) : Option Int :=
  if x.wordMode then
    match x.words, x.hist with
    | w :: _, _ => some w.2.toInt
    | [], g :: _ => some g.raw.toInt
    | [], [] => none
  else
    let r := 4 * 2 ^ fld x.oc 4 2
    if x.sdMode && !x.lost && decide (bits.length = 2 * (r - 1) + 1) then some (sinc 2 r bits) else none

/-- The source of a lane is raised (R269, R284). -/
def State.ocRaise (n : Nat) (s : State) : State :=
  let s := (s.witness 0x13 n s.now [BitVec.ofNat 8 n]).event 0x145 n 1
  (s.updLane n (fun x => { x with fOcRaised := true })).raiseTrip (16 + n)

def State.ocLower (n : Nat) (s : State) : State :=
  (s.updLane n (fun x => { x with fOcRaised := false, ocRun := 0 })).lowerTrip (16 + n)

/-- One comparator output: oc_n consecutive exceedances raise the source, one output inside clears it. -/
def State.ocOutput (n : Nat) (bits : List Bool) (s : State) : State :=
  let x := s.lane n
  if s.wit.mode = .replay ∨ !bit x.oc 0 then s
  else match x.comparator bits with
    | none => s
    | some y =>
      if y > sfld x.oc 40 24 ∨ y < sfld x.oc 16 24 then
        let run := min (x.ocRun + 1) 4
        let s := s.setLane n { x with ocRun := run }
        if run ≥ fld x.oc 2 2 + 1 ∧ !x.fOcRaised then s.ocRaise n else s
      else if x.fOcRaised then s.ocLower n else s.setLane n { x with ocRun := 0 }

/-! ## Configuration and registers (R285 to R288) -/

/-- MODE and TIME take new values: the lane starts afresh. -/
def Lane.configure (now : Nat) (mode time : W64) (x : Lane) : Lane :=
  let y := { x with mode := mode, time := time, wordPhase := none, wordMet := false, words := [], lost := false, ocRun := 0, hist := [] }
  { y with phase := lastAt y.off y.per now }

def Push.lanesOf (i : Nat) (reg : W64) : List Nat := ({ reg := reg } : Push).lanes i

/-- A push channel bound by BIND_LANE; its decimation counts from the first common phase after the binding. -/
def State.bindPush (i : Nat) (reg : W64) (s : State) : State :=
  s.setPush i { reg := (reg &&& 0x00FFFFE00000FFFF) ||| at64 1 56, count := 0, since := s.now }

def State.lanePeek (n r : Nat) (s : State) : Option W64 :=
  let x := s.lane n
  match r with
  | 0x00 => some (x.mode &&& 0xFFFFFFFF)
  | 0x08 => some x.time
  | 0x10 => some (x.calA &&& 0xFFFFFFFFFFFFFF3F)
  | 0x18 => some (x.calB &&& 0xFFFFFFFFFFFFFF3F)
  | 0x20 => some (x.oc &&& 0xFFFFFFFFFFFF003D)
  | 0x28 => some (at64 (b2n x.bankSel) 49 ||| at64 (b2n x.swapAt.isSome) 48)
  | 0x30 => some (at64 x.late.toNat 48 ||| at64 x.frame.toNat 32 ||| at64 x.loss.toNat 16 ||| at64 (b2n x.fOcRaised) 5 |||
      at64 (b2n x.fCalSat) 4 ||| at64 (b2n x.fCode) 3 ||| at64 (b2n x.fLoss) 2 ||| at64 (b2n x.fFrame) 1 ||| at64 (b2n x.fLate) 0)
  | 0x38 => some (at64 x.swapNs.toNat 0)
  | _ => none

def State.snsPeek (o : Nat) (s : State) : Option W64 :=
  if o % 8 ≠ 0 then none
  else if o < 0x1000 then s.lanePeek (o / 0x40) (o % 0x40)
  else if o < 0x1400 ∧ o % 0x100 < 0x40 ∧ o % 0x10 = 0 then some (s.push (4 * ((o - 0x1000) / 0x100) + o % 0x100 / 0x10)).reg
  else none

def State.snsClear (o : Nat) (s : State) : State :=
  if o < 0x1000 ∧ o % 0x40 = 0x30 then s.updLane (o / 0x40) (fun x => { x with late := 0, frame := 0, loss := 0 }) else s

/-- A calibration bank is written while it is inactive and no swap is pending (R266, 07 R241). -/
def Lane.calPoke (b : Bool) (v m : W64) (x : Lane) : Option Lane :=
  if x.bankSel = b ∨ x.swapAt.isSome then none
  else if b then some { x with calB := mask64 x.calB v m &&& 0xFFFFFFFFFFFFFF3F } else some { x with calA := mask64 x.calA v m &&& 0xFFFFFFFFFFFFFF3F }

/-- The write that requests a calibration swap (R286). -/
def Lane.swapPoke (v m : W64) (x : Lane) : Option Lane :=
  if x.swapAt.isSome then none
  else if m &&& 0xFFFFFFFFFFFF = 0 then some x
  else some { x with swapAt := some (fld (v &&& m) 0 48 * 1000000000 + x.swapNs.toNat) }

/-- The flags of STAT that ones clear (R287). -/
def Lane.statPoke (w : W64) (x : Lane) : Lane :=
  { x with fCalSat := x.fCalSat && !bit w 4, fCode := x.fCode && !bit w 3, fLoss := x.fLoss && !bit w 2,
           fFrame := x.fFrame && !bit w 1, fLate := x.fLate && !bit w 0 }

def State.lanePoke (n r : Nat) (v m : W64) (s : State) : Option State :=
  let x := s.lane n
  match r with
  | 0x00 =>
    if s.laneConsumed n then none
    else some (s.setLane n (x.configure s.now (mask64 x.mode v m &&& 0xFFFFFFFF) x.time))
  | 0x08 => if s.laneConsumed n then none else some (s.setLane n (x.configure s.now x.mode (mask64 x.time v m)))
  | 0x10 => (x.calPoke false v m).map (fun y => s.setLane n y)
  | 0x18 => (x.calPoke true v m).map (fun y => s.setLane n y)
  | 0x20 =>
    let s := s.setLane n { x with oc := mask64 x.oc v m &&& 0xFFFFFFFFFFFF003D }
    some (if x.fOcRaised && !bit (s.lane n).oc 0 then s.ocLower n else s)
  | 0x28 => (x.swapPoke v m).map (fun y => s.setLane n y)
  | 0x30 => some (s.setLane n (x.statPoke (v &&& m)))
  | 0x38 =>
    let w := fld (mask64 (at64 x.swapNs.toNat 0) v m) 0 30
    if x.swapAt.isSome ∨ w ≥ 1000000000 then none else some (s.setLane n { x with swapNs := BitVec.ofNat 30 w })
  | _ => none

/-- SNS_PUSH is written only through bindings: a REG_WRITE leaves it unchanged (R288). -/
def State.snsPoke (o : Nat) (v m : W64) (s : State) : Option State :=
  if o % 8 ≠ 0 then none
  else if o < 0x1000 then s.lanePoke (o / 0x40) (o % 0x40) v m
  else if o < 0x1400 ∧ o % 0x100 < 0x40 ∧ o % 0x10 = 0 then some s
  else none

/-! ## The events -/

/-- The convert output of lane `n` (R256, R258). -/
def execConvertPulse (n : Nat) (s : State) : Res := within n 64 (s.convert n)

/-- A word arrives (R258 to R260). -/
def execWordReceived (n word nbits lastBit : Nat) (s : State) : Res := within n 64 (s.wordIn n word nbits lastBit)

/-- Eight nominal bit periods without a clock edge or transition (R265). -/
def execModulatorLoss (n : Nat) (s : State) : Res :=
  within n 64 (if (s.lane n).sdMode && !(s.lane n).lost && decide (s.wit.mode ≠ .replay) then s.laneEvent n .loss else s)

/-- A Manchester code violation (R265). -/
def execManchesterCodeViolation (n : Nat) (s : State) : Res :=
  within n 64 (if (s.lane n).kind = 3 ∧ s.wit.mode ≠ .replay then s.laneEvent n .code else s)

/-- 2 × N × R good bits have been received: the lane delivers again (R265). -/
def execModulatorClockReturn (n : Nat) (s : State) : Res :=
  within n 64 (if (s.lane n).sdMode then s.updLane n (fun x => { x with lost := false, ocRun := 0 }) else s)

/-- One output of the comparator path (R269, R270). -/
def execOcExceedance (n : Nat) (bits : List Bool) (s : State) : Res := within n 64 (s.ocOutput n bits)

end Sys2Proof.Machine
end

