-- ==== Sys2Proof/Machine/Chain.lean ====
section
/-!
DEFINITION. The nine stages of a loop slot and its coefficient banks (07 R226 to R234, R239, R240, R243, R253, R254).
-/

set_option Elab.async false

namespace Sys2Proof.Machine

open Sys2Proof

/-! ## Sticky flags (R251) -/

namespace Lf
def satP : BitVec 10 := 0x001
def satI : BitVec 10 := 0x002
def satOut : BitVec 10 := 0x004
def div0 : BitVec 10 := 0x008
def lutClip : BitVec 10 := 0x010
def notchSat : BitVec 10 := 0x020
def late : BitVec 10 := 0x040
def staleFb : BitVec 10 := 0x080
def pairMismatch : BitVec 10 := 0x100
def pairState : BitVec 10 := 0x200
def when (c : Bool) (f : BitVec 10) : BitVec 10 := if c then f else 0
end Lf

/-! ## Coefficient banks (R253) -/

abbrev Bank := Tbl W64

namespace Bank

def word (b : Bank) (i : Nat) : W64 := Tbl.get 0 i b
def hi (b : Bank) (i : Nat) : Int := sfld (word b i) 32 32
def lo (b : Bank) (i : Nat) : Int := sfld (word b i) 0 32
/-- The shift field in byte `j` of the word at 0x08. -/
def shift (b : Bank) (j : Nat) : Nat := fld (word b 1) (8 * j) 8
/-- Table entry G[i]. -/
def gain (b : Bank) (i : Nat) : Int := if i % 2 = 0 then lo b (32 + i / 2) else hi b (32 + i / 2)
/-- A profile limit, unsigned with 32 fraction bits. -/
def limit (b : Bank) (i : Nat) : Int := (word b (8 + i)).toNat

/-- The bits of a word that are not reserved. -/
def maskOf (i : Nat) : W64 :=
  if i = 14 ∨ i = 17 then 0xFFFFFFFF0000003F else if 18 ≤ i ∧ i < 32 then 0 else 0xFFFFFFFFFFFFFFFF

/-- Shift fields and div_floor lie in their ranges (R242, R253). -/
def legal (b : Bank) : Bool :=
  decide (shift b 7 ≤ 32) && decide (shift b 6 ≤ 63) && decide (shift b 5 ≤ 63) && decide (shift b 4 ≤ 31) && decide (shift b 3 ≤ 63) &&
    decide (shift b 2 ≤ 63) && decide (shift b 1 ≤ 63) && decide (shift b 0 ≤ 63) && decide (0 ≤ lo b 7)

def set (i : Nat) (v : W64) (b : Bank) : Bank := Tbl.set 0 i (v &&& maskOf i) b

/-- A bank from its 64 words. -/
def ofWords (ws : List W64) : Bank := (ws.zipIdx).foldl (fun b e => set e.2 e.1 b) []

end Bank

/-! ## Saturation with its flag (R226) -/

def satW (f : BitVec 10) (x : Int) : Int × BitVec 10 := (sat32 x, Lf.when (decide (sat32 x ≠ x)) f)
def satD (x : Int) : Int × BitVec 10 := (sat64 x, Lf.when (decide (sat64 x ≠ x)) Lf.satP)

/-! ## The stages -/

/-- Stage 1: input scaling (R227). -/
def stageIn (b : Bank) (x : Int) : Int × BitVec 10 := satW Lf.satP (rsh ((x - b.hi 0) * b.lo 0) (b.shift 0))

/-- Position, velocity and acceleration of the profile generator (R228). -/
structure Profile where
  r : Int
  v : Int
  a : Int
  deriving DecidableEq, Repr

/-- |x| limited when the limit is not zero (R228). -/
def bound (l x : Int) : Int := if l = 0 then x else if x > l then l else if x < -l then -l else x

/-- Stage 2 with pg_en: one step of the profile generator and its flags (R228). -/
def profileStep (b : Bank) (tgt : Int) (p : Profile) : Profile × BitVec 10 :=
  let big := tgt * 4294967296
  let V := b.limit 0
  let A := b.limit 1
  let J := b.limit 2
  let S := b.limit 3
  let e := satD (big - p.r)
  let m : Int := min (e.1.natAbs : Int) (isqrtFrom 65 (2 * A.natAbs * e.1.natAbs) 0)
  let vd := bound V (if A = 0 then e.1 else if e.1 < 0 then -m else m)
  let ad := satD (vd - p.v)
  let ad' := bound A ad.1
  let da := satD (ad' - p.a)
  let da' := bound J da.1
  let a := satD (p.a + da')
  let v := satD (p.v + a.1)
  let v' := bound V v.1
  let r := satD (p.r + v')
  let f := e.2 ||| ad.2 ||| da.2 ||| a.2 ||| v.2 ||| r.2
  if ((big - r.1).natAbs : Int) ≤ S ∧ (v'.natAbs : Int) ≤ S then ({ r := big, v := 0, a := 0 }, f)
  else ({ r := r.1, v := v', a := a.1 }, f)

/-- Stage 4 with lut_en (R229). -/
def stageLut (b : Bank) (mag : Bool) (err : Int) : Int × BitVec 10 :=
  let d := (if mag then (err.natAbs : Int) else err) - b.lo 6
  let s := b.shift 4
  let i := (d / 2 ^ s).toNat
  let f := (d * 65536 / 2 ^ s).toNat % 65536
  let k : Nat × Nat × Bool := if d < 0 then (0, 0, true) else if i > 63 ∨ (i = 63 ∧ f ≠ 0) then (63, 0, true) else (i, f, false)
  let g := if k.2.1 = 0 then (b.gain k.1, (0 : BitVec 10))
    else satW Lf.satP (b.gain k.1 + rsh ((b.gain (k.1 + 1) - b.gain k.1) * k.2.1) 16)
  let e := satW Lf.satP (rsh (err * g.1) (b.shift 5))
  (e.1, Lf.when k.2.2 Lf.lutClip ||| g.2 ||| e.2)

/-- The clamp of the integrator (R230). -/
def clampAcc (b : Bank) (x : Int) : Int × BitVec 10 :=
  let y := clampI x (b.lo 4 * 4294967296) (b.hi 4 * 4294967296)
  (y, Lf.when (decide (y ≠ x)) Lf.satI)

/-- Stage 6: one notch (R231); its words begin at `i`. Answers the output. -/
def notch (b : Bank) (i : Nat) (x x1 x2 y1 y2 : Int) : Int × BitVec 10 :=
  satW Lf.notchSat (rsh (b.hi i * x + b.lo i * x1 + b.hi (i + 1) * x2 - b.lo (i + 1) * y1 - b.hi (i + 2) * y2) (fld (b.word (i + 2)) 0 6))

/-- Stage 8 with div_en (R233). -/
def stageDiv (b : Bank) (uf d : Int) : Int × BitVec 10 :=
  let fl := b.lo 7
  let low := decide ((d.natAbs : Int) < fl)
  let d := if low then (if d < 0 then -fl else fl) else d
  if d = 0 then (if uf ≥ 0 then 2147483647 else -2147483648, Lf.div0)
  else
    let q := satW Lf.satOut (tdiv (uf * 2 ^ b.shift 7) d)
    (q.1, Lf.when low Lf.div0 ||| q.2)

/-! ## One computed sample (R227) -/

/-- What a computed sample takes beside the chain's state. -/
structure SampleIn where
  x : W32
  d : W32
  f : W32
  tgt : W32
  man : W32
  manual : Bool
  preset : Bool
  first : Bool
  deriving DecidableEq, Repr

/-- What it gives: the new state, the output, the flags it raises, and how the output was clamped. -/
structure SampleOut where
  ch : Chain
  out : W32
  fl : BitVec 10
  atHi : Bool
  atLo : Bool
  deriving DecidableEq, Repr

/-- Stage 5 (R230, R239, R240, R243): the new acc, u_pid and the flags. -/
def stagePid (cfg : W64) (b : Bank) (atHi atLo : Bool) (q : SampleIn) (acc uPrev eg err errPrev y yPrev : Int) : Int × Int × BitVec 10 :=
  let P := satW Lf.satP (rsh (b.hi 2 * eg) (b.shift 1))
  let dx := if bit cfg 33 then (if bit cfg 34 then y - yPrev else yPrev - y) else err - errPrev
  let D := satW Lf.satP (rsh (b.hi 3 * dx) (b.shift 3))
  let f := P.2 ||| D.2
  if q.manual then
    let a := clampAcc b ((q.man.toInt - P.1 - D.1) * 4294967296)
    (a.1, q.man.toInt, f ||| a.2)
  else
    let a := if q.preset && !q.first then clampAcc b ((uPrev - P.1 - D.1) * 4294967296)
      else
        let inc := rsh (b.lo 2 * eg) (b.shift 2)
        let inc := if bit cfg 32 && (atHi && decide (inc > 0) || atLo && decide (inc < 0)) then 0 else inc
        clampAcc b (acc + inc)
    let u := satW Lf.satP (P.1 + rsh a.1 32 + D.1)
    (a.1, u.1, f ||| a.2 ||| u.2)

/-- The nine stages in order. -/
def runChain (cfg : W64) (b : Bank) (c : Chain) (atHi atLo : Bool) (q : SampleIn) : SampleOut :=
  let y := stageIn b q.x.toInt
  let tgt := q.tgt.toInt
  let p0 : Profile := if q.first then { r := (if bit cfg 17 then y.1 else tgt) * 4294967296, v := 0, a := 0 }
    else { r := c.pgR.toInt, v := c.pgV.toInt, a := c.pgA.toInt }
  let acc0 := if q.first then b.hi 7 * 4294967296 else c.acc.toInt
  let pr := if bit cfg 16 then profileStep b tgt p0 else ({ r := tgt * 4294967296, v := 0, a := 0 }, 0)
  let sp := if bit cfg 16 then satW Lf.satP (rsh pr.1.r 32) else (tgt, 0)
  let err := satW Lf.satP (if bit cfg 34 then y.1 - sp.1 else sp.1 - y.1)
  let eg := if bit cfg 18 then stageLut b (bit cfg 19) err.1 else (err.1, 0)
  let ep := if q.first then err.1 else c.errPrev.toInt
  let yp := if q.first then y.1 else c.yPrev.toInt
  let u := stagePid cfg b atHi atLo q acc0 c.uPrev.toInt eg.1 err.1 ep y.1 yp
  let n1 := if bit cfg 20 then notch b 12 u.2.1 c.n1x1.toInt c.n1x2.toInt c.n1y1.toInt c.n1y2.toInt else (u.2.1, 0)
  let n2 := if bit cfg 21 then notch b 15 n1.1 c.n2x1.toInt c.n2x2.toInt c.n2y1.toInt c.n2y2.toInt else (n1.1, 0)
  let f : Int := match fld cfg 35 3 with
    | 0 => 0
    | 1 => sp.1
    | 2 => sat32 (rsh pr.1.v 32)
    | _ => q.f.toInt
  let vf := if fld cfg 35 3 = 2 then (satW Lf.satP (rsh pr.1.v 32)).2 else 0
  let uf := satW Lf.satOut (n2.1 + rsh (b.lo 3 * f) (b.shift 6) + b.hi 6)
  let dv := if bit cfg 22 then stageDiv b uf.1 q.d.toInt else (uf.1, 0)
  let out := clampI dv.1 (b.lo 5) (b.hi 5)
  let cl := decide (out ≠ dv.1)
  let c' : Chain :=
    { acc := i64 u.1, pgR := i64 pr.1.r, pgV := i64 pr.1.v, pgA := i64 pr.1.a, yPrev := i32 y.1, errPrev := i32 err.1,
      uPrev := i32 u.2.1, tgtEff := q.tgt,
      n1x1 := if bit cfg 20 then i32 u.2.1 else c.n1x1, n1x2 := if bit cfg 20 then c.n1x1 else c.n1x2,
      n1y1 := if bit cfg 20 then i32 n1.1 else c.n1y1, n1y2 := if bit cfg 20 then c.n1y1 else c.n1y2,
      n2x1 := if bit cfg 21 then i32 n1.1 else c.n2x1, n2x2 := if bit cfg 21 then c.n2x1 else c.n2x2,
      n2y1 := if bit cfg 21 then i32 n2.1 else c.n2y1, n2y2 := if bit cfg 21 then c.n2y1 else c.n2y2 }
  { ch := c', out := i32 out, atHi := cl && decide (out = b.hi 5), atLo := cl && !decide (out = b.hi 5),
    fl := y.2 ||| pr.2 ||| sp.2 ||| err.2 ||| eg.2 ||| u.2.2 ||| n1.2 ||| n2.2 ||| vf ||| uf.2 ||| dv.2 ||| Lf.when cl Lf.satOut }

/-! ## LE_SLOT_STATE (R254) -/

def pairW (h l : W32) : W64 := at64 h.toNat 32 ||| at64 l.toNat 0

/-- The ten words of LE_SLOT_STATE. -/
def Chain.words (c : Chain) : List W64 :=
  [c.acc, c.pgR, c.pgV, c.pgA, pairW c.yPrev c.errPrev, pairW c.uPrev c.tgtEff, pairW c.n1x1 c.n1x2, pairW c.n1y1 c.n1y2,
   pairW c.n2x1 c.n2x2, pairW c.n2y1 c.n2y2]

/-- The chain state that ten words spell. -/
def Chain.ofWords (ws : List W64) : Chain :=
  let w := fun (i : Nat) => ws.getD i 0
  let h := fun (i : Nat) => BitVec.ofNat 32 (fld (w i) 32 32)
  let l := fun (i : Nat) => BitVec.ofNat 32 (fld (w i) 0 32)
  { acc := w 0, pgR := w 1, pgV := w 2, pgA := w 3, yPrev := h 4, errPrev := l 4, uPrev := h 5, tgtEff := l 5,
    n1x1 := h 6, n1x2 := l 6, n1y1 := h 7, n1y2 := l 7, n2x1 := h 8, n2x2 := l 8, n2y1 := h 9, n2y2 := l 9 }

/-- The image of a loop-state shadow: LE_SLOT_STATE and last_out (14 R457). -/
def shadowImage (c : Chain) (out : W32) : List Byte := c.words.flatMap w64Bytes ++ w32Bytes out

/-- The CRC-32C of a copy's state (R245). -/
def stateCrc (c : Chain) (hi lo : Bool) : W32 := crc32c (c.words.flatMap w64Bytes ++ [if hi then (if lo then 3 else 1) else if lo then 2 else 0])

end Sys2Proof.Machine
end

