-- ==== Sys2Proof/Machine/Loop.lean ====
section
/-!
DEFINITION. Loop slots: phases, targets, samples, commits, swaps, paired checks and registers (07 R222 to R254; 14 R457,
R473, R477, R479).
-/

set_option Elab.async false

namespace Sys2Proof.Machine

open Sys2Proof

/-! ## Phases (R224, R236) -/

/-- The first sample phase of a running slot and the distance of its phases: an outer slot takes every casc_n-th phase
of its inner slot, from its own start count on. -/
def State.gridOf (s : State) : Nat → Nat → Option (Nat × Nat)
  | 0, _ => none
  | k + 1, n =>
    let x := s.slot n
    match x.st, x.start with
    | .running, some c =>
      if x.destKind = 2 then
        match s.gridOf k x.inner with
        | some (b, d) => some (nextAt b (d * x.cascN) c, d * x.cascN)
        | none => none
      else some (c + x.sampleOff, x.period)
    | _, _ => none

def State.grid (n : Nat) (s : State) : Option (Nat × Nat) := s.gridOf 129 n

/-- The distance of a bound slot's phases, before its start is known. -/
def State.strideOf (s : State) : Nat → Nat → Nat
  | 0, _ => 0
  | k + 1, n =>
    let x := s.slot n
    if x.destKind = 2 then s.strideOf k x.inner * x.cascN else x.period

/-- The newest sample phase of slot `n` at or before now that is not done. -/
def State.duePhase (n : Nat) (s : State) : Option Nat :=
  match s.grid n with
  | none => none
  | some (b, d) =>
    match lastAt b d s.now with
    | none => none
    | some c => if (s.slot n).phaseDone.any (fun p => decide (c ≤ p)) then none else some c

/-! ## Fields -/

namespace Slot

def bank (x : Slot) : Bank := if x.bankSel then x.bankB else x.bankA
def spare (x : Slot) : Bank := if x.bankSel then x.bankA else x.bankB
def staleN (x : Slot) : Nat := fld x.fbUse 0 8
def fbMode (x : Slot) : Nat := fld x.fbUse 8 3
def fbAutoExit (x : Slot) : Bool := bit x.fbUse 11
def fbRate (x : Slot) : Nat := fld x.fbUse 12 20
def fbGoal (x : Slot) : Int := sfld x.fbUse 32 32
def mailbox (x : Slot) : Nat := fld x.cfg 40 8
def pairAct (x : Slot) : Bool := decide (fld x.cfg 24 2 = 1)
def coil (x : Slot) : Nat := fld x.dest 56 5
def ltile (x : Slot) : Nat := fld x.dest 48 6
def bound (x : Slot) : Bool := decide (x.st = .armed) || decide (x.st = .running)

end Slot

/-- The partner position of a paired slot: LEm with m = n XOR 1 (R244). -/
def partner (n : Nat) : Nat := 8 * ((n / 8) ^^^ 1) + n % 8

/-- Address of a slot's register. -/
def slotAddr (n o : Nat) : W64 := at64 (0x200000 + (n / 8) * 0x10000 + (n % 8) * 0x1000 + o) 0

/-- The slot that writes a pair (R234). -/
def State.pairWriter (p : Nat) (s : State) : Option Nat :=
  (s.slots.find? (fun e => e.2.bound && e.2.claims.any (fun x => x.writesPwm && decide (x.pwmPair = p)))).map (·.1)

/-- The slot that writes an inner slot. -/
def State.outerOf (n : Nat) (s : State) : Option Nat :=
  (s.slots.find? (fun e => e.2.bound && e.2.claims.any (fun x => decide (x.destKind = 2 ∧ x.inner = n)))).map (·.1)

/-! ## Changes at a computed sample (R225, R240, R242) -/

/-- LE_SLOT_MODE in force: answers the slot and whether the integrator presets (R238, R240). -/
def Slot.setMode (v : W64) (x : Slot) : Slot × Bool :=
  let auto := bit v 0
  let x' := if !auto && x.autoEff && bit v 1 then { x with manUse := x.chain.uPrev, man := setFld x.man 0 32 x.chain.uPrev.toNat } else x
  let x' := { x' with autoEff := auto, fallback := x.fallback && !bit v 2 }
  (x', auto && !x.autoEff)

/-- The images of LE_SLOT_CFG to LE_SLOT_MAN with their reserved bits cleared. -/
def slotMasks : List W64 := [0x0000FFFF03FF0000, 0x3F3F3F, 0xFFFFFFFFFFFFFFFF, 0x1F3FFF07F0003F07, 0xFFFFFFFFFFFFFFFF, 0xFFFFFFFFFFFFFFFF]

def Slot.setRegs (ws : List W64) (x : Slot) : Slot :=
  let w := fun (i : Nat) => ws.getD i 0 &&& slotMasks.getD i 0
  { x with cfg := w 0, src := w 1, phase := w 2, dest := w 3, fb := w 4, man := w 5, fbUse := w 4,
           manUse := BitVec.ofNat 32 (fld (w 5) 0 32), manTgt := BitVec.ofNat 32 (fld (w 5) 32 32) }

def Slot.setBank (b : Bank) (x : Slot) : Slot := if x.bankSel then { x with bankB := b } else { x with bankA := b }

def Slot.apply (c : SlotChange) (x : Slot) : Slot × Bool :=
  match c with
  | .mode v => x.setMode v
  | .man v => ({ x with manUse := BitVec.ofNat 32 (fld v 0 32), manTgt := BitVec.ofNat 32 (fld v 32 32) }, false)
  | .fb v => ({ x with fbUse := v }, false)
  | .rebind ws bw => ((x.setRegs ws).setBank (Bank.ofWords bw), false)

/-- LE_SLOT_MAN and LE_SLOT_FB read what was written last: after a reconfiguration, a write that still waits (R225). -/
def Slot.lastWritten (x : Slot) : Slot :=
  { x with man := ((x.pend.filterMap (fun p => match p.what with
             | .man v => some v
             | _ => none)).getLast?).getD x.man,
           fb := ((x.pend.filterMap (fun p => match p.what with
             | .fb v => some v
             | _ => none)).getLast?).getD x.fb }

/-- What a change writes: its register and the value. -/
def SlotChange.target (n : Nat) : SlotChange → W64
  | .mode _ => slotAddr n 0x30
  | .man _ => slotAddr n 0x28
  | .fb _ => slotAddr n 0x20
  | .rebind _ _ => objTarget 0x10 n

def SlotChange.value : SlotChange → Option W64
  | .mode v => some (v &&& 1)
  | .man v => some v
  | .fb v => some v
  | .rebind _ _ => none

/-- The value in force of the register a change writes. -/
def Slot.inForce (x : Slot) : SlotChange → Option W64
  | .mode _ => some (at64 (b2n x.autoEff) 0)
  | .man _ => some (pairW x.manTgt x.manUse)
  | .fb _ => some x.fbUse
  | .rebind _ _ => none

/-- A position that no slot holds: its registers stay. -/
def Slot.clear (y : Slot) : Slot := { y with
  st := .unbound, start := none, phaseDone := none, computed := false, swapAt := none, pend := [], staged := none, casc := [],
  lastEval := 0, misRun := 0, stopped := false, unbindAt := none, shadowCrc := none, fallback := false, staleCnt := 0, chain := { }, atHi := false, atLo := false }

/-- Registers and banks of a paired slot, which its partner position holds too (R244). -/
def Slot.copyRegs (x y : Slot) : Slot :=
  { y with cfg := x.cfg, src := x.src, phase := x.phase, dest := x.dest, fb := x.fb, man := x.man, auto := x.auto, bankSel := x.bankSel,
           bankA := x.bankA, bankB := x.bankB, manUse := x.manUse, manTgt := x.manTgt, fbUse := x.fbUse, autoEff := x.autoEff }

/-- No SWAP_COEF waits for the slot any more; one that waited for no other is done (R242). -/
def State.leaveSwaps (n : Nat) (s : State) : State :=
  s.swaps.foldl (fun s k =>
    if k.slots.contains n then
      let rest := k.slots.filter (fun m => decide (m ≠ n))
      let others := s.swaps.filter (fun y => decide (y ≠ k))
      if rest.isEmpty then
        let v := k.at_ / 1000000000 + k.at_ % 1000000000 * 2 ^ 48
        { s with swaps := others }.complete k.cause.queue k.cause.seq { r0 := BitVec.ofNat 64 v, r1 := BitVec.ofNat 64 (v / 2 ^ 64) } { }
      else { s with swaps := others ++ [{ k with slots := rest }] }
    else s) s

/-- A slot is removed: its position is free, the destination keeps its value (R224). The partner position of a paired slot keeps what
was written to both copies (R244). -/
def State.dropSlot (n : Nat) (s : State) : State :=
  let x := s.slot n
  let s := s.updSlot n Slot.clear
  if x.paired && x.bound then s.updSlot (partner n) (fun y => (x.copyRegs y).clear) else s

/-- The links that a slot feeds: it pushes into a coil of the tile whose standing job writes the link's mailboxes. -/
def State.fedLinks (x : Slot) (s : State) : List Nat :=
  if x.writesCoil then
    (s.links.filter (fun e => bit e.2.cfg 0 && !bit e.2.cfg 2 && (match (s.mailbox (fld e.2.cfg 32 8)).writer with
      | some b => (s.binding b).any (fun v => decide (v.ltile = fld x.dest 48 6))
      | none => false))).map (·.1)
  else []

/-- Links that a slot feeds are held safe, or let go (14 R479). -/
def State.holdLinks (x : Slot) (b : Bool) (s : State) : State := (s.fedLinks x).foldl (fun s l => s.updLink l (fun k => { k with unitHold := b })) s

/-- What else a reconfiguration changes: writes resume, the partner position follows, and the pair is no longer held for a
failed unit (R225, R244; 14 R479). -/
def State.rebound (n : Nat) (old : Slot) (s : State) : State :=
  let x := s.slot n
  let s := s.setSlot n { x with stopped := false, misRun := 0 }
  let copy := { x with st := .pairCopy, start := none, pend := [], swapAt := none, staged := none, stopped := false, misRun := 0 }
  let s := if old.paired && !x.paired then s.updSlot (partner n) (fun y => (old.copyRegs y).clear) else if x.paired && !old.paired then s.setSlot (partner n) copy else s
  let s := s.holdLinks x false
  if x.writesPwm then (s.updPair x.pwmPair (fun p => { p with unitCause := false })).settlePair 0x7F x.pwmPair else s

/-- Applies the changes due at phase `c`, oldest first, each with its journal entry at that count (10 R345). -/
def State.applyDue (n c : Nat) : List SlotPend → State → State × Bool
  | [], s => (s, false)
  | p :: ps, s =>
    if p.at_ ≤ c then
      let x := s.slot n
      let r := x.apply p.what
      let s' := s.setSlot n { r.1 with pend := r.1.pend.erase p }
      let s' := if r.1 = x then s'
        else s'.journalAt c p.cause (p.what.target n) ((x.inForce p.what).map w64Bytes) ((r.1.inForce p.what).map w64Bytes)
      let s' := match p.what with
        | .rebind _ _ => (s'.updSlot n Slot.lastWritten).rebound n x
        | _ => s'
      let t := State.applyDue n c ps s'
      (t.1, r.2 || t.2)
    else State.applyDue n c ps s

/-- The swap due at phase `c`: all fields of the bank change together (R242). In AUTO the integrator presets. -/
def State.swapDue (n c : Nat) (s : State) : State × Bool :=
  let x := s.slot n
  match x.swapAt with
  | some a =>
    if a ≤ c then
      let s := (s.setSlot n { x with bankSel := !x.bankSel, swapAt := none }).event 0x106 (n / 8) 1
      let cause := ((s.swaps.find? (fun k => k.slots.contains n)).map (·.cause)).getD byDevice
      ((s.journalAt c cause (objTarget 0x10 n) none none).leaveSwaps n, x.autoEff)
    else (s, false)
  | none => (s, false)

/-! ## Targets and stale mailboxes (R236 to R238) -/

/-- How the evaluations up to a phase leave a slot: stale count, stale evaluations, whether fallback is entered, and
whether it is left. -/
structure Evals where
  cnt : Byte
  stale : Nat
  enter : Nat
  fallback : Bool
  deriving DecidableEq, Repr

/-- The stale count takes a value: where it reaches stale_n, fallback is entered unless it is in force (R238). -/
def Evals.count (x : Slot) (c : Byte) (e : Evals) : Evals :=
  let hit := decide (x.staleN ≠ 0 ∧ c.toNat = x.staleN) && !e.fallback
  { e with cnt := c, enter := e.enter + b2n hit, fallback := e.fallback || hit }

/-- One evaluation, in the order of the expected publish counts (R237). -/
def evalOne (x : Slot) (e : Evals) : MbEval → Evals
  | .fresh => { e with cnt := 0, fallback := e.fallback && !x.fbAutoExit }
  | .stale => { e with stale := e.stale + 1 }.count x (satAdd e.cnt 1)
  | .released => e.count x (BitVec.ofNat 8 x.staleN)

/-- The value of a mailbox that is visible at a count: the newest publish at or before it, else the value before them all (01 R19). -/
def Mailbox.visible (c : Nat) (m : Mailbox) : W32 := ((m.pubs.find? (fun e => decide (e.1 ≤ c))).map (·.2)).getD m.prev

/-- A publish since the slot's start is visible at the count. -/
def Mailbox.seenSince (start c : Nat) (m : Mailbox) : Bool := m.pubs.any (fun e => decide (start ≤ e.1 ∧ e.1 ≤ c))

/-- The ramp of a fallback (R238). -/
def rampStep (x : Slot) (cur : Int) : Int :=
  if x.fbRate = 0 ∨ (x.fbGoal - cur).natAbs ≤ x.fbRate then x.fbGoal else if x.fbGoal > cur then cur + x.fbRate else cur - x.fbRate

/-- The target at phase `c`: answers it with the slot's stale state, and the events it counts. Whatever the source, a later evaluation
of a mailbox begins after this sample (R237). -/
def State.target (n c : Nat) (s : State) : W32 × Slot × Nat × Nat :=
  let x := s.slot n
  match x.targetSrc with
  | 0 => (x.manTgt, { x with lastEval := c }, 0, 0)
  | 2 => ((match x.casc.find? (fun e => decide (e.1 ≤ c)) with
      | some e => e.2
      | none => x.manTgt), { x with lastEval := c }, 0, 0)
  | _ =>
    let m := s.mailbox x.mailbox
    let es := (m.evals.filter (fun e => decide (x.lastEval < e.1 ∧ e.1 ≤ c))).reverse
    let e := (es.map (·.2)).foldl (fun e v => evalOne x e v) { cnt := x.staleCnt, stale := 0, enter := 0, fallback := x.fallback }
    let start := x.start.getD 0
    let seen := if m.seenSince start c then m.visible c else x.manTgt
    let base := if e.enter = 0 then x.fbTgt else seen
    let ft := if e.fallback && decide (x.fbMode = 1) then i32 (rampStep x base.toInt) else base
    let y := { x with staleCnt := e.cnt, lastEval := c, fallback := e.fallback, fbTgt := if e.fallback then ft else x.fbTgt,
                      stale := satAdd x.stale e.stale, fbEntries := satAdd x.fbEntries e.enter,
                      flags := x.flags ||| Lf.when (decide (e.enter ≠ 0)) Lf.staleFb }
    (if e.fallback then ft else seen, y, e.stale, e.enter)

/-! ## What the recorder keeps of a slot (R248 to R254; 12 R416) -/

def SlotSt.num : SlotSt → Nat
  | .unbound => 0
  | .armed => 1
  | .running => 2
  | .pairCopy => 3

def Slot.status (x : Slot) (st : Nat) : W64 :=
  at64 x.lastOut.toNat 32 ||| at64 x.staleCnt.toNat 16 ||| at64 (b2n x.atHi) 8 ||| at64 (b2n x.atLo) 7 ||| at64 (b2n x.swapAt.isSome) 6 |||
    at64 (b2n x.bankSel) 5 ||| at64 (b2n x.fallback) 4 ||| at64 (b2n x.autoEff) 3 ||| at64 st 0

/-- Register images, both banks and LE_SLOT_STATE of both copies, with the start count and the ramp (log entry 84). -/
def State.slotContent (n : Nat) (s : State) : List Byte :=
  let x := s.slot n
  let regs := [x.cfg, x.src, x.phase, x.dest, x.fb, x.man, at64 (b2n x.auto) 0, at64 x.flags.toNat 0, x.status x.st.num]
  let words := regs ++ (List.range 64).map (fun i => Bank.word x.bankA i) ++ (List.range 64).map (fun i => Bank.word x.bankB i) ++
    x.chain.words ++ (s.slot (partner n)).chain.words
  words.flatMap w64Bytes ++ stampBytes (x.start.getD 0) ++ [BitVec.ofNat 8 (b2n x.computed), 0] ++ w32Bytes x.fbTgt

/-- The snapshot of a slot at its first computed sample after the effect count. -/
def State.snapSlot (n c : Nat) (s : State) : State :=
  if s.wit.snapSlots.contains n then
    (s.setWit { s.wit with snapSlots := s.wit.snapSlots.filter (fun m => decide (m ≠ n)) }).snapshot 1 n c (s.slotContent n)
  else s

/-! ## A computed sample -/

/-- The slot as a sample of phase `c` would run it, with the changes that are due (R225). -/
def State.slotFor (n c : Nat) (s : State) : Slot := (s.applyDue n c (s.slot n).pend).1.slot n

/-- The sample of phase `c` that was inside the loop-engine island by a count: the crossing from the sense group takes 3.3 ns
(R235; 01 R24). -/
def Lane.inTime (c last : Nat) (x : Lane) : Option W32 := (x.hist.find? (fun g => decide (g.phase = c ∧ g.came + 4 ≤ last))).map (·.val)

/-- The calibrated samples of a slot's lanes at phase `c`; none where one has not come in time. -/
def State.inputsAt (n c : Nat) (s : State) : Option (W32 × W32 × W32) :=
  let x := s.slotFor n c
  let v := fun (l : Nat) => (s.lane l).inTime c (c + x.commitDly - 166)
  match v x.inLane, (if x.divEn then v x.divLane else some 0), (if x.ffSrc = 3 then v x.ffLane else some 0) with
  | some a, some b, some d => some (a, b, d)
  | _, _, _ => none

/-- The sample of phase `c` is late: an input did not come or came too late, or can no longer be inside by commit − 166 (R235). -/
def State.isLate (n c : Nat) (s : State) : Bool :=
  let x := s.slotFor n c
  x.lanes.any (fun l => (s.lane l).phase.any (fun p => decide (c ≤ p)) && ((s.lane l).inTime c (c + x.commitDly - 166)).isNone) ||
    decide (c + x.commitDly < s.now + 166)

/-- Nothing runs and nothing changes but LATE and its counter (R235). -/
def State.lateSample (n c : Nat) (s : State) : State :=
  (s.updSlot n (fun x => { x with phaseDone := some c, flags := x.flags ||| Lf.late, late := satAdd x.late 1 })).event 0x101 (n / 8) 1

/-- The chain on one copy: its slot record takes the new state. -/
def Slot.took (c : Nat) (o : SampleOut) (x : Slot) : Slot :=
  { x with chain := o.ch, lastOut := o.out, atHi := o.atHi, atLo := o.atLo, flags := x.flags ||| o.fl, phaseDone := some c, computed := true }

/-- A computed sample (R227): changes and swap due, target, the chain on both copies, and staging. The twin's shadow of an earlier sample
says nothing of this one. -/
def State.computeSample (n c : Nat) (v : W32 × W32 × W32) (s : State) : State :=
  let a := s.applyDue n c (s.slot n).pend
  let b := a.1.swapDue n c
  let b := (b.1.snapSlot n c, b.2)
  let t := b.1.target n c
  let x := t.2.1
  let q : SampleIn := { x := v.1, d := v.2.1, f := v.2.2, tgt := t.1, man := x.manUse, manual := !x.autoEff, preset := a.2 || b.2, first := !x.computed }
  let o := runChain x.cfg x.bank x.chain x.atHi x.atLo q
  let p := b.1.slot (partner n)
  let o2 := runChain x.cfg x.bank p.chain p.atHi p.atLo q
  let sMis := x.paired && decide (stateCrc o.ch o.atHi o.atLo ≠ stateCrc o2.ch o2.atHi o2.atLo)
  let y := x.took c o
  let y := if x.paired then { y with flags := y.flags ||| o2.fl ||| Lf.when sMis Lf.pairState, pairMis := if sMis then satAdd y.pairMis 1 else y.pairMis } else y
  let y := { y with shadowCrc := none, staged := some { at_ := c + x.commitDly, phase := c, out := o.out, copy := if x.paired then some o2.out else none, stateMis := sMis } }
  let s := b.1.setSlot n y
  let s := if x.paired then s.setSlot (partner n) ({ p with flags := p.flags } |>.took c o2) else s
  let s := s.event 0x100 (n / 8) 1
  let s := if t.2.2.1 ≠ 0 then s.event 0x102 (n / 8) t.2.2.1 else s
  let s := if t.2.2.2 ≠ 0 then s.event 0x103 (n / 8) t.2.2.2 else s
  let fl := o.fl ||| (if x.paired then o2.fl else 0)
  let s := if fl &&& (Lf.satP ||| Lf.satI ||| Lf.satOut ||| Lf.notchSat) ≠ 0 then s.event 0x104 (n / 8) 1 else s
  let s := if fl &&& Lf.div0 ≠ 0 then s.event 0x105 (n / 8) 1 else s
  if sMis then s.event 0x107 (n / 8) 1 else s

/-- The removal that an UNBIND asked for, at its sample boundary. -/
def State.slotUnbound (n at_ : Nat) (c : Cause) (s : State) : State := ((s.dropSlot n).leaveSwaps n).journalAt at_ c (objTarget 0x10 n) none none

/-- A sample phase of slot `n` (R227, R235). -/
def State.slotSample (n : Nat) (s : State) : State :=
  match s.duePhase n with
  | none => (match (s.slot n).unbindAt with
    | some u => if u.1 ≤ s.now ∧ s.grid n = none then s.slotUnbound n u.1 u.2 else s
    | none => s)
  | some c =>
    match (s.slot n).unbindAt with
    | some u =>
      if u.1 ≤ c then s.slotUnbound n u.1 u.2
      else match s.inputsAt n c with
        | some v => s.computeSample n c v
        | none => if s.isLate n c then s.lateSample n c else s
    | none => match s.inputsAt n c with
      | some v => s.computeSample n c v
      | none => if s.isLate n c then s.lateSample n c else s

/-! ## Loop-engine and sense-group failures (14 R477, R479) -/

/-- A slot that computes on a failed engine, or reads a failed group. -/
def State.hitBy (es gs : List Nat) (n : Nat) (s : State) : Bool :=
  let x := s.slot n
  x.bound && (es.contains (n / 8) || (x.paired && es.contains (partner n / 8)) || x.lanes.any (fun l => gs.contains (l / 16)))

/-- On a SOLO device the slots stop writing and their pairs are held safe until they are rebound (R479). -/
def State.holdSlots (es gs : List Nat) (s : State) : State :=
  ((s.slots.map (·.1)).filter (fun n => s.hitBy es gs n)).foldl (fun s n =>
    let x := s.slot n
    let s := (s.setSlot n { x with stopped := true, staged := none }).holdLinks x true
    if x.writesPwm then (s.updPair x.pwmPair (fun p => { p with unitCause := true })).settlePair 0x7F x.pwmPair else s) s

/-- Loop engines and sense groups fail: recorded, in the health record, ALERT_N, and the effects of the device's role. -/
def State.failUnits (es gs : List Nat) (s : State) : State :=
  let es := es.filter (fun e => !s.mg.leFailed.contains e)
  let gs := gs.filter (fun g => !s.mg.sgFailed.contains g)
  if es.isEmpty && gs.isEmpty then s
  else
    let s := s.recordFailure (fun t => t.setMg { t.mg with leFailed := t.mg.leFailed ++ es, sgFailed := t.mg.sgFailed ++ gs }) .unit
    let s := s.health (fun h => { h with engines := h.engines ++ es, groups := h.groups ++ gs })
    if s.twin.pair = .none then s.holdSlots es gs else s.leavePair 4

/-! ## The commit phase (R234, R236, R245, R246) -/

/-- The engines charged with two consecutive mismatches: by the twin's shadow of the sample where it has arrived (R477). -/
def State.charged (n : Nat) (s : State) : List Nat :=
  let x := s.slot n
  let p := s.slot (partner n)
  let both := [n / 8, partner n / 8]
  match x.shadowCrc with
  | none => both
  | some c =>
    let a := decide (crc32c (shadowImage x.chain x.lastOut) ≠ c)
    let b := decide (crc32c (shadowImage p.chain p.lastOut) ≠ c)
    if a && !b then [n / 8] else if b && !a then [partner n / 8] else both

/-- The second consecutive sample with a mismatch (R246): with pair_act the pair is driven safe and writes stop; the
engines fail in either case (R477). -/
def State.pairFail (n : Nat) (s : State) : State :=
  let x := s.slot n
  let es := s.charged n
  let s := if x.pairAct then
      let s := (s.setSlot n { x with stopped := true }).raiseAlert .pairCheck
      if x.writesPwm then (s.updPair x.pwmPair (fun p => { p with pairCause := true })).settlePair 0x7E x.pwmPair else s
    else s
  s.failUnits es []

/-- Writes an output to the slot's destination (R234). -/
def State.writeOut (n : Nat) (g : Staged) (s : State) : State :=
  let x := s.slot n
  let s := if x.writesPwm then s.dutyWrite g.at_ x.pwmPair g.out else s
  let s := if x.destKind = 2 then s.updSlot x.inner (fun y => { y with casc := ((g.at_, g.out) :: y.casc).take 4 }) else s
  if x.writesCoil then s.pushLogical x.ltile x.coil .loop (n / 8) (w32Bytes g.out ++ w32Bytes (short g.phase)) else s

/-- The loop-state shadow that an ACTIVE device sends after each commit phase (14 R457). -/
def State.sendShadow (n : Nat) (s : State) : State :=
  if s.twin.role = .active ∧ s.mirrored then
    let x := s.slot n
    let im := shadowImage x.chain x.lastOut
    s.setTwin { s.twin with out := s.twin.out ++ [.shadow (n / 8) (n % 8) im (crc32c im)] }
  else s

/-- The commit phase: equal outputs are written, differing ones are withheld (R245). -/
def State.slotCommit (n : Nat) (s : State) : State :=
  let x := s.slot n
  match x.staged with
  | none => s
  | some g =>
    if s.now < g.at_ then s
    else
      let oMis := g.copy.any (fun o => decide (o ≠ g.out))
      let mis := oMis || g.stateMis
      let run := if mis then x.misRun + 1 else 0
      let s := s.setSlot n { x with staged := none, misRun := run, flags := x.flags ||| Lf.when oMis Lf.pairMismatch,
                                    pairMis := if oMis then satAdd x.pairMis 1 else x.pairMis }
      let s := if oMis then s.event 0x107 (n / 8) 1 else s
      let s := if run = 2 then s.pairFail n else s
      let s := if oMis || (s.slot n).stopped then s else s.writeOut n g
      s.sendShadow n

/-! ## Binding (R224, R234, R244; 10 R341) -/

/-- A fresh binding: registers, the active bank, ARMED with its start count or waiting for LAUNCH. -/
def State.bindFresh (n : Nat) (start : Option Nat) (ws bw : List W64) (s : State) : State :=
  let swap := (s.slot n).swapAt
  let s := s.dropSlot n
  let x := (((s.slot n).setRegs ws).setBank (Bank.ofWords bw))
  let x := { x with st := .armed, start := start, autoEff := x.auto, swapAt := swap }
  let s := s.setSlot n x
  let s := if x.paired then s.setSlot (partner n) { x with st := .pairCopy, start := none } else s
  let s := s.holdLinks x false
  if x.writesPwm then
    let s := s.updPair x.pwmPair (fun p => { p with unitCause := false })
    s.settlePair 0x7F x.pwmPair
  else s

/-- A slot becomes RUNNING at its start count (R224). -/
def State.slotStart (n : Nat) (s : State) : State :=
  let x := s.slot n
  match x.st, x.start with
  | .armed, some c => if c ≤ s.now then s.setSlot n { x with st := .running, lastEval := c - 1 } else s
  | _, _ => s

/-- An UNBIND takes effect at the slot's next sample boundary, or at once where it has none yet (R224). -/
def State.unbindSlot (n : Nat) (c : Cause) (s : State) : State :=
  match s.grid n with
  | some (b, d) => s.updSlot n (fun x => { x with unbindAt := some (nextAt b d s.now, c) })
  | none => s.slotUnbound n s.now c

/-! ## Registers (R247 to R254) -/

/-- The position whose registers a paired copy shows: those of its slot (R244). -/
def State.slotOwner (n : Nat) (s : State) : Nat := if (s.slot n).st = .pairCopy then partner n else n

/-- A register of the slot at offset `o` of the loop-engine block. -/
def State.lePeek (o : Nat) (s : State) : Option W64 :=
  let n := 8 * (o / 0x10000) + o % 0x10000 / 0x1000
  let r := o % 0x1000
  if o % 0x10000 / 0x1000 > 7 ∨ r % 8 ≠ 0 ∨ o ≥ 0x100000 then none
  else
    let x := s.slot (s.slotOwner n)
    if r = 0x00 then some x.cfg else if r = 0x08 then some x.src else if r = 0x10 then some x.phase else if r = 0x18 then some x.dest
    else if r = 0x20 then some x.fb else if r = 0x28 then some x.man else if r = 0x30 then some (at64 (b2n x.auto) 0)
    else if r = 0x38 then some (at64 x.flags.toNat 0)
    else if r = 0x40 then some (x.status (s.slot n).st.num)
    else if r = 0x48 then some (at64 x.late.toNat 48 ||| at64 x.stale.toNat 32 ||| at64 x.pairMis.toNat 16 ||| at64 x.fbEntries.toNat 0)
    else if 0x200 ≤ r ∧ r < 0x400 then some (Bank.word x.bankA ((r - 0x200) / 8))
    else if 0x400 ≤ r ∧ r < 0x600 then some (Bank.word x.bankB ((r - 0x400) / 8))
    else if 0x600 ≤ r ∧ r < 0x650 then some ((s.slot n).chain.words.getD ((r - 0x600) / 8) 0)
    else none

def State.leClear (o : Nat) (s : State) : State :=
  if o % 0x1000 = 0x48 then
    s.updSlot (s.slotOwner (8 * (o / 0x10000) + o % 0x10000 / 0x1000)) (fun x => { x with late := 0, stale := 0, pairMis := 0, fbEntries := 0 })
  else s

/-- 10 µs: the distance of the effect count from the acceptance stamp (R225). -/
def effectDelay : Nat := 10000

/-- A change of a bound slot waits for its effect count; of an unbound slot it is in force at once. -/
def State.defer (n : Nat) (ch : SlotChange) (stamp : Nat) (c : Cause) (s : State) : State :=
  s.updSlot n (fun x => if x.bound then { x with pend := x.pend ++ [{ at_ := stamp + effectDelay, what := ch, cause := c }] } else (x.apply ch).1)

/-- A write of the register at offset `r` of slot `n` (R225, R241, R250 to R254). -/
def State.slotPoke (n r : Nat) (v m : W64) (stamp : Nat) (c : Cause) (s : State) : Option State :=
  let x := s.slot n
  let i := r / 8
  if r < 0x20 then
    if x.st ≠ .unbound then none
    else
      let w := fun (old : W64) => mask64 old v m &&& slotMasks.getD i 0
      some (s.setSlot n (if i = 0 then { x with cfg := w x.cfg } else if i = 1 then { x with src := w x.src }
        else if i = 2 then { x with phase := w x.phase } else { x with dest := w x.dest }))
  else if r = 0x20 then
    let w := mask64 x.fb v m
    some ((s.setSlot n { x with fb := w }).defer n (.fb w) stamp c)
  else if r = 0x28 then
    let w := mask64 x.man v m
    some ((s.setSlot n { x with man := w }).defer n (.man w) stamp c)
  else if r = 0x30 then
    let w := mask64 (at64 (b2n x.auto) 0) v m &&& 7
    some ((s.setSlot n { x with auto := bit w 0 }).defer n (.mode w) stamp c)
  else if r = 0x38 then some (s.setSlot n { x with flags := x.flags &&& ~~~(BitVec.ofNat 10 (fld (v &&& m) 0 10)) })
  else if r = 0x40 ∨ r = 0x48 ∨ (0x600 ≤ r ∧ r < 0x650) then some s
  else if 0x200 ≤ r ∧ r < 0x400 then
    if !x.bankSel || x.swapAt.isSome then none
    else
      let k := (r - 0x200) / 8
      some (s.setSlot n { x with bankA := Bank.set k (mask64 (Bank.word x.bankA k) v m) x.bankA })
  else if 0x400 ≤ r ∧ r < 0x600 then
    if x.bankSel || x.swapAt.isSome then none
    else
      let k := (r - 0x400) / 8
      some (s.setSlot n { x with bankB := Bank.set k (mask64 (Bank.word x.bankB k) v m) x.bankB })
  else none

/-- The offsets whose changes are journaled when they take effect, not when they are written (R225; 10 R345). -/
def deferredReg (r : Nat) : Bool := decide (0x20 ≤ r ∧ r < 0x38)

def State.lePoke (o : Nat) (v m : W64) (stamp : Nat) (c : Cause) (s : State) : Option State :=
  let n := 8 * (o / 0x10000) + o % 0x10000 / 0x1000
  if o % 0x10000 / 0x1000 > 7 ∨ o % 8 ≠ 0 ∨ o ≥ 0x100000 then none
  else s.slotPoke (s.slotOwner n) (o % 0x1000) v m stamp c

/-! ## The shadow on the STANDBY device (14 R473) -/

/-- A loop-state shadow: where its CRC differs from the slot's own, the slot takes the shadow's state. -/
def State.shadowIn (n : Nat) (image : List Byte) (crc : W32) (s : State) : State :=
  let x := s.slot n
  if x.st ≠ .running ∨ s.twin.role ≠ .standby ∨ crc32c image ≠ crc then s
  else
    let s := s.setSlot n { x with shadowCrc := some crc }
    let s := s.setTwin { s.twin with shadowDone := if s.twin.shadowDone.contains n then s.twin.shadowDone else n :: s.twin.shadowDone }
    if crc32c (shadowImage x.chain x.lastOut) = crc then s
    else
      let ch := Chain.ofWords ((List.range 10).map (fun i => w64At (8 * i) image))
      let s := s.updSlot n (fun y => { y with chain := ch, lastOut := w32At 80 image, computed := true })
      let s := if x.paired then s.updSlot (partner n) (fun y => { y with chain := ch, lastOut := w32At 80 image }) else s
      if s.twin.pair = .synced ∨ s.twin.pair = .catchup then
        (s.setTwin { s.twin with divLoop := satAdd s.twin.divLoop 1 }).event 0x2C6 0 1
      else s

/-! ## The events -/

def slotIx (e sl : Nat) : Nat := 8 * e + sl

def withinSlot (e sl : Nat) (t : State) : Res := if e < 16 ∧ sl < 8 then .next t else .fault .noSuchUnit

/-- A slot reaches its start count (R224). -/
def execSlotStart (e sl : Nat) (s : State) : Res := withinSlot e sl (s.slotStart (slotIx e sl))

/-- A sample phase of a slot (R222 to R243). -/
def execSlotSample (e sl : Nat) (s : State) : Res := withinSlot e sl (s.slotSample (slotIx e sl))

/-- A commit phase of a slot (R234, R245, R246). -/
def execSlotCommit (e sl : Nat) (s : State) : Res := withinSlot e sl (s.slotCommit (slotIx e sl))

end Sys2Proof.Machine
end

