-- ==== Sys2Proof/Machine/Kiln.lean ====
section
/-!
DEFINITION. The kiln: planning, the ready list and dispatch, contexts, the cone bucket, and standing jobs (11 R353 to R371,
R384, R385; 01 R17 to R20; 05 R142, R184; 10 R328; 12 R412, R413; 14 R478).
-/

set_option Elab.async false

namespace Sys2Proof.Machine

open Sys2Proof

/-! ## Planning (R353, R356), in ninths of a nanosecond, which every clock step divides -/

/-- Ninths of a nanosecond that a tile cycle takes. -/
def ninths (step : BitVec 2) : Nat := if step = 0 then 6 else if step = 1 then 8 else 12

/-- Exit times (R376). -/
def exitNs (r : Nat) : Nat := match r with
  | 0 => 0
  | 1 => 40
  | 2 => 400
  | 3 => 4000
  | _ => 40000

/-- wake_t: the exit time, and 100 ns for each wake already waiting for a slot; zero at FIRE. -/
def State.wakeNs (p : Nat) (s : State) : Nat :=
  let r := (s.dom p).rung.toNat
  exitNs r + (if r = 0 then 0 else 100 * s.kiln.wakes.length)

/-- load_t, with the persistent regions that the exit from DRY restores. -/
def State.loadTime (p : Nat) (im : Image) (s : State) : Nat :=
  let t := s.tile p
  loadNs (t.loadBytes im + (t.dryKeep.map (fun e => e.2.length)).sum)

/-- The end of the running job's budget. -/
def State.budgetEnd (p : Nat) (s : State) : Nat :=
  let t := s.tile p
  let of := fun (c : Option Ctx) => match c with
    | some c => if c.live && decide (c.wait = none) then (c.job.image.wcet - s.wdCycles p c) * ninths t.clkStep else 0
    | none => 0
  9 * s.now + max (of t.ctx0) (of t.ctx1)

/-- free_t. -/
def State.freeAt (p : Nat) (s : State) : Nat :=
  ((s.kiln.ready.filter (fun j => decide (j.pin = some p))).map (·.finishAt)).foldl max (s.budgetEnd p)

/-- start_t and finish_t of a budget of `w` cycles. -/
def State.plan (p : Nat) (im : Image) (w : Nat) (s : State) : Nat × Nat :=
  let st := s.freeAt p + 9 * (s.wakeNs p + s.loadTime p im + 120)
  (st, st + w * ninths (s.tile p).clkStep)

/-- A slot that no context holds. -/
def Tile.freeSlot (t : Tile) : Option Nat := if t.ctx0.isNone then some 0 else if t.ctx1.isNone then some 1 else none

/-- The image's footprint meets none of the resident contexts'. -/
def Tile.roomFor (im : Image) (t : Tile) : Bool :=
  let clear := fun (c : Option Ctx) => match c with
    | some c => !c.job.image.overlaps im
    | none => true
  t.freeSlot.isSome && clear t.ctx0 && clear t.ctx1

/-- A tile eligible for on-demand work (R356). -/
def State.eligible (p : Nat) (im : Image) (s : State) : Bool :=
  let t := s.tile p
  (s.logical p).isSome && !t.failed && !t.reserved && !t.closed && !(s.dom p).closed && t.roomFor im

/-- The physical tiles in the order of their logical numbers. -/
def State.mapped (s : State) : List Nat := (List.range 64).filterMap (fun l => s.phys l)

/-- The eligible tile of least finish_t, the lowest logical number first (R353). -/
def State.bestTile (im : Image) (w : Nat) (s : State) : Option (Nat × Nat × Nat) :=
  (s.mapped.filter (fun p => s.eligible p im)).foldl (fun (m : Option (Nat × Nat × Nat)) p =>
    let r := s.plan p im w
    match m with
    | some b => if r.2 < b.2.2 then some (p, r.1, r.2) else m
    | none => some (p, r.1, r.2)) none

/-- Cones promised to pinned jobs, from their acceptance until their dispatch (R355). -/
def State.promised (s : State) : Nat := ((s.kiln.ready.filter (fun j => j.pin.isSome)).map (·.cones)).sum

/-- The admission of a job with its budget and cones at count `a` (R353, R355, R320): none is a refusal, otherwise the
pin of a job with a deadline. -/
def State.admission (im : Image) (w cones : Nat) (deadline : Option Nat) (a : Nat) (s : State) : Option (Option (Nat × Nat × Nat)) :=
  if cones > s.kiln.depth.toNat then none
  else
    match deadline with
    | none => some none
    | some d =>
      if d ≤ a then none
      else
        match s.bestTile im w with
        | none => none
        | some b =>
          let k := ninths (s.tile b.1).clkStep
          let supply : Int := s.kiln.level * 9000 + s.onDemandRate * ((9 * (d : Int) - w * k) - 9 * a)
          if b.2.2 ≤ 9 * d ∧ ((cones + s.promised : Nat) : Int) * 9000000 ≤ supply then some (some b) else none

/-! ## The ready list (R358 to R360) -/

/-- Jobs in ready-list order. -/
def insertJob (j : Job) : List Job → List Job
  | [] => [j]
  | k :: ks => if jobBefore j k then j :: k :: ks else k :: insertJob j ks

/-- The swapped-out context of a job, where it is runnable. -/
def State.swappedOf (j : Job) (s : State) : Option Swapped := s.kiln.swapped.find? (fun e => e.runnable && decide (e.ctx.job = j))

/-- Jobs that are not dispatched, and those of runnable swapped-out contexts, in one order (R358). -/
def State.readyList (s : State) : List Job :=
  (s.kiln.ready ++ (s.kiln.swapped.filter (·.runnable)).map (·.ctx.job)).foldl (fun l j => insertJob j l) []

/-- The declared cones are at most the level less what is promised (R360). -/
def State.conesOk (j : Job) (s : State) : Bool := j.pin.isSome || decide (((j.cones + s.promised : Nat) : Int) * 1000 ≤ s.kiln.level)

/-- A job that waits for cones: a swapped-out context has had its own. -/
def State.lacksCones (j : Job) (s : State) : Bool := (s.swappedOf j).isNone && !s.conesOk j

/-- An image may start on a tile now. -/
def State.startable (p : Nat) (im : Image) (s : State) : Bool := s.eligible p im && !(s.tile p).executing

/-- A count, in ninths, lies before the start reserved for every job pinned to the tile, but for `j` (R359). -/
def State.beforePins (p : Nat) (j : Job) (fin : Nat) (s : State) : Bool :=
  s.kiln.ready.all (fun k => decide (k.pin ≠ some p) || decide (k = j) || decide (fin < k.startAt))

/-- The budget of an unpinned job ends before the start reserved for every job pinned to the tile (R359). -/
def State.fitsBefore (p : Nat) (j : Job) (s : State) : Bool :=
  s.beforePins p j (9 * (s.now + s.wakeNs p + s.loadTime p j.image + 120) + j.budget * ninths (s.tile p).clkStep) 

/-- The same of the rest of a swapped-out context's budget, after the swap of R366; swapped out it uses none of it. -/
def State.restFits (p : Nat) (e : Swapped) (s : State) : Bool :=
  let bytes := (e.saved.map (fun x => x.2.length)).sum
  s.beforePins p e.ctx.job (9 * (s.now + s.wakeNs p + 25000 + loadNs bytes + s.loadTime p e.ctx.job.image) +
    (e.ctx.job.image.wcet - e.ctx.wdBase) * ninths (s.tile p).clkStep)

/-- A swapped-out context may come to the tile now. -/
def State.canHost (p : Nat) (e : Swapped) (s : State) : Bool := s.startable p e.ctx.job.image && s.restFits p e

/-- The preference among tiles: a resident image, resident weights, the rung nearest FIRE. -/
def State.preference (p : Nat) (j : Job) (s : State) : List Nat :=
  let t := s.tile p
  [if t.whole j.image then 0 else if t.holdsWeights j.image then 1 else 2, (s.dom p).rung.toNat]

/-- The preferred of the tiles that a test admits, the lowest logical number first of equals. -/
def State.prefer (ok : Nat → Bool) (j : Job) (s : State) : Option Nat :=
  (s.mapped.filter ok).foldl (fun (m : Option Nat) p =>
    match m with
    | some b => if keyLt (s.preference p j) (s.preference b j) then some p else m
    | none => some p) none

def State.chooseTile (j : Job) (s : State) : Option Nat := s.prefer (fun p => s.startable p j.image && s.fitsBefore p j) j

/-- The head has stood at the head for starve_us (R360). -/
def State.starved (j : Job) (s : State) : Bool :=
  match s.kiln.headSince with
  | some (q, sq, c) => decide (q = j.queue ∧ sq = j.seq) && decide (c + 1000 * fld s.kiln.admitCtl 32 16 ≤ s.now)
  | none => decide (fld s.kiln.admitCtl 32 16 = 0)

/-- Where an entry of the ready list can go now: a pinned job to its own tile, any other to the tile preferred. -/
def State.place (j : Job) (s : State) : Option Nat :=
  match s.swappedOf j with
  | some e => s.prefer (fun p => s.canHost p e) j
  | none =>
    if (s.queue j.queue).stopped then none
    else match j.pin with
      | some p => if s.startable p j.image then some p else none
      | none => if s.conesOk j then s.chooseTile j else none

/-- The first entry that can go, with its tile. `noPass` once a starved head waits for cones: then no unpinned job passes
it. -/
def State.pick (first noPass : Bool) : List Job → State → Option (Job × Nat)
  | [], _ => none
  | j :: js, s =>
    if noPass && (s.swappedOf j).isNone && j.pin.isNone then State.pick false noPass js s
    else
      match s.place j with
      | some p => some (j, p)
      | none => State.pick false (noPass || (first && !(s.queue j.queue).stopped && s.lacksCones j && s.starved j)) js s

/-! ## A context starts (05 R142) -/

/-- Parameter words 0 to 7: the last four are the first 32 bytes of payload when p8 is set (10 R319). -/
def Packet.words (p : Packet) : List W64 :=
  [p.hdr.w0, p.hdr.w1, p.hdr.w2, p.hdr.w3] ++
    (if bit p.hdr.flags 2 then (List.range 4).map (fun i => w64At (8 * i) p.payload) else [])

/-- The registers at the start of a job. g9 goes on as a count of 64 bits after 2^32 invocations, where the invocation number of the
generator wraps (DESIGN CHOICE: log entry 210). -/
def Ctx.fresh (j : Job) (ws : List W64) (seed : W64) : Ctx :=
  let c : Ctx := { job := j, live := true, pc := j.image.entry, seed := seed, inv := BitVec.ofNat 32 j.inv }
  let c := ws.zipIdx.foldl (fun (c : Ctx) e => c.setReg (e.2 + 1) e.1) c
  (c.setReg 9 (BitVec.ofNat 64 j.inv)).setReg 10 seed

/-- A tile that is to hold contents again before its exit ends: its saved and retained contents come back first. -/
def State.readyTile (p : Nat) (s : State) : State := (s.updTile p (fun t => t.undry.uncool)).wake p

/-- A job is dispatched; a built-in image starts 120 ns later (R353). Its cones are deducted, its tile wakes, its image is placed (R359, R361, R370; 05 R182). -/
def State.dispatch (j : Job) (p : Nat) (s : State) : State :=
  match (s.tile p).freeSlot with
  | none => s
  | some w =>
    let s := s.setKiln { s.kiln with level := s.kiln.level - 1000 * (j.cones : Int), ready := s.kiln.ready.erase j }
    let go := fun (c : Ctx) => if j.builtin then c.begin_ (s.now + 120) (s.up + 120) else c
    let j := { j with throttled := j.throttled || decide ((s.tile p).clkStep ≠ 0) }
    let c := { (Ctx.fresh j j.pkt.words j.pkt.hdr.w3) with charged := 1000 * j.cones, coils := (s.tile p).restOf j.image }
    let s := (s.readyTile p).updTile p (fun t =>
      { (t.setSlot w (some (go c))) with exec1 := decide (w = 1), restCoils := t.restCoils.filter (fun e => !e.1.same j.image) })
    let s := s.event 0x1C3 0 1
    let r := s.placeImage p j.image
    match r.2 with
    | .ok => r.1
    | .bad loc => r.1.failLoad p w loc

/-- A swapped-out context comes to a tile: CODE and weights that are not resident are loaded, the saved bytes restored. -/
def State.swapIn (p : Nat) (e : Swapped) (s : State) : State :=
  match (s.tile p).freeSlot with
  | none => s
  | some w =>
    let s := s.setKiln { s.kiln with swapped := s.kiln.swapped.erase e }
    let c := { e.ctx with wait := none, cycSince := s.up, job := { e.ctx.job with throttled := e.ctx.job.throttled || decide ((s.tile p).clkStep ≠ 0) } }
    let s := (s.readyTile p).updTile p (fun t => { (t.setSlot w (some c)) with exec1 := decide (w = 1) })
    let r := s.placeImage p c.job.image
    match r.2 with
    | .bad loc => r.1.failLoad p w loc
    | .ok =>
      let s := e.saved.foldl (fun s x => let a := windowStore x.1; s.storeWrite p a.1 a.2 x.2) r.1
      s.updTile p (fun t => { t with written := addSecs c.job.image c.wroteSecs t.written })

/-- The job at the head, and since when (R360); a head that waits for cones is throttled (R361). -/
def State.noteHead (s : State) : State :=
  match s.readyList with
  | [] => s.setKiln { s.kiln with headSince := none }
  | j :: _ =>
    let since := match s.kiln.headSince with
      | some (q, sq, c) => if q = j.queue ∧ sq = j.seq then c else s.now
      | none => s.now
    let mark := fun (k : Job) => if k = j ∧ s.lacksCones j then { k with throttled := true } else k
    s.setKiln { s.kiln with headSince := some (j.queue, j.seq, since), ready := s.kiln.ready.map mark }

/-- The kiln gives on-demand work no tile at the critical level (R375), on a STANDBY device, and once a ROLE_SWAP is accepted
(14 R463; 01 R29). -/
def State.noDispatch (s : State) : Bool := s.kiln.critical || decide (s.twin.role = .standby) || s.twin.swapAt.isSome

/-- An entry of the ready list goes to a tile. -/
def State.start (j : Job) (p : Nat) (s : State) : State :=
  match s.swappedOf j with
  | some e => s.swapIn p e
  | none => s.dispatch j p

/-- The kiln considers the ready list and dispatches the first entry it can (R359, R360). -/
def State.jobDispatch (s : State) : State :=
  let s := s.noteHead
  if s.noDispatch then s
  else
    match State.pick true false s.readyList s with
    | some (j, p) => (s.start j p).noteHead
    | none => s

/-! ## Contexts (R363 to R366) -/

/-- The tile runs its other context when that one is runnable and none executes. A tile that left FIRE while its contexts
were blocked comes back for the one that runs again (R363), unless SET_RUNG holds it. -/
def State.contextSwitch (p : Nat) (s : State) : State :=
  let t := s.tile p
  if s.shut p then s
  else if t.running then s.wake p
  else match t.slot (1 - t.execSlot) with
  | some c =>
    if c.live && decide (c.wait = none) then ((s.setTile p { t with exec1 := !t.exec1 }).tileEvent p 0x28 1).wake p else s
  | none => s

/-- A context that the kiln may evict. -/
def Tile.evictable (w : Nat) (t : Tile) : Bool :=
  match t.slot w with
  | some c => c.job.binding.isNone && !(t.cu.any (fun u => decide (u.owner = w))) && t.quietFor w &&
      !(c.coils.any (fun e => e.2.isOpen && e.2.receive && (bit e.2.accept 2 || bit e.2.accept 3)))
  | none => false

/-- The context that comes to the tile: that of the first entry of the ready list that can go there, where it has one. -/
def State.firstFor (p : Nat) : List Job → State → Option Swapped
  | [], _ => none
  | j :: js, s =>
    match s.swappedOf j with
    | some e => if s.canHost p e then some e else State.firstFor p js s
    | none => if s.place j = some p then none else State.firstFor p js s

/-- A runnable context is swapped in, unless a job that stands before it starts on that tile (R358, R359). -/
def State.contextSwapIn (p : Nat) (s : State) : State :=
  if s.noDispatch then s
  else match State.firstFor p s.readyList s with
  | some e => s.swapIn p e
  | none => s

/-- Runnable swapped-out contexts in ready-list order. -/
def State.runnable (s : State) : List Swapped := s.readyList.filterMap (fun j => s.swappedOf j)

/-- The binding's image is loaded on its tile and stays resident; answers whether it could be. -/
def State.loadStanding (p : Nat) (im : Image) (s : State) : State × Loaded :=
  let r := (s.readyTile p).placeImage p im
  match r.2 with
  | .ok => (r.1.updTile p (fun t => { t with residents := im :: t.residents.filter (fun x => !x.same im) }.trim), .ok)
  | e => (r.1, e)

/-- An on-demand context is on the tile. -/
def Tile.onDemand (t : Tile) : Bool := (t.ctx0.toList ++ t.ctx1.toList).any (fun c => c.live && c.job.binding.isNone)

/-- A reserved tile whose on-demand contexts have left it gets the image of its binding (R367). -/
def State.loadReserved (p : Nat) (s : State) : State :=
  match s.bindings.find? (fun e => decide (s.phys e.2.ltile = some p)) with
  | some e => if (s.tile p).onDemand || (s.tile p).whole e.2.image then s else (s.loadStanding p e.2.image).1
  | none => s

/-- The image of a new binding is loaded at once, or when the job that still executes on its tile has left it. -/
def State.loadBound (p : Nat) (im : Image) (s : State) : State × Loaded := if (s.tile p).onDemand then (s, .ok) else s.loadStanding p im

/-- Both contexts of a tile have been blocked for longer than block_us: the one whose block began first makes room for
a runnable context that no other tile has a slot for. A reserved tile gives up its on-demand contexts (R364, R367). -/
def State.contextEvict (p : Nat) (s : State) : State :=
  let t := s.tile p
  let old := fun (w : Nat) => match t.slot w with
    | some c => c.live && decide (c.wait ≠ none) && decide (c.waitSince + 1000 * fld s.kiln.admitCtl 16 16 < s.now)
    | none => false
  let since : Nat → Nat := fun w => match t.slot w with
    | some c => c.waitSince
    | none => 0
  if t.reserved then (s.swapAll p).loadReserved p
  else if !(old 0 && old 1) then s
  else
    let order := if since 1 < since 0 then [1, 0] else [0, 1]
    match order.filter (fun w => t.evictable w) with
    | [] => s
    | w :: _ =>
      let after := s.setTile p (t.setSlot w none)
      let wanted := s.runnable.filter (fun e => after.canHost p e && s.mapped.all (fun q => decide (q = p) || !s.eligible q e.ctx.job.image))
      match wanted with
      | [] => s
      | e :: _ => ((s.swapOut p w).event 0x1C7 0 1).swapIn p e

/-- Contexts and jobs whose deadline has passed at a count (06 R210): those on the tile freeze; a job that no tile has
fails with FAILED_OVERRUN (R357). In a replay a freeze waits for the recorded cut (06 R213). -/
def State.deadlineFreeze (p cut : Nat) (s : State) : State :=
  let due := fun (j : Job) => match j.deadline with
    | some d => decide (d ≤ s.now)
    | none => false
  let reached := fun (w : Nat) (c : Ctx) => match (s.tile p).cu with
    | some u => decide (u.owner ≠ w) || u.held.zipIdx.all (fun e => match s.cutOf c.job.queue c.job.seq e.2 with
      | some k => decide (k < e.1.offers)
      | none => true)
    | none => true
  let s := [0, 1].foldl (fun s w =>
    match s.ctx p w with
    | some c => if c.live && due c.job && reached w c then s.freezeAt p w cut c else s
    | none => s) s
  let waiting := s.kiln.ready.filter due
  let out := s.kiln.swapped.filter (fun e => due e.ctx.job)
  let s := s.setKiln { s.kiln with ready := s.kiln.ready.filter (fun j => !due j), swapped := s.kiln.swapped.filter (fun e => !due e.ctx.job) }
  let s := waiting.foldl (fun s j => s.endReady j St.overrun 0) s
  out.foldl (fun s e => s.endSwapped e St.overrun 0) s

/-- The budget watchdog expires (05 R184); a deadline in the same cycle takes precedence (06 R210). -/
def State.watchdogBudget (p : Nat) (s : State) : State :=
  [0, 1].foldl (fun s w =>
    match s.ctx p w with
    | some c =>
      let due := match c.job.deadline with
        | some d => decide (d ≤ s.now)
        | none => false
      if c.live && !due && decide (c.job.image.wcet ≠ 0 ∧ c.job.image.wcet ≤ s.wdCycles p c) then s.failJob p w St.overrun 0 else s
    | none => s) s

/-! ## The cone bucket (R369, R371; 01 R17) -/

def kilnCfg (cap depth : W32) : W64 := at64 cap.toNat 32 ||| at64 depth.toNat 0

def kilnCfgAddr : W64 := 0x30010

/-- A new budget takes effect at a refill tick. -/
def State.newBudget (s : State) : State :=
  match s.kiln.newBudget with
  | none => s
  | some (cap, depth, c) =>
    let old := kilnCfg s.kiln.capMw s.kiln.depth
    let s := s.setKiln { s.kiln with capMw := cap, depth := depth, newBudget := none }
    if old = kilnCfg cap depth then s else s.journalNow c kilnCfgAddr (some (w64Bytes old)) (some (w64Bytes (kilnCfg cap depth)))

/-- A refill tick of 1 µs. -/
def State.refillTick (s : State) : State :=
  let s := s.newBudget
  let s := s.setKiln { s.kiln with level := min (s.kiln.level + s.onDemandRate) ((s.kiln.depth.toNat * 1000 : Nat) : Int) }
  let s := match s.readyList with
    | j :: _ => if s.lacksCones j then s.event 0x1C6 0 1 else s
    | [] => s
  s.noteHead.standingCheck

/-! ## Standing jobs (R367, R368; 01 R18 to R20; 10 R328) -/

/-- The slot that a binding's context holds on its tile. -/
def Tile.slotOf (b : Nat) (t : Tile) : Option Nat :=
  let of := fun (c : Option Ctx) => c.any (fun c => decide (c.job.binding = some b))
  if of t.ctx0 then some 0 else if of t.ctx1 then some 1 else none

/-- An invocation of the binding is running. -/
def State.invoking (b : Nat) (v : Binding) (s : State) : Bool :=
  match s.phys v.ltile with
  | some p => (match (s.tile p).slotOf b with
    | some w => (s.ctx p w).any (·.live)
    | none => false)
  | none => false

/-- The job of the latest invocation. -/
def Binding.job (b : Nat) (v : Binding) : Job :=
  { queue := v.cqueue, seq := v.seq.getD 0, tag := v.tag, opcode := 0x1004, image := v.image, tput := v.tput, accept := v.boundary,
    deadline := some (v.boundary + v.deadline), cones := v.image.cones, budget := v.image.wcet, binding := some b, boundary := v.boundary,
    inv := v.inv - 1, rerun := v.firstRerun, prov := v.prov,
    pkt := { (default : Packet) with opcode := 0x1004, payload := v.record } }

/-- The latest invocation ends without having run. -/
def State.failInvocation (b : Nat) (st : Byte) (loc : W64) (s : State) : State :=
  match s.binding b with
  | none => s
  | some v =>
    let c : Ctx := { job := v.job b }
    let s := s.setBinding b { v with toStart := false }
    s.endInvocation b c { st := st } st { status := st, location := loc, ext := if v.prov then zeros 64 else [] }
      { kind := 3, digest := invocationDigest st 0 [], payload := invocationPayload [], tput := v.tput }

/-- The tile is reserved for a binding: closed to on-demand work, always at 1.5 GHz, and at FIRE or SOAK (R367, R368). -/
def State.reserve (p : Nat) (s : State) : State :=
  let s := (s.setKiln { s.kiln with stepsDue := s.kiln.stepsDue.filter (fun e => decide (e.1 ≠ p)) }).takeStep p 0
  ((s.updTile p (fun t => { t with reserved := true, closed := true })).unshut p).swapAll p

/-- The period boundary: an invocation takes its sequence number and its publish count (10 R328; 01 R19). A binding
whose tile failed moves to the spare here, and this invocation fails (14 R478). -/
def State.standingBoundary (b : Nat) (s : State) : State :=
  match s.binding b with
  | none => s
  | some v =>
    if v.first.isNone || v.unbindAt.isSome || decide (s.now < v.next) then s
    else
      let e := s.enterInvocation v.cqueue v.tag v.next
      let pub : Pub := { due := v.next + v.deadline + 64, seq := v.inv, qseq := e.1, ended := false, publishes := false, status := 0, staged := [], held := none }
      let v' := { v with boundary := v.next, next := v.next + v.period, inv := v.inv + 1, seq := some e.1, running := true, toStart := true,
                         pubs := v.pubs ++ [pub] }
      let s := e.2.setBinding b v'
      if v.behind then (s.raiseAlert .unmapped).failInvocation b St.unit (locUnit ((s.phys v.ltile).getD 0) 0)
      else
      match s.phys v.ltile, v.awaitImage with
      | none, old => (s.raiseAlert .unmapped).failInvocation b St.unit (locUnit (old.getD 0) 0)
      | some p, some old =>
        let r := (s.reserve p).loadStanding p v.image
        let s := r.1.setBinding b { v' with awaitImage := if r.2 = .ok then none else some old, firstRerun := !s.mirrored }
        let s := if r.2 = .ok ∧ s.mirrored = true then s.askCatchup b else s
        s.failInvocation b St.unit (locUnit old 0)
      | some p, none => s.rouse p

/-- The invocation's context takes the place of the last one, with its coils (02 R73; 05 R142). An image of which the tile has lost
something is loaded again (05 R183). -/
def State.beginInvocation (b p w : Nat) (v : Binding) (s : State) : State :=
  let coils := match s.ctx p w with
    | some c => c.coils
    | none => []
  let c := { (Ctx.fresh (v.job b) [] v.seed) with coils := coils }
  let s := (s.setBinding b { v with toStart := false, firstRerun := false }).updTile p (fun t => { (t.setSlot w (some c)) with exec1 := decide (w = 1) })
  let s := s.event 0x1CA 0 1
  if (s.tile p).whole v.image then
    let s := s.updTile p (Tile.wakeFor { v.image with sections := v.image.sections.filter (fun x => decide (x.kind = 3) && x.reload) })
    let r := s.reloadConst p v.image
    match r.2 with
    | some a => r.1.failLoad p w (locHbm a)
    | none => r.1
  else
    let r := s.loadStanding p v.image
    match r.2 with
    | .ok => r.1
    | .bad loc => r.1.failLoad p w loc

/-- 120 ns after its boundary an invocation's first instruction may issue (R368). One whose predecessor still runs
fails. -/
def State.invocationStart (b : Nat) (s : State) : State :=
  match s.binding b with
  | none => s
  | some v =>
    if !v.toStart || decide (s.now < v.boundary + 120) then s
    else if s.invoking b v then s.failInvocation b St.overrun 0
    else
      match s.phys v.ltile with
      | none => s.failInvocation b St.unit (locUnit 0 0)
      | some p =>
        let s := s.swapAll p
        match (s.tile p).slotOf b, (s.tile p).freeSlot with
        | some w, _ => s.beginInvocation b p w v
        | none, some w => s.beginInvocation b p w v
        | none, none => s.failInvocation b St.overrun 0

/-- No binding lacks its tile or its catch-up any more: the cause of ALERT_N is gone (14 R478, R485). -/
def State.unmappedCheck (s : State) : State :=
  if s.bindings.any (fun e => e.2.behind || (s.phys e.2.ltile).isNone) then s else s.unalert .unmapped

/-- The binding ends at its release count: its mailboxes lose their writer, its tile and rate are released, and the
UNBIND completes (R368; 07 R237). -/
def State.standingRelease (b : Nat) (s : State) : State :=
  match s.binding b with
  | none => s
  | some v =>
    match v.unbindAt with
    | none => s
    | some (_, c) =>
      if !v.pubs.isEmpty || v.toStart || s.invoking b v then s
      else
        let s := (s.dropBinding b).unmappedCheck
        let s := v.mailboxes.foldl (fun s m => s.updMailbox m (·.release s.now)) s
        let s := match s.phys v.ltile with
          | some p =>
            let t := s.tile p
            let t := match t.slotOf b with
              | some w => t.setSlot w none
              | none => t
            s.setTile p { t with reserved := false, closed := (s.dom p).shutOut, idleSince := s.now }
          | none => s
        (s.journalNow c (objTarget 0x10 b) none none).finish c.queue c.seq St.done

/-! ## LAUNCH (12 R413) -/

/-- The count of a LAUNCH: its bindings get their first boundary, its slots run. -/
def State.launchCount (q sq : Nat) (s : State) : State :=
  match s.kiln.launches.find? (fun l => decide (l.queue = q ∧ l.seq = sq)) with
  | none => s
  | some l =>
    if s.now < l.at_ then s
    else
      let s := s.setKiln { s.kiln with launches := s.kiln.launches.filter (fun x => decide (¬ (x.queue = q ∧ x.seq = sq))) }
      let s := l.bindings.foldl (fun s b => s.updBinding b (fun v => { v with first := some l.at_, next := l.at_ })) s
      let s := l.slots.foldl (fun s n => (s.updSlot n (fun x => { x with start := some l.at_ })).slotStart n) s
      let c := s.causeOf q sq
      let s := (l.bindings ++ l.slots).foldl (fun s n => s.journalAt l.at_ c (objTarget 0x10 n) none none) s
      s.finish q sq (if l.dropped then St.flagged else St.done)

/-! ## Registers (R384, R385) -/

def admitMask : W64 := 0x0000FFFFFFFF0000
def idleMask : W64 := 0x0000FFFFFFFFFFFF

def State.kilnPeek (o : Nat) (s : State) : Option W64 :=
  match o with
  | 0x00 => some (s.kiln.admitCtl &&& admitMask)
  | 0x08 => some (i64 s.kiln.level)
  | 0x10 => some (kilnCfg s.kiln.capMw s.kiln.depth)
  | 0x18 => some (s.kiln.idle &&& idleMask)
  | 0x20 => some (at64 (s.reservedRate % 2 ^ 24) 0)
  | _ => none

/-- block_us is 1 to 65,535. -/
def State.kilnPoke (o : Nat) (v m : W64) (s : State) : Option State :=
  match o with
  | 0x00 =>
    let w := mask64 s.kiln.admitCtl v m &&& admitMask
    if fld w 16 16 = 0 then none else some (s.setKiln { s.kiln with admitCtl := w })
  | 0x18 => some (s.setKiln { s.kiln with idle := mask64 s.kiln.idle v m &&& idleMask })
  | _ => (s.kilnPeek o).map (fun _ => s)

/-! ## The events -/

/-- An event that can enable a dispatch: one job is dispatched where one can be (R359). -/
def execJobDispatch (s : State) : Res := .next s.jobDispatch

/-- A refill tick of the cone bucket (R369). -/
def execRefillTick (s : State) : Res := .next s.refillTick

/-- The first instruction of an invocation may issue (R368). -/
def execInvocationStart (b : Nat) (s : State) : Res := .next (s.invocationStart b)

/-- A period boundary (10 R328). -/
def execStandingBoundary (b : Nat) (s : State) : Res := .next (s.standingBoundary b)

/-- The release count of an UNBIND (R368). -/
def execStandingRelease (b : Nat) (s : State) : Res := .next (s.standingRelease b)

/-- The publish count of an invocation (01 R19, R20). -/
def execMailboxPublish (b : Nat) (s : State) : Res := .next (s.publish b)

/-- The budget watchdog reaches wcet_cycles (05 R184). -/
def execBudgetWatchdogExpiry (t : Nat) (s : State) : Res := within t 68 (s.watchdogBudget t)

/-- The deadline count of a job (06 R210); `cut` is the index of the last offer of a built-in job that counts. -/
def execDeadlineFreeze (t cut : Nat) (s : State) : Res := within t 68 (s.deadlineFreeze t cut)

/-- The tile runs its other context (R363). -/
def execContextSwitch (t : Nat) (s : State) : Res := within t 68 (s.contextSwitch t)

/-- An eviction (R364). -/
def execContextEvict (t : Nat) (s : State) : Res := within t 68 (s.contextEvict t)

/-- A swap-in (R365). -/
def execContextSwapIn (t : Nat) (s : State) : Res := within t 68 (s.contextSwapIn t)

/-- The count of a LAUNCH (12 R413). -/
def execLaunchCount (q sq : Nat) (s : State) : Res := .next (s.launchCount q sq)

end Sys2Proof.Machine
end

