-- ==== Sys2Proof/Machine/Chars.lean ====
section
/-!
DEFINITION. The line code of the cell links: the 8b/10b characters and the running disparity of IEEE 802.3 Clause 36, SOF, EOF and
IDLE (09 R292, R293; log entry 193).
-/

set_option Elab.async false

namespace Sys2Proof.Machine

open Sys2Proof

/-- A character before coding: a data byte Dx.y, or a control character Kx.y, of value 32 y + x. -/
structure Sym where
  k : Bool
  b : Byte
  deriving DecidableEq, Repr, Inhabited

namespace Sym

def x (c : Sym) : Nat := c.b.toNat % 32
def y (c : Sym) : Nat := c.b.toNat / 32

/-- The characters of R293. -/
def sof : Sym := { k := true, b := 0xFB }
def eof : Sym := { k := true, b := 0xFD }
/-- An IDLE ordered set, K28.5 D16.2. -/
def idle : List Sym := [{ k := true, b := 0xBC }, { k := false, b := 0x50 }]

end Sym

/-- abcdei of D0 to D31 at negative running disparity, a in the most significant place. -/
def sixTable : List Nat :=
  [0b100111, 0b011101, 0b101101, 0b110001, 0b110101, 0b101001, 0b011001, 0b111000,
   0b111001, 0b100101, 0b010101, 0b110100, 0b001101, 0b101100, 0b011100, 0b010111] ++
  [0b011011, 0b100011, 0b010011, 0b110010, 0b001011, 0b101010, 0b011010, 0b111010,
   0b110011, 0b100110, 0b010110, 0b110110, 0b001110, 0b101110, 0b011110, 0b101011]

/-- fghj of Dx.0 to Dx.7 at negative running disparity. -/
def fourTable : List Nat := [0b1011, 0b1001, 0b0101, 0b1100, 0b1101, 0b1010, 0b0110, 0b1110]

/-- fghj of Kx.0 to Kx.7 at negative running disparity; at positive disparity each is its inverse. -/
def fourTableK : List Nat := [0b1011, 0b0110, 0b1010, 0b1100, 0b1101, 0b0101, 0b1001, 0b0111]

/-- The ones among the low `n` bits. -/
def onesOf (n v : Nat) : Nat := ((List.range n).filter (fun i => decide (v / 2 ^ i % 2 = 1))).length

/-- Running disparity, positive or not, after a sub-block of `n` bits. -/
def rdAfter (n v : Nat) (rd : Bool) : Bool := if 2 * onesOf n v = n then rd else decide (n < 2 * onesOf n v)

/-- A sub-block at a running disparity: the unbalanced ones, and the two balanced ones that the code inverts, have two forms. -/
def subBlock (n v : Nat) (twoForms rd : Bool) : Nat := if rd && twoForms then 2 ^ n - 1 - v else v

/-- The code group of a character at running disparity `rd`, bit a in the most significant place, and the disparity after it. -/
def codeGroup (rd : Bool) (c : Sym) : BitVec 10 × Bool :=
  let six := if c.k && decide (c.x = 28) then 0b001111 else sixTable.getD c.x 0
  let s := subBlock 6 six (decide (2 * onesOf 6 six ≠ 6) || decide (six = 0b111000)) rd
  let rd1 := rdAfter 6 s rd
  let seven := !c.k && decide (c.y = 7) && (if rd1 then decide (c.x = 11 ∨ c.x = 13 ∨ c.x = 14) else decide (c.x = 17 ∨ c.x = 18 ∨ c.x = 20))
  let four := if c.k then fourTableK.getD c.y 0 else if seven then 0b0111 else fourTable.getD c.y 0
  let f := subBlock 4 four (c.k || decide (2 * onesOf 4 four ≠ 4) || decide (four = 0b1100)) rd1
  (BitVec.ofNat 10 (16 * s + f), rdAfter 4 f rd1)

/-- Every character of the code: 256 data and 12 control characters. -/
def symbols : List Sym :=
  (List.range 256).map (fun b => { k := false, b := BitVec.ofNat 8 b }) ++
    ([0x1C, 0x3C, 0x5C, 0x7C, 0x9C, 0xBC, 0xDC, 0xFC, 0xF7, 0xFB, 0xFD, 0xFE] : List Byte).map (fun b => { k := true, b := b })

/-- The character that a code group is at running disparity `rd`: none for an invalid group and for a disparity error. -/
def charOf (rd : Bool) (g : BitVec 10) : Option Sym := symbols.find? (fun c => decide ((codeGroup rd c).1 = g))

/-- The code groups of a run of characters, and the disparity after them. -/
def codeGroups : Bool → List Sym → List (BitVec 10) × Bool
  | rd, [] => ([], rd)
  | rd, c :: cs =>
    let g := codeGroup rd c
    let r := codeGroups g.2 cs
    (g.1 :: r.1, r.2)

/-- The bits of a character on the line, bit a first (R292). -/
def lineBits (g : BitVec 10) : List Bool := (List.range 10).map (fun i => g.getLsbD (9 - i))

/-- A received run at a running disparity: its characters, none for one that is invalid. The disparity follows what was received. -/
def received : Bool → List (BitVec 10) → List (Option Sym)
  | _, [] => []
  | rd, g :: gs => charOf rd g :: received (rdAfter 4 (g.toNat % 16) (rdAfter 6 (g.toNat / 16) rd)) gs

/-- A character that R293 counts as invalid: no character at all, or a K character that the link does not use. -/
def invalidChar : Option Sym → Bool
  | none => true
  | some c => c.k && decide (c.b ≠ 0xBC ∧ c.b ≠ 0xFB ∧ c.b ≠ 0xFD)

/-- SOF, the bytes of a frame, EOF. -/
def frameSyms (bs : List Byte) : List Sym := Sym.sof :: (bs.map (fun b => { k := false, b := b }) ++ [Sym.eof])

/-- A received frame from its SOF to its EOF: the bytes between them, and whether it holds an invalid character or is no frame. -/
def frameIn (rd : Bool) (gs : List (BitVec 10)) : List Byte × Bool :=
  let cs := received rd gs
  let mid := (cs.drop 1).dropLast
  (mid.filterMap (fun c => c.bind (fun d => if d.k then none else some d.b)),
   cs.any invalidChar || decide (cs.head? ≠ some (some Sym.sof)) || decide (cs.length < 2 ∨ cs.getLast? ≠ some (some Sym.eof)) ||
     mid.any (fun c => c.any (·.k)))

end Sys2Proof.Machine
end

