-- ==== Sys2Proof/Machine/Links.lean ====
section
/-!
DEFINITION. Cell links (09 R292 to R312).
-/

set_option Elab.async false

namespace Sys2Proof.Machine

open Sys2Proof

namespace Link

def en (x : Link) : Bool := bit x.cfg 0
def dbl (x : Link) : Bool := bit x.cfg 1
def fromRegs (x : Link) : Bool := bit x.cfg 2
def cells (x : Link) : Nat := fld x.cfg 3 5 + 1
def bcnDiv (x : Link) : Nat := fld x.cfg 8 8
def tripSrc (x : Link) : Nat := fld x.cfg 24 7
def mbBase (x : Link) : Nat := fld x.cfg 32 8
def holdUs (x : Link) : Nat := fld x.cfg 48 16
def period (x : Link) : Nat := fld x.time 40 24
def sendOff (x : Link) : Nat := fld x.time 16 24
def applyDly (x : Link) : Nat := fld x.time 0 16
def upDue (x : Link) : Nat := fld x.time2 40 24
def beaconOff (x : Link) : Nat := fld x.time2 16 24
def cableMax (x : Link) : Nat := fld x.time2 0 16
def pushEn (x : Link) : Bool := bit x.push 11
def ltile (x : Link) : Nat := fld x.push 5 6
def coil (x : Link) : Nat := fld x.push 0 5

/-- CL_LINK_CMDk (R312). -/
def cmdWord (k : Nat) (x : Link) : W64 := Tbl.get 0xFFFFFFFFFFFFFFFF k x.cmd

/-- Time of a downlink and of an uplink in ns (R296, R299, R300). -/
def downTime (x : Link) : Nat := let t := 4 * (14 + 2 * x.cells); if x.dbl then 2 * t + 16 else t
def upTime (x : Link) : Nat := 4 * (10 + 4 * x.cells)

/-- Legal values of the images (R310). -/
def legal (x : Link) : Bool :=
  decide (1 ≤ x.holdUs ∧ 1 ≤ x.bcnDiv ∧ 1000 ≤ x.period ∧ x.sendOff < x.period ∧ x.beaconOff < x.period) &&
    !decide (96 ≤ x.tripSrc ∧ x.tripSrc ≤ 126)

end Link

/-- Two intervals of a period overlap, their offsets taken modulo the period (R300). -/
def overlaps (p a la b lb : Nat) : Bool := decide (((b : Int) - a) % p < la) || decide (((a : Int) - b) % p < lb)

/-- The conditions of R300 but for the start count. -/
def Link.timed (x : Link) : Bool :=
  decide (x.applyDly ≥ x.downTime + x.cableMax + 500) &&
    decide (x.upDue ≥ x.sendOff + x.applyDly + 1000 + x.upTime + x.cableMax) &&
    decide (x.upDue < x.period + x.sendOff) &&
    !overlaps x.period x.beaconOff 92 x.sendOff x.downTime &&
    !overlaps x.period x.beaconOff (2132 + 2 * x.cableMax) (x.sendOff + x.applyDly) (x.upDue - (x.sendOff + x.applyDly))

/-- One standing job writes every mailbox the link reads (R300). -/
def State.oneWriter (x : Link) (s : State) : Bool :=
  x.fromRegs || match (s.mailbox x.mbBase).writer with
    | some b => (List.range ((x.cells + 1) / 2)).all (fun j => decide (x.mbBase + j < 256 ∧ (s.mailbox (x.mbBase + j)).writer = some b))
    | none => false

/-! ## The transmitter (R295, R296, R298, R299, R309) -/

def typeByte (ty : Nat) (copy : Bool) (cm1 : Nat) : Byte := BitVec.ofNat 8 (ty * 64 + b2n copy * 32 + cm1)

def withCrc (bs : List Byte) : List Byte := bs ++ w32Bytes (crc32c bs)

/-- CL_TX is driven: not in STANDBY, and not while the peer holds the pin (R309; 14 R454). -/
def State.linkDrives (s : State) : Bool := !s.onStandby && !(!s.twin.active && s.twin.peerActive)

/-- The transmitter of a link drives CL_TX; the pad logic holds the output of a group under test (14 R483, R485). -/
def State.sends (l : Nat) (s : State) : Bool := s.linkDrives && !s.underTest (99 + l / 8)

/-- The count at which the last frame ended on the line: a character lasts 4 ns (R292). -/
def Link.lineEnd (x : Link) : Option Nat := x.wire.getLast?.map (fun w => w.1 + 4 * w.2.2.length)

/-- Where a frame begins on the line, and the IDLE ordered sets of 8 ns before it: at least two keep it from the frame before, which
may put it off (R293; log entry 206). Before the first frame there were IDLE sets only; two are listed. -/
def Link.place (at_ : Nat) (x : Link) : Nat × Nat :=
  match x.lineEnd with
  | none => (at_, 2)
  | some e => (max at_ (e + 16), (max at_ (e + 16) - e) / 8)

/-- A frame leaves: SOF, its bytes and EOF in the line code, after IDLE ordered sets (R292, R293). A transmitter that does not drive
goes through the same characters (R309). -/
def State.transmit (l at_ : Nat) (bs : List Byte) (s : State) : State :=
  let g := codeGroups (s.link l).txRd (frameSyms bs)
  let s := s.updLink l (fun x => { x with txRd := g.2 })
  if s.sends l then
    s.updLink l (fun x => { x with out := x.out ++ [(at_, bs)], wire := x.wire ++ [((x.place at_).1, (x.place at_).2, g.1)] })
  else s

/-- The code group that CL_TX[l] sends now: that of a frame, else one of an IDLE ordered set (R293); none at electrical idle. -/
def State.clTx (l : Nat) (s : State) : Option (BitVec 10) :=
  let x := s.link l
  if !s.sends l || s.mg.inReset || decide ((s.dom (99 + l / 8)).rung ≠ 0) then none
  else match x.wire.find? (fun w => decide (w.1 ≤ s.now ∧ s.now < w.1 + 4 * w.2.2.length)) with
    | some w => some (w.2.2.getD ((s.now - w.1) / 4) 0)
    | none => (codeGroups x.txRd Sym.idle).1[s.now / 4 % 2]?

/-- Every command is BLOCK (R297, R298, R309; 14 R479). -/
def State.blocked (l : Nat) (s : State) : Bool :=
  let x := s.link l
  (s.tripSrc 80).latch || (s.tripSrc 82).latch || (decide (x.tripSrc < 96) && (s.tripSrc x.tripSrc).latch) ||
    decide (s.wit.mode = .replay) || x.unitHold

/-- The command word of cell `c` at a send count (R298, R312). -/
def State.cellWord (l c at_ : Nat) (s : State) : Nat :=
  let x := s.link l
  if s.blocked l then 0xFFFF
  else if x.fromRegs then fld (x.cmdWord (c / 4)) (16 * (c % 4)) 16
  else fld ((s.mailbox (x.mbBase + c / 2)).visible at_) (16 * (c % 2)) 16

/-- The writer's most recent expected publish before a count was stale (R298). -/
def Mailbox.staleBefore (c : Nat) (m : Mailbox) : Bool :=
  match m.evals.find? (fun e => decide (e.1 < c)) with
  | some e => decide (e.2 = .stale)
  | none => false

/-- The downlink of a period: bytes between SOF and EOF. -/
def downFrame (l n : Nat) (copy stale : Bool) (sq : BitVec 16) (applyAt : Nat) (cmds : List Nat) : List Byte :=
  withCrc ([typeByte 0 copy (n - 1), BitVec.ofNat 8 (b2n stale * 128 + l)] ++ leBytes 2 sq.toNat ++ w32Bytes (short applyAt) ++
    cmds.flatMap (fun c => leBytes 2 c))

/-- The period that ends had no uplink at all: it is counted missing once, when the next one begins (R303). -/
def State.uplinkMissed (l : Nat) (s : State) : State :=
  let x := s.link l
  if x.ulDue && !x.ulSeen then (s.setLink l { x with ulMissing := satAdd x.ulMissing 1, ulDue := false }).event 0x183 l 1
  else s.setLink l { x with ulDue := false }

/-- The send count of a period: in every period of a link in service one downlink leaves (R298, R299). -/
def State.downlink (l : Nat) (s : State) : State :=
  let x := s.link l
  match lastAt (x.start + x.sendOff) x.period s.now with
  | none => s
  | some c =>
    let b := c - x.sendOff
    if !x.en || !x.wasUp || x.sent.any (fun p => decide (b ≤ p.1)) then s
    else
      let stale := !x.fromRegs && (s.mailbox x.mbBase).staleBefore c
      let sq := x.seq + 1
      let ap := c + x.applyDly
      let cmds := (List.range x.cells).map (fun j => s.cellWord l j c)
      let s := s.uplinkMissed l
      let x := s.link l
      let s := s.setLink l { x with seq := sq, sent := some (b, ap), uplink := none, ulSeen := false, fStale := x.fStale || stale }
      let s := s.transmit l c (downFrame l x.cells false stale sq ap cmds)
      let s := if x.dbl then s.transmit l (c + 4 * (14 + 2 * x.cells) + 16) (downFrame l x.cells true stale sq ap cmds) else s
      let s := s.event 0x180 l 1
      if stale then s.event 0x181 l 1 else s

/-! ## Uplinks (R294, R302, R303) -/

/-- A frame without its SOF and EOF is good: CRC, no invalid character, and the length of its type and count. -/
def goodFrame (invalid : Bool) (fr : List Byte) : Bool :=
  let n := fr.length
  let ty := (fr.getD 0 0).toNat
  let cells := ty % 32 + 1
  let want := match ty / 64 with
    | 0 => 12 + 2 * cells
    | 1 => 21
    | 2 => 8 + 4 * cells
    | _ => 8
  !invalid && decide (n = want) && decide (w32At (n - 4) fr = crc32c (fr.take (n - 4)))

/-- An uplink whose EOF arrives now (R303). -/
def State.uplinkIn (l : Nat) (fr : List Byte) (invalid : Bool) (s : State) : State :=
  let x := s.link l
  match x.sent with
  | none => s
  | some (b, _) =>
    if !x.en || s.wit.mode = .replay || (decide (x.st ≠ .sync) && decide (x.st ≠ .up)) then s
    else if !goodFrame invalid fr then
      (s.setLink l { x with ulCrc := satAdd x.ulCrc 1, ulSeen := true, fUlMiss := true }).event 0x184 l 1
    else if (fr.getD 0 0).toNat / 64 ≠ 2 ∨ (fr.getD 0 0).toNat % 32 + 1 ≠ x.cells ∨ leAt 2 2 fr ≠ x.seq.toNat then s
    else if b + x.upDue ≤ s.now then
      (s.setLink l { x with ulLate := satAdd x.ulLate 1, ulSeen := true, fUlMiss := true }).event 0x185 l 1
    else (s.setLink l { x with uplink := some ((fr.drop 4).take (4 * x.cells)), ulSeen := true }).event 0x182 l 1

/-- The element of a period (R303). -/
def Link.element (l ap : Nat) (x : Link) : List Byte :=
  w32Bytes (short ap) ++ leBytes 2 x.seq.toNat ++ [BitVec.ofNat 8 (l + 32 * b2n x.uplink.isSome), 0] ++
    (match x.uplink with
     | some r => r
     | none => slice 0 (4 * x.cells) x.records)

/-- Pushes an element into the link's coil; the source is of the sense-group class (R303). -/
def State.pushElement (l : Nat) (el : List Byte) (s : State) : State :=
  let x := s.link l
  let s := s.setLink l { x with records := el.drop 8 }
  if x.pushEn then (s.witness 0x14 l s.now el).pushLogical x.ltile x.coil .sense (4 + l / 8) el else s

/-- The count boundary + up_due of a period: without an accepted or bad uplink UL_MISS is set, whether it is late or missing, and the
element is pushed (R303). -/
def State.uplinkDue (l : Nat) (s : State) : State :=
  let x := s.link l
  match x.sent with
  | none => s
  | some (b, ap) =>
    if !x.en || s.wit.mode = .replay || decide (s.now < b + x.upDue) || x.pushedAt.any (fun p => decide (b ≤ p)) then s
    else
      let s := s.setLink l { x with pushedAt := some b, ulDue := true, fUlMiss := x.fUlMiss || !x.ulSeen }
      s.pushElement l ((s.link l).element l ap)

/-! ## Beacons (R304, R305) -/

def beaconFrame (l : Nat) (bseq : Byte) (at_ : Nat) (delay : BitVec 16) (hold : Nat) : List Byte :=
  withCrc ([typeByte 1 false 0, BitVec.ofNat 8 l, bseq] ++ stampBytes at_ ++ leBytes 2 delay.toNat ++ leBytes 2 hold)

/-- The beacon of every bcn_div-th period (R304, R307). -/
def State.beacon (l : Nat) (s : State) : State :=
  let x := s.link l
  match lastAt (x.start + x.beaconOff) (x.period * x.bcnDiv) s.now with
  | none => s
  | some c =>
    if !x.en || !(x.wasUp || decide (x.st = .sync)) || x.beaconAt.any (fun p => decide (c ≤ p)) then s
    else
      let s := s.setLink l { x with beaconAt := some c, bseq := x.bseq + 1, echoFor := some x.bseq }
      (s.transmit l c (beaconFrame l x.bseq c x.delayUi x.holdUs)).event 0x186 l 1

/-- A beacon echo, with the round trip in tenths of a nanosecond (R305). The first good one within cable_max takes the
link to UP (R307). -/
def State.echoIn (l : Nat) (fr : List Byte) (invalid : Bool) (rtt : Nat) (s : State) : State :=
  let x := s.link l
  if !x.en || (decide (x.st ≠ .sync) && decide (x.st ≠ .up)) || !goodFrame invalid fr || decide ((fr.getD 0 0).toNat / 64 ≠ 3) ||
      decide (x.echoFor ≠ some (fr.getD 2 0)) then s
  else
    let d := (rtt - 10000 + 4) / 8
    if 2 * d > 5 * x.cableMax then s.setLink l { x with fDelay := true, echoFor := none, delayUi := BitVec.ofNat 16 (min d 0xFFFE) }
    else s.setLink l { x with st := .up, wasUp := true, echoFor := none, delayUi := BitVec.ofNat 16 (min d 0xFFFE) }

/-! ## Bring-up and loss (R307, R308) -/

def State.linkSync (l : Nat) (s : State) : State :=
  s.updLink l (fun x => if x.en && decide (x.st = .align) then { x with st := .sync } else x)

def State.syncLost (l : Nat) (s : State) : State :=
  let x := s.link l
  if x.en && (decide (x.st = .sync) || decide (x.st = .up)) then
    (s.setLink l { x with st := .align, fSyncLost := true, syncLost := satAdd x.syncLost 1 }).event 0x187 l 1
  else s

def linkMask : W64 := 0xFFFF00FF7F00FFFF

/-- A binding: en from its image, ALIGN, and nothing measured (R307). A period of the link that ends with it and had no uplink is
counted (R303). -/
def State.bindLinkTo (l start : Nat) (cfg time time2 push : W64) (s : State) : State :=
  (s.uplinkMissed l).updLink l (fun x => { x with
    cfg := cfg &&& linkMask, time := time, time2 := time2, push := push &&& 0xFFF, start := start, delayUi := 0xFFFF, sent := none,
    uplink := none, ulSeen := false, ulDue := false, records := [], pushedAt := none, beaconAt := none, echoFor := none, wasUp := false, unitHold := false,
    st := if bit cfg 0 then .align else .down })

/-- An UNBIND clears en and returns the link to DOWN at once (R307). -/
def State.unbindLink (l : Nat) (s : State) : State :=
  (s.uplinkMissed l).updLink l (fun x => { x with cfg := x.cfg &&& 0xFFFFFFFFFFFFFFFE, st := LinkSt.down, wasUp := false, sent := none, uplink := none, echoFor := none, unitHold := false })

/-! ## Registers (R310 to R312) -/

def LinkSt.num : LinkSt → Nat
  | .down => 0
  | .align => 1
  | .sync => 2
  | .up => 3

def State.linkPeek (o : Nat) (s : State) : Option W64 :=
  let x := s.link (o / 0x100)
  let r := o % 0x100
  if o ≥ 0x2000 ∨ r % 8 ≠ 0 then none
  else if r = 0x00 then some x.cfg else if r = 0x08 then some x.time else if r = 0x10 then some x.time2 else if r = 0x18 then some x.push
  else if r = 0x20 then some (at64 x.delayUi.toNat 48 ||| at64 x.seq.toNat 0)
  else if r = 0x28 then some (at64 x.ulMissing.toNat 48 ||| at64 x.ulCrc.toNat 32 ||| at64 x.ulLate.toNat 16 ||| at64 x.syncLost.toNat 0)
  else if r = 0x30 then some (at64 (b2n x.fDelay) 7 ||| at64 (b2n x.fStale) 6 ||| at64 (b2n x.fUlMiss) 5 ||| at64 (b2n x.fSyncLost) 4 |||
    at64 (b2n (x.en && s.blocked (o / 0x100))) 3 ||| at64 (b2n x.wasUp) 2 ||| at64 x.st.num 0)
  else if 0x40 ≤ r ∧ r < 0x80 then some (x.cmdWord ((r - 0x40) / 8))
  else none

def State.linkClear (o : Nat) (s : State) : State :=
  if o % 0x100 = 0x28 then s.updLink (o / 0x100) (fun x => { x with ulMissing := 0, ulCrc := 0, ulLate := 0, syncLost := 0 }) else s

def State.linkPoke (o : Nat) (v m : W64) (s : State) : Option State :=
  let x := s.link (o / 0x100)
  let r := o % 0x100
  if o ≥ 0x2000 ∨ r % 8 ≠ 0 ∨ r < 0x20 then none
  else if r = 0x20 ∨ r = 0x28 then some s
  else if r = 0x30 then
    let w := v &&& m
    let y := { x with fDelay := x.fDelay && !bit w 7, fStale := x.fStale && !bit w 6, fUlMiss := x.fUlMiss && !bit w 5 }
    some (s.setLink (o / 0x100) { y with fSyncLost := x.fSyncLost && !bit w 4 })
  else if 0x40 ≤ r ∧ r < 0x80 then
    let k := (r - 0x40) / 8
    some (s.setLink (o / 0x100) { x with cmd := Tbl.set 0xFFFFFFFFFFFFFFFF k (mask64 (x.cmdWord k) v m) x.cmd })
  else none

/-! ## The events -/

/-- The send count of a downlink (R298, R299). -/
def execDownlinkSend (l : Nat) (s : State) : Res := within l 32 (s.downlink l)

/-- A frame arrives on the receive side, its code groups from SOF to EOF at the receiver's running disparity (R293, R303). -/
def execUplinkReceived (l : Nat) (rd : Bool) (groups : List (BitVec 10)) (s : State) : Res :=
  within l 32 (s.uplinkIn l (frameIn rd groups).1 (frameIn rd groups).2)

/-- The push count of a period (R303). -/
def execUplinkPush (l : Nat) (s : State) : Res := within l 32 (s.uplinkDue l)

/-- The send count of a beacon (R304). -/
def execBeaconSend (l : Nat) (s : State) : Res := within l 32 (s.beacon l)

/-- A beacon echo (R305). -/
def execBeaconEchoReceived (l : Nat) (rd : Bool) (groups : List (BitVec 10)) (rtt : Nat) (s : State) : Res :=
  within l 32 (s.echoIn l (frameIn rd groups).1 (frameIn rd groups).2 rtt)

/-- Comma alignment and 16 consecutive valid idle ordered sets (R307). -/
def execLinkSync (l : Nat) (s : State) : Res := within l 32 (s.linkSync l)

/-- 4 invalid characters within 64 (R308). -/
def execSyncLost (l : Nat) (s : State) : Res := within l 32 (s.syncLost l)

end Sys2Proof.Machine
end

