-- ==== Sys2Proof/Machine/Regs.lean ====
section
/-!
DEFINITION. The register map: every block by its address, reads, read-clears and writes (01 R8 to R12; 10 R317, R333, R350;
12 R423, R426; 14 R486 to R489; 15 R515 to R518; 16 R537 to R540; 17 R543 to R550; 18 R556).
-/

set_option Elab.async false

namespace Sys2Proof.Machine

open Sys2Proof

/-! ## Management and security (15 R515 to R518; 12 R423) -/

def DevState.num : DevState → Nat
  | .startUp => 0
  | .service => 1
  | .recovery => 2
  | .test => 3

/-- The enrollment record without its code: the owner key and the configuration serial floor (15 R505). -/
def Flash.enrollment (f : Flash) : List Byte := f.ownerKey ++ leBytes 8 f.serialFloor

/-- Whether an owner key is enrolled: a record whose code verifies under the device's own key (15 R505). -/
def Flash.enrolled (secret : Option (List Byte)) (f : Flash) : Bool := macGood secret "mac" f.enrollment f.ownerMac && !f.ownerKey.isEmpty

/-- MG_ID: part 0x0064, stepping 0xB1, the ordering code. -/
def mgId : W64 := at64 0x64 32 ||| at64 0xB1 16 ||| at64 (b2n Config.extended) 0

/-- MG_BOOT_STAT. No firmware runs in TEST, and the version reads 0 there (15 R516); replay counts as TEST (15 R495). -/
def Mgmt.bootStat (m : Mgmt) : W64 :=
  at64 (if m.dev = .test then 0 else m.fwVersion.toNat) 32 ||| at64 m.cfgSkipped.toNat 24 ||| at64 (b2n m.strapErr) 23 ||| at64 (b2n m.cfgInvalid) 22 |||
    at64 (b2n m.healthReset) 21 ||| at64 (b2n (m.flash.enrolled m.secret)) 20 ||| at64 (b2n m.slotB) 19 ||| at64 m.resetCause.toNat 16 |||
    at64 m.dev.num 11 ||| at64 m.recoveryWhy.toNat 8 ||| at64 m.pwmSafe.toNat 4 ||| at64 (b2n m.twinPref) 3 ||| at64 m.bootSel.toNat 0

def Mgmt.avs (m : Mgmt) : W64 :=
  at64 (b2n m.avsFail) 33 ||| at64 (b2n m.avsIn) 32 ||| at64 m.avsMeas.toNat 16 ||| at64 m.avsSet.toNat 0

def State.mgPeek (a : Nat) (s : State) : Option W64 :=
  match a with
  | 0x000 => some mgId
  | 0x008 => some s.mg.bootStat
  | 0x010 => some 0
  | 0x100 => some s.mg.journal.index
  | 0x108 => some (s.mg.detDefault &&& 1)
  | 0x110 => some s.faultReg
  | _ => none

/-- The failure bits are W1C. The alert of a failed unit is released with unit_fault, that of the watchdog with wd_expired
(log entry 80). -/
def State.faultPoke (w : W64) (s : State) : State :=
  let m := s.mg
  let s := s.setMg { m with devregUnc := m.devregUnc && !bit w 3, unitFault := m.unitFault && !bit w 2, wdExpired := m.wdExpired && !bit w 1 }
  let s := if bit w 2 then (s.unalert .unit).unalert .pseudoChannel else s
  if bit w 1 then s.unalert .watchdog else s

def State.mgPoke (a : Nat) (v m : W64) (c : Cause) (s : State) : Option State :=
  let w := v &&& m
  match a with
  | 0x010 =>
    let s := if bit w 1 then s.setMg { s.mg with healthClear := true } else s
    some (if bit w 0 then s.setMg { s.mg with warmCmd := s.mg.warmCmd ++ [(c.queue, c.seq)] } else s)
  | 0x108 => some (s.setMg { s.mg with detDefault := mask64 s.mg.detDefault v m &&& 1 })
  | 0x110 => some (s.faultPoke w)
  | _ => (s.mgPeek a).map (fun _ => s)

/-- SEC_STAT and SEC_DEVICE_ID. -/
def State.secPeek (o : Nat) (s : State) : Option W64 :=
  let m := s.mg
  if o = 0 then some (at64 m.trngFails.toNat 16 ||| at64 (b2n m.trngOk) 2 ||| at64 (b2n m.identityOk) 1 ||| at64 (b2n m.pufOk) 0)
  else if o % 8 = 0 ∧ o ≤ 0x20 then some (w64At (o - 8) m.deviceId)
  else none

/-! ## Queues (10 R317) -/

def State.qstat (q : Nat) (s : State) : W64 :=
  let v := s.queue q
  at64 (b2n v.enabled) 63 ||| at64 (b2n (v.enabled && v.dataClass)) 62 ||| at64 v.prio 59 ||| at64 v.depthLog2 55 ||| at64 (b2n v.stopped) 54 |||
    at64 v.outstanding 41 ||| at64 v.ring.length 28 ||| at64 v.overflow.length 15

/-! ## USB, twin, witness (10 R350; 12 R426; 14 R486 to R488; 16 R537, R540) -/

def State.usbPeek (o : Nat) (s : State) : Option W64 :=
  match o with
  | 0x000 => some (at64 (b2n s.usb.u3) 3 ||| at64 s.usb.speed.toNat 0)
  | 0x008 => some (s.usb.ctl &&& 7)
  | 0x100 => some (at64 s.usb.coalesce.toNat 0)
  | _ => none

/-- Bytes 8 to 39 of a pending-map piece (10 R349). -/
def State.mapPiece (i : Nat) (s : State) : List Byte :=
  (List.range 32).map (fun k => BitVec.ofNat 8 ((List.range 8).map (fun j => b2n (s.queue (256 * i + 8 * k + j)).pendingBit * 2 ^ j)).sum)

def pieceBytes (i : Nat) (m : List Byte) : List Byte := leBytes 8 i ++ m

/-- One piece goes to EP3; what was sent last is kept. In U3 it waits in the device (16 R521), as the pieces of EP3 do. -/
def State.sendPiece (i : Nat) (s : State) : State :=
  let m := s.mapPiece i
  (s.setUsb { s.usb with ep3 := s.usb.ep3 ++ [pieceBytes i m], mapSent := Tbl.set (zeros 32) i m s.usb.mapSent, lastPiece := some s.up }).event 0x281 0 1

def State.sendAllPieces (s : State) : State := (List.range 16).foldl (fun s i => s.sendPiece i) s

def State.usbPoke (o : Nat) (v m : W64) (s : State) : Option State :=
  match o with
  | 0x000 => some s
  | 0x008 => some (s.setUsb { s.usb with ctl := mask64 s.usb.ctl v m &&& 7 })
  | 0x100 =>
    let s := s.setUsb { s.usb with coalesce := (mask64 (s.usb.coalesce.setWidth 64) v m).setWidth 16 }
    some (if bit (v &&& m) 16 then s.sendAllPieces else s)
  | _ => none

def twCtlMask : W64 := 0xFFFFFF06

def State.twinPeek (o : Nat) (s : State) : Option W64 :=
  let t := s.twin
  match o with
  | 0x00 => some (t.ctl &&& twCtlMask)
  | 0x08 => some t.stat
  | 0x10 => some (at64 t.promotions.toNat 48 ||| at64 t.divStanding.toNat 32 ||| at64 t.divLoop.toNat 16 ||| at64 t.catchups.toNat 0)
  | 0x18 => some t.applied
  | 0x40 => some (at64 t.retries.toNat 48 ||| at64 t.crcErr.toNat 32 ||| at64 t.lockLoss.toNat 16 ||| at64 t.lanesLocked.toNat 4 ||| at64 t.linkState.toNat 0)
  | 0x48 => some t.dly
  | _ => none

def State.twinClear (o : Nat) (s : State) : State :=
  if o = 0x10 then s.setTwin { s.twin with promotions := 0, divStanding := 0, divLoop := 0, catchups := 0 }
  else if o = 0x40 then s.setTwin { s.twin with retries := 0, crcErr := 0, lockLoss := 0 }
  else s

/-- wd_us is 50 to 65,535. Clearing role_conflict also releases ALERT_N for the twin (14 R470). -/
def State.twinPoke (o : Nat) (v m : W64) (s : State) : Option State :=
  match o with
  | 0x00 =>
    let w := mask64 s.twin.ctl v m &&& twCtlMask
    if fld w 16 16 < 50 then none else some (s.setTwin { s.twin with ctl := w })
  | 0x08 => some (if bit (v &&& m) 16 then ((s.setTwin { s.twin with roleConflict := false }).unalert .roleConflict).unalert .promoteBlocked else s)
  | 0x48 => some (s.setTwin { s.twin with dly := mask64 s.twin.dly v m })
  | _ => (s.twinPeek o).map (fun _ => s)

def WitMode.num : WitMode → Nat
  | .off => 0
  | .record => 1
  | .replay => 2

def State.witPeek (o : Nat) (s : State) : Option W64 :=
  let w := s.wit
  match o with
  | 0x0 => some (at64 w.mode.num 62 ||| at64 w.outputs.toNat 59 ||| at64 (witFill w / 1024) 0)
  | 0x8 => some (at64 w.mismStrict.toNat 48 ||| at64 w.mismTput.toNat 32 ||| at64 w.gaps.toNat 16 ||| at64 w.skipped.toNat 0)
  | _ => none

def State.witClear (o : Nat) (s : State) : State :=
  if o = 8 then s.setWit { s.wit with mismStrict := 0, mismTput := 0, gaps := 0, skipped := 0 } else s

/-! ## Ethernet and timebase (12 R424, R425; 16 R538, R539) -/

/-- The ranges of ETH_CTL: ptp_domain to 127, log_sync -7 to 1, log_announce -3 to 4. -/
def ethCtlGood (v : W64) : Bool :=
  decide (fld v 40 8 ≤ 127) && decide (-7 ≤ sfld v 20 4 ∧ sfld v 20 4 ≤ 1) && decide (-3 ≤ sfld v 16 4 ∧ sfld v 16 4 ≤ 4)

def State.ethPoke (p o : Nat) (v m : W64) (s : State) : Option State :=
  let e := s.port p
  match o with
  | 0x00 =>
    let w := mask64 e.ctl v m &&& (if p = 0 then ethWritable else 0x0FFFFFFFFFFF0377)
    if ethCtlGood w then some (s.ethCtl p w).fireHeld else none
  | 0x08 => some (s.setPort p { e with dly := mask64 e.dly v m })
  | 0x10 => some (s.setPort p { e with mac := mask64 e.mac v m &&& 0xFFFFFFFFFFFF })
  | 0x18 => some (s.setPort p { e with ip := mask64 e.ip v m &&& 0xFFFFFFFF })
  | _ => (e.peek o).map (fun _ => s)

/-- qual_n and lost_n are 1 to 15. -/
def State.tbPoke (o : Nat) (v m : W64) (s : State) : Option State :=
  match o with
  | 0x20 =>
    let w := mask64 s.tb.written v m &&& 0xFFF00000FFFFFFFF
    if fld w 56 4 = 0 ∨ fld w 52 4 = 0 then none else s.servoWrite w
  | _ => (s.tbPeek o).map (fun _ => s)

/-! ## Global event counters (17 R545, R549 to R551) -/

/-- How many instances the event's source has, or none where the code is reserved. Code 0 counts tiles as every tile event. -/
def eventInstances (c : Nat) : Option Nat :=
  if c < 0x100 then (if tileEventCode c then some 68 else none)
  else if c ≤ 0x107 then some 16
  else if 0x140 ≤ c ∧ c ≤ 0x145 then some 64
  else if 0x148 ≤ c ∧ c ≤ 0x14B then some 48
  else if 0x180 ≤ c ∧ c ≤ 0x187 then some 32
  else if 0x1C0 ≤ c ∧ c ≤ 0x1CA then some 128
  else if 0x200 ≤ c ∧ c ≤ 0x204 then some 32
  else if 0x208 ≤ c ∧ c ≤ 0x20D then some 16
  else if 0x240 ≤ c ∧ c ≤ 0x243 then some 8
  else if 0x280 ≤ c ∧ c ≤ 0x285 then some 4
  else if 0x2C0 ≤ c ∧ c ≤ 0x2C7 then some 128
  else none

/-- A selection names an event of the table, and an instance of its block or 0x7F. -/
def selGood (v : W64) : Bool :=
  match eventInstances (fld v 0 10) with
  | some n => decide (fld v 11 7 = 0x7F) || decide (fld v 11 7 < n)
  | none => false

def State.counter (n : Nat) (s : State) : Counter := Tbl.get gCounter n s.evc
def State.setCounter (n : Nat) (c : Counter) (s : State) : State := { s with evc := Tbl.set gCounter n c s.evc }

def State.evcPeek (o : Nat) (s : State) : Option W64 :=
  if o = 0x200 then some (s.evcCtl &&& 2)
  else if o % 8 ≠ 0 ∨ o ≥ 0x200 then none
  else
    let c := s.counter (o / 16)
    some (if o % 16 = 0 then c.sel &&& 0x3FFFF else at64 (b2n c.ovf) 48 ||| at64 c.count.toNat 0)

/-- clear_all clears every global count and ovf. -/
def State.clearCounters (s : State) : State :=
  (s.evc.map (·.1)).foldl (fun s n => s.setCounter n { s.counter n with ovf := false, count := 0 }) s

def State.evcPoke (o : Nat) (v m : W64) (s : State) : Option State :=
  if o = 0x200 then
    let s := { s with evcCtl := mask64 s.evcCtl v m &&& 2 }
    some (if bit (v &&& m) 0 then s.clearCounters else s)
  else if o % 8 ≠ 0 ∨ o ≥ 0x200 then none
  else
    let c := s.counter (o / 16)
    if o % 16 = 0 then
      let w := mask64 c.sel v m &&& 0x3FFFF
      if selGood w then some (s.setCounter (o / 16) (Counter.select 0x3FBFF w c)) else none
    else some (s.setCounter (o / 16) (Counter.put v m c))

/-! ## The map -/

/-- The value of the register at an address. -/
def State.peek (a : Nat) (s : State) : Option W64 :=
  if a < 0x10000 then s.mgPeek a
  else if a < 0x20000 then s.secPeek (a - 0x10000)
  else if a < 0x30000 then s.tbPeek (a - 0x20000)
  else if a < 0x38000 then s.kilnPeek (a - 0x30000)
  else if a < 0x40000 then (if a % 8 = 0 then some (s.qstat ((a - 0x38000) / 8)) else none)
  else if a < 0x50000 then s.usbPeek (a - 0x40000)
  else if a < 0x60000 then (s.port 0).peek (a - 0x50000)
  else if a < 0x70000 then (s.port 1).peek (a - 0x60000)
  else if a < 0x80000 then s.twinPeek (a - 0x70000)
  else if a < 0x100000 then none
  else if a < 0x110000 then s.snsPeek (a - 0x100000)
  else if a < 0x120000 then s.pwmPeek (a - 0x110000)
  else if a < 0x130000 then s.linkPeek (a - 0x120000)
  else if a < 0x200000 then none
  else if a < 0x300000 then s.lePeek (a - 0x200000)
  else if a < 0x320000 then s.hbmPeek (a - 0x300000)
  else if a < 0x400000 then none
  else if a < 0x410000 then s.evcPeek (a - 0x400000)
  else if a < 0x500000 then none
  else if a = 0x501008 then some s.mg.avs
  else if a < 0x510000 then s.pwrPeek (a - 0x500000)
  else if a < 0x600000 then none
  else if a < 0x610000 then s.witPeek (a - 0x600000)
  else if a < 0x1000000 then none
  else if a < 0x1000000 + 68 * 0x10000 then s.tilePeek ((a - 0x1000000) / 0x10000) (a % 0x10000)
  else none

/-- The RC fields of the register at an address are cleared by its read (01 R8). -/
def State.clearRc (a : Nat) (s : State) : State :=
  if a < 0x10000 then s
  else if a = 0x10000 then s.setMg { s.mg with trngFails := 0 }
  else if a < 0x20000 then s
  else if a < 0x30000 then s.tbClear (a - 0x20000)
  else if a < 0x50000 then s
  else if a < 0x60000 then s.updPort 0 (fun e => e.clear (a - 0x50000))
  else if a < 0x70000 then s.updPort 1 (fun e => e.clear (a - 0x60000))
  else if a < 0x80000 then s.twinClear (a - 0x70000)
  else if a < 0x100000 then s
  else if a < 0x110000 then s.snsClear (a - 0x100000)
  else if a < 0x120000 then s.pwmClear (a - 0x110000)
  else if a < 0x130000 then s.linkClear (a - 0x120000)
  else if a < 0x200000 then s
  else if a < 0x300000 then s.leClear (a - 0x200000)
  else if a < 0x320000 then s.hbmClear (a - 0x300000)
  else if a < 0x500000 then s
  else if a < 0x510000 then s.pwrClear (a - 0x500000)
  else if a < 0x600000 then s
  else if a < 0x610000 then s.witClear (a - 0x600000)
  else if a < 0x1000000 then s
  else if a < 0x1000000 + 68 * 0x10000 then s.updTile ((a - 0x1000000) / 0x10000) (Tile.clear (a % 0x10000))
  else s

/-- A write of the bits `m` of the register at an address, by a command with an acceptance stamp. Answers none where the
write fails. -/
def State.poke (a : Nat) (v m : W64) (stamp : Nat) (c : Cause) (s : State) : Option State :=
  if a < 0x10000 then s.mgPoke a v m c
  else if a < 0x30000 then (if a < 0x20000 then (s.peek a).map (fun _ => s) else s.tbPoke (a - 0x20000) v m)
  else if a < 0x38000 then s.kilnPoke (a - 0x30000) v m
  else if a < 0x40000 then (s.peek a).map (fun _ => s)
  else if a < 0x50000 then s.usbPoke (a - 0x40000) v m
  else if a < 0x60000 then s.ethPoke 0 (a - 0x50000) v m
  else if a < 0x70000 then s.ethPoke 1 (a - 0x60000) v m
  else if a < 0x80000 then s.twinPoke (a - 0x70000) v m
  else if a < 0x100000 then none
  else if a < 0x110000 then s.snsPoke (a - 0x100000) v m
  else if a < 0x120000 then s.pwmPoke (a - 0x110000) v m (s.pairWriter ((a - 0x110000) / 0x40)).isSome
  else if a < 0x130000 then s.linkPoke (a - 0x120000) v m
  else if a < 0x200000 then none
  else if a < 0x300000 then s.lePoke (a - 0x200000) v m stamp c
  else if a < 0x320000 then (if (s.hbmPeek (a - 0x300000)).isSome then s.hbmPoke (a - 0x300000) v m else none)
  else if a < 0x400000 then none
  else if a < 0x410000 then s.evcPoke (a - 0x400000) v m
  else if a < 0x500000 then none
  else if a = 0x501008 then some s
  else if a < 0x510000 then s.pwrPoke (a - 0x500000) v m
  else if a < 0x600000 then none
  else if a < 0x1000000 then (s.peek a).map (fun _ => s)
  else
    let p := (a - 0x1000000) / 0x10000
    match s.peek a, (s.tile p).poke (a % 0x10000) v m with
    | some _, some t => some (s.setTile p t)
    | _, _ => none

/-- A register of a bound slot whose change takes effect, and is journaled, later (07 R225). -/
def slotDeferred (a : Nat) : Bool := decide (0x200000 ≤ a ∧ a < 0x300000) && deferredReg (a % 0x1000)

/-- The bits of a write that change something though they read as zero: warm and health_clear, the clear of the conflict
counters, clear_all (log entry 81). -/
def actingBits (a : Nat) (w : W64) : Bool :=
  (decide (a = 0x10) && decide (fld w 0 2 ≠ 0)) || (decide (a = 0x400200) && bit w 0) ||
    (decide (0x1000000 ≤ a) && decide (a % 0x10000 = 0x10) && bit w 0)

/-- A successful write with its journal entry, when it changes the register (10 R345). A write to a slot register that waits
for its effect count is journaled there. -/
def State.pokeLogged (a : Nat) (v m : W64) (stamp : Nat) (c : Cause) (s : State) : Option State :=
  match s.peek a, s.poke a v m stamp c with
  | some old, some t =>
    let new := (t.peek a).getD 0
    let waits := slotDeferred a && (s.slot (s.slotOwner (8 * ((a - 0x200000) / 0x10000) + a % 0x10000 / 0x1000))).bound
    if waits || (decide (old = new) && !actingBits a (v &&& m)) then some t
    else some (t.journalNow c (at64 a 0) (some (w64Bytes old)) (some (w64Bytes new)))
  | _, _ => none

end Sys2Proof.Machine
end

