-- ==== Sys2Proof/Machine/Work.lean ====
section
/-!
DEFINITION. Data-plane commands: the jobs on demand, DATA_PUT, DATA_GET and HEARTH_PIN (10 R314, R319 to R321, R340 to R344;
11 R352 to R357; 05 R181; 13 R439; 14 R465, R469).
-/

set_option Elab.async false

namespace Sys2Proof.Machine

open Sys2Proof

/-! ## Fields of a command (10 R318 to R320, R340) -/

namespace Packet

def q (p : Packet) : Nat := p.hdr.queue.toNat
def op (p : Packet) : Nat := p.opcode.toNat

/-- The deadline of a header, none when both fields are zero. -/
def due (p : Packet) : Option Nat :=
  if p.hdr.dlSec = 0 ∧ p.hdr.dlNs = 0 then none else some (p.hdr.dlSec.toNat * 1000000000 + p.hdr.dlNs.toNat)

def desc (p : Packet) : Bool := bit p.hdr.flags 1
def p8 (p : Packet) : Bool := bit p.hdr.flags 2

/-- Parameter words 4 to 7 are zero or not supplied. -/
def noExtra (p : Packet) : Bool := !p.p8 || (p.payload.take 32).all (fun b => decide (b = 0))

/-- The data descriptor: address and length. It comes after the words of p8 (log entry 83). -/
def descAddr (p : Packet) : Nat := leAt 0 8 p.rest
def descLen (p : Packet) : Nat := leAt 8 4 p.rest

/-- A command whose payload is empty, and whose words from `n` upward are zero. -/
def bare (n : Nat) (p : Packet) : Bool :=
  p.rest.isEmpty && !p.desc && p.noExtra && ((List.range 4).all (fun i => decide (i < n) || decide ([p.hdr.w0, p.hdr.w1, p.hdr.w2, p.hdr.w3].getD i 0 = 0)))

end Packet

/-- A range that a word with an address and a length names: empty, or in HBM below the device region (R316, R340). -/
def State.rangeGood (w : W64) (s : State) : Bool :=
  decide (fld w 40 24 % 4 = 0) && (decide (w = 0) || s.inHost (fld w 0 40) (fld w 40 24))

/-- The determinism mode of a job (12 R392). -/
def State.tputOf (p : Packet) (s : State) : Bool :=
  match fld p.hdr.flags 3 2 with
  | 0 => bit s.mg.detDefault 0
  | 1 => false
  | _ => true

def Packet.isSolve (p : Packet) : Bool := decide (0x2001 ≤ p.op ∧ p.op ≤ 0x2003)
def Packet.isImage (p : Packet) : Bool := decide (0x2004 ≤ p.op ∧ p.op ≤ 0x2006)
def Packet.isJob (p : Packet) : Bool := decide (0x2001 ≤ p.op ∧ p.op ≤ 0x2006)
def Packet.isData (p : Packet) : Bool := decide (0x2000 ≤ p.op ∧ p.op < 0x4000)

/-! ## The data descriptor (10 R319, R321) -/

/-- Opcodes that carry inline data: a nonce, register images, a record, a list, or the data of a put. The settings of a solver
and the object of FW_LOAD have rules of their own. -/
def Packet.takesData (p : Packet) : Bool := [0x0030, 0x1001, 0x1004, 0x1005, 0x1006, 0x1007, 0x1008, 0x3001].contains p.op

/-- A descriptor stands for the inline data of such a command. -/
def Packet.byDesc (p : Packet) : Bool := p.desc && p.takesData

/-- The command as though the bytes that its descriptor names stood inline. -/
def Packet.inlined (bs : List Byte) (p : Packet) : Packet :=
  if !p.byDesc then p
  else
    let put := decide (p.op = 0x3001)
    { p with hdr := { p.hdr with flags := setFld p.hdr.flags 1 1 0 }, put := if put then bs else p.put,
             payload := (if p.p8 then p.payload.take 32 else []) ++ (if put then [] else bs) }

def State.inlined (p : Packet) (s : State) : Packet := p.inlined (s.hbmBytes p.descAddr p.descLen)

/-- Row 3 of a descriptor: 16 bytes, the reserved ones zero, and a range that may be captured. -/
def State.descriptorGood (p : Packet) (s : State) : Bool :=
  !p.byDesc || (decide (p.rest.length = 16 ∧ leAt 12 4 p.rest = 0 ∧ p.descLen ≤ 16777216) && s.inHost p.descAddr p.descLen)

/-! ## Jobs on demand -/

/-- The built-in image of a solver job: firmware holds it (06 R186). -/
def builtinImage (op : Nat) (w : W64) : Image :=
  { flags := 0x13, wcet := Config.builtinCycles op w, cones := Config.builtinCones op w, batchMax := 16, structSig := Config.builtinDigest op 16,
    programDigest := (List.range 8).flatMap (fun i => w64Bytes (Config.builtinDigest op i)),
    weightDigest := (List.range 8).flatMap (fun i => w64Bytes (Config.builtinDigest op (8 + i))) }

def State.imageOf (p : Packet) (s : State) : Image := if p.isSolve then builtinImage p.op p.hdr.w0 else s.imageAt (fld p.hdr.w0 0 40)

/-- The settings bytes that a solver command names, in its payload or by a descriptor (06 R188; R343). -/
def State.settingsBytes (p : Packet) (s : State) : List Byte := if p.desc then s.hbmBytes p.descAddr p.descLen else p.rest

/-- Row 3 for SOLVE_QP, SOLVE_LS and ESTIMATE (06 R187, R188; R343, R344). The length of the problem data follows from the
dimensions; a length in w1 may not be less. -/
def State.solveGood (p : Packet) (s : State) : Bool :=
  let d := dimsOf p.hdr.w0
  let st := s.settingsBytes p
  let n := inputBytes p.op d (settingsOf st).blobEn
  let given := fld p.hdr.w1 40 24
  p.noExtra && (!p.desc || (decide (p.rest.length = 16 ∧ leAt 12 4 p.rest = 0 ∧ p.descLen = 64) && s.inHost p.descAddr 64)) &&
    dimsGood p.op p.hdr.w0 && settingsGood p.op st && decide (given = 0 ∨ (n ≤ given ∧ given % 4 = 0)) && s.inHost (fld p.hdr.w1 0 40) n &&
    decide (n + (if p.desc then 64 else 0) ≤ 16777216) && decide (outputBytes p.op d ≤ fld p.hdr.w2 40 24) && s.rangeGood p.hdr.w2

/-- Row 3 for INFER, TEMPER and RUN_PROGRAM (05 R181; R340, R341). Words 4 to 7 belong to RUN_PROGRAM. -/
def State.imageJobGood (p : Packet) (s : State) : Bool :=
  let a := fld p.hdr.w0 0 40
  p.rest.isEmpty && !p.desc && (decide (p.op = 0x2006) || p.noExtra) && decide (fld p.hdr.w0 40 24 = 0) && s.imageGood a &&
    (s.imageAt a).allows false (s.tputOf p) && s.rangeGood p.hdr.w1 && s.rangeGood p.hdr.w2

/-- The HBM ranges that a command names as inputs (R321). -/
def State.inputRanges (p : Packet) (s : State) : List (Nat × Nat) :=
  if p.isSolve then
    (if p.desc then [(p.descAddr, 64)] else []) ++
      [(fld p.hdr.w1 0 40, inputBytes p.op (dimsOf p.hdr.w0) (settingsOf (s.settingsBytes p)).blobEn)]
  else if p.isImage then [(fld p.hdr.w1 0 40, fld p.hdr.w1 40 24)]
  else if p.op = 0x0031 ∨ p.byDesc then [(p.descAddr, p.descLen)]
  else []

/-- The captured bytes of a command: those ranges, or the data of a put. -/
def State.captureOf (p : Packet) (s : State) : List Byte :=
  if p.op = 0x3001 ∧ !p.byDesc then p.put else (s.inputRanges p).flatMap (fun r => s.hbmBytes r.1 r.2)

/-- The image that a command names. -/
def Packet.imageNamed (p : Packet) : Option Nat :=
  if p.isImage then some (fld p.hdr.w0 0 40) else if p.op = 0x1004 then some (leAt 0 8 p.rest) else none

/-- What an acceptance reads from HBM: the inputs, and the header and section table of the image that the command names. -/
def State.acceptReads (p : Packet) (s : State) : List (Nat × Nat) :=
  (match (s.inlined p).imageNamed with
   | some a => [(a, 256 + 32 * (s.imageAt a).sections.length)]
   | none => []) ++ s.inputRanges p

/-- A command whose inputs cannot be read ends (13 R431; 14 R475, R480). -/
def State.inputLost (o : Outst) (loc : W64) (s : State) : State :=
  s.complete o.pkt.q o.seq { status := St.dataError, location := loc, ext := if o.pkt.isJob && bit o.pkt.hdr.flags 0 then zeros 64 else [] } { tput := o.tput }

/-- Factor-unit cycles of SOLVE_LS (06 R191, R217): method 0 streams blocks of 256 rows, the ridge rows last. -/
def lsCycles (d : Dims) (st : Settings) : Nat :=
  let rows := d.m + (if (f32Num st.ridge).isZero then 0 else d.n)
  let first := min rows 256
  let rest := rows - first
  match st.method with
  | 0 => (if d.n ≤ first then fqrCycles d.n first d.b else fgivensCycles d.n first d.b) + rest / 256 * fgivensCycles d.n 256 d.b +
      (if rest % 256 = 0 then 0 else fgivensCycles d.n (rest % 256) d.b) + ftrsvCycles 1 d.n d.b
  | 1 => fldlCycles d.n + ftrsvCycles 5 d.n d.b
  | _ => fldlCycles d.n + ftrsvCycles 4 d.n d.b

/-- Factor-unit cycles of ESTIMATE (06 R191, R218, R220); of method 1 those of one regressor. -/
def estimateCycles (d : Dims) (st : Settings) : Nat :=
  d.b * (if st.method = 0 then fldlCycles d.m + ftrsvCycles 2 d.m 1 + ftrsvAll 2 d.m d.n + ftrsvAll 3 d.m d.n else fupdateCycles d.n)

/-- The budget that admission takes (11 R354), for a job with these settings: the factor unit's cycles by the formulas of 06 R191, and
the other engines', which are not printed. -/
def Packet.budget (p : Packet) (st : List Byte) (im : Image) : Nat :=
  let d := dimsOf p.hdr.w0
  let t := settingsOf st
  if p.op = 0x2001 then (if p.due.isSome then fldlCycles d.n + t.check * ftrsvCycles 4 d.n d.b + Config.firstOffer d.n d.m t.check else im.wcet)
  else if p.op = 0x2002 then lsCycles d t + Config.builtinRest 0x2002 p.hdr.w0
  else if p.op = 0x2003 then estimateCycles d t + Config.builtinRest 0x2003 p.hdr.w0
  else im.wcet

def Packet.conesOf (p : Packet) (im : Image) : Nat := if p.hdr.cones = 0 then im.cones else p.hdr.cones.toNat

/-- Admission of a job at the count `a` of its arrival (11 R352 to R355). -/
def State.jobAdmission (p : Packet) (a : Nat) (s : State) : Option (Option (Nat × Nat × Nat)) :=
  let im := s.imageOf p
  s.admission im (p.budget (s.settingsBytes p) im) (p.conesOf im) p.due a

/-- Row 7 for a job. -/
def State.jobFeasible (p : Packet) (a : Nat) (s : State) : Bool := (s.jobAdmission p a).isSome

/-- The tile and the times that admission reserves: those of a job with a deadline (11 R353). -/
def State.pinOf (p : Packet) (a : Nat) (s : State) : Option (Nat × Nat × Nat) := if p.isJob then (s.jobAdmission p a).join else none

/-- The entry of a command: its captured inputs, what admission reserved, and the determinism mode at its acceptance stamp
(10 R321; 12 R392). -/
def State.outstFor (p : Packet) (captured : List Byte) (stamp : Nat) (pin : Option (Nat × Nat × Nat)) (s : State) : Outst :=
  { seq := (s.queue p.q).nextSeq, accept := stamp, pkt := p.inlined captured, captured := captured, pin := pin, tput := s.tputOf p }

/-- The job that an accepted command stands for. -/
def State.jobOf (o : Outst) (s : State) : Job :=
  let p := o.pkt
  let im := s.imageOf p
  { queue := p.q, seq := o.seq, tag := p.hdr.tag, opcode := p.opcode, pkt := p, captured := o.captured, image := im, tput := o.tput,
    accept := o.accept, deadline := p.due, cones := p.conesOf im, budget := p.budget (if p.desc then o.captured.take 64 else p.rest) im, prio := (s.queue p.q).prio, prov := bit p.hdr.flags 0,
    rerun := o.rerun, replayed := o.replayed }

/-- A job enters the ready list, with what admission reserved for it; a job that runs again is admitted anew (R353). -/
def State.queueJob (o : Outst) (a : Nat) (s : State) : State :=
  let j := s.jobOf o
  let pin := if o.rerun then (s.admission j.image j.budget j.cones j.deadline a).join else o.pin
  let j := match pin with
    | some b => { j with pin := some b.1, startAt := b.2.1, finishAt := b.2.2 }
    | none => j
  s.setKiln { s.kiln with ready := s.kiln.ready ++ [j] }

/-! ## DATA_PUT, DATA_GET and HEARTH_PIN (R341; 13 R439) -/

def State.moveGood (p : Packet) (s : State) : Bool :=
  let n := p.hdr.w1.toNat
  decide (fld p.hdr.w0 40 24 = 0) && s.inHost (fld p.hdr.w0 0 40) n &&
    (match p.op with
     | 0x3001 => p.bare 2 && decide (n % 64 = 0 ∧ n ≤ 16777216 ∧ p.put.length = n)
     | 0x3002 => p.bare 3 && decide (3 ≤ p.hdr.w2.toNat ∧ p.hdr.w2.toNat ≤ 16)
     | _ => p.bare 3 && decide (p.hdr.w2.toNat ≤ 1))

/-- A pin is refused that would put more than 8 pinned ways in a set. -/
def State.pinFeasible (p : Packet) (s : State) : Bool :=
  decide (p.hdr.w2 = 0) || pinFits s.pinnedSoon (s.lines (fld p.hdr.w0 0 40) p.hdr.w1.toNat)

def rangeEffect (a : Nat) (bs : List Byte) : List Byte := leBytes 8 a ++ leBytes 8 bs.length ++ bs ++ zeros (roundUp 64 bs.length - bs.length)

/-- The bytes of a put go to HBM; they are the effect of its entry (14 R465). -/
def State.runPut (o : Outst) (s : State) : State :=
  let a := fld o.pkt.hdr.w0 0 40
  let r := s.hbmWrite a o.captured
  match r.2 with
  | some x => r.1.complete o.pkt.q o.seq { status := St.dataError, location := locHbm x } { }
  | none => r.1.complete o.pkt.q o.seq { } { kind := 1, payload := rangeEffect a o.captured }

/-- A get starts its stream; it completes at DATA_GET_DONE. -/
def State.runGet (o : Outst) (s : State) : State :=
  let h := o.pkt.hdr
  s.setUsb { s.usb with gets := s.usb.gets ++ [{ queue := o.pkt.q, seq := o.seq, src := fld h.w0 0 40, len := h.w1.toNat, stream := h.w2.toNat }] }

/-- A pin waits for its lines; an unpin writes back and releases at once, with its journal entry. -/
def State.runPin (o : Outst) (s : State) : State :=
  let ls := s.lines (fld o.pkt.hdr.w0 0 40) o.pkt.hdr.w1.toNat
  if o.pkt.hdr.w2 = 1 then s.setHbm { s.hbm with pins := s.hbm.pins ++ [{ queue := o.pkt.q, seq := o.seq, lines := ls }] }
  else
    let gone := s.hbm.pinned.any (fun m => ls.contains m)
    let s := s.cleanLines (ls.filter (fun m => s.hbm.pinned.contains m))
    let s := s.setHbm { s.hbm with pinned := s.hbm.pinned.filter (fun m => !ls.contains m) }
    let s := if gone then s.journalNow (s.causeOf o.pkt.q o.seq) (objTarget 0x30 (ls.headD 0)) none none else s
    s.finish o.pkt.q o.seq St.done

/-! ## By opcode -/

/-- Row 3 of a data-plane command. -/
def State.dataGood (p : Packet) (s : State) : Bool :=
  if p.isSolve then s.solveGood p else if p.isImage then s.imageJobGood p else s.moveGood p

/-- Row 7 of a data-plane command. -/
def State.dataFeasible (p : Packet) (a : Nat) (s : State) : Bool :=
  if p.isJob then s.jobFeasible p a else if p.op = 0x3003 then s.pinFeasible p else true

/-- The entry of a command in its submission ring, and its captured inputs, are read back (14 R480). -/
def State.readEntry (o : Outst) (s : State) : State × Option Nat :=
  let r := s.pairRead 5 o.pkt.q o.seq (64 + o.pkt.payload.length)
  if o.captured.isEmpty || r.2.isSome then r else r.1.pairRead 0 o.pkt.q o.seq o.captured.length

/-- What an accepted command does, where its entry and its captured inputs can be read. -/
def State.withCaptured (o : Outst) (f : State → State) (s : State) : State :=
  let r := s.readEntry o
  match r.2 with
  | some x => r.1.inputLost o (locHbm x)
  | none => f r.1

/-- An accepted data-plane command begins. A STANDBY device holds it and takes the ACTIVE device's entry (14 R465). -/
def State.dataRun (o : Outst) (a : Nat) (s : State) : State :=
  if s.twin.role = .standby then s
  else s.withCaptured o fun s =>
  if o.pkt.isJob then s.queueJob o a
  else if o.pkt.op = 0x3001 then s.runPut o
  else if o.pkt.op = 0x3002 then s.runGet o
  else s.runPin o

/-! ## After a failover or a warm reset (10 R338; 14 R469) -/

/-- Whether an accepted command is at work in the device. -/
def State.atWork (q sq : Nat) (s : State) : Bool :=
  let is := fun (j : Job) => decide (j.queue = q ∧ j.seq = sq)
  s.kiln.ready.any is || s.kiln.swapped.any (fun e => is e.ctx.job) ||
    s.tiles.any (fun e => e.2.ctx0.any (fun c => is c.job) || e.2.ctx1.any (fun c => is c.job)) ||
    s.usb.gets.any (fun g => decide (g.queue = q ∧ g.seq = sq)) || s.hbm.pins.any (fun g => decide (g.queue = q ∧ g.seq = sq))

/-- Accepted data-plane commands that have no commit run from their captured inputs. `rerun` says of a job whether it
counts as a re-run. -/
def State.runAgain (rerun : State → Outst → Bool) (s : State) : State :=
  s.queues.foldl (fun s e =>
    e.2.outst.foldl (fun s o =>
      if !o.pkt.isData || o.inv || s.atWork e.1 o.seq then s
      else
        let o' := { o with rerun := o.pkt.isJob && rerun s o }
        let s := { s with freeIx := s.freeIx + 1 }
        let s := s.updQueue e.1 (fun v => { v with outst := v.outst.map (fun x => if x.seq = o.seq then o' else x) })
        s.dataRun o' s.now) s) s

end Sys2Proof.Machine
end

