-- ==== Sys2Proof/Machine/Witness.lean ====
section
/-!
DEFINITION. The witness recorder: the steady rate, start, snapshots, stop, gaps and the outputs (12 R414 to R418, R426).
-/

set_option Elab.async false

namespace Sys2Proof.Machine

open Sys2Proof

/-! ## The steady rate, in millionths of a byte per second (R417) -/

def rateOf (bytes per : Nat) : Nat := if per = 0 then 0 else (bytes * 1000000000000000 + per - 1) / per

/-- SAMPLE entries: one for each common phase of a group, so one stream for each period and offset of its consumed lanes. -/
def State.sampleRate (g : Nat) (s : State) : Nat :=
  let ks := (((List.range 16).map (· + 16 * g)).filter (fun n => s.laneConsumed n && decide ((s.lane n).kind ≠ 0))).map (fun n => ((s.lane n).per, (s.lane n).off))
  (ks.eraseDups.map (fun k => rateOf (16 + roundUp 8 (2 + 4 * ks.count k)) k.1)).sum

/-- CELL_UPLINK entries: one in each period of a pushing link. -/
def State.uplinkRate (s : State) : Nat :=
  (s.links.map (fun e => if e.2.en && e.2.pushEn then rateOf (16 + roundUp 8 (8 + 4 * e.2.cells)) e.2.period else 0)).sum

def State.steadyRate (s : State) : Nat := ((List.range 4).map (fun g => s.sampleRate g)).sum + s.uplinkRate

/-- What the selected outputs carry. -/
def State.outputRate (o : BitVec 3) (s : State) : Nat :=
  let eth := fun (p : Nat) => if bit (s.port p).ctl 1 then 2900000000000000 else 1150000000000000
  (if bit o 0 then eth 0 else 0) + (if bit o 1 then eth 1 else 0) + (if bit o 2 then 1200000000000000 else 0)

/-- While RECORD is in force a binding may not raise the rate above the outputs. -/
def State.rateKept (before after : State) : Bool :=
  decide (before.wit.mode ≠ .record) || decide (after.steadyRate ≤ before.steadyRate) || decide (after.steadyRate ≤ before.outputRate before.wit.outputs)

/-! ## WITNESS_START (R416) -/

def witStatAddr : W64 := 0x600000

/-- The journal entry of a change of the witness mode. -/
def State.witChange (c : Cause) (f : State → State) (s : State) : State :=
  let t := f s
  let old := ((s.witPeek 0).getD 0) &&& 0xF800000000000000
  let new := ((t.witPeek 0).getD 0) &&& 0xF800000000000000
  if old = new then t else t.journalNow c witStatAddr (some (w64Bytes old)) (some (w64Bytes new))

/-- Only RECORD can be asked for (log entry 85). -/
def witStartGood (p : Packet) : Bool := p.bare 1 && decide (p.hdr.w0.toNat < 16) && bit p.hdr.w0 0

/-- The save of a footprint, at the transfer rate of 11 R354, ends before the next boundary. -/
def Binding.saveFits (v : Binding) : Bool :=
  let bytes := ((v.image.sections.filter (fun x => decide (x.kind ≠ 1))).map (·.size)).sum
  decide (3 * (120 + loadNs bytes) + 2 * v.image.wcet ≤ 3 * v.period)

def State.witStartFeasible (p : Packet) (s : State) : Bool :=
  decide (s.wit.mode = .off) && s.wit.startAt.isNone && s.bindings.all (fun e => e.2.saveFits) &&
    decide (s.steadyRate ≤ s.outputRate (BitVec.ofNat 3 (fld p.hdr.w0 1 3)))

def State.witStart (o : Outst) (s : State) : State :=
  (s.setWit { s.wit with startAt := some (o.accept + 10000, BitVec.ofNat 3 (fld o.pkt.hdr.w0 1 3), s.causeOf o.pkt.q o.seq) }).finish o.pkt.q o.seq St.done

/-- START: journal index and half of its digest, det_default, role, time mode and inc. -/
def State.startContent (s : State) : List Byte :=
  let d := match s.mg.journal.digest with
    | some d => d
    | none => sha512 []
  w64Bytes s.mg.journal.index ++ d.take 32 ++ [(s.mg.detDefault &&& 1).setWidth 8, BitVec.ofNat 8 s.twin.role.num, s.tb.modeEff.setWidth 8] ++ w64Bytes s.tb.inc

def regsBytes (ws : List (Option W64)) : List Byte := ws.flatMap (fun w => w64Bytes (w.getD 0))

/-- The content of the snapshots taken at the effect count. -/
def State.laneContent (n : Nat) (s : State) : List Byte := regsBytes ([0x00, 0x08, 0x10, 0x18, 0x20, 0x28, 0x30, 0x38].map (fun r => s.lanePeek n r))
def State.pushContent (i : Nat) (s : State) : List Byte := w64Bytes (s.push i).reg ++ leBytes 8 (s.push i).count
def State.pairContent (p : Nat) (s : State) : List Byte := regsBytes ([0x00, 0x08, 0x10, 0x18, 0x20].map (fun r => s.pwmPeek (0x40 * p + r)))
def State.linkContent (l : Nat) (s : State) : List Byte :=
  regsBytes ((List.range 16).map (fun i => s.linkPeek (0x100 * l + 8 * i))) ++ stampBytes (s.link l).start
def State.mailboxContent (m : Nat) (s : State) : List Byte :=
  w32Bytes (s.mailbox m).value ++ stampBytes ((s.mailbox m).pubCount.getD 0)
def State.queuesContent (s : State) : List Byte :=
  regsBytes ((List.range 4096).map (fun q => some (s.qstat q)) ++ [s.tbPeek 0x20, s.mgPeek 0x108])

def State.snapAll (kind c : Nat) (ixs : List Nat) (content : Nat → State → List Byte) (s : State) : State :=
  ixs.foldl (fun s i => s.snapshot kind i c (content i s)) s

/-- No value of a lane waits for its SAMPLE entry. -/
def State.dropUnlogged (s : State) : State := { s with lanes := s.lanes.map (fun e => (e.1, { e.2 with unlogged := [] })) }

/-- The effect count: START, the snapshots taken now, and the lists of those taken later; inputs are recorded from here. What an
earlier recording left in the buffer still leaves it. The domains that the recorder needs are brought to FIRE (11 R377). -/
def State.recordStart (s : State) : State :=
  match s.wit.startAt with
  | none => s
  | some (c, out, cause) =>
    if s.now < c then s
    else
      let s := s.witChange cause (fun s => s.setWit { s.wit with
        startAt := none, mode := .record, outputs := out, recording := true, lost := 0, lseq := 0, entries := 0,
        snapSlots := (s.slots.filter (fun e => e.2.bound)).map (·.1), snapBindings := s.bindings.map (·.1) })
      let s := s.dropUnlogged.witness 0x01 0 c s.startContent
      let s := s.snapAll 2 c ((List.range 64).filter (fun n => s.laneConsumed n)) State.laneContent
      let s := s.snapAll 3 c ((s.pushes.filter (fun e => e.2.en)).map (·.1)) State.pushContent
      let s := s.snapAll 4 c (List.range 48) State.pairContent
      let s := s.snapAll 5 c (List.range 32) State.linkContent
      let s := s.snapAll 6 c (List.range 256) State.mailboxContent
      (s.snapshot 8 0 c s.queuesContent).fireHeld

/-! ## WITNESS_STOP and GAP (R417) -/

/-- The values that the lanes have delivered are logged, whatever lane of their phase is not through it yet. -/
def State.flushSamples (s : State) : State :=
  (List.range 4).foldl (fun s g => (s.unloggedPhases g).foldl (fun s c => s.sampleEntry g c) s) s

/-- END is written and counts among the entries; the buffer goes on leaving on its outputs. -/
def State.recordEnd (c : Cause) (s : State) : State :=
  let s := s.flushSamples
  let s := s.witness 0x3E 0 s.now []
  s.witChange c (fun s => s.setWit { s.wit with mode := .off, recording := false, startAt := none, snapSlots := [], snapBindings := [] })

def State.recordStop (q sq : Nat) (s : State) : State :=
  let s := s.recordEnd (s.causeOf q sq)
  s.complete q sq { r0 := BitVec.ofNat 64 s.wit.entries } { }

/-- Room for 64 KiB has returned. -/
def State.gap (s : State) : State :=
  let w := s.wit
  if w.lost = 0 ∨ w.mode ≠ .record ∨ witFill w + 65536 > witRoom then s
  else (s.setWit { w with lost := 0, gaps := satAdd w.gaps 1 }).witPut 0x3F 0 s.now (leBytes 8 w.lost)

/-! ## The outputs (R418) -/

/-- One entry on an Ethernet port, in frames of 1,472 bytes: it starts in the first. -/
def State.streamEth (p : Nat) (e : List Byte) (s : State) : State :=
  (List.range ((e.length + 1471) / 1472)).foldl (fun s i =>
    let x := s.port p
    (s.setPort p { x with frameNo := x.frameNo + 1 }).send p (.stream 0x88B5 (x.frameNo % 2 ^ 32) (if i = 0 then 0 else 0xFFFF) ((e.drop (1472 * i)).take 1472))) s

/-- At High-Speed EP2 carries no witness stream (10 R351). -/
def State.streamUsb (e : List Byte) (s : State) : State := if s.usb.speed = 1 then s else (s.setUsb { s.usb with ep2wit := s.usb.ep2wit ++ e }).event 0x281 0 1

/-- An entry that is not readable is lost, and a GAP entry is written (14 R480). -/
def State.entryLost (s : State) : State := (s.setWit { s.wit with gaps := satAdd s.wit.gaps 1 }).witPut 0x3F 0 s.now (leBytes 8 1)

/-- One buffered entry leaves on every selected output; while USB is among them and in U3 it waits in the buffer (16 R521). -/
def State.witDrain (s : State) : State :=
  match s.wit.buffer with
  | [] => s
  | e :: rest =>
    if s.wit.outputs = 0 || (bit s.wit.outputs 2 && s.usb.u3) then s
    else
      let d := s.devRead 4 (leAt 14 2 e) 0 e.length
      let s := d.1.setWit { d.1.wit with buffer := rest }
      if d.2.isSome then s.entryLost else
      let s := if bit s.wit.outputs 0 then s.streamEth 0 e else s
      let s := if bit s.wit.outputs 1 then s.streamEth 1 e else s
      if bit s.wit.outputs 2 then s.streamUsb e else s

/-! ## The events -/

/-- The effect count of a WITNESS_START (R416). -/
def execWitnessRecordStart (s : State) : Res := .next s.recordStart

/-- A GAP entry (R417). -/
def execWitnessGap (s : State) : Res := .next s.gap

end Sys2Proof.Machine
end

