-- ==== Sys2Proof/Machine/Binds.lean ====
section
/-!
DEFINITION. The binding commands: parameters (row 3 of 10 R322), feasibility (row 7) and effect (07 R224, R225, R234, R236,
R242, R244; 08 R257, R267, R285 to R289; 09 R300, R307, R310; 10 R341, R342, R577; 11 R367, R368; 12 R412, R417; 14 R479).
-/

set_option Elab.async false

namespace Sys2Proof.Machine

open Sys2Proof

/-- A LONG count in two words. -/
def longGood (sec ns : W64) : Bool := decide (sec.toNat < 2 ^ 48 ∧ ns.toNat < 1000000000)

/-- A payload of exactly `n` bytes with no descriptor and no further words (R577). -/
def Packet.holds (n : Nat) (p : Packet) : Bool := decide (p.rest.length = n) && !p.desc && p.noExtra

def Packet.words64 (p : Packet) : List W64 := (List.range (p.rest.length / 8)).map (fun i => w64At (8 * i) p.rest)

/-- A binding with its journal entry; the command completes with DONE. -/
def State.boundDone (o : Outst) (ix : Nat) (s : State) : State :=
  ((s.journalNow (s.causeOf o.pkt.q o.seq) (objTarget 0x10 ix) none none).fireHeld).finish o.pkt.q o.seq St.done

/-! ## BIND_SLOT -/

def slotArg (p : Packet) : Nat := 8 * fld p.hdr.w0 4 4 + fld p.hdr.w0 0 3

/-- The slot that the images of a payload describe. -/
def Packet.slotImage (p : Packet) : Slot := ({ } : Slot).setRegs (p.words64.take 6)
def Packet.bankImage (p : Packet) : List W64 := p.words64.drop 6

/-- No reserved encoding, every field in its range, one writer for each destination, and the coil as it stands. -/
def State.bindSlotGood (p : Packet) (s : State) : Bool :=
  let n := slotArg p
  let x := p.slotImage
  p.holds 560 && decide (p.hdr.w0 &&& 0xFFFFFFFFFFFFFF08 = 0 ∧ p.hdr.w3 = 0) && longGood p.hdr.w1 p.hdr.w2 &&
    decide (x.targetSrc ≠ 3 ∧ x.ffSrc ≤ 3 ∧ fld x.cfg 24 2 ≤ 1 ∧ x.destKind ≤ 4 ∧ x.fbMode ≤ 1) &&
    (decide (x.destKind = 2) || decide (400 ≤ x.period ∧ x.sampleOff < x.period)) && Bank.legal (Bank.ofWords p.bankImage) &&
    (!x.paired || decide (x.destKind = 1 ∨ x.destKind = 2 ∨ x.destKind = 4)) &&
    (!x.writesPwm || (decide (x.pwmPair < 48) && (s.pairWriter x.pwmPair).all (fun m => decide (m = n)))) &&
    (decide (x.destKind ≠ 2) || (s.outerOf x.inner).all (fun m => decide (m = n))) &&
    (!x.writesCoil || s.coilJudged x.ltile x.coil 8)

/-- Each of the phases `b + k * d` is a sample phase of the lane; without `b` only the distance is judged. -/
def Lane.covers (b : Option Nat) (d : Nat) (x : Lane) : Bool :=
  decide (x.kind ≠ 0 ∧ x.per ≠ 0) && decide (d % x.per = 0) &&
    (match b with
     | some b => decide (x.off ≤ b ∧ (b - x.off) % x.per = 0)
     | none => true)

/-- The first phase of a bound slot, where its start count and its inner slot's are known, and the distance of its phases: the phases
that it has, or is to have. -/
def State.gridSoonOf (s : State) : Nat → Nat → Option (Nat × Nat)
  | 0, _ => none
  | k + 1, n =>
    let x := s.slot n
    if x.destKind = 2 then
      (s.gridSoonOf k x.inner).map (fun g => ((match x.start with
        | some c => nextAt g.1 (g.2 * x.cascN) c
        | none => g.1), g.2 * x.cascN))
    else x.start.map (fun c => (c + x.sampleOff, x.period))

def State.gridSoon (n : Nat) (s : State) : Option Nat := (s.gridSoonOf 129 n).map (·.1)

/-- Every slot with its pending reconfiguration in force. -/
def State.ahead (s : State) : State :=
  { s with slots := s.slots.map (fun e => (e.1, (e.2.claims.getLast?).getD e.2)) }

/-- The commit phase lies at least 200 ns and the group delay after the sample phase, and before the next one (01 R25). -/
def State.commitFits (x : Slot) (d : Nat) (s : State) : Bool :=
  let gd := (x.lanes.map (fun l => (s.lane l).groupDelay)).foldl max 0
  decide (200 + gd ≤ x.commitDly ∧ x.commitDly < d)

/-- The partner position is free, or holds the slot's own copy, and its engine has not failed. -/
def State.partnerFree (n : Nat) (s : State) : Bool :=
  (decide ((s.slot (partner n)).st = .unbound) || (decide ((s.slot (partner n)).st = .pairCopy) && (s.slot n).paired && (s.slot n).bound)) &&
    !s.mg.leFailed.contains (partner n / 8)

/-- The phases of slot `n` are sample phases of its lanes (08 R257). -/
def State.lanesFit (n : Nat) (s : State) : Bool :=
  (s.slot n).lanes.all (fun l => (s.lane l).covers (s.gridSoon n) (s.strideOf 129 n))

/-- Slot `n` and every outer slot, whose phases follow those of an inner slot, meet 01 R25 and 08 R257. -/
def State.slotsFit (n : Nat) (s : State) : Bool :=
  s.commitFits (s.slot n) (s.strideOf 129 n) && s.lanesFit n &&
    s.slots.all (fun e => !(e.2.bound && decide (e.2.destKind = 2)) || (s.commitFits e.2 (s.strideOf 129 e.1) && s.lanesFit e.1))

def State.bindSlotFeasible (p : Packet) (a : Nat) (s : State) : Bool :=
  let n := slotArg p
  let x := p.slotImage
  let start := longCount p.hdr.w1 p.hdr.w2
  let old := s.slot n
  let x' := { old with st := if old.st = .running then .running else .armed, cfg := x.cfg, src := x.src, phase := x.phase, dest := x.dest,
                       start := if old.st = .running then old.start else if start = 0 then none else some start }
  decide ((s.slot n).st ≠ .pairCopy) && !s.mg.leFailed.contains (n / 8) && !x.lanes.any (fun l => s.mg.sgFailed.contains (l / 16)) &&
    decide (start = 0 ∨ a + 10000 ≤ start) && (decide (x.destKind ≠ 2) || (decide (x.inner ≠ n) && (s.slot x.inner).bound)) && (!x.paired || s.partnerFree n) &&
    (s.ahead.setSlot n x').slotsFit n && State.rateKept s (s.setSlot n { (s.slot n) with st := .armed, cfg := x.cfg, src := x.src })

/-- A running slot is reconfigured at its effect count (R225); any other is bound afresh. -/
def State.bindSlot (o : Outst) (s : State) : State :=
  let p := o.pkt
  let n := slotArg p
  let start := longCount p.hdr.w1 p.hdr.w2
  if (s.slot n).st = .running then
    (s.defer n (.rebind (p.words64.take 6) p.bankImage) o.accept (s.causeOf p.q o.seq)).finish p.q o.seq St.done
  else (s.bindFresh n (if start = 0 then none else some start) (p.words64.take 6) p.bankImage).boundDone o n

/-! ## SWAP_COEF (07 R242) -/

def swapSlots (p : Packet) : List Nat := ((List.range 8).filter (fun j => bit p.hdr.w0 (8 + j))).map (· + 8 * fld p.hdr.w0 0 4)

def State.swapGood (p : Packet) (s : State) : Bool :=
  p.bare 3 && decide (p.hdr.w0 &&& 0xFFFFFFFFFFFF00F0 = 0) && longGood p.hdr.w1 p.hdr.w2 && !(swapSlots p).isEmpty &&
    (swapSlots p).all (fun n => (s.slot n).bound && Bank.legal (s.slot n).spare)

def State.swapFeasible (p : Packet) (a : Nat) (s : State) : Bool :=
  let c := longCount p.hdr.w1 p.hdr.w2
  decide (c = 0 ∨ a + 10000 ≤ c) && (swapSlots p).all (fun n => (s.slot n).swapAt.isNone)

def State.swapCoef (o : Outst) (s : State) : State :=
  let c := max (longCount o.pkt.hdr.w1 o.pkt.hdr.w2) (o.accept + effectDelay)
  let s := (swapSlots o.pkt).foldl (fun s n => s.updSlot n (fun x => { x with swapAt := some c })) s
  { s with swaps := s.swaps ++ [{ cause := s.causeOf o.pkt.q o.seq, slots := swapSlots o.pkt, at_ := c }] }

/-! ## BIND_LANE -/

def laneArg (p : Packet) : Nat := p.hdr.w0.toNat
def hasPush (p : Packet) : Bool := bit p.hdr.w1 8
def pushArg (p : Packet) : Nat := 4 * (laneArg p / 16) + fld p.hdr.w1 0 2
def pushImage (p : Packet) : W64 := p.words64.getD 4 0

/-- The lane as the images leave it. A lane that is read keeps its registers MODE and TIME (08 R285). -/
def State.laneAfter (p : Packet) (s : State) : Lane :=
  let x := s.lane (laneArg p)
  let w := p.words64
  let x := if s.laneConsumed (laneArg p) then x
    else { (x.configure s.now (w.getD 0 0 &&& 0xFFFFFFFF) (w.getD 1 0)) with bankSel := false, swapAt := none }
  { x with calA := w.getD 2 0 &&& 0xFFFFFFFFFFFFFF3F, oc := w.getD 3 0 &&& 0xFFFFFFFFFFFF003D }

def State.bindLaneGood (p : Packet) (s : State) : Bool :=
  let w := p.words64
  let i := pushArg p
  let ls := Push.lanesOf i (pushImage p)
  let x : Push := { reg := pushImage p }
  p.holds (if hasPush p then 40 else 32) && decide (laneArg p < 64 ∧ p.hdr.w1 &&& 0xFFFFFFFFFFFFFEFC = 0 ∧ p.hdr.w2 = 0 ∧ p.hdr.w3 = 0) &&
    (hasPush p || decide (fld p.hdr.w1 0 2 = 0)) && Lane.legal (w.getD 0 0 &&& 0xFFFFFFFF) (w.getD 1 0) &&
    (!hasPush p || (!ls.isEmpty && s.coilJudged x.ltile x.coil (8 * ls.length)))

def State.bindLaneFeasible (p : Packet) (s : State) : Bool :=
  let n := laneArg p
  let w := p.words64
  let t := s.setLane n (s.laneAfter p)
  let t := if hasPush p then t.bindPush (pushArg p) (pushImage p) else t
  !s.mg.sgFailed.contains (n / 16) &&
    (!s.laneConsumed n || decide ((s.lane n).mode = w.getD 0 0 &&& 0xFFFFFFFF ∧ (s.lane n).time = w.getD 1 0)) &&
    (!hasPush p || commonPhase ((Push.lanesOf (pushArg p) (pushImage p)).map (fun l => t.lane l))) && State.rateKept s t

def State.bindLane (o : Outst) (s : State) : State :=
  let p := o.pkt
  let n := laneArg p
  let was := (s.lane n).fOcRaised
  let s := s.setLane n (s.laneAfter p)
  let s := if was && !bit (s.lane n).oc 0 then s.ocLower n else s
  let s := if hasPush p then s.bindPush (pushArg p) (pushImage p) else s
  s.boundDone o n

/-! ## BIND_PWM (08 R280, R289) -/

def State.bindPwmGood (p : Packet) : Bool :=
  p.holds 24 && decide (p.hdr.w0.toNat < 48 ∧ p.hdr.w1 = 0 ∧ p.hdr.w2 = 0 ∧ p.hdr.w3 = 0) && Pair.timeOk (p.words64.getD 1 0)

/-- Period, offset and carrier mode change only while the pair is disabled. -/
def State.bindPwmFeasible (p : Packet) (s : State) : Bool :=
  let x := s.pair p.hdr.w0.toNat
  let w := p.words64
  !x.en || decide (x.time = w.getD 1 0 &&& 0xFFFFFFFFFFFF ∧ bit x.cfg 2 = bit (w.getD 0 0) 2)

def State.bindPwm (o : Outst) (s : State) : State :=
  let p := o.pkt
  let n := p.hdr.w0.toNat
  let w := p.words64
  let s := s.updPair n (fun x => { x with time := w.getD 1 0 &&& 0xFFFFFFFFFFFF })
  ((s.shadowWrite s.now n (w.getD 2 0 &&& 0x1FFFFFFFFFFFF)).pairConfigure n (w.getD 0 0 &&& 0x1D)).boundDone o n

/-! ## BIND_LINK (09 R300, R307, R310) -/

def Packet.linkImage (p : Packet) : Link :=
  { cfg := p.words64.getD 0 0 &&& linkMask, time := p.words64.getD 1 0, time2 := p.words64.getD 2 0, push := p.words64.getD 3 0 &&& 0xFFF }

def State.bindLinkGood (p : Packet) (s : State) : Bool :=
  let x := p.linkImage
  p.holds 32 && decide (p.hdr.w0.toNat < 32 ∧ p.hdr.w3 = 0) && longGood p.hdr.w1 p.hdr.w2 && x.legal &&
    (!x.pushEn || s.coilJudged x.ltile x.coil (8 + 4 * x.cells))

def State.bindLinkFeasible (p : Packet) (a : Nat) (s : State) : Bool :=
  p.linkImage.timed && s.oneWriter p.linkImage && decide (a + 10000 ≤ longCount p.hdr.w1 p.hdr.w2) &&
    State.rateKept s (s.setLink p.hdr.w0.toNat p.linkImage)

def State.bindLink (o : Outst) (s : State) : State :=
  let p := o.pkt
  let w := p.words64
  (s.bindLinkTo p.hdr.w0.toNat (longCount p.hdr.w1 p.hdr.w2) (w.getD 0 0) (w.getD 1 0) (w.getD 2 0) (w.getD 3 0)).boundDone o p.hdr.w0.toNat

/-! ## BIND_STANDING (10 R342; 11 R367; 01 R18, R29) -/

/-- The mailboxes that a mask names. -/
def mailboxesIn (bs : List Byte) : List Nat := (List.range 256).filter (fun i => bit (bs.getD (i / 8) 0) (i % 8))

/-- Without a declared mode a standing job of a paired device runs STRICT. -/
def State.standingTput (p : Packet) (s : State) : Bool :=
  if fld p.hdr.flags 3 2 = 0 ∧ s.twin.role ≠ .solo then false else s.tputOf p

/-- The binding that a record describes. -/
def State.bindingOf (p : Packet) (s : State) : Binding :=
  let r := p.rest
  let first := leAt 0x10 6 r * 1000000000 + leAt 0x16 4 r
  { queue := p.q, tag := p.hdr.tag, image := s.imageAt (leAt 0 8 r), seed := w64At 8 r, first := if first = 0 then none else some first,
    cqueue := leAt 0x1A 2 r, period := leAt 0x1C 4 r, deadline := leAt 0x20 4 r, ltile := leAt 0x24 1 r, adapt := bit (r.getD 0x25 0) 0,
    mailboxes := mailboxesIn ((r.drop 0x28).take 32), record := r, tput := s.standingTput p, prov := bit p.hdr.flags 0, next := first }

def State.bindStandingGood (p : Packet) (s : State) : Bool :=
  let r := p.rest
  let v := s.bindingOf p
  p.holds 96 && decide (p.hdr.w0 = 0 ∧ p.hdr.w1 = 0 ∧ p.hdr.w2 = 0 ∧ p.hdr.w3 = 0) && decide (leAt 0 8 r < 2 ^ 40) && s.imageGood (leAt 0 8 r) &&
    v.image.allows true v.tput && decide (leAt 0x16 4 r < 1000000000) && decide (v.cqueue < 4096) && (s.queue v.cqueue).enabled &&
    (s.queue v.cqueue).dataClass && decide (1000 ≤ v.period ∧ v.period ≤ 16777215 ∧ v.deadline < v.period ∧ v.ltile < 64) &&
    decide (fld (r.getD 0x25 0) 1 7 = 0 ∧ leAt 0x26 2 r = 0) && (r.drop 0x48).all (fun b => decide (b = 0)) &&
    v.mailboxes.all (fun m => (s.mailbox m).writer.isNone)

/-- With a first boundary, the running job ends by its budget and the image loads before it. -/
def State.boundaryFits (v : Binding) (p : Nat) (c a : Nat) (s : State) : Bool :=
  decide (a < c ∧ s.budgetEnd p + 9 * s.loadTime p v.image < 9 * c)

def State.bindStandingFeasible (p : Packet) (a : Nat) (s : State) : Bool :=
  let v := s.bindingOf p
  match s.phys v.ltile with
  | none => false
  | some t =>
    let x := s.tile t
    !x.failed && !x.selfTest && !s.kiln.tests.any (fun k => decide (k.dom = t)) && !x.reserved && !s.bindings.any (fun e => decide (e.2.ltile = v.ltile)) &&
      decide (3 * 120 + 2 * v.image.wcet ≤ 3 * v.period) && decide (s.reservedRate + reservedOf v.image.cones v.period ≤ s.kiln.capMw.toNat) &&
      !(v.tput && decide (s.twin.role ≠ .solo)) && v.first.all (fun c => s.boundaryFits v t c a)

/-- The lowest index that no binding has. -/
def State.freeBinding (s : State) : Nat := ((List.range 65536).find? (fun b => (s.binding b).isNone)).getD 0

/-- The tile is reserved, the image loaded, and the mailboxes have their writer. -/
def State.bindStandingAs (b : Nat) (o : Outst) (s : State) : State :=
  let p := o.pkt
  let v := s.bindingOf p
  match s.phys v.ltile with
  | none => s.complete p.q o.seq { status := St.unit, location := locUnit v.ltile 0 } { }
  | some t =>
    let r := (s.reserve t).loadBound t v.image
    match r.2 with
    | .bad loc => (r.1.updTile t (fun x => { x with reserved := false, closed := (r.1.dom t).shutOut })).complete p.q o.seq { status := St.dataError, location := loc } { }
    | .ok =>
      let s := v.mailboxes.foldl (fun s m => s.updMailbox m (fun x => { x with writer := some b })) (r.1.setBinding b v)
      (s.journalNow (s.causeOf p.q o.seq) (objTarget 0x10 b) none none).complete p.q o.seq { r0 := BitVec.ofNat 64 b } { }

def State.bindStanding (o : Outst) (s : State) : State := s.bindStandingAs s.freeBinding o

/-! ## LAUNCH (12 R412) -/

def launchList (p : Packet) : List Nat := (List.range (p.rest.length / 2)).map (fun i => leAt (2 * i) 2 p.rest)
def launchBindings (p : Packet) : List Nat := (launchList p).filter (fun e => decide (e < 0x8000))
def launchSlots (p : Packet) : List Nat := ((launchList p).filter (fun e => decide (0x8000 ≤ e))).map (· - 0x8000)

/-- Every entry names an object that waits for LAUNCH and that no other LAUNCH names. -/
def State.launchGood (p : Packet) (s : State) : Bool :=
  decide (p.rest.length % 2 = 0) && !p.desc && p.noExtra && longGood p.hdr.w0 p.hdr.w1 && decide (p.hdr.w2 = 0 ∧ p.hdr.w3 = 0) && noRepeat (launchList p) &&
    (launchBindings p).all (fun b => (s.binding b).any (fun v => v.first.isNone && v.unbindAt.isNone) && !s.kiln.launches.any (fun l => l.bindings.contains b)) &&
    (launchSlots p).all (fun n => decide (n < 128) && decide ((s.slot n).st = .armed) && (s.slot n).start.isNone && !s.kiln.launches.any (fun l => l.slots.contains n))

def State.launchFeasible (p : Packet) (a : Nat) (s : State) : Bool :=
  let c := longCount p.hdr.w0 p.hdr.w1
  let t := (launchSlots p).foldl (fun s n => s.updSlot n (fun x => { x with start := some c })) s.ahead
  decide (a + 100000 ≤ c ∧ c ≤ a + 60000000000) &&
    (launchBindings p).all (fun b => (s.binding b).any (fun v => (s.phys v.ltile).any (fun t => s.boundaryFits v t c a))) &&
    (launchSlots p).all (fun n => t.slotsFit n)

def State.launch (o : Outst) (s : State) : State :=
  let p := o.pkt
  s.setKiln { s.kiln with launches := s.kiln.launches ++ [{ queue := p.q, seq := o.seq, at_ := longCount p.hdr.w0 p.hdr.w1,
                                                             bindings := launchBindings p, slots := launchSlots p }] }

/-! ## UNBIND -/

def unbindKind (p : Packet) : Nat := fld p.hdr.w0 0 4
def unbindIx (p : Packet) : Nat := fld p.hdr.w0 8 16

/-- The index names a bound object of its kind (R577). -/
def State.unbindGood (p : Packet) (s : State) : Bool :=
  let i := unbindIx p
  p.bare 1 && decide (p.hdr.w0 &&& 0xFFFFFFFFFF0000F0 = 0) &&
    (match unbindKind p with
     | 0 => decide (i < 128) && (s.slot i).bound && (s.slot i).unbindAt.isNone
     | 1 => (s.binding i).any (fun v => v.unbindAt.isNone)
     | 2 => decide (i < 16) && (s.push i).en
     | 3 => decide (i < 48) && (s.pair i).en
     | 4 => decide (i < 32) && (s.link i).en
     | _ => false)

def State.unbindFeasible (p : Packet) (s : State) : Bool := decide (unbindKind p ≠ 0) || (s.slot (unbindIx p)).swapAt.isNone

/-- An object leaves the LAUNCH that names it (12 R413). -/
def State.leaveLaunch (slot : Bool) (i : Nat) (s : State) : State :=
  s.setKiln { s.kiln with launches := s.kiln.launches.map (fun l =>
    if slot && l.slots.contains i then { l with slots := l.slots.filter (fun n => decide (n ≠ i)), dropped := true }
    else if !slot && l.bindings.contains i then { l with bindings := l.bindings.filter (fun n => decide (n ≠ i)), dropped := true } else l) }

def State.unbind (o : Outst) (s : State) : State :=
  let p := o.pkt
  let i := unbindIx p
  let c := s.causeOf p.q o.seq
  match unbindKind p with
  | 0 => ((s.leaveLaunch true i).unbindSlot i c).finish p.q o.seq St.done
  | 1 => (s.leaveLaunch false i).updBinding i (fun v => { v with unbindAt := some (o.accept, c) })
  | 2 => (s.setPush i { }).boundDone o i
  | 3 => (s.pairUnbind i).boundDone o i
  | _ => (s.unbindLink i).boundDone o i

/-- The invocation of a binding that has not ended fails with its unit: the job on its tile, or one that has not begun. The record of
a job with mailboxes in its commit map still waits for its publish count (06 R210). -/
def State.failRunning (b p : Nat) (s : State) : State :=
  if !(s.binding b).any (·.running) then s
  else
    match (s.tile p).slotOf b with
    | some w => if (s.ctx p w).any (·.live) then s.failJob p w St.unit (locUnit p 0) else s.failInvocation b St.unit (locUnit p 0)
    | none => s.failInvocation b St.unit (locUnit p 0)

/-- A binding removed by the device: an invocation that has not ended fails, a record that waits for its publish count
completes (log entry 86). -/
def State.removeBinding (b : Nat) (s : State) : State :=
  match s.binding b with
  | none => s
  | some v =>
    let s := s.failRunning b ((s.phys v.ltile).getD v.ltile)
    let s := ((s.binding b).getD v).pubs.foldl (fun s x => match x.held with
      | some h => s.complete v.cqueue x.qseq h.1 h.2
      | none => s) s
    let s := v.mailboxes.foldl (fun s m => s.updMailbox m (·.release s.now)) (s.dropBinding b)
    let s := match s.phys v.ltile with
      | some t => s.updTile t (fun x =>
          let y := match x.slotOf b with
            | some w => x.setSlot w none
            | none => x
          { y with reserved := false, closed := (s.dom t).shutOut, idleSince := s.now })
      | none => s
    s.journalDev 0x10 b

/-- A lane is set up no more; an over-current that it raised is lowered (15 R492). -/
def State.removeLane (n : Nat) (s : State) : State :=
  let s := if (s.lane n).fOcRaised then s.ocLower n else s
  (s.setLane n { }).journalDev 0x10 n

/-- Every slot, binding, push, pair, link and lane is removed, each removal with its journal entry; a pending SWAP_COEF completes
flagged, as a LAUNCH does that lost an object (14 R462; 12 R421). -/
def State.removeAll (s : State) : State :=
  let s := s.swaps.foldl (fun s k => s.finish k.cause.queue k.cause.seq St.flagged) { s with swaps := [] }
  let s := s.setKiln { s.kiln with launches := s.kiln.launches.map (fun l => { l with bindings := [], slots := [], dropped := true }) }
  let s := (s.slots.filter (fun e => e.2.bound)).foldl (fun s e => s.slotUnbound e.1 s.now byDevice) s
  let s := s.bindings.foldl (fun s e => s.removeBinding e.1) s
  let s := (s.pushes.filter (fun e => e.2.en)).foldl (fun s e => (s.setPush e.1 { }).journalDev 0x10 e.1) s
  let s := (s.pairs.filter (fun e => e.2.en)).foldl (fun s e => (s.pairUnbind e.1).journalDev 0x10 e.1) s
  let s := (s.links.filter (fun e => e.2.en)).foldl (fun s e => (s.unbindLink e.1).journalDev 0x10 e.1) s
  ((s.lanes.filter (fun e => decide (e.2.kind ≠ 0))).foldl (fun s e => s.removeLane e.1) s).unmappedCheck

end Sys2Proof.Machine
end

