-- ==== Sys2Proof/Machine/Failures.lean ====
section
/-!
DEFINITION. Unit failures, spares and self-test (14 R477 to R485; 13 R434; 15 R508).
-/

set_option Elab.async false

namespace Sys2Proof.Machine

open Sys2Proof

/-! ## A tile fails (14 R477, R478) -/

/-- The spare that takes over: that of the tile's own quadrant, or else the lowest. -/
def State.spareFor (p : Nat) (s : State) : Option Nat :=
  match s.freeSpares.find? (fun x => decide (x / 17 = p / 17 ∧ x ≠ p)) with
  | some x => some x
  | none => s.freeSpares.find? (fun x => decide (x ≠ p))

/-- The logical tile goes to a spare, or has none. -/
def State.remap (p : Nat) (s : State) : State :=
  match s.logical p with
  | none => s
  | some l =>
    match s.spareFor p with
    | some x => { s with tileMap := Tbl.insert l (x + 1) s.tileMap }
    | none => { s with tileMap := Tbl.erase l s.tileMap }

/-- An on-demand job of a failed tile goes back to the ready list, to be re-run elsewhere; its cones are settled. -/
def State.takeBack (c : Ctx) (s : State) : State :=
  let s := (s.settle c).2
  s.setKiln { s.kiln with ready := s.kiln.ready ++ [{ c.job with rerun := true, pin := none }] }

/-- The work of a failed tile: on-demand jobs re-run, pinned ones too; a standing invocation fails, and its binding moves at
the next boundary. -/
def State.moveWork (p : Nat) (s : State) : State :=
  let t := s.tile p
  let cs := [t.ctx0, t.ctx1].filterMap id
  let ls := s.bindings.filter (fun e => decide (s.phys e.2.ltile = some p))
  let s := ls.foldl (fun s e => s.failRunning e.1 p) s
  let s := s.setTile p { s.tile p with ctx0 := none, ctx1 := none, cu := none, dma := [], sb := [], rx := [], residents := [], dryKeep := [], reserved := false }
  let s := s.setHbm { s.hbm with waiting := s.hbm.waiting.filter (fun r => decide (r.tile ≠ p)) }
  let s := (cs.filter (fun c => c.live && c.job.binding.isNone)).foldl (fun s c => s.takeBack c) s
  let s := s.setKiln { s.kiln with ready := s.kiln.ready.map (fun j => if j.pin = some p then { j with pin := none, rerun := true } else j),
                                   wakes := s.kiln.wakes.filter (fun w => decide (w ≠ p ∧ w ≠ p + stepWake)) }
  ls.foldl (fun s e => s.updBinding e.1 (fun v => { v with awaitImage := some p })) s

def State.failTile (p : Nat) (s : State) : State :=
  if (s.tile p).failed then s
  else
    let s := s.recordFailure (fun t => ((t.moveWork p).updTile p (fun x => { x with failed := true })).remap p) .unit
    s.health (fun h => { h with tiles := h.tiles ++ [p] })

/-! ## A pseudo-channel fails (13 R434) -/

/-- An accepted command ends in failure, wherever it is at work. -/
def State.dropWork (q sq : Nat) (st : Byte) (loc : W64) (s : State) : State :=
  let is := fun (c : Option Ctx) => c.any (fun c => c.live && decide (c.job.queue = q ∧ c.job.seq = sq))
  match s.tiles.findSome? (fun e => if is e.2.ctx0 then some (e.1, 0) else if is e.2.ctx1 then some (e.1, 1) else none) with
  | some (p, w) => s.failJob p w st loc
  | none =>
    let own := fun (j : Job) => decide (j.queue = q ∧ j.seq = sq)
    let job := s.kiln.ready.find? own
    let out := s.kiln.swapped.find? (fun e => own e.ctx.job)
    let s := s.setKiln { s.kiln with ready := s.kiln.ready.filter (fun j => !own j), swapped := s.kiln.swapped.filter (fun e => !own e.ctx.job) }
    let s := s.setUsb { s.usb with gets := s.usb.gets.filter (fun g => decide (¬ (g.queue = q ∧ g.seq = sq))) }
    let s := s.setHbm { s.hbm with pins := s.hbm.pins.filter (fun g => decide (¬ (g.queue = q ∧ g.seq = sq))) }
    match job, out with
    | some j, _ => s.endReady j st loc
    | none, some e => s.endSwapped e st loc
    | none, none => s.complete q sq { status := st, location := loc } { }

/-- Accepted commands whose captured inputs or records lay on the failed channel. -/
def State.loseInputs (s : State) : State :=
  s.queues.foldl (fun s e => e.2.outst.foldl (fun s o =>
    if o.inv then s
    else
      let hit := Config.onFailedChannel s.freeIx
      let s := { s with freeIx := s.freeIx + 1 }
      if hit then
        let a := s.free
        a.2.dropWork e.1 o.seq St.dataError (locHbm (hbmDev + a.1.toNat % 0x100000000))
      else s) s) s

/-- On a SOLO device the commands end whose captured inputs lay on a channel that has failed. -/
def State.loseNow (s : State) : State := if s.hbm.losing then (s.setHbm { s.hbm with losing := false }).loseInputs else s

def State.failPc (n : Nat) (s : State) : State := (s.pcFailed n).loseNow

def State.unitFailure (k : UnitKind) (n : Nat) (s : State) : State :=
  match k with
  | .tile => s.failTile n
  | .loopEngine => s.failUnits [n] []
  | .senseGroup => s.failUnits [] [n]
  | .pseudoChannel => s.failPc n

def unitBound : UnitKind → Nat
  | .tile => 68
  | .loopEngine => 16
  | .senseGroup => 4
  | .pseudoChannel => 32

/-! ## SELF_TEST (14 R481 to R485) -/

/-- The kind of a domain that can be tested. -/
def testKind (d : Nat) : Option Nat :=
  if d < 68 then some 0 else if d ≤ 83 then some 1 else if 93 ≤ d ∧ d ≤ 96 then some 2 else if 97 ≤ d ∧ d ≤ 98 then some 3
  else if 99 ≤ d ∧ d ≤ 102 then some 4 else none

/-- Typical duration in nanoseconds. -/
def testNs (d : Nat) : Nat := match testKind d with
  | some 0 => 3000000
  | some 1 => 400000
  | _ => 300000

/-- VDD_CORE lies within 3 % of its set point, as PWR_AVS shows (18 R556), and the clock generator of the domain runs, as it does at
FIRE and SOAK (11 R376): its frequency is then within 0.75 to 1.5 GHz in tiles and loop engines, and nominal in the other islands (01 R22). -/
def State.testable (d : Nat) (s : State) : Bool := s.mg.avsIn && decide ((s.dom d).rung.toNat ≤ 1)

def selfTestGood (p : Packet) : Bool := p.bare 2 && (testKind p.hdr.w0.toNat).isSome && decide (p.hdr.w1.toNat < 16)

def State.testOf (d : Nat) (s : State) : Option SelfTest := s.kiln.tests.find? (fun k => decide (k.dom = d))

/-- On an ACTIVE or SOLO device: no reserved tile, no block that a binding holds at FIRE, and supply and clock within their windows. -/
def State.selfTestFeasible (p : Packet) (s : State) : Bool :=
  let d := p.hdr.w0.toNat
  decide (s.twin.role = .standby) || (!(decide (d < 68) && (s.tile d).reserved) && (decide (d < 68) || !s.held d) && s.testable d)

/-- From acceptance the block is closed to new work; a paired STANDBY device is in CATCHUP. -/
def State.selfTest (o : Outst) (s : State) : State :=
  let d := o.pkt.hdr.w0.toNat
  let s := s.setKiln { s.kiln with tests := s.kiln.tests ++ [{ queue := o.pkt.q, seq := o.seq, dom := d, options := o.pkt.hdr.w1 }] }
  let s := if d < 68 then (s.updTile d (fun t => { t with selfTest := true, closed := true })).swapAll d else s
  if s.twin.role = .standby ∧ s.twin.pair = .synced then s.twinChange { s.twin with pair := .catchup } else s

/-- The block has drained. -/
def State.blockDrained (d : Nat) (s : State) : Bool :=
  if d < 68 then
    let quiet := fun (c : Option Ctx) => c.all (fun c => !c.live)
    quiet (s.tile d).ctx0 && quiet (s.tile d).ctx1 && (s.tile d).descs.isEmpty
  else true

/-- A tested block of a STANDBY device is behind its peer: slots wait for a shadow, a binding for its catch-up. -/
def State.behind (d : Nat) (s : State) : State :=
  if s.twin.role ≠ .standby then s
  else if d < 68 then ((s.bindings.filter (fun e => decide (s.phys e.2.ltile = some d))).map (·.1)).foldl (fun s b => s.askCatchup b) s
  else
    let hit := fun (n : Nat) => decide (d = 68 + n / 8) || ((s.slot n).lanes.any (fun l => decide (d = 93 + l / 16)))
    s.setTwin { s.twin with shadowDone := s.twin.shadowDone.filter (fun n => !hit n) }

/-- The failure that a mismatch with fail_mark is. -/
def State.markFailed (d : Nat) (s : State) : State :=
  if d < 68 then s.failTile d else if d ≤ 83 then s.failUnits [d - 68] [] else if 93 ≤ d ∧ d ≤ 96 then s.failUnits [] [d - 93] else s

/-- The block opens again, or stays closed. -/
def State.reopen (k : SelfTest) (s : State) : State :=
  let keep := bit k.options 2
  let s := s.updDom k.dom (fun x => { x with kept := keep })
  if k.dom < 68 then s.updTile k.dom (fun t => { t with selfTest := false, closed := t.reserved || (s.dom k.dom).shutOut }) else s

/-- The whole test of a drained block: its state is saved and restored bit for bit, so that only the signature, the result
and the marks come of it. Result bytes: signature in 7 to 0, a match in 8, a test not run in 9. -/
def State.selfTestRun (k : SelfTest) (sig : W64) (s : State) : State :=
  let s := s.setKiln { s.kiln with tests := s.kiln.tests.filter (fun x => decide (x.dom ≠ k.dom)) }
  if !s.testable k.dom then (s.reopen k).complete k.queue k.seq { status := St.flagged, r1 := 0x100 } { }
  else
    let sel := BitVec.ofNat 2 (if fld k.options 0 2 = 0 then 3 else fld k.options 0 2)
    let ok := decide (sig = Config.misr ((testKind k.dom).getD 0) sel)
    let s := (s.reopen k).behind k.dom
    let s := if !ok && bit k.options 3 then s.markFailed k.dom else s
    s.complete k.queue k.seq { status := if ok then St.done else St.flagged, r0 := sig, r1 := if ok then 1 else 0 } { }

/-! ## Commands that name a block under test (14 R481) -/

def State.tileOfBinding (s : State) (b : Nat) : List Nat := ((s.binding b).bind (fun v => s.phys v.ltile)).toList

/-- The domains that a command names: those of the blocks that hold its slots, lanes, pairs, links and bindings. -/
def State.blocksOf (p : Packet) (s : State) : List Nat :=
  match p.op with
  | 0x1001 =>
    let x := p.slotImage
    [68 + slotArg p / 8] ++ (if x.paired then [68 + partner (slotArg p) / 8] else []) ++ x.lanes.map (fun l => 93 + l / 16) ++
      (if x.writesPwm then [97 + x.pwmPair / 24] else [])
  | 0x1002 =>
    let i := unbindIx p
    (match unbindKind p with
     | 0 => [68 + i / 8] ++ (if (s.slot i).paired then [68 + partner i / 8] else [])
     | 1 => s.tileOfBinding i
     | 2 => [93 + i / 4]
     | 3 => [97 + i / 24]
     | _ => [99 + i / 8])
  | 0x1008 => (launchSlots p).map (fun n => 68 + n / 8) ++ (launchBindings p).flatMap s.tileOfBinding
  | 0x1003 => [68 + fld p.hdr.w0 0 4]
  | 0x1004 => match s.phys (leAt 0x24 1 p.rest) with
    | some t => [t]
    | none => []
  | 0x1005 => [93 + laneArg p / 16]
  | 0x1006 => [97 + p.hdr.w0.toNat / 24]
  | 0x1007 => [99 + p.hdr.w0.toNat / 8]
  | 0x0011 => [p.hdr.w0.toNat]
  | 0x0020 => [p.hdr.w0.toNat]
  | _ => []

/-- When the command needs the block: its start count, swap count or first boundary; zero is none. -/
def Packet.needsAt (p : Packet) : Nat :=
  match p.op with
  | 0x1001 => longCount p.hdr.w1 p.hdr.w2
  | 0x1003 => longCount p.hdr.w1 p.hdr.w2
  | 0x1007 => longCount p.hdr.w1 p.hdr.w2
  | 0x1008 => longCount p.hdr.w0 p.hdr.w1
  | 0x1004 => leAt 0x10 6 p.rest * 1000000000 + leAt 0x16 4 p.rest
  | _ => 0

/-- The expected end of a test. -/
def State.testEnd (k : SelfTest) (a : Nat) (s : State) : Nat :=
  max a ((match s.outstOf k.queue k.seq with
    | some o => o.accept
    | none => a) + testNs k.dom)

/-- Row 6: the test of a block ends too late for the command, the block is to be tested again, or it was kept closed. -/
def State.testBusy (p : Packet) (a : Nat) (s : State) : Bool :=
  (s.blocksOf p).any (fun d =>
    (match s.testOf d with
     | some k => decide (p.op = 0x0020) || (decide (p.needsAt ≠ 0) && decide (p.needsAt ≤ s.testEnd k a))
     | none => decide (68 ≤ d) && (s.dom d).kept && decide (p.op ≠ 0x0011 ∧ p.op ≠ 0x0020)))

/-- A command of a block under test waits for the end of the test; answers none where it does not wait. -/
def State.deferred (o : Outst) (s : State) : Option State :=
  match (s.blocksOf o.pkt).find? (fun d => (s.testOf d).isSome) with
  | some d => if o.pkt.op = 0x0020 then none else
      some (s.setKiln { s.kiln with tests := s.kiln.tests.map (fun k => if k.dom = d then { k with waits := k.waits ++ [(o.pkt.q, o.seq)] } else k) })
  | none => none

/-! ## The event -/

/-- A unit fails (R477 to R479). -/
def execUnitFailure (kind : UnitKind) (n : Nat) (s : State) : Res := within n (unitBound kind) (s.unitFailure kind n)

end Sys2Proof.Machine
end

