-- ==== Sys2Proof/Machine/Boot.lean ====
section
/-!
DEFINITION. Resets, straps, start-up, signed objects, firmware load, attestation, the journal read and the watchdog
(12 R421, R422; 14 R455; 15 R490 to R518; 10 R338, R347; 18 R555, R556).
-/

set_option Elab.async false

namespace Sys2Proof.Machine

open Sys2Proof

/-! ## Signed objects (15 R501, R502) -/

def objBody (bs : List Byte) : List Byte := (bs.drop 1664).take (leAt 8 4 bs)
def objVersion (bs : List Byte) : Nat := leAt 0xC 4 bs
def objSigner (bs : List Byte) : List Byte := (bs.drop 0x80).take 512

/-- Header in range, body digest and signature. -/
def objGood (kind most : Nat) (bs : List Byte) : Bool :=
  decide (leAt 0 4 bs = 0x51575346 ∧ leAt 4 2 bs = kind ∧ leAt 6 2 bs = 1 ∧ leAt 8 4 bs ≤ most ∧ 1664 + leAt 8 4 bs ≤ bs.length) &&
    ((bs.drop 0x50).take 48).all (fun b => decide (b = 0)) && decide (sha512 (objBody bs) = (bs.drop 0x10).take 64) &&
    pssVerify (objSigner bs) (bs.take 0x280) ((bs.drop 0x280).take 512)

def cfgLayout (b : List Byte) : Bool :=
  decide (fld (b.getD 0 0) 2 6 = 0 ∧ leAt 1 3 b = 0 ∧ leAt 8 4 b ≤ 60000 ∧ leAt 0xC 4 b ≤ 3936 ∧ 0x210 + 16 * leAt 0xC 4 b ≤ b.length)

def releases (bs : List Byte) : Bool := bit ((objBody bs).getD 0 0) 1
def ownerOf (bs : List Byte) : List Byte := ((objBody bs).drop 0x10).take 512

/-- A configuration area is valid: signed by the enrolled owner, or by the key it names where none is enrolled (15 R502, R505). -/
def Flash.cfgGood (secret : Option (List Byte)) (bs : List Byte) (f : Flash) : Bool :=
  objGood 2 63872 bs && ((bs.drop 0x480).take 512).all (fun b => decide (b = 0)) && cfgLayout (objBody bs) &&
    (if f.enrolled secret then decide (sha512 (objSigner bs) = f.ownerKey) else decide (ownerOf bs = objSigner bs)) &&
    (!releases bs || (ownerOf bs).all (fun b => decide (b = 0)))

/-- A valid area is accepted whose serial is above the floor (15 R505). -/
def Flash.cfgNew (secret : Option (List Byte)) (bs : List Byte) (f : Flash) : Bool := f.cfgGood secret bs && decide (f.serialFloor < objVersion bs)

/-- The area that a boot reads: one that is accepted now, or was, so that the floor is its serial (log entry 87). -/
def Flash.area (secret : Option (List Byte)) (f : Flash) : CfgArea :=
  let b := objBody f.config
  if f.cfgGood secret f.config && decide (f.serialFloor ≤ objVersion f.config) then
    { good := true, cosign := bit (b.getD 0 0) 0, minFw := leAt 4 4 b, wait := leAt 8 4 b, owner := ownerOf f.config,
      entries := (List.range (leAt 0xC 4 b)).map (fun i => (leAt (0x210 + 16 * i) 8 b, w64At (0x218 + 16 * i) b)) }
  else { }

/-- The acceptance of an area changes the enrollment, and the floor becomes its serial (15 R505). -/
def Flash.enroll (secret : Option (List Byte)) (f : Flash) : Flash :=
  if f.cfgNew secret f.config then
    let g := { f with ownerKey := if releases f.config then [] else sha512 (ownerOf f.config), serialFloor := objVersion f.config }
    { g with ownerMac := macOf secret "mac" g.enrollment }
  else f

/-- A firmware image is valid (15 R502). -/
def fwGood (secret : Option (List Byte)) (c : CfgArea) (f : Flash) (bs : List Byte) : Bool :=
  objGood 1 1046912 bs && decide (sha512 (objSigner bs) = Config.vendorKeyHash) && decide (c.minFw ≤ objVersion bs) &&
    (!c.cosign || (f.enrolled secret && pssVerify c.owner (bs.take 0x280) ((bs.drop 0x480).take 512)))

/-- The slot that boots: the higher version, slot A where they are equal; ALTERNATE takes the other valid one (15 R494, R503). -/
def chooseSlot (secret : Option (List Byte)) (alt : Bool) (c : CfgArea) (f : Flash) : Option Bool :=
  match fwGood secret c f f.slotA, fwGood secret c f f.slotB with
  | false, false => none
  | true, false => some false
  | false, true => some true
  | true, true => some (decide (objVersion f.slotA < objVersion f.slotB) != alt)

/-! ## Start-up (15 R494 to R498, R503 to R509; 13 R435; 14 R478) -/

/-- The device secret from the PUF, and the identity key of the identity area, authenticated and unwrapped (15 R509, R510; log entry 212). -/
def State.unlock (s : State) : State :=
  let m := s.mg
  let k := Config.pufSecret m.flash.identity
  let w := Config.wrappedKey m.flash.identity
  let ok := macGood k "mac" w.1 w.2
  let key := match k with
    | some k => if ok then xorBytes w.1 (keystream (secKey k "wrap") w.1.length) else []
    | none => []
  s.setMg { m with secret := k, idKey := key, pufOk := k.isSome, identityOk := ok, trngOk := true,
                   deviceId := if ok then (sha512 (slice 0x40 512 (Config.certificate m.flash.identity))).take 32 else [] }

/-- The enrollment record and the configuration area (15 R504, R505). -/
def State.readConfig (s : State) : State :=
  let m := s.mg
  let f := m.flash
  let a := f.area m.secret
  s.setMg { m with cfgInvalid := !a.good || !macGood m.secret "mac" f.enrollment f.ownerMac, timeWait := a.wait, area := a,
                   flash := f.enroll m.secret, cfgDigest := if a.good then sha512 f.config else [] }

/-- Training: recorded pseudo-channels are left out. An interleave that changes clears all of HBM, and with it rings, captured
inputs, the commit log and the witness buffer (13 R435; R492). -/
def State.trainHbm (warm : Bool) (s : State) : State :=
  let bad := (s.mg.flash.record s.mg.secret).pcs
  let old := s.pcSlots
  let keep := fun (n : Nat) => warm && (s.pc n).mapped
  let pcs := (List.range 32).foldl (fun (t : Tbl Pc) n => Tbl.set { } n
    (if bad.contains n then { (if keep n then s.pc n else { }) with mapped := false, failed := true }
     else { (if keep n then s.pc n else { }) with mapped := true, failed := false }) t) []
  let s := s.setHbm { s.hbm with pcs := pcs }
  if warm ∧ s.pcSlots = old then s
  else
    let s := s.setHbm { s.hbm with mem := [], upset := [], cache := [] }
    let s := (s.setWit { s.wit with buffer := [] }).setTwin { s.twin with log := [] }
    { s with queues := s.queues.map (fun e => (e.1, { e.2 with outst := [], reorder := [], ring := [], overflow := [], merged := none, released := e.2.nextSeq - 1 })) }

/-- The mapping of 02 R39, and the units of the health record (15 R508). An invalid record counts as empty. -/
def State.applyHealth (s : State) : State :=
  let f := s.mg.flash
  let h := f.record s.mg.secret
  let s := s.setMg { s.mg with healthReset := !f.health.valid s.mg.secret && !f.healthOld.valid s.mg.secret, leFailed := h.engines, sgFailed := h.groups,
                               unitFault := s.mg.unitFault || !(h.tiles.isEmpty && h.pcs.isEmpty && h.engines.isEmpty && h.groups.isEmpty) }
  let s := { s with tileMap := (List.range 64).map (fun i => (i, 17 * (i / 16) + i % 16 + 1)) }
  h.tiles.foldl (fun s p => (s.updTile p (fun t => { t with failed := true })).remap p) s

/-- The register list, each entry as a REG_WRITE with a full mask; each that is applied is a journal entry, also where the register
had its value already (15 R506). -/
def State.applyList (l : List (Nat × W64)) (s : State) : State :=
  l.foldl (fun s e =>
    match s.peek e.1, s.poke e.1 e.2 (BitVec.allOnes 64) s.now byDevice with
    | some old, some t => t.journalNow byDevice (at64 e.1 0) (some (w64Bytes old)) (some (w64Bytes ((t.peek e.1).getD 0)))
    | _, _ => s.setMg { s.mg with cfgSkipped := satAdd s.mg.cfgSkipped 1 }) s

/-- The supply set point, chosen from monitors within 0.70 to 0.80 V, and its measurement within 3 % (18 R554 to R556). -/
def State.setSupply (s : State) : State :=
  let a := s.free
  let b := a.2.free
  let fail := bit a.1 63
  let v := if fail then 750 else 700 + fld a.1 0 16 % 101
  let w := v * 3 / 100
  b.2.setMg { b.2.mg with avsFail := fail, avsIn := true, avsSet := BitVec.ofNat 16 v, avsMeas := BitVec.ofNat 16 (v - w + b.1.toNat % (2 * w + 1)) }

/-- After start-up every domain but the tiles runs, save recorded loop engines and sense groups, which stay off (R508; log entry 88). -/
def State.fireAll (s : State) : State :=
  let off := s.mg.leFailed.map (· + 68) ++ s.mg.sgFailed.map (· + 93)
  (((List.range 116).drop 68).filter (fun d => !off.contains d)).foldl (fun s d => s.setDom d { rung := 0, target := 0 }) s

/-- No pseudo-channel trained: RECOVERY, with its status on the SMBus target alone (15 R514). -/
def State.noHbm (s : State) : State :=
  (s.setMg { s.mg with dev := .recovery, recoveryWhy := 4, fwVersion := 0 }).updQueue 0 (fun q => { q with enabled := false })

/-- RECOVERY (15 R514). -/
def State.recover (why : BitVec 3) (warm : Bool) (s : State) : State :=
  let s := s.trainHbm warm
  if s.pcSlots.isEmpty then s.noHbm
  else (s.setMg { s.mg with dev := .recovery, recoveryWhy := why, fwVersion := 0 }).updQueue 0 (fun q => { q with enabled := true })

/-- No time source is configured (15 R497). -/
def State.noSource (s : State) : Bool := decide (s.tb.src ≠ 3) && !bit (s.port 0).ctl 4 && !bit (s.port 1).ctl 4

/-- Firmware runs: the register list, the health record, HBM, and the tile start-up test, which a warm reset skips. -/
def State.runFirmware (warm : Bool) (bad : List Nat) (s : State) : State :=
  let l := if s.mg.bootSel = 3 then [] else s.mg.area.entries
  let s := (s.setMg { s.mg with fwStart := s.up }).applyList l
  let s := s.applyHealth
  let s := s.trainHbm warm
  if s.pcSlots.isEmpty then s.noHbm
  else
    let s := s.fireAll.setSupply
    let s := if warm then s else bad.foldl (fun s p => if p < 68 then s.failTile p else s) s
    s.setMg { s.mg with startUpTest := true }

/-- The ROM boot sequence, from the straps as sampled. -/
def State.boot (warm : Bool) (bad : List Nat) (s : State) : State :=
  let s := s.setMg { s.mg with dev := .startUp, inReset := false, strapErr := decide (5 ≤ s.mg.bootSel.toNat), recoveryWhy := 0, startUpTest := false, cfgSkipped := 0, releasedAt := s.up }
  let s := s.setTwin { s.twin with peerLowAt := if s.twin.peerActive then none else some s.up }
  if s.mg.bootSel = 4 then s.setMg { s.mg with dev := .test, fwVersion := 0 }
  else
    let s := (if warm then s else s.unlock).readConfig
    if s.mg.bootSel = 2 ∨ s.mg.bootSel.toNat ≥ 5 then s.recover 1 warm
    else if !s.mg.identityOk then s.recover 3 warm
    else
      match chooseSlot s.mg.secret (decide (s.mg.bootSel = 1)) s.mg.area s.mg.flash with
      | none => s.recover 2 warm
      | some b =>
        let im := if b then s.mg.flash.slotB else s.mg.flash.slotA
        let im := im.take (1664 + leAt 8 4 im)
        (s.setMg { s.mg with slotB := b, fwVersion := BitVec.ofNat 32 (objVersion im), fwDigest := sha512 im }).runFirmware warm bad

/-! ## FW_LOAD (15 R507) -/

def State.fwLoadGood (p : Packet) (s : State) : Bool :=
  p.desc && p.noExtra && decide (p.rest.length = 16 ∧ leAt 12 4 p.rest = 0 ∧ 0 < p.descLen ∧ p.descLen ≤ 1048576) && s.inHost p.descAddr p.descLen &&
    decide (p.hdr.w0 = 0 ∧ p.hdr.w1 = 0 ∧ p.hdr.w2 = 0 ∧ p.hdr.w3 = 0)

/-- An object is judged by the area in force, not by one that a load has written since (15 R507). -/
def Mgmt.accepts (m : Mgmt) (bs : List Byte) : Bool := fwGood m.secret m.area m.flash bs || m.flash.cfgNew m.secret bs

/-- The layout of the boot flash (15 R500): offset and bytes of an area. The two copies of the health record follow each other. -/
inductive FlashArea where
  | config | identity | health | slotA | slotB
  deriving DecidableEq, Repr

def FlashArea.offset : FlashArea → Nat
  | .config => 0x000000
  | .identity => 0x010000
  | .health => 0x020000
  | .slotA => 0x040000
  | .slotB => 0x140000

def FlashArea.size : FlashArea → Nat
  | .slotA => 0x100000
  | .slotB => 0x100000
  | _ => 0x10000

/-- The area that a load writes: that of configuration areas, or the slot that is invalid or of the lower version (15 R507). -/
def Mgmt.areaFor (m : Mgmt) (bs : List Byte) : FlashArea :=
  if leAt 4 2 bs = 2 then .config
  else
    match fwGood m.secret m.area m.flash m.flash.slotA, fwGood m.secret m.area m.flash m.flash.slotB with
    | false, _ => .slotA
    | true, false => .slotB
    | true, true => if objVersion m.flash.slotA < objVersion m.flash.slotB then .slotA else .slotB

/-- The flash with an object in one of its areas, as far as the area goes. -/
def Flash.store (a : FlashArea) (bs : List Byte) (f : Flash) : Flash :=
  let bs := bs.take a.size
  match a with
  | .config => { f with config := bs }
  | .identity => { f with identity := bs }
  | .slotA => { f with slotA := bs }
  | .slotB => { f with slotB := bs }
  | .health => f

def Flash.content (a : FlashArea) (f : Flash) : List Byte :=
  match a with
  | .config => f.config
  | .identity => f.identity
  | .slotA => f.slotA
  | .slotB => f.slotB
  | .health => []

/-- An invalid object writes nothing; the location is where its descriptor found it (log entry 185). -/
def State.fwLoad (o : Outst) (s : State) : State :=
  if s.mg.accepts o.captured then s.setMg { s.mg with load := some { queue := o.pkt.q, seq := o.seq, object := o.captured, ok := true } }
  else s.complete o.pkt.q o.seq { status := St.dataError, location := locHbm o.pkt.descAddr } { }

/-- The flash is written, read back and checked. -/
def State.fwLoadDone (s : State) : State :=
  match s.mg.load with
  | none => s
  | some l =>
    let at_ := s.mg.areaFor l.object
    let s := s.setMg { s.mg with load := none, flash := s.mg.flash.store at_ l.object }
    if !s.mg.accepts (s.mg.flash.content at_) then s.complete l.queue l.seq { status := St.dataError, location := ((s.outstOf l.queue l.seq).map (fun o => locHbm o.pkt.descAddr)).getD 0 } { }
    else (s.journalNow (s.causeOf l.queue l.seq) (objTarget 0 0x31) none none).complete l.queue l.seq { r0 := BitVec.ofNat 64 (objVersion l.object) } { }

/-- A FW_LOAD that a reset interrupted runs again from its captured inputs, marked RERUN (10 R331). -/
def State.resumeLoad (s : State) : State :=
  match s.mg.load, (s.queue 0).outst.find? (fun o => decide (o.pkt.op = 0x31)) with
  | none, some o => (s.updQueue 0 (fun v => { v with outst := v.outst.map (fun x => if x.seq = o.seq then { x with rerun := true } else x) })).fwLoad o
  | _, _ => s

/-! ## SERVICE (15 R497, R493; 10 R338) -/

/-- Whether START_UP ends now. -/
def State.serviceDue (s : State) : Bool :=
  decide (s.mg.dev = .startUp) && !s.mg.inReset && s.mg.startUpTest &&
    ((s.tb.qualified && s.tb.timescale) || decide (s.mg.fwStart + 1000000 * s.mg.timeWait ≤ s.up) || s.noSource)

/-- After a warm reset: records are offered again, accepted work runs again, and one journal entry records the reset. -/
def State.resumeWork (s : State) : State :=
  let s := s.journalNow byDevice (at64 8 0) none (some (w64Bytes s.mg.bootStat))
  let s := s.queues.foldl (fun s e => s.reoffer e.1) s
  (s.runAgain (fun _ _ => true)).resumeLoad

def State.enterService (s : State) : State :=
  if s.serviceDue then
    let s := s.setMg { s.mg with dev := .service }
    if s.mg.resetCause ≠ 0 then s.resumeWork else s
  else s

/-! ## The end of a replay (12 R421, R422) -/

/-- The replay's bindings are removed, the counter steps to the shadow counter's value, its increment and the time mode come
back, and REPLAY_START completes. -/
def State.replayEnd (flagged : Bool) (s : State) : State :=
  match s.wit.mode, s.wit.by_ with
  | .replay, some (q, sq) =>
    let s := s.removeAll
    let s := { s with lanes := [] }
    let s := match s.tb.shadow with
      | some c =>
        let b := { s.tb with sec := c.sec, ns := c.ns, frac := c.frac, inc := c.inc, shadow := none, steps := satAdd s.tb.steps 1, validRun := 0, qualified := false }
        (((s.setTb b).event 0x2C2 0 1).journalDev 0x40 0).resumeMode
      | none => s
    let bad := flagged || s.wit.strictMis || s.wit.gapMet
    let s := s.witChange byDevice (fun s => s.setWit { s.wit with mode := .off, log := [], logPos := 0, by_ := none, gapMet := false, strictMis := false,
                                                                  cuts := [], orders := [], accepts := [], results := [], seqMap := [] })
    let s := s.finish q sq (if bad then St.flagged else St.done)
    s.setMg { s.mg with dev := .service }
  | _, _ => s

/-! ## Resets (15 R490 to R493) -/

/-- No command arrives in reset, under the TEST strap, where only IEEE 1149 access works, nor without HBM (15 R494, R514). -/
def State.mute (s : State) : Bool := s.mg.inReset || (decide (s.mg.dev = .test) && decide (s.wit.mode ≠ .replay)) || decide (s.mg.recoveryWhy = 4)

/-- A power-on reset: all but the flash, the levels that are driven from outside (the PWM_SAFE balls, the peer's pin) and what waits
outside the device. -/
def State.powerOn (s : State) : State :=
  let f := s.mg.flash
  let f := if s.mg.healthClear then f.newRecord s.mg.secret { } else f
  let r := State.reset
  { r with pending := s.pending, freeIx := s.freeIx, mg := { r.mg with flash := f, safeBall := s.mg.safeBall }, twin := { r.twin with peerActive := s.twin.peerActive } }

/-- Work that a warm reset cuts off: recording ends, a replay ends flagged, the pair is left, every binding is removed, and
what is left of the control plane completes flagged, but for a FW_LOAD (15 R493; log entry 89). -/
def State.cutOff (s : State) : State :=
  let s := match s.wit.mode with
    | .record => s.recordEnd byDevice
    | .replay => s.replayEnd true
    | .off => s
  let s := s.leavePair 5
  let s := s.removeAll
  s.queues.foldl (fun s e => e.2.outst.foldl (fun s o => if o.pkt.isData || o.inv || decide (o.pkt.op = 0x31) then s else s.finish e.1 o.seq St.flagged) s) s

/-- A tile after a warm reset: stores of ON and RETAIN banks and the I-store are kept (02 R73). -/
def Tile.warm (t : Tile) : Tile :=
  { failed := t.failed, mem := t.mem, upset := t.upset, banks := t.banks, residents := t.residents, coolBanks := t.coolBanks, dryKeep := t.dryKeep,
    lost := t.lost, written := t.written }

/-- What a warm reset keeps (15 R492); every other register has its reset value (log entry 90). -/
def State.keptOver (s : State) : State :=
  let r := State.reset
  let m := s.mg
  let b := s.tb
  { r with
    pending := s.pending
    freeIx := s.freeIx
    tb := { b with shadow := none }
    mg := { r.mg with flash := m.flash, journal := m.journal, bootSel := m.bootSel, twinPref := m.twinPref, pwmSafe := m.pwmSafe, safeBall := m.safeBall, detDefault := m.detDefault,
                      healthClear := m.healthClear, trngFails := m.trngFails, trngOk := m.trngOk, identityOk := m.identityOk, pufOk := m.pufOk, deviceId := m.deviceId, secret := m.secret, idKey := m.idKey,
                      wdExpired := m.wdExpired, devregUnc := m.devregUnc, unitFault := m.unitFault, alerts := m.alerts.filter (fun a => decide (a = .watchdog ∨ a = .unit ∨ a = .pseudoChannel)) }
    queues := s.queues.map (fun e => (e.1, e.2))
    kiln := { r.kiln with capMw := s.kiln.capMw, depth := s.kiln.depth }
    doms := s.doms.map (fun e => (e.1, { rung := e.2.rung, target := e.2.rung }))
    tiles := s.tiles.map (fun e => (e.1, Tile.warm e.2))
    hbm := { s.hbm with pinned := [], pins := [], waiting := [], ctl := r.hbm.ctl }
    twin := { r.twin with ctl := s.twin.ctl, peerActive := s.twin.peerActive, applied := s.twin.applied, commitIx := s.twin.commitIx, log := s.twin.log, out := s.twin.out,
                          leaveReason := s.twin.leaveReason }
    wit := { r.wit with buffer := s.wit.buffer, outputs := s.wit.outputs, lseq := s.wit.lseq, entries := s.wit.entries } }

/-- A warm reset of a cause: 1 RESET_N, 2 MG_RESET_CTL, 3 watchdog. Only RESET_N waits for its release and samples the straps
again. -/
def State.warmReset (cause : Nat) (s : State) : State :=
  let due := cause = 1 ∨ s.mg.warmAt.any (fun w => decide (w.2 = cause ∧ w.1 ≤ s.up))
  if s.mg.inReset ∨ ¬ due then s
  else
    let s := s.cutOff.flushCache.keptOver
    let s := s.setMg { s.mg with resetCause := BitVec.ofNat 3 cause, inReset := true }
    if cause = 1 then s else s.boot true []

/-- RESET_N rises: the straps are sampled and the ROM runs. -/
def State.release (sel : BitVec 3) (pref : Bool) (safe : BitVec 2) (bad : List Nat) (s : State) : State :=
  if !s.mg.inReset then s
  else
    let s := s.setMg { s.mg with bootSel := sel, twinPref := pref, pwmSafe := safe, safeBall := safe }
    s.boot (decide (s.mg.resetCause ≠ 0)) bad

/-- The device watchdog expires (14 R455). The reset starts 1 ms later (15 R491). -/
def State.watchdog (s : State) : State :=
  if s.mg.inReset || s.twin.wdGone then s
  else
    let s := s.setTwin { s.twin with active := false, wdGone := true }
    let old := s.faultReg
    let s := ((s.setMg { s.mg with wdExpired := true, warmAt := s.mg.warmAt ++ [(s.up + 1000000, 3)] }).raiseAlert .watchdog).raiseTrip 82
    let s := s.journalNow byDevice faultAddr (some (w64Bytes old)) (some (w64Bytes s.faultReg))
    s.leavePair 5

/-! ## ATTEST (15 R512, R513) -/

def attestGood (p : Packet) (s : State) : Bool :=
  p.holds 32 && decide (fld p.hdr.w0 40 24 = 0 ∧ p.hdr.w1 = 0 ∧ p.hdr.w2 = 0 ∧ p.hdr.w3 = 0) && s.inHost (fld p.hdr.w0 0 40) 2112

/-- The report body without its signature. -/
def State.reportBody (nonce : List Byte) (s : State) : List Byte :=
  let m := s.mg
  let d := match m.journal.digest with
    | some d => d
    | none => sha512 []
  leBytes 4 0x51574154 ++ leBytes 2 1 ++ zeros 2 ++ stampBytes s.now ++ leBytes 1 (fld mgId 16 8) ++ leBytes 1 (fld mgId 0 8) ++ w64Bytes m.bootStat ++ zeros 4 ++
    nonce ++ slice 0 32 m.deviceId ++ slice 0 64 m.fwDigest ++ slice 0 64 m.cfgDigest ++ slice 0 64 (if m.flash.enrolled m.secret then m.flash.ownerKey else []) ++ d ++
    w64Bytes m.journal.index ++ w64Bytes s.faultReg ++ w64Bytes s.twin.stat ++ zeros 136

/-- The report goes to HBM; without identity or TRNG it is not signed. -/
def State.attest (o : Outst) (s : State) : State :=
  let b := s.reportBody o.pkt.rest
  let ok := s.mg.identityOk && s.mg.trngOk
  let sig := if ok then slice 0 512 (Config.identitySign s.mg.idKey b s.freeIx) else zeros 512
  let s := { s with freeIx := s.freeIx + 1 }
  let r := s.hbmWrite (fld o.pkt.hdr.w0 0 40) (b ++ sig ++ slice 0 1088 (Config.certificate s.mg.flash.identity))
  match r.2 with
  | some x => r.1.complete o.pkt.q o.seq { status := St.dataError, location := locHbm x } { }
  | none => r.1.complete o.pkt.q o.seq { status := if ok then St.done else St.flagged, r0 := 2112 } { }

/-! ## JOURNAL_READ (10 R347) -/

def journalGood (p : Packet) (s : State) : Bool :=
  p.bare 3 && decide (1 ≤ p.hdr.w1.toNat ∧ p.hdr.w1.toNat ≤ 4096 ∧ fld p.hdr.w2 40 24 = 0) && s.inHost (fld p.hdr.w2 0 40) (64 * p.hdr.w1.toNat)

/-- Journal entries as they are read from the ring: one whose slot is not readable is all ones (14 R480). Answers whether there
was one. -/
def State.journalEntries : List Nat → State → List Byte × Bool × State
  | [], s => ([], false, s)
  | i :: is, s =>
    let d := s.devRead 3 (i % 4096) 0 64
    let r := State.journalEntries is d.1
    ((if d.2.isSome then List.replicate 64 0xFF else slice 0 64 (Tbl.get [] (i % 4096) s.mg.journal.ring)) ++ r.1, d.2.isSome || r.2.1, r.2.2)

/-- The entries of the range that the ring still holds, in order. -/
def State.journalRead (o : Outst) (s : State) : State :=
  let n := s.mg.journal.index.toNat
  let is := ((List.range o.pkt.hdr.w1.toNat).map (· + o.pkt.hdr.w0.toNat)).filter (fun i => decide (i < n ∧ n ≤ i + 4096))
  let e := s.journalEntries is
  let r := e.2.2.hbmWrite (fld o.pkt.hdr.w2 0 40) e.1
  match r.2 with
  | some x => r.1.complete o.pkt.q o.seq { status := St.dataError, location := locHbm x } { }
  | none => r.1.complete o.pkt.q o.seq { status := if e.2.1 then St.flagged else St.done, r0 := BitVec.ofNat 64 is.length, r1 := s.mg.journal.index } { }

/-! ## The events -/

/-- PWR_GOOD low, or RESET_N low for 1 ms (R490). -/
def execPowerOnReset (s : State) : Res := .next s.powerOn

/-- A warm reset (R493). -/
def execWarmReset (cause : Nat) (s : State) : Res := if 1 ≤ cause ∧ cause ≤ 3 then .next (s.warmReset cause) else .fault .noSuchUnit

/-- RESET_N rises (R494, R496). -/
def execResetRelease (bootSel : BitVec 3) (twinPref : Bool) (pwmSafe : BitVec 2) (failedTiles : List Nat) (s : State) : Res :=
  .next (s.release bootSel twinPref pwmSafe failedTiles)

/-- START_UP ends (R497). -/
def execEnterService (s : State) : Res := .next s.enterService

/-- The boot flash has taken a firmware load (R507). -/
def execFwLoadDone (s : State) : Res := .next s.fwLoadDone

/-- A health test of the TRNG fails, or passes again (R511). -/
def execTrngHealthFail (fail : Bool) (s : State) : Res :=
  .next (if fail then s.setMg { s.mg with trngOk := false, trngFails := satAdd s.mg.trngFails 1 } else s.setMg { s.mg with trngOk := true })

/-- The device watchdog (14 R455). -/
def execWatchdogExpiry (s : State) : Res := .next s.watchdog

end Sys2Proof.Machine
end

