-- ==== Sys2Proof/Machine/Twin.lean ====
section
/-!
DEFINITION. The twin: joining and leaving a pair, heartbeats, the commit log on both sides, catch-up and the timebase lock
(14 R452 to R474, R485; 16 R532, R536; 12 R409; 01 R33 to R35).
-/

set_option Elab.async false

namespace Sys2Proof.Machine

open Sys2Proof

/-- The device is in a pair whose peer it has not lost. -/
def State.together (s : State) : Bool := decide (s.twin.pair ≠ .none) && decide (s.twin.pair ≠ .lost)

/-! ## ATTACH (R460; 01 R29, R33, R35) -/

def attachGood (p : Packet) : Bool := p.bare 0

/-- Row 4: not in a LONG state, nor in a replay, which is one. -/
def State.attachSynced (s : State) : Bool := !s.stampLong

/-- A slot, lane, push channel, pair, link or standing job is bound (15 R492). -/
def State.anythingBound (s : State) : Bool :=
  s.anySlotBound || !s.bindings.isEmpty || s.anyLinkBound || s.pushes.any (fun e => e.2.en) || s.pairs.any (fun e => e.2.en) ||
    s.lanes.any (fun e => decide (e.2.kind ≠ 0))

/-- What the peer allows is known to this device by no message: a free value (log entry 91). -/
def State.attachFeasible (s : State) : Bool :=
  let t := s.twin
  decide (t.role = .solo) && decide (t.pair = .none) && !s.anythingBound && t.attachBy.isNone && t.detachAt.isNone &&
    (decide (t.peerRole = .solo) || (decide (t.peerRole = .active) && decide (t.peerPair = .lost))) &&
    Config.peerAllows s.freeIx && decide (Config.peerPref ≠ s.mg.twinPref)

/-- A context on demand leaves its tile without a record. -/
def State.dropContext (p w : Nat) (s : State) : State :=
  match s.ctx p w with
  | some c => if c.job.binding.isSome then s else s.updTile p (Tile.leave w s.now false c)
  | none => s

/-- Work that a STANDBY device does not do leaves it: queued jobs, contexts on demand, streams and pins (01 R29). -/
def State.handOver (s : State) : State :=
  let s := s.setKiln { s.kiln with ready := [], swapped := [] }
  let s := s.tiles.foldl (fun s e => (s.dropContext e.1 0).dropContext e.1 1) s
  (s.setUsb { s.usb with gets := [] }).setHbm { s.hbm with pins := [] }

/-- The joining device's own accepted work ends before its queues are replaced: what the data plane has left fails, control-plane commands
but Q0's end flagged, and the records are released (R327; DESIGN CHOICE, log entry 189). -/
def State.endOwn (s : State) : State :=
  let s := s.queues.foldl (fun s e => e.2.outst.foldl (fun s o =>
    if o.pkt.isData then s.dropWork e.1 o.seq St.unit (locUnit 0 0) else if e.1 = 0 then s else s.finish e.1 o.seq St.flagged) s) s
  s.queues.foldl (fun s e => e.2.reorder.foldl (fun s _ => s.releaseNext e.1) s) s

/-- An ATTACH is accepted: it frees the pin and the alert of a conflict (R453, R470), and the timebases are to lock. -/
def State.attach (o : Outst) (s : State) : State :=
  (s.setTwin { s.twin with blocked := false, attachBy := some (o.pkt.q, o.seq), hbMissed := 0, hbSeen := true }).unalert .promoteBlocked

/-- The timebases are locked within 2 ns: the joining device becomes STANDBY, and BULK begins. One that has bound something meanwhile does
not join (DESIGN CHOICE, log entry 189). -/
def State.enterBulk (s : State) : State :=
  if s.anythingBound then s.attachEnds St.flagged
  else
    let s := s.endOwn.handOver
    let v := { s.twin with role := .standby, pair := .bulk, active := false, enabled := false,
                           shadowDone := [], received := [], entries := [], mirrors := [], early := [], declared := none, hbMissed := 0, hbSeen := true }
    (s.twinChange v).fireHeld

/-- A standing binding that the STANDBY device makes takes the ACTIVE device's count of invocations; its stores are brought
across by catch-up. -/
def Binding.joined (now : Nat) (v : Binding) : Binding :=
  match v.first with
  | some c => if c ≤ now ∧ v.period ≠ 0 then { v with inv := (now - c) / v.period + 1, next := c + ((now - c) / v.period + 1) * v.period, catchup := true }
      else { v with catchup := true }
  | none => { v with catchup := true }

/-- One binding of the ACTIVE device, with the same counts; `b` is the index of a standing binding. -/
def State.joinBinding (b : Nat) (p : Packet) (s : State) : State :=
  let o : Outst := { seq := 0, accept := s.now, pkt := p, captured := [] }
  match p.op with
  | 0x1001 => s.bindSlot o
  | 0x1004 => (s.bindStandingAs b o).updBinding b (Binding.joined s.now)
  | 0x1005 => s.bindLane o
  | 0x1006 => s.bindPwm o
  | 0x1007 => s.bindLink o
  | _ => s

/-- A link goes on where the ACTIVE device's is, so that both compute the same frames and take the same echoes (09 R309). -/
def State.joinLink (k : LinkCopy) (s : State) : State :=
  s.updLink k.link (fun x => { x with seq := k.seq, bseq := k.bseq, echoFor := k.echoFor, wasUp := k.wasUp, delayUi := k.delayUi,
                                      sent := k.sent, beaconAt := k.beaconAt, records := k.records, txRd := k.txRd, cmd := k.cmd })

/-- What FINAL copies leaves the ACTIVE device: its queues and the commit index; Q0 is each device's own (R339, R460). -/
def State.sendFinal (s : State) : State := s.tell (.finalCopy (s.queues.filter (fun e => decide (e.1 ≠ 0))) s.twin.applied)

/-- The end of BULK: on the joining device the host range, the section copies and the bindings stand. -/
def State.bulkDone (mem : List (Nat × List Byte)) (copies : BulkCopy) (binds : List (Nat × Packet)) (s : State) : State :=
  if s.twin.pair ≠ .bulk then s
  else
    let s := if s.twin.role = .standby then
        let s := mem.foldl (fun s e => (s.hbmWrite e.1 e.2).1) s
        let s := s.setKiln { s.kiln with copies := copies.sections }
        let s := binds.foldl (fun s e => s.joinBinding e.1 e.2) s
        copies.links.foldl (fun s k => s.joinLink k) s
      else s.sendFinal
    s.twinChange { s.twin with pair := .final }

/-- A control-plane command that was outstanding when the queues were copied waits here too. -/
def State.joinCommand (o : Outst) (s : State) : State :=
  match o.pkt.op with
  | 0x1002 => s.unbind o
  | 0x1003 => s.swapCoef o
  | 0x1008 => s.launch o
  | _ => s

/-- A binding of the device that has not been caught up makes a pair CATCHUP instead of SYNCED (R459). -/
def State.syncedState (s : State) : PairSt := if s.bindings.any (fun e => e.2.catchup) then .catchup else .synced

/-- The end of FINAL: the rings, captured inputs, records, tags, sequence counters and the commit index stand; Q0 is each
device's own (R339). -/
def State.finalDone (qs : List (Nat × Queue)) (ix : BitVec 64) (s : State) : State :=
  if s.twin.pair ≠ .final then s
  else if s.twin.role = .standby then
    let qs := qs.filter (fun e => decide (e.1 ≠ 0 ∧ e.1 < 4096))
    let s := qs.foldl (fun s e => s.setQueue e.1 e.2) s
    let s := s.setTwin { s.twin with applied := ix, commitIx := ix.toNat }
    let s := qs.foldl (fun s e => (e.2.outst.filter (fun o => !o.inv)).foldl (fun s o => s.joinCommand o) s) s
    let s := (s.twinChange { s.twin with pair := s.syncedState }).attachEnds St.done
    ((s.bindings.filter (fun e => e.2.catchup)).map (·.1)).foldl (fun s b => s.tell (.catchupReq b)) s
  else s.twinChange { s.twin with pair := .synced }

/-! ## DETACH and ROLE_SWAP (R462, R463) -/

/-- Accepting DETACH frees a pin that a conflict had lowered (R453). -/
def State.detach (o : Outst) (s : State) : State := s.setTwin { s.twin with blocked := false, detachAt := some (o.accept + 10000, o.pkt.q, o.seq) }

def State.detachFeasible (s : State) : Bool := s.twin.detachAt.isNone

def State.roleSwapFeasible (s : State) : Bool := decide (s.twin.role = .active) && decide (s.twin.pair = .synced) && s.twin.swapAt.isNone

/-- From acceptance no on-demand job is dispatched. -/
def State.roleSwap (o : Outst) (s : State) : State := s.setTwin { s.twin with swapAt := some (o.accept + 100000, o.pkt.q, o.seq) }

/-- An on-demand job is on a tile. One that is swapped out does not run, and no dispatch takes it back. -/
def State.onDemandRunning (s : State) : Bool :=
  let is := fun (c : Option Ctx) => c.any (fun c => c.live && c.job.binding.isNone)
  s.tiles.any (fun e => is e.2.ctx0 || is e.2.ctx1)

/-! ## Heartbeats and the timebase lock (R457; 12 R409; 16 R536; 01 R34, R35) -/

/-- A heartbeat leaves at each multiple of 1,000 ns, a timebase-lock message at each multiple of 10 µs: in every state of the pair, since
the timebases lock before there is one (R460). -/
def State.heartbeat (s : State) : State :=
  let t := s.twin
  let k := s.now / 1000
  if k = t.hbCount ∨ t.linkState ≠ 3 ∨ t.wdGone ∨ s.mg.inReset then s
  else
    let s := s.setTwin { t with hbCount := k, out := t.out ++ [.heartbeat t.role t.pair t.applied (short s.now)] }
    if k % 10 = 0 then s.tell .lock else s

/-- 2 ns, the bound of the twin lock, in 2⁻¹⁶ ns (01 R34; R460). -/
def lockBound : Int := 131072

/-- The offset of the twin lock moves the servo of a STANDBY device, or of one that joins, until its pair begins. A STANDBY device reports
holdover while the ACTIVE device is in FREE, and its recorder logs that (01 R34, R36). A flit sent again measures nothing. Times in 2⁻¹⁶ ns. -/
def State.twinLock (egress arrival : Int) (resent : Bool) (s : State) : State :=
  let standby := decide (s.twin.role = .standby)
  if resent ∨ !(standby || s.joining) then s
  else
    let theta := arrival - (fld s.twin.dly 0 32 : Int) - egress - Config.twinDelay
    let free := if standby then Config.peerFree s.freeIx else s.tb.holdover
    let was := s.tb.holdover
    let s := { s with freeIx := s.freeIx + 1 }.setTb { s.tb with theta := theta, lastOffset := s.up, holdover := free }
    let s := s.servoUpdate theta true
    let s := if free = was then s else timeEvent (if free then 1 else 2) s
    if !standby && decide (theta.natAbs ≤ lockBound.toNat) then s.enterBulk else s

/-! ## The commit log (R464 to R467, R472) -/

/-- Ranges of a kind-1 payload: a header of address and length, then the data padded to 64 bytes. -/
def effectRanges : Nat → List Byte → List (Nat × List Byte)
  | 0, _ => []
  | n + 1, bs =>
    if bs.length < 16 then []
    else (leAt 0 8 bs, slice 16 (leAt 8 8 bs) bs) :: effectRanges n (bs.drop (16 + roundUp 64 (leAt 8 8 bs)))

/-- Sections of a kind-2 payload. -/
def effectSections : Nat → List Byte → List (Nat × List Byte)
  | 0, _ => []
  | n + 1, bs =>
    if bs.length < 8 then []
    else (leAt 0 4 bs, slice 8 (leAt 4 4 bs) bs) :: effectSections n (bs.drop (8 + leAt 4 4 bs))

/-- Staged values of a kind-3 payload. -/
def effectValues (bs : List Byte) : Tbl W32 :=
  (mailboxesIn (bs.take 32)).zipIdx.map (fun e => (e.1, w32At (32 + 4 * e.2) bs))

/-- The effects of an entry (R465). -/
def State.entryEffects (kind : Nat) (r : Record) (digest payload : List Byte) (s : State) : State :=
  match kind with
  | 1 => (effectRanges payload.length payload).foldl (fun s e => (s.hbmWrite e.1 e.2).1) s
  | 2 =>
    let parts := effectSections payload.length payload
    let ranges := (parts.filter (fun e => decide (e.1 = 0xFFFFFFFF))).flatMap (fun e => effectRanges e.2.length e.2)
    let s := ranges.foldl (fun s e => (s.hbmWrite e.1 e.2).1) s
    (match s.outstOf r.queue r.seq with
     | some o => s.keepSections (s.imageOf o.pkt) digest (parts.filter (fun e => decide (e.1 ≠ 0xFFFFFFFF))) none
     | none => s)
  | 3 => s.compareRun r (effectValues payload)
  | _ => s

/-- The record that waits for its publish count is the entry's own. -/
def State.releaseHeld (r : Record) (s : State) : State :=
  match s.invocationOf r with
  | none => s
  | some (b, v) => s.setBinding b { v with pubs := v.pubs.map (fun x => if x.qseq = r.seq then { x with held := none } else x) }

/-- The entry's record stands in the reorder buffer, in place of the device's own, and waits for nothing. Q0 is each device's own, and its
records stay with it (10 R339). -/
def State.entryRecord (ix kind : Nat) (r : Record) (payload : List Byte) (s : State) : State :=
  let v := s.queue r.queue
  let cap := match v.outst.find? (fun o => decide (o.seq = r.seq)), v.reorder.find? (fun d => decide (d.record.seq = r.seq)) with
    | some o, _ => o.captured.length
    | none, some d => d.capBytes
    | none, none => 0
  if r.queue = 0 ∨ r.seq ≤ v.released then s
  else
    let d : Done := { record := r, commit := ix, mirrored := true, capBytes := cap, tput := false, vals := if kind = 3 then payload.drop 32 else [] }
    (s.releaseHeld r).setQueue r.queue { v with outst := v.outst.filter (fun o => decide (o.seq ≠ r.seq)),
                                                reorder := v.reorder.filter (fun x => decide (x.record.seq ≠ r.seq)) ++ [d] }

/-- An entry is written to the commit log and takes effect (R464, R467). One that is not readable, and cannot be read from the peer again, fails its command (R480). -/
def State.applyEntry (en : List Byte) (s : State) : State :=
  let ix := leAt 0 8 en
  let kind := leAt 8 1 en
  let payload := slice 224 (leAt 16 8 en) en
  let r := recordOf (slice 0x20 64 en) (slice 0x60 64 en)
  let d := (s.logEntry ix en).pairRead 2 ix 0 en.length
  let s := match d.2 with
    | some x => d.1.entryRecord ix 0 (lostRecord x r) []
    | none => (d.1.entryEffects kind r (slice 0xA0 64 en) payload).entryRecord ix kind r payload
  (s.setTwin { s.twin with applied := BitVec.ofNat 64 ix, commitIx := ix }).tell (.ackEntry ix)

/-- Entries are applied in index order, as far as they have come. -/
def State.applyReceived : Nat → State → State
  | 0, s => s
  | n + 1, s =>
    match s.twin.received.find? (fun e => decide (leAt 0 8 e = s.twin.applied.toNat + 1)) with
    | some e => State.applyReceived n ((s.setTwin { s.twin with received := s.twin.received.filter (fun x => decide (leAt 0 8 x ≠ leAt 0 8 e)) }).applyEntry e)
    | none => s

/-- An entry arrives; one that is applied already, or waits already, is ignored (R467). -/
def State.entryIn (en : List Byte) (s : State) : State :=
  let ix := leAt 0 8 en
  if s.twin.role ≠ .standby ∨ !(s.mirrored || decide (s.twin.pair = .lost)) ∨ en.length < 224 ∨ ix ≤ s.twin.applied.toNat ∨
      s.twin.received.any (fun e => decide (leAt 0 8 e = ix)) then s
  else
    let l := s.twin.received ++ [en]
    State.applyReceived l.length (s.setTwin { s.twin with received := l })

/-- The peer has an entry, and all before it: their records may be released. -/
def State.entryAcked (ix : Nat) (s : State) : State :=
  let got := s.twin.entries.filter (fun e => decide (e.1 ≤ ix))
  let s := s.setTwin { s.twin with entries := s.twin.entries.filter (fun e => decide (ix < e.1)) }
  { s with queues := s.queues.map (fun e => (e.1, { e.2 with reorder := e.2.reorder.map (fun d =>
      if got.any (fun g => decide (g.1 = d.commit)) then { d with mirrored := true } else d) })) }

/-! ## Catch-up (R461, R478, R485) -/

/-- CATCHUP of a STANDBY device ends when no test runs, every binding is caught up and every slot has its shadow (R485). -/
def State.catchupEnd (s : State) : State :=
  let t := s.twin
  if t.role = .standby ∧ t.pair = .catchup ∧ s.kiln.tests = [] ∧ !s.bindings.any (fun e => e.2.catchup) ∧
      s.slots.all (fun e => decide (e.2.st ≠ .running) || t.shadowDone.contains e.1) then
    s.twinChange { t with pair := .synced }
  else s

/-- The store and the offset of a place in a tile's window. -/
def storeAt (o : Nat) : Option (Nat × Nat) :=
  ((List.range 4).find? (fun st => decide (storeBase st ≤ o ∧ o < storeBase st + storeSize st))).map (fun st => (st, o - storeBase st))

/-- A piece of a copy set is written to the stores of a binding's tile. -/
def State.installPiece (p : Nat) (im : Image) (e : Nat × List Byte) (s : State) : State :=
  match storeAt e.1 with
  | some x => (s.storeWrite p x.1 x.2 e.2).updTile p (Tile.noteWrite im x.1 x.2 e.2.length)
  | none => s

/-- A copy set is installed between two invocations of the binding, but for the areas of open receive coils. -/
def State.catchUp (b : Nat) (data : List (Nat × List Byte)) (s : State) : State :=
  match s.binding b with
  | none => s
  | some v =>
    if !v.catchup || v.running || v.toStart || !s.mirrored then s
    else
      match s.phys v.ltile with
      | none => s
      | some p =>
        let areas := match (s.tile p).slotOf b with
          | some w => (match s.ctx p w with
            | some c => c.rxAreas
            | none => [])
          | none => []
        let kept := areas.map (fun a => (a.1, a.2.1, Mem.bytes (storeBase a.1 + a.2.1) a.2.2 (s.tile p).mem))
        let s := data.foldl (fun s e => s.installPiece p v.image e) s
        let s := kept.foldl (fun s e => s.storeWrite p e.1 e.2.1 e.2.2) s
        let s := s.setBinding b { v with catchup := false, firstRerun := false }
        (s.setTwin { s.twin with catchups := satAdd s.twin.catchups 1 }).catchupEnd

/-! ## The link (16 R532) -/

/-- The link trains while its domain is at FIRE. -/
def State.linkTrained (s : State) : State :=
  if (s.dom 105).rung = 0 then s.setTwin { s.twin with linkState := 3, lanesLocked := 15, retryRun := 0, nakSent := false } else s

/-- A lane loses lock: the link trains again, and no heartbeat arrives meanwhile (R458). -/
def State.laneLost (n : Nat) (s : State) : State :=
  s.setTwin { s.twin with lanesLocked := s.twin.lanesLocked &&& ~~~(BitVec.ofNat 4 (2 ^ n)), lockLoss := satAdd s.twin.lockLoss 1, linkState := 1 }

/-! ## The events -/

/-- The BULK copy ends; what it brought to the joining device arrives from outside (R460). -/
def execAttachBulkDone (mem : List (Nat × List Byte)) (copies : BulkCopy) (binds : List (Nat × Packet)) (s : State) : Res :=
  .next (s.bulkDone mem copies binds)

/-- FINAL ends; the queues and the commit index arrive from outside (R460). -/
def execAttachFinalDone (qs : List (Nat × Queue)) (ix : BitVec 64) (s : State) : Res := .next (s.finalDone qs ix)

/-- A count that is a multiple of 1,000 ns (R457). -/
def execHeartbeatSend (s : State) : Res := .next s.heartbeat

/-- A timebase-lock flit arrives (12 R409; 16 R536). -/
def execTimebaseLockReceived (egress arrival : Int) (resent : Bool) (s : State) : Res := .next (s.twinLock egress arrival resent)

/-- A commit entry arrives (R467). -/
def execCommitEntryReceived (en : List Byte) (s : State) : Res := .next (s.entryIn en)

/-- The peer acknowledges commit entries (R464). -/
def execCommitMirrorAck (ix : Nat) (s : State) : Res := .next (s.entryAcked ix)

/-- The record whose turn it is leaves the reorder buffer (10 R335). -/
def execCompletionRelease (q : Nat) (s : State) : Res := within q 4096 (s.releaseNext q)

/-- A copy set arrives (R461). -/
def execCatchup (b : Nat) (data : List (Nat × List Byte)) (s : State) : Res := .next (s.catchUp b data)

/-- A loop-state shadow arrives on the STANDBY device (R473). -/
def execLoopShadowReceived (e sl : Nat) (image : List Byte) (crc : BitVec 32) (s : State) : Res :=
  withinSlot e sl (s.shadowIn (slotIx e sl) image crc).catchupEnd

/-- The twin link has trained (16 R532). -/
def execTwinLinkTrained (s : State) : Res := .next s.linkTrained

/-- A lane loses lock (16 R532). -/
def execTwinLaneLockLoss (lane : Nat) (s : State) : Res := within lane 4 (s.laneLost lane)

end Sys2Proof.Machine
end

