-- ==== Sys2Proof/Machine/Host.lean ====
section
/-!
DEFINITION. The host's ports: USB, the pending map, telemetry and the SMBus target (10 R348 to R351; 16 R519 to R523, R537;
18 R571, R572).
-/

set_option Elab.async false

namespace Sys2Proof.Machine

open Sys2Proof

/-! ## The pending map (10 R349) -/

/-- A piece is sent when one of its bits has changed, coalesce_us after the last piece; in U3 it waits. -/
def State.pendingPiece (i : Nat) (s : State) : State :=
  let u := s.usb
  let quiet := match u.lastPiece with
    | some t => decide (t + 1000 * u.coalesce.toNat ≤ s.up)
    | none => true
  if u.u3 || decide (u.speed = 0) || decide (s.mapPiece i = Tbl.get (zeros 32) i u.mapSent) || !quiet then s else s.sendPiece i

/-! ## What the device presents (16 R519, R520) -/

/-- Class, subclass and protocol of the one interface. -/
def usbClass : Nat × Nat × Nat := (0xFF, 0, 0)
def usbProduct : Nat := 0x0064
def usbDevice : Nat := 0x00B1
def usbMaxPower : Nat := 0

/-- An endpoint: bytes of a packet at SuperSpeed and at High-Speed, bursts above the first, and streams, or for EP3 the interval. -/
structure Endpoint where
  superPacket : Nat
  highPacket : Nat
  maxBurst : Nat := 0
  streams : Nat := 0
  interval : Nat := 0
  deriving DecidableEq, Repr

def usbEp1 : Endpoint := { superPacket := 1024, highPacket := 512, maxBurst := 15 }
def usbEp2 : Endpoint := { superPacket := 1024, highPacket := 512, maxBurst := 15, streams := 16 }
def usbEp3 : Endpoint := { superPacket := 64, highPacket := 64, interval := 1 }

/-! ## The link (16 R519, R521, R522) -/

/-- The modes of the port: High-Speed, Gen 1x1, Gen 2x1, Gen 2x2. Which row trains is outside the device; High-Speed comes only where
no other has trained 100 ms after the release of reset, which stands for VBUS (log entry 215). -/
def State.usbTrained (v : BitVec 3) (s : State) : State :=
  if s.mg.inReset ∨ v = 0 ∨ 5 ≤ v.toNat ∨ (v = 1 ∧ s.up < s.mg.releasedAt + 100000000) then s else (s.setUsb { s.usb with speed := v, u3 := false, lowPower := 0 }).sendAllPieces

/-- A stream goes on: how many bytes leave meanwhile is not stated; the last is DATA_GET_DONE's. In U3 none does (16 R521). -/
def State.streamsOn (s : State) : State :=
  if s.usb.u3 || s.usb.gets.isEmpty then s
  else
    let a := s.free
    a.2.setUsb { a.2.usb with gets := a.2.usb.gets.map (fun g => { g with sent := min (g.len - 1) (g.sent + a.1.toNat % 65536) }) }

/-- A stream that a bus reset cuts off has delivered its first bytes, and ends at the first byte not delivered. -/
def State.cutGet (g : Stream) (s : State) : State :=
  let s := s.setUsb { s.usb with ep2data := s.usb.ep2data ++ [(g.stream, s.hbmBytes g.src g.sent)] }
  s.complete g.queue g.seq { status := St.dataError, location := locHbm (g.src + g.sent) } { }

/-- A bus reset, a disconnect or a link failure: what was not delivered is not sent again. -/
def State.busReset (s : State) : State :=
  let gs := s.usb.gets
  let s := s.setUsb { s.usb with speed := 0, u3 := false, lowPower := 0, wake := false, held := [], gets := [], lastPiece := none }
  gs.foldl (fun s g => s.cutGet g) s

/-- The host has enabled remote wake, or not, as it suspends the link: a request of USB that no command of the block carries, so a free
value (log entry 24). -/
def State.suspend (s : State) : State :=
  if s.usb.speed = 0 then s
  else { s with freeIx := s.freeIx + 1 }.setUsb { s.usb with u3 := true, lowPower := 0, remoteWake := Config.remoteWake s.freeIx }

/-- What waited in the device is sent. -/
def State.resume (s : State) : State :=
  s.setUsb { s.usb with u3 := false, wake := false, lowPower := 0, ep1 := s.usb.ep1 ++ s.usb.held, held := [] }

/-- U1 and U2 are entered where they are enabled; every other request is rejected. -/
def State.lowPowerRequest (u2 : Bool) (s : State) : State :=
  if s.usb.u3 ∨ s.usb.speed = 0 ∨ !bit s.usb.ctl (if u2 then 1 else 0) then s else s.setUsb { s.usb with lowPower := if u2 then 2 else 1 }

/-! ## DATA_GET (10 R341, R348) -/

/-- The last byte of a stream is sent. -/
def State.getDone (q sq : Nat) (s : State) : State :=
  match s.usb.gets.find? (fun g => decide (g.queue = q ∧ g.seq = sq)) with
  | none => s
  | some g =>
    if s.usb.u3 then s
    else
      let s := s.setUsb { s.usb with gets := s.usb.gets.filter (fun x => decide (¬ (x.queue = q ∧ x.seq = sq))) }
      let r := s.hbmRead g.src g.len
      match r.2.2 with
      | some x => r.2.1.complete q sq { status := St.dataError, location := locHbm x } { }
      | none =>
        let s := r.2.1
        let s := s.setUsb { s.usb with ep2data := s.usb.ep2data ++ [(g.stream, r.1)] }
        (s.event 0x281 0 1).complete q sq { r0 := BitVec.ofNat 64 g.len } { }

/-! ## Telemetry (16 R523) -/

/-- The header of a record is that of a log entry, with a number of its own. -/
def State.telemetryBytes (s : State) : List Byte :=
  leBytes 1 0x40 ++ leBytes 1 0 ++ leBytes 2 288 ++ stampBytes s.now ++ leBytes 2 s.usb.teleNo ++ w64Bytes s.thermReg ++ w64Bytes (i64 s.kiln.level) ++
    w64Bytes s.faultReg ++ w64Bytes s.twin.stat ++ (List.range 32).flatMap (fun n => leBytes 8 (s.counter n).count.toNat)

def State.teleEth (p : Nat) (e : List Byte) (s : State) : State :=
  let x := s.port p
  if bit x.ctl 9 then (s.setPort p { x with teleNo := x.teleNo + 1 }).send p (.stream 0x88B6 (x.teleNo % 2 ^ 32) 0 e) else s

/-- The buffer of 64 KiB holds 215 records of 304 bytes. -/
def State.telemetry (s : State) : State :=
  if s.mg.inReset then s
  else
    let e := s.telemetryBytes
    let l := s.usb.ep2tele ++ [e]
    let s := s.setUsb { s.usb with ep2tele := l.drop (l.length - 215), teleNo := s.usb.teleNo + 1 }
    (s.teleEth 0 e).teleEth 1 e

/-! ## The SMBus target (18 R571, R572) -/

/-- One bit of CRC-8, and the packet error check over a transfer. -/
def crc8Step (c : Byte) : Byte := if bit (c.setWidth 64) 7 then (c <<< 1) ^^^ 7 else c <<< 1
def crc8 (bs : List Byte) : Byte := bs.foldl (fun c b => crc8Step (crc8Step (crc8Step (crc8Step (crc8Step (crc8Step (crc8Step (crc8Step (c ^^^ b))))))))) 0

/-- The register behind a command code. -/
def State.smbusValue (code : Byte) (s : State) : Option W64 :=
  match code.toNat with
  | 1 => some mgId
  | 2 => some s.mg.bootStat
  | 3 => some s.faultReg
  | 4 => some (setFld s.thermReg 8 8 (s.hbm.stackTemp % 256).toNat)
  | 5 => some s.twin.stat
  | 6 => s.tbPeek 0x18
  | 7 => some s.mg.avs
  | _ => none

/-- A Block Read: byte count, value and packet error check; none where the target does not acknowledge. -/
def State.smbus (addr : BitVec 7) (code : Byte) (pecOk : Bool) (s : State) : State :=
  let own : BitVec 7 := if s.mg.twinPref then 0x5B else 0x5A
  if s.mg.inReset ∨ s.up < s.mg.releasedAt + 2000000 ∨ addr ≠ own ∨ !pecOk then s.setMg { s.mg with smb := none }
  else
    match s.smbusValue code with
    | none => s.setMg { s.mg with smb := none }
    | some v =>
      let body := leBytes 1 8 ++ w64Bytes v
      let pec := crc8 (leBytes 1 (2 * addr.toNat) ++ [code] ++ leBytes 1 (2 * addr.toNat + 1) ++ body)
      s.setMg { s.mg with smb := some (body ++ [pec]) }

/-! ## The events -/

/-- EP3 may send a piece of the pending map (10 R349). -/
def execPendingMapPiece (piece : Nat) (s : State) : Res := within piece 16 (s.pendingPiece piece)

/-- 1 ms has passed (16 R523). -/
def execTelemetryRecord (s : State) : Res := .next s.telemetry

/-- A bus reset, a disconnect or a link failure (16 R522). -/
def execUsbBusReset (s : State) : Res := .next s.busReset

/-- The host suspends the link (16 R521). -/
def execUsbSuspend (s : State) : Res := .next s.suspend

/-- The link leaves U3 (16 R521). -/
def execUsbResume (s : State) : Res := .next s.resume

/-- The port has trained in a mode (16 R519). -/
def execUsbLinkTrained (speed : BitVec 3) (s : State) : Res := .next (s.usbTrained speed)

/-- The host asks for U1 or U2 (16 R521). -/
def execU1U2Request (u2 : Bool) (s : State) : Res := .next (s.lowPowerRequest u2)

/-- A read of the SMBus target (18 R572). -/
def execSmbusBlockRead (addr : BitVec 7) (code : Byte) (pecOk : Bool) (s : State) : Res := .next (s.smbus addr code pecOk)

/-- The last byte of a DATA_GET is sent (10 R341). -/
def execDataGetDone (q sq : Nat) (s : State) : Res := .next (s.getDone q sq)

end Sys2Proof.Machine
end

