-- ==== Sys2Proof/Machine/Replay.lean ====
section
/-!
DEFINITION. The witness log as bytes, and REPLAY_START (12 R403, R414, R415, R419, R422; 01 R33, R36, R37).
-/

set_option Elab.async false

namespace Sys2Proof.Machine

open Sys2Proof

/-! ## Entries of a log (12 R414, R415; log entry 84) -/

/-- Payload bytes of the entry at the head of a log. Content longer than the header's length field follows from the content
itself. -/
def entryLen (bs : List Byte) : Nat :=
  let n := leAt 2 2 bs
  match (bs.getD 0 0).toNat with
  | 0x02 => max n (8 + leAt 20 4 bs)
  | 0x20 => if leAt 17 2 bs = 0x3001 then max n (65 + leAt 23 2 bs + leAt 57 8 bs) else n
  | _ => n

/-- Bytes of the entry with its header and padding. -/
def entrySize (bs : List Byte) : Nat := 16 + roundUp 8 (entryLen bs)

/-- The entries of a log; none when the last is not whole. -/
def logEntries : Nat → List Byte → Option (List (List Byte))
  | _, [] => some []
  | 0, _ :: _ => none
  | n + 1, bs =>
    if bs.length < 16 then none
    else if bs.length < entrySize bs then none
    else (logEntries n (bs.drop (entrySize bs))).map (fun l => bs.take (entrySize bs) :: l)

def logType (e : List Byte) : Nat := (e.getD 0 0).toNat
def logSource (e : List Byte) : Nat := (e.getD 1 0).toNat
def logStamp (e : List Byte) : Nat := leAt 4 6 e * 1000000000 + leAt 10 4 e % 2 ^ 30
def logPayload (e : List Byte) : List Byte := slice 16 (entryLen e) e

/-! ## What is taken from the log before it runs (12 R420, R421) -/

def acceptOf (e : List Byte) : Nat × Nat × Nat × Nat × Nat :=
  let p := logPayload e
  (leAt 0 2 p, leAt 2 4 p, leAt 6 6 p, leAt 12 1 p, logStamp e)

def cutEntry (e : List Byte) : Nat × Nat × Nat × Nat :=
  let p := logPayload e
  (leAt 0 2 p, leAt 2 6 p, leAt 8 1 p, leAt 9 2 p)

def orderEntry (e : List Byte) : Nat × Nat × Nat × Nat :=
  let p := logPayload e
  (leAt 0 1 p, leAt 1 1 p, leAt 2 1 p, leAt 3 1 p)

def resultEntry (e : List Byte) : Nat × Nat × List Byte :=
  let p := logPayload e
  (leAt 0 2 p, leAt 2 6 p, p.drop 8)

/-! ## REPLAY_START (12 R419, R422) -/

def State.logOf (p : Packet) (s : State) : List Byte := s.hbmBytes (fld p.hdr.w0 0 40) p.hdr.w1.toNat

/-- The log begins with START and holds whole entries. -/
def State.replayGood (p : Packet) (s : State) : Bool :=
  p.bare 2 && decide (fld p.hdr.w0 40 24 = 0 ∧ p.hdr.w1 ≠ 0) && s.inHost (fld p.hdr.w0 0 40) p.hdr.w1.toNat &&
    (match logEntries (s.logOf p).length (s.logOf p) with
     | some (e :: _) => decide (logType e = 1)
     | _ => false)

/-- SOLO, recorder OFF, nothing bound (and so nothing timed: R403). -/
def State.replayFeasible (s : State) : Bool :=
  decide (s.twin.role = .solo) && decide (s.twin.pair = .none) && decide (s.wit.mode = .off) && s.wit.startAt.isNone && s.nothingTimed &&
    !(List.range 64).any (fun n => s.laneConsumed n) && !s.pushes.any (fun e => e.2.en)

/-- The counter steps to 1 ms before START; its value and increment are saved for the shadow counter; the device is in a LONG
state; what the log decides is at hand. -/
def State.replayFrom (o : Outst) (log : List Byte) (s : State) : State :=
  let es := (logEntries log.length log).getD []
  let at_ := match es with
    | e :: _ => logStamp e
    | [] => 0
  let of := fun (k : Nat) => es.filter (fun e => decide (logType e = k))
  let b := s.tb
  let s := s.setTb { b with shadow := some { sec := b.sec, ns := b.ns, frac := b.frac, inc := b.inc } }
  let s := s.witChange (s.causeOf o.pkt.q o.seq) (fun s => s.setWit { s.wit with
    mode := .replay, log := log, logPos := 0, by_ := some (o.pkt.q, o.seq), gapMet := false, strictMis := false, cuts := (of 0x22).map cutEntry,
    orders := (of 0x23).map orderEntry, accepts := (of 0x21).map acceptOf, results := (of 0x30).map resultEntry, seqMap := [] })
  let s := s.setMg { s.mg with dev := .test }
  let s := s.stepTo ((at_ - 1000000) * 2 ^ 32)
  (s.setTb { s.tb with modeEff := 1, validRun := 0, qualified := false }).fireHeld

/-- The log is read from HBM (13 R431). -/
def State.replayStart (o : Outst) (s : State) : State :=
  let r := s.hbmRead (fld o.pkt.hdr.w0 0 40) o.pkt.hdr.w1.toNat
  match r.2.2 with
  | some x => r.2.1.inputLost o (locHbm x)
  | none => r.2.1.replayFrom o r.1

end Sys2Proof.Machine
end

