-- ==== Sys2Proof/Machine/Commands.lean ====
section
/-!
DEFINITION. Commands from the host: arrival, the checks of acceptance in their order, the reply, mirroring, and what an accepted
command does (10 R313 to R326, R337, R341; 11 R371, R378; 12 R408; 14 R457, R459; 15 R498, R514; 01 R8 to R12, R17).
-/

set_option Elab.async false

namespace Sys2Proof.Machine

open Sys2Proof

/-! ## Row 1 (10 R314, R319, R320, R322, R348) -/

def opcodes : List Nat := [0x0001, 0x0002, 0x0004, 0x0005, 0x0010, 0x0011, 0x0020, 0x0030, 0x0031, 0x0040, 0x0041, 0x0042, 0x0050,
  0x1001, 0x1002, 0x1003, 0x1004, 0x1005, 0x1006, 0x1007, 0x1008, 0x2001, 0x2002, 0x2003, 0x2004, 0x2005, 0x2006, 0x3001, 0x3002, 0x3003,
  0x4001, 0x4002, 0x4003, 0x4004]

/-- The opcodes that a queue of a class takes. -/
def classTakes (q : Nat) (data : Bool) (op : Nat) : Bool :=
  decide (op = 1) ||
    (if q = 0 then decide (op < 0x1000 ∨ 0x4000 ≤ op)
     else if data then decide (0x2000 ≤ op ∧ op < 0x4000)
     else decide (0x1000 ≤ op ∧ op < 0x2000) || decide (op = 4 ∨ op = 5))

def State.headerGood (p : Packet) (s : State) : Bool :=
  let h := p.hdr
  opcodes.contains p.op && decide (p.q < 4096) && (s.queue p.q).enabled && classTakes p.q (s.queue p.q).dataClass p.op &&
    decide (h.rsvd = 0) && decide (fld h.flags 5 11 = 0 ∧ fld h.flags 3 2 ≠ 3) && decide (h.payloadLen.toNat ≤ 4096 ∧ p.payload.length = h.payloadLen.toNat) &&
    (!p.p8 || decide (32 ≤ h.payloadLen.toNat)) && decide (h.dlNs.toNat < 1000000000) &&
    (decide (0x2000 ≤ p.op ∧ p.op < 0x3000) || decide (h.cones = 0 ∧ h.dlSec = 0 ∧ h.dlNs = 0)) &&
    (if p.op = 0x3001 ∧ !p.desc then decide (p.put.length = h.w1.toNat) else p.put.isEmpty)

/-! ## Row 3 (10 R341) -/

def ackGood (p : Packet) (s : State) : Bool := p.bare 2 && decide (p.hdr.w0.toNat ≤ (s.queue p.q).released ∧ p.hdr.w1.toNat < 2)

/-- Bits of w0 of QUEUE_SET that have a name. -/
def queueSetMask : W64 := 0x970F0FFF

def setTarget (p : Packet) : Nat := fld p.hdr.w0 0 12

def queueSetGood (p : Packet) : Bool :=
  p.bare 1 && decide (p.hdr.w0 &&& ~~~queueSetMask = 0) && decide (setTarget p ≠ 0) && decide (4 ≤ fld p.hdr.w0 16 4 ∧ fld p.hdr.w0 16 4 ≤ 12)

def regReadGood (p : Packet) : Bool := p.bare 2 && decide (p.hdr.w0.toNat < 2 ^ 40 ∧ (p.hdr.w1 = 1 ∨ p.hdr.w1 = 2))
def regWriteGood (p : Packet) : Bool := p.bare 3 && decide (p.hdr.w0.toNat < 2 ^ 40)
def budgetGood (p : Packet) : Bool :=
  p.bare 2 && decide (1000 ≤ p.hdr.w0.toNat ∧ p.hdr.w0.toNat ≤ 250000 ∧ 1 ≤ p.hdr.w1.toNat ∧ p.hdr.w1.toNat < 2 ^ 32)
def setRungGood (p : Packet) : Bool := p.bare 2 && decide (p.hdr.w0.toNat < 116 ∧ p.hdr.w1.toNat ≤ 4)

/-- An increment belongs to STEERED, and is legal there (12 R400, R408). -/
def timeModeGood (p : Packet) : Bool :=
  p.bare 2 && decide (p.hdr.w0.toNat ≤ 2) && (if p.hdr.w0 = 1 then incLegal p.hdr.w1 else decide (p.hdr.w1 = 0))

def State.parametersGood (p : Packet) (s : State) : Bool :=
  match p.op with
  | 0x0001 => ackGood p s
  | 0x0002 => queueSetGood p
  | 0x0004 => regReadGood p
  | 0x0005 => regWriteGood p
  | 0x0010 => budgetGood p
  | 0x0011 => setRungGood p
  | 0x0020 => selfTestGood p
  | 0x0030 => attestGood p s
  | 0x0031 => s.fwLoadGood p
  | 0x0040 => attachGood p
  | 0x0041 => p.bare 0
  | 0x0042 => p.bare 0
  | 0x0050 => journalGood p s
  | 0x1001 => s.bindSlotGood p
  | 0x1002 => s.unbindGood p
  | 0x1003 => s.swapGood p
  | 0x1004 => s.bindStandingGood p
  | 0x1005 => s.bindLaneGood p
  | 0x1006 => State.bindPwmGood p
  | 0x1007 => s.bindLinkGood p
  | 0x1008 => s.launchGood p
  | 0x4001 => witStartGood p
  | 0x4002 => p.bare 0
  | 0x4003 => s.replayGood p
  | 0x4004 => timeModeGood p
  | _ => s.dataGood p

/-! ## Rows 4 and 5 -/

/-- SOLO or ACTIVE, or on Q0; not in FINAL; ATTACH not in a LONG state. -/
def State.synced (p : Packet) (s : State) : Bool :=
  (decide (s.twin.role ≠ .standby) || decide (p.q = 0)) && decide (s.twin.pair ≠ .final) && (decide (p.op ≠ 0x0040) || s.attachSynced)

/-- Bytes of the capture area (10 R316). -/
def captureRoom : Nat := 2147483648

/-- An ACK takes no entry (10 R337). -/
def State.roomFor (p : Packet) (s : State) : Bool :=
  let v := s.queue p.q
  decide (p.op = 1) || (decide (v.entriesUsed < v.depth) && !v.stopped && decide (s.captureUsed + (s.captureOf p).length ≤ captureRoom))

/-! ## Row 7 -/

/-- A QUEUE_SET of an enabled queue needs it drained; the depths of the enabled queues stay within 65,536 (10 R315). -/
def State.queueSetFeasible (p : Packet) (s : State) : Bool :=
  let q := setTarget p
  let v := s.queue q
  let others := ((s.queue 0).depth :: ((s.queues.filter (fun e => e.2.enabled && decide (e.1 ≠ q ∧ e.1 ≠ 0))).map (fun e => e.2.depth))).sum
  (!v.enabled || (v.drained && !s.bindings.any (fun e => decide (e.2.cqueue = q)))) &&
    decide (others + (if bit p.hdr.w0 31 then 2 ^ fld p.hdr.w0 16 4 else 0) ≤ 65536)

/-- What the device state, a replay and the speed of the port allow (10 R351; 12 R420; 15 R498, R514). -/
def State.stateAllows (p : Packet) (s : State) : Bool :=
  (match s.mg.dev with
   | .service => true
   | .recovery => if p.q = 0 then [0x0001, 0x0002, 0x0031, 0x0030, 0x0050].contains p.op else decide (p.op = 0x3001 ∨ p.op = 0x0004)
   | _ => decide (p.q = 0)) && (decide (s.usb.speed ≠ 1) || decide (p.q = 0))

def State.opFeasible (p : Packet) (a : Nat) (s : State) : Bool :=
  match p.op with
  | 0x0001 => true
  | 0x0002 => s.queueSetFeasible p
  | 0x0004 => true
  | 0x0005 => true
  | 0x0010 => decide (s.reservedRate ≤ p.hdr.w0.toNat)
  | 0x0011 => s.rungAllowed p.hdr.w0.toNat p.hdr.w1.toNat
  | 0x0020 => s.selfTestFeasible p
  | 0x0030 => true
  | 0x0031 => s.mg.load.isNone
  | 0x0040 => s.attachFeasible
  | 0x0041 => s.detachFeasible
  | 0x0042 => s.roleSwapFeasible
  | 0x0050 => true
  | 0x1001 => s.bindSlotFeasible p a
  | 0x1002 => s.unbindFeasible p
  | 0x1003 => s.swapFeasible p a
  | 0x1004 => s.bindStandingFeasible p a
  | 0x1005 => s.bindLaneFeasible p
  | 0x1006 => s.bindPwmFeasible p
  | 0x1007 => s.bindLinkFeasible p a
  | 0x1008 => s.launchFeasible p a
  | 0x4001 => s.witStartFeasible p
  | 0x4002 => true
  | 0x4003 => s.replayFeasible
  | 0x4004 => true
  | _ => s.dataFeasible p a

/-- Row 7 at the count `a` of the arrival (11 R352). -/
def State.admits (p : Packet) (a : Nat) (s : State) : Bool := s.stateAllows p && s.opFeasible (s.inlined p) a

/-- A command as it arrives: row 7 is judged on this state. -/
def State.arrival (p : Packet) (s : State) : Mirror := { pkt := p, arrival := s.now, admitted := s.admits p s.now, pin := s.pinOf p s.now }

/-- The row that refuses a command which has arrived, but for row 2, or 0. -/
def State.refusedBy (m : Mirror) (s : State) : Nat :=
  let p := s.inlined m.pkt
  if !(s.descriptorGood m.pkt && s.parametersGood p) then 3
  else if !s.synced p then 4
  else if !s.roomFor m.pkt then 5
  else if s.testBusy p m.arrival then 6
  else if !m.admitted then 7
  else 0

def rowCode (r : Nat) : Byte :=
  match r with
  | 4 => Code.twinUnsynced
  | 5 => Code.queueFull
  | 6 => Code.testBusy
  | 7 => Code.infeasible
  | _ => Code.malformed

/-! ## What an accepted command does -/

/-- QUEUE_SET: enabling a queue clears its overflow area and starts its numbers at 1 (10 R315). -/
def State.queueSet (o : Outst) (s : State) : State :=
  let w := o.pkt.hdr.w0
  let q := setTarget o.pkt
  let v := s.queue q
  let on := bit w 31
  let v' := { v with enabled := on, dataClass := bit w 28, prio := fld w 24 3, depthLog2 := fld w 16 4 }
  let v' := if on && !v.enabled then { v' with nextSeq := 1, released := 0, overflow := [], stopped := false } else v'
  let t := s.setQueue q v'
  let t := if s.qstat q = t.qstat q then t
    else t.journalNow (s.causeOf o.pkt.q o.seq) (at64 (0x38000 + 8 * q) 0) (some (w64Bytes (s.qstat q))) (some (w64Bytes (t.qstat q)))
  t.finish o.pkt.q o.seq St.done

/-- REG_READ: both values at one count, then their RC fields clear; an address without a register reads zero, flagged
(10 R333; 01 R8, R12). -/
def State.regRead (o : Outst) (s : State) : State :=
  let a := o.pkt.hdr.w0.toNat
  let as := if o.pkt.hdr.w1 = 2 then [a, a + 8] else [a]
  let vs := as.map (fun a => s.peek a)
  let ok := vs.all (fun v => v.isSome)
  let s := as.foldl (fun s a => if (s.peek a).isSome then s.clearRc a else s) s
  s.complete o.pkt.q o.seq { status := if ok then St.done else St.flagged, r0 := ((vs.getD 0 none).getD 0), r1 := ((vs.getD 1 none).getD 0) } { }

/-- REG_WRITE of the masked bits; answers the value after the write (10 R333). -/
def State.regWrite (o : Outst) (s : State) : State :=
  let a := o.pkt.hdr.w0.toNat
  let m := if o.pkt.hdr.w2 = 0 then BitVec.allOnes 64 else o.pkt.hdr.w2
  match s.pokeLogged a o.pkt.hdr.w1 m o.accept (s.causeOf o.pkt.q o.seq) with
  | some t => t.complete o.pkt.q o.seq { r0 := (t.peek a).getD 0 } { }
  | none => s.complete o.pkt.q o.seq { status := St.dataError, location := locReg a } { }

/-- A new budget waits for the next refill tick (01 R17). Of two before one tick the later replaces the earlier, which is never in
force nor journaled: the spec does not say (log entry 188). -/
def State.setBudget (o : Outst) (s : State) : State :=
  let h := o.pkt.hdr
  (s.setKiln { s.kiln with newBudget := some (h.w0.setWidth 32, h.w1.setWidth 32, s.causeOf o.pkt.q o.seq) }).finish o.pkt.q o.seq St.done

/-- TIME_MODE, journaled where it changes a mode or an increment (12 R408). -/
def State.timeModeSet (o : Outst) (s : State) : State :=
  let m := o.pkt.hdr.w0.toNat
  let t := s.timeMode m o.pkt.hdr.w1
  let t := if t.timeModeChanged s then
      t.journalNow (s.causeOf o.pkt.q o.seq) (at64 0x20018 0) (some (w64Bytes ((s.tbPeek 0x18).getD 0))) (some (w64Bytes ((t.tbPeek 0x18).getD 0)))
    else t
  t.finish o.pkt.q o.seq St.done

/-- WITNESS_STOP ends a recording or a replay (12 R417, R421). -/
def State.witStop (o : Outst) (s : State) : State :=
  match s.wit.mode with
  | .record => s.recordStop o.pkt.q o.seq
  | .replay => (s.replayEnd false).finish o.pkt.q o.seq St.done
  | .off => (s.setWit { s.wit with startAt := none }).finish o.pkt.q o.seq St.done

/-- The effect of an accepted command that no self-test holds back. `a` is the count at which it arrived. -/
def State.runOp (o : Outst) (a : Nat) (s : State) : State :=
  match o.pkt.op with
  | 0x0002 => s.queueSet o
  | 0x0004 => s.regRead o
  | 0x0005 => s.regWrite o
  | 0x0010 => s.setBudget o
  | 0x0011 => s.setRung o.pkt.hdr.w0.toNat o.pkt.hdr.w1.toNat o.pkt.q o.seq
  | 0x0020 => s.selfTest o
  | 0x0030 => s.attest o
  | 0x0031 => s.fwLoad o
  | 0x0040 => s.attach o
  | 0x0041 => s.detach o
  | 0x0042 => s.roleSwap o
  | 0x0050 => s.journalRead o
  | 0x1001 => s.bindSlot o
  | 0x1002 => s.unbind o
  | 0x1003 => s.swapCoef o
  | 0x1004 => s.bindStanding o
  | 0x1005 => s.bindLane o
  | 0x1006 => s.bindPwm o
  | 0x1007 => s.bindLink o
  | 0x1008 => s.launch o
  | 0x4001 => s.witStart o
  | 0x4002 => s.witStop o
  | 0x4003 => s.replayStart o
  | 0x4004 => s.timeModeSet o
  | _ => s.dataRun o a

def State.run (o : Outst) (a : Nat) (s : State) : State :=
  if o.pkt.isData then s.dataRun o a else s.withCaptured o (fun s => s.runOp o a)

/-- A command of a block under test waits for the end of the test (14 R481). -/
def State.begin_ (o : Outst) (a : Nat) (s : State) : State :=
  match s.deferred o with
  | some t => t
  | none => s.run o a

/-! ## Acceptance (10 R321 to R326, R337) -/

/-- ACK: acknowledges, and offers again where it asks so. -/
def State.ack (p : Packet) (s : State) : State :=
  let s := (s.event 0x1C0 0 1).reply p Code.accepted 0 0 s.now
  s.acknowledge p.q p.hdr.w0.toNat (bit p.hdr.w1 0)

/-- On a synced pair the ACTIVE device mirrors all but Q0 before it accepts (R321). -/
def State.mirrorsFirst (p : Packet) (s : State) : Bool := s.mirrored && decide (s.twin.role = .active) && decide (p.q ≠ 0)

/-- The command is accepted now: its entry is written, and what it names is read from HBM. The peer of a pair has the entry, and is told the
acceptance stamp (14 R457; log entry 211). -/
def State.accept (m : Mirror) (s : State) : State :=
  let p := m.pkt
  if p.op = 1 then s.ack p
  else
    let o := s.outstFor p (s.captureOf p) s.now m.pin
    let t := ((s.enter o).reply p Code.accepted o.seq 0 s.now).event 0x1C0 0 1
    let t := if s.mirrorsFirst p then t.tell (.accepted p.q o.seq s.now) else t
    let r := t.readHbm (s.acceptReads p)
    match r.2.2 with
    | some loc => r.2.1.inputLost o loc
    | none => r.2.1.begin_ o m.arrival

def State.refuse (p : Packet) (row : Nat) (s : State) : State :=
  let s := (s.reply p (rowCode row) 0 row 0).event 0x1C1 0 1
  if rowCode row = Code.infeasible then s.event 0x1C2 0 1 else s

/-- The checks of a command in their order: answers none where it is accepted, else the device after its reply. What ATTACH asks
of the peer is free at each attempt. -/
def State.turnAway (m : Mirror) (s : State) : Option State :=
  let p := m.pkt
  if !s.headerGood p then some (s.refuse p 1)
  else
    match (s.queue p.q).tagHeld p.hdr.tag with
    | some (sq, st) => some (s.reply p Code.duplicate sq 2 st)
    | none =>
      match s.refusedBy m with
      | 0 => none
      | r + 1 => some ({ s with freeIx := s.freeIx + 1 }.refuse p (r + 1))

def State.dropArrival (s : State) : State := s.setTwin { s.twin with mirrors := s.twin.mirrors.drop 1 }

/-- The commands that have arrived are taken in order, up to one that waits for its mirror (R322, R323). -/
def State.takeArrivals : Nat → State → State
  | 0, s => s
  | n + 1, s =>
    match s.twin.mirrors with
    | [] => s
    | m :: _ =>
      match s.turnAway m with
      | some t => State.takeArrivals n t.dropArrival
      | none =>
        if s.mirrorsFirst m.pkt then s.tell (.mirror m.pkt (s.captureOf m.pkt) (s.queue m.pkt.q).nextSeq)
        else State.takeArrivals n (s.dropArrival.accept m)

/-- The last byte of a command arrives (R322, R348). -/
def State.submit (p : Packet) (s : State) : State :=
  if s.mute then s
  else
    let s := (s.event 0x280 0 1).witness 0x20 0 s.now (leBytes 1 0 ++ packetBytes p)
    let idle := s.twin.mirrors.isEmpty
    let s := s.setTwin { s.twin with mirrors := s.twin.mirrors ++ [s.arrival p] }
    if idle then State.takeArrivals 1 s else s

/-- The twin has the entry: the command is accepted, and the ones behind it have their turn (R321). -/
def State.mirrorAcked (s : State) : State :=
  match s.twin.mirrors with
  | [] => s
  | m :: rest => State.takeArrivals rest.length (s.dropArrival.accept m)

/-- The peer is lost while a mirror is outstanding: its acceptance is completed as that of a solo device (R323). -/
def State.acceptAlone (s : State) : State := s.mirrorAcked

/-! ## Self-test ends (14 R483) -/

/-- The block of a test has drained: the test runs, and the commands that waited for it are carried out. -/
def State.testRuns (d : Nat) (sig : W64) (s : State) : State :=
  match s.testOf d with
  | none => s
  | some k =>
    if !s.blockDrained d then s
    else
      let s := s.selfTestRun k sig
      let s := k.waits.foldl (fun s w => match s.outstOf w.1 w.2 with
        | some o => s.begin_ o o.accept
        | none => s) s
      s.catchupEnd

/-! ## The commands by name -/

def packet (op : BitVec 16) (h : Header) (pl : List Byte) : Packet := { opcode := op, hdr := h, payload := pl, put := [] }

/-- Acknowledges completions (10 R337). -/
def execAck (h : Header) (pl : List Byte) (s : State) : Res := .next (s.submit (packet 0x0001 h pl))
/-- Sets up a queue (10 R315). -/
def execQueueSet (h : Header) (pl : List Byte) (s : State) : Res := .next (s.submit (packet 0x0002 h pl))
/-- Reads registers (01 R8 to R12). -/
def execRegRead (h : Header) (pl : List Byte) (s : State) : Res := .next (s.submit (packet 0x0004 h pl))
/-- Writes a register (01 R8 to R12). -/
def execRegWrite (h : Header) (pl : List Byte) (s : State) : Res := .next (s.submit (packet 0x0005 h pl))
/-- Sets the cone budget (11 R371). -/
def execSetConeBudget (h : Header) (pl : List Byte) (s : State) : Res := .next (s.submit (packet 0x0010 h pl))
/-- Asks for a rung (11 R378). -/
def execSetRung (h : Header) (pl : List Byte) (s : State) : Res := .next (s.submit (packet 0x0011 h pl))
/-- Closes a block for its self-test (14 R481). -/
def execSelfTest (h : Header) (pl : List Byte) (s : State) : Res := .next (s.submit (packet 0x0020 h pl))
/-- A report of the device (15 R512). -/
def execAttest (h : Header) (pl : List Byte) (s : State) : Res := .next (s.submit (packet 0x0030 h pl))
/-- Loads firmware or a configuration area (15 R507). -/
def execFwLoad (h : Header) (pl : List Byte) (s : State) : Res := .next (s.submit (packet 0x0031 h pl))
/-- Joins a pair (14 R460). -/
def execAttach (h : Header) (pl : List Byte) (s : State) : Res := .next (s.submit (packet 0x0040 h pl))
/-- Leaves a pair (14 R462). -/
def execDetach (h : Header) (pl : List Byte) (s : State) : Res := .next (s.submit (packet 0x0041 h pl))
/-- Swaps the roles of a pair (14 R463). -/
def execRoleSwap (h : Header) (pl : List Byte) (s : State) : Res := .next (s.submit (packet 0x0042 h pl))
/-- Reads the change journal (10 R347). -/
def execJournalRead (h : Header) (pl : List Byte) (s : State) : Res := .next (s.submit (packet 0x0050 h pl))
/-- Binds a loop slot (07 R224). -/
def execBindSlot (h : Header) (pl : List Byte) (s : State) : Res := .next (s.submit (packet 0x1001 h pl))
/-- Removes a binding (10 R577). -/
def execUnbind (h : Header) (pl : List Byte) (s : State) : Res := .next (s.submit (packet 0x1002 h pl))
/-- Swaps coefficient banks (07 R242). -/
def execSwapCoef (h : Header) (pl : List Byte) (s : State) : Res := .next (s.submit (packet 0x1003 h pl))
/-- Binds a standing job (11 R367). -/
def execBindStanding (h : Header) (pl : List Byte) (s : State) : Res := .next (s.submit (packet 0x1004 h pl))
/-- Sets up a sense lane (08 R285). -/
def execBindLane (h : Header) (pl : List Byte) (s : State) : Res := .next (s.submit (packet 0x1005 h pl))
/-- Sets up a PWM pair (08 R289). -/
def execBindPwm (h : Header) (pl : List Byte) (s : State) : Res := .next (s.submit (packet 0x1006 h pl))
/-- Binds a cell link (09 R310). -/
def execBindLink (h : Header) (pl : List Byte) (s : State) : Res := .next (s.submit (packet 0x1007 h pl))
/-- Starts bindings and slots at one count (12 R412). -/
def execLaunch (h : Header) (pl : List Byte) (s : State) : Res := .next (s.submit (packet 0x1008 h pl))
/-- A quadratic programme (06 R198). -/
def execSolveQp (h : Header) (pl : List Byte) (s : State) : Res := .next (s.submit (packet 0x2001 h pl))
/-- Least squares (06 R216). -/
def execSolveLs (h : Header) (pl : List Byte) (s : State) : Res := .next (s.submit (packet 0x2002 h pl))
/-- An estimator step (06 R218). -/
def execEstimate (h : Header) (pl : List Byte) (s : State) : Res := .next (s.submit (packet 0x2003 h pl))
/-- Runs an image that writes no weights (10 R341). -/
def execInfer (h : Header) (pl : List Byte) (s : State) : Res := .next (s.submit (packet 0x2004 h pl))
/-- Runs an image that may write its weights (10 R341). -/
def execTemper (h : Header) (pl : List Byte) (s : State) : Res := .next (s.submit (packet 0x2005 h pl))
/-- Runs an image with the rules of its own (10 R341). -/
def execRunProgram (h : Header) (pl : List Byte) (s : State) : Res := .next (s.submit (packet 0x2006 h pl))
/-- Puts data into HBM (10 R341). -/
def execDataPut (h : Header) (pl : List Byte) (d : List Byte) (s : State) : Res := .next (s.submit { packet 0x3001 h pl with put := d })
/-- Gets data from HBM (10 R341). -/
def execDataGet (h : Header) (pl : List Byte) (s : State) : Res := .next (s.submit (packet 0x3002 h pl))
/-- Pins lines of the hearth cache, or releases them (13 R439). -/
def execHearthPin (h : Header) (pl : List Byte) (s : State) : Res := .next (s.submit (packet 0x3003 h pl))
/-- Starts a recording (12 R416). -/
def execWitnessStart (h : Header) (pl : List Byte) (s : State) : Res := .next (s.submit (packet 0x4001 h pl))
/-- Stops a recording or a replay (12 R417, R421). -/
def execWitnessStop (h : Header) (pl : List Byte) (s : State) : Res := .next (s.submit (packet 0x4002 h pl))
/-- Starts a replay (12 R419). -/
def execReplayStart (h : Header) (pl : List Byte) (s : State) : Res := .next (s.submit (packet 0x4003 h pl))
/-- Sets the time mode (12 R408). -/
def execTimeMode (h : Header) (pl : List Byte) (s : State) : Res := .next (s.submit (packet 0x4004 h pl))

/-- The peer acknowledges the mirror of the command whose turn it is (10 R321). -/
def execQueueMirrorAck (s : State) : Res := .next s.mirrorAcked

/-- The test of a drained block, with the signature of its responses (14 R483). -/
def execSelfTestRun (dom : Nat) (sig : BitVec 64) (s : State) : Res := within dom 116 (s.testRuns dom sig)

/-! ## REG_WRITE of one field -/

/-- A REG_WRITE with its address, value and mask. -/
def regPacket (h : Header) (a : Nat) (v m : W64) : Packet := packet 0x0005 { h with w0 := at64 a 0, w1 := v, w2 := m } []

def State.writes (h : Header) (a : Nat) (v m : W64) (s : State) : State := s.submit (regPacket h a v m)

def slotReg (e sl o : Nat) : Nat := 0x200000 + e * 0x10000 + sl * 0x1000 + o

/-- All sixteen pieces of the pending map are asked for (10 R350). -/
def execUsbDbCtlAll (h : Header) (s : State) : Res := .next (s.writes h 0x40100 0x10000 0x10000)
/-- Clears a tile's conflict counters (02 R78). -/
def execTileCtlBconfClear (h : Header) (t : Nat) (s : State) : Res := within t 68 (s.writes h (0x1000000 + t * 0x10000 + 0x10) 1 1)
/-- AUTO or MANUAL (07 R240). -/
def execLeSlotModeAuto (h : Header) (e sl : Nat) (auto : Bool) (s : State) : Res := withinSlot e sl (s.writes h (slotReg e sl 0x30) (at64 (b2n auto) 0) 1)
/-- Leaves fallback (07 R238). -/
def execLeSlotModeFbExit (h : Header) (e sl : Nat) (s : State) : Res := withinSlot e sl (s.writes h (slotReg e sl 0x30) 4 4)
/-- MANUAL with the last value (07 R240). -/
def execLeSlotModeManFromLast (h : Header) (e sl : Nat) (s : State) : Res := withinSlot e sl (s.writes h (slotReg e sl 0x30) 2 3)
/-- The register target and the manual value (07 R250). -/
def execLeSlotManWrite (h : Header) (e sl : Nat) (v : BitVec 64) (s : State) : Res := withinSlot e sl (s.writes h (slotReg e sl 0x28) v 0)
/-- The fallback settings (07 R250). -/
def execLeSlotFbWrite (h : Header) (e sl : Nat) (v : BitVec 64) (s : State) : Res := withinSlot e sl (s.writes h (slotReg e sl 0x20) v 0)
/-- A word of a coefficient bank (07 R241). -/
def execLeSlotBankWrite (h : Header) (e sl : Nat) (bankB : Bool) (word : Nat) (v : BitVec 64) (s : State) : Res :=
  if word < 64 then withinSlot e sl (s.writes h (slotReg e sl ((if bankB then 0x400 else 0x200) + 8 * word)) v 0) else .fault .noSuchUnit
/-- A calibration swap at a count (08 R286). -/
def execSnsLaneSwap (h : Header) (n : Nat) (v : BitVec 64) (s : State) : Res := within n 64 (s.writes h (0x100000 + 0x40 * n + 0x28) v 0)
/-- The software trip (08 R291). -/
def execPwmTripSw (h : Header) (raise : Bool) (s : State) : Res := .next (s.writes h 0x111400 (at64 (b2n raise) 0) 1)
/-- Clears a trip latch (08 R273). -/
def execTripLatchClear (h : Header) (n : Nat) (s : State) : Res := within n 83 (s.writes h (0x111000 + 8 * n) (at64 1 63) (at64 1 63))
/-- The controls of an Ethernet port (16 R538). -/
def execEthCtlWrite (h : Header) (port : Nat) (v : BitVec 64) (s : State) : Res := within port 2 (s.writes h (0x50000 + port * 0x10000) v 0)
/-- The servo settings (12 R425). -/
def execTbServoWrite (h : Header) (v : BitVec 64) (s : State) : Res := .next (s.writes h 0x20020 v 0)
/-- A warm reset after the completion (15 R491). -/
def execMgResetCtlWarm (h : Header) (s : State) : Res := .next (s.writes h 0x10 1 1)
/-- Empties the health record at the next power-on reset (15 R508). -/
def execMgResetCtlHealthClear (h : Header) (s : State) : Res := .next (s.writes h 0x10 2 2)
/-- Stops or resumes the global counters (17 R545). -/
def execEvcCtlFreeze (h : Header) (fz : Bool) (s : State) : Res := .next (s.writes h 0x400200 (at64 (b2n fz) 1) 2)
/-- Clears the global counters (17 R549). -/
def execEvcCtlClearAll (h : Header) (s : State) : Res := .next (s.writes h 0x400200 1 1)
/-- Selects the event of a global counter or of a tile's (17 R543). -/
def execEvcSelWrite (h : Header) (tile : Option Nat) (n : Nat) (v : BitVec 64) (s : State) : Res :=
  match tile with
  | none => within n 32 (s.writes h (0x400000 + 16 * n) v 0)
  | some t => if n < 8 then within t 68 (s.writes h (0x1000000 + t * 0x10000 + 0xE00 + 16 * n) v 0) else .fault .noSuchUnit

end Sys2Proof.Machine
end

