-- ==== Sys2Proof/Machine/Peer.lean ====
section
/-!
DEFINITION. The peer: its heartbeats and its loss, the interlock pins, promotion, the effect of DETACH and of ROLE_SWAP
(14 R452, R453, R458, R462, R463, R468 to R471, R485; 10 R323, R338).
-/

set_option Elab.async false

namespace Sys2Proof.Machine

open Sys2Proof

/-! ## The interlock (R453) -/

/-- A conflict of the pins is resolved. -/
def State.interlock (s : State) : State :=
  if !s.pinConflict then s
  else if Config.peerPref = s.mg.twinPref then
    let old := s.twin.stat
    let s := (s.setTwin { s.twin with active := false, bothHighAt := none, roleConflict := true, blocked := true }).raiseAlert .roleConflict
    (s.journalNow byDevice twStatAddr (some (w64Bytes old)) (some (w64Bytes s.twin.stat))).leavePair 6
  else if s.mg.twinPref then s
  else s.setTwin { s.twin with active := false, bothHighAt := none }

/-- A STANDBY device in LOST whose peer's pin falls promotes itself if promote_lost is set (R470). -/
def State.promoteLost (s : State) : State :=
  let t := s.twin
  if !t.peerActive && decide (t.role = .standby) && decide (t.pair = .lost) && decide (t.leaveReason ≠ 3) && t.declared.isNone && bit t.ctl 2 then
    s.setTwin { t with declared := some s.up }
  else s

/-- TWIN_PEER_ACTIVE changes level. -/
def State.peerPin (level : Bool) (s : State) : State :=
  let t := s.twin
  let s := s.setTwin { t with peerActive := level, peerLowAt := if level then none else some s.up, bothHighAt := if level && t.active then some s.up else none }
  s.interlock.promoteLost

/-! ## A peer that is gone (R323, R458, R460, R470) -/

/-- An ACTIVE device goes on alone: what was being mirrored is accepted, and a ROLE_SWAP ends without its swap. -/
def State.goAlone (pair : PairSt) (role : Role) (why : BitVec 4) (s : State) : State :=
  let ms := s.twin.mirrors
  let s := s.unmirror
  let s := s.twinChange { s.twin with role := role, pair := pair, leaveReason := why, mirrors := ms }
  s.acceptAlone.swapEnds

/-- The joining device loses its peer before SYNCED. -/
def State.failAttach (why : BitVec 4) (s : State) : State :=
  let s := s.removeAll
  (s.twinChange { s.twin with role := .solo, pair := .none, leaveReason := why, received := [], detachAt := none }).attachEnds St.flagged

/-- The peer is declared lost. -/
def State.peerLost (why : BitVec 4) (s : State) : State :=
  if s.joining then s.failAttach why
  else if !s.together then s
  else
    match s.twin.role with
    | .solo => s
    | .active => s.goAlone .lost .active why
    | .standby =>
      if s.mirrored then
        let s := s.twinChange { s.twin with pair := .lost, leaveReason := why, swapAt := none, declared := if s.twin.peerActive then none else some s.up }
        if s.twin.peerActive then s.raiseAlert .promoteBlocked else s
      else s.failAttach why

/-- The peer has detached, or has lost this device: LOST, without a promotion (R462). A device that joins has no pair yet to lose. -/
def State.peerDetached (why : BitVec 4) (s : State) : State :=
  if s.twin.role = .standby ∧ s.mirrored then s.twinChange { s.twin with pair := .lost, leaveReason := why, declared := none, swapAt := none }
  else if s.joining then s else s.peerLost why

/-- An interval of 1,000 ns ends (R458). -/
def State.intervalEnd (s : State) : State :=
  let t := s.twin
  let k := s.now / 1000
  if k = t.hbEnd ∨ s.mg.inReset then s
  else if !s.together && !s.joining then s.setTwin { t with hbEnd := k, hbSeen := false, hbMissed := 0 }
  else if t.hbSeen then s.setTwin { t with hbEnd := k, hbSeen := false, hbMissed := 0 }
  else
    let s := (s.setTwin { t with hbEnd := k, hbMissed := t.hbMissed + 1 }).event 0x285 3 1
    if 3 ≤ t.hbMissed + 1 then s.peerLost 1 else s

/-! ## Promotion (R468, R469, R485) -/

/-- The blocks under test are restored, within 300 µs, and resume; until then their outputs stay safe. Their tests end as tests that were not
run. -/
def State.abortTests (s : State) : State :=
  let ks := s.kiln.tests
  let s := s.setKiln { s.kiln with aborted := ks.map (fun k => (k.dom, s.up + 300000)) }
  ks.foldl (fun s k =>
    let s := (s.reopen k).complete k.queue k.seq { status := St.flagged, r1 := 0x100 } { }
    k.waits.foldl (fun s w => match s.outstOf w.1 w.2 with
      | some o => s.begin_ o o.accept
      | none => s) s) (s.setKiln { s.kiln with tests := [] })

/-- A binding that has not been caught up fails from now on. -/
def State.leaveBehind (s : State) : State :=
  if s.bindings.any (fun e => e.2.catchup) then
    let lost := fun (v : Binding) => if v.catchup then { v with catchup := false, behind := true } else v
    let s := { s with bindings := s.bindings.map (fun (e : Nat × Binding) => (e.1, lost e.2)) }
    s.raiseAlert .unmapped
  else s

/-- 4 µs after D: role ACTIVE; records that waited for an entry are released, accepted jobs run or run again, and unacknowledged
records are offered again. Whether the lost device had dispatched a job is known by no message (log entry 92). -/
def State.promoted (s : State) : State :=
  let s := s.unmirror
  let t := s.twin
  let s := s.twinChange { t with role := .active, declared := none, enabled := false, received := [], promotions := satAdd t.promotions 1,
                                 commitIx := t.applied.toNat, shadowDone := [] }
  let s := ((s.event 0x2C7 0 1).abortTests).leaveBehind
  let s := s.runAgain (fun s _ => Config.hadDispatched s.freeIx)
  s.queues.foldl (fun s e => s.reoffer e.1) s

/-- What of a promotion is due: D is the later of the declaration and the moment at which the peer's pin is low. -/
def State.promotion (s : State) : State :=
  match s.twin.declared with
  | none => s
  | some d =>
    if s.twin.role ≠ .standby ∨ s.twin.pair ≠ .lost ∨ s.twin.peerActive then s
    else
      let t0 := max d (s.twin.peerLowAt.getD d)
      let s := if t0 + 50 ≤ s.up ∧ !s.twin.blocked then s.setTwin { s.twin with active := true } else s
      let s := if t0 + 2000 ≤ s.up then s.setTwin { s.twin with enabled := true } else s
      if t0 + 4000 ≤ s.up then s.promoted else s

/-! ## The effect of DETACH and of ROLE_SWAP (R462, R463) -/

/-- 10 µs after its acceptance a DETACH takes effect. -/
def State.detachEffect (s : State) : State :=
  match s.twin.detachAt with
  | none => s
  | some (c, q, sq) =>
    if s.now < c then s
    else
      let s := s.setTwin { s.twin with detachAt := none }
      let s := match s.twin.role with
        | .solo => s.attachEnds St.flagged
        | .active => s.goAlone .none .solo 3
        | .standby =>
          let s := s.removeAll.forgetWork
          (s.twinChange { s.twin with role := .solo, pair := .none, leaveReason := 3, declared := none, received := [], swapAt := none }).attachEnds St.flagged
      s.complete q sq { r0 := BitVec.ofNat 64 s.twin.role.num } { }

/-- At C the ACTIVE device becomes STANDBY; its peer raises its pin at C + 50 ns, once the pin it sees has been low for 50 ns (R453), and is ACTIVE at C + 100 ns. -/
def State.swapCount (s : State) : State :=
  match s.twin.swapAt with
  | none => s
  | some (c, q, sq) =>
    if s.twin.role = .active then
      if s.now < c ∨ !s.mirrored ∨ s.onDemandRunning ∨ s.twin.entries ≠ [] then s
      else
        let s := s.handOver.tell (.roleSwap s.now)
        let s := s.twinChange { s.twin with role := .standby, active := false, enabled := false, swapAt := none, received := [], declared := none }
        s.complete q sq { r0 := BitVec.ofNat 64 s.twin.role.num } { }
    else
      let s := if c + 50 ≤ s.now ∧ s.peerLow ∧ !s.twin.blocked then s.setTwin { s.twin with active := true } else s
      if c + 100 ≤ s.now then
        let s := s.unmirror
        let s := s.twinChange { s.twin with role := .active, enabled := false, swapAt := none, commitIx := s.twin.applied.toNat, received := [] }
        s.runAgain (fun _ _ => false)
      else s

/-! ## The events -/

/-- TWIN_PEER_ACTIVE changes (R452 to R454). -/
def execPeerActiveChange (level : Bool) (s : State) : Res := .next (s.peerPin level)

/-- An interval ends (R458). -/
def execHeartbeatIntervalEnd (s : State) : Res := .next s.intervalEnd

/-- A LEAVING flit arrives (R458). -/
def execLeavingReceived (s : State) : Res := .next (s.peerLost 2)

/-- A promotion goes on (R468). -/
def execPromotion (s : State) : Res := .next s.promotion

/-- The effect count of a DETACH (R462). -/
def execDetachEffect (s : State) : Res := .next s.detachEffect

/-- The swap count of a ROLE_SWAP (R463). -/
def execRoleSwapCount (s : State) : Res := .next s.swapCount

end Sys2Proof.Machine
end

