-- ==== Sys2Proof/Machine/Flits.lean ====
section
/-!
DEFINITION. Flits of the twin link: framing, sequence numbers, retry, and the messages they carry (16 R533 to R536, R540; 14 R457,
R459).
-/

set_option Elab.async false

namespace Sys2Proof.Machine

open Sys2Proof

/-! ## Sending (16 R533 to R535) -/

def flitBody (cls flags : Nat) (sq ack : BitVec 16) (payload : List Byte) : List Byte :=
  leBytes 1 cls ++ leBytes 1 flags ++ leBytes 2 sq.toNat ++ leBytes 2 ack.toNat ++ leBytes 1 payload.length ++ leBytes 1 0 ++ slice 0 52 payload

/-- A flit with its CRC-32. -/
def flit (cls flags : Nat) (sq ack : BitVec 16) (payload : List Byte) : List Byte :=
  let b := flitBody cls flags sq ack payload
  b ++ w32Bytes (crc32 b)

def TwinOut.cls : TwinOut → Nat
  | .heartbeat .. => 1
  | .leaving => 2
  | .roleSwap _ => 2
  | .pairState _ => 2
  | .lock => 3
  | .shadow .. => 4
  | .entry _ => 5
  | .ackEntry _ => 5
  | .catchupReq _ => 2
  | .copySet .. => 5
  | .bulkCopy .. => 5
  | .hostWrite .. => 5
  | .finalCopy .. => 5
  | .mirror .. => 6
  | .accepted .. => 6
  | .ackMirror .. => 6

/-- The bytes of a message: a commit entry is stated (14 R466), the others are not. A timebase lock carries the egress stamp of its first
transmission, corrected by tw_tx_dly, in 2⁻¹⁶ ns (16 R536). -/
def State.messageBytes (m : TwinOut) (s : State) : List Byte × State :=
  match m with
  | .entry bs => (bs, s)
  | .lock => (Config.lockBytes (s.now16 + fld s.twin.dly 32 32), s)
  | _ => (Config.twinBytes m.cls s.freeIx, { s with freeIx := s.freeIx + 1 })

/-- One flit of a message leaves, and is kept until it is acknowledged. -/
def State.sendFlit (cls : Nat) (bytes : List Byte) (s : State) : State :=
  let rest := bytes.drop 52
  let sq := s.twin.txSeq + 1
  let f := flit cls (if rest.isEmpty then 1 else 0) sq s.twin.rxSeq (bytes.take 52)
  let t := s.twin
  (s.setTwin { t with txSeq := sq, sent := t.sent ++ [f], replayBuf := t.replayBuf ++ [(sq, f)], part := Tbl.set [] cls rest t.part }).event 0x281 3 1

/-- A flit that carries nothing but the current ack: it has no sequence number and is not kept (R533, R534). -/
def State.idleFlit (s : State) : State := s.setTwin { s.twin with sent := s.twin.sent ++ [flit 0 0 0 s.twin.rxSeq []] }

/-- At a flit boundary the waiting flit of the lowest class leaves; where none waits, or 256 flits are unacknowledged, an idle flit does. -/
def State.pump (s : State) : State :=
  let t := s.twin
  if t.linkState ≠ 3 then s
  else if 256 ≤ t.replayBuf.length then s.idleFlit
  else
    let best := ((t.part.map (·.1)) ++ t.out.map TwinOut.cls).min?
    match best with
    | none => s.idleFlit
    | some k =>
      match Tbl.get [] k t.part, t.out.find? (fun m => decide (m.cls = k)) with
      | [], some m =>
        let r := (s.setTwin { t with out := t.out.erase m }).messageBytes m
        r.2.sendFlit k r.1
      | bs, _ => s.sendFlit k bs

/-! ## Acknowledgement and retry (16 R534) -/

/-- Whether a sequence number comes after another, modulo 2¹⁶. -/
def seqAfter (x y : BitVec 16) : Bool := decide (0 < (x - y).toNat ∧ (x - y).toNat < 32768)

def State.flitsAcked (ack : BitVec 16) (s : State) : State :=
  s.setTwin { s.twin with replayBuf := s.twin.replayBuf.filter (fun e => seqAfter e.1 ack) }

/-- A kept flit as it is sent again: resent set, with the current ack. -/
def resentFlit (ack : BitVec 16) (f : List Byte) : List Byte :=
  flit (leAt 0 1 f) (leAt 1 1 f ||| 4) (BitVec.ofNat 16 (leAt 2 2 f)) ack (slice 8 (leAt 6 1 f) f)

/-- A nak: every flit after its ack is sent again, in order. -/
def State.nakIn (ack : BitVec 16) (s : State) : State :=
  let s := s.flitsAcked ack
  let t := s.twin
  (s.setTwin { t with retries := satAdd t.retries 1, sent := t.sent ++ t.replayBuf.map (fun e => resentFlit t.rxSeq e.2) }).event 0x284 3 1

/-- A flit is discarded: one nak asks for it again. When the expected flit has been sent again 8 times without success, the lanes count as
unlocked. -/
def State.nakOut (again : Bool) (s : State) : State :=
  let t := s.twin
  let run := t.retryRun + b2n again
  let s := (s.setTwin { t with nakSent := true, retries := satAdd t.retries 1, retryRun := run,
                               sent := t.sent ++ [flit 0 2 0 t.rxSeq []] }).event 0x284 3 1
  if 8 ≤ run then s.setTwin { s.twin with linkState := 1, lanesLocked := 0, lockLoss := satAdd s.twin.lockLoss 1, retryRun := 0 } else s

/-! ## Messages (14 R457, R459, R460) -/

def roleOf (n : Nat) : Role := match n with
  | 1 => .active
  | 2 => .standby
  | _ => .solo

def pairOf (n : Nat) : PairSt := match n with
  | 1 => .lost
  | 2 => .bulk
  | 3 => .final
  | 4 => .synced
  | 5 => .catchup
  | _ => .none

/-- What BULK copies leaves the ACTIVE device: the host range, the section copies and the bindings (R460). -/
def State.sendBulk (s : State) : State :=
  s.tell (.bulkCopy s.hbm.mem s.kiln.copies s.slots s.lanes s.pushes s.pairs s.links s.bindings)

/-- A new pair state of the peer. A joining peer makes this device ACTIVE, in BULK; one in a LONG state stays SOLO (01 R35). A THROUGHPUT
standing job that is bound here goes on as it is: 01 R29 refuses its binding on an ACTIVE device and the ATTACH of a device that has it, and
is silent on the peer's (DESIGN CHOICE, log entry 216). -/
def State.peerPairIs (x : PairSt) (s : State) : State :=
  let t := s.twin
  match x with
  | .bulk =>
    if !s.stampLong ∧ !s.joining ∧ (t.role = .solo ∧ t.pair = .none) ∨ (t.role = .active ∧ t.pair = .lost) then
      (((s.twinChange { t with role := .active, pair := .bulk, hbMissed := 0, hbSeen := true, entries := [], blocked := false }).unalert .promoteBlocked).sendBulk).fireHeld
    else s
  | .none => s.peerDetached 3
  | .lost => s.peerDetached 1
  | .final => if t.role = .active ∧ t.pair = .bulk then (s.twinChange { t with pair := .final }).sendFinal else s
  | _ => if t.role = .active ∧ s.together ∧ t.pair ≠ .bulk then s.twinChange { t with pair := x } else s

/-- A role-change message: ROLE_SWAP with its count, a pair state, or a request for the copy set of a binding. LEAVING is an event of
its own. -/
def State.roleMessage (m : Nat × Nat) (s : State) : State :=
  match m.1 with
  | 2 => if s.twin.role = .standby ∧ s.mirrored then s.setTwin { s.twin with swapAt := some (m.2, 4096, 0) } else s
  | 3 => s.peerPairIs (pairOf m.2)
  | 4 => if s.mirrored && !s.twin.wanted.contains m.2 then s.setTwin { s.twin with wanted := s.twin.wanted ++ [m.2] } else s
  | _ => s

/-- A submission of the ACTIVE device: the STANDBY device enters it with its number and stamp, acknowledges it, and runs what is not
the data plane's. -/
def State.mirrorIn (p : Packet) (captured : List Byte) (stamp sq : Nat) (s : State) : State :=
  if sq < (s.queue p.q).nextSeq then s.tell (.ackMirror p.q sq)
  else
    let s := s.witness 0x20 0 s.now (leBytes 1 1 ++ packetBytes p)
    let s := s.updQueue p.q (fun v => { v with nextSeq := sq })
    let o := s.outstFor p captured stamp none
    ((s.enter o).tell (.ackMirror p.q sq)).begin_ o stamp

def State.mirrorMessage (bs : List Byte) (s : State) : State :=
  let m := Config.mirrored bs
  let p := packetOf m.1
  if s.twin.role ≠ .standby ∨ !s.mirrored ∨ 4096 ≤ p.q then s
  else
    match m.2 with
    | some (captured, stamp, sq) => s.mirrorIn p captured stamp sq
    | none => (s.acknowledge p.q p.hdr.w0.toNat false).tell (.ackMirror p.q 0)

/-- A whole message has come. Timebase locks, shadows and commit entries have events of their own. -/
def State.messageIn (cls : Nat) (bs : List Byte) (s : State) : State :=
  match cls with
  | 1 => s.setTwin { s.twin with hbSeen := true, peerRole := roleOf (Config.heartbeatRole bs), peerPair := pairOf (Config.heartbeatPair bs) }
  | 2 => s.roleMessage (Config.roleMessage bs)
  | 6 => s.mirrorMessage bs
  | _ => s

/-! ## Receiving -/

def flitGood (f : List Byte) : Bool := decide (f.length = 64) && decide (w32At 60 f = crc32 (f.take 60))

/-- A flit in sequence is accepted. -/
def State.flitTaken (f : List Byte) (s : State) : State :=
  let cls := leAt 0 1 f
  let t := s.twin
  let m := Tbl.get [] cls t.msg ++ slice 8 (min (leAt 6 1 f) 52) f
  let last := bit (BitVec.ofNat 64 (leAt 1 1 f)) 0
  let s := s.setTwin { t with rxSeq := BitVec.ofNat 16 (leAt 2 2 f), nakSent := false, retryRun := 0, msg := Tbl.set [] cls (if last then [] else m) t.msg }
  if last ∧ cls ≤ 6 then s.messageIn cls m else s

def State.flitIn (f : List Byte) (s : State) : State :=
  if s.twin.linkState ≠ 3 ∨ s.mg.inReset then s
  else if !flitGood f then
    let again := bit (BitVec.ofNat 64 (leAt 1 1 f)) 2 && decide (BitVec.ofNat 16 (leAt 2 2 f) = s.twin.rxSeq + 1)
    ((s.setTwin { s.twin with crcErr := satAdd s.twin.crcErr 1 }).event 0x282 3 1).nakOut again
  else
    let ack := BitVec.ofNat 16 (leAt 4 2 f)
    let s := s.event 0x280 3 1
    let s := if bit (BitVec.ofNat 64 (leAt 1 1 f)) 1 then s.nakIn ack else s.flitsAcked ack
    if leAt 0 1 f = 0 then s
    else if BitVec.ofNat 16 (leAt 2 2 f) = s.twin.rxSeq + 1 then s.flitTaken f
    else if s.twin.nakSent then s else s.nakOut false

/-! ## The events -/

/-- A flit arrives (16 R533, R534). -/
def execFlitReceived (fl : List Byte) (s : State) : Res := .next (s.flitIn fl)

/-- A nak arrives (16 R534). -/
def execNakReceived (ackd : BitVec 16) (s : State) : Res := .next (s.nakIn ackd)

end Sys2Proof.Machine
end

