-- ==== Sys2Proof/Machine/Entries.lean ====
section
/-!
DEFINITION. A replay under way: the entries of the log, each at its stamp, and the end of the replay (12 R414, R416, R420, R421; 01 R36;
08 R284; log entry 84).
-/

set_option Elab.async false

namespace Sys2Proof.Machine

open Sys2Proof

/-! ## Bindings from snapshots (12 R416, R419) -/

def wordsAt (o n : Nat) (bs : List Byte) : List W64 := (List.range n).map (fun i => w64At (o + 8 * i) bs)
def stampAt (o : Nat) (bs : List Byte) : Nat := leAt o 6 bs * 1000000000 + leAt (o + 6) 4 bs % 2 ^ 30

/-- A slot as it stood before its first recorded sample; what it needs is brought to FIRE (01 R23). -/
def State.replaySlot (n : Nat) (b : List Byte) (s : State) : State :=
  let st := w64At 64 b
  let start := stampAt (72 + 1024 + 160) b
  let ch := Chain.ofWords (wordsAt (72 + 1024) 10 b)
  let ch2 := Chain.ofWords (wordsAt (72 + 1024 + 80) 10 b)
  let s := (s.bindFresh n (some start) (wordsAt 0 6 b) [])
  let s := s.updSlot n (fun x => { x with
    auto := bit (w64At 48 b) 0, autoEff := bit st 3, flags := BitVec.ofNat 10 (leAt 56 2 b), lastOut := BitVec.ofNat 32 (fld st 32 32),
    staleCnt := BitVec.ofNat 8 (fld st 16 8), atHi := bit st 8, atLo := bit st 7, bankSel := bit st 5, fallback := bit st 4,
    bankA := Bank.ofWords (wordsAt 72 64 b), bankB := Bank.ofWords (wordsAt (72 + 512) 64 b), chain := ch,
    st := .running, lastEval := s.now - 1, computed := decide (leAt (72 + 1024 + 170) 1 b ≠ 0), fbTgt := w32At (72 + 1024 + 172) b })
  (if (s.slot n).paired then s.updSlot (partner n) (fun x => { x with chain := ch2, st := .pairCopy }) else s).fireHeld

def State.replayLane (n : Nat) (b : List Byte) (s : State) : State :=
  let x := (s.lane n).configure s.now (w64At 0 b) (w64At 8 b)
  s.setLane n { x with calA := w64At 16 b, calB := w64At 24 b, oc := w64At 32 b, bankSel := bit (w64At 40 b) 49 }

def State.replayPair (p : Nat) (b : List Byte) (s : State) : State :=
  s.updPair p (fun x => { x with cfg := w64At 0 b, time := w64At 8 b, shadow := w64At 16 b, active := w64At 24 b, loadedTo := s.now })

/-- A link that was bound is bound; of another the registers stand. -/
def State.replayLink (l : Nat) (b : List Byte) (s : State) : State :=
  let s := if !bit (w64At 0 b) 0 then s.updLink l (fun x => { x with cfg := w64At 0 b &&& linkMask, time := w64At 8 b, time2 := w64At 16 b, push := w64At 24 b &&& 0xFFF })
    else s.bindLinkTo l (stampAt 128 b) (w64At 0 b) (w64At 8 b) (w64At 16 b) (w64At 24 b)
  (s.updLink l (fun x => { x with seq := BitVec.ofNat 16 (leAt 32 2 b), cmd := (List.range 8).foldl (fun t k => Tbl.set 0xFFFFFFFFFFFFFFFF k (w64At (64 + 8 * k) b) t) [] })).fireHeld

def State.replayMailbox (m : Nat) (b : List Byte) (s : State) : State :=
  s.updMailbox m (fun x => { x with value := w32At 0 b, prev := w32At 0 b, pubs := [(stampAt 4 b, w32At 0 b)], pubCount := some (stampAt 4 b) })

/-- The saved sections, and where the coils begin. -/
def savedParts : Nat → List Byte → List (Nat × List Byte) × List Byte
  | 0, bs => ([], bs)
  | n + 1, bs =>
    let len := leAt 8 8 bs
    let r := savedParts n (bs.drop (16 + len))
    ((leAt 0 8 bs, slice 16 len bs) :: r.1, r.2)

def savedCoil (b : List Byte) : Coil :=
  let w := fun (i : Nat) => w64At (8 + 8 * i) b
  { store := fld (w 0) 22 2, base := fld (w 0) 0 22, size := fld (w 0) 32 32, head := fld (w 1) 32 22, headLap := bit (w 1) 54, tail := fld (w 1) 0 22,
    tailLap := bit (w 1) 22, accept := BitVec.ofNat 5 (fld (w 2) 20 5), policy := BitVec.ofNat 2 (fld (w 2) 15 2), receive := bit (w 2) 14, isOpen := bit (w 2) 13,
    elem := fld (w 2) 0 13, refused := BitVec.ofNat 32 (fld (w 3) 32 32), overrun := BitVec.ofNat 32 (fld (w 3) 0 32) }

/-- The coils of a binding's context, 40 bytes each. -/
def savedCoils (bs : List Byte) : Tbl Coil := (List.range (bs.length / 40)).map (fun i => (leAt (40 * i) 8 bs, savedCoil (bs.drop (40 * i))))

/-- The invocations of a binding begin with the one of its next boundary: earlier RESULT entries of its queue that no command or
invocation stands for are not theirs (12 R421). -/
def State.dropResults (q next : Nat) (s : State) : State :=
  let w := s.wit
  let rest := (logEntries (w.log.drop w.logPos).length (w.log.drop w.logPos)).getD []
  let later := (rest.filter (fun e => decide (logType e = 0x30 ∧ next ≤ logStamp e))).map resultEntry
  s.setWit { w with results := w.results.filter (fun e => decide (e.1 ≠ q) || w.accepts.any (fun a => decide (a.1 = q ∧ a.2.2.1 = e.2.1)) ||
    w.seqMap.any (fun m => decide (m.1 = q ∧ m.2.2 = e.2.1)) || later.contains e) }

/-- A standing binding: its image goes back to the address of its record, the job is bound with its next invocation and boundary, and
its saved footprint and coils stand. -/
def State.replayBinding (b : Nat) (c : List Byte) (s : State) : State :=
  let len := leAt 120 8 c
  let record := c.take 96
  let s := s.hbmStore (leAt 0 8 record) (slice 128 len c)
  let p : Packet := { packet 0x1004 { (default : Header) with queue := BitVec.ofNat 16 (leAt 114 2 c), tag := w32At 116 c } record with payload := record }
  let s := s.bindStandingAs b { seq := 0, accept := s.now, pkt := p, captured := [] }
  let parts := savedParts (leAt (128 + len) 8 c) (c.drop (136 + len))
  let next := stampAt 104 c
  let s := s.updBinding b (fun v => { v with inv := leAt 96 8 c, next := next, first := some next })
  match s.binding b with
  | none => s
  | some v =>
    let s := s.dropResults v.cqueue next
    match s.phys v.ltile with
    | none => s
    | some t =>
      let s := parts.1.foldl (fun s e => match storeAt e.1 with
        | some x => s.storeWrite t x.1 x.2 e.2
        | none => s) s
      let ctx : Ctx := { Ctx.fresh (v.job b) [] v.seed with live := false, coils := savedCoils parts.2 }
      match (s.tile t).freeSlot with
      | some w => s.updTile t (fun x => x.setSlot w (some ctx))
      | none => s

/-- A SNAPSHOT entry: the object that it describes. Queue and timebase registers are the host's own and stay. -/
def State.replaySnapshot (pl : List Byte) (s : State) : State :=
  let n := leAt 1 3 pl
  let b := slice 8 (leAt 4 4 pl) pl
  match leAt 0 1 pl with
  | 1 => s.replaySlot n b
  | 2 => s.replayLane n b
  | 3 => s.setPush n { reg := w64At 0 b, count := leAt 8 8 b, since := s.now }
  | 4 => s.replayPair n b
  | 5 => s.replayLink n b
  | 6 => s.replayMailbox n b
  | 7 => s.replayBinding n b
  | _ => s

/-! ## Inputs (12 R420) -/

def State.logRest (s : State) : List Byte := s.wit.log.drop s.wit.logPos

/-- The log still holds a value of lane `j` of a group for phase `c`. -/
def State.sampleAhead (g c j : Nat) (s : State) : Bool :=
  ((logEntries s.logRest.length s.logRest).getD []).any (fun e =>
    decide (logType e = 0x10 ∧ logSource e = g ∧ logStamp e = c) && decide (leAt 0 2 (logPayload e) / 2 ^ j % 2 = 1))

/-- SAMPLE: the raw values of a common phase; a lane of the group with that phase and no value in the log has none. -/
def State.replaySample (g c : Nat) (pl : List Byte) (s : State) : State :=
  let mask := leAt 0 2 pl
  let raws := (List.range ((pl.length - 2) / 4)).map (fun i => w32At (2 + 4 * i) pl)
  let has := fun (j : Nat) => decide (mask / 2 ^ j % 2 = 1)
  (List.range 16).foldl (fun s j =>
    let n := 16 * g + j
    if has j then s.laneThrough n c (some (raws.getD ((List.range j).filter has).length 0))
    else if (s.lane n).isPhase c && !(s.lane n).phase.any (fun p => decide (c ≤ p)) && !s.sampleAhead g c j then s.laneThrough n c none else s) s

/-- The delivery of a phase for which the log holds no value: pushes repeat what they had, and count the phase (08 R267). -/
def State.replayPhase (n : Nat) (s : State) : State :=
  let x := s.lane n
  if x.kind = 0 ∨ 4 < x.kind ∨ s.now < x.delay then s
  else match lastAt x.off x.per (s.now - x.delay) with
    | none => s
    | some c => if x.phase.any (fun p => decide (c ≤ p)) || s.sampleAhead (n / 16) c (n % 16) then s else s.laneThrough n c none

def laneEvOf (n : Nat) : LaneEv := match n with
  | 0 => .frame
  | 1 => .late
  | 2 => .loss
  | _ => .code

/-- ACK in a replay acknowledges the replayed records whose recorded numbers it names. -/
def State.replayAck (p : Packet) (s : State) : State :=
  let ns := (s.wit.seqMap.filter (fun m => decide (m.1 = p.q ∧ m.2.2 ≤ p.hdr.w0.toNat))).map (fun m => m.2.1)
  match ns.max? with
  | some n => s.acknowledge p.q (min n (s.queue p.q).released) false
  | none => s

/-- PACKET: the command takes the stamp and the code of its ACCEPT entry, and a new number; its tag is not held. The events of acceptance
count as in any run (17 R547). -/
def State.replayPacket (stamp : Nat) (p : Packet) (s : State) : State :=
  let w := s.wit
  let used := fun (a : Nat × Nat × Nat × Nat × Nat) => w.seqMap.any (fun m => decide (m.1 = p.q ∧ m.2.2 = a.2.2.1))
  match w.accepts.find? (fun a => decide (a.1 = p.q ∧ a.2.1 = p.hdr.tag.toNat ∧ stamp ≤ a.2.2.2.2) && (decide (a.2.2.2.1 ≠ 0) || !used a)) with
  | none => s
  | some a =>
    if a.2.2.2.1 ≠ 0 then
      let s := if a.2.2.2.1 = Code.duplicate.toNat then s else s.event 0x1C1 0 1
      if a.2.2.2.1 = Code.infeasible.toNat then s.event 0x1C2 0 1 else s
    else if !(s.queue p.q).enabled || !classTakes p.q (s.queue p.q).dataClass p.op then s.setWit { w with skipped := satAdd w.skipped 1 }
    else if p.op = 1 then (s.event 0x1C0 0 1).replayAck p
    else
      let o := { s.outstFor p (s.captureOf p) a.2.2.2.2 (s.pinOf p stamp) with replayed := true }
      let s := s.setWit { w with seqMap := w.seqMap ++ [(p.q, o.seq, a.2.2.1)] }
      ((s.enter o).event 0x1C0 0 1).begin_ o stamp

/-- START: the increment, and the default mode of determinism. -/
def State.replayBegin (pl : List Byte) (s : State) : State :=
  let det := at64 (leAt 40 1 pl % 2) 0
  let s := s.setTb { s.tb with inc := limitInc (w64At 43 pl) }
  if s.mg.detDefault = det then s
  else
    let old := s.mg.detDefault
    (s.setMg { s.mg with detDefault := det }).journalNow byDevice (at64 0x108 0) (some (w64Bytes old)) (some (w64Bytes det))

/-- One entry of the log. PTP and time events were inputs of the timebase, which now follows INCREMENT; ACCEPT, COMMIT_CUT, COIL_ORDER and
RESULT have been taken beforehand. -/
def State.replayOne (e : List Byte) (s : State) : State :=
  let pl := logPayload e
  match logType e with
  | 0x01 => s.replayBegin pl
  | 0x02 => s.replaySnapshot pl
  | 0x03 => s.setTb { s.tb with inc := limitInc (w64At 0 pl) }
  | 0x10 => s.replaySample (logSource e) (logStamp e) pl
  | 0x11 => s.laneEvent (leAt 0 1 pl) (laneEvOf (leAt 1 1 pl))
  | 0x12 => s.tripEdge (leAt 0 1 pl) (decide (leAt 1 1 pl = 0))
  | 0x13 => s.ocRaise (leAt 0 1 pl)
  | 0x14 => s.pushElement (logSource e) pl
  | 0x20 => s.replayPacket (logStamp e) (packetOf (pl.drop 1))
  | _ => s

/-- The next entry is applied once its stamp is reached. -/
def State.replayEntry (s : State) : State :=
  let bs := s.logRest
  if s.wit.mode ≠ .replay ∨ bs = [] then s
  else
    let e := bs.take (entrySize bs)
    if logType e = 0x3E ∨ logType e = 0x3F ∨ s.now < logStamp e then s
    else (s.setWit { s.wit with logPos := s.wit.logPos + entrySize bs }).replayOne e

/-- A replay ends at END, at a GAP, which is counted, or at the end of the log. -/
def State.replayOver (s : State) : State :=
  let bs := s.logRest
  let w := s.wit
  if w.mode ≠ .replay then s
  else if bs = [] then s.replayEnd false
  else if s.now < logStamp bs then s
  else if logType bs = 0x3E then s.replayEnd false
  else if logType bs = 0x3F then (s.setWit { w with gaps := satAdd w.gaps 1, gapMet := true }).replayEnd false
  else s

/-! ## The events -/

/-- A lane delivers the sample of a phase; in a replay the values come from the log (08 R257, R261 to R268, R284). -/
def execLaneSample (n : Nat) (bits : List Bool) (s : State) : Res :=
  within n 64 (if s.wit.mode = .replay then s.replayPhase n else s.laneSample n bits)

/-- The stamp of an entry (12 R420). -/
def execReplayEntry (s : State) : Res := .next s.replayEntry

/-- A replay ends (12 R421, R422). -/
def execReplayEnd (s : State) : Res := .next s.replayOver

end Sys2Proof.Machine
end

