-- ==== Sys2Proof/Machine/Clock.lean ====
section
/-!
DEFINITION. The tick of the timebase and what goes with it (12 R400, R417, R422; 08 R278 to R282; 14 R453; 16 R535).
-/

set_option Elab.async false

namespace Sys2Proof.Machine

open Sys2Proof

/-! ## Cycle counters (17 R551) -/

/-- The events that count cycles of a tile at FIRE: all of them, those of the budget watchdog, and those at the lower clock steps. -/
def cycleEvents : List Nat := [0x000, 0x001, 0x030, 0x031]

/-- A counter of the tile, or a global one, has selected an event that counts cycles. -/
def State.countsCycles (p : Nat) (s : State) : Bool :=
  (s.tile p).evc.any (fun e => bit e.2.sel 8 && cycleEvents.contains (fld e.2.sel 0 8)) ||
    s.evc.any (fun e => bit e.2.sel 10 && cycleEvents.contains (fld e.2.sel 0 10))

/-- The cycles of a tile between two instants, by the ratio of its clock step. -/
def State.tileCycles (p a b : Nat) (s : State) : Nat :=
  let r := clkRatio (s.tile p).clkStep
  b * r.1 / r.2 - a * r.1 / r.2

def State.countCycles (a b : Nat) (s : State) : State :=
  ((List.range 68).filter (fun p => s.countsCycles p)).foldl (fun s p =>
    let n := s.tileCycles p a b
    let t := s.tile p
    let runs := [t.ctx0, t.ctx1].any (fun c => c.any (fun c => c.live && c.started.isSome))
    let s := s.tileEvent p 0x000 n
    let s := if runs && decide (t.clkStep = 0) then s.tileEvent p 0x001 n else s
    if t.clkStep = 1 then s.tileEvent p 0x030 n else if t.clkStep = 2 then s.tileEvent p 0x031 n else s) s

/-- What has failed meanwhile takes its effect: tiles (14 R477), and on a SOLO device commands that lay on a failed pseudo-channel (13 R434). -/
def State.failures (s : State) : State :=
  ((s.tiles.filter (fun e => e.2.failing && !e.2.failed)).foldl (fun s e => s.failTile e.1) s).loseNow

/-- One tick: the counter, the shadow counter of a replay, the PWM carriers up to the new count, the interlock pin, one entry of the
witness buffer, one flit, a waiting frame of each Ethernet port, the clock steps that are due, the streams, failures, and the cycle counters.
The counter stands still during a power-on reset. -/
def State.tick (s : State) : State :=
  if s.mg.inReset && decide (s.mg.resetCause = 0) then s
  else
    let a := s.tb.steps12
    let b := { s.tb.tick with shadow := s.tb.shadow.map ShadowCtr.tick }
    let t := (s.setTb b).runPairs a b.steps12
    let t := ((((t.interlock.raisePin).witDrain).pump.portNext 0).portNext 1).clockSteps
    (t.streamsOn.failures).countCycles s.up t.up

/-- A tick of the timebase (12 R400). -/
def execTimebaseTick (s : State) : Res := .next s.tick

end Sys2Proof.Machine
end

