-- ==== Sys2Proof/Machine/Vector.lean ====
section
/-!
DEFINITION. The vector engine: lanes, integer and floating-point operations, converts, loads and stores, projections,
reductions and the lane generator (05 R147, R151, R156 to R159, R170; 03 R91 to R116; 12 R396, R397; 02 R66 to R69).
-/

set_option Elab.async false

namespace Sys2Proof.Machine

open Sys2Proof

/-! ## Lanes (R141) -/

def lanesOf (x : BitVec 2048) : List W32 := (List.range 64).map (fun j => x.extractLsb' (32 * j) 32)

/-- Elements of `w` bits from the least significant end. -/
def packNat (w : Nat) : List Nat → Nat
  | [] => 0
  | x :: xs => x % 2 ^ w + 2 ^ w * packNat w xs

def ofLanes (ws : List W32) : BitVec 2048 := BitVec.ofNat 2048 (packNat 32 (ws.map BitVec.toNat))

/-- One result for each lane that the mask enables; a disabled lane keeps its destination and raises no flag. -/
def maskLanes (m : W64) (old : List W32) (new : List (W32 × W32)) : List W32 × W32 :=
  let rs := (old.zip new).zipIdx.map (fun e => if bit m e.2 then e.1.2 else (e.1.1, 0))
  (rs.map (·.1), rs.foldl (fun f r => f ||| r.2) 0)

/-- A lane operation's operands. -/
structure Lane3 where
  a : W32
  b : W32
  c : W32
  deriving DecidableEq, Repr

def laneArgs (h : At) : List Lane3 :=
  let a := lanesOf (h.c.vec (Fmt.a h.f))
  let b := lanesOf (h.c.vec (Fmt.b h.f))
  let c := lanesOf (h.c.vec (Fmt.c h.f))
  (a.zip (b.zip c)).map (fun x => { a := x.1, b := x.2.1, c := x.2.2 })

/-- vd ← op of va, vb and vc on every enabled lane. -/
def lanesOp (op : Lane3 → W32 × W32) : Body := fun h s =>
  let r := maskLanes (h.c.mask (Fmt.k h.f)) (lanesOf (h.c.vec (Fmt.d h.f))) ((laneArgs h).map op)
  h.done (fun c => (c.setVec (Fmt.d h.f) (ofLanes r.1)).raise 1 r.2) s

/-- kd ← a condition on every enabled lane; a disabled lane keeps its bit. -/
def maskOp (op : Lane3 → Bool × W32) : Body := fun h s =>
  let m := h.c.mask (Fmt.k h.f)
  let old := h.c.mask (Fmt.d h.f)
  let rs := (laneArgs h).zipIdx.map (fun e => if bit m e.2 then op e.1 else (bit old e.2, 0))
  let v := BitVec.ofNat 64 (packNat 1 (rs.map (fun r => b2n r.1)))
  h.done (fun c => (c.setMask (Fmt.d h.f) v).raise 1 (rs.foldl (fun f r => f ||| r.2) 0)) s

/-- VSEL: lane from va where k is 1, else from vb; every lane is written. -/
def selOp : Body := fun h s =>
  let m := h.c.mask (Fmt.k h.f)
  h.done (fun c => c.setVec (Fmt.d h.f) (ofLanes ((laneArgs h).zipIdx.map (fun e => if bit m e.2 then e.1.a else e.1.b)))) s

/-! ## Integer lanes (R147, R156) -/

/-- A lane as a number of its lane type: 0 is signed, 1 unsigned. -/
def laneInt (u : Bool) (x : W32) : Int := if u then (x.toNat : Int) else x.toInt

/-- Saturation by lane type. -/
def laneSat (u : Bool) (x : Int) : W32 × W32 :=
  let y := if u then clampI x 0 (2 ^ 32 - 1) else sat32 x
  (i32 y, Fl.when (decide (y ≠ x)) Fl.sat)

def unsignedLane (h : At) : Bool := decide (Fmt.lt h.f = 1)

/-- An integer operation without a flag. -/
def intOp (op : Bool → W32 → W32 → W32) : Body := fun h => lanesOp (fun l => (op (unsignedLane h) l.a l.b, 0)) h

/-- An integer operation that saturates. -/
def intSat (op : Int → Int → Int) : Body := fun h =>
  lanesOp (fun l => laneSat (unsignedLane h) (op (laneInt (unsignedLane h) l.a) (laneInt (unsignedLane h) l.b))) h

/-- The conditions of VCMP: 0 EQ, 1 NE, 2 LT, 3 LE, 4 GT, 5 GE. -/
def intCc (cc : Nat) (a b : Int) : Bool :=
  match cc with
  | 0 => decide (a = b)
  | 1 => decide (a ≠ b)
  | 2 => decide (a < b)
  | 3 => decide (a ≤ b)
  | 4 => decide (a > b)
  | _ => decide (a ≥ b)

/-- Compares name a mask and a condition. -/
def goodCmp (lts : List Nat) (f : BitVec 48) : Bool :=
  lts.contains (Fmt.lt f) && decide (Fmt.d f < 8 ∧ Fmt.c f = 0 ∧ fld f 3 16 = 0 ∧ fld f 0 3 ≤ 5)

def execVadd (t : Nat) (f : BitVec 48) (s : State) : Res := issue t f (goodV 2 [0, 1] f) (intOp (fun _ a b => a + b)) s
def execVsub (t : Nat) (f : BitVec 48) (s : State) : Res := issue t f (goodV 2 [0, 1] f) (intOp (fun _ a b => a - b)) s
def execVand (t : Nat) (f : BitVec 48) (s : State) : Res := issue t f (goodV 2 [0, 1] f) (intOp (fun _ a b => a &&& b)) s
def execVor (t : Nat) (f : BitVec 48) (s : State) : Res := issue t f (goodV 2 [0, 1] f) (intOp (fun _ a b => a ||| b)) s
def execVxor (t : Nat) (f : BitVec 48) (s : State) : Res := issue t f (goodV 2 [0, 1] f) (intOp (fun _ a b => a ^^^ b)) s
def execVshl (t : Nat) (f : BitVec 48) (s : State) : Res := issue t f (goodV 2 [0, 1] f) (intOp (fun _ a b => a <<< fld b 0 5)) s
def execVshr (t : Nat) (f : BitVec 48) (s : State) : Res := issue t f (goodV 2 [0, 1] f) (intOp (fun _ a b => a >>> fld b 0 5)) s
def execVsar (t : Nat) (f : BitVec 48) (s : State) : Res := issue t f (goodV 2 [0, 1] f) (intOp (fun _ a b => a.sshiftRight (fld b 0 5))) s
def execVadds (t : Nat) (f : BitVec 48) (s : State) : Res := issue t f (goodV 2 [0, 1] f) (intSat (· + ·)) s
def execVsubs (t : Nat) (f : BitVec 48) (s : State) : Res := issue t f (goodV 2 [0, 1] f) (intSat (· - ·)) s
def execVmulI (t : Nat) (f : BitVec 48) (s : State) : Res := issue t f (goodV 2 [0, 1] f) (intOp (fun _ a b => a * b)) s
def execVmuls (t : Nat) (f : BitVec 48) (s : State) : Res := issue t f (goodV 2 [0, 1] f) (intSat (· * ·)) s
def execVmin (t : Nat) (f : BitVec 48) (s : State) : Res :=
  issue t f (goodV 2 [0, 1] f) (intOp (fun u a b => if laneInt u a ≤ laneInt u b then a else b)) s
def execVmax (t : Nat) (f : BitVec 48) (s : State) : Res :=
  issue t f (goodV 2 [0, 1] f) (intOp (fun u a b => if laneInt u a ≤ laneInt u b then b else a)) s
def execVcmp (t : Nat) (f : BitVec 48) (s : State) : Res :=
  issue t f (goodCmp [0, 1] f) (fun h => maskOp (fun l => (intCc (fld h.f 0 3) (laneInt (unsignedLane h) l.a) (laneInt (unsignedLane h) l.b), 0)) h) s
/-- The table gives VSEL and VBCAST no lane type: 0 and 1 are taken, as of the other integer forms (DESIGN CHOICE: log entry 214). -/
def execVsel (t : Nat) (f : BitVec 48) (s : State) : Res := issue t f (goodV 2 [0, 1] f) selOp s
def execVneg (t : Nat) (f : BitVec 48) (s : State) : Res := issue t f (goodV 1 [0, 1] f) (intOp (fun _ a _ => -a)) s
def execVabs (t : Nat) (f : BitVec 48) (s : State) : Res :=
  issue t f (goodV 1 [0, 1] f) (intOp (fun u a _ => if u || decide (a.toInt ≥ 0) then a else -a)) s
/-- Lane types 0 and 1 are taken (DESIGN CHOICE: log entry 214). -/
def execVbcast (t : Nat) (f : BitVec 48) (s : State) : Res :=
  issue t f (goodV 1 [0, 1] f) (fun h => lanesOp (fun _ => ((h.c.reg (Fmt.a h.f)).setWidth 32, 0)) h) s

/-! ## Floating-point lanes (R147, R156) -/

/-- Two operands. -/
def fpOp (op : W32 → W32 → W32 × W32) : Body := lanesOp (fun l => op l.a l.b)

/-- round(trunc(a * b) + c). -/
def vmula (a b c : W32) : W32 × W32 :=
  let p := fmulT a b
  let r := fadd p.1 c
  (r.1, p.2 ||| r.2)

def execVaddF (t : Nat) (f : BitVec 48) (s : State) : Res := issue t f (goodV 2 [2] f) (fpOp fadd) s
def execVsubF (t : Nat) (f : BitVec 48) (s : State) : Res := issue t f (goodV 2 [2] f) (fpOp fsub) s
def execVmulF (t : Nat) (f : BitVec 48) (s : State) : Res := issue t f (goodV 2 [2] f) (fpOp fmulT) s
def execVmulaF (t : Nat) (f : BitVec 48) (s : State) : Res := issue t f (goodV 3 [2] f) (lanesOp (fun l => vmula l.a l.b l.c)) s
def execVminF (t : Nat) (f : BitVec 48) (s : State) : Res := issue t f (goodV 2 [2] f) (fpOp (fminmax false)) s
def execVmaxF (t : Nat) (f : BitVec 48) (s : State) : Res := issue t f (goodV 2 [2] f) (fpOp (fminmax true)) s
def execVminnum (t : Nat) (f : BitVec 48) (s : State) : Res := issue t f (goodV 2 [2] f) (fpOp (fminmaxnum false)) s
def execVmaxnum (t : Nat) (f : BitVec 48) (s : State) : Res := issue t f (goodV 2 [2] f) (fpOp (fminmaxnum true)) s
def execVcmpF (t : Nat) (f : BitVec 48) (s : State) : Res :=
  issue t f (goodCmp [2] f) (fun h => maskOp (fun l => fcmp (fld h.f 0 3) l.a l.b) h) s
def execVselF (t : Nat) (f : BitVec 48) (s : State) : Res := issue t f (goodV 2 [2] f) selOp s
def execVnegF (t : Nat) (f : BitVec 48) (s : State) : Res := issue t f (goodV 1 [2] f) (lanesOp (fun l => (fneg l.a, 0))) s
def execVabsF (t : Nat) (f : BitVec 48) (s : State) : Res := issue t f (goodV 1 [2] f) (lanesOp (fun l => (l.a &&& 0x7FFFFFFF, 0))) s
def execVcpysgn (t : Nat) (f : BitVec 48) (s : State) : Res :=
  issue t f (goodV 2 [2] f) (lanesOp (fun l => ((l.a &&& 0x7FFFFFFF) ||| (l.b &&& 0x80000000), 0))) s

/-! ## Converts (R147; 03 R113 to R115) -/

/-- Bits of a format: 0 FP32, 1 FP16, 2 F8, 3 INT8, 4 UINT8, 5 INT32, 6 UINT32, 7 INT4, 8 UINT4. -/
def fmtBits : Nat → Nat
  | 0 => 32
  | 1 => 16
  | 2 => 8
  | 3 => 8
  | 4 => 8
  | 5 => 32
  | 6 => 32
  | _ => 4

def fmtInt (x : Nat) : Bool := decide (3 ≤ x)
def fmtSigned (x : Nat) : Bool := decide (x = 3 ∨ x = 5 ∨ x = 7)

/-- The pairs that R113 to R115 give: between floating-point formats FP32 and FP16 to each other and to F8, F8 to both; every
integer target from FP32 and FP16, and FP32 and FP16 from every integer. -/
def cvtPair (src dst : Nat) : Bool :=
  decide (src ≤ 8 ∧ dst ≤ 8 ∧ src ≠ dst) && (if fmtInt src then decide (dst ≤ 1) else if fmtInt dst then decide (src ≤ 1) else true)

def intLo (x : Nat) : Int := if fmtSigned x then -(2 ^ (fmtBits x - 1)) else 0
def intHi (x : Nat) : Int := if fmtSigned x then 2 ^ (fmtBits x - 1) - 1 else 2 ^ fmtBits x - 1

/-- An element of the source format, with the flag of a subnormal that is read as zero. -/
def cvtRead (src v : Nat) : Num × W32 :=
  match src with
  | 0 => (f32Num (BitVec.ofNat 32 v), f32Fz (BitVec.ofNat 32 v))
  | 1 => (f16Num (BitVec.ofNat 16 v), 0)
  | 2 => (f8Num (BitVec.ofNat 8 v), 0)
  | x => (Num.ofInt (if fmtSigned x && decide (2 ^ (fmtBits x - 1) ≤ v) then (v : Int) - 2 ^ fmtBits x else v), 0)

/-- One convert: the element's bits and its flags. -/
def cvt (src dst v : Nat) : Nat × W32 :=
  let x := cvtRead src v
  let r : Nat × W32 := match dst with
    | 0 => ((num32 x.1).1.toNat, (num32 x.1).2)
    | 1 => ((num16 x.1).1.toNat, (num16 x.1).2)
    | 2 => ((numF8 x.1).1.toNat, (numF8 x.1).2)
    | d =>
      let q := numInt (intLo d) (intHi d) x.1
      ((BitVec.ofInt (fmtBits d) q.1).toNat, q.2)
  (r.1, r.2 ||| x.2)

def execVcvt (t : Nat) (minor : Byte) (f : BitVec 48) (s : State) : Res :=
  let src := fld minor 4 4
  let dst := fld minor 0 4
  issue t f (cvtPair src dst && goodV 1 [0] f) (fun h s =>
    let m := h.c.mask (Fmt.k h.f)
    let ws := fmtBits src
    let wd := fmtBits dst
    let x := h.c.vec (Fmt.a h.f)
    let y := h.c.vec (Fmt.d h.f)
    let rs := (List.range 64).map (fun j => if bit m j then cvt src dst (fld x (ws * j) ws) else (fld y (wd * j) wd, 0))
    h.done (fun c => (c.setVec (Fmt.d h.f) (BitVec.ofNat 2048 (packNat wd (rs.map (·.1))))).raise 1 (rs.foldl (fun a r => a ||| r.2) 0)) s) s

/-! ## Loads, stores and coil operands (R156, R159; 02 R66, R68, R69) -/

/-- A coil that an instruction may write elements of a size to. -/
def At.coilGood (h : At) (n bytes : Nat) : Bool := (h.c.coil n).isOpen && !(h.c.coil n).receive && decide ((h.c.coil n).elem = bytes)

/-- The local producer of a coil element: the coil is open, no receive coil, and of the element's size; `write` writes the
element at a store offset. A full BLOCK coil stalls; the tail advances when the element is whole. -/
def At.push (h : At) (n bytes : Nat) (write : Nat → Nat → State → State × Halt) (s : State) : State × Halt :=
  let k := (h.c.coil n)
  if !h.coilGood n bytes then (s, h.bad)
  else match k.room with
    | .blocked => (s, .wait)
    | .dropped k' => ((h.set (Ctx.setCoil n k') s).tileEvent h.p 0x22 1, .ok)
    | .ready k' =>
      match s.need h.p [{ write := true, st := k'.store, off := k'.base + k'.tail, n := bytes }] with
      | .ok =>
        let r := write k'.store (k'.base + k'.tail) s
        (match r.2 with
         | .ok =>
           let s := (h.set (Ctx.setCoil n k'.pushed) r.1).updTile h.p Tile.wake
           (if k'.overrun ≠ k.overrun then s.tileEvent h.p 0x22 1 else s, .ok)
         | e => (r.1, e))
      | e => (s, e)

/-- The head element of a coil is read and popped; an empty coil blocks the context until an element arrives (02 R68). -/
def At.pop (h : At) (eng n bytes : Nat) (k : List Byte → State → State × Halt) (s : State) : State × Halt :=
  let c := h.c.coil n
  if !c.isOpen || decide (c.elem ≠ bytes) then (s, h.bad)
  else if c.empty then (h.set (fun x => { x with wait := some (.coil n 1), waitSince := s.now }) s, .hold)
  else h.reading eng c.store (c.base + c.head) bytes (fun bs s => k bs (h.set (Ctx.setCoil n c.pop) s)) s

/-- Words of the enabled lanes, written one by one where some lane is disabled (R156). -/
def At.putLanes (h : At) (m : W64) (ws : List W32) (st off : Nat) (s : State) : State :=
  if m = BitVec.allOnes 64 then s.ownWrite h.p h.w st off (bytesOfWords ws)
  else ws.zipIdx.foldl (fun s e => if bit m e.2 then s.ownWrite h.p h.w st (off + 4 * e.2) (w32Bytes e.1) else s) s

/-- VLD and VST: modifier [22] selects a coil, whose form has offset zero. What the store field then holds is not stated: 0 to 2, which are
ignored (DESIGN CHOICE: log entry 214). -/
def goodVm (f : BitVec 48) : Bool :=
  decide (Fmt.store f ≤ 2 ∧ fld f 26 6 = 0) && (!bit f 22 || decide (fld f 0 22 = 0))

def execVld (t : Nat) (f : BitVec 48) (s : State) : Res :=
  issue t f (goodVm f) (fun h s =>
    let m := h.c.mask (fld h.f 23 3)
    let load := fun (bs : List Byte) (s : State) =>
      let r := maskLanes m (lanesOf (h.c.vec (Fmt.d h.f))) ((wordsOf bs).map (fun w => (w, (0 : W32))))
      h.done (fun c => c.setVec (Fmt.d h.f) (ofLanes r.1)) s
    if bit h.f 22 then h.pop 1 (Fmt.a h.f) 256 load s
    else match h.addr 4 with
      | none => (s, h.bad)
      | some a => h.reading 1 (Fmt.store h.f) a 256 load s) s

def execVst (t : Nat) (f : BitVec 48) (s : State) : Res :=
  issue t f (goodVm f) (fun h s =>
    let m := h.c.mask (fld h.f 23 3)
    let ws := lanesOf (h.c.vec (Fmt.d h.f))
    if bit h.f 22 then h.push (Fmt.a h.f) 256 (fun st off s => (h.putLanes m ws st off s, .ok)) s
    else match h.addr 4 with
      | none => (s, h.bad)
      | some a =>
        match h.access true (Fmt.store h.f) a 256 s with
        | .ok => (h.putLanes m ws (Fmt.store h.f) a s, .ok)
        | e => (s, e)) s

/-- VMOVG: a lane into gd, sign-extended for lane type 0, zero-extended for 1 and 2. -/
def execVmovg (t : Nat) (f : BitVec 48) (s : State) : Res :=
  issue t f (decide (Fmt.lt f ≤ 2 ∧ Fmt.k f = 0 ∧ Fmt.b f = 0 ∧ Fmt.c f = 0 ∧ fld f 6 13 = 0)) (fun h s =>
    let x : W32 := (h.c.vec (Fmt.a h.f)).extractLsb' (32 * fld h.f 0 6) 32
    h.done (fun c => c.setReg (Fmt.d h.f) (if Fmt.lt h.f = 0 then x.signExtend 64 else x.setWidth 64)) s) s

/-! ## Projections and reductions (R157, R158) -/

def execVclamp (t : Nat) (f : BitVec 48) (s : State) : Res :=
  issue t f (goodV 3 [2] f) (lanesOp (fun l => fclamp l.a l.b l.c)) s

/-- A reduction into lane 0; a disabled lane counts as `unit`. -/
def redOp (unit : W32) (op : W32 → W32 → W32 × W32) : Body := fun h s =>
  let m := h.c.mask (Fmt.k h.f)
  let xs := (lanesOf (h.c.vec (Fmt.a h.f))).zipIdx.map (fun e => if bit m e.2 then e.1 else unit)
  let r := treeReduce op xs
  h.done (fun c => (c.setVec (Fmt.d h.f) (r.1.setWidth 2048)).raise 1 r.2) s

def execVredAddF (t : Nat) (f : BitVec 48) (s : State) : Res := issue t f (goodV 1 [2] f) (redOp 0 fadd) s
def execVredAddI (t : Nat) (f : BitVec 48) (s : State) : Res :=
  issue t f (goodV 1 [0] f) (redOp 0 (fun a b => laneSat false (a.toInt + b.toInt))) s
def execVredMaxF (t : Nat) (f : BitVec 48) (s : State) : Res := issue t f (goodV 1 [2] f) (redOp 0xFF800000 (fminmax true)) s

/-! ## The lane generator (R170; 12 R396, R397) -/

structure Rng where
  x0 : W32
  x1 : W32
  x2 : W32
  x3 : W32
  deriving DecidableEq, Repr

def rngRound (k : List W32) (r : Nat) (x : Rng) : Rng :=
  let x0 := x.x0 + (x.x1 ^^^ k.getD (r % 4) 0)
  let x3 := (x.x3 ^^^ x0).rotateLeft 16
  let x2 := x.x2 + (x3 ^^^ k.getD ((r + 1) % 4) 0)
  let x1 := (x.x1 ^^^ x2).rotateLeft 12
  let x0 := x0 + x1
  let x3 := (x3 ^^^ x0).rotateLeft 8
  let x2 := x2 + x3
  { x0 := x0, x1 := (x1 ^^^ x2).rotateLeft 7, x2 := x2, x3 := x3 }

def laneRng (seed : W64) (tid lane : Nat) (inv : W32) (idx : W64) : W32 :=
  let k : List W32 := [seed.setWidth 32, seed.extractLsb' 32 32, BitVec.ofNat 32 (tid % 256 * 256 + lane % 256), 0x9E3779B9]
  let x := (List.range 10).foldl (fun x r => rngRound k r x)
    ({ x0 := idx.setWidth 32, x1 := idx.extractLsb' 32 32, x2 := inv, x3 := 0x50454C52 } : Rng)
  x.x0 ^^^ x.x2

/-- tid is the reserved logical tile of a standing job, and 0x7F for every on-demand job (12 R397). -/
def State.tid (c : Ctx) (s : State) : Nat :=
  match c.job.binding with
  | some b => (match s.binding b with
    | some v => v.ltile
    | none => 0x7F)
  | none => 0x7F

def execVrand (t : Nat) (f : BitVec 48) (s : State) : Res :=
  issue t f (goodV 0 [1] f) (fun h s =>
    let tid := s.tid h.c
    let idx : W64 := BitVec.ofNat 64 (2 ^ 47) + h.c.draw.setWidth 64
    let new := (List.range 64).map (fun j => (laneRng h.c.seed tid j h.c.inv idx, (0 : W32)))
    let r := maskLanes (h.c.mask (Fmt.k h.f)) (lanesOf (h.c.vec (Fmt.d h.f))) new
    h.done (fun c => { (c.setVec (Fmt.d h.f) (ofLanes r.1)) with draw := h.c.draw + 1 }) s) s

end Sys2Proof.Machine
end

