-- ==== Sys2Proof/Machine/Quant.lean ====
section
/-!
DEFINITION. Block quantisation, requantisation and tempering stores, and the hash assist (04 R118 to R140; 05 R147 VQUANT,
R172, R175; 03 R95, R96).
-/

set_option Elab.async false

namespace Sys2Proof.Machine

open Sys2Proof

/-! ## Store references and groups of ranges (05 R147, R172) -/

/-- A reference of the VQUANT form: store 0 W, 1 A, 2 P, offset a multiple of 64. -/
def refVq (x : Nat) : Bool := decide (refSt x ≤ 2 ∧ refOff x % 64 = 0)

/-- Every range lies in the footprint, and written ones may be written. -/
def At.allows (h : At) (rs : List Range) : Bool :=
  rs.all (fun r => decide (r.n = 0) || (inFoot h.c.job.image r.st r.off r.n && (!r.write || h.c.mayWrite r.st r.off r.n)))

/-- Reads several ranges; answers their bytes and the location of the first uncorrectable word. -/
def At.reads (h : At) (eng : Nat) : List (Nat × Nat × Nat) → State → List (List Byte) × State × Option W64
  | [], s => ([], s, none)
  | r :: rs, s =>
    let x := if r.2.2 = 0 then ([], s, none) else s.storeRead h.p eng r.1 r.2.1 r.2.2
    let t := At.reads h eng rs x.2.1
    (x.1 :: t.1, t.2.1, match x.2.2 with
      | some o => some (locStore h.p r.1 o)
      | none => t.2.2)

/-! ## Tensor descriptors (04 R119 to R124) -/

structure Bq where
  four : Bool
  size : Nat
  maxEsc : Nat
  seq : Nat
  ratio : BitVec 16
  groups : Nat
  blocks : Nat
  code : Nat
  scale : Nat
  grog : Nat
  chan : Nat
  used : Nat
  cap : Nat
  deriving DecidableEq, Repr

def bqOf (bs : List Byte) : Bq :=
  let w0 := w64At 0 bs
  let w1 := w64At 8 bs
  let w2 := w64At 16 bs
  { four := decide (fld w0 62 2 = 1), size := 16 * 2 ^ fld w0 60 2, maxEsc := fld w0 57 3, seq := fld w0 48 8,
    ratio := BitVec.ofNat 16 (fld w0 32 16), groups := fld w0 16 16 + 1, blocks := fld w0 0 16 + 1, code := fld w1 0 24,
    scale := fld w1 24 24, grog := fld w2 0 24, chan := leAt 24 3 bs, used := fld w2 48 16, cap := fld w2 32 16 }

namespace Bq

def qmax (q : Bq) : Nat := if q.four then 7 else 127
/-- Bytes of a block in the code stream. -/
def codeBytes (q : Bq) : Nat := 4 + (if q.four then q.size / 2 else q.size)
/-- Elements of a channel. -/
def chanLen (q : Bq) : Nat := q.blocks * q.size
/-- A stream's place: a multiple of 4 in a store (R120). The spec names no consequence of another base: the job ends with
FAILED_DATA_ERROR (DESIGN CHOICE: log entry 213). -/
def inRef (x n : Nat) : Bool := decide (refSt x ≤ 2 ∧ refOff x % 4 = 0) && inStore (refSt x) (refOff x) n

/-- No reserved encoding, a positive finite ratio, and no stream that leaves its store (R120, R124). -/
def good (w0 : W64) (q : Bq) : Bool :=
  let n := q.groups * 16 * q.blocks
  decide (fld w0 62 2 ≤ 1 ∧ fld w0 60 2 ≤ 2) && decide (0 < q.ratio.toNat ∧ q.ratio.toNat < 0x7C00) &&
    inRef q.code (n * q.codeBytes) && inRef q.scale (4 * n) && inRef q.chan (64 * q.groups) && inRef q.grog (4 * q.cap)

end Bq

/-! ## The quantiser (R132 to R137) -/

/-- What a block quantises to. -/
structure QBlock where
  escs : List (BitVec 16 × Nat) := []
  scale : BitVec 16 := 0
  codes : List Int := []
  flags : W32 := 0
  refused : Bool := false
  crushed : Nat := 0
  deriving DecidableEq, Repr

/-- The index of the largest magnitude among the candidates, with the largest and the second largest. Of equal
magnitudes, which a ratio below 1 lets pass the test of R135, the lowest index counts (DESIGN CHOICE, log entry 180). -/
def topTwo (xs : List (Num × Nat)) : Option (Nat × Num × Num) :=
  xs.foldl (fun a x =>
    let m := x.1.abs
    match a with
    | none => some (x.2, m, .fin false 0 0)
    | some (k, m1, m2) => if m.gt m1 then some (x.2, m, m1) else if m.gt m2 then some (k, m1, m) else a) none

/-- The escapes of a block: at most `k` more, while the largest exceeds the ratio times the second largest. -/
def escapeGo (ratio : Num) (xs : List (Num × Nat)) : Nat → Nat → List Nat → List Nat × Bool
  | 0, _, es => (es, false)
  | fuel + 1, k, es =>
    match topTwo (xs.filter (fun x => !es.contains x.2)) with
    | none => (es, false)
    | some (ix, m1, m2) =>
      if !m1.gt (Num.mul ratio m2) then (es, false)
      else if k = 0 then (es, true)
      else escapeGo ratio xs fuel (k - 1) (es ++ [ix])

/-- A code of a finite value: the exact quotient by the scale, rounded by `rnd`. -/
def codeOf (rnd : Bool → Nat → Nat → Int → Nat → Int × W32) (x scale : Num) (ix : Nat) (qmax : Nat) : Int × W32 :=
  match x, scale with
  | .nan, _ => (0, Fl.iv)
  | .inf n, _ => (if n then -(qmax : Int) else qmax, Fl.sat)
  | .fin n m e, .fin _ d g => if d = 0 then (0, 0) else rnd n m d (e - g) ix
  | .fin _ _ _, _ => (0, 0)

/-- A code rounded to nearest even and clamped. -/
def rneCode (qmax : Nat) (neg : Bool) (n d : Nat) (e : Int) (_ : Nat) : Int × W32 :=
  let r := roundAt .rne n d e 0
  let v : Int := if neg then -(r.1 : Int) else r.1
  let y := clampI v (-(qmax : Int)) qmax
  (y, Fl.when (decide (y ≠ v)) (Fl.sat ||| Fl.nx) ||| Fl.when r.2 Fl.nx)

/-- One block of a channel that is not CONSTANT (R133, R136); `room` is the space left in the grog list. An escaped
element has code 0, so a block that was refused counts it among the crushed. An infinite element that is escaped is an FP16 infinity of the
grog list, and in a block with scale +0 it has code 0 without SAT, as R132 and R133 have it: 03 R96, which saturates it, is followed
where a code is formed from a scale (DESIGN CHOICE: log entry 213). -/
def quantBlock (q : Bq) (room : Nat) (rnd : Bool → Nat → Nat → Int → Nat → Int × W32) (xs : List W32) : QBlock :=
  let nums := (xs.map f32Num).zipIdx
  let cand := nums.filter (fun x => !x.1.isNan)
  let es := if q.maxEsc = 0 then ([], false) else escapeGo (f16Num q.ratio) cand 8 (min q.maxEsc room) []
  let escs := es.1.map (fun ix => (num16 (f32Num (xs.getD ix 0)), ix))
  let rest := cand.filter (fun x => x.1.isFin && !es.1.contains x.2)
  let amax := rest.foldl (fun (m : Num) x => if x.1.abs.gt m then x.1.abs else m) (.fin false 0 0)
  let scale : BitVec 16 := match amax with
    | .fin _ m e => if m = 0 then 0 else f16RoundUp m q.qmax e
    | _ => 0
  let sc := f16Num scale
  let cs := nums.map (fun x =>
    if es.1.contains x.2 then ((0 : Int), (0 : W32))
    else if x.1.isNan then (0, Fl.iv)
    else if scale = 0 then (0, 0)
    else codeOf rnd x.1 sc x.2 q.qmax)
  let crushed := if es.2 then ((nums.zip cs).filter (fun e => e.1.1.isFin && !e.1.1.isZero && decide (e.2.1 = 0))).length else 0
  { escs := escs.map (fun e => (e.1.1, e.2)), scale := scale, codes := cs.map (·.1), refused := es.2, crushed := crushed,
    flags := escs.foldl (fun f e => f ||| e.1.2) 0 ||| cs.foldl (fun f c => f ||| c.2) 0 ||| xs.foldl (fun f x => f ||| f32Fz x) 0 |||
      Fl.when es.2 Fl.grogFull ||| Fl.when (decide (0 < crushed)) Fl.crushed }

/-- A channel of zero range: its common value, or none (R132). -/
def constantOf (xs : List W32) : Option (BitVec 16 × W32) :=
  let a := f32Flush (xs.headD 0)
  if xs.all (fun x => (fcmp 0 x a).1) then
    let r := num16 (if (f32Num a).isZero then .fin false 0 0 else f32Num a)
    some (r.1, r.2 ||| xs.foldl (fun f x => f ||| f32Fz x) 0)
  else none

/-- One block of a channel. -/
def blockOf (q : Bq) (const : Option (BitVec 16 × W32)) (room : Nat) (rnd : Bool → Nat → Nat → Int → Nat → Int × W32) (xs : List W32) : QBlock :=
  match const with
  | some c => { scale := c.1, codes := List.replicate q.size 0, flags := c.2 }
  | none => quantBlock q room rnd xs

/-- The words of a block: its part of the code stream, its scale entry, its grog entries (R121, R122). -/
def QBlock.code (q : Bq) (seq : Nat) (b : QBlock) : List Byte :=
  leBytes 4 (seq % 256) ++ leBytes (q.codeBytes - 4) (packNat (if q.four then 4 else 8) (b.codes.map (fun c => (c % (if q.four then 16 else 256)).toNat)))

def QBlock.entry (seq : Nat) (b : QBlock) : List Byte := leBytes 4 (b.scale.toNat * 65536 + b.escs.length * 8192 + seq % 256)

def QBlock.grog (seq : Nat) (b : QBlock) : List Byte := b.escs.flatMap (fun e => leBytes 4 (e.1.toNat * 65536 + seq % 256 * 256 + e.2))

/-- The flags and counters of blocks that were written (R131, R136). -/
def State.quantised (h : At) (bs : List QBlock) (s : State) : State :=
  let full := (bs.filter (·.refused)).length
  let crushed := (bs.map (·.crushed)).sum
  let s := h.set (Ctx.raise 1 (bs.foldl (fun f b => f ||| b.flags) 0)) s
  let s := s.updTile h.p (fun t => { t with bqGrogFull := satAdd t.bqGrogFull full, bqCrushed := satAdd t.bqCrushed crushed })
  if crushed = 0 then s else s.tileEvent h.p 0x26 crushed

/-- Blocks in block order, each with the room that those before it left. -/
def quantAll (q : Bq) : List (Nat × Option (BitVec 16 × W32) × List W32) → Nat → List (Nat × QBlock)
  | [], _ => []
  | (k, c, xs) :: t, room =>
    let b := blockOf q c room (rneCode q.qmax) xs
    (k, b) :: quantAll q t (room - b.escs.length)

/-! ## The command block of VQUANT (05 R147) -/

structure VqBlock where
  d : Nat
  src : Nat
  dst : Nat
  coil : Option Nat
  count : Nat
  range : Nat
  deriving DecidableEq, Repr

/-- The block in ga to ga+3; none where a reserved bit is set. `req` is that of VREQ. -/
def vqBlock (req : Bool) (c : Ctx) (a : Nat) : Option VqBlock :=
  let w0 := c.reg a
  let w1 := c.reg (a + 1)
  let w2 := c.reg (a + 2)
  let w3 := c.reg (a + 3)
  let coil := bit w2 30
  if decide (fld w0 24 40 = 0 ∧ fld w1 24 40 = 0 ∧ fld w2 31 33 = 0 ∧ fld w2 29 1 = 0 ∧ fld w3 18 46 = 0) && (coil || decide (fld w2 24 5 = 0)) &&
      (req || decide (fld w3 16 2 = 0)) then
    some { d := fld w0 0 24, src := fld w1 0 24, dst := fld w2 0 24, coil := if coil then some (fld w2 24 5) else none, count := fld w3 0 16, range := fld w3 16 2 }
  else none

/-- Reads a tensor descriptor, checks it, and goes on. A command that asks for more channel groups than the tensor has ends the job with
FAILED_DATA_ERROR, which no rule states (DESIGN CHOICE: log entry 213). -/
def At.tensor (h : At) (d count : Nat) (k : Bq → State → State × Halt) (s : State) : State × Halt :=
  if !refVq d then (s, h.bad)
  else h.reading 1 (refSt d) (refOff d) 32 (fun bs s =>
    let q := bqOf bs
    if q.good (w64At 0 bs) && decide (count ≤ q.groups) then k q s else (s, h.bad)) s

/-! ## VQB -/

/-- The blocks of `groups` channel groups in block order (R119), with the channel of each: elements of a channel stand
together in the source (log entry 45). -/
def blockList (q : Bq) (groups : Nat) : List (Nat × Nat × Nat) :=
  (List.range (groups * q.blocks * 16)).map (fun k => (k, k / 16 / q.blocks * 16 + k % 16, k / 16 % q.blocks))

/-- VQB writes the streams of its descriptor: the destination of word 2, a range or a coil, is neither used nor checked
(DESIGN CHOICE: log entry 214). -/
def execVqb (t : Nat) (f : BitVec 48) (s : State) : Res :=
  issue t f (goodE f) (fun h s =>
    match vqBlock false h.c (Fmt.d h.f) with
    | none => (s, h.bad)
    | some v => h.tensor v.d v.count (fun q s =>
      let n := v.count * q.blocks * 16  -- a grog list fuller than grog_cap has no room (DESIGN CHOICE, log entry 180)
      let len := v.count * 16 * q.chanLen * 4
      let rs : List Range := [rangeOf false v.src len, rangeOf true q.code (n * q.codeBytes), rangeOf true q.scale (4 * n),
        rangeOf true q.chan (64 * v.count), rangeOf true q.grog (4 * q.cap), rangeOf true v.d 32]
      if !refVq v.src || !h.allows rs then (s, h.bad)
      else match s.need h.p rs with
        | .ok =>
          let r := h.reads 1 [(refSt v.src, refOff v.src, len)] s
          (match r.2.2 with
           | some loc => (r.2.1, .bad St.dataError loc)
           | none =>
             let ws := wordsOf (r.1.headD [])
             let chan := fun (c : Nat) => (ws.drop (c * q.chanLen)).take q.chanLen
             let consts := (List.range (16 * v.count)).map (fun c => constantOf (chan c))
             let todo := (blockList q v.count).map (fun b => (b.1, consts.getD b.2.1 none, ((chan b.2.1).drop (b.2.2 * q.size)).take q.size))
             let bs := quantAll q todo (q.cap - q.used)
             let used := q.used + (bs.map (fun b => b.2.escs.length)).sum
             let put := fun (x o : Nat) (d : List Byte) (s : State) => s.ownWrite h.p h.w (refSt x) (refOff x + o) d
             let s := put q.code 0 (bs.flatMap (fun b => b.2.code q (q.seq + b.1))) r.2.1
             let s := put q.scale 0 (bs.flatMap (fun b => b.2.entry (q.seq + b.1))) s
             let s := put q.grog (4 * q.used) (bs.flatMap (fun b => b.2.grog (q.seq + b.1))) s
             let s := put q.chan 0 (consts.flatMap (fun c => leBytes 4 (b2n c.isSome))) s
             let s := put v.d 20 (leBytes 4 (used * 65536 + q.cap)) s
             (State.quantised h (bs.map (·.2)) s, .ok))
        | e => (s, e)) s) s

/-! ## Dequantisation (R125, R128 to R130) -/

/-- How a tensor stops. -/
inductive Skew where
  | sequence | entry
  deriving DecidableEq, Repr

/-- The elements of block k: FP16 values and flags, or why the tensor stops. `first` counts the grog entries before it.
The first of these checks that fails decides: seq of header and scale, grog_cap, seq of an escape, index and duplicate
(DESIGN CHOICE, log entry 180). -/
def dequantBlock (q : Bq) (k : Nat) (const : Bool) (code entry : List Byte) (first : Nat) (grog : Nat → W32) : Except Skew (List (BitVec 16) × W32) :=
  let want := (q.seq + k) % 256
  let sc := w32At 0 entry
  let n := fld sc 13 3
  let es := (List.range n).map (fun j => grog (first + j))
  let idx := es.map (fun e => fld e 0 6)
  if leAt 0 1 code ≠ want ∨ fld sc 0 8 ≠ want then .error .sequence
  else if first + n > q.cap then .error .entry
  else if es.any (fun e => decide (fld e 8 8 ≠ want)) then .error .sequence
  else if idx.any (fun x => decide (q.size ≤ x)) || !noRepeat idx then .error .entry
  else
    let scale : BitVec 16 := BitVec.ofNat 16 (fld sc 16 16)
    let bitsOf := if q.four then 4 else 8
    let all := leNat (code.drop 4)
    let el := fun (j : Nat) =>
      if const then (scale, (0 : W32))
      else match es.find? (fun e => decide (fld e 0 6 = j)) with
        | some e => (BitVec.ofNat 16 (fld e 16 16), 0)
        | none =>
          if scale = 0 then (0, 0)
          else
            let v := all / 2 ^ (bitsOf * j) % 2 ^ bitsOf
            dequant (if 2 ^ (bitsOf - 1) ≤ v then (v : Int) - 2 ^ bitsOf else v) scale
    let xs := (List.range q.size).map el
    .ok (xs.map (·.1), xs.foldl (fun f x => f ||| x.2) 0)

/-- Blocks in order until one stops the tensor: each with its elements, the flags, and how it ended. -/
def dequantAll (q : Bq) (const : Nat → Bool) (code entry : Nat → List Byte) (grog : Nat → W32) :
    List (Nat × Nat × Nat) → Nat → List (Nat × Nat × Nat × List (BitVec 16)) × W32 × Option Skew
  | [], _ => ([], 0, none)
  | (k, c, j) :: t, first =>
    match dequantBlock q k (const c) (code k) (entry k) first grog with
    | .error e => ([], 0, some e)
    | .ok (xs, fl) =>
      let r := dequantAll q const code entry grog t (first + fld (w32At 0 (entry k)) 13 3)
      ((k, c, j, xs) :: r.1, fl ||| r.2.1, r.2.2)

/-- The end of a job whose tensor stopped (R129, R130). -/
def At.skewed (h : At) (e : Skew) (s : State) : State × Halt :=
  match e with
  | .sequence => ((s.updTile h.p (fun t => { t with bqSkew := satAdd t.bqSkew 1 })).tileEvent h.p 0x25 1, .bad St.skew 0)
  | .entry => (s, .bad St.dataError (match h.bad with
    | .bad _ loc => loc
    | _ => 0))

/-- Reads the streams of `groups` channel groups and dequantises them. Answers none where a word cannot be read. -/
def At.dequant (h : At) (eng : Nat) (q : Bq) (groups : Nat) (s : State) :
    (List (Nat × Nat × Nat × List (BitVec 16)) × W32 × Option Skew) × State × Option W64 :=
  let n := groups * q.blocks * 16
  let r := h.reads eng [(refSt q.code, refOff q.code, n * q.codeBytes), (refSt q.scale, refOff q.scale, 4 * n), (refSt q.chan, refOff q.chan, 64 * groups)] s
  let code := r.1.getD 0 []
  let entry := r.1.getD 1 []
  let chan := r.1.getD 2 []
  let escs := min q.cap (((List.range n).map (fun k => fld (w32At (4 * k) entry) 13 3)).sum)
  let g := h.reads eng [(refSt q.grog, refOff q.grog, 4 * escs)] r.2.1
  let grog := g.1.headD []
  (dequantAll q (fun c => bit (w32At (4 * c) chan) 0) (fun k => slice (k * q.codeBytes) q.codeBytes code) (fun k => slice (4 * k) 4 entry)
      (fun k => w32At (4 * k) grog) (blockList q groups) 0,
    g.2.1, match r.2.2 with
      | some l => some l
      | none => g.2.2)

/-- The FP16 bytes of a channel group, channel by channel (log entry 45). -/
def groupBytes (q : Bq) (g : Nat) (bs : List (Nat × Nat × Nat × List (BitVec 16))) : List Byte :=
  (List.range 16).flatMap (fun r => (List.range q.blocks).flatMap (fun j =>
    match bs.find? (fun b => decide (b.2.1 = 16 * g + r ∧ b.2.2.1 = j)) with
    | some b => b.2.2.2.flatMap (fun x => leBytes 2 x.toNat)
    | none => []))

/-- The streams that a dequantisation reads, as ranges. -/
def bqRanges (q : Bq) (groups : Nat) : List Range :=
  let n := groups * q.blocks * 16
  [rangeOf false q.code (n * q.codeBytes), rangeOf false q.scale (4 * n), rangeOf false q.chan (64 * groups), rangeOf false q.grog (4 * q.cap)]

/-- Whole groups are pushed one by one; answers those that are left. -/
def At.pushGroups (h : At) (coil bytes : Nat) : List (List Byte) → State → State × List (List Byte) × Halt
  | [], s => (s, [], .ok)
  | d :: ds, s =>
    let h' := match s.ctx h.p h.w with
      | some c => { h with c := c }
      | none => h
    let r := h'.push coil bytes (fun st off s => (s.ownWrite h.p h.w st off d, .ok)) s
    match r.2 with
    | .ok => At.pushGroups h coil bytes ds r.1
    | e => (r.1, d :: ds, e)

/-- Elements that a coil can take now. -/
def Coil.space (c : Coil) : Nat := c.size / c.elem - c.fill

/-- How a VDQB ends once its groups are written: 0 whole, 1 a sequence mismatch, 2 an illegal entry. -/
def At.endVdqb (h : At) (code : Nat) (s : State) : State × Halt :=
  if code = 0 then (s, .ok) else h.skewed (if code = 1 then .sequence else .entry) s

/-- Pushes the groups that a VDQB still has. What a full BLOCK coil, or a bank, holds back is kept, and the instruction
stalls; it goes on with the rest and reads nothing again (02 R68; 05 R148). -/
def At.pushRest (h : At) (coil bytes : Nat) (ds : List (List Byte)) (code : Nat) (s : State) : State × Halt :=
  let r := h.pushGroups coil bytes ds s
  match r.2.2 with
  | .ok => h.endVdqb code (h.set (fun c => { c with rest := none }) r.1)
  | e => (h.set (fun c => { c with rest := some (r.2.1, code) }) r.1, e)

def execVdqb (t : Nat) (f : BitVec 48) (s : State) : Res :=
  issue t f (goodE f) (fun h s =>
    match vqBlock false h.c (Fmt.d h.f), h.c.rest with
    | none, _ => (s, h.bad)
    | some v, some e => h.pushRest (v.coil.getD 0) (e.1.headD []).length e.1 e.2 s
    | some v, none => h.tensor v.d v.count (fun q s =>
      let gb := 32 * q.chanLen
      let out := match v.coil with
        | some _ => []
        | none => [rangeOf true v.dst (v.count * gb)]
      let coilBad := match v.coil with
        | some n => !h.coilGood n gb
        | none => !refVq v.dst
      let rs := bqRanges q v.count ++ out
      if coilBad || !h.allows rs then (s, h.bad)
      else match s.need h.p rs with
        | .ok =>
          let r := h.dequant 1 q v.count s
          (match r.2.2 with
           | some loc => (r.2.1, .bad St.dataError loc)
           | none =>
             let bs := r.1.1
             let whole := bs.length / (q.blocks * 16)
             let s := h.set (Ctx.raise 1 r.1.2.1) r.2.1
             let code := match r.1.2.2 with
               | none => 0
               | some .sequence => 1
               | some .entry => 2
             match v.coil with
             | some n => h.pushRest n gb ((List.range whole).map (fun g => groupBytes q g bs)) code s
             | none => h.endVdqb code (bs.foldl (fun s (b : Nat × Nat × Nat × List (BitVec 16)) =>
                 s.ownWrite h.p h.w (refSt v.dst) (refOff v.dst + (b.2.1 * q.chanLen + b.2.2.1 * q.size) * 2)
                   (b.2.2.2.flatMap (fun (x : BitVec 16) => leBytes 2 x.toNat))) s))
        | e => (s, e)) s) s

/-! ## VREQ (R138 to R140) -/

/-- Limits and bits of an output range: INT8 signed, INT8 unsigned, INT4 signed, INT4 unsigned. -/
def reqRange : Nat → Int × Int × Nat
  | 0 => (-128, 127, 8)
  | 1 => (0, 255, 8)
  | 2 => (-8, 7, 4)
  | _ => (0, 15, 4)

/-- Bit 31 of mult, which lies outside its range, is dropped, and the slots of the last word that no channel fills are
written as zero (DESIGN CHOICE, log entry 181). The words may be one element of an output coil (R147, R159; log entry 60). -/
def execVreq (t : Nat) (f : BitVec 48) (s : State) : Res :=
  issue t f (goodE f) (fun h s =>
    match vqBlock true h.c (Fmt.d h.f) with
    | none => (s, h.bad)
    | some v =>
      let lim := reqRange v.range
      let out := roundUp 4 ((v.count * lim.2.2 + 7) / 8)
      let own := match v.coil with
        | some _ => []
        | none => [rangeOf true v.dst out]
      let rs : List Range := [rangeOf false v.d (16 * v.count), rangeOf false v.src (4 * v.count)] ++ own
      if !refVq v.d || !refVq v.src || (v.coil.isNone && !refVq v.dst) || v.coil.any (fun n => !h.coilGood n out) || !h.allows rs then (s, h.bad)
      else match s.need h.p rs with
        | .ok =>
          let r := h.reads 1 [(refSt v.d, refOff v.d, 16 * v.count), (refSt v.src, refOff v.src, 4 * v.count)] s
          (match r.2.2 with
           | some loc => (r.2.1, .bad St.dataError loc)
           | none =>
             let rec_ := r.1.getD 0 []
             let acc := r.1.getD 1 []
             let ys := (List.range v.count).map (fun c =>
               let w2 := w32At (16 * c + 8) rec_
               requant (w32At (4 * c) acc).toInt (w32At (16 * c) rec_).toInt (fld (w32At (16 * c + 4) rec_) 0 31) (fld w2 16 5) (sfld w2 0 16) lim.1 lim.2.1)
             let go := fun (st off : Nat) (s : State) =>
               h.done (Ctx.raise 1 (ys.foldl (fun a y => a ||| y.2) 0))
                 (s.ownWrite h.p h.w st off (leBytes out (packNat lim.2.2 (ys.map (fun y => (y.1 % 2 ^ lim.2.2).toNat)))))
             match v.coil with
             | some n => h.push n out go r.2.1
             | none => go (refSt v.dst) (refOff v.dst) r.2.1)
        | e => (s, e)) s

/-! ## TSTORE (05 R175; 03 R95, R96; 04 R137) -/

/-- A code by the stochastic rule. -/
def stochCode (qmax : Nat) (rnd : Nat → Nat) (neg : Bool) (n d : Nat) (e : Int) (ix : Nat) : Int × W32 :=
  tsIntQ (-(qmax : Int)) qmax neg n d e (rnd ix)

/-- Elements of one lane each to FP16 or INT8: words with an enabled lane are written whole, disabled slots as zero. -/
def At.tsPlain (h : At) (m : W64) (half : Bool) (rnd : Nat → Nat) (st off : Nat) (s : State) : State × Halt :=
  let xs := (lanesOf (h.c.vec (Fmt.a h.f))).zipIdx
  let rs := xs.map (fun e => if !bit m e.2 then (0, (0 : W32)) else if half then
      ((tsF16 e.1 (rnd e.2)).1.toNat, (tsF16 e.1 (rnd e.2)).2) else (((tsI8 e.1 (rnd e.2)).1 % 256).toNat, (tsI8 e.1 (rnd e.2)).2))
  let w := if half then 16 else 8
  let per := 32 / w
  let words := (List.range (64 / per)).map (fun j => (j, packNat w ((rs.drop (j * per)).take per |>.map (·.1)), (List.range per).any (fun x => bit m (j * per + x))))
  let s := words.foldl (fun s e => if e.2.2 then s.ownWrite h.p h.w st (off + 4 * e.1) (leBytes 4 e.2.1) else s) s
  h.done (Ctx.raise 1 (rs.foldl (fun a r => a ||| r.2) 0)) s

/-- Blocks of a BQ target, from block `k0` on; a channel of one block is tested for zero range (log entry 46). -/
def tsBlocks (q : Bq) (rnd : Nat → Nat) : List (Nat × List W32) → Nat → List (Nat × QBlock)
  | [], _ => []
  | (j, xs) :: t, room =>
    let c := if q.blocks = 1 then constantOf xs else none
    let b := blockOf q c room (fun neg n d e ix => stochCode q.qmax rnd neg n d e (j * q.size + ix)) xs
    (j, b) :: tsBlocks q rnd t (room - b.escs.length)

/-- TSTORE to a BQ target. A target of another format than the descriptor's, and a block beyond the tensor, end the job with
FAILED_DATA_ERROR, which no rule states (DESIGN CHOICE: log entry 213). A channel of several blocks, of which one store writes a part, is not tested for zero range:
its channel word is cleared (DESIGN CHOICE, log entry 46). -/
def At.tsBlock (h : At) (m : W64) (four : Bool) (rnd : Nat → Nat) (d k0 : Nat) (s : State) : State × Halt :=
  h.tensor d 0 (fun q s =>
    let n := 64 / q.size
    let total := q.groups * q.blocks * 16
    let chans := (List.range n).map (fun j => (k0 + j) / 16 / q.blocks * 16 + (k0 + j) % 16)
    let rs : List Range := [rangeOf true (q.code + k0 * q.codeBytes) (n * q.codeBytes), rangeOf true (q.scale + 4 * k0) (4 * n),
        rangeOf true q.grog (4 * q.cap), rangeOf true d 32] ++ chans.map (fun c => rangeOf true (q.chan + 4 * c) 4)
    if q.four ≠ four || decide (total < k0 + n) || !h.allows rs then (s, h.bad)
    else match s.need h.p rs with
      | .ok =>
        let xs := (lanesOf (h.c.vec (Fmt.a h.f))).zipIdx.map (fun e => if bit m e.2 then e.1 else 0)
        let bs := tsBlocks q rnd ((List.range n).map (fun j => (j, (xs.drop (j * q.size)).take q.size))) (q.cap - q.used)
        let used := q.used + (bs.map (fun b => b.2.escs.length)).sum
        let put := fun (x o : Nat) (d : List Byte) (s : State) => s.ownWrite h.p h.w (refSt x) (refOff x + o) d
        let seq := fun (j : Nat) => q.seq + k0 + j
        let s := put q.code (k0 * q.codeBytes) (bs.flatMap (fun b => b.2.code q (seq b.1))) s
        let s := put q.scale (4 * k0) (bs.flatMap (fun b => b.2.entry (seq b.1))) s
        let s := put q.grog (4 * q.used) (bs.flatMap (fun b => b.2.grog (seq b.1))) s
        let s := (chans.zip bs).foldl (fun s e =>
          let c := q.blocks = 1 && (constantOf ((xs.drop (e.2.1 * q.size)).take q.size)).isSome
          put q.chan (4 * e.1) (leBytes 4 (b2n c)) s) s
        let s := put d 20 (leBytes 4 (used * 65536 + q.cap)) s
        (State.quantised h (bs.map (·.2)) s, .ok)
      | e => (s, e)) s

/-- minor: 0 FP16, 1 INT8, 2 BQ8, 3 BQ4. The coil form of R159 is not printed: a gdest of FP16 or INT8 has the form of word 2 of the
VQUANT block, in which bit [30] says that bits [28:24] name a coil (DESIGN CHOICE: log entry 60). -/
def execTstore (t : Nat) (minor : Byte) (f : BitVec 48) (s : State) : Res :=
  issue t f (decide (minor.toNat ≤ 3 ∧ Fmt.c f = 0 ∧ Fmt.vmod f = 0 ∧ Fmt.lt f = 2)) (fun h s =>
    let m := h.c.mask (Fmt.k h.f)
    let base := fld (h.c.reg (Fmt.d h.f)) 0 47
    let dest := h.c.reg (Fmt.b h.f)
    let tid := s.tid h.c
    let rnd := fun (j : Nat) => fld (laneRng h.c.seed tid j h.c.inv (BitVec.ofNat 64 (base + j))) 0 16
    if (List.range 64).any (fun j => bit m j && decide (2 ^ 47 ≤ base + j)) then (s, h.bad)
    else if minor.toNat ≤ 1 then
      let half := decide (minor.toNat = 0)
      let x := fld dest 0 24
      if bit dest 30 then h.push (fld dest 24 5) (if half then 128 else 64) (fun st off s => h.tsPlain m half rnd st off s) s
      else if !refVq x then (s, h.bad)
      else match h.access true (refSt x) (refOff x) (if half then 128 else 64) s with
        | .ok => h.tsPlain m half rnd (refSt x) (refOff x) s
        | e => (s, e)
    else h.tsBlock m (decide (minor.toNat = 3)) rnd (fld dest 0 24) (fld dest 24 24) s) s

/-! ## The hash assist (05 R172) -/

/-- HSHA: SHA-512 over a range, written to the A-store. Its accesses show engine code 4. -/
def execHsha (t : Nat) (f : BitVec 48) (s : State) : Res :=
  issue t f (goodI false true false f && decide (Fmt.a f < 30)) (fun h s =>
    let ga := h.c.reg (Fmt.a h.f)
    let n := (h.c.reg (Fmt.a h.f + 1)).toNat
    let out := h.c.reg (Fmt.a h.f + 2)
    let x := fld ga 0 24
    let o := fld out 0 22
    let rs : List Range := [rangeOf false x n, { write := true, st := 1, off := o, n := 64 }]
    if decide (fld ga 24 40 ≠ 0 ∨ fld out 22 42 ≠ 0 ∨ o % 64 ≠ 0 ∨ n % 4 ≠ 0 ∨ storeSize (refSt x) < n) || !refVq x || !h.allows rs then (s, h.bad)
    else match s.need h.p rs with
      | .ok =>
        let r := h.reads 4 [(refSt x, refOff x, n)] s
        (match r.2.2 with
         | some loc => (r.2.1, .bad St.dataError loc)
         | none => (r.2.1.ownWrite h.p h.w 1 o (sha512 (r.1.headD [])), .ok))
      | e => (s, e)) s

/-- HQ is empty whenever an instruction issues, since each HSHA runs whole (log entry 7). -/
def execHwait (t : Nat) (f : BitVec 48) (s : State) : Res := issue t f (goodI false false false f) (fun h s => h.done id s) s

end Sys2Proof.Machine
end

