-- ==== Sys2Proof/Machine/Engines.lean ====
section
/-!
DEFINITION. Coil instructions and the commands of the DMA engine, matrix array, factor unit and commit unit (05 R159 to R162,
R171; 02 R42, R43, R45, R46, R63 to R68; 03 R88 to R92; 06 R189 to R197, R204; 13 R441).
-/

set_option Elab.async false

namespace Sys2Proof.Machine

open Sys2Proof

/-! ## Coils (R161, R162; 02 R63 to R68) -/

/-- The coil that BASE and CFG describe. -/
def coilOf (base cfg : W64) : Coil :=
  { store := fld base 22 2, base := fld base 0 22, size := fld base 32 22, accept := BitVec.ofNat 5 (fld cfg 20 5),
    policy := BitVec.ofNat 2 (fld cfg 15 2), receive := bit cfg 14, isOpen := true, elem := fld cfg 0 13 }

/-- Every rule of R63 and R64 that the two images alone decide. -/
def coilImages (base cfg : W64) : Bool :=
  let c := coilOf base cfg
  decide (fld base 54 10 = 0 ∧ fld base 24 8 = 0 ∧ fld cfg 25 39 = 0 ∧ fld cfg 17 3 = 0 ∧ c.store ≠ 3 ∧ c.policy ≠ 3) &&
    decide (4 ≤ c.elem ∧ c.elem ≤ 4096 ∧ c.elem % 4 = 0 ∧ 64 ≤ c.size ∧ c.size % 64 = 0 ∧ c.size % c.elem = 0 ∧ c.base % 64 = 0)

/-- Two coils share a byte. -/
def Coil.meets (a b : Coil) : Bool :=
  a.isOpen && b.isOpen && decide (a.store = b.store ∧ a.base < b.base + b.size ∧ b.base < a.base + a.size)

def execCopen (t : Nat) (f : BitVec 48) (s : State) : Res :=
  issue t f (goodI true true false f && decide (Fmt.d f ≠ 31)) (fun h s =>
    let base := h.c.reg (Fmt.d h.f)
    let cfg := h.c.reg (Fmt.d h.f + 1)
    let k := coilOf base cfg
    let t := s.tile h.p
    let others := (t.ctx0.toList ++ t.ctx1.toList).flatMap (fun x => x.coils.map (·.2))
    if !coilImages base cfg || (h.c.coil (Fmt.a h.f)).isOpen || !inFoot h.c.job.image k.store k.base k.size || others.any (fun o => o.meets k) then (s, h.bad)
    else h.done (Ctx.setCoil (Fmt.a h.f) k) s) s

/-- Pushes that the port has accepted are written before the close takes effect (02 R71). -/
def execCclose (t : Nat) (f : BitVec 48) (s : State) : Res :=
  issue t f (goodI false true false f) (fun h s =>
    let s := s.rxDrain h.p 16
    if (s.tile h.p).rx.any (fun e => decide (e.coil = Fmt.a h.f)) then (s, .hold)
    else h.done (fun c => c.setCoil (Fmt.a h.f) { c.coil (Fmt.a h.f) with isOpen := false }) s) s

def execCfill (t : Nat) (f : BitVec 48) (s : State) : Res :=
  issue t f (goodI true true false f) (fun h s =>
    h.done (fun c => c.setReg (Fmt.d h.f) (BitVec.ofNat 64 (h.c.coil (Fmt.a h.f)).fill)) s) s

/-- A store offset of an element; an empty coil ends the job. -/
def offsetOp (at_ : Coil → Nat) : Body := fun h s =>
  let k := h.c.coil (Fmt.a h.f)
  if k.empty then (s, h.bad) else h.done (fun c => c.setReg (Fmt.d h.f) (BitVec.ofNat 64 (k.base + at_ k))) s

def execChead (t : Nat) (f : BitVec 48) (s : State) : Res := issue t f (goodI true true false f) (offsetOp (·.head)) s
def execClast (t : Nat) (f : BitVec 48) (s : State) : Res := issue t f (goodI true true false f) (offsetOp Coil.last) s

def execCpopn (t : Nat) (f : BitVec 48) (s : State) : Res :=
  issue t f (goodI true true false f) (fun h s =>
    let k := h.c.coil (Fmt.a h.f)
    h.done (Ctx.setCoil (Fmt.a h.f) (k.popN (min (h.c.reg (Fmt.d h.f)).toNat k.fill))) s) s

/-- The tail, and with OVERWRITE_OLDEST the head, move by n elements. -/
def Coil.rotate : Nat → Coil → Coil
  | 0, c => c
  | n + 1, c => Coil.rotate n c.pop.pushed

def Coil.tailN : Nat → Coil → Coil
  | 0, c => c
  | n + 1, c => Coil.tailN n c.pushed

/-- Advances the tail by n elements under the full policy, one element at a time; answers what a full BLOCK coil leaves. -/
def Coil.pushN (n : Nat) (c : Coil) : Coil × Nat :=
  let a := min n c.space
  let r := n - a
  let c := c.tailN a
  if c.policy = 0 then (c, r)
  else if c.policy = 1 then ({ c.rotate (r % (2 * (c.size / c.elem))) with overrun := satAdd c.overrun r }, 0)
  else ({ c with overrun := satAdd c.overrun r }, 0)

def execCpushn (t : Nat) (f : BitVec 48) (s : State) : Res :=
  issue t f (goodI true true false f) (fun h s =>
    let k := h.c.coil (Fmt.a h.f)
    let n := (h.c.reg (Fmt.d h.f)).toNat
    if !k.isOpen || k.receive then (s, h.bad)
    else
      let r := k.pushN (n - h.c.progress)
      let s := h.set (fun c => { c.setCoil (Fmt.a h.f) r.1 with progress := if r.2 = 0 then 0 else n - r.2 }) s
      let s := if r.1.overrun ≠ k.overrun then s.tileEvent h.p 0x22 (r.1.overrun - k.overrun).toNat else s
      (s.updTile h.p Tile.wake, if r.2 = 0 then .ok else .hold)) s

/-- The tile goes on with the context that is runnable when the executing one blocks (11 R363). -/
def execCwait (t : Nat) (f : BitVec 48) (s : State) : Res :=
  issue t f (goodI false true true f) (fun h s =>
    let n := (Fmt.imm h.f).toNat
    if (h.c.coil (Fmt.a h.f)).fill ≥ n then h.done id s
    else h.done (fun c => { c with wait := some (.coil (Fmt.a h.f) n), waitSince := s.now }) s) s

def execCdrain (t : Nat) (f : BitVec 48) (s : State) : Res :=
  issue t f (goodI false true false f) (fun h s => h.done (fun c => c.setCoil (Fmt.a h.f) (c.coil (Fmt.a h.f)).drain) s) s

/-! ## DMA (02 R45 to R48; 05 R150, R171; 13 R441) -/

/-- Class of a job's requests (13 R443). -/
def Job.cls (j : Job) : Nat := if j.binding.isSome then 1 else if j.deadline.isSome then 2 else 3

/-- The requests of a descriptor with an HBM side. -/
def State.requests (p : Nat) (j : Job) (d : Desc) (s : State) : State :=
  let dl := j.deadline.getD 0
  if (descHbm p d).isEmpty then s
  else
    let s := (descHbm p d).foldl (fun s r => s.request j.cls false dl p d.no r.2.1 r.2.2) s
    if bit d.attr 1 then ((descHbm p d).filter (fun r => !r.1)).foldl (fun s r => s.request 4 true dl p d.no r.2.1 r.2.2) s else s

def execDpush (t : Nat) (f : BitVec 48) (s : State) : Res :=
  issue t f (decide (Fmt.d f % 4 = 0 ∧ Fmt.a f < 16 ∧ Fmt.emod f = 0)) (fun h s =>
    let q := Fmt.a h.f
    let g := Fmt.d h.f
    let t := s.tile h.p
    let v := Tbl.get { } q t.dma
    let d : Desc := { w0 := h.c.reg g, w1 := h.c.reg (g + 1), w2 := h.c.reg (g + 2), w3 := h.c.reg (g + 3), attr := v.attr, no := t.dmaNo,
                      active := false, slot := h.w, row := 0, entry := v.count % 16 }
    if !s.descGood h.p h.c d then (s, .bad St.dataError (locDma h.p q d.entry))
    else if decide (16 ≤ v.descs.length) || (descRanges h.p t d).any (fun r => t.spanBusy h.p (some q) r.1 r.2.1 r.2.2.1 r.2.2.2) ||
        (descHbm h.p d).any (fun r => t.hbmBusy h.p q r.1 r.2.1 r.2.2) then (s, .wait)
    else
      let s := s.updTile h.p (fun t =>
        { t with dmaNo := t.dmaNo + 1, dma := Tbl.set { } q { v with descs := v.descs ++ [d], count := v.count + 1 } t.dma }.activateAll h.p)
      (s.requests h.p h.c.job d, .ok)) s

def execDwait (t : Nat) (f : BitVec 48) (s : State) : Res :=
  issue t f (decide (Fmt.d f = 0 ∧ Fmt.a f < 16 ∧ Fmt.emod f = 0)) (fun h s =>
    if (Tbl.get { } (Fmt.a h.f) (s.tile h.p).dma).descs.isEmpty then h.done id s else (s, .hold)) s

/-- Adds are for a THROUGHPUT job whose image sets USES_ATOMIC (12 R391, 13 R441). -/
def execDqcfg (t : Nat) (f : BitVec 48) (s : State) : Res :=
  issue t f (decide (Fmt.d f = 0 ∧ Fmt.a f < 16 ∧ fld f 10 24 = 0 ∧ bit f 7 = false)) (fun h s =>
    let q := Fmt.a h.f
    let t := s.tile h.p
    let v := Tbl.get { } q t.dma
    let a := BitVec.ofNat 10 (fld h.f 0 10)
    let pf := (t.dma.filter (fun e => decide (e.1 ≠ q) && bit e.2.attr 1)).length
    if (bit a 1 && decide (8 ≤ pf)) || (bit a 8 && !(h.c.job.tput && bit h.c.job.image.flags 3)) then (s, h.bad)
    else if !v.descs.isEmpty then (s, .hold)
    else (s.updTile h.p (fun t => { t with dma := Tbl.set { } q { v with attr := a } t.dma }), .ok)) s

/-- The head of a DMA queue copies its rows and completes (02 R45 to R47). Off FIRE the clock of the engine is stopped, and nothing
moves (11 R376). -/
def execDmaDescriptorDone (t q : Nat) (s : State) : Res :=
  if t < 68 ∧ q < 16 then
    if (s.dom t).rung ≠ 0 then .next s else
    let d := (Tbl.get { } q (s.tile t).dma).descs.head?
    let r := s.dmaHead t q
    match r.2, d with
    | .ok, some d => .next ((if d.add then r.1.failDoomed d.dstTile else r.1).rxDrain t 16)
    | .ok, none => .next r.1
    | .wait, some d | .hold, some d | .banks _, some d => .next (if d.add then r.1.failDoomed d.dstTile else r.1)
    | .wait, none | .hold, none | .banks _, none => .next r.1
    | .bad st loc, some d => .next (r.1.failJob t d.slot st loc)
    | .bad _ _, none => .next r.1
  else .fault .noSuchUnit

/-- A push arrives at the receive port of a tile (02 R69 to R71). -/
def execReceivePush (t coil : Nat) (src : PushSrc) (prod : Nat) (n6 : BitVec 6) (d : List Byte) (s : State) : Res :=
  if t < 68 ∧ coil < 32 then .next ((s.arrive t { coil := coil, src := src, prod := prod, n6 := n6, data := d }).1.failDoomed t)
  else .fault .noSuchUnit

/-- A remote atomic add arrives (13 R447, R448). -/
def execAtomicAdd (t coil word : Nat) (fp : Bool) (ws : List W32) (s : State) : Res :=
  if t < 68 ∧ coil < 32 then .next ((s.atomicAdd t coil word fp ws).1.failDoomed t) else .fault .noSuchUnit

/-! ## The matrix array (02 R42, R43; 03 R88 to R92, R112; 04 R125, R129) -/

/-- A matrix block, from the free layout of log entry 8. -/
structure MatBlock where
  ok : Bool
  path : Nat
  wSigned : Bool
  aSigned : Bool
  bq : Bool
  w : Nat
  wn : Nat
  a : Nat
  an : Nat
  p : Nat
  pn : Nat
  ins : Nat
  outs : Nat
  cols : Nat
  coil : Option Nat
  raw : List Nat
  deriving DecidableEq, Repr

def matBlockOf (l : List Nat) : MatBlock :=
  { ok := l.getD 0 0 = 1 && decide (l.getD 1 0 ≤ 3), path := l.getD 1 0, wSigned := l.getD 2 0 = 1, aSigned := l.getD 3 0 = 1, bq := l.getD 4 0 = 1,
    w := l.getD 5 0, wn := l.getD 6 0, a := l.getD 7 0, an := l.getD 8 0, p := l.getD 9 0, pn := l.getD 10 0, ins := l.getD 11 0, outs := l.getD 12 0,
    cols := l.getD 13 0, coil := if l.getD 14 0 = 0 then none else some ((l.getD 14 0 - 1) % 32), raw := l }

/-- Inputs and outputs of a weight tile (02 R42). -/
def tileDims : Nat → Nat × Nat
  | 0 => (32, 32)
  | 1 => (64, 32)
  | 2 => (16, 16)
  | _ => (8, 8)

def elemBits : Nat → Nat
  | 0 => 8
  | 1 => 4
  | 2 => 16
  | _ => 32

/-- Element `k` of packed elements (03 R81). -/
def elemAt (bits : Nat) (bs : List Byte) (k : Nat) : Nat := leNat (slice (bits * k / 8) ((bits + 7) / 8) bs) / 2 ^ (bits * k % 8) % 2 ^ bits

def intElem (signed : Bool) (bits v : Nat) : Int := if signed && decide (2 ^ (bits - 1) ≤ v) then (v : Int) - 2 ^ bits else v

/-- One weight tile on one sum: the integer paths saturate once, the floating-point paths chain in row order. -/
def tileStep (path : Nat) (ws as : Bool) (s : W32) (xs : List (Nat × Nat)) : W32 × W32 :=
  if path ≤ 1 then
    let b := elemBits path
    let x := s.toInt + (xs.map (fun e => intElem ws b e.1 * intElem as b e.2)).sum
    (i32 (sat32 x), Fl.when (decide (sat32 x ≠ x)) Fl.sat)
  else xs.foldl (fun (r : W32 × W32) e =>
    let p := if path = 2 then f16mul (BitVec.ofNat 16 e.1) (BitVec.ofNat 16 e.2) else fmulT (BitVec.ofNat 32 e.1) (BitVec.ofNat 32 e.2)
    let q := fadd r.1 p.1
    (q.1, r.2 ||| p.2 ||| q.2)) (s, 0)

/-- The weight tiles applied to output tile g before a tensor stops at block k. -/
def tilesBefore (q : Bq) (ins g k : Nat) : Nat :=
  let gk := k / 16 / q.blocks
  if g < gk then ins else if g = gk then min ins ((k / 16 % q.blocks) * (q.size / 16)) else 0

/-- The sums of a matrix command: place, value and flags, for each sum that some weight tile reached. -/
def matSums (b : MatBlock) (zero : Bool) (weight act : Nat → Nat → Nat) (sums : Nat → W32) (done : Nat → Nat) : List (Nat × W32 × W32) :=
  let d := tileDims b.path
  (List.range b.cols).flatMap (fun c => (List.range (b.outs * d.2)).filterMap (fun o =>
    let n := done (o / d.2)
    if n = 0 then none
    else
      let at_ := Config.matPlace b.raw 2 c o
      let r := (List.range n).foldl (fun (r : W32 × W32) j =>
        let x := tileStep b.path b.wSigned b.aSigned r.1 ((List.range d.1).map (fun k => (weight (j * d.1 + k) o, act c (j * d.1 + k))))
        (x.1, r.2 ||| x.2)) (if zero then 0 else sums at_, 0)
      some (at_, r)))

/-- MMUL and MMULZ. The array writes the P-store alone (02 R41), so an output coil lies there, and every stream of a
block-quantised tensor lies in the footprint. Every block of its output groups is checked and dequantised, also blocks beyond its
inputs (DESIGN CHOICE, log 213). -/
def matBody (zero : Bool) : Body := fun h s =>
  let g := Fmt.d h.f
  let b := matBlockOf (Config.matBlock (h.c.reg g) (h.c.reg (g + 1)) (h.c.reg (g + 2)) (h.c.reg (g + 3)))
  let d := tileDims b.path
  let out : List Range := match b.coil with
    | some _ => if zero then [] else [{ write := false, st := 2, off := b.p, n := b.pn }]
    | none => [{ write := true, st := 2, off := b.p, n := b.pn }]
  let rs : List Range := [{ write := false, st := 0, off := b.w, n := b.wn }, { write := false, st := 1, off := b.a, n := b.an }] ++ out
  let coilBad := match b.coil with
    | some n => !(h.c.coil n).isOpen || (h.c.coil n).receive || decide ((h.c.coil n).elem ≠ b.pn ∨ (h.c.coil n).store ≠ 2)
    | none => false
  if !b.ok || (b.bq && decide (b.path ≠ 2)) || !h.allows rs || coilBad then (s, h.bad)
  else match s.need h.p rs with
    | .ok =>
      let r := h.reads 2 ([(0, b.w, b.wn), (1, b.a, b.an)] ++ (if zero then [] else [(2, b.p, b.pn)])) s
      (match r.2.2 with
       | some loc => (r.2.1, .bad St.dataError loc)
       | none =>
         let bits := elemBits b.path
         let wb := r.1.getD 0 []
         let ab := r.1.getD 1 []
         let pb := r.1.getD 2 []
         let act := fun c k => elemAt bits ab (Config.matPlace b.raw 1 c k)
         let sums := fun k => w32At (4 * k) pb
         let go := fun (weight : Nat → Nat → Nat) (done : Nat → Nat) (fl : W32) (e : Option Skew) (s : State) =>
           let ys := matSums b zero weight act sums done
           let s := h.set (Ctx.raise 2 (ys.foldl (fun a y => a ||| y.2.2) fl)) s
           let s := s.tileEvent h.p 0x9 (((List.range b.outs).map done).sum)
           match b.coil, e with
           | none, none => ((ys.foldl (fun s y => s.ownWrite h.p h.w 2 (b.p + 4 * y.1) (w32Bytes y.2.1)) s), Halt.ok)
           | none, some e => h.skewed e (ys.foldl (fun s y => s.ownWrite h.p h.w 2 (b.p + 4 * y.1) (w32Bytes y.2.1)) s)
           | some _, some e => h.skewed e s
           | some n, none => { h with c := (s.ctx h.p h.w).getD h.c }.push n b.pn
               (fun st off s => (ys.foldl (fun s (y : Nat × W32 × W32) => s.ownWrite h.p h.w st (off + 4 * y.1) (w32Bytes y.2.1)) s, .ok)) s
         if b.bq then
           let q := bqOf wb
           if !q.good (w64At 0 wb) || decide (refSt q.code ≠ 0 ∨ refSt q.scale ≠ 0 ∨ refSt q.chan ≠ 0 ∨ refSt q.grog ≠ 0 ∨ q.groups < b.outs ∨ q.chanLen < b.ins * d.1) || !h.allows (bqRanges q b.outs) then (r.2.1, h.bad)
           else match s.need h.p (bqRanges q b.outs) with
             | .ok =>
               let x := h.dequant 2 q b.outs r.2.1
               (match x.2.2 with
                | some loc => (x.2.1, .bad St.dataError loc)
                | none =>
                  let bs := x.1.1
                  let weight := fun k o => match bs.find? (fun y => decide (y.2.1 = o ∧ y.2.2.1 = k / q.size)) with
                    | some y => (y.2.2.2.getD (k % q.size) 0).toNat
                    | none => 0
                  let done := fun g => match x.1.2.2 with
                    | some _ => tilesBefore q b.ins g bs.length
                    | none => b.ins
                  go weight done x.1.2.1 x.1.2.2 x.2.1)
             | e => (r.2.1, e)
         else go (fun k o => elemAt bits wb (Config.matPlace b.raw 0 k o)) (fun _ => b.ins) 0 none r.2.1)
    | e => (s, e)

def execMmul (t : Nat) (f : BitVec 48) (s : State) : Res := issue t f (goodE f) (matBody false) s
def execMmulz (t : Nat) (f : BitVec 48) (s : State) : Res := issue t f (goodE f) (matBody true) s

/-! ## The factor unit (06 R189 to R197) -/

structure FacBlock where
  n : Nat
  rows : Nat
  r : Nat
  mode : Nat
  tau : Nat
  delta : Nat
  src : Nat
  fac : Nat
  rhs : Nat
  out : Nat
  dis : Bool
  upper : Bool
  deriving DecidableEq, Repr

def facBlock (c : Ctx) (a : Nat) : FacBlock :=
  let w0 := c.reg a
  let w1 := c.reg (a + 1)
  let w2 := c.reg (a + 2)
  let w3 := c.reg (a + 3)
  { n := fld w0 48 16, rows := fld w0 32 16, r := fld w0 24 8, mode := fld w0 16 8, tau := fld w0 8 8, delta := fld w0 0 8,
    src := fld w1 24 24, fac := fld w1 0 24, rhs := fld w2 24 24, out := fld w2 0 24, dis := bit w3 1, upper := bit w3 0 }

/-- Reserved bits and the ranges of R189; `stream` for FQR and FGIVENS, `modes` the modes of the command. -/
def facBlockGood (c : Ctx) (a : Nat) (stream solve : Bool) (modes : Nat) : Bool :=
  let b := facBlock c a
  decide (fld (c.reg (a + 1)) 48 16 = 0 ∧ fld (c.reg (a + 2)) 48 16 = 0 ∧ fld (c.reg (a + 3)) 2 62 = 0) &&
    decide (1 ≤ b.n ∧ b.n ≤ 256 ∧ b.r ≤ 16 ∧ b.mode < modes) && (!solve || decide (1 ≤ b.r)) &&
    (if stream then decide (1 ≤ b.rows ∧ b.rows ≤ 4096) else decide (b.rows = 0))

def FacBlock.pivot (b : FacBlock) : Pivot := pivotOf b.tau b.delta b.dis

/-- What a factor command reads, and what it makes of it. -/
structure FacJob where
  reads : List (Nat × Nat)
  writes : List (Nat × Nat)
  deriving DecidableEq, Repr

/-- The words of a range that is read. -/
def facRange (write : Bool) (r : Nat × Nat) : Range := rangeOf write r.1 r.2

/-- Runs a factor command: its ranges are checked and awaited, its inputs read; `go` answers the bytes to write, or none
where it needs a factor that is not there. A command that has started and ends as singular, or at an input that does not read, leaves the
factor area invalid. -/
def At.factor (h : At) (j : FacJob) (fac : Option Nat) (go : List (List Byte) → Option (List (Nat × List Byte) × FacAcc)) (s : State) : State × Halt :=
  let rs := j.reads.map (facRange false) ++ j.writes.map (facRange true)
  if !(j.reads ++ j.writes).all (fun r => h.c.refGood r.1 r.2) || !h.allows rs then (s, h.bad)
  else match s.need h.p rs with
    | .ok =>
      let r := h.reads 3 (j.reads.map (fun x => (refSt x.1, refOff x.1, x.2))) s
      let invalid := fun (s : State) => match fac with
        | some x => s.ownWrite h.p h.w (refSt x) (refOff x) (leBytes 4 0)
        | none => s
      (match r.2.2 with
       | some loc =>
         let started := (go r.1).isSome && fac.all (fun x => decide (loc ≠ locStore h.p (refSt x) (refOff x)))
         (if started then invalid r.2.1 else r.2.1, .bad St.dataError loc)
       | none => (match go r.1 with
         | none => (r.2.1, .bad St.singular 0)
         | some (ws, acc) =>
           let s := h.set (Ctx.raise 3 acc.flags) r.2.1
           if acc.bad then (invalid s, .bad St.singular 0)
           else (ws.foldl (fun s w => s.ownWrite h.p h.w (refSt w.1) (refOff w.1) w.2) s, .ok)))
    | e => (s, e)

/-- The bytes of a finished factor area. -/
def facArea (n : Nat) (r : Factor × FacAcc) : List Byte := facHeader 1 n r.1 r.2 ++ facBody r.1

def cholBody (kind : Pivot → List (List W32) → Fac Factor) : Body := fun h s =>
  let g := Fmt.d h.f
  let b := facBlock h.c g
  if !facBlockGood h.c g false false 1 then (s, h.bad)
  else h.factor { reads := [(b.src, 4 * b.n * b.n)], writes := [(b.fac, facBytes b.n 0)] } (some b.fac) (fun ins =>
    let r := kind b.pivot (triangle b.n b.upper (wordsOf (ins.headD []))) { }
    some ([(b.fac, facArea b.n r)], r.2)) s

/-- The streamed rows with their weights and right-hand sides. -/
def streamRows (b : FacBlock) (xs ys : List W32) : List (W32 × List W32 × List W32) :=
  (List.range b.rows).map (fun k =>
    (if b.r = 0 && decide (refSt b.rhs ≠ 0) then ys.getD k 0 else 0x3F800000, (xs.drop (k * b.n)).take b.n, if b.r = 0 then [] else (ys.drop (k * b.r)).take b.r))

/-- Bytes that rhs names: r right-hand sides of each row, or with r = 0 the rows' weights where a store is named. -/
def FacBlock.rhsBytes (b : FacBlock) : Nat := if b.r = 0 then (if refSt b.rhs = 0 then 0 else 4 * b.rows) else 4 * b.rows * b.r

def streamBody (cleared : Bool) : Body := fun h s =>
  let g := Fmt.d h.f
  let b := facBlock h.c g
  let fb := facBytes b.n b.r
  if !facBlockGood h.c g true false 1 || (cleared && decide (b.rows < b.n)) then (s, h.bad)
  else h.factor { reads := [(b.src, 4 * b.n * b.rows), (b.rhs, b.rhsBytes)] ++ (if cleared then [] else [(b.fac, fb)]), writes := [(b.fac, fb)] } (some b.fac)
    (fun ins =>
      let f0 := if cleared then some (clearedFactor b.n b.r) else factorOf b.n b.r (ins.getD 2 [])
      match f0 with
      | none => none
      | some f0 =>
        if f0.kind ≠ 2 then none
        else
          let r := fgivens b.pivot f0 (streamRows b (wordsOf (ins.getD 0 [])) (wordsOf (ins.getD 1 []))) f0.acc
          some ([(b.fac, facArea b.n r)], r.2)) s

/-- Column k of an n × r matrix in row-major order. -/
def column (r k : Nat) (xs : List W32) : List W32 := (List.range (xs.length / r)).map (fun j => xs.getD (j * r + k) 0)

/-- The row-major matrix with the given columns. -/
def fromColumns (n : Nat) (cs : List (List W32)) : List W32 := (List.range n).flatMap (fun j => cs.map (fun c => c.getD j 0))

def solveBody : Body := fun h s =>
  let g := Fmt.d h.f
  let b := facBlock h.c g
  if !facBlockGood h.c g false true 6 then (s, h.bad)
  else h.factor { reads := [(b.fac, facBytes b.n 0), (b.rhs, 4 * b.n * b.r)], writes := [(b.out, 4 * b.n * b.r)] } none (fun ins =>
    match factorOf b.n 0 (ins.getD 0 []) with
    | none => none
    | some f =>
      if !modeKind b.mode f.kind then none
      else
        let ys := wordsOf (ins.getD 1 [])
        let r := mapFac (fun k => ftrsv b.mode f (column b.r k ys)) (List.range b.r) { }
        some ([(b.out, bytesOfWords (fromColumns b.n r.1))], r.2)) s

def updateBody : Body := fun h s =>
  let g := Fmt.d h.f
  let b := facBlock h.c g
  let fb := facBytes b.n 0
  if !facBlockGood h.c g false false 2 then (s, h.bad)
  else h.factor { reads := [(b.fac, fb), (b.src, 4 * b.n)], writes := [(b.fac, fb)] } (some b.fac) (fun ins =>
    match factorOf b.n 0 (ins.getD 0 []) with
    | none => none
    | some f =>
      if f.kind ≠ 1 then none
      else
        let r := fupdate b.pivot (decide (b.mode = 1)) f (wordsOf (ins.getD 1 [])) f.acc
        some ([(b.fac, facArea b.n r)], r.2)) s

def execFchol (t : Nat) (f : BitVec 48) (s : State) : Res := issue t f (goodE f) (cholBody fchol) s
def execFldl (t : Nat) (f : BitVec 48) (s : State) : Res := issue t f (goodE f) (cholBody fldl) s
def execFqr (t : Nat) (f : BitVec 48) (s : State) : Res := issue t f (goodE f) (streamBody true) s
def execFgivens (t : Nat) (f : BitVec 48) (s : State) : Res := issue t f (goodE f) (streamBody false) s
def execFtrsv (t : Nat) (f : BitVec 48) (s : State) : Res := issue t f (goodE f) solveBody s
def execFupdate (t : Nat) (f : BitVec 48) (s : State) : Res := issue t f (goodE f) updateBody s

/-! ## The commit unit (06 R204) -/

/-- A CMT command with its block. -/
def cmBody (op : Nat → Nat → Ctx → W64 → W64 → W64 → W64 → Halt → State → State × Halt) : Body := fun h s =>
  let g := Fmt.d h.f
  op h.p h.w h.c (h.c.reg g) (h.c.reg (g + 1)) (h.c.reg (g + 2)) (h.c.reg (g + 3)) h.bad s

def execCminit (t : Nat) (f : BitVec 48) (s : State) : Res := issue t f (goodE f) (cmBody State.cmInit) s
def execCmoffer (t : Nat) (f : BitVec 48) (s : State) : Res := issue t f (goodE f) (cmBody State.cmOffer) s
def execCmstat (t : Nat) (f : BitVec 48) (s : State) : Res := issue t f (goodE f) (cmBody State.cmStat) s

end Sys2Proof.Machine
end

