-- ==== Sys2Proof/Machine/Dispatch.lean ====
section
/-! DEFINITION. What each command does to everything but the queue: one arm for each row of the opcode table. -/

namespace Sys2Proof.Machine

open Sys2Proof

def exec (i : Instr) (s : State) : Host.Outcome State Fault Refusal :=
  match i with
  | .ack h pl => Sys2Proof.Machine.execAck h pl s
  | .queueSet h pl => Sys2Proof.Machine.execQueueSet h pl s
  | .regRead h pl => Sys2Proof.Machine.execRegRead h pl s
  | .regWrite h pl => Sys2Proof.Machine.execRegWrite h pl s
  | .setConeBudget h pl => Sys2Proof.Machine.execSetConeBudget h pl s
  | .setRung h pl => Sys2Proof.Machine.execSetRung h pl s
  | .rungReached dom => Sys2Proof.Machine.execRungReached dom s
  | .selfTest h pl => Sys2Proof.Machine.execSelfTest h pl s
  | .selfTestRun dom sig => Sys2Proof.Machine.execSelfTestRun dom sig s
  | .attest h pl => Sys2Proof.Machine.execAttest h pl s
  | .fwLoad h pl => Sys2Proof.Machine.execFwLoad h pl s
  | .attach h pl => Sys2Proof.Machine.execAttach h pl s
  | .attachBulkDone mem copies binds => Sys2Proof.Machine.execAttachBulkDone mem copies binds s
  | .attachFinalDone qs ix => Sys2Proof.Machine.execAttachFinalDone qs ix s
  | .detach h pl => Sys2Proof.Machine.execDetach h pl s
  | .detachEffect => Sys2Proof.Machine.execDetachEffect s
  | .roleSwap h pl => Sys2Proof.Machine.execRoleSwap h pl s
  | .roleSwapCount => Sys2Proof.Machine.execRoleSwapCount s
  | .journalRead h pl => Sys2Proof.Machine.execJournalRead h pl s
  | .bindSlot h pl => Sys2Proof.Machine.execBindSlot h pl s
  | .unbind h pl => Sys2Proof.Machine.execUnbind h pl s
  | .swapCoef h pl => Sys2Proof.Machine.execSwapCoef h pl s
  | .bindStanding h pl => Sys2Proof.Machine.execBindStanding h pl s
  | .bindLane h pl => Sys2Proof.Machine.execBindLane h pl s
  | .bindPwm h pl => Sys2Proof.Machine.execBindPwm h pl s
  | .bindLink h pl => Sys2Proof.Machine.execBindLink h pl s
  | .launch h pl => Sys2Proof.Machine.execLaunch h pl s
  | .launchCount q sq => Sys2Proof.Machine.execLaunchCount q sq s
  | .solveQp h pl => Sys2Proof.Machine.execSolveQp h pl s
  | .solveLs h pl => Sys2Proof.Machine.execSolveLs h pl s
  | .estimate h pl => Sys2Proof.Machine.execEstimate h pl s
  | .infer h pl => Sys2Proof.Machine.execInfer h pl s
  | .temper h pl => Sys2Proof.Machine.execTemper h pl s
  | .runProgram h pl => Sys2Proof.Machine.execRunProgram h pl s
  | .dataPut h pl d => Sys2Proof.Machine.execDataPut h pl d s
  | .dataGet h pl => Sys2Proof.Machine.execDataGet h pl s
  | .hearthPin h pl => Sys2Proof.Machine.execHearthPin h pl s
  | .witnessStart h pl => Sys2Proof.Machine.execWitnessStart h pl s
  | .witnessRecordStart => Sys2Proof.Machine.execWitnessRecordStart s
  | .witnessStop h pl => Sys2Proof.Machine.execWitnessStop h pl s
  | .witnessGap => Sys2Proof.Machine.execWitnessGap s
  | .replayStart h pl => Sys2Proof.Machine.execReplayStart h pl s
  | .replayEntry => Sys2Proof.Machine.execReplayEntry s
  | .replayEnd => Sys2Proof.Machine.execReplayEnd s
  | .timeMode h pl => Sys2Proof.Machine.execTimeMode h pl s
  | .queueMirrorAck => Sys2Proof.Machine.execQueueMirrorAck s
  | .completionRelease q => Sys2Proof.Machine.execCompletionRelease q s
  | .commitMirrorAck ix => Sys2Proof.Machine.execCommitMirrorAck ix s
  | .pendingMapPiece piece => Sys2Proof.Machine.execPendingMapPiece piece s
  | .usbDbCtlAll h => Sys2Proof.Machine.execUsbDbCtlAll h s
  | .telemetryRecord => Sys2Proof.Machine.execTelemetryRecord s
  | .usbBusReset => Sys2Proof.Machine.execUsbBusReset s
  | .usbSuspend => Sys2Proof.Machine.execUsbSuspend s
  | .smbusBlockRead addr code pecOk => Sys2Proof.Machine.execSmbusBlockRead addr code pecOk s
  | .jobDispatch => Sys2Proof.Machine.execJobDispatch s
  | .refillTick => Sys2Proof.Machine.execRefillTick s
  | .invocationStart b => Sys2Proof.Machine.execInvocationStart b s
  | .standingBoundary b => Sys2Proof.Machine.execStandingBoundary b s
  | .standingRelease b => Sys2Proof.Machine.execStandingRelease b s
  | .deadlineFreeze t cut => Sys2Proof.Machine.execDeadlineFreeze t cut s
  | .mailboxPublish b => Sys2Proof.Machine.execMailboxPublish b s
  | .budgetWatchdogExpiry t => Sys2Proof.Machine.execBudgetWatchdogExpiry t s
  | .contextSwitch t => Sys2Proof.Machine.execContextSwitch t s
  | .contextEvict t => Sys2Proof.Machine.execContextEvict t s
  | .contextSwapIn t => Sys2Proof.Machine.execContextSwapIn t s
  | .idleRungStep t => Sys2Proof.Machine.execIdleRungStep t s
  | .wakeSlot => Sys2Proof.Machine.execWakeSlot s
  | .bankTransitionDone t bank => Sys2Proof.Machine.execBankTransitionDone t bank s
  | .thermalReading temps => Sys2Proof.Machine.execThermalReading temps s
  | .nop t f => Sys2Proof.Machine.execNop t f s
  | .jend t f => Sys2Proof.Machine.execJend t f s
  | .fpbar t f => Sys2Proof.Machine.execFpbar t f s
  | .idle t f => Sys2Proof.Machine.execIdle t f s
  | .flgrd t f => Sys2Proof.Machine.execFlgrd t f s
  | .flgclr t f => Sys2Proof.Machine.execFlgclr t f s
  | .trapw t f => Sys2Proof.Machine.execTrapw t f s
  | .add t f => Sys2Proof.Machine.execAdd t f s
  | .sub t f => Sys2Proof.Machine.execSub t f s
  | .and t f => Sys2Proof.Machine.execAnd t f s
  | .or t f => Sys2Proof.Machine.execOr t f s
  | .xor t f => Sys2Proof.Machine.execXor t f s
  | .shl t f => Sys2Proof.Machine.execShl t f s
  | .shr t f => Sys2Proof.Machine.execShr t f s
  | .sar t f => Sys2Proof.Machine.execSar t f s
  | .mov t f => Sys2Proof.Machine.execMov t f s
  | .adds t f => Sys2Proof.Machine.execAdds t f s
  | .subs t f => Sys2Proof.Machine.execSubs t f s
  | .addi t f => Sys2Proof.Machine.execAddi t f s
  | .andi t f => Sys2Proof.Machine.execAndi t f s
  | .ori t f => Sys2Proof.Machine.execOri t f s
  | .xori t f => Sys2Proof.Machine.execXori t f s
  | .shli t f => Sys2Proof.Machine.execShli t f s
  | .shri t f => Sys2Proof.Machine.execShri t f s
  | .sari t f => Sys2Proof.Machine.execSari t f s
  | .movi t f => Sys2Proof.Machine.execMovi t f s
  | .movhi t f => Sys2Proof.Machine.execMovhi t f s
  | .addsi t f => Sys2Proof.Machine.execAddsi t f s
  | .mul t f => Sys2Proof.Machine.execMul t f s
  | .mulh t f => Sys2Proof.Machine.execMulh t f s
  | .mulhu t f => Sys2Proof.Machine.execMulhu t f s
  | .mulhsu t f => Sys2Proof.Machine.execMulhsu t f s
  | .div t f => Sys2Proof.Machine.execDiv t f s
  | .divu t f => Sys2Proof.Machine.execDivu t f s
  | .rem t f => Sys2Proof.Machine.execRem t f s
  | .remu t f => Sys2Proof.Machine.execRemu t f s
  | .cmp t f => Sys2Proof.Machine.execCmp t f s
  | .pand t f => Sys2Proof.Machine.execPand t f s
  | .por t f => Sys2Proof.Machine.execPor t f s
  | .pxor t f => Sys2Proof.Machine.execPxor t f s
  | .pnot t f => Sys2Proof.Machine.execPnot t f s
  | .br t f => Sys2Proof.Machine.execBr t f s
  | .call t f => Sys2Proof.Machine.execCall t f s
  | .ret t f => Sys2Proof.Machine.execRet t f s
  | .loop t f => Sys2Proof.Machine.execLoop t f s
  | .ldW t f => Sys2Proof.Machine.execLdW t f s
  | .ldD t f => Sys2Proof.Machine.execLdD t f s
  | .stW t f => Sys2Proof.Machine.execStW t f s
  | .stD t f => Sys2Proof.Machine.execStD t f s
  | .tbreadS t f => Sys2Proof.Machine.execTbreadS t f s
  | .tbreadL t f => Sys2Proof.Machine.execTbreadL t f s
  | .tbdl t f => Sys2Proof.Machine.execTbdl t f s
  | .tbwait t f => Sys2Proof.Machine.execTbwait t f s
  | .mbwr t f => Sys2Proof.Machine.execMbwr t f s
  | .copen t f => Sys2Proof.Machine.execCopen t f s
  | .cclose t f => Sys2Proof.Machine.execCclose t f s
  | .cfill t f => Sys2Proof.Machine.execCfill t f s
  | .chead t f => Sys2Proof.Machine.execChead t f s
  | .clast t f => Sys2Proof.Machine.execClast t f s
  | .cpopn t f => Sys2Proof.Machine.execCpopn t f s
  | .cpushn t f => Sys2Proof.Machine.execCpushn t f s
  | .cwait t f => Sys2Proof.Machine.execCwait t f s
  | .cdrain t f => Sys2Proof.Machine.execCdrain t f s
  | .vrand t f => Sys2Proof.Machine.execVrand t f s
  | .hsha t f => Sys2Proof.Machine.execHsha t f s
  | .hwait t f => Sys2Proof.Machine.execHwait t f s
  | .bankpwr t f => Sys2Proof.Machine.execBankpwr t f s
  | .bpwait t f => Sys2Proof.Machine.execBpwait t f s
  | .vadd t f => Sys2Proof.Machine.execVadd t f s
  | .vsub t f => Sys2Proof.Machine.execVsub t f s
  | .vand t f => Sys2Proof.Machine.execVand t f s
  | .vor t f => Sys2Proof.Machine.execVor t f s
  | .vxor t f => Sys2Proof.Machine.execVxor t f s
  | .vshl t f => Sys2Proof.Machine.execVshl t f s
  | .vshr t f => Sys2Proof.Machine.execVshr t f s
  | .vsar t f => Sys2Proof.Machine.execVsar t f s
  | .vadds t f => Sys2Proof.Machine.execVadds t f s
  | .vsubs t f => Sys2Proof.Machine.execVsubs t f s
  | .vmulI t f => Sys2Proof.Machine.execVmulI t f s
  | .vmuls t f => Sys2Proof.Machine.execVmuls t f s
  | .vmin t f => Sys2Proof.Machine.execVmin t f s
  | .vmax t f => Sys2Proof.Machine.execVmax t f s
  | .vcmp t f => Sys2Proof.Machine.execVcmp t f s
  | .vsel t f => Sys2Proof.Machine.execVsel t f s
  | .vneg t f => Sys2Proof.Machine.execVneg t f s
  | .vabs t f => Sys2Proof.Machine.execVabs t f s
  | .vbcast t f => Sys2Proof.Machine.execVbcast t f s
  | .vaddF t f => Sys2Proof.Machine.execVaddF t f s
  | .vsubF t f => Sys2Proof.Machine.execVsubF t f s
  | .vmulF t f => Sys2Proof.Machine.execVmulF t f s
  | .vmulaF t f => Sys2Proof.Machine.execVmulaF t f s
  | .vminF t f => Sys2Proof.Machine.execVminF t f s
  | .vmaxF t f => Sys2Proof.Machine.execVmaxF t f s
  | .vminnum t f => Sys2Proof.Machine.execVminnum t f s
  | .vmaxnum t f => Sys2Proof.Machine.execVmaxnum t f s
  | .vcmpF t f => Sys2Proof.Machine.execVcmpF t f s
  | .vselF t f => Sys2Proof.Machine.execVselF t f s
  | .vnegF t f => Sys2Proof.Machine.execVnegF t f s
  | .vabsF t f => Sys2Proof.Machine.execVabsF t f s
  | .vcpysgn t f => Sys2Proof.Machine.execVcpysgn t f s
  | .vcvt t minor f => Sys2Proof.Machine.execVcvt t minor f s
  | .vld t f => Sys2Proof.Machine.execVld t f s
  | .vst t f => Sys2Proof.Machine.execVst t f s
  | .vmovg t f => Sys2Proof.Machine.execVmovg t f s
  | .vqb t f => Sys2Proof.Machine.execVqb t f s
  | .vdqb t f => Sys2Proof.Machine.execVdqb t f s
  | .vreq t f => Sys2Proof.Machine.execVreq t f s
  | .vclamp t f => Sys2Proof.Machine.execVclamp t f s
  | .vredAddF t f => Sys2Proof.Machine.execVredAddF t f s
  | .vredAddI t f => Sys2Proof.Machine.execVredAddI t f s
  | .vredMaxF t f => Sys2Proof.Machine.execVredMaxF t f s
  | .tstore t minor f => Sys2Proof.Machine.execTstore t minor f s
  | .mmul t f => Sys2Proof.Machine.execMmul t f s
  | .mmulz t f => Sys2Proof.Machine.execMmulz t f s
  | .fchol t f => Sys2Proof.Machine.execFchol t f s
  | .fldl t f => Sys2Proof.Machine.execFldl t f s
  | .fqr t f => Sys2Proof.Machine.execFqr t f s
  | .fgivens t f => Sys2Proof.Machine.execFgivens t f s
  | .ftrsv t f => Sys2Proof.Machine.execFtrsv t f s
  | .fupdate t f => Sys2Proof.Machine.execFupdate t f s
  | .dpush t f => Sys2Proof.Machine.execDpush t f s
  | .dwait t f => Sys2Proof.Machine.execDwait t f s
  | .dqcfg t f => Sys2Proof.Machine.execDqcfg t f s
  | .cminit t f => Sys2Proof.Machine.execCminit t f s
  | .cmoffer t f => Sys2Proof.Machine.execCmoffer t f s
  | .cmstat t f => Sys2Proof.Machine.execCmstat t f s
  | .dmaDescriptorDone t q => Sys2Proof.Machine.execDmaDescriptorDone t q s
  | .receivePush t coil src prod n6 d => Sys2Proof.Machine.execReceivePush t coil src prod n6 d s
  | .atomicAdd t coil word fp ws => Sys2Proof.Machine.execAtomicAdd t coil word fp ws s
  | .storeScrub t store off => Sys2Proof.Machine.execStoreScrub t store off s
  | .unitFailure kind n => Sys2Proof.Machine.execUnitFailure kind n s
  | .tileCtlBconfClear h t => Sys2Proof.Machine.execTileCtlBconfClear h t s
  | .hbmScrub addr => Sys2Proof.Machine.execHbmScrub addr s
  | .hbmRefresh pc bank => Sys2Proof.Machine.execHbmRefresh pc bank s
  | .slotStart e sl => Sys2Proof.Machine.execSlotStart e sl s
  | .slotSample e sl => Sys2Proof.Machine.execSlotSample e sl s
  | .slotCommit e sl => Sys2Proof.Machine.execSlotCommit e sl s
  | .leSlotModeAuto h e sl auto => Sys2Proof.Machine.execLeSlotModeAuto h e sl auto s
  | .leSlotModeFbExit h e sl => Sys2Proof.Machine.execLeSlotModeFbExit h e sl s
  | .leSlotModeManFromLast h e sl => Sys2Proof.Machine.execLeSlotModeManFromLast h e sl s
  | .leSlotManWrite h e sl v => Sys2Proof.Machine.execLeSlotManWrite h e sl v s
  | .leSlotFbWrite h e sl v => Sys2Proof.Machine.execLeSlotFbWrite h e sl v s
  | .leSlotBankWrite h e sl bankB word v => Sys2Proof.Machine.execLeSlotBankWrite h e sl bankB word v s
  | .convertPulse n => Sys2Proof.Machine.execConvertPulse n s
  | .wordReceived n word nbits lastBit => Sys2Proof.Machine.execWordReceived n word nbits lastBit s
  | .laneSample n bits => Sys2Proof.Machine.execLaneSample n bits s
  | .snsLaneSwap h n v => Sys2Proof.Machine.execSnsLaneSwap h n v s
  | .modulatorLoss n => Sys2Proof.Machine.execModulatorLoss n s
  | .ocExceedance n bits => Sys2Proof.Machine.execOcExceedance n bits s
  | .tripInput n low width => Sys2Proof.Machine.execTripInput n low width s
  | .pwmTripSw h raise => Sys2Proof.Machine.execPwmTripSw h raise s
  | .tripLatchClear h n => Sys2Proof.Machine.execTripLatchClear h n s
  | .pairResume n => Sys2Proof.Machine.execPairResume n s
  | .shadowLoad n => Sys2Proof.Machine.execShadowLoad n s
  | .downlinkSend l => Sys2Proof.Machine.execDownlinkSend l s
  | .uplinkReceived l rd groups => Sys2Proof.Machine.execUplinkReceived l rd groups s
  | .uplinkPush l => Sys2Proof.Machine.execUplinkPush l s
  | .beaconSend l => Sys2Proof.Machine.execBeaconSend l s
  | .beaconEchoReceived l rd groups rtt => Sys2Proof.Machine.execBeaconEchoReceived l rd groups rtt s
  | .linkSync l => Sys2Proof.Machine.execLinkSync l s
  | .syncLost l => Sys2Proof.Machine.execSyncLost l s
  | .timebaseTick => Sys2Proof.Machine.execTimebaseTick s
  | .counterStep => Sys2Proof.Machine.execCounterStep s
  | .ptpSyncReceived port m => Sys2Proof.Machine.execPtpSyncReceived port m s
  | .ptpFollowUpReceived port m => Sys2Proof.Machine.execPtpFollowUpReceived port m s
  | .ptpDelayRespReceived port m => Sys2Proof.Machine.execPtpDelayRespReceived port m s
  | .ptpAnnounceReceived port m => Sys2Proof.Machine.execPtpAnnounceReceived port m s
  | .ptpDelayReqReceived port m => Sys2Proof.Machine.execPtpDelayReqReceived port m s
  | .delayReqSend port => Sys2Proof.Machine.execDelayReqSend port s
  | .syncSend port => Sys2Proof.Machine.execSyncSend port s
  | .announceSend port => Sys2Proof.Machine.execAnnounceSend port s
  | .holdoverEntry => Sys2Proof.Machine.execHoldoverEntry s
  | .tcForward port m egress => Sys2Proof.Machine.execTcForward port m egress s
  | .tcResidenceTimeout port sid seqId => Sys2Proof.Machine.execTcResidenceTimeout port sid seqId s
  | .ethFrameReceived port fr => Sys2Proof.Machine.execEthFrameReceived port fr s
  | .ethCtlWrite h port v => Sys2Proof.Machine.execEthCtlWrite h port v s
  | .tbServoWrite h v => Sys2Proof.Machine.execTbServoWrite h v s
  | .ppsInEdge => Sys2Proof.Machine.execPpsInEdge s
  | .ppsOutEdge => Sys2Proof.Machine.execPpsOutEdge s
  | .heartbeatSend => Sys2Proof.Machine.execHeartbeatSend s
  | .heartbeatIntervalEnd => Sys2Proof.Machine.execHeartbeatIntervalEnd s
  | .leavingReceived => Sys2Proof.Machine.execLeavingReceived s
  | .peerActiveChange level => Sys2Proof.Machine.execPeerActiveChange level s
  | .promotion => Sys2Proof.Machine.execPromotion s
  | .flitReceived fl => Sys2Proof.Machine.execFlitReceived fl s
  | .nakReceived ackd => Sys2Proof.Machine.execNakReceived ackd s
  | .timebaseLockReceived egress arrival resent => Sys2Proof.Machine.execTimebaseLockReceived egress arrival resent s
  | .commitEntryReceived en => Sys2Proof.Machine.execCommitEntryReceived en s
  | .loopShadowReceived e sl image crc => Sys2Proof.Machine.execLoopShadowReceived e sl image crc s
  | .catchup b data => Sys2Proof.Machine.execCatchup b data s
  | .watchdogExpiry => Sys2Proof.Machine.execWatchdogExpiry s
  | .mgResetCtlWarm h => Sys2Proof.Machine.execMgResetCtlWarm h s
  | .mgResetCtlHealthClear h => Sys2Proof.Machine.execMgResetCtlHealthClear h s
  | .powerOnReset => Sys2Proof.Machine.execPowerOnReset s
  | .warmReset cause => Sys2Proof.Machine.execWarmReset cause s
  | .resetRelease bootSel twinPref pwmSafe failedTiles => Sys2Proof.Machine.execResetRelease bootSel twinPref pwmSafe failedTiles s
  | .enterService => Sys2Proof.Machine.execEnterService s
  | .evcCtlFreeze h fz => Sys2Proof.Machine.execEvcCtlFreeze h fz s
  | .evcCtlClearAll h => Sys2Proof.Machine.execEvcCtlClearAll h s
  | .evcSelWrite h tile n v => Sys2Proof.Machine.execEvcSelWrite h tile n v s
  | .twinLinkTrained => Sys2Proof.Machine.execTwinLinkTrained s
  | .twinLaneLockLoss lane => Sys2Proof.Machine.execTwinLaneLockLoss lane s
  | .ethPcsLockChange port link fec => Sys2Proof.Machine.execEthPcsLockChange port link fec s
  | .usbLinkTrained speed => Sys2Proof.Machine.execUsbLinkTrained speed s
  | .usbResume => Sys2Proof.Machine.execUsbResume s
  | .u1U2Request u2 => Sys2Proof.Machine.execU1U2Request u2 s
  | .manchesterCodeViolation n => Sys2Proof.Machine.execManchesterCodeViolation n s
  | .modulatorClockReturn n => Sys2Proof.Machine.execModulatorClockReturn n s
  | .prefetchDropped rq => Sys2Proof.Machine.execPrefetchDropped rq s
  | .agePromotion rq => Sys2Proof.Machine.execAgePromotion rq s
  | .hearthPinDone q sq => Sys2Proof.Machine.execHearthPinDone q sq s
  | .dataGetDone q sq => Sys2Proof.Machine.execDataGetDone q sq s
  | .fwLoadDone => Sys2Proof.Machine.execFwLoadDone s
  | .trngHealthFail fail => Sys2Proof.Machine.execTrngHealthFail fail s

end Sys2Proof.Machine
end

