-- ==== Sys2Proof/WellFormed.lean ====
section
/-!
DEFINITION. The well-formed commands: each names only units that the device has.
The packets themselves are not judged here: a packet with a bad header or payload is a command that the device turns away with
a reply (10 R323).
-/

set_option Elab.async false

namespace Sys2Proof

/-- How many units of a kind the device has (02 R39; 07 R222; 08 R255; 13 R427). -/
def unitCount : UnitKind → Nat
  | .tile => 68
  | .loopEngine => 16
  | .senseGroup => 4
  | .pseudoChannel => 32

/-- Every unit that the command names exists: 68 tiles with 16 DMA queues (02 R39, R45), 116 power domains
(11 R376), 16 loop engines of 8 slots (07 R222), 64 lanes (08 R255), 48 pairs and 83 trip sources, of which 16 are pins
(08 R271, R277), 32 links (09 R292), 2 Ethernet ports (16 R524), 4 twin lanes (16 R532), 4,096 queues (10 R313), 32 pseudo-channels of
32 banks (13 R427), and 8 counters of each tile and 32 global ones (17 R548, R549). -/
def Instr.wf : Instr → Prop
  | .ack _ _ => True
  | .queueSet _ _ => True
  | .regRead _ _ => True
  | .regWrite _ _ => True
  | .setConeBudget _ _ => True
  | .setRung _ _ => True
  | .rungReached dom => dom < 116
  | .selfTest _ _ => True
  | .selfTestRun dom _ => dom < 116
  | .attest _ _ => True
  | .fwLoad _ _ => True
  | .attach _ _ => True
  | .attachBulkDone _ _ _ => True
  | .attachFinalDone _ _ => True
  | .detach _ _ => True
  | .detachEffect => True
  | .roleSwap _ _ => True
  | .roleSwapCount => True
  | .journalRead _ _ => True
  | .bindSlot _ _ => True
  | .unbind _ _ => True
  | .swapCoef _ _ => True
  | .bindStanding _ _ => True
  | .bindLane _ _ => True
  | .bindPwm _ _ => True
  | .bindLink _ _ => True
  | .launch _ _ => True
  | .launchCount _ _ => True
  | .solveQp _ _ => True
  | .solveLs _ _ => True
  | .estimate _ _ => True
  | .infer _ _ => True
  | .temper _ _ => True
  | .runProgram _ _ => True
  | .dataPut _ _ _ => True
  | .dataGet _ _ => True
  | .hearthPin _ _ => True
  | .witnessStart _ _ => True
  | .witnessRecordStart => True
  | .witnessStop _ _ => True
  | .witnessGap => True
  | .replayStart _ _ => True
  | .replayEntry => True
  | .replayEnd => True
  | .timeMode _ _ => True
  | .queueMirrorAck => True
  | .completionRelease q => q < 4096
  | .commitMirrorAck _ => True
  | .pendingMapPiece piece => piece < 16
  | .usbDbCtlAll _ => True
  | .telemetryRecord => True
  | .usbBusReset => True
  | .usbSuspend => True
  | .smbusBlockRead _ _ _ => True
  | .jobDispatch => True
  | .refillTick => True
  | .invocationStart _ => True
  | .standingBoundary _ => True
  | .standingRelease _ => True
  | .deadlineFreeze t _ => t < 68
  | .mailboxPublish _ => True
  | .budgetWatchdogExpiry t => t < 68
  | .contextSwitch t => t < 68
  | .contextEvict t => t < 68
  | .contextSwapIn t => t < 68
  | .idleRungStep t => t < 68
  | .wakeSlot => True
  | .bankTransitionDone t bank => t < 68 ∧ bank < 40
  | .thermalReading _ => True
  | .nop t _ => t < 68
  | .jend t _ => t < 68
  | .fpbar t _ => t < 68
  | .idle t _ => t < 68
  | .flgrd t _ => t < 68
  | .flgclr t _ => t < 68
  | .trapw t _ => t < 68
  | .add t _ => t < 68
  | .sub t _ => t < 68
  | .and t _ => t < 68
  | .or t _ => t < 68
  | .xor t _ => t < 68
  | .shl t _ => t < 68
  | .shr t _ => t < 68
  | .sar t _ => t < 68
  | .mov t _ => t < 68
  | .adds t _ => t < 68
  | .subs t _ => t < 68
  | .addi t _ => t < 68
  | .andi t _ => t < 68
  | .ori t _ => t < 68
  | .xori t _ => t < 68
  | .shli t _ => t < 68
  | .shri t _ => t < 68
  | .sari t _ => t < 68
  | .movi t _ => t < 68
  | .movhi t _ => t < 68
  | .addsi t _ => t < 68
  | .mul t _ => t < 68
  | .mulh t _ => t < 68
  | .mulhu t _ => t < 68
  | .mulhsu t _ => t < 68
  | .div t _ => t < 68
  | .divu t _ => t < 68
  | .rem t _ => t < 68
  | .remu t _ => t < 68
  | .cmp t _ => t < 68
  | .pand t _ => t < 68
  | .por t _ => t < 68
  | .pxor t _ => t < 68
  | .pnot t _ => t < 68
  | .br t _ => t < 68
  | .call t _ => t < 68
  | .ret t _ => t < 68
  | .loop t _ => t < 68
  | .ldW t _ => t < 68
  | .ldD t _ => t < 68
  | .stW t _ => t < 68
  | .stD t _ => t < 68
  | .tbreadS t _ => t < 68
  | .tbreadL t _ => t < 68
  | .tbdl t _ => t < 68
  | .tbwait t _ => t < 68
  | .mbwr t _ => t < 68
  | .copen t _ => t < 68
  | .cclose t _ => t < 68
  | .cfill t _ => t < 68
  | .chead t _ => t < 68
  | .clast t _ => t < 68
  | .cpopn t _ => t < 68
  | .cpushn t _ => t < 68
  | .cwait t _ => t < 68
  | .cdrain t _ => t < 68
  | .vrand t _ => t < 68
  | .hsha t _ => t < 68
  | .hwait t _ => t < 68
  | .bankpwr t _ => t < 68
  | .bpwait t _ => t < 68
  | .vadd t _ => t < 68
  | .vsub t _ => t < 68
  | .vand t _ => t < 68
  | .vor t _ => t < 68
  | .vxor t _ => t < 68
  | .vshl t _ => t < 68
  | .vshr t _ => t < 68
  | .vsar t _ => t < 68
  | .vadds t _ => t < 68
  | .vsubs t _ => t < 68
  | .vmulI t _ => t < 68
  | .vmuls t _ => t < 68
  | .vmin t _ => t < 68
  | .vmax t _ => t < 68
  | .vcmp t _ => t < 68
  | .vsel t _ => t < 68
  | .vneg t _ => t < 68
  | .vabs t _ => t < 68
  | .vbcast t _ => t < 68
  | .vaddF t _ => t < 68
  | .vsubF t _ => t < 68
  | .vmulF t _ => t < 68
  | .vmulaF t _ => t < 68
  | .vminF t _ => t < 68
  | .vmaxF t _ => t < 68
  | .vminnum t _ => t < 68
  | .vmaxnum t _ => t < 68
  | .vcmpF t _ => t < 68
  | .vselF t _ => t < 68
  | .vnegF t _ => t < 68
  | .vabsF t _ => t < 68
  | .vcpysgn t _ => t < 68
  | .vcvt t _ _ => t < 68
  | .vld t _ => t < 68
  | .vst t _ => t < 68
  | .vmovg t _ => t < 68
  | .vqb t _ => t < 68
  | .vdqb t _ => t < 68
  | .vreq t _ => t < 68
  | .vclamp t _ => t < 68
  | .vredAddF t _ => t < 68
  | .vredAddI t _ => t < 68
  | .vredMaxF t _ => t < 68
  | .tstore t _ _ => t < 68
  | .mmul t _ => t < 68
  | .mmulz t _ => t < 68
  | .fchol t _ => t < 68
  | .fldl t _ => t < 68
  | .fqr t _ => t < 68
  | .fgivens t _ => t < 68
  | .ftrsv t _ => t < 68
  | .fupdate t _ => t < 68
  | .dpush t _ => t < 68
  | .dwait t _ => t < 68
  | .dqcfg t _ => t < 68
  | .cminit t _ => t < 68
  | .cmoffer t _ => t < 68
  | .cmstat t _ => t < 68
  | .dmaDescriptorDone t q => t < 68 ∧ q < 16
  | .receivePush t coil _ _ _ _ => t < 68 ∧ coil < 32
  | .atomicAdd t coil _ _ _ => t < 68 ∧ coil < 32
  | .storeScrub t _ _ => t < 68
  | .unitFailure kind n => n < unitCount kind
  | .tileCtlBconfClear _ t => t < 68
  | .hbmScrub _ => True
  | .hbmRefresh pc bank => pc < 32 ∧ bank < 32
  | .slotStart e sl => e < 16 ∧ sl < 8
  | .slotSample e sl => e < 16 ∧ sl < 8
  | .slotCommit e sl => e < 16 ∧ sl < 8
  | .leSlotModeAuto _ e sl _ => e < 16 ∧ sl < 8
  | .leSlotModeFbExit _ e sl => e < 16 ∧ sl < 8
  | .leSlotModeManFromLast _ e sl => e < 16 ∧ sl < 8
  | .leSlotManWrite _ e sl _ => e < 16 ∧ sl < 8
  | .leSlotFbWrite _ e sl _ => e < 16 ∧ sl < 8
  | .leSlotBankWrite _ e sl _ word _ => e < 16 ∧ sl < 8 ∧ word < 64
  | .convertPulse n => n < 64
  | .wordReceived n _ _ _ => n < 64
  | .laneSample n _ => n < 64
  | .snsLaneSwap _ n _ => n < 64
  | .modulatorLoss n => n < 64
  | .ocExceedance n _ => n < 64
  | .tripInput n _ _ => n < 16
  | .pwmTripSw _ _ => True
  | .tripLatchClear _ n => n < 83
  | .pairResume n => n < 48
  | .shadowLoad n => n < 48
  | .downlinkSend l => l < 32
  | .uplinkReceived l _ _ => l < 32
  | .uplinkPush l => l < 32
  | .beaconSend l => l < 32
  | .beaconEchoReceived l _ _ _ => l < 32
  | .linkSync l => l < 32
  | .syncLost l => l < 32
  | .timebaseTick => True
  | .counterStep => True
  | .ptpSyncReceived port _ => port < 2
  | .ptpFollowUpReceived port _ => port < 2
  | .ptpDelayRespReceived port _ => port < 2
  | .ptpAnnounceReceived port _ => port < 2
  | .ptpDelayReqReceived port _ => port < 2
  | .delayReqSend port => port < 2
  | .syncSend port => port < 2
  | .announceSend port => port < 2
  | .holdoverEntry => True
  | .tcForward port _ _ => port < 2
  | .tcResidenceTimeout port _ _ => port < 2
  | .ethFrameReceived port _ => port < 2
  | .ethCtlWrite _ port _ => port < 2
  | .tbServoWrite _ _ => True
  | .ppsInEdge => True
  | .ppsOutEdge => True
  | .heartbeatSend => True
  | .heartbeatIntervalEnd => True
  | .leavingReceived => True
  | .peerActiveChange _ => True
  | .promotion => True
  | .flitReceived _ => True
  | .nakReceived _ => True
  | .timebaseLockReceived _ _ _ => True
  | .commitEntryReceived _ => True
  | .loopShadowReceived e sl _ _ => e < 16 ∧ sl < 8
  | .catchup _ _ => True
  | .watchdogExpiry => True
  | .mgResetCtlWarm _ => True
  | .mgResetCtlHealthClear _ => True
  | .powerOnReset => True
  | .warmReset cause => 1 ≤ cause ∧ cause ≤ 3
  | .resetRelease _ _ _ _ => True
  | .enterService => True
  | .evcCtlFreeze _ _ => True
  | .evcCtlClearAll _ => True
  | .evcSelWrite _ none n _ => n < 32
  | .evcSelWrite _ (some t) n _ => t < 68 ∧ n < 8
  | .twinLinkTrained => True
  | .twinLaneLockLoss lane => lane < 4
  | .ethPcsLockChange port _ _ => port < 2
  | .usbLinkTrained _ => True
  | .usbResume => True
  | .u1U2Request _ => True
  | .manchesterCodeViolation n => n < 64
  | .modulatorClockReturn n => n < 64
  | .prefetchDropped _ => True
  | .agePromotion _ => True
  | .hearthPinDone _ _ => True
  | .dataGetDone _ _ => True
  | .fwLoadDone => True
  | .trngHealthFail _ => True

end Sys2Proof
end

