-- ==== Sys2Proof/Safety.lean ====
section
/-!
DEFINITION. The words that the statements are made of: when an instruction of a tile has its own effect, what it leaves of
the context, which ranges it may use at once, and which states keep the rules of the whole machine.
-/

set_option Elab.async false

namespace Sys2Proof.Machine

open Sys2Proof

/-! ## One instruction of a tile (05 R141 to R148) -/

/-- The context after an instruction that changes nothing but pc: the first instruction has started the budget watchdog
(05 R184), pc names the next word (R141), and no bank is waited for. -/
def Ctx.after (now up : Nat) (c : Ctx) : Ctx := (({ c with stage1 := [] } : Ctx).begin_ now up).jump (c.pc + 1)

/-- The executing context `c` of tile `t` has its next word: the tile is at FIRE (11 R376), the job runs a program and is
not blocked (11 R363), its budget is not spent (05 R184), no read of another engine has failed it (02 R54), no trap is to be taken
(R164), and the word lies in a CODE section (R146) and reads without an error (02 R54). -/
structure State.Fetches (s : State) (t : Nat) (c : Ctx) : Prop where
  unit : t < 68
  cur : (s.tile t).cur = some c
  live : c.live = true
  fire : (s.dom t).rung = 0
  program : c.job.builtin = false
  ready : c.wait = none
  budget : c.job.image.wcet = 0 ∨ s.wdCycles t c < c.job.image.wcet
  unhurt : c.doomed = none
  noTrap : (c.trap && c.job.tput) = false
  code : c.inCode = true
  clean : (s.tile t).upsets 3 (8 * c.pc) 8 = []

/-- The word may issue: its major and minor codes name an instruction (R145 to R147). -/
structure State.Issues (s : State) (t : Nat) (c : Ctx) : Prop extends State.Fetches s t c where
  word : codeGood t (Mem.bytes (storeBase 3 + 8 * c.pc) 8 (s.tile t).mem) = true

/-- The word `f` issues and its guard holds (R144), so that it has its own effect. -/
structure State.Runs (s : State) (t : Nat) (f : BitVec 48) (c : Ctx) : Prop extends State.Issues s t c where
  guard : c.guarded f = true

/-- The state with the executing context of tile `t` replaced. -/
def State.withCtx (t : Nat) (c : Ctx) (s : State) : State := s.setCtx t (s.tile t).execSlot c

/-- The outcome of an instruction that retires: it is counted (17 R551 event 0x2). -/
def State.retired (t : Nat) (s : State) : Res := .next (s.tileEvent t 0x2 1)

/-- The outcome of an instruction that changed nothing but its context. -/
def State.ran (t : Nat) (c : Ctx) (s : State) : Res := (s.withCtx t c).retired t

/-- The outcome in which the instruction did nothing but write `v` to its register d. -/
def State.putReg (s : State) (t : Nat) (f : BitVec 48) (c : Ctx) (v : W64) : Res :=
  s.ran t ((c.after s.now s.up).setReg (Fmt.d f) v)

/-- A register write with the flags it raises in the sequencer (03 R106). -/
def State.putFlagged (s : State) (t : Nat) (f : BitVec 48) (c : Ctx) (v : W64) (fl : W32) : Res :=
  s.ran t (((c.after s.now s.up).setReg (Fmt.d f) v).raise 0 fl)

/-- The outcome in which the instruction did nothing but write `v` to its predicate d. -/
def State.putPred (s : State) (t : Nat) (f : BitVec 48) (c : Ctx) (v : Bool) : Res :=
  s.ran t ((c.after s.now s.up).setPred (Fmt.d f) v)

/-- A vector write with the flags it raises in the vector engine (03 R106). -/
def State.putVec (s : State) (t : Nat) (f : BitVec 48) (c : Ctx) (r : List W32 × W32) : Res :=
  s.ran t (((c.after s.now s.up).setVec (Fmt.d f) (ofLanes r.1)).raise 1 r.2)

/-- The lanes of a vector instruction: `op` on the enabled lanes of va, vb and vc, the old lane of vd elsewhere (R156). -/
def Ctx.lanes (c : Ctx) (f : BitVec 48) (op : W32 → W32 → W32 → W32 × W32) : List W32 × W32 :=
  let one := fun (j : Nat) =>
    if bit (c.mask (Fmt.k f)) j then
      op ((c.vec (Fmt.a f)).extractLsb' (32 * j) 32) ((c.vec (Fmt.b f)).extractLsb' (32 * j) 32) ((c.vec (Fmt.c f)).extractLsb' (32 * j) 32)
    else ((c.vec (Fmt.d f)).extractLsb' (32 * j) 32, 0)
  ((List.range 64).map (fun j => (one j).1), (List.range 64).foldl (fun fl j => fl ||| (one j).2) 0)

/-- A compare's mask: the condition on the enabled lanes, the old bit of kd elsewhere, and the flags it raises. -/
def Ctx.laneBits (c : Ctx) (f : BitVec 48) (op : W32 → W32 → Bool × W32) : W64 × W32 :=
  let one := fun (j : Nat) =>
    if bit (c.mask (Fmt.k f)) j then op ((c.vec (Fmt.a f)).extractLsb' (32 * j) 32) ((c.vec (Fmt.b f)).extractLsb' (32 * j) 32)
    else (bit (c.mask (Fmt.d f)) j, 0)
  (BitVec.ofNat 64 (((List.range 64).map (fun j => b2n (one j).1 * 2 ^ j)).sum), (List.range 64).foldl (fun fl j => fl ||| (one j).2) 0)

/-! ## Ranges of the stores -/

/-- The bytes that tile `t` holds from an offset of a store. -/
def State.bytesAt (t st off n : Nat) (s : State) : List Byte := Mem.bytes (storeBase st + off) n (s.tile t).mem

def Range.rd (st off n : Nat) : Range := { write := false, st := st, off := off, n := n }
def Range.wr (st off n : Nat) : Range := { write := true, st := st, off := off, n := n }

/-- Every range lies in the footprint and may be written where it is (05 R180, 10 R341); no scoreboard entry or span is in its way and
its banks are ON (02 R60; 05 R150, R174); and what is read has no erroneous word (02 R54). -/
def State.usable (t : Nat) (c : Ctx) (rs : List Range) (s : State) : Prop :=
  (∀ r ∈ rs, r.n = 0 ∨ (inFoot c.job.image r.st r.off r.n = true ∧ (r.write = true → c.mayWrite r.st r.off r.n = true))) ∧
  s.need t rs = .ok ∧
  ∀ r ∈ rs, r.write = false → r.n ≠ 0 → (s.tile t).upsets r.st r.off r.n = []

/-- Writes of the executing program one after the other: store, offset and bytes (02 R51). -/
def State.stores (t : Nat) (ws : List (Nat × Nat × List Byte)) (s : State) : State :=
  ws.foldl (fun s x => s.ownWrite t (s.tile t).execSlot x.1 x.2.1 x.2.2) s

/-! ## Commands of the host (10 R321 to R326) -/

/-- The last byte of `p` has arrived: it is counted, and recorded while a recording runs (10 R348; 12 R414; 17 R551). -/
def State.received (p : Packet) (s : State) : State := (s.event 0x280 0 1).witness 0x20 0 s.now (leBytes 1 0 ++ packetBytes p)

/-- The same, with the packet's turn come, so that it is checked (10 R322). -/
def State.arrived (p : Packet) (s : State) : State := (s.received p).setTwin { (s.received p).twin with mirrors := [(s.received p).arrival p] }

/-- The device takes commands (10 R322; 15 R494, R514) and none waits for its mirror: an arriving command is checked at once. -/
structure State.Free (s : State) : Prop where
  running : s.mute = false
  alone : s.twin.mirrors = []

/-- The packet `p` passes every check of 10 R322 and is accepted without a mirror (R321). -/
structure State.Takes (s : State) (p : Packet) : Prop extends State.Free s where
  header : (s.arrived p).headerGood p = true
  fresh : ((s.arrived p).queue p.q).tagHeld p.hdr.tag = none
  allowed : (s.arrived p).refusedBy ((s.received p).arrival p) = 0
  own : (s.arrived p).mirrorsFirst p = false

/-- What a queue holds of an accepted command: its sequence number, its acceptance stamp, its captured inputs, what admission reserved
at its arrival and the determinism mode (10 R321; 11 R353; 12 R392). -/
def State.outOf (p : Packet) (s : State) : Outst :=
  (s.received p).outstFor p ((s.received p).captureOf p) s.now ((s.received p).arrival p).pin

/-- The state in which an accepted command begins: its queue holds it, its tag is held, and the acceptance reply has been
given (10 R321, R324, R325). -/
def State.entered (p : Packet) (s : State) : State :=
  let v := s.queue p.q
  let u := (s.received p).setQueue p.q { v with nextSeq := v.nextSeq + 1, outst := v.outst ++ [s.outOf p], tags := v.tags ++ [(p.hdr.tag, v.nextSeq, s.now)] }
  (u.reply p Code.accepted v.nextSeq 0 s.now).event 0x1C0 0 1

/-- The accepted command with the bytes that a descriptor names in the place of inline data (10 R319). -/
def State.command (p : Packet) (s : State) : Packet := (s.outOf p).pkt

/-- What the acceptance reads from HBM: the inputs that the command names, and its image's header and section table (10 R321; 13 R431). -/
def State.accepting (p : Packet) (s : State) : List (Nat × List Byte) × State × Option W64 :=
  (s.entered p).readHbm ((s.received p).acceptReads p)

/-- What reading its entry and its captured inputs back from the device region gives: the state, and the address of a byte that is not
readable (14 R480). -/
def State.inputsRead (p : Packet) (s : State) : State × Option Nat := (s.accepting p).2.1.readEntry (s.outOf p)

/-- The state on which an accepted command has its effect. -/
def State.begun (p : Packet) (s : State) : State := (s.inputsRead p).1

/-- What the packet names is readable as it is accepted, and no self-test holds its effect back (14 R481). -/
structure State.Starts (s : State) (p : Packet) : Prop extends State.Takes s p where
  named : (s.accepting p).2.2 = none
  ready : (s.accepting p).2.1.deferred (s.outOf p) = none

/-- And its entry and its captured inputs are readable, so that it has its own effect. -/
structure State.Begins (s : State) (p : Packet) : Prop extends State.Starts s p where
  readable : (s.inputsRead p).2 = none

/-- The cause that the command enters into the change journal (10 R346). -/
def State.causeFor (p : Packet) (s : State) : Cause := (s.entered p).causeOf p.q (s.queue p.q).nextSeq

/-- The command of packet `p`, accepted in `s`, completes in `u` with a record and effects. -/
def State.ends (s : State) (p : Packet) (r : Record) (e : Effects) (u : State) : Res := .next (u.complete p.q (s.queue p.q).nextSeq r e)

/-- No burst of HBM and no line of the hearth cache carries an error, and no pseudo-channel has failed: every read succeeds. -/
def State.hbmClean (s : State) : Prop := s.hbm.upset = [] ∧ (∀ x ∈ s.hbm.cache, x.err = 0) ∧ ∀ e ∈ s.hbm.pcs, e.2.failed = false

/-! ## Frames -/

/-- From `s` to `u` nothing has changed but the executing context of tile `t`, which is now `k`, and the event counters: no byte of any
store or of HBM, no other context, no register or queue of any other unit. -/
structure State.OnlyCtx (s u : State) (t : Nat) (k : Ctx) : Prop where
  cur : (u.tile t).cur = some k
  mem : ∀ a, Mem.read a (u.tile t).mem = Mem.read a (s.tile t).mem
  partner : (u.tile t).slot (1 - (s.tile t).execSlot) = (s.tile t).slot (1 - (s.tile t).execSlot)
  tile : { u.tile t with evc := [], ctx0 := none, ctx1 := none } = { s.tile t with evc := [], ctx0 := none, ctx1 := none }
  others : ∀ p, p ≠ t → u.tile p = s.tile p
  rest : { u with tiles := [], evc := [] } = { s with tiles := [], evc := [] }

/-! ## The rules of the whole machine -/

/-- Every memory stands in its canonical form, and every command that waits names units that exist. -/
structure State.Inv (s : State) : Prop where
  hbm : Mem.wf s.hbm.mem = true
  tiles : ∀ e ∈ s.tiles, Mem.wf e.2.mem = true
  queue : ∀ c ∈ s.pending, c.wf

end Sys2Proof.Machine

namespace Sys2Proof

open Sys2Proof.Machine

/-- The instructions of a tile: the physical tile, bits [47:0] of the word, and whether the fields of the word keep the rules of its
format (05 R144, R147). Every other command is no instruction. -/
def Instr.form : Instr → Option (Nat × BitVec 48 × Bool)
  | .nop t f => some (t, f, goodI false false false f)
  | .jend t f => some (t, f, goodI false false false f)
  | .fpbar t f => some (t, f, goodI false false false f)
  | .idle t f => some (t, f, goodI false false false f)
  | .flgrd t f => some (t, f, goodI true false false f)
  | .flgclr t f => some (t, f, goodI false false true f)
  | .trapw t f => some (t, f, goodI false true false f)
  | .add t f => some (t, f, goodAlu f)
  | .sub t f => some (t, f, goodAlu f)
  | .and t f => some (t, f, goodAlu f)
  | .or t f => some (t, f, goodAlu f)
  | .xor t f => some (t, f, goodAlu f)
  | .shl t f => some (t, f, goodAlu f)
  | .shr t f => some (t, f, goodAlu f)
  | .sar t f => some (t, f, goodAlu f)
  | .mov t f => some (t, f, goodAlu1 f)
  | .adds t f => some (t, f, goodAlu f)
  | .subs t f => some (t, f, goodAlu f)
  | .addi t f => some (t, f, goodAlui f)
  | .andi t f => some (t, f, goodAlui f)
  | .ori t f => some (t, f, goodAlui f)
  | .xori t f => some (t, f, goodAlui f)
  | .shli t f => some (t, f, goodAlui f)
  | .shri t f => some (t, f, goodAlui f)
  | .sari t f => some (t, f, goodAlui f)
  | .movi t f => some (t, f, goodAlui f && decide (Fmt.a f = 0))
  | .movhi t f => some (t, f, goodAlui f)
  | .addsi t f => some (t, f, goodAlui f)
  | .mul t f => some (t, f, goodAlu f)
  | .mulh t f => some (t, f, goodAlu f)
  | .mulhu t f => some (t, f, goodAlu f)
  | .mulhsu t f => some (t, f, goodAlu f)
  | .div t f => some (t, f, goodAlu f)
  | .divu t f => some (t, f, goodAlu f)
  | .rem t f => some (t, f, goodAlu f)
  | .remu t f => some (t, f, goodAlu f)
  | .cmp t f => some (t, f, decide (Fmt.d f < 8 ∧ Fmt.c f = 0 ∧ fld f 4 20 = 0 ∧ fld f 0 3 ≤ 5))
  | .pand t f => some (t, f, goodPred f)
  | .por t f => some (t, f, goodPred f)
  | .pxor t f => some (t, f, goodPred f)
  | .pnot t f => some (t, f, goodPred f && decide (Fmt.b f = 0))
  | .br t f => some (t, f, goodB false true f)
  | .call t f => some (t, f, goodB true true f)
  | .ret t f => some (t, f, goodB true false f)
  | .loop t f => some (t, f, goodB true true f)
  | .ldW t f => some (t, f, goodM f)
  | .ldD t f => some (t, f, goodM f)
  | .stW t f => some (t, f, goodM f)
  | .stD t f => some (t, f, goodM f)
  | .tbreadS t f => some (t, f, goodI true false false f)
  | .tbreadL t f => some (t, f, goodI true false false f && decide (Fmt.d f ≠ 31))
  | .tbdl t f => some (t, f, goodI true false false f)
  | .tbwait t f => some (t, f, goodI false true false f)
  | .mbwr t f => some (t, f, goodI false true true f && decide (fld f 8 24 = 0))
  | .copen t f => some (t, f, goodI true true false f && decide (Fmt.d f ≠ 31))
  | .cclose t f => some (t, f, goodI false true false f)
  | .cfill t f => some (t, f, goodI true true false f)
  | .chead t f => some (t, f, goodI true true false f)
  | .clast t f => some (t, f, goodI true true false f)
  | .cpopn t f => some (t, f, goodI true true false f)
  | .cpushn t f => some (t, f, goodI true true false f)
  | .cwait t f => some (t, f, goodI false true true f)
  | .cdrain t f => some (t, f, goodI false true false f)
  | .vrand t f => some (t, f, goodV 0 [1] f)
  | .hsha t f => some (t, f, goodI false true false f && decide (Fmt.a f < 30))
  | .hwait t f => some (t, f, goodI false false false f)
  | .bankpwr t f => some (t, f, goodI false true true f && decide ((Fmt.imm f).toNat ≤ 2))
  | .bpwait t f => some (t, f, goodI false false false f)
  | .vadd t f => some (t, f, goodV 2 [0, 1] f)
  | .vsub t f => some (t, f, goodV 2 [0, 1] f)
  | .vand t f => some (t, f, goodV 2 [0, 1] f)
  | .vor t f => some (t, f, goodV 2 [0, 1] f)
  | .vxor t f => some (t, f, goodV 2 [0, 1] f)
  | .vshl t f => some (t, f, goodV 2 [0, 1] f)
  | .vshr t f => some (t, f, goodV 2 [0, 1] f)
  | .vsar t f => some (t, f, goodV 2 [0, 1] f)
  | .vadds t f => some (t, f, goodV 2 [0, 1] f)
  | .vsubs t f => some (t, f, goodV 2 [0, 1] f)
  | .vmulI t f => some (t, f, goodV 2 [0, 1] f)
  | .vmuls t f => some (t, f, goodV 2 [0, 1] f)
  | .vmin t f => some (t, f, goodV 2 [0, 1] f)
  | .vmax t f => some (t, f, goodV 2 [0, 1] f)
  | .vcmp t f => some (t, f, goodCmp [0, 1] f)
  | .vsel t f => some (t, f, goodV 2 [0, 1] f)
  | .vneg t f => some (t, f, goodV 1 [0, 1] f)
  | .vabs t f => some (t, f, goodV 1 [0, 1] f)
  | .vbcast t f => some (t, f, goodV 1 [0, 1] f)
  | .vaddF t f => some (t, f, goodV 2 [2] f)
  | .vsubF t f => some (t, f, goodV 2 [2] f)
  | .vmulF t f => some (t, f, goodV 2 [2] f)
  | .vmulaF t f => some (t, f, goodV 3 [2] f)
  | .vminF t f => some (t, f, goodV 2 [2] f)
  | .vmaxF t f => some (t, f, goodV 2 [2] f)
  | .vminnum t f => some (t, f, goodV 2 [2] f)
  | .vmaxnum t f => some (t, f, goodV 2 [2] f)
  | .vcmpF t f => some (t, f, goodCmp [2] f)
  | .vselF t f => some (t, f, goodV 2 [2] f)
  | .vnegF t f => some (t, f, goodV 1 [2] f)
  | .vabsF t f => some (t, f, goodV 1 [2] f)
  | .vcpysgn t f => some (t, f, goodV 2 [2] f)
  | .vcvt t minor f => some (t, f, cvtPair (fld minor 4 4) (fld minor 0 4) && goodV 1 [0] f)
  | .vld t f => some (t, f, goodVm f)
  | .vst t f => some (t, f, goodVm f)
  | .vmovg t f => some (t, f, decide (Fmt.lt f ≤ 2 ∧ Fmt.k f = 0 ∧ Fmt.b f = 0 ∧ Fmt.c f = 0 ∧ fld f 6 13 = 0))
  | .vqb t f => some (t, f, goodE f)
  | .vdqb t f => some (t, f, goodE f)
  | .vreq t f => some (t, f, goodE f)
  | .vclamp t f => some (t, f, goodV 3 [2] f)
  | .vredAddF t f => some (t, f, goodV 1 [2] f)
  | .vredAddI t f => some (t, f, goodV 1 [0] f)
  | .vredMaxF t f => some (t, f, goodV 1 [2] f)
  | .tstore t minor f => some (t, f, decide (minor.toNat ≤ 3 ∧ Fmt.c f = 0 ∧ Fmt.vmod f = 0 ∧ Fmt.lt f = 2))
  | .mmul t f => some (t, f, goodE f)
  | .mmulz t f => some (t, f, goodE f)
  | .fchol t f => some (t, f, goodE f)
  | .fldl t f => some (t, f, goodE f)
  | .fqr t f => some (t, f, goodE f)
  | .fgivens t f => some (t, f, goodE f)
  | .ftrsv t f => some (t, f, goodE f)
  | .fupdate t f => some (t, f, goodE f)
  | .dpush t f => some (t, f, decide (Fmt.d f % 4 = 0 ∧ Fmt.a f < 16 ∧ Fmt.emod f = 0))
  | .dwait t f => some (t, f, decide (Fmt.d f = 0 ∧ Fmt.a f < 16 ∧ Fmt.emod f = 0))
  | .dqcfg t f => some (t, f, decide (Fmt.d f = 0 ∧ Fmt.a f < 16 ∧ fld f 10 24 = 0 ∧ bit f 7 = false))
  | .cminit t f => some (t, f, goodE f)
  | .cmoffer t f => some (t, f, goodE f)
  | .cmstat t f => some (t, f, goodE f)
  | _ => none

/-- The packet of a command of the host, and of a write of a named field: its REG_WRITE. Every other command is an event. -/
def Instr.packet : Instr → Option Packet
  | .ack h pl => some (Machine.packet 0x0001 h pl)
  | .queueSet h pl => some (Machine.packet 0x0002 h pl)
  | .regRead h pl => some (Machine.packet 0x0004 h pl)
  | .regWrite h pl => some (Machine.packet 0x0005 h pl)
  | .setConeBudget h pl => some (Machine.packet 0x0010 h pl)
  | .setRung h pl => some (Machine.packet 0x0011 h pl)
  | .selfTest h pl => some (Machine.packet 0x0020 h pl)
  | .attest h pl => some (Machine.packet 0x0030 h pl)
  | .fwLoad h pl => some (Machine.packet 0x0031 h pl)
  | .attach h pl => some (Machine.packet 0x0040 h pl)
  | .detach h pl => some (Machine.packet 0x0041 h pl)
  | .roleSwap h pl => some (Machine.packet 0x0042 h pl)
  | .journalRead h pl => some (Machine.packet 0x0050 h pl)
  | .bindSlot h pl => some (Machine.packet 0x1001 h pl)
  | .unbind h pl => some (Machine.packet 0x1002 h pl)
  | .swapCoef h pl => some (Machine.packet 0x1003 h pl)
  | .bindStanding h pl => some (Machine.packet 0x1004 h pl)
  | .bindLane h pl => some (Machine.packet 0x1005 h pl)
  | .bindPwm h pl => some (Machine.packet 0x1006 h pl)
  | .bindLink h pl => some (Machine.packet 0x1007 h pl)
  | .launch h pl => some (Machine.packet 0x1008 h pl)
  | .solveQp h pl => some (Machine.packet 0x2001 h pl)
  | .solveLs h pl => some (Machine.packet 0x2002 h pl)
  | .estimate h pl => some (Machine.packet 0x2003 h pl)
  | .infer h pl => some (Machine.packet 0x2004 h pl)
  | .temper h pl => some (Machine.packet 0x2005 h pl)
  | .runProgram h pl => some (Machine.packet 0x2006 h pl)
  | .dataGet h pl => some (Machine.packet 0x3002 h pl)
  | .hearthPin h pl => some (Machine.packet 0x3003 h pl)
  | .witnessStart h pl => some (Machine.packet 0x4001 h pl)
  | .witnessStop h pl => some (Machine.packet 0x4002 h pl)
  | .replayStart h pl => some (Machine.packet 0x4003 h pl)
  | .timeMode h pl => some (Machine.packet 0x4004 h pl)
  | .dataPut h pl d => some { Machine.packet 0x3001 h pl with put := d }
  | .usbDbCtlAll h => some (regPacket h 0x40100 0x10000 0x10000)
  | .tileCtlBconfClear h t => some (regPacket h (0x1000010 + t * 0x10000) 1 1)
  | .leSlotModeAuto h e sl auto => some (regPacket h (0x200030 + e * 0x10000 + sl * 0x1000) (at64 (b2n auto) 0) 1)
  | .leSlotModeFbExit h e sl => some (regPacket h (0x200030 + e * 0x10000 + sl * 0x1000) 4 4)
  | .leSlotModeManFromLast h e sl => some (regPacket h (0x200030 + e * 0x10000 + sl * 0x1000) 2 3)
  | .leSlotManWrite h e sl v => some (regPacket h (0x200028 + e * 0x10000 + sl * 0x1000) v 0)
  | .leSlotFbWrite h e sl v => some (regPacket h (0x200020 + e * 0x10000 + sl * 0x1000) v 0)
  | .leSlotBankWrite h e sl bankB word v => some (regPacket h ((if bankB then 0x200400 else 0x200200) + e * 0x10000 + sl * 0x1000 + 8 * word) v 0)
  | .snsLaneSwap h n v => some (regPacket h (0x100028 + 0x40 * n) v 0)
  | .pwmTripSw h raise => some (regPacket h 0x111400 (at64 (b2n raise) 0) 1)
  | .tripLatchClear h n => some (regPacket h (0x111000 + 8 * n) (at64 1 63) (at64 1 63))
  | .ethCtlWrite h port v => some (regPacket h (0x50000 + port * 0x10000) v 0)
  | .tbServoWrite h v => some (regPacket h 0x20020 v 0)
  | .mgResetCtlWarm h => some (regPacket h 0x10 1 1)
  | .mgResetCtlHealthClear h => some (regPacket h 0x10 2 2)
  | .evcCtlFreeze h fz => some (regPacket h 0x400200 (at64 (b2n fz) 1) 2)
  | .evcCtlClearAll h => some (regPacket h 0x400200 1 1)
  | .evcSelWrite h none n v => some (regPacket h (0x400000 + 16 * n) v 0)
  | .evcSelWrite h (some t) n v => some (regPacket h (0x1000E00 + t * 0x10000 + 16 * n) v 0)
  | _ => none

end Sys2Proof
end

