-- ==== Sys2Proof/Certificates/Slice0/Obligations.lean ====
section
/-!
DEFINITION. What is stated of the machine for the provers: each name says what its statement states.
Instructions of a tile are stated under `State.Runs`, the conditions under which the spec gives the word its own effect; the outcome
is the whole next state, so what it does not name is unchanged.
-/

set_option Elab.async false

open Sys2Proof Sys2Proof.Machine

/-! ## Instructions of a tile: the sequencer (05 R147, R152 to R155, R163 to R168) -/

/-- ADD, SUB, AND, OR, XOR, SHL, SHR, SAR and MOV: d takes a op b as 64 bits, or in the .W form the operation on bits [31:0], sign-extended; a shift
counts by b[5:0], or b[4:0] in the .W form (R147, R152). No flag is raised (03 R116). ADDI, ANDI, ORI, XORI, SHLI, SHRI, SARI, MOVI and MOVHI: as the
register forms, with imm32 sign-extended, a shift by imm32[5:0] or imm32[4:0]; MOVHI puts imm32 above a[31:0], and its .W form, like every .W form,
answers bits [31:0] of that (R147, R152). ADDS, SUBS and ADDSI clamp the exact signed sum or difference to the limits of the form and raise SAT
exactly when they clamp (R147, R152; 03 R116). MUL answers the low half of the product; MULH, MULHU and MULHSU the exact high half, signed, unsigned,
or a signed and b unsigned; no flag (R147; 03 R116). -/
def Obligations.AluResults : Prop :=
  ((∀ (s : State) (t : Nat) (f : BitVec 48) (c : Ctx), s.Runs t f c → goodAlu f = true →
    let a := c.reg (Fmt.a f)
    let b := c.reg (Fmt.b f)
    let a' : W32 := a.setWidth 32
    let b' : W32 := b.setWidth 32
    let out := fun (d : W64) (w : W32) => s.putReg t f c (if bit f 0 then w.signExtend 64 else d)
    exec (.add t f) s = out (a + b) (a' + b') ∧
    exec (.sub t f) s = out (a - b) (a' - b') ∧
    exec (.and t f) s = out (a &&& b) (a' &&& b') ∧
    exec (.or t f) s = out (a ||| b) (a' ||| b') ∧
    exec (.xor t f) s = out (a ^^^ b) (a' ^^^ b') ∧
    exec (.shl t f) s = out (a <<< fld b 0 6) (a' <<< fld b 0 5) ∧
    exec (.shr t f) s = out (a >>> fld b 0 6) (a' >>> fld b 0 5) ∧
    exec (.sar t f) s = out (a.sshiftRight (fld b 0 6)) (a'.sshiftRight (fld b 0 5)) ∧
    (Fmt.b f = 0 → exec (.mov t f) s = out a a')) ∧
  (∀ (s : State) (t : Nat) (f : BitVec 48) (c : Ctx), s.Runs t f c → fld f 33 1 = 0 →
    let a := c.reg (Fmt.a f)
    let a' : W32 := a.setWidth 32
    let m' : W32 := f.setWidth 32
    let m : W64 := m'.signExtend 64
    let out := fun (d : W64) (w : W32) => s.putReg t f c (if bit f 32 then w.signExtend 64 else d)
    exec (.addi t f) s = out (a + m) (a' + m') ∧
    exec (.andi t f) s = out (a &&& m) (a' &&& m') ∧
    exec (.ori t f) s = out (a ||| m) (a' ||| m') ∧
    exec (.xori t f) s = out (a ^^^ m) (a' ^^^ m') ∧
    exec (.shli t f) s = out (a <<< fld m' 0 6) (a' <<< fld m' 0 5) ∧
    exec (.shri t f) s = out (a >>> fld m' 0 6) (a' >>> fld m' 0 5) ∧
    exec (.sari t f) s = out (a.sshiftRight (fld m' 0 6)) (a'.sshiftRight (fld m' 0 5)) ∧
    (Fmt.a f = 0 → exec (.movi t f) s = out m m') ∧
    exec (.movhi t f) s = out (m' ++ a' : BitVec 64) a')) ∧
  ((∀ (s : State) (t : Nat) (f : BitVec 48) (c : Ctx), s.Runs t f c →
    let a := c.reg (Fmt.a f)
    let b := c.reg (Fmt.b f)
    let m : W64 := (f.setWidth 32 : W32).signExtend 64
    let sx := fun (w : Bool) (x : W64) => if w then (x.setWidth 32 : W32).toInt else x.toInt
    let lim := fun (w : Bool) => if w then (2 ^ 31 : Int) else 2 ^ 63
    let out := fun (w : Bool) (x : Int) =>
      s.putFlagged t f c (BitVec.ofInt 64 (max (-(lim w)) (min (lim w - 1) x))) (if -(lim w) ≤ x ∧ x < lim w then 0 else Fl.sat)
    (goodAlu f = true → exec (.adds t f) s = out (bit f 0) (sx (bit f 0) a + sx (bit f 0) b)) ∧
    (goodAlu f = true → exec (.subs t f) s = out (bit f 0) (sx (bit f 0) a - sx (bit f 0) b)) ∧
    (fld f 33 1 = 0 → exec (.addsi t f) s = out (bit f 32) (sx (bit f 32) a + sx (bit f 32) m))) ∧
  (∀ (s : State) (t : Nat) (f : BitVec 48) (c : Ctx), s.Runs t f c → goodAlu f = true →
    let a := c.reg (Fmt.a f)
    let b := c.reg (Fmt.b f)
    let a' : W32 := a.setWidth 32
    let b' : W32 := b.setWidth 32
    let out := fun (d : W64) (w : W32) => s.putReg t f c (if bit f 0 then w.signExtend 64 else d)
    exec (.mul t f) s = out (a * b) (a' * b') ∧
    exec (.mulh t f) s = out (BitVec.ofInt 64 (a.toInt * b.toInt / 2 ^ 64)) (BitVec.ofInt 32 (a'.toInt * b'.toInt / 2 ^ 32)) ∧
    exec (.mulhu t f) s = out (BitVec.ofNat 64 (a.toNat * b.toNat / 2 ^ 64)) (BitVec.ofNat 32 (a'.toNat * b'.toNat / 2 ^ 32)) ∧
    exec (.mulhsu t f) s = out (BitVec.ofInt 64 (a.toInt * b.toNat / 2 ^ 64)) (BitVec.ofInt 32 (a'.toInt * b'.toNat / 2 ^ 32))))

/-- DIV, DIVU, REM and REMU of R117: the quotient truncates toward zero, the remainder takes the sign of the dividend; division by zero answers MAX or
MIN by the dividend's sign (all ones unsigned), leaves the dividend as the remainder and raises DZ; MIN / −1 clamps to MAX with SAT, its remainder
being 0 with no flag. A flag is all that division by zero does: a trap pends only where the trap word has its bit. -/
def Obligations.DivisionResults : Prop :=
  ∀ (s : State) (t : Nat) (f : BitVec 48) (c : Ctx), s.Runs t f c → goodAlu f = true →
    let w := bit f 0
    let sx := fun (x : W64) => if w then (x.setWidth 32 : W32).toInt else x.toInt
    let ux := fun (x : W64) => if w then (x.setWidth 32 : W32).toNat else x.toNat
    let a := sx (c.reg (Fmt.a f))
    let b := sx (c.reg (Fmt.b f))
    let x := ux (c.reg (Fmt.a f))
    let y := ux (c.reg (Fmt.b f))
    let top : Int := if w then 2 ^ 31 - 1 else 2 ^ 63 - 1
    let ext := fun (n : Nat) => if w then (BitVec.ofNat 32 n).signExtend 64 else BitVec.ofNat 64 n
    exec (.div t f) s = (
      if b = 0 then s.putFlagged t f c (BitVec.ofInt 64 (if a < 0 then -top - 1 else top)) Fl.dz
      else if a = -top - 1 ∧ b = -1 then s.putFlagged t f c (BitVec.ofInt 64 top) Fl.sat
      else s.putFlagged t f c (BitVec.ofInt 64 (a.tdiv b)) 0) ∧
    exec (.rem t f) s = (
      if b = 0 then s.putFlagged t f c (BitVec.ofInt 64 a) Fl.dz
      else s.putFlagged t f c (BitVec.ofInt 64 (a.tmod b)) 0) ∧
    exec (.divu t f) s = (
      if y = 0 then s.putFlagged t f c (BitVec.allOnes 64) Fl.dz
      else s.putFlagged t f c (ext (x / y)) 0) ∧
    exec (.remu t f) s = (
      if y = 0 then s.putFlagged t f c (ext x) Fl.dz
      else s.putFlagged t f c (ext (x % y)) 0) ∧
    (∀ (u : Nat) (fl : W32) (k : Ctx), (k.raise u fl).trap = (k.trap || decide (fl &&& Fl.arith &&& k.trapW ≠ 0)) ∧
      (k.raise u fl).flagW = k.flagW ||| (fl &&& Fl.arith))

/-- CMP writes its condition, over 64 bits or bits [31:0], to the predicate d; PAND, POR, PXOR and PNOT combine predicates (R147, R152). BR, CALL, RET
and LOOP: offsets count from the branch itself, modulo the 32,768 words of the I-store; CALL leaves the index of the next instruction in ga, RET goes
to ga; LOOP takes one from ga and branches while ga then reads other than zero. A taken branch is counted as event 0x6 (R147, R152; 17 R551). -/
def Obligations.PredicateAndBranchResults : Prop :=
  (∀ (s : State) (t : Nat) (f : BitVec 48) (c : Ctx), s.Runs t f c →
    let w := bit f 3
    let a := c.reg (Fmt.a f)
    let b := c.reg (Fmt.b f)
    let lo := fun (x : W64) => (x.setWidth 32 : W32)
    let lt : Bool := if w then (lo a).slt (lo b) else a.slt b
    let ltu : Bool := if w then (lo a).ult (lo b) else a.ult b
    let eq : Bool := if w then lo a == lo b else a == b
    (Fmt.d f < 8 → Fmt.c f = 0 → fld f 4 20 = 0 → fld f 0 3 ≤ 5 →
      exec (.cmp t f) s = s.putPred t f c (match fld f 0 3 with
        | 0 => eq
        | 1 => !eq
        | 2 => lt
        | 3 => lt || eq
        | 4 => ltu
        | _ => ltu || eq)) ∧
    (goodPred f = true →
      let p := c.pred (Fmt.a f)
      let q := c.pred (Fmt.b f)
      exec (.pand t f) s = s.putPred t f c (p && q) ∧
      exec (.por t f) s = s.putPred t f c (p || q) ∧
      exec (.pxor t f) s = s.putPred t f c (xor p q) ∧
      (Fmt.b f = 0 → exec (.pnot t f) s = s.putPred t f c (!p)))) ∧
  (∀ (s : State) (t : Nat) (f : BitVec 48) (c : Ctx), s.Runs t f c → c.pc < 32768 → fld f 32 7 = 0 →
    let k := c.after s.now s.up
    let go := fun (k : Ctx) (n : Nat) => ((s.withCtx t { k with pc := n }).tileEvent t 0x6 1).retired t
    let target := ((c.pc : Int) + (f.setWidth 32 : W32).toInt).emod 32768 |>.toNat
    let down := k.setReg (Fmt.d f) (c.reg (Fmt.d f) - 1)
    (Fmt.d f = 0 → exec (.br t f) s = go k target) ∧
    exec (.call t f) s = go (k.setReg (Fmt.d f) (BitVec.ofNat 64 ((c.pc + 1) % 32768))) target ∧
    (Fmt.imm f = 0 → exec (.ret t f) s = go k ((c.reg (Fmt.d f)).toNat % 32768)) ∧
    exec (.loop t f) s = if down.reg (Fmt.d f) ≠ 0 then go down target else s.ran t down)

/-- LD.W and LD.D read 4 or 8 bytes at base plus offset, little-endian, naturally aligned, from the A- or P-store; .W sign-extends (R147, R152, R155).
ST.W and ST.D write the low 4 or all 8 bytes of d at base plus offset. Every byte of the tile's stores outside them reads as before, and so do the
other tiles and HBM; no register changes (R147, R152, R155). -/
def Obligations.LoadAndStoreResults : Prop :=
  (∀ (s : State) (t : Nat) (f : BitVec 48) (c : Ctx), s.Runs t f c → goodM f = true →
    let st := Fmt.store f
    let a := (c.reg (Fmt.a f) + (f.setWidth 22 : BitVec 22).signExtend 64).toNat
    (a % 4 = 0 → s.usable t c [Range.rd st a 4] →
      exec (.ldW t f) s = s.putReg t f c ((BitVec.ofNat 32 (leNat (s.bytesAt t st a 4))).signExtend 64)) ∧
    (a % 8 = 0 → s.usable t c [Range.rd st a 8] →
      exec (.ldD t f) s = s.putReg t f c (BitVec.ofNat 64 (leNat (s.bytesAt t st a 8))))) ∧
  (∀ (s : State) (t : Nat) (f : BitVec 48) (c : Ctx) (n : Nat) (i : Instr), s.Runs t f c → goodM f = true →
    (n = 4 ∧ i = .stW t f ∨ n = 8 ∧ i = .stD t f) →
    let st := Fmt.store f
    let a := (c.reg (Fmt.a f) + (f.setWidth 22 : BitVec 22).signExtend 64).toNat
    let bs := leBytes n (c.reg (Fmt.d f)).toNat
    a % n = 0 → s.usable t c [Range.wr st a n] →
      ∃ u, exec i s = .next u ∧
        u = ((s.withCtx t (c.after s.now s.up)).stores t [(st, a, bs)]).tileEvent t 0x2 1 ∧
        (∀ j, j < n → Mem.read (storeBase st + a + j) (u.tile t).mem = bs.getD j 0) ∧
        (∀ x, ¬ (storeBase st + a ≤ x ∧ x < storeBase st + a + n) → Mem.read x (u.tile t).mem = Mem.read x (s.tile t).mem) ∧
        (∀ p, p ≠ t → u.tile p = s.tile p) ∧ u.hbm = s.hbm ∧
        ∃ k, (u.tile t).cur = some k ∧ k.g = c.g ∧ k.p = c.p ∧ k.v = c.v ∧ k.k = c.k ∧ k.flagW = c.flagW ∧ k.coils = c.coils)

/-- TBREAD reads the live count in a THROUGHPUT job and the reference count in a STRICT one: the boundary of a standing job, the acceptance of an
on-demand job (R166; 01 R31); TBDL the deadline as a SHORT stamp, or all ones without one; TBWAIT holds until the target does not lie ahead (R167). -/
def Obligations.TimeReadResults : Prop :=
  ∀ (s : State) (t : Nat) (f : BitVec 48) (c : Ctx), s.Runs t f c →
    let n := if c.job.tput then s.now else if c.job.binding.isSome then c.job.boundary else c.job.accept
    let k := c.after s.now s.up
    (goodI true false false f = true →
      exec (.tbreadS t f) s = s.putReg t f c (BitVec.ofNat 64 (n % 2 ^ 32)) ∧
      exec (.tbdl t f) s = s.putReg t f c (match c.job.deadline with
        | some d => BitVec.ofNat 64 (d % 2 ^ 32)
        | none => 0xFFFFFFFF) ∧
      (Fmt.d f ≠ 31 → exec (.tbreadL t f) s =
        s.ran t ((k.setReg (Fmt.d f) (BitVec.ofNat 64 (n / 1000000000))).setReg (Fmt.d f + 1) (BitVec.ofNat 64 (n % 1000000000))))) ∧
    (goodI false true false f = true → (short s.now - (c.reg (Fmt.a f)).setWidth 32).toNat < 2 ^ 31 →
      exec (.tbwait t f) s = s.ran t k)

/-- NOP, FPBAR without a pending trap, IDLE on a quiet tile, FLGRD, FLGCLR and TRAPW: FLGRD reads the flag word, FLGCLR clears the bits of imm32 in
it, TRAPW writes the trap word from a[31:0], and none of them touches the job accumulator (R163, R165). HWAIT goes on, and BPWAIT where no transition that the
context requested is pending (R172, R173), and DWAIT where its queue is empty (R165). -/
def Obligations.SystemResults : Prop :=
  ∀ (s : State) (t : Nat) (f : BitVec 48) (c : Ctx), s.Runs t f c →
    let k := c.after s.now s.up
    let T := s.tile t
    (goodI false false false f = true →
      exec (.nop t f) s = s.ran t k ∧
      exec (.hwait t f) s = s.ran t k ∧
      (c.trap = false → exec (.fpbar t f) s = s.ran t k) ∧
      (T.dma.all (fun e => e.2.descs.isEmpty) = true → T.sb.all (fun e => !e.2.valid) = true → exec (.idle t f) s = s.ran t k) ∧
      ((∀ r ∈ T.bankReq, r.by_ ≠ some T.execSlot) → exec (.bpwait t f) s = s.ran t k)) ∧
    (goodI true false false f = true → exec (.flgrd t f) s = s.putReg t f c (c.flagW.setWidth 64)) ∧
    (goodI false false true f = true → exec (.flgclr t f) s = s.ran t { k with flagW := c.flagW &&& ~~~(f.setWidth 32 : W32) }) ∧
    (goodI false true false f = true → exec (.trapw t f) s = s.ran t { k with trapW := (c.reg (Fmt.a f)).setWidth 32 }) ∧
    (Fmt.d f = 0 → Fmt.a f < 16 → Fmt.emod f = 0 → (Tbl.get { } (Fmt.a f) T.dma).descs = [] → exec (.dwait t f) s = s.ran t k)

/-! ## Mailboxes, coils, bank power and DMA (05 R161, R168 to R171, R173; 02 R63 to R68) -/

/-- MBWR stages a[31:0] for a mailbox that the job's binding names and the commit map does not; a later one replaces it. The mailbox itself changes at
the publish count only (R168, R169). -/
def Obligations.MailboxStaging : Prop :=
  ∀ (s : State) (t : Nat) (f : BitVec 48) (c : Ctx), s.Runs t f c → goodI false true true f = true → fld f 8 24 = 0 →
    let m := fld f 0 8
    let k := c.after s.now s.up
    (∃ b v, c.job.binding = some b ∧ s.binding b = some v ∧ m ∈ v.mailboxes) →
    (∀ u, (s.tile t).cu = some u → u.owner = (s.tile t).execSlot → m ∉ u.mailboxes) →
    exec (.mbwr t f) s = s.ran t { k with staged := Tbl.insert m ((c.reg (Fmt.a f)).setWidth 32) c.staged,
                                          mbwr := if m ∈ c.mbwr then c.mbwr else c.mbwr ++ [m] } ∧
    Tbl.get 0 m (Tbl.insert m ((c.reg (Fmt.a f)).setWidth 32) c.staged) = (c.reg (Fmt.a f)).setWidth 32 ∧
    ∀ u, exec (.mbwr t f) s = .next u → u.mailboxes = s.mailboxes

/-- Coil pointers: empty and full, the fill level, and a pointer that reaches the size returning to zero with its lap bit toggled (02 R65); CFILL
reads that fill level into d (05 R161). -/
def Obligations.CoilPointers : Prop :=
  (∀ k : Coil, k.empty = true ↔ k.head = k.tail ∧ k.headLap = k.tailLap) ∧
  (∀ k : Coil, k.full = true ↔ k.head = k.tail ∧ k.headLap ≠ k.tailLap) ∧
  (∀ k : Coil, 0 < k.elem → k.head < k.size → k.tail < k.size →
    k.fill = if k.full = true then k.size / k.elem else (((k.tail : Int) - k.head) % k.size).toNat / k.elem) ∧
  (∀ k : Coil, k.pop.head = (if k.head + k.elem = k.size then 0 else k.head + k.elem) ∧
    k.pop.headLap = (if k.head + k.elem = k.size then !k.headLap else k.headLap) ∧ k.pop.tail = k.tail ∧ k.pop.tailLap = k.tailLap) ∧
  (∀ k : Coil, k.pushed.tail = (if k.tail + k.elem = k.size then 0 else k.tail + k.elem) ∧
    k.pushed.tailLap = (if k.tail + k.elem = k.size then !k.tailLap else k.tailLap) ∧ k.pushed.head = k.head ∧ k.pushed.headLap = k.headLap) ∧
  ∀ (s : State) (t : Nat) (f : BitVec 48) (c : Ctx), s.Runs t f c → goodI true true false f = true →
    exec (.cfill t f) s = s.putReg t f c (BitVec.ofNat 64 (c.coil (Fmt.a f)).fill)

/-- COPEN opens a closed coil inside one store and the footprint, apart from every other open coil, with its pointers and counters zero (02 R63, R64;
05 R161). CHEAD and CLAST answer store offsets of a coil that is not empty; CPOPN advances the head by min(ga, fill); CDRAIN empties the coil; CWAIT
goes on at the fill level and otherwise blocks the context; CCLOSE closes the coil once the port holds nothing for it; CPUSHN advances the tail of an
open coil that is not a receive coil, one element at a time under the full policy (02 R66, R68, R71; 05 R161, R162). -/
def Obligations.CoilResults : Prop :=
  (∀ (s : State) (t : Nat) (f : BitVec 48) (c : Ctx), s.Runs t f c → goodI true true false f = true → Fmt.d f ≠ 31 →
    let base := c.reg (Fmt.d f)
    let cfg := c.reg (Fmt.d f + 1)
    let k : Coil := { store := fld base 22 2, base := fld base 0 22, size := fld base 32 22, head := 0, headLap := false, tail := 0, tailLap := false,
                      accept := BitVec.ofNat 5 (fld cfg 20 5), policy := BitVec.ofNat 2 (fld cfg 15 2), receive := bit cfg 14, isOpen := true,
                      elem := fld cfg 0 13, refused := 0, overrun := 0 }
    fld base 54 10 = 0 → fld base 24 8 = 0 → fld cfg 25 39 = 0 → fld cfg 17 3 = 0 → k.store ≠ 3 → k.policy ≠ 3 →
    4 ≤ k.elem → k.elem ≤ 4096 → k.elem % 4 = 0 → 64 ≤ k.size → k.size % 64 = 0 → k.size % k.elem = 0 → k.base % 64 = 0 →
    inFoot c.job.image k.store k.base k.size = true → (c.coil (Fmt.a f)).isOpen = false →
    (∀ w x e, (s.tile t).slot w = some x → e ∈ x.coils → e.2.isOpen = true →
      ¬ (e.2.store = k.store ∧ e.2.base < k.base + k.size ∧ k.base < e.2.base + e.2.size)) →
    exec (.copen t f) s = s.ran t ((c.after s.now s.up).setCoil (Fmt.a f) k)) ∧
  (∀ (s : State) (t : Nat) (f : BitVec 48) (c : Ctx), s.Runs t f c →
    let n := Fmt.a f
    let k := c.coil n
    let c' := c.after s.now s.up
    let m := (c.reg (Fmt.d f)).toNat
    (goodI true true false f = true → k.empty = false →
      exec (.chead t f) s = s.putReg t f c (BitVec.ofNat 64 (k.base + k.head)) ∧
      exec (.clast t f) s = s.putReg t f c (BitVec.ofNat 64 (k.base + (if k.tail = 0 then k.size - k.elem else k.tail - k.elem)))) ∧
    (goodI true true false f = true →
      exec (.cpopn t f) s = s.ran t (c'.setCoil n (Nat.repeat Coil.pop (min m k.fill) k))) ∧
    (goodI false true false f = true →
      exec (.cdrain t f) s = s.ran t (c'.setCoil n { k with head := k.tail, headLap := k.tailLap })) ∧
    (goodI false true true f = true →
      exec (.cwait t f) s = if (f.setWidth 32 : W32).toNat ≤ k.fill then s.ran t c'
        else s.ran t { c' with wait := some (.coil n (f.setWidth 32 : W32).toNat), waitSince := s.now }) ∧
    (goodI false true false f = true →
      let d := (s.withCtx t c').rxDrain t 16
      (d.tile t).rx.all (fun e => e.coil ≠ n) = true →
      exec (.cclose t f) s = (d.updCtx t (s.tile t).execSlot (fun x => x.setCoil n { x.coil n with isOpen := false })).retired t) ∧
    (goodI true true false f = true → k.isOpen = true → k.receive = false → (k.pushN (m - c.progress)).2 = 0 →
      let k' := (k.pushN (m - c.progress)).1
      let u := s.withCtx t { c'.setCoil n k' with progress := 0 }
      let u := if k'.overrun ≠ k.overrun then u.tileEvent t 0x22 (k'.overrun - k.overrun).toNat else u
      exec (.cpushn t f) s = (u.updTile t Tile.wake).retired t))

/-- BANKPWR requests the state that imm32 names of every bank in ga[39:0], in bank order; RETAIN and OFF only of banks wholly inside the footprint
without an open coil or a persistent region (05 R173, R174). DPUSH puts the descriptor of ga to ga+3 at the end of queue q, with the queue's
attributes and the next number, when the queue has room and no span of another queue conflicts (02 R45, R46, R48; 05 R150); DQCFG sets the attributes
of an empty queue (05 R171; 13 R441). -/
def Obligations.BankAndDmaCommands : Prop :=
  (∀ (s : State) (t : Nat) (f : BitVec 48) (c : Ctx), s.Runs t f c → goodI false true true f = true → (f.setWidth 32 : W32).toNat ≤ 2 →
    let m := c.reg (Fmt.a f)
    let bs := (List.range 40).filter (fun b => m.getLsbD b)
    let g : BankSt := if (f.setWidth 32 : W32) = 0 then .off else if (f.setWidth 32 : W32) = 1 then .retain else .on
    m.toNat < 2 ^ 40 → (g ≠ .on → ∀ b ∈ bs, s.mayTakeOff t c b = true) →
    exec (.bankpwr t f) s =
      ((s.withCtx t (c.after s.now s.up)).updTile t (fun T => bs.foldl (fun T b => T.requestBank b g (some (s.tile t).execSlot)) T)).retired t) ∧
  (∀ (s : State) (t : Nat) (f : BitVec 48) (c : Ctx), s.Runs t f c → Fmt.a f < 16 →
    let q := Fmt.a f
    let g := Fmt.d f
    let T := s.tile t
    let v := Tbl.get { } q T.dma
    let k := c.after s.now s.up
    (g % 4 = 0 → Fmt.emod f = 0 →
      let d : Desc := { w0 := c.reg g, w1 := c.reg (g + 1), w2 := c.reg (g + 2), w3 := c.reg (g + 3), attr := v.attr, no := T.dmaNo,
                        active := false, slot := T.execSlot, row := 0, entry := v.count % 16 }
      s.descGood t c d = true → v.descs.length < 16 →
      (∀ r ∈ descRanges t T d, T.spanBusy t (some q) r.1 r.2.1 r.2.2.1 r.2.2.2 = false) →
      (∀ r ∈ descHbm t d, T.hbmBusy t q r.1 r.2.1 r.2.2 = false) →
      exec (.dpush t f) s =
        (((s.withCtx t k).updTile t (fun T => Tile.activateAll t
          { T with dmaNo := T.dmaNo + 1, dma := Tbl.set { } q { v with descs := v.descs ++ [d], count := v.count + 1 } T.dma })).requests t c.job d).retired t) ∧
    (g = 0 → fld f 10 24 = 0 → bit f 7 = false → v.descs = [] →
      (bit f 1 = true → (T.dma.filter (fun e => decide (e.1 ≠ q) && bit e.2.attr 1)).length < 8) →
      (bit f 8 = true → c.job.tput = true ∧ bit c.job.image.flags 3 = true) →
      exec (.dqcfg t f) s =
        ((s.withCtx t k).updTile t (fun T => { T with dma := Tbl.set { } q { v with attr := BitVec.ofNat 10 (fld f 0 10) } T.dma })).retired t))

/-! ## The vector engine (05 R147, R151, R156 to R158, R170; 03 R91, R102 to R104) -/

/-- Wrapping and saturating integer lanes: VADD to VSAR, VADDS, VSUBS, VMUL.I, VMULS, VMIN, VMAX, VNEG, VABS and VBCAST on the enabled lanes; lane
type 0 is signed, 1 unsigned; only the saturating forms raise SAT (R147, R156; 03 R116). -/
def Obligations.IntegerLaneResults : Prop :=
  ∀ (s : State) (t : Nat) (f : BitVec 48) (c : Ctx), s.Runs t f c → Fmt.lt f ≤ 1 → Fmt.vmod f = 0 → Fmt.c f = 0 →
    let u := decide (Fmt.lt f = 1)
    let out := fun (op : W32 → W32 → W32) => s.putVec t f c (c.lanes f (fun a b _ => (op a b, 0)))
    let num := fun (x : W32) => if u then (x.toNat : Int) else x.toInt
    let lo : Int := if u then 0 else -(2 ^ 31)
    let hi : Int := if u then 2 ^ 32 - 1 else 2 ^ 31 - 1
    let sat := fun (op : Int → Int → Int) => s.putVec t f c (c.lanes f (fun a b _ =>
      (BitVec.ofInt 32 (max lo (min hi (op (num a) (num b)))), if lo ≤ op (num a) (num b) ∧ op (num a) (num b) ≤ hi then 0 else Fl.sat)))
    exec (.vadd t f) s = out (· + ·) ∧
    exec (.vsub t f) s = out (· - ·) ∧
    exec (.vand t f) s = out (· &&& ·) ∧
    exec (.vor t f) s = out (· ||| ·) ∧
    exec (.vxor t f) s = out (· ^^^ ·) ∧
    exec (.vshl t f) s = out (fun a b => a <<< fld b 0 5) ∧
    exec (.vshr t f) s = out (fun a b => a >>> fld b 0 5) ∧
    exec (.vsar t f) s = out (fun a b => a.sshiftRight (fld b 0 5)) ∧
    exec (.vmulI t f) s = out (· * ·) ∧
    exec (.vmin t f) s = out (fun a b => if num a ≤ num b then a else b) ∧
    exec (.vmax t f) s = out (fun a b => if num a ≤ num b then b else a) ∧
    exec (.vadds t f) s = sat (· + ·) ∧
    exec (.vsubs t f) s = sat (· - ·) ∧
    exec (.vmuls t f) s = sat (· * ·) ∧
    (Fmt.b f = 0 →
      exec (.vneg t f) s = out (fun a _ => -a) ∧
      exec (.vabs t f) s = out (fun a _ => if u || decide (0 ≤ a.toInt) then a else -a) ∧
      exec (.vbcast t f) s = out (fun _ _ => (c.reg (Fmt.a f)).setWidth 32))

/-- VSEL and VSEL.F take each lane from va where k is 1 and from vb elsewhere, every lane being written (R147, R156). VCMP writes the condition of
every enabled lane to mask kd, signed or unsigned by the lane type; VCMP.F compares as R103 says, with IV where an ordered condition meets a NaN; a
write to k0 is ignored (05 R141, R147, R156). -/
def Obligations.LaneSelectionAndCompares : Prop :=
  (∀ (s : State) (t : Nat) (f : BitVec 48) (c : Ctx) (i : Instr), s.Runs t f c → Fmt.vmod f = 0 → Fmt.c f = 0 →
    (i = .vsel t f ∧ Fmt.lt f ≤ 1 ∨ i = .vselF t f ∧ Fmt.lt f = 2) →
    ∃ v, exec i s = s.ran t ((c.after s.now s.up).setVec (Fmt.d f) v) ∧
      ∀ j, j < 64 → v.extractLsb' (32 * j) 32 =
        if bit (c.mask (Fmt.k f)) j then (c.vec (Fmt.a f)).extractLsb' (32 * j) 32 else (c.vec (Fmt.b f)).extractLsb' (32 * j) 32) ∧
  (∀ (s : State) (t : Nat) (f : BitVec 48) (c : Ctx), s.Runs t f c → Fmt.d f < 8 → Fmt.c f = 0 → fld f 3 16 = 0 → fld f 0 3 ≤ 5 →
    let num := fun (x : W32) => if Fmt.lt f = 1 then (x.toNat : Int) else x.toInt
    let out := fun (r : W64 × W32) => s.ran t (((c.after s.now s.up).setMask (Fmt.d f) r.1).raise 1 r.2)
    (Fmt.lt f ≤ 1 → exec (.vcmp t f) s = out (c.laneBits f (fun a b => (match fld f 0 3 with
      | 0 => decide (num a = num b)
      | 1 => decide (num a ≠ num b)
      | 2 => decide (num a < num b)
      | 3 => decide (num a ≤ num b)
      | 4 => decide (num a > num b)
      | _ => decide (num a ≥ num b), 0)))) ∧
    (Fmt.lt f = 2 → exec (.vcmpF t f) s = out (c.laneBits f (fcmp (fld f 0 3)))))

/-- Floating-point lanes: VADD.F and VSUB.F rounded to nearest even, VMUL.F truncated, VMULA.F the sum of the truncated product and vc, VMIN, VMAX,
VMINNUM and VMAXNUM by R104, VCLAMP as min(max(va, vlo), vhi); VNEG.F, VABS.F and VCPYSGN act on the sign bit only and raise no flag (05 R147, R156,
R158; 03 R91, R102, R104). -/
def Obligations.FloatLaneResults : Prop :=
  ∀ (s : State) (t : Nat) (f : BitVec 48) (c : Ctx), s.Runs t f c → Fmt.lt f = 2 → Fmt.vmod f = 0 →
    let out := fun (op : W32 → W32 → W32 → W32 × W32) => s.putVec t f c (c.lanes f op)
    exec (.vmulaF t f) s = out (fun a b x => ((fadd (fmulT a b).1 x).1, (fmulT a b).2 ||| (fadd (fmulT a b).1 x).2)) ∧
    exec (.vclamp t f) s = out fclamp ∧
    (Fmt.c f = 0 →
      exec (.vaddF t f) s = out (fun a b _ => fadd a b) ∧
      exec (.vsubF t f) s = out (fun a b _ => fsub a b) ∧
      exec (.vmulF t f) s = out (fun a b _ => fmulT a b) ∧
      exec (.vminF t f) s = out (fun a b _ => fminmax false a b) ∧
      exec (.vmaxF t f) s = out (fun a b _ => fminmax true a b) ∧
      exec (.vminnum t f) s = out (fun a b _ => fminmaxnum false a b) ∧
      exec (.vmaxnum t f) s = out (fun a b _ => fminmaxnum true a b) ∧
      exec (.vcpysgn t f) s = out (fun a b _ => (BitVec.ofBool (b.getLsbD 31) ++ a.extractLsb' 0 31, 0)) ∧
      (Fmt.b f = 0 →
        exec (.vnegF t f) s = out (fun a _ _ => (BitVec.ofBool (!a.getLsbD 31) ++ a.extractLsb' 0 31, 0)) ∧
        exec (.vabsF t f) s = out (fun a _ _ => (BitVec.ofBool false ++ a.extractLsb' 0 31, 0))))

/-- VCVT converts element i of va for every enabled lane i; element slots of disabled lanes keep their contents, and above element 63 of a narrow
target vd reads zero (05 R147; 03 R81, R113 to R115). -/
def Obligations.ConvertResults : Prop :=
  ∀ (s : State) (t : Nat) (minor : Byte) (f : BitVec 48) (c : Ctx), s.Runs t f c →
    let src := minor.toNat / 16
    let dst := minor.toNat % 16
    cvtPair src dst = true → goodV 1 [0] f = true →
    let ws := fmtBits src
    let wd := fmtBits dst
    let x := c.vec (Fmt.a f)
    let old := c.vec (Fmt.d f)
    ∃ v fl, exec (.vcvt t minor f) s = s.ran t (((c.after s.now s.up).setVec (Fmt.d f) v).raise 1 fl) ∧
      (∀ j, j < 64 → fld v (wd * j) wd = if bit (c.mask (Fmt.k f)) j then (cvt src dst (fld x (ws * j) ws)).1 % 2 ^ wd else fld old (wd * j) wd) ∧
      (∀ n, 64 * wd ≤ n → v.getLsbD n = false) ∧
      fl = (List.range 64).foldl (fun a j => a ||| (if bit (c.mask (Fmt.k f)) j then (cvt src dst (fld x (ws * j) ws)).2 else 0)) 0

/-- VLD loads the enabled lanes from 256 bytes of a store, or from the head element of a coil, which it pops; VMOVG answers one lane, sign-extended
for lane type 0 and zero-extended for 1 and 2 (05 R147, R151, R156, R159). VST writes 256 bytes to a store, or the words of the enabled lanes where
some lane is disabled; with a coil it writes the element at the tail and then advances the tail, and a full coil follows its policy (05 R156, R159; 02
R66, R68). -/
def Obligations.VectorLoadsAndStores : Prop :=
  (∀ (s : State) (t : Nat) (f : BitVec 48) (c : Ctx), s.Runs t f c →
    let m := c.mask (fld f 23 3)
    let old := c.vec (Fmt.d f)
    let pick := fun (bs : List Byte) => ofLanes ((List.range 64).map (fun j =>
      if bit m j then BitVec.ofNat 32 (leNat ((bs.drop (4 * j)).take 4)) else old.extractLsb' (32 * j) 32))
    let st := Fmt.store f
    let a := (c.reg (Fmt.a f) + (f.setWidth 22 : BitVec 22).signExtend 64).toNat
    let k := c.coil (Fmt.a f)
    (st ≤ 2 → fld f 26 6 = 0 →
      (bit f 22 = false → a % 4 = 0 → s.usable t c [Range.rd st a 256] →
        exec (.vld t f) s = s.ran t ((c.after s.now s.up).setVec (Fmt.d f) (pick (s.bytesAt t st a 256)))) ∧
      (bit f 22 = true → fld f 0 22 = 0 → k.isOpen = true → k.elem = 256 → k.empty = false → s.usable t c [Range.rd k.store (k.base + k.head) 256] →
        exec (.vld t f) s =
          s.ran t (((c.after s.now s.up).setCoil (Fmt.a f) k.pop).setVec (Fmt.d f) (pick (s.bytesAt t k.store (k.base + k.head) 256))))) ∧
    (Fmt.lt f ≤ 2 → Fmt.k f = 0 → Fmt.b f = 0 → Fmt.c f = 0 → fld f 6 13 = 0 →
      let x := (c.vec (Fmt.a f)).extractLsb' (32 * fld f 0 6) 32
      exec (.vmovg t f) s = s.putReg t f c (if Fmt.lt f = 0 then x.signExtend 64 else x.setWidth 64))) ∧
  (∀ (s : State) (t : Nat) (f : BitVec 48) (c : Ctx), s.Runs t f c → Fmt.store f ≤ 2 → fld f 26 6 = 0 →
    let m := c.mask (fld f 23 3)
    let v := c.vec (Fmt.d f)
    let word := fun (j : Nat) => leBytes 4 (v.extractLsb' (32 * j) 32).toNat
    let puts := fun (st off : Nat) =>
      if m = BitVec.allOnes 64 then [(st, off, (List.range 64).flatMap word)]
      else ((List.range 64).filter (fun j => bit m j)).map (fun j => (st, off + 4 * j, word j))
    let st := Fmt.store f
    let a := (c.reg (Fmt.a f) + (f.setWidth 22 : BitVec 22).signExtend 64).toNat
    let n := Fmt.a f
    let k := c.coil n
    let s1 := s.withCtx t (c.after s.now s.up)
    (bit f 22 = false → a % 4 = 0 → s.usable t c [Range.wr st a 256] → exec (.vst t f) s = (s1.stores t (puts st a)).retired t) ∧
    (bit f 22 = true → fld f 0 22 = 0 → k.isOpen = true → k.receive = false → k.elem = 256 →
      (∀ k', k.room = .dropped k' →
        exec (.vst t f) s = ((s.withCtx t ((c.after s.now s.up).setCoil n k')).tileEvent t 0x22 1).retired t) ∧
      (∀ k', k.room = .ready k' → s.need t [Range.wr k'.store (k'.base + k'.tail) 256] = .ok →
        let u := ((s1.stores t (puts k'.store (k'.base + k'.tail))).updCtx t (s.tile t).execSlot (fun x => x.setCoil n k'.pushed)).updTile t Tile.wake
        exec (.vst t f) s = (if k'.overrun ≠ k.overrun then u.tileEvent t 0x22 1 else u).retired t)))

/-- VRED reduces the enabled lanes in a fixed tree, a disabled lane counting as +0 or for VRED.MAX.F as −∞: at level j, from 5 down to 0, lane i takes
lane i + 2^j for every i below 2^j. The adds are rounded to nearest even, the integer form saturates with SAT; lane 0 of vd takes the result and lanes
1 to 63 read +0 (05 R157). -/
def Obligations.ReductionResults : Prop :=
  ∀ (s : State) (t : Nat) (f : BitVec 48) (c : Ctx), s.Runs t f c → Fmt.vmod f = 0 → Fmt.b f = 0 → Fmt.c f = 0 →
    let lane := fun (unit : W32) (j : Nat) => if bit (c.mask (Fmt.k f)) j then (c.vec (Fmt.a f)).extractLsb' (32 * j) 32 else unit
    let level := fun (op : W32 → W32 → W32 × W32) (r : List W32 × W32) (j : Nat) =>
      let sum := fun (i : Nat) => op (r.1.getD i 0) (r.1.getD (i + 2 ^ j) 0)
      ((List.range (2 ^ j)).map (fun i => (sum i).1), (List.range (2 ^ j)).foldl (fun fl i => fl ||| (sum i).2) r.2)
    let out := fun (unit : W32) (op : W32 → W32 → W32 × W32) =>
      let r := [5, 4, 3, 2, 1, 0].foldl (level op) ((List.range 64).map (lane unit), 0)
      s.ran t (((c.after s.now s.up).setVec (Fmt.d f) ((r.1.getD 0 0).setWidth 2048)).raise 1 r.2)
    (Fmt.lt f = 2 → exec (.vredAddF t f) s = out 0 fadd ∧ exec (.vredMaxF t f) s = out 0xFF800000 (fminmax true)) ∧
    (Fmt.lt f = 0 → exec (.vredAddI t f) s = out 0 (fun a b =>
      (BitVec.ofInt 32 (max (-(2 ^ 31)) (min (2 ^ 31 - 1) (a.toInt + b.toInt))),
       if -(2 ^ 31) ≤ a.toInt + b.toInt ∧ a.toInt + b.toInt < 2 ^ 31 then 0 else Fl.sat)))

/-- VRAND writes the low 32 bits of one draw of each enabled lane's generator, keyed by seed, tile and lane, with counter (invocation, 2^47 + draw
count), and takes the draw count one on whatever the mask; a TSTORE whose index would reach 2^47 ends its job, so that no counter is shared (05 R170,
R175; 12 R396, R397). HSHA writes the SHA-512 of a store range to the A-store (05 R172). -/
def Obligations.RandomAndHash : Prop :=
  ∀ (s : State) (t : Nat) (f : BitVec 48) (c : Ctx), s.Runs t f c →
    (goodV 0 [1] f = true →
      ∃ r, exec (.vrand t f) s = s.ran t { (c.after s.now s.up).setVec (Fmt.d f) r with draw := c.draw + 1 } ∧
        ∀ j, j < 64 → r.extractLsb' (32 * j) 32 =
          if bit (c.mask (Fmt.k f)) j then laneRng c.seed (s.tid c) j c.inv (BitVec.ofNat 64 (2 ^ 47 + c.draw.toNat))
          else (c.vec (Fmt.d f)).extractLsb' (32 * j) 32) ∧
    (∀ minor : Byte, minor.toNat ≤ 3 → Fmt.c f = 0 → Fmt.vmod f = 0 → Fmt.lt f = 2 →
      (∃ j, j < 64 ∧ bit (c.mask (Fmt.k f)) j = true ∧ 2 ^ 47 ≤ (c.reg (Fmt.d f)).toNat % 2 ^ 47 + j) →
      exec (.tstore t minor f) s =
        .next (((s.withCtx t (c.after s.now s.up)).tileEvent t 0x2 1).failJob t (s.tile t).execSlot St.dataError (locInstr t c.pc))) ∧
    (goodI false true false f = true → Fmt.a f < 30 →
      let x := fld (c.reg (Fmt.a f)) 0 24
      let n := (c.reg (Fmt.a f + 1)).toNat
      let o := fld (c.reg (Fmt.a f + 2)) 0 22
      fld (c.reg (Fmt.a f)) 24 40 = 0 → refVq x = true → n % 4 = 0 → n ≤ storeSize (refSt x) → fld (c.reg (Fmt.a f + 2)) 22 42 = 0 → o % 64 = 0 →
      s.usable t c [Range.rd (refSt x) (refOff x) n, Range.wr 1 o 64] →
      exec (.hsha t f) s = ((s.withCtx t (c.after s.now s.up)).stores t [(1, o, sha512 (s.bytesAt t (refSt x) (refOff x) n))]).retired t)

/-! ## Block quantisation and tempering stores (04 R118 to R140; 05 R147, R175; 03 R95, R96) -/

/-- VQB quantises whole channel groups of a good tensor: the code, scale, grog and channel streams take the blocks in block order, the descriptor
counts the grog entries used, and the tile's counters and flags take what the quantiser met (04 R119 to R124, R131 to R136). Elements of a channel
stand together in the source: the model's choice, log entry 45. -/
def Obligations.Quantisation : Prop :=
  ∀ (s : State) (t : Nat) (f : BitVec 48) (c : Ctx) (v : VqBlock), s.Runs t f c → goodE f = true → vqBlock false c (Fmt.d f) = some v →
    let k := c.after s.now s.up
    let w0 := s.bytesAt t (refSt v.d) (refOff v.d) 32
    let q := bqOf w0
    let n := v.count * q.blocks * 16
    let len := v.count * 16 * q.chanLen * 4
    refVq v.d = true → refVq v.src = true → q.good (w64At 0 w0) = true → v.count ≤ q.groups →
    s.usable t c [Range.rd (refSt v.d) (refOff v.d) 32] →
    s.usable t c [rangeOf false v.src len, rangeOf true q.code (n * q.codeBytes), rangeOf true q.scale (4 * n), rangeOf true q.chan (64 * v.count),
                  rangeOf true q.grog (4 * q.cap), rangeOf true v.d 32] →
    let ws := wordsOf (if len = 0 then [] else s.bytesAt t (refSt v.src) (refOff v.src) len)
    let chan := fun (x : Nat) => (ws.drop (x * q.chanLen)).take q.chanLen
    let consts := (List.range (16 * v.count)).map (fun x => constantOf (chan x))
    let bs := quantAll q ((blockList q v.count).map (fun b => (b.1, consts.getD b.2.1 none, ((chan b.2.1).drop (b.2.2 * q.size)).take q.size))) (q.cap - q.used)
    let used := q.used + (bs.map (fun b => b.2.escs.length)).sum
    let h : At := { p := t, w := (s.tile t).execSlot, c := k, f := f, bad := .bad St.dataError (locInstr t c.pc) }
    exec (.vqb t f) s = (State.quantised h (bs.map (·.2)) ((s.withCtx t k).stores t [
      (refSt q.code, refOff q.code, bs.flatMap (fun b => b.2.code q (q.seq + b.1))),
      (refSt q.scale, refOff q.scale, bs.flatMap (fun b => b.2.entry (q.seq + b.1))),
      (refSt q.grog, refOff q.grog + 4 * q.used, bs.flatMap (fun b => b.2.grog (q.seq + b.1))),
      (refSt q.chan, refOff q.chan, consts.flatMap (fun x => leBytes 4 (b2n x.isSome))),
      (refSt v.d, refOff v.d + 20, leBytes 4 (used * 65536 + q.cap))])).retired t

/-- VDQB dequantises whole channel groups of a good tensor whose sequence numbers agree: each block's FP16 elements go to their places in the
destination range, or each group is pushed to the output coil in turn, until a full BLOCK coil holds the rest back, with which the instruction goes on
(02 R68; 04 R125, R127 to R130; 05 R147, R159). The order of the elements in the destination is the model's choice, log entry 45. -/
def Obligations.Dequantisation : Prop :=
  ∀ (s : State) (t : Nat) (f : BitVec 48) (c : Ctx) (v : VqBlock), s.Runs t f c → goodE f = true → vqBlock false c (Fmt.d f) = some v →
    let k := c.after s.now s.up
    let w0 := s.bytesAt t (refSt v.d) (refOff v.d) 32
    let q := bqOf w0
    let gb := 32 * q.chanLen
    let h : At := { p := t, w := (s.tile t).execSlot, c := k, f := f, bad := .bad St.dataError (locInstr t c.pc) }
    let s1 := s.withCtx t k
    let x := h.dequant 1 q v.count s1
    let w := (s.tile t).execSlot
    let keep := fun (e : Option (List (List Byte) × Nat)) (u : State) => u.updCtx t w (fun y => { y with rest := e })
    let stalled := fun (u : State) => u.updCtx t w (fun y => { y with pc := c.pc, started := c.started, cycSince := c.cycSince })
    (∀ ds, c.rest = some (ds, 0) →
      (∀ u, h.pushGroups (v.coil.getD 0) (ds.headD []).length ds s1 = (u, [], .ok) → exec (.vdqb t f) s = (keep none u).retired t) ∧
      (∀ u ds', h.pushGroups (v.coil.getD 0) (ds.headD []).length ds s1 = (u, ds', .wait) →
        exec (.vdqb t f) s = .next (stalled (keep (some (ds', 0)) u)))) ∧
    (c.rest = none → refVq v.d = true → q.good (w64At 0 w0) = true → v.count ≤ q.groups → s.usable t c [Range.rd (refSt v.d) (refOff v.d) 32] →
    x.2.1 = s1 → x.2.2 = none → x.1.2.2 = none →
    (v.coil = none → refVq v.dst = true → s.usable t c (bqRanges q v.count ++ [rangeOf true v.dst (v.count * gb)]) →
      exec (.vdqb t f) s = ((s.withCtx t (k.raise 1 x.1.2.1)).stores t (x.1.1.map (fun b =>
        (refSt v.dst, refOff v.dst + (b.2.1 * q.chanLen + b.2.2.1 * q.size) * 2, b.2.2.2.flatMap (fun y => leBytes 2 y.toNat))))).retired t) ∧
    (∀ n, v.coil = some n → s.usable t c (bqRanges q v.count) → (c.coil n).isOpen = true → (c.coil n).receive = false → (c.coil n).elem = gb →
      let ds := (List.range (x.1.1.length / (q.blocks * 16))).map (fun g => groupBytes q g x.1.1)
      (∀ u, h.pushGroups n gb ds (s.withCtx t (k.raise 1 x.1.2.1)) = (u, [], .ok) → exec (.vdqb t f) s = (keep none u).retired t) ∧
      (∀ u ds', h.pushGroups n gb ds (s.withCtx t (k.raise 1 x.1.2.1)) = (u, ds', .wait) →
        exec (.vdqb t f) s = .next (stalled (keep (some (ds', 0)) u)))))

/-- VREQ requantises each channel's INT32 accumulator by its record and packs the results of the output range from the least significant end, into the
destination range or into the next element of an open output coil of that size; its flags are those of the rounding and clamping (04 R138 to R140;
03 R81; 05 R147, R159). -/
def Obligations.Requantisation : Prop :=
  ∀ (s : State) (t : Nat) (f : BitVec 48) (c : Ctx) (v : VqBlock), s.Runs t f c → goodE f = true → vqBlock true c (Fmt.d f) = some v →
    let lim := reqRange v.range
    let out := roundUp 4 ((v.count * lim.2.2 + 7) / 8)
    let h : At := { p := t, w := (s.tile t).execSlot, c := c.after s.now s.up, f := f, bad := .bad St.dataError (locInstr t c.pc) }
    let ins := [rangeOf false v.d (16 * v.count), rangeOf false v.src (4 * v.count)]
    refVq v.d = true → refVq v.src = true →
    let rec_ := fun (o : Nat) => w32At o (s.bytesAt t (refSt v.d) (refOff v.d) (16 * v.count))
    let acc := fun (o : Nat) => w32At o (s.bytesAt t (refSt v.src) (refOff v.src) (4 * v.count))
    let ys := (List.range v.count).map (fun j =>
      requant (acc (4 * j)).toInt (rec_ (16 * j)).toInt (fld (rec_ (16 * j + 4)) 0 31) (fld (rec_ (16 * j + 8)) 16 5) (sfld (rec_ (16 * j + 8)) 0 16) lim.1 lim.2.1)
    let bytes := leBytes out (packNat lim.2.2 (ys.map (fun y => (y.1 % 2 ^ lim.2.2).toNat)))
    let put := fun (st off : Nat) (u : State) =>
      (u.ownWrite t (s.tile t).execSlot st off bytes).updCtx t (s.tile t).execSlot (Ctx.raise 1 (ys.foldl (fun a y => a ||| y.2) 0))
    (v.coil = none → refVq v.dst = true → s.usable t c (ins ++ [rangeOf true v.dst out]) →
      exec (.vreq t f) s = (put (refSt v.dst) (refOff v.dst) (s.withCtx t (c.after s.now s.up))).retired t) ∧
    (∀ n, v.coil = some n → (c.coil n).isOpen = true → (c.coil n).receive = false → (c.coil n).elem = out → s.usable t c ins →
      ∀ u, h.push n out (fun st off u => (put st off u, .ok)) (s.withCtx t (c.after s.now s.up)) = (u, .ok) → exec (.vreq t f) s = u.retired t)

/-- TSTORE to FP16 or INT8 writes every word that holds an enabled lane, disabled slots as zero, each element rounded by its 16 random bits, into a
range or (the model's encoding, log entry 60) into the next element of an open output coil of that size (05 R159); to BQ8 or BQ4 it quantises whole blocks of the tensor from the block that gdest names (05 R175; 03 R95, R96; 04 R137). -/
def Obligations.TemperingStores : Prop :=
  ∀ (s : State) (t : Nat) (minor : Byte) (f : BitVec 48) (c : Ctx), s.Runs t f c → minor.toNat ≤ 3 → Fmt.c f = 0 → Fmt.vmod f = 0 → Fmt.lt f = 2 →
    let m := c.mask (Fmt.k f)
    let base := (c.reg (Fmt.d f)).toNat % 2 ^ 47
    let dest := c.reg (Fmt.b f)
    let x := fld dest 0 24
    let rnd := fun (j : Nat) => (laneRng c.seed (s.tid c) j c.inv (BitVec.ofNat 64 (base + j))).toNat % 65536
    let k := c.after s.now s.up
    let h : At := { p := t, w := (s.tile t).execSlot, c := k, f := f, bad := .bad St.dataError (locInstr t c.pc) }
    (∀ j, j < 64 → bit m j = true → base + j < 2 ^ 47) →
    (minor.toNat ≤ 1 →
      let half := minor.toNat = 0
      let one := fun (j : Nat) => if half then ((tsF16 ((c.vec (Fmt.a f)).extractLsb' (32 * j) 32) (rnd j)).1.toNat, (tsF16 ((c.vec (Fmt.a f)).extractLsb' (32 * j) 32) (rnd j)).2)
        else (((tsI8 ((c.vec (Fmt.a f)).extractLsb' (32 * j) 32) (rnd j)).1 % 256).toNat, (tsI8 ((c.vec (Fmt.a f)).extractLsb' (32 * j) 32) (rnd j)).2)
      let el := fun (j : Nat) => if bit m j then one j else (0, 0)
      let per := if half then 2 else 4
      let words := (List.range (64 / per)).filter (fun w => (List.range per).any (fun y => bit m (w * per + y)))
      let put := fun (st off : Nat) (u : State) =>
        (words.foldl (fun u w => u.ownWrite t (s.tile t).execSlot st (off + 4 * w)
            (leBytes 4 (packNat (32 / per) ((List.range per).map (fun y => (el (w * per + y)).1))))) u).updCtx t (s.tile t).execSlot
          (Ctx.raise 1 ((List.range 64).foldl (fun a j => a ||| (el j).2) 0))
      (bit dest 30 = false → refVq x = true → s.usable t c [Range.wr (refSt x) (refOff x) (if half then 128 else 64)] →
        exec (.tstore t minor f) s = (put (refSt x) (refOff x) (s.withCtx t k)).retired t) ∧
      (bit dest 30 = true → (c.coil (fld dest 24 5)).isOpen = true → (c.coil (fld dest 24 5)).receive = false →
        (c.coil (fld dest 24 5)).elem = (if half then 128 else 64) →
        ∀ u, h.push (fld dest 24 5) (if half then 128 else 64) (fun st off u => (put st off u, .ok)) (s.withCtx t k) = (u, .ok) →
          exec (.tstore t minor f) s = u.retired t)) ∧
    (2 ≤ minor.toNat → refVq x = true →
      let w0 := s.bytesAt t (refSt x) (refOff x) 32
      let q := bqOf w0
      let k0 := fld dest 24 24
      let n := 64 / q.size
      let chans := (List.range n).map (fun j => (k0 + j) / 16 / q.blocks * 16 + (k0 + j) % 16)
      q.good (w64At 0 w0) = true → q.four = decide (minor.toNat = 3) → k0 + n ≤ q.groups * q.blocks * 16 →
      s.usable t c [Range.rd (refSt x) (refOff x) 32] →
      s.usable t c ([rangeOf true (q.code + k0 * q.codeBytes) (n * q.codeBytes), rangeOf true (q.scale + 4 * k0) (4 * n), rangeOf true q.grog (4 * q.cap),
                     rangeOf true x 32] ++ chans.map (fun y => rangeOf true (q.chan + 4 * y) 4)) →
      let xs := (List.range 64).map (fun j => if bit m j then (c.vec (Fmt.a f)).extractLsb' (32 * j) 32 else 0)
      let part := fun (j : Nat) => (xs.drop (j * q.size)).take q.size
      let bs := tsBlocks q rnd ((List.range n).map (fun j => (j, part j))) (q.cap - q.used)
      let used := q.used + (bs.map (fun b => b.2.escs.length)).sum
      exec (.tstore t minor f) s = (State.quantised h (bs.map (·.2)) ((s.withCtx t k).stores t ([
        (refSt q.code, refOff q.code + k0 * q.codeBytes, bs.flatMap (fun b => b.2.code q (q.seq + k0 + b.1))),
        (refSt q.scale, refOff q.scale + 4 * k0, bs.flatMap (fun b => b.2.entry (q.seq + k0 + b.1))),
        (refSt q.grog, refOff q.grog + 4 * q.used, bs.flatMap (fun b => b.2.grog (q.seq + k0 + b.1)))] ++
        (chans.zip bs).map (fun e => (refSt q.chan, refOff q.chan + 4 * e.1, leBytes 4 (b2n (q.blocks = 1 && (constantOf (part e.2.1)).isSome)))) ++
        [(refSt x, refOff x + 20, leBytes 4 (used * 65536 + q.cap))]))).retired t)

/-! ## The matrix array, the factor unit and the commit unit (02 R42, R43; 03 R88 to R92; 05 R160; 06 R189 to R209) -/

/-- MMUL adds to the sums of the P-store and MMULZ starts from zero: every output sum takes its weight tiles in order, the flags of the arithmetic are
raised, and each weight tile is counted as event 0x9; the sums go to their places in the P-store, or as one element to an output coil in it.
Block-quantised weights are dequantised to FP16 first, here with every sequence number right. The layout of the command block is the model's free
value, log entry 8. -/
def Obligations.MatrixResults : Prop :=
  ∀ (s : State) (t : Nat) (f : BitVec 48) (c : Ctx) (zero : Bool) (i : Instr), s.Runs t f c → goodE f = true →
    (zero = false ∧ i = .mmul t f ∨ zero = true ∧ i = .mmulz t f) →
    let g := Fmt.d f
    let k := c.after s.now s.up
    let w := (s.tile t).execSlot
    let b := matBlockOf (Config.matBlock (c.reg g) (c.reg (g + 1)) (c.reg (g + 2)) (c.reg (g + 3)))
    let read := fun (st off n : Nat) => if n = 0 then [] else s.bytesAt t st off n
    let wb := read 0 b.w b.wn
    let pb := if zero then [] else read 2 b.p b.pn
    let act := fun (x y : Nat) => elemAt (elemBits b.path) (read 1 b.a b.an) (Config.matPlace b.raw 1 x y)
    let h : At := { p := t, w := w, c := k, f := f, bad := .bad St.dataError (locInstr t c.pc) }
    let out : Res → W32 → (Nat → Nat → Nat) → Prop := fun r fl weight =>
      let ys := matSums b zero weight act (fun x => w32At (4 * x) pb) (fun _ => b.ins)
      let k' := k.raise 2 (ys.foldl (fun a y => a ||| y.2.2) fl)
      let s2 := (s.withCtx t k').tileEvent t 0x9 (((List.range b.outs).map (fun _ => b.ins)).sum)
      let put := fun (st off : Nat) (s : State) => ys.foldl (fun s y => s.ownWrite t w st (off + 4 * y.1) (w32Bytes y.2.1)) s
      match b.coil with
      | none => r = (put 2 b.p s2).retired t
      | some n => ∀ u, ({ h with c := k' } : At).push n b.pn (fun st off s => (put st off s, .ok)) s2 = (u, .ok) → r = u.retired t
    b.ok = true → (zero = false → b.pn ≠ 0 → (s.tile t).upsets 2 b.p b.pn = []) →
    (match b.coil with
     | none => s.usable t c [Range.rd 0 b.w b.wn, Range.rd 1 b.a b.an, Range.wr 2 b.p b.pn]
     | some n => (c.coil n).isOpen = true ∧ (c.coil n).receive = false ∧ (c.coil n).elem = b.pn ∧ (c.coil n).store = 2 ∧
         s.usable t c ([Range.rd 0 b.w b.wn, Range.rd 1 b.a b.an] ++ (if zero then [] else [Range.rd 2 b.p b.pn]))) →
    (b.bq = false → out (exec i s) 0 (fun x y => elemAt (elemBits b.path) wb (Config.matPlace b.raw 0 x y))) ∧
    (b.bq = true → b.path = 2 →
      let q := bqOf wb
      let x := h.dequant 2 q b.outs (s.withCtx t k)
      q.good (w64At 0 wb) = true → refSt q.code = 0 → refSt q.scale = 0 → refSt q.chan = 0 → refSt q.grog = 0 → b.outs ≤ q.groups → b.ins * 16 ≤ q.chanLen →
      s.usable t c (bqRanges q b.outs) → x.2.1 = s.withCtx t k → x.2.2 = none → x.1.2.2 = none →
      out (exec i s) x.1.2.1 (fun y o => match x.1.1.find? (fun z => decide (z.2.1 = o ∧ z.2.2.1 = y / q.size)) with
        | some z => (z.2.2.2.getD (y % q.size) 0).toNat
        | none => 0))

/-- FCHOL and FLDL factor the triangle of the source matrix, FQR the streamed rows from a cleared factor, FGIVENS the streamed rows into the factor
that is there, and FUPDATE a rank-one change of one, both counting replacements on from the factor's own: when no pivot is singular, the factor area is written whole and the flags are raised (06 R189 to
R197). FTRSV solves with the factor that is there, one right-hand side after the other, and writes the n × r solutions in the layout of the right-hand
sides (06 R189, R190). -/
def Obligations.FactorResults : Prop :=
  (∀ (s : State) (t : Nat) (f : BitVec 48) (c : Ctx), s.Runs t f c → goodE f = true →
    let b := facBlock c (Fmt.d f)
    let read := fun (x n : Nat) => if n = 0 then [] else s.bytesAt t (refSt x) (refOff x) n
    let put := fun (r : Factor × FacAcc) =>
      ((s.withCtx t ((c.after s.now s.up).raise 3 r.2.flags)).stores t [(refSt b.fac, refOff b.fac, facArea b.n r)]).retired t
    let may := fun (ins : List (Nat × Nat)) (out : Nat) => (∀ x ∈ ins ++ [(b.fac, out)], c.refGood x.1 x.2 = true) ∧
      s.usable t c (ins.map (fun x => rangeOf false x.1 x.2) ++ [rangeOf true b.fac out])
    let fb := facBytes b.n b.r
    let rows := streamRows b (wordsOf (read b.src (4 * b.n * b.rows))) (wordsOf (read b.rhs b.rhsBytes))
    (facBlockGood c (Fmt.d f) false false 1 = true → may [(b.src, 4 * b.n * b.n)] (facBytes b.n 0) →
      let m := triangle b.n b.upper (wordsOf (read b.src (4 * b.n * b.n)))
      ((fchol b.pivot m { }).2.bad = false → exec (.fchol t f) s = put (fchol b.pivot m { })) ∧
      ((fldl b.pivot m { }).2.bad = false → exec (.fldl t f) s = put (fldl b.pivot m { }))) ∧
    (facBlockGood c (Fmt.d f) true false 1 = true → b.n ≤ b.rows → may [(b.src, 4 * b.n * b.rows), (b.rhs, b.rhsBytes)] fb →
      let r := fgivens b.pivot (clearedFactor b.n b.r) rows { }
      r.2.bad = false → exec (.fqr t f) s = put r) ∧
    (facBlockGood c (Fmt.d f) true false 1 = true → may [(b.src, 4 * b.n * b.rows), (b.rhs, b.rhsBytes), (b.fac, fb)] fb →
      ∀ f0, factorOf b.n b.r (read b.fac fb) = some f0 → f0.kind = 2 →
        let r := fgivens b.pivot f0 rows f0.acc
        r.2.bad = false → exec (.fgivens t f) s = put r) ∧
    (facBlockGood c (Fmt.d f) false false 2 = true → may [(b.fac, facBytes b.n 0), (b.src, 4 * b.n)] (facBytes b.n 0) →
      ∀ f0, factorOf b.n 0 (read b.fac (facBytes b.n 0)) = some f0 → f0.kind = 1 →
        let r := fupdate b.pivot (decide (b.mode = 1)) f0 (wordsOf (read b.src (4 * b.n))) f0.acc
        r.2.bad = false → exec (.fupdate t f) s = put r)) ∧
  (∀ (s : State) (t : Nat) (f : BitVec 48) (c : Ctx), s.Runs t f c → goodE f = true →
    let b := facBlock c (Fmt.d f)
    let read := fun (x n : Nat) => if n = 0 then [] else s.bytesAt t (refSt x) (refOff x) n
    facBlockGood c (Fmt.d f) false true 6 = true →
    (∀ x ∈ [(b.fac, facBytes b.n 0), (b.rhs, 4 * b.n * b.r), (b.out, 4 * b.n * b.r)], c.refGood x.1 x.2 = true) →
    s.usable t c [rangeOf false b.fac (facBytes b.n 0), rangeOf false b.rhs (4 * b.n * b.r), rangeOf true b.out (4 * b.n * b.r)] →
    ∀ f0, factorOf b.n 0 (read b.fac (facBytes b.n 0)) = some f0 → modeKind b.mode f0.kind = true →
      let r := mapFac (fun j => ftrsv b.mode f0 (column b.r j (wordsOf (read b.rhs (4 * b.n * b.r))))) (List.range b.r) { }
      r.2.bad = false →
      exec (.ftrsv t f) s = ((s.withCtx t ((c.after s.now s.up).raise 3 r.2.flags)).stores t
        [(refSt b.out, refOff b.out, bytesOfWords (fromColumns b.n r.1))]).retired t)

/-- CMINIT takes the commit unit for its context: offer 0 of each problem is its warm start or cold start, projected onto the mapped bounds (06 R204,
R205, R207, R215). CMOFFER offers an iterate: a better one is held, and held, rejected and late offers are counted as events 0xC, 0xD and 0xE; an
offer after the deadline is late, and a frozen unit takes no offer (06 R206 to R208). CMSTAT writes the records that a freeze at this count would write (R209). Stated outside a replay.
-/
def Obligations.CommitUnitResults : Prop :=
  (∀ (s : State) (t : Nat) (f : BitVec 48) (c : Ctx), s.Runs t f c → goodE f = true → (s.tile t).cu = none →
    let g := Fmt.d f
    let u := cmBlock (c.reg g) (c.reg (g + 1)) (c.reg (g + 2)) (c.reg (g + 3))
    let k := c.after s.now s.up
    let w := (s.tile t).execSlot
    let read := fun (x n : Nat) => s.bytesAt t (refSt x) (refOff x) n
    let raw := (List.range u.b).map (fun i => (List.range u.k).map (fun j => slice (16 * (i * u.k + j)) 16 (read u.map (u.b * u.k * 16))))
    let maps := raw.map (fun m => m.map mapEntryOf)
    let named := maps.flatMap (fun m => m.filterMap (·.mailbox))
    let lus := if u.m = 0 then [] else read u.lu (u.b * 2 * vecBytes u.m)
    let lu := fun (i n : Nat) => (List.range u.m).map (fun j => w32At ((2 * i + n) * vecBytes u.m + 4 * j) lus)
    let blob := fun (i : Nat) => if u.blobEn then some (slice (i * blobStride u.n u.m) (blobStride u.n u.m) (read u.blob (u.b * blobStride u.n u.m))) else none
    let its := (List.range u.b).map (fun i => startIterate c.job.image.structSig (blob i) u.n u.m (lu i 0) (lu i 1))
    cmBlockGood (c.reg g) (c.reg (g + 1)) (c.reg (g + 2)) (c.reg (g + 3)) c = true →
    s.usable t c [rangeOf false u.map (u.b * u.k * 16), rangeOf true u.iter (u.b * iterStride u.n u.m), rangeOf true u.record (u.b * recordStride u.k),
                  rangeOf false u.lu (u.b * 2 * vecBytes u.m), rangeOf false u.blob (if u.blobEn then u.b * blobStride u.n u.m else 0)] →
    (∀ m ∈ raw, ∀ e ∈ m, mapEntryGood u.n e = true) → named.Nodup → (∀ x ∈ named, x ∈ s.mailboxesOf c.job ∧ x ∉ c.mbwr) →
    exec (.cminit t f) s =
      ((its.zipIdx.foldl (fun s e => s.writeIterate t w (u.iter + e.2 * iterStride u.n u.m) u.n u.m e.1.1) (s.withCtx t k)).updTile t (fun T =>
        { T with cu := some { n := u.n, m := u.m, k := u.k, recordRef := u.record, map := maps, owner := w,
                              held := (maps.zip its).map (fun e => offerZero e.1 e.2) } })).retired t) ∧
  (∀ (s : State) (t : Nat) (f : BitVec 48) (c : Ctx) (u : CommitUnit), s.Runs t f c → goodE f = true → (s.tile t).cu = some u → u.owner = (s.tile t).execSlot →
    let g := Fmt.d f
    let w0 := c.reg g
    let k := c.after s.now s.up
    (let x := fld w0 24 24
     let pr := fld w0 16 4
     fld w0 48 16 = 0 → fld w0 20 4 = 0 → c.reg (g + 3) = 0 → pr < u.held.length → c.refGood x (4 * u.n) = true → 0 < u.n → s.wit.mode ≠ .replay →
     (u.frozen = true → s.usable t c [rangeOf false x (4 * u.n)] → exec (.cmoffer t f) s = s.ran t k) ∧
     (u.frozen = false → s.usable t c [rangeOf false x (4 * u.n)] →
     let late := match c.job.deadline with
       | some d => decide (d ≤ s.now)
       | none => false
     let r := Held.offer (u.map.getD pr []) (wordsOf (s.bytesAt t (refSt x) (refOff x) (4 * u.n))) (fld w0 0 16) ((c.reg (g + 1)).extractLsb' 32 32)
       ((c.reg (g + 1)).setWidth 32) ((c.reg (g + 2)).extractLsb' 32 32) ((c.reg (g + 2)).setWidth 32) late (u.held.getD pr { })
     let u1 := (s.withCtx t k).updTile t (fun T => { T with cu := some { u with held := u.held.set pr r.1 } })
     exec (.cmoffer t f) s = (match r.2 with
       | .held => u1.tileEvent t 0xC 1
       | .rejected => u1.tileEvent t 0xD 1
       | .late => u1.tileEvent t 0xE 1
       | .kept => u1).retired t)) ∧
    (let x := fld w0 0 24
     let bs := u.records c.jobAcc (short s.now)
     fld w0 24 40 = 0 → c.reg (g + 1) = 0 → c.reg (g + 2) = 0 → c.reg (g + 3) = 0 → c.refGood x bs.length = true → c.mayWrite (refSt x) (refOff x) bs.length = true →
     s.usable t c [rangeOf true x bs.length] →
     exec (.cmstat t f) s = ((s.withCtx t k).stores t [(refSt x, refOff x, bs)]).retired t))

/-- JEND of a program on a quiet tile without a pending trap ends its job: with the commit unit's status, flags and staged values after a freeze where
the job holds the unit, else DONE with the values of MBWR; r0 is the result word (05 R176; 06 R209 to R212; 10 R341). JEND of a built-in image ends it
with the solver's results (06 R186). -/
def Obligations.JobEnds : Prop :=
  (∀ (s : State) (t : Nat) (f : BitVec 48) (c : Ctx), s.Runs t f c → goodI false false false f = true → c.trap = false →
    (s.tile t).dma.all (fun e => e.2.descs.isEmpty) = true → (s.tile t).sb.all (fun e => !e.2.valid) = true →
    let w := (s.tile t).execSlot
    let k := c.after s.now s.up
    let s1 := s.withCtx t k
    ((∀ u, (s.tile t).cu = some u → u.owner ≠ w) →
      exec (.jend t f) s = (s1.endJob t w { st := St.done, staged := c.staged, r0 := k.result }).retired t) ∧
    (∀ u, (s.tile t).cu = some u → u.owner = w →
      exec (.jend t f) s = ((s1.freeze t w k u).endJob t w
        { st := u.status c.jobAcc, flags := u.flags, staged := mergeStaged c.staged u.staged, mapped := !u.mailboxes.isEmpty, r0 := k.result }).retired t)) ∧
  (∀ (s : State) (t : Nat) (f : BitVec 48) (c : Ctx), t < 68 → (s.tile t).cur = some c → c.live = true → c.job.builtin = true → (s.dom t).rung = 0 →
    exec (.jend t f) s = .next (s.endBuiltin t (s.tile t).execSlot c none))

/-! ## Commands of the host (10 R313 to R347; 01 R8 to R12) -/

/-- A packet that passes every check of R322 is accepted: its queue holds it under the next sequence number with its tag and its captured inputs, the
reply carries ACCEPTED, that number and the acceptance stamp (R321, R324, R325), and its effect begins; where what it names in HBM does not read (13
R431), or its entry or its captured inputs are not readable (14 R480), the command completes with FAILED_DATA_ERROR and the address. An ACK takes no sequence number: it
acknowledges up to w0, and asks with bit 0 of w1 that the rest be offered again (R337). -/
def Obligations.AcceptedCommands : Prop :=
  ∀ (s : State) (i : Instr) (p : Packet), i.packet = some p → i.wf → s.Takes p →
    exec i s = (if p.op = 1 then
        .next ((((s.received p).event 0x1C0 0 1).reply p Code.accepted 0 0 s.now).acknowledge p.q p.hdr.w0.toNat (bit p.hdr.w1 0))
      else .next (match (s.accepting p).2.2 with
        | some x => (s.accepting p).2.1.inputLost (s.outOf p) x
        | none => (s.accepting p).2.1.begin_ (s.outOf p) s.now)) ∧
    let job := 0x2001 ≤ p.op ∧ p.op ≤ 0x2006 ∧ bit p.hdr.flags 0 = true
    (∀ (x : W64) (u : State), u.inputLost (s.outOf p) x = u.complete p.q (s.queue p.q).nextSeq
      { status := St.dataError, location := x, ext := if job then zeros 64 else [] } { tput := (s.outOf p).tput }) ∧
    let v := s.queue p.q
    let u := s.entered p
    ((u.queue p.q).nextSeq = v.nextSeq + 1 ∧ (u.queue p.q).outst = v.outst ++ [s.outOf p] ∧
      (u.queue p.q).tags = v.tags ++ [(p.hdr.tag, v.nextSeq, s.now)]) ∧
    (∀ q, q ≠ p.q → u.queue q = s.queue q) ∧
    (s.usb.u3 = false → u.usb.ep1 = s.usb.ep1 ++ [.reply Code.accepted p.hdr.queue p.hdr.tag v.nextSeq 0 s.now]) ∧
    u.tb = s.tb ∧ u.mg = s.mg ∧ u.kiln = s.kiln ∧ u.hbm = s.hbm ∧ u.tiles = s.tiles ∧ u.slots = s.slots ∧ u.bindings = s.bindings ∧
    (∀ x, s.Starts p → p.op ≠ 1 → (s.inputsRead p).2 = some x → ¬ (s.twin.role = .standby ∧ 0x2000 ≤ p.op ∧ p.op < 0x4000) →
      exec i s = .next ((s.begun p).inputLost (s.outOf p) (locHbm x)))

/-- The checks of R322 in their order: a bad header is row 1, a held tag row 2, and rows 3 to 7 are the parameters, the twin, the room, a block under
test and feasibility. The reply carries the code of R326 and the row, and nothing else of the device changes; a duplicate is answered with the
sequence number and the stamp of the command that holds the tag (R324). While a command waits for its mirror, those behind it wait too (R321). In
reset, under the TEST strap outside a replay and in a RECOVERY for want of HBM nothing arrives (15 R494, R514). The count of free values is the model's own (log entry 10). -/
def Obligations.RefusedCommands : Prop :=
  ∀ (s : State) (i : Instr) (p : Packet), i.packet = some p → i.wf →
    (s.mg.inReset = true ∨ (s.mg.dev = .test ∧ s.wit.mode ≠ .replay) ∨ s.mg.recoveryWhy = 4 → exec i s = .next s) ∧
    (s.mute = false → s.twin.mirrors ≠ [] →
      exec i s = .next ((s.received p).setTwin { s.twin with mirrors := s.twin.mirrors ++ [(s.received p).arrival p] })) ∧
    (s.Free →
      let a := s.arrived p
      let m := (s.received p).arrival p
      let i' := a.inlined p
      let u := s.received p
      let refuse := fun (u : State) (code : Byte) (row : Nat) => ((u.reply p code 0 row 0).event 0x1C1 0 1)
      let next := fun (u : State) (code : Byte) (row : Nat) =>
        exec i s = .next (if code = Code.infeasible then (refuse { u with freeIx := u.freeIx + 1 } code row).event 0x1C2 0 1 else refuse { u with freeIx := u.freeIx + 1 } code row)
      (a.headerGood p = false → exec i s = .next (refuse u Code.malformed 1)) ∧
      (a.headerGood p = true →
        (∀ sq st, (a.queue p.q).tagHeld p.hdr.tag = some (sq, st) → exec i s = .next (u.reply p Code.duplicate sq 2 st)) ∧
        ((a.queue p.q).tagHeld p.hdr.tag = none →
          let good := a.descriptorGood p && a.parametersGood i'
          (good = false → next u Code.malformed 3) ∧
          (good = true → a.synced i' = false → next u Code.twinUnsynced 4) ∧
          (good = true → a.synced i' = true → a.roomFor p = false → next u Code.queueFull 5) ∧
          (good = true → a.synced i' = true → a.roomFor p = true → a.testBusy i' s.now = true → next u Code.testBusy 6) ∧
          (good = true → a.synced i' = true → a.roomFor p = true → a.testBusy i' s.now = false →
            ((s.received p).stateAllows p && (s.received p).opFeasible ((s.received p).inlined p) s.now) = false → next u Code.infeasible 7) ∧
          (a.refusedBy m = 0 → a.mirrorsFirst p = true → exec i s = .next (a.tell (.mirror p (a.captureOf p) (s.queue p.q).nextSeq))))))

/-- ACK frees the ring, the overflow area and the tags up to w0, records move from the overflow area into the ring while there is room, and with bit 0
of w1 every released record that is not acknowledged is offered again, marked so, in sequence order (R336, R337). QUEUE_SET sets a queue up from the fields of w0; enabling it starts its numbers at 1 (R315). SET_CONE_BUDGET waits for the next refill tick (01
R17). TIME_MODE sets the configured mode, and the effective one but on a STANDBY device and in a replay; SERVO where SERVO is configured already changes
nothing, in holdover either (12 R408, R409; 01 R34, R36). -/
def Obligations.QueueAndModeCommands : Prop :=
  ∀ (s : State) (h : Header) (pl : List Byte),
    (let p := Machine.packet 0x0001 h pl
     s.Takes p → ∃ t, exec (.ack h pl) s = .next t ∧
      let v := s.queue p.q
      let ring := v.ring.filter (fun r => decide (r.seq > h.w0.toNat))
      let over_ := v.overflow.filter (fun r => decide (r.seq > h.w0.toNat))
      let now := ring ++ over_.take (v.depth - ring.length)
      (t.queue p.q).ring.map (·.seq) = now.map (·.seq) ∧ (t.queue p.q).overflow = over_.drop (v.depth - ring.length) ∧
      (s.hbmClean → (t.queue p.q).ring = now ∧
        (bit h.w1 0 = true → s.usb.u3 = false → ∃ l, t.usb.ep1 = l ++
          (now ++ over_.drop (v.depth - ring.length)).map (fun r => Ep1In.completion { r with cflags := r.cflags ||| 1 }))) ∧
      (t.queue p.q).tags = v.tags.filter (fun e => decide (e.2.1 > h.w0.toNat)) ∧ (t.queue p.q).nextSeq = v.nextSeq ∧
      (∀ q, q ≠ p.q → t.queue q = s.queue q)) ∧
    (let p := Machine.packet 0x0002 h pl
     s.Begins p →
      let u := s.begun p
      let q := fld h.w0 0 12
      let v := u.queue q
      let v' := { v with enabled := bit h.w0 31, dataClass := bit h.w0 28, prio := fld h.w0 24 3, depthLog2 := fld h.w0 16 4 }
      let v' := if bit h.w0 31 && !v.enabled then { v' with nextSeq := 1, released := 0, overflow := [], stopped := false } else v'
      let t := u.setQueue q v'
      exec (.queueSet h pl) s = s.ends p { } { } (if u.qstat q = t.qstat q then t
        else t.journalNow (s.causeFor p) (at64 (0x38000 + 8 * q) 0) (some (w64Bytes (u.qstat q))) (some (w64Bytes (t.qstat q))))) ∧
    (let p := Machine.packet 0x0010 h pl
     s.Begins p →
      let u := s.begun p
      exec (.setConeBudget h pl) s =
        s.ends p { } { } (u.setKiln { u.kiln with newBudget := some (h.w0.setWidth 32, h.w1.setWidth 32, s.causeFor p) })) ∧
    (let p := Machine.packet 0x4004 h pl
     s.Begins p → ∃ t, exec (.timeMode h pl) s = .next t ∧ t.tb.modeCfg = BitVec.ofNat 2 h.w0.toNat ∧ t.now = s.now ∧ t.tb.frac = s.tb.frac ∧
      (s.twin.role = .standby ∨ s.wit.mode = .replay → t.tb.modeEff = s.tb.modeEff ∧ t.tb.inc = s.tb.inc ∧
        t.tb.steer = if h.w0.toNat = 1 then some h.w1 else none) ∧
      (s.twin.role ≠ .standby → s.wit.mode ≠ .replay → h.w0 = 0 → s.tb.modeCfg = 0 → t.tb = s.tb) ∧
      (s.twin.role ≠ .standby → s.wit.mode ≠ .replay → ¬ (h.w0 = 0 ∧ s.tb.modeCfg = 0) →
        t.tb.modeEff = BitVec.ofNat 2 h.w0.toNat ∧ t.tb.steer = none ∧ t.tb.holdover = decide (h.w0.toNat = 2) ∧ t.tb.inc = if h.w0.toNat = 1 then h.w1 else s.tb.inc))

/-- REG_READ answers one register or two at one count and clears their RC fields. REG_WRITE writes the masked bits (a mask of zero is all of them) and
answers the value after the write, or fails with DATA_ERROR and the address (01 R8, R12; 10 R333, R341). JOURNAL_READ writes the entries of the asked
range that the journal still holds, 64 bytes each, and answers how many and the journal's index (10 R347); an entry that is not readable is all ones
and makes the completion DONE_FLAGGED (14 R480). ATTEST writes the 2,112 bytes of its
report, signed where the device has its identity and its TRNG is good (15 R512, R513). -/
def Obligations.RegisterCommands : Prop :=
  ∀ (s : State) (h : Header) (pl : List Byte),
    (let p := Machine.packet 0x0004 h pl
     s.Begins p →
      let u := s.begun p
      let a := h.w0.toNat
      (∀ x, h.w1 = 1 → u.peek a = some x → exec (.regRead h pl) s = s.ends p { r0 := x } { } (u.clearRc a)) ∧
      (∀ x y, h.w1 = 2 → u.peek a = some x → u.peek (a + 8) = some y → (u.clearRc a).peek (a + 8) ≠ none →
        exec (.regRead h pl) s = s.ends p { r0 := x, r1 := y } { } ((u.clearRc a).clearRc (a + 8)))) ∧
    (let p := Machine.packet 0x0005 h pl
     s.Begins p →
      let u := s.begun p
      exec (.regWrite h pl) s =
        match u.pokeLogged h.w0.toNat h.w1 (if h.w2 = 0 then BitVec.allOnes 64 else h.w2) s.now (s.causeFor p) with
        | some t => s.ends p { r0 := (t.peek h.w0.toNat).getD 0 } { } t
        | none => s.ends p { status := St.dataError, location := locReg h.w0.toNat } { } u) ∧
    (let p := Machine.packet 0x0050 h pl
     s.Begins p →
      let u := s.begun p
      let j := u.mg.journal
      let ixs := ((List.range h.w1.toNat).map (· + h.w0.toNat)).filter (fun i => decide (i < j.index.toNat ∧ j.index.toNat ≤ i + 4096))
      let e := u.journalEntries ixs
      exec (.journalRead h pl) s =
        (match e.2.2.hbmWrite (fld h.w2 0 40) e.1 with
        | (t, none) => s.ends p { status := if e.2.1 then St.flagged else St.done, r0 := BitVec.ofNat 64 ixs.length, r1 := j.index } { } t
        | (t, some x) => s.ends p { status := St.dataError, location := locHbm x } { } t) ∧
      (s.hbmClean → e.1 = ixs.flatMap (fun i => slice 0 64 (Tbl.get [] (i % 4096) j.ring)) ∧ e.2.1 = false) ∧
      (∀ i is, ixs = i :: is → (u.devRead 3 (i % 4096) 0 64).2 ≠ none → e.1.take 64 = List.replicate 64 0xFF ∧ e.2.1 = true)) ∧
    (let p := Machine.packet 0x0030 h pl
     s.Begins p →
      let u := s.begun p
      let good := u.mg.identityOk && u.mg.trngOk
      let body := u.reportBody (s.command p).rest
      let sig := if good then slice 0 512 (Config.identitySign u.mg.idKey body u.freeIx) else zeros 512
      exec (.attest h pl) s =
        match { u with freeIx := u.freeIx + 1 }.hbmWrite (fld h.w0 0 40) (body ++ sig ++ slice 0 1088 (Config.certificate u.mg.flash.identity)) with
        | (t, none) => s.ends p { status := if good then St.done else St.flagged, r0 := 2112 } { } t
        | (t, some x) => s.ends p { status := St.dataError, location := locHbm x } { } t)

/-- An address inside a block that names no register: a REG_READ answers zero for it, with DONE_FLAGGED, and a REG_WRITE completes with
FAILED_DATA_ERROR, kind REG, and changes nothing (01 R12; 10 R333). -/
def Obligations.UnnamedRegisters : Prop :=
  ∀ (s : State) (h : Header) (pl : List Byte),
    let a := h.w0.toNat
    (let p := Machine.packet 0x0004 h pl
     s.Begins p →
      let u := s.begun p
      (u.peek a = none →
        (h.w1 = 1 → exec (.regRead h pl) s = s.ends p { status := St.flagged, r0 := 0 } { } u) ∧
        (h.w1 = 2 → u.peek (a + 8) = none → exec (.regRead h pl) s = s.ends p { status := St.flagged, r0 := 0, r1 := 0 } { } u) ∧
        (∀ x, h.w1 = 2 → u.peek (a + 8) = some x →
          exec (.regRead h pl) s = s.ends p { status := St.flagged, r0 := 0, r1 := x } { } (u.clearRc (a + 8)))) ∧
      (∀ x, h.w1 = 2 → u.peek a = some x → u.peek (a + 8) = none → (u.clearRc a).peek (a + 8) = none →
        exec (.regRead h pl) s = s.ends p { status := St.flagged, r0 := x, r1 := 0 } { } (u.clearRc a))) ∧
    (let p := Machine.packet 0x0005 h pl
     s.Begins p →
      let u := s.begun p
      u.peek a = none → exec (.regWrite h pl) s = s.ends p { status := St.dataError, location := locReg a } { } u) ∧
    (∀ x : Nat, x < 2 ^ 40 → locReg x = BitVec.ofNat 64 (5 * 2 ^ 60 + x))

/-- SET_RUNG: a tile asked for rung 0 returns to the automatic policy and every other rung closes it; another domain takes the rung as its target (11
R378). SELF_TEST closes its block and waits until it has drained (14 R481). FW_LOAD writes a valid object, and an invalid one ends with DATA_ERROR and
writes nothing (15 R507). ATTACH waits for the timebases to lock, a SOLO device as before (14 R460), DETACH acts 10 µs and ROLE_SWAP 100 µs after acceptance (14 R462, R463).
-/
def Obligations.BlockAndPairCommands : Prop :=
  ∀ (s : State) (h : Header) (pl : List Byte),
    (let p := Machine.packet 0x0011 h pl
     let d := h.w0.toNat
     s.Begins p → ∃ t, exec (.setRung h pl) s = .next t ∧
      (t.dom d).closed = decide (h.w1 ≠ 0) ∧
      (d < 68 → (t.tile d).closed = ((s.tile d).reserved || (s.tile d).selfTest || decide (h.w1 ≠ 0))) ∧
      (68 ≤ d → (t.dom d).target = BitVec.ofNat 3 h.w1.toNat ∧
        (t.dom d).busy = decide ((s.dom d).rung ≠ BitVec.ofNat 3 h.w1.toNat))) ∧
    (let p := Machine.packet 0x0020 h pl
     let d := h.w0.toNat
     s.Begins p → ∃ t, exec (.selfTest h pl) s = .next t ∧
      t.kiln.tests = s.kiln.tests ++ [{ queue := p.q, seq := (s.queue p.q).nextSeq, dom := d, options := h.w1 }] ∧
      (d < 68 → (t.tile d).selfTest = true ∧ (t.tile d).closed = true) ∧
      (s.twin.role = .standby → s.twin.pair = .synced → t.twin.pair = .catchup)) ∧
    (let p := Machine.packet 0x0031 h pl
     s.Begins p →
      let u := s.begun p
      let o := s.outOf p
      exec (.fwLoad h pl) s =
        if u.mg.accepts o.captured then
          .next (u.setMg { u.mg with load := some { queue := p.q, seq := o.seq, object := o.captured, ok := true } })
        else s.ends p { status := St.dataError, location := locHbm p.descAddr } { } u) ∧
    (let p := Machine.packet 0x0040 h pl
     s.Begins p → ∃ t, exec (.attach h pl) s = .next t ∧
      t.twin = { (s.begun p).twin with blocked := false, attachBy := some (p.q, (s.queue p.q).nextSeq), hbMissed := 0, hbSeen := true } ∧
      t.queues = (s.begun p).queues ∧ t.tiles = (s.begun p).tiles ∧ t.hbm = (s.begun p).hbm) ∧
    (let p := Machine.packet 0x0041 h pl
     s.Begins p →
      let u := s.begun p
      exec (.detach h pl) s =
        .next (u.setTwin { u.twin with blocked := false, detachAt := some (s.now + 10000, p.q, (s.queue p.q).nextSeq) })) ∧
    (let p := Machine.packet 0x0042 h pl
     s.Begins p →
      let u := s.begun p
      exec (.roleSwap h pl) s = .next (u.setTwin { u.twin with swapAt := some (s.now + 100000, p.q, (s.queue p.q).nextSeq) }))

/-- The binding commands. BIND_SLOT binds a slot afresh, ARMED with its start count or waiting for LAUNCH, and reconfigures a running one 10 µs later
(07 R224, R225). SWAP_COEF waits for its slots' samples (07 R242). BIND_STANDING reserves the tile, loads the image and gives the mailboxes their
writer (11 R367). BIND_LANE, BIND_PWM and BIND_LINK take the register images of their payload (08 R285, R289; 09 R310). LAUNCH waits for its count (12
R412). Each binding is one journal entry, and domains newly held come to FIRE (11 R377). UNBIND of a push channel, a pair or a link takes effect at
once with its journal entry; that of a slot waits for the slot's next sample boundary, that of a standing binding for its invocation to end; either
object leaves the LAUNCH that names it (10 R577; 07 R224; 12 R413). -/
def Obligations.BindingCommands : Prop :=
  (∀ (s : State) (h : Header) (pl : List Byte),
    let bound := fun (p : Packet) (ix : Nat) (u : State) =>
      s.ends p { } { } (u.journalNow (u.causeOf p.q (s.queue p.q).nextSeq) (objTarget 0x10 ix) none none).fireHeld
    (let p := Machine.packet 0x1001 h pl
     s.Begins p →
      let u := s.begun p
      let n := 8 * fld h.w0 4 4 + fld h.w0 0 3
      let start := h.w1.toNat * 1000000000 + h.w2.toNat
      let regs := (s.command p).words64.take 6
      let bank := (s.command p).words64.drop 6
      ((s.slot n).st = .running →
        exec (.bindSlot h pl) s = s.ends p { } { } (u.updSlot n (fun x =>
          { x with pend := x.pend ++ [{ at_ := s.now + 10000, what := .rebind regs bank, cause := s.causeFor p }] }))) ∧
      ((s.slot n).st ≠ .running →
        let t := u.bindFresh n (if start = 0 then none else some start) regs bank
        exec (.bindSlot h pl) s = bound p n t ∧ (t.slot n).st = .armed ∧ (t.slot n).start = (if start = 0 then none else some start) ∧
          (t.slot n).cfg = regs.getD 0 0 &&& 0x0000FFFF03FF0000 ∧ (t.slot n).dest = regs.getD 3 0 &&& 0x1F3FFF07F0003F07)) ∧
    (let p := Machine.packet 0x1003 h pl
     s.Begins p →
      let u := s.begun p
      let c := max (h.w1.toNat * 1000000000 + h.w2.toNat) (s.now + 10000)
      let t := (swapSlots p).foldl (fun s n => s.updSlot n (fun x => { x with swapAt := some c })) u
      exec (.swapCoef h pl) s =
        .next { t with swaps := t.swaps ++ [{ cause := t.causeOf p.q (s.queue p.q).nextSeq, slots := swapSlots p, at_ := c }] }) ∧
    (let p := Machine.packet 0x1004 h pl
     s.Begins p →
      let u := s.begun p
      let v := u.bindingOf (s.command p)
      let b := u.freeBinding
      ∀ t r, u.phys v.ltile = some t → (u.reserve t).loadBound t v.image = (r, .ok) →
        let w := v.mailboxes.foldl (fun s m => s.updMailbox m (fun x => { x with writer := some b })) (r.setBinding b v)
        exec (.bindStanding h pl) s = s.ends p { r0 := BitVec.ofNat 64 b } { }
          (w.journalNow (w.causeOf p.q (s.queue p.q).nextSeq) (objTarget 0x10 b) none none)) ∧
    (let p := Machine.packet 0x1005 h pl
     s.Begins p →
      let u := s.begun p
      let n := h.w0.toNat
      let t := u.setLane n (u.laneAfter (s.command p))
      let t := if (u.lane n).fOcRaised && !bit (t.lane n).oc 0 then t.ocLower n else t
      exec (.bindLane h pl) s = bound p n (if bit h.w1 8 then t.bindPush (4 * (n / 16) + fld h.w1 0 2) ((s.command p).words64.getD 4 0) else t)) ∧
    (let p := Machine.packet 0x1006 h pl
     s.Begins p →
      let u := s.begun p
      let n := h.w0.toNat
      let w := (s.command p).words64
      let t := u.updPair n (fun x => { x with time := w.getD 1 0 &&& 0xFFFFFFFFFFFF })
      exec (.bindPwm h pl) s = bound p n ((t.shadowWrite s.now n (w.getD 2 0 &&& 0x1FFFFFFFFFFFF)).pairConfigure n (w.getD 0 0 &&& 0x1D))) ∧
    (let p := Machine.packet 0x1007 h pl
     s.Begins p →
      let u := s.begun p
      let w := (s.command p).words64
      exec (.bindLink h pl) s = bound p h.w0.toNat
        (u.bindLinkTo h.w0.toNat (h.w1.toNat * 1000000000 + h.w2.toNat) (w.getD 0 0) (w.getD 1 0) (w.getD 2 0) (w.getD 3 0))) ∧
    (let p := Machine.packet 0x1008 h pl
     s.Begins p →
      let u := s.begun p
      exec (.launch h pl) s = .next (u.setKiln { u.kiln with launches := u.kiln.launches ++
        [{ queue := p.q, seq := (s.queue p.q).nextSeq, at_ := h.w0.toNat * 1000000000 + h.w1.toNat, bindings := launchBindings (s.command p),
           slots := launchSlots (s.command p) }] }))) ∧
  (∀ (s : State) (h : Header) (pl : List Byte),
    let p := Machine.packet 0x1002 h pl
    s.Begins p →
      let u := s.begun p
      let i := fld h.w0 8 16
      let bound := fun (t : State) => s.ends p { } { } (t.journalNow (t.causeOf p.q (s.queue p.q).nextSeq) (objTarget 0x10 i) none none).fireHeld
      (fld h.w0 0 4 = 0 → exec (.unbind h pl) s = s.ends p { } { } ((u.leaveLaunch true i).unbindSlot i (s.causeFor p))) ∧
      (fld h.w0 0 4 = 1 → exec (.unbind h pl) s =
        .next ((u.leaveLaunch false i).updBinding i (fun v => { v with unbindAt := some (s.now, s.causeFor p) }))) ∧
      (fld h.w0 0 4 = 2 → exec (.unbind h pl) s = bound (u.setPush i { })) ∧
      (fld h.w0 0 4 = 3 → exec (.unbind h pl) s = bound (u.pairUnbind i)) ∧
      (fld h.w0 0 4 = 4 → exec (.unbind h pl) s = bound (u.unbindLink i)) ∧
      (∀ (t : State) (b d : Nat), t.grid i = some (b, d) →
        t.unbindSlot i (s.causeFor p) = t.updSlot i (fun x => { x with unbindAt := some (nextAt b d t.now, s.causeFor p) })) ∧
      (∀ (t : State), t.grid i = none →
        t.unbindSlot i (s.causeFor p) = ((t.dropSlot i).leaveSwaps i).journalAt t.now (s.causeFor p) (objTarget 0x10 i) none none))

/-- The jobs on demand enter the ready list with their captured inputs, pinned to the tile on which they were admitted with a deadline (11 R353,
R357); a command whose input data has an uncorrectable burst ends with DATA_ERROR (13 R431). DATA_PUT stores its bytes, DATA_GET starts its stream,
HEARTH_PIN waits for its lines, or writes them back and releases them (10 R341; 13 R439). A STANDBY device holds such work, which reaches it as mirrored commands, and takes
the ACTIVE device's entry (14 R465). -/
def Obligations.WorkCommands : Prop :=
  ∀ (s : State) (h : Header) (pl d : List Byte),
    let job := fun (p : Packet) =>
      let u := s.begun p
      let j := u.jobOf (s.outOf p)
      match ((s.received p).jobAdmission p s.now).join with
      | some b => { j with pin := some b.1, startAt := b.2.1, finishAt := b.2.2 }
      | none => j
    let ready := fun (u : State) (j : Job) => (Host.Outcome.next (u.setKiln { u.kiln with ready := u.kiln.ready ++ [j] }) : Res)
    let runs := fun (p : Packet) (out : Res) =>
      (s.twin.role ≠ .standby → s.Begins p → out = ready (s.begun p) (job p)) ∧
      (∀ x, s.Takes p → (s.accepting p).2.2 = some x →
        out = s.ends p { status := St.dataError, location := x, ext := if bit h.flags 0 then zeros 64 else [] } { tput := (s.outOf p).tput } (s.accepting p).2.1)
    let inputs := fun (p : Packet) (n : Nat) => (fld h.w1 0 40, n) ∈ (s.received p).acceptReads p
    let solve := fun (p : Packet) (out : Res) => runs p out ∧ inputs p (inputBytes p.op (dimsOf h.w0) (settingsOf ((s.received p).settingsBytes p)).blobEn)
    let image := fun (p : Packet) (out : Res) => runs p out ∧ inputs p (fld h.w1 40 24)
    let pk := fun (op : BitVec 16) => Machine.packet op h pl
    solve (pk 0x2001) (exec (.solveQp h pl) s) ∧ solve (pk 0x2002) (exec (.solveLs h pl) s) ∧ solve (pk 0x2003) (exec (.estimate h pl) s) ∧
    image (pk 0x2004) (exec (.infer h pl) s) ∧ image (pk 0x2005) (exec (.temper h pl) s) ∧ image (pk 0x2006) (exec (.runProgram h pl) s) ∧
    (∀ (o : Outst) (a : Nat), s.twin.role = .standby → s.deferred o = none → 0x2000 ≤ o.pkt.op → o.pkt.op < 0x4000 → s.begin_ o a = s) ∧
    (let p := { pk 0x3001 with put := d }
     (s.twin.role ≠ .standby → s.Begins p →
      let bs := (s.outOf p).captured
      (p.desc = false → bs = d) ∧ (p.desc = true → bs = (s.received p).hbmBytes p.descAddr p.descLen) ∧
      exec (.dataPut h pl d) s = match (s.begun p).hbmWrite (fld h.w0 0 40) bs with
        | (t, none) => s.ends p { } { kind := 1, payload := rangeEffect (fld h.w0 0 40) bs } t
        | (t, some x) => s.ends p { status := St.dataError, location := locHbm x } { } t)) ∧
    (let p := pk 0x3002
     s.twin.role ≠ .standby → s.Begins p →
      let u := s.begun p
      exec (.dataGet h pl) s = .next (u.setUsb { u.usb with gets := u.usb.gets ++
        [{ queue := p.q, seq := (s.queue p.q).nextSeq, src := fld h.w0 0 40, len := h.w1.toNat, stream := h.w2.toNat }] })) ∧
    (let p := pk 0x3003
     s.twin.role ≠ .standby → s.Begins p →
      let u := s.begun p
      let ls := u.lines (fld h.w0 0 40) h.w1.toNat
      (h.w2 = 1 → exec (.hearthPin h pl) s =
        .next (u.setHbm { u.hbm with pins := u.hbm.pins ++ [{ queue := p.q, seq := (s.queue p.q).nextSeq, lines := ls }] })) ∧
      (h.w2 = 0 →
        let c := u.cleanLines (ls.filter (fun m => u.hbm.pinned.contains m))
        let t := c.setHbm { c.hbm with pinned := c.hbm.pinned.filter (fun m => !ls.contains m) }
        exec (.hearthPin h pl) s = s.ends p { } { } (if u.hbm.pinned.any (fun m => ls.contains m) then
          t.journalNow (t.causeOf p.q (s.queue p.q).nextSeq) (objTarget 0x30 (ls.headD 0)) none none else t)))

/-- WITNESS_START waits for its effect count, 10 µs after acceptance (12 R416); WITNESS_STOP writes END and answers how many entries there were, ends
a replay, or takes a start back (R417, R421). REPLAY_START saves the counter and its increment for the shadow counter, steps the counter to 1 ms
before the stamp of the log's START, and puts the device into TEST state with the recorder in REPLAY (R419, R422); where the log does not read, it
ends with FAILED_DATA_ERROR and the address (13 R431). -/
def Obligations.RecorderCommands : Prop :=
  ∀ (s : State) (h : Header) (pl : List Byte),
    (let p := Machine.packet 0x4001 h pl
     s.Begins p →
      let u := s.begun p
      exec (.witnessStart h pl) s =
        s.ends p { } { } (u.setWit { u.wit with startAt := some (s.now + 10000, BitVec.ofNat 3 (fld h.w0 1 3), s.causeFor p) })) ∧
    (let p := Machine.packet 0x4002 h pl
     s.Begins p →
      let u := s.begun p
      (s.wit.mode = .off → exec (.witnessStop h pl) s = s.ends p { } { } (u.setWit { u.wit with startAt := none })) ∧
      (s.wit.mode = .replay → exec (.witnessStop h pl) s = s.ends p { } { } (u.replayEnd false)) ∧
      (s.wit.mode = .record →
        let e := u.flushSamples.witness 0x3E 0 s.now []
        ∃ t, exec (.witnessStop h pl) s = s.ends p { r0 := BitVec.ofNat 64 e.wit.entries } { } t ∧
          t.wit.mode = .off ∧ t.wit.recording = false ∧ t.wit.buffer = e.wit.buffer)) ∧
    (let p := Machine.packet 0x4003 h pl
     s.Begins p →
      let r := (s.begun p).hbmRead (fld h.w0 0 40) h.w1.toNat
      (∀ x, r.2.2 = some x → exec (.replayStart h pl) s =
        s.ends p { status := St.dataError, location := locHbm x } { tput := (s.outOf p).tput } r.2.1) ∧
      (r.2.2 = none → ∃ t, exec (.replayStart h pl) s = .next t ∧
      t.wit.mode = .replay ∧ t.wit.log = r.1 ∧ t.wit.logPos = 0 ∧ t.wit.by_ = some (p.q, (s.queue p.q).nextSeq) ∧ t.mg.dev = .test ∧
      t.tb.shadow = some { sec := s.tb.sec, ns := s.tb.ns, frac := s.tb.frac, inc := s.tb.inc } ∧ t.tb.modeEff = 1 ∧
      (∀ e es, logEntries r.1.length r.1 = some (e :: es) → logStamp e < 2 ^ 48 * 1000000000 → t.now = logStamp e - 1000000)))

/-- The writes of named fields are REG_WRITEs: each completes with the value after the write, and a change of the register is one journal entry. The
sixteen pieces of the pending map are sent (10 R350); a tile's conflict counters clear (02 R78); a bound slot takes its mode, manual value and
fallback settings 10 µs later, an unbound one at once (07 R225, R238, R240, R250); a calibration swap waits for its count (08 R286); the software trip
and the latches follow 08 R273 and R291; ETH_CTL and TB_SERVO keep their ranges (16 R538; 12 R425); a warm reset is asked for (15 R491), the health
record is to be emptied (15 R508); the event counters freeze, clear and select (17 R543 to R549). -/
def Obligations.NamedFieldWrites : Prop :=
  ∀ (s : State) (h : Header),
    let ends := fun (p : Packet) (t : State) => s.ends p { r0 := (t.peek p.hdr.w0.toNat).getD 0 } { } t
    let log := fun (p : Packet) (old : W64) (t : State) =>
      t.journalNow (s.causeFor p) (at64 p.hdr.w0.toNat 0) (some (w64Bytes old)) (some (w64Bytes ((t.peek p.hdr.w0.toNat).getD 0)))
    let put := fun (p : Packet) (t : State) =>
      let old := ((s.begun p).peek p.hdr.w0.toNat).getD 0
      ends p (if (t.peek p.hdr.w0.toNat).getD 0 = old then t else log p old t)
    let act := fun (p : Packet) (t : State) => ends p (log p (((s.begun p).peek p.hdr.w0.toNat).getD 0) t)
    let fail := fun (p : Packet) => s.ends p { status := St.dataError, location := locReg p.hdr.w0.toNat } { } (s.begun p)
    let runs := fun (i : Instr) (f : Packet → Prop) => ∀ p, i.packet = some p → i.wf → s.Begins p → f p
    (runs (.usbDbCtlAll h) (fun p => exec (.usbDbCtlAll h) s = ends p (s.begun p).sendAllPieces)) ∧
    (∀ t, runs (.tileCtlBconfClear h t) (fun p => exec (.tileCtlBconfClear h t) s =
      act p ((s.begun p).updTile t (fun x => { x with ctl := x.ctl &&& 6, bconf := [] })))) ∧
    (∀ e sl,
      let n := 8 * e + sl
      let mode := fun (p : Packet) (out : Res) (auto : Bool) (v : W64) =>
        let u := s.begun p
        let k := u.slotOwner n
        let t := u.updSlot k (fun x => { x with auto := auto })
        ((u.slot k).bound = true → out = ends p (t.updSlot k (fun x => { x with pend := x.pend ++ [{ at_ := s.now + 10000, what := .mode v, cause := s.causeFor p }] }))) ∧
        ((u.slot k).bound = false → out = put p (t.updSlot k (fun x => (x.setMode v).1)))
      (∀ auto, runs (.leSlotModeAuto h e sl auto) (fun p => mode p (exec (.leSlotModeAuto h e sl auto) s) auto (at64 (b2n auto) 0))) ∧
      (runs (.leSlotModeFbExit h e sl) (fun p =>
        let auto := ((s.begun p).slot ((s.begun p).slotOwner n)).auto
        mode p (exec (.leSlotModeFbExit h e sl) s) auto (at64 (4 + b2n auto) 0))) ∧
      (runs (.leSlotModeManFromLast h e sl) (fun p => mode p (exec (.leSlotModeManFromLast h e sl) s) false 2)) ∧
      (∀ v, runs (.leSlotManWrite h e sl v) (fun p =>
        let u := s.begun p
        let k := u.slotOwner n
        let t := u.updSlot k (fun x => { x with man := v })
        ((u.slot k).bound = true → exec (.leSlotManWrite h e sl v) s =
          ends p (t.updSlot k (fun x => { x with pend := x.pend ++ [{ at_ := s.now + 10000, what := .man v, cause := s.causeFor p }] }))) ∧
        ((u.slot k).bound = false → exec (.leSlotManWrite h e sl v) s =
          put p (t.updSlot k (fun x => { x with manUse := BitVec.ofNat 32 (fld v 0 32), manTgt := BitVec.ofNat 32 (fld v 32 32) }))))) ∧
      (∀ v, runs (.leSlotFbWrite h e sl v) (fun p =>
        let u := s.begun p
        let k := u.slotOwner n
        let t := u.updSlot k (fun x => { x with fb := v })
        ((u.slot k).bound = true → exec (.leSlotFbWrite h e sl v) s =
          ends p (t.updSlot k (fun x => { x with pend := x.pend ++ [{ at_ := s.now + 10000, what := .fb v, cause := s.causeFor p }] }))) ∧
        ((u.slot k).bound = false → exec (.leSlotFbWrite h e sl v) s = put p (t.updSlot k (fun x => { x with fbUse := v })))))) ∧
    (∀ n v, runs (.snsLaneSwap h n v) (fun p =>
      let u := s.begun p
      let x := u.lane n
      ((x.swapAt.isSome = true → exec (.snsLaneSwap h n v) s = fail p) ∧
       (x.swapAt = none → exec (.snsLaneSwap h n v) s =
        put p (u.setLane n { x with swapAt := some (fld v 0 48 * 1000000000 + x.swapNs.toNat) }))))) ∧
    (∀ raise, runs (.pwmTripSw h raise) (fun p =>
      let u := { s.begun p with tripSw := raise }
      exec (.pwmTripSw h raise) s = put p (if raise then (if (u.tripSrc 81).raised then u else u.raiseTrip 81) else u.lowerTrip 81))) ∧
    (∀ n, runs (.tripLatchClear h n) (fun p =>
      let u := s.begun p
      let t := (u.setTrip n (u.tripSrc n)).settlePairs n
      (u.tripSrc n).filter ≠ 3 → exec (.tripLatchClear h n) s =
        put p (if (t.tripSrc n).raised then t else (t.updTrip n (fun x => { x with latch := false })).settlePairs n))) ∧
    (∀ port v, runs (.ethCtlWrite h port v) (fun p =>
      let w := v &&& (if port = 0 then 0x0FFFFFFFFFFF03F7 else 0x0FFFFFFFFFFF0377)
      exec (.ethCtlWrite h port v) s = if ethCtlGood w then put p ((s.begun p).ethCtl port w).fireHeld else fail p)) ∧
    (∀ v, runs (.tbServoWrite h v) (fun p =>
      let u := s.begun p
      let w := v &&& 0xFFF00000FFFFFFFF
      exec (.tbServoWrite h v) s =
        if fld w 56 4 = 0 ∨ fld w 52 4 = 0 ∨ (fld (u.tb.written ^^^ w) 61 3 ≠ 0 ∧ u.stepAllowed = false) then fail p
        else
          let t := u.setTb { u.tb with servoNext := some w }
          let t := if u.tb.modeEff ≠ 0 ∧ u.twin.role ≠ .standby then t.setTb t.tb.takeWrite else t
          put p (if t.tb.src ≠ u.tb.src then t.selectLeader else t))) ∧
    (runs (.mgResetCtlWarm h) (fun p => exec (.mgResetCtlWarm h) s =
      act p ((s.begun p).setMg { (s.begun p).mg with warmCmd := (s.begun p).mg.warmCmd ++ [(p.q, (s.queue p.q).nextSeq)] }))) ∧
    (runs (.mgResetCtlHealthClear h) (fun p => exec (.mgResetCtlHealthClear h) s =
      act p ((s.begun p).setMg { (s.begun p).mg with healthClear := true }))) ∧
    (∀ fz, runs (.evcCtlFreeze h fz) (fun p => exec (.evcCtlFreeze h fz) s = put p { s.begun p with evcCtl := at64 (b2n fz) 1 })) ∧
    (runs (.evcCtlClearAll h) (fun p => exec (.evcCtlClearAll h) s =
      act p ({ s.begun p with evcCtl := (s.begun p).evcCtl &&& 2 } : State).clearCounters)) ∧
    (∀ n v, runs (.evcSelWrite h none n v) (fun p =>
      let u := s.begun p
      let w := v &&& 0x3FFFF
      exec (.evcSelWrite h none n v) s = if selGood w then put p (u.setCounter n (Counter.select 0x3FBFF w (u.counter n))) else fail p)) ∧
    (∀ t n v, runs (.evcSelWrite h (some t) n v) (fun p =>
      let u := s.begun p
      let w := v &&& 0x1FF
      exec (.evcSelWrite h (some t) n v) s = if tileEventCode (fld w 0 8) then
        put p (u.updTile t (fun x => { x with evc := Tbl.set { } n (Counter.select 0xFF w (Tbl.get { } n x.evc)) x.evc })) else fail p))

/-- A slot has two coefficient banks, and bank of LE_SLOT_STATUS names the one in force. A REG_WRITE of a word of the inactive bank takes effect there
at once, leaves the bank in force, and so the samples, as they were; a write of the bank in force, or of either while a swap is pending, completes
with FAILED_DATA_ERROR and changes nothing (07 R241). -/
def Obligations.CoefficientBanks : Prop :=
  ∀ (s : State) (h : Header) (e sl word : Nat) (bankB : Bool) (v : W64) (p : Packet),
    let i := Instr.leSlotBankWrite h e sl bankB word v
    i.packet = some p → i.wf → s.Begins p →
      let u := s.begun p
      let k := u.slotOwner (8 * e + sl)
      let x := u.slot k
      let a := 0x200000 + 0x10000 * e + 0x1000 * sl
      let put := fun (y : Slot) => if bankB then { y with bankB := Bank.set word v y.bankB } else { y with bankA := Bank.set word v y.bankA }
      let t := u.setSlot k (put x)
      let new := Bank.word (Bank.set word v (if bankB then x.bankB else x.bankA)) word
      (∃ y, u.peek (a + 0x40) = some y ∧ bit y 5 = x.bankSel) ∧
      p.hdr.w0.toNat = a + (if bankB then 0x400 else 0x200) + 8 * word ∧
      u.peek p.hdr.w0.toNat = some (Bank.word (if bankB then x.bankB else x.bankA) word) ∧
      (x.bankSel = bankB ∨ x.swapAt.isSome = true →
        exec i s = s.ends p { status := St.dataError, location := locReg p.hdr.w0.toNat } { } u) ∧
      (x.bankSel ≠ bankB → x.swapAt = none →
        exec i s = s.ends p { r0 := new } { } (if new = Bank.word (if bankB then x.bankB else x.bankA) word then t
          else t.journalNow (s.causeFor p) (at64 p.hdr.w0.toNat 0) (some (w64Bytes (Bank.word (if bankB then x.bankB else x.bankA) word))) (some (w64Bytes new))) ∧
        (t.slot k).bank = x.bank ∧ (t.slot k).swapAt = none ∧ (∀ m, m ≠ k → t.slot m = u.slot m) ∧
        (∀ c d, x.pend = [] → x.paired = false → k ∉ u.wit.snapSlots →
          ((t.computeSample k c d).slot k).staged = ((u.computeSample k c d).slot k).staged ∧
          ((t.computeSample k c d).slot k).chain = ((u.computeSample k c d).slot k).chain))

/-! ## Events of the kiln (11 R353 to R371) -/

/-- JOB_DISPATCH notes the head of the ready list and starts the first entry that can go: a job of a queue that is not stopped, on a tile that is
eligible and idle (R356, R359), unpinned only with its cones in the bucket (R360) and ending before the starts of jobs pinned there; or a runnable
swapped-out context, on such a tile where its remaining budget fits likewise (R365). At the critical level, on a STANDBY device and once a ROLE_SWAP
is accepted nothing is dispatched (R375; 14 R463; 01 R29). The cones are deducted, and the image is placed (R370; 05 R182). REFILL_TICK puts a new budget in force and refills by the derated cap less the reserved rate, up to the depth (R369; 01 R17).
-/
def Obligations.KilnDispatchAndRefill : Prop :=
  (∀ (s : State),
    let u := s.noteHead
    (s.kiln.critical = true ∨ s.twin.role = .standby ∨ s.twin.swapAt.isSome = true → exec .jobDispatch s = .next u) ∧
    (s.kiln.critical = false → s.twin.role ≠ .standby → s.twin.swapAt = none →
      exec .jobDispatch s = .next (match State.pick true false u.readyList u with
        | some (j, p) => (match u.swappedOf j with
          | some e => u.swapIn p e
          | none => u.dispatch j p).noteHead
        | none => u))) ∧
  (∀ (u : State) (l : List Job) (a b : Bool) (j : Job) (p : Nat), State.pick a b l u = some (j, p) →
    j ∈ l ∧
    (u.swappedOf j = none → (u.queue j.queue).stopped = false ∧ u.eligible p j.image = true ∧ (u.tile p).executing = false ∧
      (j.pin = some p ∨ (j.pin = none ∧ u.conesOk j = true ∧ u.fitsBefore p j = true))) ∧
    (∀ e, u.swappedOf j = some e → u.eligible p e.ctx.job.image = true ∧ (u.tile p).executing = false ∧ u.restFits p e = true)) ∧
  (∀ (u : State) (j : Job) (p w : Nat), (u.tile p).freeSlot = some w →
    let v := u.setKiln { u.kiln with level := u.kiln.level - 1000 * (j.cones : Int), ready := u.kiln.ready.erase j }
    let j' := { j with throttled := j.throttled || decide ((v.tile p).clkStep ≠ 0) }
    let c := { (Ctx.fresh j' j'.pkt.words j'.pkt.hdr.w3) with charged := 1000 * j.cones, coils := (v.tile p).restOf j.image }
    let v := ((v.readyTile p).updTile p (fun t =>
      { (t.setSlot w (some (if j.builtin then c.begin_ (u.now + 120) (u.up + 120) else c))) with
        exec1 := decide (w = 1), restCoils := t.restCoils.filter (fun e => !e.1.same j.image) })).event 0x1C3 0 1
    u.dispatch j p = match v.placeImage p j.image with
      | (x, .ok) => x
      | (x, .bad loc) => x.failLoad p w loc) ∧
  (∀ (s : State), ∃ t, exec .refillTick s = .next t ∧
    let cap := match s.kiln.newBudget with
      | some b => b.1
      | none => s.kiln.capMw
    let depth := match s.kiln.newBudget with
      | some b => b.2.1
      | none => s.kiln.depth
    t.kiln.capMw = cap ∧ t.kiln.depth = depth ∧ t.kiln.newBudget = none ∧
    t.kiln.level = min (s.kiln.level + ((cap.toNat * derate s.kiln.tMax.toInt / 10 : Nat) : Int) - (s.reservedRate : Int)) ((depth.toNat * 1000 : Nat) : Int))

/-- The ready list holds each job that is accepted and not yet dispatched, and each runnable swapped-out context, ordered by queue priority, highest
first, then deadline, earliest first and none last, then acceptance stamp, then queue number (11 R358). The kiln takes the list in that order: it
passes over an entry only where the entry cannot go to a tile now, or is an unpinned job behind a starved head (11 R359, R360). CONTEXT_SWAP_IN brings
a context only where no job before it would start on that tile. -/
def Obligations.ReadyListOrder : Prop :=
  (∀ s : State, s.readyList.Perm (s.kiln.ready ++ (s.kiln.swapped.filter (·.runnable)).map (·.ctx.job))) ∧
  (∀ s : State, s.readyList.Pairwise (fun j k =>
    let late := fun (d : Option Nat) (e : Option Nat) => match d, e with
      | some x, some y => decide (y < x)
      | none, some _ => true
      | _, none => false
    k.prio < j.prio ∨ (k.prio = j.prio ∧ (late k.deadline j.deadline = true ∨ (k.deadline = j.deadline ∧
      (j.accept < k.accept ∨ (j.accept = k.accept ∧ j.queue ≤ k.queue))))))) ∧
  (∀ (s : State) (a b : Bool) (l r : List Job) (j : Job) (p : Nat), State.pick a b (l ++ j :: r) s = some (j, p) → j ∉ l →
    ∀ k ∈ l, s.place k = none ∨ (s.swappedOf k = none ∧ k.pin = none)) ∧
  (∀ (s : State) (p : Nat) (l : List Job) (e : Swapped), State.firstFor p l s = some e →
    ∃ a j b, l = a ++ j :: b ∧ s.swappedOf j = some e ∧ s.canHost p e = true ∧
      ∀ k ∈ a, (∀ x, s.swappedOf k = some x → s.canHost p x = false) ∧ (s.swappedOf k = none → s.place k ≠ some p))

/-- BUDGET_WATCHDOG_EXPIRY ends a context that has run its wcet_cycles with FAILED_OVERRUN, unless its deadline has come (05 R184; 06 R210).
CONTEXT_SWITCH runs the other context when it is runnable and none executes, and brings the tile back to FIRE for the one that runs, unless SET_RUNG
holds the tile lower (11 R363, R378). CONTEXT_EVICT: a reserved tile gives up its on-demand contexts and then gets its image (R367); where both contexts have been blocked for longer than block_us, the one whose block began first and that may be evicted makes room for the
first runnable context that no other tile can take (R364). CONTEXT_SWAP_IN brings the first runnable context that may use the tile (R365). -/
def Obligations.ContextEvents : Prop :=
  ∀ (s : State) (t : Nat), t < 68 →
    (let expire := fun (w : Nat) (s : State) => match s.ctx t w with
      | some c => if c.live = true ∧ c.job.deadline.all (fun d => decide (s.now < d)) = true ∧ c.job.image.wcet ≠ 0 ∧ c.job.image.wcet ≤ s.wdCycles t c
          then s.failJob t w St.overrun 0 else s
      | none => s
     exec (.budgetWatchdogExpiry t) s = .next (expire 1 (expire 0 s))) ∧
    (let T := s.tile t
     ((s.dom t).closed = true → (s.dom t).target ≠ 0 → exec (.contextSwitch t) s = .next s) ∧
     ((s.dom t).closed = false ∨ (s.dom t).target = 0 →
       (∀ c, T.slot (1 - T.execSlot) = some c → c.live = true → c.wait = none → T.running = false →
         exec (.contextSwitch t) s = .next (((s.setTile t { T with exec1 := !T.exec1 }).tileEvent t 0x28 1).wake t)) ∧
       (T.running = true → exec (.contextSwitch t) s = .next (s.wake t)) ∧
       (∀ c, T.running = false → T.slot (1 - T.execSlot) = some c → c.live = false ∨ c.wait ≠ none → exec (.contextSwitch t) s = .next s) ∧
       (T.running = false → T.slot (1 - T.execSlot) = none → exec (.contextSwitch t) s = .next s))) ∧
    ((s.tile t).reserved = true → exec (.contextEvict t) s = .next ((s.swapAll t).loadReserved t)) ∧
    ((s.tile t).reserved = false →
      (∀ w, w < 2 → (s.ctx t w = none ∨ ∃ c, s.ctx t w = some c ∧ (c.live = false ∨ c.wait = none ∨ s.now ≤ c.waitSince + 1000 * fld s.kiln.admitCtl 16 16)) →
        exec (.contextEvict t) s = .next s) ∧
      (∀ c0 c1, (s.tile t).ctx0 = some c0 → (s.tile t).ctx1 = some c1 → c0.live = true → c1.live = true → c0.wait ≠ none → c1.wait ≠ none →
        c0.waitSince + 1000 * fld s.kiln.admitCtl 16 16 < s.now → c1.waitSince + 1000 * fld s.kiln.admitCtl 16 16 < s.now →
        ∀ w, ((if c1.waitSince < c0.waitSince then [1, 0] else [0, 1]).filter (fun w => (s.tile t).evictable w)).head? = some w →
        let room := s.setTile t ((s.tile t).setSlot w none)
        match (s.runnable.filter (fun e => room.canHost t e && s.mapped.all (fun q => decide (q = t) || !s.eligible q e.ctx.job.image))).head? with
        | some e => exec (.contextEvict t) s = .next (((s.swapOut t w).event 0x1C7 0 1).swapIn t e)
        | none => exec (.contextEvict t) s = .next s)) ∧
    (s.noDispatch = true → exec (.contextSwapIn t) s = .next s) ∧
    (s.noDispatch = false → match State.firstFor t s.readyList s with
      | some e => exec (.contextSwapIn t) s = .next (s.swapIn t e)
      | none => exec (.contextSwapIn t) s = .next s)

/-- Standing jobs. At its boundary an invocation takes its number, its sequence number and its publish count, 64 ns after its deadline (10 R328; 01
R19); 120 ns later it begins, or fails where the one before still runs (11 R368). At the publish count all mailboxes of the binding take their staged
values together, or are stale (01 R19, R20; 07 R237). An unbound binding is released when its invocation and its publish have ended (R368). At a
deadline a job that no tile has fails with FAILED_OVERRUN, one that had run with its tile, its start, its cones settled and its flags (10 R329; 11
R361, R370), and a context
freezes (06 R210; 11 R357); which offer of a built-in job is the last is an
input. -/
def Obligations.StandingEvents : Prop :=
  ∀ (s : State) (b : Nat),
    (s.binding b = none → exec (.standingBoundary b) s = .next s ∧ exec (.invocationStart b) s = .next s ∧ exec (.mailboxPublish b) s = .next s ∧
      exec (.standingRelease b) s = .next s) ∧
    (∀ v, s.binding b = some v →
      (v.first = none ∨ v.unbindAt.isSome = true ∨ s.now < v.next → exec (.standingBoundary b) s = .next s) ∧
      (∀ p, v.first.isSome = true → v.unbindAt = none → v.next ≤ s.now → v.behind = false → v.awaitImage = none → s.phys v.ltile = some p →
        let e := s.enterInvocation v.cqueue v.tag v.next
        exec (.standingBoundary b) s = .next ((e.2.setBinding b { v with
          boundary := v.next, next := v.next + v.period, inv := v.inv + 1, seq := some e.1, running := true, toStart := true,
          pubs := v.pubs ++ [{ due := v.next + v.deadline + 64, seq := v.inv, qseq := e.1, ended := false, publishes := false, status := 0, staged := [], held := none }] }).rouse p)) ∧
      (v.toStart = false ∨ s.now < v.boundary + 120 → exec (.invocationStart b) s = .next s) ∧
      (v.toStart = true → v.boundary + 120 ≤ s.now →
        (s.invoking b v = true → exec (.invocationStart b) s = .next (s.failInvocation b St.overrun 0)) ∧
        (∀ p w, s.invoking b v = false → s.phys v.ltile = some p → ((s.swapAll p).tile p).slotOf b = some w →
          exec (.invocationStart b) s = .next ((s.swapAll p).beginInvocation b p w v)) ∧
        (∀ p w, s.invoking b v = false → s.phys v.ltile = some p → ((s.swapAll p).tile p).slotOf b = none → ((s.swapAll p).tile p).freeSlot = some w →
          exec (.invocationStart b) s = .next ((s.swapAll p).beginInvocation b p w v))) ∧
      (∀ x rest, v.pubs = x :: rest →
        (s.now < x.due → exec (.mailboxPublish b) s = .next s) ∧
        (x.due ≤ s.now → v.mailboxes.Nodup → ∃ t, exec (.mailboxPublish b) s = .next t ∧
          (∀ m, m ∉ v.mailboxes → t.mailbox m = s.mailbox m) ∧
          (∀ m, m ∈ v.mailboxes → x.ended = true → x.publishes = true →
            (t.mailbox m).value = (if x.staged.any (fun e => decide (e.1 = m)) then Tbl.get 0 m x.staged else (s.mailbox m).value) ∧
            (t.mailbox m).pubs = (x.due, (t.mailbox m).value) :: (s.mailbox m).pubs ∧ (t.mailbox m).pubCount = some x.due ∧ (t.mailbox m).status = x.status ∧
            (t.mailbox m).evals = (x.due, .fresh) :: (s.mailbox m).evals) ∧
          (∀ m, m ∈ v.mailboxes → ¬ (x.ended = true ∧ x.publishes = true) →
            (t.mailbox m).value = (s.mailbox m).value ∧ (t.mailbox m).pubs = (s.mailbox m).pubs ∧ (t.mailbox m).pubCount = (s.mailbox m).pubCount ∧
            (t.mailbox m).evals = (x.due, .stale) :: (s.mailbox m).evals))) ∧
      (v.unbindAt = none ∨ v.pubs ≠ [] ∨ v.toStart = true ∨ s.invoking b v = true → exec (.standingRelease b) s = .next s) ∧
      (∀ u, v.unbindAt = some u → v.pubs = [] → v.toStart = false → s.invoking b v = false → s.phys v.ltile = none →
        let t := v.mailboxes.foldl (fun s m => s.updMailbox m (fun x => { x with writer := none, evals := (s.now, MbEval.released) :: x.evals }))
          (s.dropBinding b).unmappedCheck
        exec (.standingRelease b) s = .next ((t.journalNow u.2 (objTarget 0x10 b) none none).finish u.2.queue u.2.seq St.done)) ∧
      (∀ u p, v.unbindAt = some u → v.pubs = [] → v.toStart = false → s.invoking b v = false → s.phys v.ltile = some p →
        ∃ t, exec (.standingRelease b) s = .next t ∧ (t.tile p).reserved = false ∧ (t.tile p).closed = (s.dom p).shutOut)) ∧
    (∀ p cut, p < 68 → s.wit.mode ≠ .replay →
      let due := fun (j : Job) => j.deadline.any (fun d => decide (d ≤ s.now))
      let freeze := fun (w : Nat) (u : State) => match u.ctx p w with
        | some c => if c.live && due c.job then u.freezeAt p w cut c else u
        | none => u
      let u := freeze 1 (freeze 0 s)
      let ready := (u.kiln.ready.filter due).foldl (fun s j =>
          s.complete j.queue j.seq { status := St.overrun, flags := j.marks, ext := if j.prov then zeros 64 else [] } { tput := j.tput })
        (u.setKiln { u.kiln with ready := u.kiln.ready.filter (fun j => !due j), swapped := u.kiln.swapped.filter (fun e => !due e.ctx.job) })
      exec (.deadlineFreeze p cut) s = .next ((u.kiln.swapped.filter (fun e => due e.ctx.job)).foldl (fun s e =>
          let m := s.settle e.ctx
          m.2.complete e.ctx.job.queue e.ctx.job.seq
            { status := St.overrun, flags := (e.ctx.jobAcc ||| e.ctx.job.marks) &&& 0xFFFF, start := short (e.ctx.started.getD 0), cones := BitVec.ofNat 32 m.1,
              ltile := if e.ctx.started.isNone then 0xFFFF else BitVec.ofNat 16 ((s.logical e.home).getD 0xFFFF),
              ext := if e.ctx.job.prov then zeros 64 else [] } { tput := e.ctx.job.tput }) ready))

/-- At its count a LAUNCH makes that count the first period boundary of each binding it names, and each slot it names RUNNING with that start; it then
completes with DONE. An object unbound before leaves the LAUNCH, which then completes with DONE_FLAGGED (12 R413). -/
def Obligations.LaunchAtItsCount : Prop :=
  ∀ (s : State) (q sq : Nat),
    (s.kiln.launches.find? (fun l => decide (l.queue = q ∧ l.seq = sq)) = none → exec (.launchCount q sq) s = .next s) ∧
    (∀ l, s.kiln.launches.find? (fun l => decide (l.queue = q ∧ l.seq = sq)) = some l →
      (s.now < l.at_ → exec (.launchCount q sq) s = .next s) ∧
      (l.at_ ≤ s.now →
        let t := s.setKiln { s.kiln with launches := s.kiln.launches.filter (fun x => decide (¬ (x.queue = q ∧ x.seq = sq))) }
        let t := l.bindings.foldl (fun s b => s.updBinding b (fun v => { v with first := some l.at_, next := l.at_ })) t
        let t := l.slots.foldl (fun s n => (s.updSlot n (fun x => { x with start := some l.at_ })).slotStart n) t
        let c := t.causeOf q sq
        let u := (l.bindings ++ l.slots).foldl (fun s n => s.journalAt l.at_ c (objTarget 0x10 n) none none) t
        exec (.launchCount q sq) s = .next (u.finish q sq (if l.dropped then St.flagged else St.done)) ∧
        (∀ b v, b ∈ l.bindings → s.binding b = some v → u.binding b = some { v with first := some l.at_, next := l.at_ }) ∧
        (∀ b, b ∉ l.bindings → u.binding b = s.binding b) ∧
        (∀ n, n ∈ l.slots → (s.slot n).st = .armed → (u.slot n).st = .running ∧ (u.slot n).start = some l.at_) ∧
        (∀ n, n ∉ l.slots → u.slot n = s.slot n))) ∧
    (∀ (sl : Bool) (i : Nat) (l : Launch), l ∈ s.kiln.launches → i ∈ (if sl then l.slots else l.bindings) →
      ∃ k ∈ (s.leaveLaunch sl i).kiln.launches, k.queue = l.queue ∧ k.seq = l.seq ∧ k.at_ = l.at_ ∧ k.dropped = true ∧
        k.slots = (if sl then l.slots.filter (fun n => decide (n ≠ i)) else l.slots) ∧
        k.bindings = (if sl then l.bindings else l.bindings.filter (fun n => decide (n ≠ i)))) ∧
    (∀ (h : Header) (pl : List Byte),
      let p := Machine.packet 0x1002 h pl
      let i := fld h.w0 8 16
      s.Begins p →
        (fld h.w0 0 4 = 0 → ∃ u, exec (.unbind h pl) s = .next u ∧ u.kiln.launches = ((s.begun p).leaveLaunch true i).kiln.launches) ∧
        (fld h.w0 0 4 = 1 → ∃ u, exec (.unbind h pl) s = .next u ∧ u.kiln.launches = ((s.begun p).leaveLaunch false i).kiln.launches))

/-! ## Events of power and of failures (11 R372 to R388; 14 R477 to R485) -/

/-- RUNG_REACHED ends a transition that waits for no slot; a tile enters a lower rung once it is quiet, and the twin link is down off FIRE (11 R376,
R382; 16 R532). IDLE_RUNG_STEP moves an idle tile one rung down when its time has passed, and a
closed tile to its rung (R378, R379). WAKE_SLOT lets one wake start (R380). BANK_TRANSITION_DONE gives a bank the state asked for, and what goes OFF
is cleared (R381, R382; 02 R73, R74). THERMAL_READING records the sensors, steps the clocks down at 100 °C with effect 100 ns later, when the jobs
that the tile holds are throttled (R361, R373), and at the critical threshold takes the critical action (R372 to R375). -/
def Obligations.PowerEvents : Prop :=
  (∀ (s : State) (d : Nat), d < 116 →
    let quiet : Prop := d < 68 → (s.dom d).rung.toNat < (s.dom d).target.toNat →
      (s.tile d).descs = [] ∧ (∀ e ∈ (s.tile d).sb, e.2.valid = false) ∧ ∀ b, b < 40 → (s.tile d).inFlight b = 0
    ((s.dom d).busy = false ∨ (s.dom d).waiting = true ∨ ¬ quiet → exec (.rungReached d) s = .next s) ∧
    ((s.dom d).busy = true → (s.dom d).waiting = false → quiet → ∃ t, exec (.rungReached d) s = .next t ∧ (t.dom d).busy = false ∧ (t.dom d).rung = (s.dom d).target ∧
      (∀ e, e ≠ d → t.dom e = s.dom e) ∧ t.kiln = s.kiln ∧
      (d = 105 → t.twin.linkState = if (s.dom d).target ≠ 0 then 0 else if s.twin.linkState = 0 then 1 else s.twin.linkState) ∧
      (d < 68 → (t.tile d).mem = ((s.changeRung d (s.dom d).rung.toNat (s.dom d).target.toNat).tile d).mem))) ∧
  (∀ (s : State) (t : Nat), t < 68 →
    ((s.dom t).closed = true → exec (.idleRungStep t) s = .next (s.settleRung t)) ∧
    ((s.dom t).closed = false →
      ((s.tile t).failed = true ∨ (s.tile t).executing = true ∨ (s.dom t).busy = true ∨ (∃ j ∈ s.kiln.ready, j.pin = some t) →
        exec (.idleRungStep t) s = .next s) ∧
      ((s.tile t).failed = false → (s.tile t).executing = false → (s.dom t).busy = false → (∀ j ∈ s.kiln.ready, j.pin ≠ some t) →
        (s.dom t).rung = 0 → fld s.kiln.idle 0 16 ≠ 0 →
        (let since := (s.tile t).idleFrom
         (since + fld s.kiln.idle 0 16 ≤ s.now → exec (.idleRungStep t) s = .next (s.moveDom t 1)))))) ∧
  (∀ (s : State),
    (s.nextWake = none → exec .wakeSlot s = .next s) ∧
    (∀ w, s.nextWake = some w → w < 200 → ∃ t, exec .wakeSlot s = .next t ∧ (t.dom w).waiting = false ∧ (t.dom w).rung = (s.dom w).rung ∧
      t.kiln.wakes = s.kiln.wakes.filter (fun x => decide (x ≠ w)))) ∧
  (∀ (s : State) (t bank : Nat), t < 68 → bank < 40 →
    ((s.tile t).bankReq.find? (fun r => decide (r.1 = bank)) = none → exec (.bankTransitionDone t bank) s = .next (s.updTile t id)) ∧
    (∀ r, (s.tile t).bankReq.find? (fun r => decide (r.1 = bank)) = some r → (s.tile t).bank bank = .moving → ∃ u,
      exec (.bankTransitionDone t bank) s = .next u ∧ (u.tile t).bankReq = dropSame bank r.2 (s.tile t).bankReq ∧
      ((u.tile t).bank bank = r.2 ∨ (u.tile t).bank bank = .moving) ∧
      (r.2 ≠ .off → (u.tile t).mem = (s.tile t).mem))) ∧
  (∀ (s : State) (ts : List Int), ∃ t, exec (.thermalReading ts) s = .next t ∧
    t.kiln.temps = ts ∧ t.kiln.tMax = BitVec.ofInt 8 (hottest ts).1 ∧ t.kiln.tTile = BitVec.ofNat 7 (hottest ts).2 ∧
    t.hbm.stackTemp = ts.getD 68 s.hbm.stackTemp ∧
    (s.kiln.critical = false → t.kiln.critical = decide ((hottest ts).1 ≥ critTemp)) ∧
    (s.kiln.critical = false → s.kiln.hotSince = none → 100 ≤ (hottest ts).1 → (hottest ts).1 < critTemp →
      ∀ p, p < 68 → (s.tile p).reserved = false → (s.tile p).failed = false → s.stepGoal p = 0 →
        t.stepGoal p = 1 ∧ ((s.tile p).clkStep = 0 → (p, s.now + 100, 1) ∈ t.kiln.stepsDue))) ∧
  (∀ (s : State) (p : Nat) (c : BitVec 2), (s.tile p).clkStep ≠ c → ((s.takeStep p c).tile p).clkStep = c ∧
    ∀ w x, s.ctx p w = some x → x.live = true → c ≠ 0 → ((s.takeStep p c).ctx p w).any (fun y => y.job.throttled) = true)

/-- UNIT_FAILURE: a tile that fails is recorded, a spare takes its logical tile, ALERT_N is asserted and the health record keeps it (14 R477, R478; 15
R508); loop engines, sense groups and pseudo-channels are recorded likewise (R477, R479; 13 R434). SELF_TEST_RUN tests a block that has drained,
compares the signature and completes the SELF_TEST and the commands that waited (R481 to R485). -/
def Obligations.FailureEvents : Prop :=
  ∀ (s : State),
    (∀ n, n < 68 →
      ((s.tile n).failed = true → exec (.unitFailure .tile n) s = .next s) ∧
      ((s.tile n).failed = false → ∃ t, exec (.unitFailure .tile n) s = .next t ∧
        (t.tile n).failed = true ∧ t.mg.unitFault = true ∧ .unit ∈ t.mg.alerts ∧ n ∈ t.mg.flash.health.tiles)) ∧
    (∀ n, n < 16 →
      (n ∈ s.mg.leFailed → exec (.unitFailure .loopEngine n) s = .next s) ∧
      (n ∉ s.mg.leFailed → ∃ t, exec (.unitFailure .loopEngine n) s = .next t ∧
        t.mg.leFailed = s.mg.leFailed ++ [n] ∧ t.mg.unitFault = true ∧ .unit ∈ t.mg.alerts ∧ n ∈ t.mg.flash.health.engines)) ∧
    (∀ n, n < 4 →
      (n ∈ s.mg.sgFailed → exec (.unitFailure .senseGroup n) s = .next s) ∧
      (n ∉ s.mg.sgFailed → ∃ t, exec (.unitFailure .senseGroup n) s = .next t ∧
        t.mg.sgFailed = s.mg.sgFailed ++ [n] ∧ t.mg.unitFault = true ∧ .unit ∈ t.mg.alerts ∧ n ∈ t.mg.flash.health.groups)) ∧
    (∀ n, n < 32 →
      ((s.pc n).failed = true → exec (.unitFailure .pseudoChannel n) s = .next s) ∧
      ((s.pc n).failed = false → s.twin.pair ≠ .none → s.hbm.losing = false → ∃ t, exec (.unitFailure .pseudoChannel n) s = .next t ∧
        (t.pc n).failed = true ∧ t.mg.unitFault = true ∧ .pseudoChannel ∈ t.mg.alerts ∧ n ∈ t.mg.flash.health.pcs ∧ t.twin.role = .solo) ∧
      ((s.pc n).failed = false → s.twin.pair = .none → ∃ t : State, exec (.unitFailure .pseudoChannel n) s = .next t.loseInputs ∧
        (t.pc n).failed = true ∧ t.mg.unitFault = true ∧ .pseudoChannel ∈ t.mg.alerts ∧ n ∈ t.mg.flash.health.pcs)) ∧
    (∀ d sig, d < 116 →
      (s.testOf d = none → exec (.selfTestRun d sig) s = .next s) ∧
      (∀ k, s.testOf d = some k →
        (s.blockDrained d = false → exec (.selfTestRun d sig) s = .next s) ∧
        (s.blockDrained d = true →
          let t := s.setKiln { s.kiln with tests := s.kiln.tests.filter (fun x => decide (x.dom ≠ k.dom)) }
          let sel := BitVec.ofNat 2 (if fld k.options 0 2 = 0 then 3 else fld k.options 0 2)
          let ok := decide (sig = Config.misr ((testKind k.dom).getD 0) sel)
          let run := if s.mg.avsIn = false ∨ 1 < (s.dom d).rung.toNat then (t.reopen k).complete k.queue k.seq { status := St.flagged, r1 := 0x100 } { }
            else
              let u := (t.reopen k).behind k.dom
              (if ok = false ∧ bit k.options 3 = true then u.markFailed k.dom else u).complete k.queue k.seq
                { status := if ok then St.done else St.flagged, r0 := sig, r1 := if ok then 1 else 0 } { }
          exec (.selfTestRun d sig) s = .next (k.waits.foldl (fun s w => match s.outstOf w.1 w.2 with
            | some o => s.begin_ o o.accept
            | none => s) run).catchupEnd)))

/-! ## Events of the stores and of HBM (02 R45 to R71; 13 R430 to R448) -/

/-- A push that its coil does not take is refused and counted (02 R69, R70); one in its sequence turn whose place is free is written at the tail,
which moves on (R65, R71); one out of its turn waits in the buffer of 16 (13 R446); one at a bank that no request turns ON has no effect, and the job
whose coil it is ends with FAILED_POWER (05 R174; 11 R383). A remote atomic add is refused by a coil of a STRICT job, closed,
without receive or acceptance, or too small, and else adds word by word, after the elements of the coil that arrived before it; one that meets an uncorrectable word writes nothing and the job that owns the
coil ends with its location (13 R447, R448; 02 R54). A row between two stores of the tile copies its bytes, and a
descriptor whose last row is written retires (02 R45 to R48); off FIRE nothing moves (11 R376). The store scrubber corrects a single-bit error and logs what it cannot correct (R55).
The patrol scrubber does the same for HBM, a burst once a pass where no request waits for its bank (13 R432), and the sixteenth uncorrectable burst
of a pseudo-channel within 1 s fails it (R434); a bank is refreshed (R433); a pin loads its absent lines and ends when all are resident (R439; a line
that does not load ends it, log entry 207); a prefetch is dropped after 5 µs (R442); classes 2 to 4 move to class 1 after 20 µs (R443). A DATA_GET
ends with its bytes, or with the first byte that cannot be corrected (10 R341). A read that meets no error succeeds. -/
def Obligations.StoreEvents : Prop :=
  (∀ (s : State) (t coil : Nat) (src : PushSrc) (prod : Nat) (n6 : BitVec 6) (d : List Byte), t < 68 → coil < 32 →
    let T := s.tile t
    let c := T.coil coil
    let e : RxElem := { coil := coil, src := src, prod := prod, n6 := n6, data := d }
    let k := rxKey coil src prod
    (s.kiln.swapped.any (awaits t e) = false → c.refuses src d.length = true → exec (.receivePush t coil src prod n6 d) s =
      .next (((s.setTile t (T.setCoil coil { c with refused := satAdd c.refused 1 })).tileEvent t 0x21 1).failDoomed t)) ∧
    (c.isOpen = true → c.refuses src d.length = false → Tbl.get 0 k T.rxNext = n6 → c.full = false → s.orderTurn t coil src prod = true →
      T.rxBusy t coil c.store (c.base + c.tail) c.elem = false →
      (T.on c.store (c.base + c.tail) c.elem = false → T.dark c.store (c.base + c.tail) c.elem = true → ∀ w x, T.coilOwner coil = some w → T.slot w = some x →
        let y := T.setSlot w (some { x with doomed := some (St.power, locStore t c.store (c.base + c.tail)) })
        exec (.receivePush t coil src prod n6 d) s =
          .next (((s.setTile t { y with rxNext := Tbl.set 0 k (n6 + 1) y.rxNext }).rxDrain t 16).failDoomed t)) ∧
      (T.on c.store (c.base + c.tail) c.elem = true →
      let u := (((s.storeWrite t c.store (c.base + c.tail) d).updTile t (fun T =>
        ({ (T.setCoil coil c.pushed) with rxNext := Tbl.set 0 k (n6 + 1) (T.setCoil coil c.pushed).rxNext }).wake)).tileEvent t 0x20 1).coilOrder t coil src prod
      exec (.receivePush t coil src prod n6 d) s = .next ((u.rxDrain t 16).failDoomed t))) ∧
    (c.isOpen = true → c.refuses src d.length = false → Tbl.get 0 k T.rxNext ≠ n6 → T.rx.length < 16 →
      exec (.receivePush t coil src prod n6 d) s = .next ((s.setTile t { T with rx := T.rx ++ [e] }).failDoomed t))) ∧
  (∀ (s : State) (t coil word : Nat) (fp : Bool) (ws : List W32), t < 68 → coil < 32 →
    let T := s.tile t
    let c := T.coil coil
    let off := c.base + 4 * word
    let done := fun (u : State) => (Host.Outcome.next (u.failDoomed t) : Res)
    (c.isOpen = false ∨ c.receive = false ∨ bit c.accept 1 = false ∨ c.size < 4 * word + 4 * ws.length →
      exec (.atomicAdd t coil word fp ws) s =
        done (((s.setTile t (T.setCoil coil { c with refused := satAdd c.refused 1 })).tileEvent t 0x21 1).event 0x243 (t / 17 * 2) 1)) ∧
    (∀ w x, T.coilOwner coil = some w → T.slot w = some x →
      (x.job.tput = false → exec (.atomicAdd t coil word fp ws) s =
        done (((s.setTile t (T.setCoil coil { c with refused := satAdd c.refused 1 })).tileEvent t 0x21 1).event 0x243 (t / 17 * 2) 1)) ∧
      (x.job.tput = true → c.isOpen = true → c.receive = true → bit c.accept 1 = true → 4 * word + 4 * ws.length ≤ c.size →
        let held := T.rx.any (fun e => decide (e.coil = coil)) || T.rxBusy t coil c.store off (4 * ws.length)
        (held = true ∨ (T.on c.store off (4 * ws.length) = false ∧ T.dark c.store off (4 * ws.length) = false) →
          exec (.atomicAdd t coil word fp ws) s = done s) ∧
        (held = false → T.on c.store off (4 * ws.length) = false → T.dark c.store off (4 * ws.length) = true →
          exec (.atomicAdd t coil word fp ws) s = done (s.updCtx t w (fun y => { y with doomed := some (St.power, locStore t c.store off) }))) ∧
        (∀ o, held = false → T.on c.store off (4 * ws.length) = true →
          (s.storeRead t 5 c.store off (4 * ws.length)).2.2 = some o →
          exec (.atomicAdd t coil word fp ws) s = done ((s.storeRead t 5 c.store off (4 * ws.length)).2.1.updCtx t w (fun y =>
            { y with doomed := some (St.dataError, locStore t c.store o) }))) ∧
        (held = false → T.on c.store off (4 * ws.length) = true → T.upsets c.store off (4 * ws.length) = [] →
          let raw := Mem.bytes (storeBase c.store + off) (4 * ws.length) T.mem
          let rs := (((List.range ws.length).map (fun k => w32At (4 * k) raw)).zip ws).map (fun y => addWord fp y.1 y.2)
          exec (.atomicAdd t coil word fp ws) s = done (((s.storeWrite t c.store off (rs.flatMap (fun y => w32Bytes y.1))).updCtx t w (fun y =>
            { y with jobAcc := y.jobAcc ||| rs.foldl (fun a z => a ||| z.2) 0 })).event 0x242 (t / 17 * 2) 1))))) ∧
  (∀ (s : State) (t : Nat), (∀ w x, s.ctx t w = some x → x.doomed = none) → s.failDoomed t = s) ∧
  (∀ (s : State) (t : Nat) (x : Ctx) (l : Byte × W64), (∀ y, s.ctx t 0 = some y → y.doomed = none) → s.ctx t 1 = some x → x.doomed = some l →
    s.failDoomed t = s.failJob t 1 l.1 l.2) ∧
  (∀ (s : State) (p q : Nat) (d : Desc) (i a b x y : Nat) (c : Ctx), d.srcIsCoil = false → d.toCoil = false → bit d.attr 0 = false →
    sideOf p (d.srcAt i) = .own a x → sideOf p (d.dstAt i) = .own b y → (s.tile p).offBank a x d.rowBytes = none → (s.tile p).upsets a x d.rowBytes = [] →
    s.ctx p d.slot = some c → c.mayWrite b y d.rowBytes = true → (s.tile p).offBank b y d.rowBytes = none →
    s.dmaRow p q d i = ((s.ownWrite p d.slot b y (Mem.bytes (storeBase a + x) d.rowBytes (s.tile p).mem)).updTile p Tile.wake, .ok)) ∧
  (∀ (s : State) (t q : Nat), t < 68 → q < 16 →
    let v := Tbl.get { } q (s.tile t).dma
    (v.descs = [] ∨ (s.dom t).rung ≠ 0 → exec (.dmaDescriptorDone t q) s = .next s) ∧
    (∀ d rest, v.descs = d :: rest → (s.dom t).rung = 0 →
      let adds := fun (u : State) => if d.add then u.failDoomed d.dstTile else u
      (d.active = false → exec (.dmaDescriptorDone t q) s = .next (adds s)) ∧
      (∀ u i, d.active = true → bit d.w2 47 = false → s.dmaRows t q d (d.rows - d.row) d.row = (u, i, .ok) →
        let v' := if bit d.w2 46 then { v with descs := rest, doneEvent := true, doneTag := BitVec.ofNat 8 (fld d.w3 32 8) } else { v with descs := rest }
        exec (.dmaDescriptorDone t q) s = .next ((adds ((u.updTile t (fun T =>
          ({ (T.sbRelease d.no) with dma := Tbl.set { } q v' T.dma }).activateAll t)).served t d.no)).rxDrain t 16)) ∧
      (∀ u i st loc, d.active = true → s.dmaRows t q d (d.rows - d.row) d.row = (u, i, .bad st loc) →
        exec (.dmaDescriptorDone t q) s = .next (u.failJob t d.slot st loc)))) ∧
  (∀ (s : State) (t store off : Nat), t < 68 →
    let T := s.tile t
    let w := off / 4 * 4
    (bit T.ctl 1 = false ∨ inStore store w 4 = false ∨ T.on store w 4 = false ∨ T.upsets store w 4 = [] →
      exec (.storeScrub t store off) s = .next s) ∧
    (∀ e rest, bit T.ctl 1 = true → inStore store w 4 = true → T.on store w 4 = true → T.upsets store w 4 = e :: rest →
      (correctable (syndrome e.2) = true → ∃ u, exec (.storeScrub t store off) s = .next u ∧ (u.tile t).eccCor = satAdd T.eccCor 1 ∧
        (u.tile t).mem = Mem.store (storeBase store + w) (w32Bytes (BitVec.ofNat 32 (leNat (Mem.bytes (storeBase store + w) 4 T.mem)) ^^^ residual e.2)) T.mem) ∧
      (correctable (syndrome e.2) = false → ∃ u, exec (.storeScrub t store off) s = .next u ∧ (u.tile t).eccUnc = satAdd T.eccUnc 1 ∧
        (u.tile t).eccValid = true ∧ (u.tile t).mem = T.mem ∧
        (u.tile t).eccLog = if T.eccValid then T.eccLog else eccEntry (syndrome e.2) 6 store e.1))) ∧
  (∀ (s : State) (a : Nat),
    let b := a / 32 * 32
    let c := s.pc (s.pcOf b)
    let anew := decide (c.passAt + 3600000000000 * fld s.hbm.ctl 8 8 ≤ s.up)
    let many : Prop := 15 ≤ c.uncAt.length ∧ s.up ≤ c.uncAt.getD 14 0 + 1000000000
    (bit s.hbm.ctl 0 = false ∨ b < hbmLo ∨ hbmHi ≤ b ∨ c.mapped = false ∨ s.bankWaits b = true ∨
      (anew = false ∧ c.scrubbed.any (fun x => decide (b ≤ x)) = true) → exec (.hbmScrub a) s = .next s) ∧
    (bit s.hbm.ctl 0 = true → hbmLo ≤ b → b < hbmHi → c.mapped = true → s.bankWaits b = false →
      (anew = true ∨ c.scrubbed.all (fun x => decide (x < b)) = true) →
      (Tbl.get 0 b s.hbm.upset = 0 → ∃ t, exec (.hbmScrub a) s = .next t ∧ t.hbm.upset = s.hbm.upset ∧ t.hbm.mem = s.hbm.mem ∧
        t.pc (s.pcOf b) = { c with scrubbed := some b, passAt := if anew then s.up else c.passAt } ∧ ∀ n, n ≠ s.pcOf b → t.pc n = s.pc n) ∧
      (Tbl.get 0 b s.hbm.upset = 2 → many → ∃ t, exec (.hbmScrub a) s = .next t ∧ (t.pc (s.pcOf b)).failed = true) ∧
      (Tbl.get 0 b s.hbm.upset = 1 → ∃ t, exec (.hbmScrub a) s = .next t ∧ t.hbm.upset = Tbl.erase b s.hbm.upset ∧
        (t.pc (s.pcOf b)).corrected = satAdd (s.pc (s.pcOf b)).corrected 1 ∧ t.hbm.mem = s.hbm.mem) ∧
      (Tbl.get 0 b s.hbm.upset = 2 → ¬ many → ∃ t, exec (.hbmScrub a) s = .next t ∧ t.hbm.upset = s.hbm.upset ∧
        (t.pc (s.pcOf b)).uncorrected = satAdd (s.pc (s.pcOf b)).uncorrected 1 ∧ t.hbm.mem = s.hbm.mem ∧ t.hbm.logValid = true ∧
        t.hbm.logAddr = if s.hbm.logValid then s.hbm.logAddr else BitVec.ofNat 40 b))) ∧
  (∀ (s : State) (p bank : Nat), p < 32 → bank < 32 → ∃ t, exec (.hbmRefresh p bank) s = .next t ∧
    Tbl.get 0 bank (t.pc p).refreshed = s.up ∧ (t.pc p).refresh2x = decide (s.hbm.stackTemp > 85) ∧ (∀ n, n ≠ p → t.pc n = s.pc n)) ∧
  (∀ (s : State) (q sq : Nat),
    (s.hbm.pins.find? (fun p => decide (p.queue = q ∧ p.seq = sq)) = none → exec (.hearthPinDone q sq) s = .next s) ∧
    (∀ p, s.hbm.pins.find? (fun p => decide (p.queue = q ∧ p.seq = sq)) = some p → p.lines.filter (fun m => !s.hbm.pinned.contains m) = [] →
      exec (.hearthPinDone q sq) s =
        .next ((s.setHbm { s.hbm with pins := s.hbm.pins.filter (fun x => decide (¬ (x.queue = q ∧ x.seq = sq))) }).finish q sq St.done)) ∧
    (∀ p, s.hbm.pins.find? (fun p => decide (p.queue = q ∧ p.seq = sq)) = some p → p.lines.filter (fun m => !s.hbm.pinned.contains m) ≠ [] →
      (s.outstOf q sq).isSome = true →
      let new := p.lines.filter (fun m => !s.hbm.pinned.contains m)
      let u := s.setHbm { s.hbm with pins := s.hbm.pins.filter (fun x => decide (¬ (x.queue = q ∧ x.seq = sq))) }
      let r := u.useLines 0 false false (new.map (fun m => u.lineAddr m))
      let t := r.1.setHbm { r.1.hbm with pinned := r.1.hbm.pinned ++ new }
      (r.2 = none → exec (.hearthPinDone q sq) s =
        .next ((t.journalNow (t.causeOf q sq) (objTarget 0x30 (p.lines.headD 0)) none none).finish q sq St.done)) ∧
      (∀ x, r.2 = some x → exec (.hearthPinDone q sq) s = .next (r.1.complete q sq { status := St.dataError, location := locHbm x } { })))) ∧
  (∀ (s : State) (rq : Nat),
    (s.hbm.waiting.find? (fun r => decide (r.id = rq)) = none → exec (.prefetchDropped rq) s = .next s ∧ exec (.agePromotion rq) s = .next s) ∧
    (∀ r, s.hbm.waiting.find? (fun r => decide (r.id = rq)) = some r →
      (r.pf = false ∨ s.up < r.since + 5000 → exec (.prefetchDropped rq) s = .next s) ∧
      (r.pf = true → r.since + 5000 ≤ s.up → exec (.prefetchDropped rq) s = .next ((s.setHbm { s.hbm with
        waiting := s.hbm.waiting.filter (fun x => decide (x.id ≠ rq)), pfDropped := satAdd s.hbm.pfDropped 1 }).event 0x20C (s.sliceAt r.addr) 1)) ∧
      (r.cls < 2 ∨ s.up < r.since + 20000 → exec (.agePromotion rq) s = .next s) ∧
      (2 ≤ r.cls → r.since + 20000 ≤ s.up → exec (.agePromotion rq) s = .next ((s.setHbm { s.hbm with
        waiting := s.hbm.waiting.map (fun x => if x.id = rq then { x with cls := 1, deadline := x.arrival } else x) }).event 0x20D (s.sliceAt r.addr) 1)))) ∧
  (∀ (s : State) (q sq : Nat),
    (s.usb.gets.find? (fun g => decide (g.queue = q ∧ g.seq = sq)) = none ∨ s.usb.u3 = true → exec (.dataGetDone q sq) s = .next s) ∧
    (∀ g, s.usb.gets.find? (fun g => decide (g.queue = q ∧ g.seq = sq)) = some g → s.usb.u3 = false →
      let r := (s.setUsb { s.usb with gets := s.usb.gets.filter (fun x => decide (¬ (x.queue = q ∧ x.seq = sq))) }).hbmRead g.src g.len
      (r.2.2 = none →
        let t := r.2.1.setUsb { r.2.1.usb with ep2data := r.2.1.usb.ep2data ++ [(g.stream, r.1)] }
        exec (.dataGetDone q sq) s = .next ((t.event 0x281 0 1).complete q sq { r0 := BitVec.ofNat 64 g.len } { })) ∧
      (∀ x, r.2.2 = some x → exec (.dataGetDone q sq) s = .next (r.2.1.complete q sq { status := St.dataError, location := locHbm x } { })))) ∧
  (∀ (s : State) (a n : Nat), s.hbmClean → (s.hbmRead a n).1 = s.hbmBytes a n ∧ (s.hbmRead a n).2.2 = none ∧ (s.hbmRead a n).2.1.hbmClean)

/-! ## Events of the loop slots and of the lanes (07; 08) -/

/-- A bound slot runs from its start count (07 R224). At a due phase the sample is computed from its inputs, or is late when an input is missing or
the commit cannot be met (R235), or the slot is removed where an UNBIND asked for it (R224). A computed sample runs the chain and stages its output
for the commit count (R227). At the commit count equal outputs are written and differing ones withheld (R245), and a second mismatch in a row fails
the pair (R246). A loop-state shadow gives a STANDBY slot its state where it differs (14 R473). -/
def Obligations.LoopEvents : Prop :=
  ∀ (s : State) (e sl : Nat), e < 16 → sl < 8 →
    let n := slotIx e sl
    let x := s.slot n
    (x.st ≠ .armed ∨ x.start = none → exec (.slotStart e sl) s = .next s) ∧
    (∀ c, x.st = .armed → x.start = some c →
      (s.now < c → exec (.slotStart e sl) s = .next s) ∧
      (c ≤ s.now → exec (.slotStart e sl) s = .next (s.setSlot n { x with st := .running, lastEval := c - 1 }))) ∧
    (s.duePhase n = none → x.unbindAt = none → exec (.slotSample e sl) s = .next s) ∧
    (∀ c, s.duePhase n = some c →
      (∀ a k, x.unbindAt = some (a, k) → a ≤ c →
        exec (.slotSample e sl) s = .next (((s.dropSlot n).leaveSwaps n).journalAt a k (objTarget 0x10 n) none none)) ∧
      (x.unbindAt.all (fun u => decide (c < u.1)) = true →
        (∀ v, s.inputsAt n c = some v → exec (.slotSample e sl) s = .next (s.computeSample n c v)) ∧
        (s.inputsAt n c = none → s.isLate n c = false → exec (.slotSample e sl) s = .next s) ∧
        (s.inputsAt n c = none → s.isLate n c = true → exec (.slotSample e sl) s =
          .next ((s.setSlot n { x with phaseDone := some c, flags := x.flags ||| Lf.late, late := satAdd x.late 1 }).event 0x101 (n / 8) 1)))) ∧
    (∀ c v, x.pend = [] → x.swapAt = none → n ∉ s.wit.snapSlots → x.paired = false →
      let t := s.target n c
      let y := t.2.1
      let o := runChain y.cfg y.bank y.chain y.atHi y.atLo
        { x := v.1, d := v.2.1, f := v.2.2, tgt := t.1, man := y.manUse, manual := !y.autoEff, preset := false, first := !y.computed }
      ((s.computeSample n c v).slot n = { y with
        chain := o.ch, lastOut := o.out, atHi := o.atHi, atLo := o.atLo, flags := y.flags ||| o.fl, phaseDone := some c, computed := true, shadowCrc := none,
        staged := some { at_ := c + y.commitDly, phase := c, out := o.out, copy := none, stateMis := false } }) ∧
      (∀ m, m ≠ n → (s.computeSample n c v).slot m = s.slot m) ∧
      (x.targetSrc = 0 → t = (x.manTgt, { x with lastEval := c }, 0, 0))) ∧
    (x.staged = none → exec (.slotCommit e sl) s = .next s) ∧
    (∀ g, x.staged = some g →
      (s.now < g.at_ → exec (.slotCommit e sl) s = .next s) ∧
      (g.at_ ≤ s.now → g.copy.all (fun o => decide (o = g.out)) = true → g.stateMis = false → x.stopped = false →
        exec (.slotCommit e sl) s = .next (((s.setSlot n { x with staged := none, misRun := 0 }).writeOut n g).sendShadow n)) ∧
      (∀ o, g.at_ ≤ s.now → g.copy = some o → o ≠ g.out →
        let y := { x with staged := none, misRun := x.misRun + 1, flags := x.flags ||| Lf.pairMismatch, pairMis := satAdd x.pairMis 1 }
        (x.misRun ≠ 1 → exec (.slotCommit e sl) s = .next (((s.setSlot n y).event 0x107 (n / 8) 1).sendShadow n)) ∧
        (x.misRun = 1 → exec (.slotCommit e sl) s = .next ((((s.setSlot n y).event 0x107 (n / 8) 1).pairFail n).sendShadow n)))) ∧
    (∀ image crc,
      (x.st ≠ .running ∨ s.twin.role ≠ .standby ∨ crc32c image ≠ crc → exec (.loopShadowReceived e sl image crc) s = .next s.catchupEnd) ∧
      (x.st = .running → s.twin.role = .standby → crc32c image = crc → n ∉ s.twin.shadowDone →
        let t := (s.setSlot n { x with shadowCrc := some crc }).setTwin { s.twin with shadowDone := n :: s.twin.shadowDone }
        (crc32c (shadowImage x.chain x.lastOut) = crc → exec (.loopShadowReceived e sl image crc) s = .next t.catchupEnd) ∧
        (crc32c (shadowImage x.chain x.lastOut) ≠ crc → x.paired = false → s.twin.pair ≠ .synced → s.twin.pair ≠ .catchup →
          exec (.loopShadowReceived e sl image crc) s = .next ((t.updSlot n (fun y => { y with
            chain := Chain.ofWords ((List.range 10).map (fun i => w64At (8 * i) image)), lastOut := w32At 80 image, computed := true })).catchupEnd))))

/-- The convert output goes high conv_lead before a phase for every lane of the group that names it, and a word that did not come since the last one
is late (08 R256, R258); a word that waits for its delivery stays. A word of the
right length inside its window is taken, and any other raises FRAME or LATE (R259, R260). A phase that is due is delivered through the filter (R257,
R261 to R263), without a sample where bits are missing or the clock is lost (R265). The comparator raises its source after oc_n exceedances in a row,
and one output inside lowers it (R269, R270). In a replay no input is taken (12 R420): a phase that is due has no value of its own, and waits
while the log still holds a later one for it (log entry 158). -/
def Obligations.LaneEvents : Prop :=
  ∀ (s : State) (n : Nat), n < 64 →
    let x := s.lane n
    (s.wit.mode = .replay → exec (.convertPulse n) s = .next s ∧ (∀ w k l, exec (.wordReceived n w k l) s = .next s) ∧
      (∀ bits, exec (.ocExceedance n bits) s = .next s ∧
        (x.kind = 0 ∨ 4 < x.kind ∨ s.now < x.delay ∨ lastAt x.off x.per (s.now - x.delay) = none → exec (.laneSample n bits) s = .next s) ∧
        (∀ c, x.kind ≠ 0 → x.kind ≤ 4 → x.delay ≤ s.now → lastAt x.off x.per (s.now - x.delay) = some c →
          (x.phase.any (fun p => decide (c ≤ p)) = true ∨ s.sampleAhead (n / 16) c (n % 16) = true → exec (.laneSample n bits) s = .next s) ∧
          (x.phase.any (fun p => decide (c ≤ p)) = false → s.sampleAhead (n / 16) c (n % 16) = false →
            exec (.laneSample n bits) s = .next (s.laneThrough n c none)))) ∧
      exec (.modulatorLoss n) s = .next s ∧ exec (.manchesterCodeViolation n) s = .next s) ∧
    (x.wordMode = false → exec (.convertPulse n) s = .next s ∧ ∀ w k l, exec (.wordReceived n w k l) s = .next s) ∧
    (s.wit.mode ≠ .replay → x.wordMode = true →
      (∃ t, exec (.convertPulse n) s = .next t ∧
        (∀ m, ¬ (m / 16 = n / 16 ∧ m < 64 ∧ (s.lane m).wordMode = true ∧ (s.lane m).conv = x.conv) → t.lane m = s.lane m) ∧
        ∀ m, m < 64 → m / 16 = n / 16 → (s.lane m).wordMode = true → (s.lane m).conv = x.conv →
          let y := s.lane m
          (lastAt y.off y.per (s.now + y.lead) = none → t.lane m = y) ∧
          (∀ c, lastAt y.off y.per (s.now + y.lead) = some c →
            (y.wordPhase.any (fun p => decide (c ≤ p)) = true → t.lane m = y) ∧
            (y.wordPhase.any (fun p => decide (c ≤ p)) = false →
              (t.lane m).wordPhase = some c ∧ (t.lane m).wordMet = false ∧ (t.lane m).convUntil = c - y.lead + 20 ∧ (t.lane m).words = y.words ∧
              (y.wordPhase = none ∨ y.wordMet = true → (t.lane m).late = y.late ∧ (t.lane m).fLate = y.fLate) ∧
              (y.wordPhase.isSome = true → y.wordMet = false → (t.lane m).late = satAdd y.late 1 ∧ (t.lane m).fLate = true)))) ∧
      (∀ w k l,
        (x.wordPhase = none ∨ x.wordMet = true → exec (.wordReceived n w k l) s = .next s) ∧
        (∀ c, x.wordPhase = some c → x.wordMet = false →
          let t := s.setLane n { x with wordMet := true }
          (k ≠ x.wlen → exec (.wordReceived n w k l) s = .next (t.laneEvent n .frame)) ∧
          (k = x.wlen → c + x.arrWin < l → exec (.wordReceived n w k l) s = .next (t.laneEvent n .late)) ∧
          (k = x.wlen → l ≤ c + x.arrWin → ∃ u, exec (.wordReceived n w k l) s = .next u ∧
            (u.lane n).words = (c, wordRaw x w) :: x.words ∧ (u.lane n).wordMet = true ∧ (∀ m, m ≠ n → u.lane m = s.lane m)))) ) ∧
    (∀ bits, s.wit.mode ≠ .replay →
      (x.kind = 0 ∨ 4 < x.kind ∨ s.now < x.delay → exec (.laneSample n bits) s = .next s) ∧
      (x.kind ≠ 0 → x.kind ≤ 4 → x.delay ≤ s.now →
        (lastAt x.off x.per (s.now - x.delay) = none → exec (.laneSample n bits) s = .next s) ∧
        (∀ c, lastAt x.off x.per (s.now - x.delay) = some c →
          (x.phase.any (fun p => decide (c ≤ p)) = true → exec (.laneSample n bits) s = .next s) ∧
          (x.phase.any (fun p => decide (c ≤ p)) = false →
            (∀ e, x.kind = 4 → x.words.find? (fun w => decide (w.1 = c)) = some e → exec (.laneSample n bits) s = .next (s.laneThrough n c (some e.2))) ∧
            (x.kind = 4 → x.words.find? (fun w => decide (w.1 = c)) = none → exec (.laneSample n bits) s = .next (s.laneThrough n c none)) ∧
            (x.kind ≤ 3 → x.lost = false → bits.length = x.window →
              exec (.laneSample n bits) s = .next (s.laneThrough n c (some (i32 (sinc x.order x.osr bits))))) ∧
            (x.kind ≤ 3 → x.lost = true ∨ bits.length ≠ x.window → exec (.laneSample n bits) s = .next (s.laneThrough n c none)))))) ∧
    (x.sdMode = true → x.lost = false → s.wit.mode ≠ .replay → exec (.modulatorLoss n) s = .next (s.laneEvent n .loss)) ∧
    (x.sdMode = false ∨ x.lost = true → exec (.modulatorLoss n) s = .next s) ∧
    (x.kind = 3 → s.wit.mode ≠ .replay → exec (.manchesterCodeViolation n) s = .next (s.laneEvent n .code)) ∧
    (x.kind ≠ 3 → exec (.manchesterCodeViolation n) s = .next s) ∧
    (x.sdMode = true → exec (.modulatorClockReturn n) s = .next (s.setLane n { x with lost := false, ocRun := 0 })) ∧
    (x.sdMode = false → exec (.modulatorClockReturn n) s = .next s) ∧
    (∀ bits, s.wit.mode ≠ .replay →
      (bit x.oc 0 = false ∨ x.comparator bits = none → exec (.ocExceedance n bits) s = .next s) ∧
      (∀ y, bit x.oc 0 = true → x.comparator bits = some y →
        (sfld x.oc 16 24 ≤ y → y ≤ sfld x.oc 40 24 →
          (x.fOcRaised = true → exec (.ocExceedance n bits) s = .next (s.ocLower n)) ∧
          (x.fOcRaised = false → exec (.ocExceedance n bits) s = .next (s.setLane n { x with ocRun := 0 }))) ∧
        (sfld x.oc 40 24 < y ∨ y < sfld x.oc 16 24 →
          let run := min (x.ocRun + 1) 4
          (fld x.oc 2 2 + 1 ≤ run → x.fOcRaised = false → exec (.ocExceedance n bits) s = .next ((s.setLane n { x with ocRun := run }).ocRaise n)) ∧
          (run < fld x.oc 2 2 + 1 ∨ x.fOcRaised = true → exec (.ocExceedance n bits) s = .next (s.setLane n { x with ocRun := run })))))

/-! ## Events of the trips, the PWM pairs and the cell links (08 R271 to R291; 09 R292 to R309) -/

/-- A TRIP_N input that stays low for its filter raises its source, whose latch sets; every pair it maps to is safe at once, with the first cause
recorded (08 R271, R273, R274); a high input lowers the source and leaves the latch. A pair without a cause drives again at the first carrier start
from the count at which its causes cleared (R275). At a load point the active register takes the shadow as it was written before that count, and the
first load lets a pair without a cause drive (R26, R280, R282). A link in service sends one downlink in every period, with BLOCK for every cell while
it is blocked (09 R297 to R299), as SOF, its bytes and EOF in 8b/10b characters, at least two IDLE ordered sets after the frame before it, and the line
sends IDLE while no frame is on it; the pad of a group under test sends nothing (R292, R293; 14 R483; log entry 206). An uplink is taken, late, or counted as a CRC error, and
a period without one is missing, counted once (R303); its element is pushed at up_due (R303); a beacon leaves
every bcn_div periods (R304), its echo takes the link to UP or raises the delay flag (R305, R307); synchronisation is found and lost (R307, R308). A frame
received at the disparity at which it was sent is read back whole, with no invalid character; one with a code group that is no character at its running
disparity, or with a K character other than K28.5, SOF and EOF, is not good (R292, R293); the code tables are the model's (log entry 193). -/
def Obligations.PairAndLinkEvents : Prop :=
  (∀ (s : State) (n : Nat), n < 83 →
    ((s.raiseTrip n).tripSrc n).raised = true ∧ ((s.raiseTrip n).tripSrc n).latch = true ∧
    (∀ p, p < 48 →
      (bit (s.tripSrc n).mask p = true → ((s.raiseTrip n).pair p).safe = true ∧
        ((s.pair p).safe = false → ((s.raiseTrip n).pair p).firstSrc = BitVec.ofNat 7 n ∧
          ((s.raiseTrip n).pair p).firstStamp = short s.now ∧ ((s.raiseTrip n).pair p).firstValid = true)) ∧
      (bit (s.tripSrc n).mask p = false → s.caused p = false → ((s.raiseTrip n).pair p).safe = (s.pair p).safe)) ∧
    (s.lowerTrip n).tripSrc n = { s.tripSrc n with raised := false }) ∧
  (∀ (s : State) (n : Nat) (low : Bool) (width : Nat), n < 16 →
    (s.wit.mode = .replay ∨ (low = true ∧ width < (s.tripSrc n).filterNs) ∨ (s.tripSrc n).raised = low → exec (.tripInput n low width) s = .next s) ∧
    (s.wit.mode ≠ .replay → ¬ (low = true ∧ width < (s.tripSrc n).filterNs) → (s.tripSrc n).raised ≠ low →
      exec (.tripInput n low width) s = .next (let u := s.witness 0x12 0 s.now [BitVec.ofNat 8 n, if low then 0 else 1]
        if low then u.raiseTrip n else u.lowerTrip n))) ∧
  (∀ (s : State) (n : Nat), n < 48 →
    let x := s.pair n
    (x.clearAt = none ∨ x.en = false ∨ x.loaded = false ∨ x.safe = false ∨ s.caused n = true ∨ s.pwmRuns n = false → exec (.pairResume n) s = .next s) ∧
    (∀ c, x.clearAt = some c → (s.now < nextAt x.off x.per c → exec (.pairResume n) s = .next s) ∧
      (x.en = true → x.loaded = true → x.safe = true → s.caused n = false → s.pwmRuns n = true → nextAt x.off x.per c ≤ s.now →
        exec (.pairResume n) s = .next (s.setPair n (x.begin_ s.tb.steps12)))) ∧
    (x.loadPoint s.now = none ∨ x.en = false ∨ s.pwmRuns n = false → exec (.shadowLoad n) s = .next s) ∧
    (∀ l, x.loadPoint s.now = some l →
      (l ≤ x.loadedTo → exec (.shadowLoad n) s = .next s) ∧
      (x.en = true → x.loadedTo < l → s.pwmRuns n = true → ∃ t, exec (.shadowLoad n) s = .next t ∧
        (t.pair n).active = (if x.shadowAt.any (fun w => decide (l ≤ w)) then x.shadowOld else x.shadow) ∧
        (t.pair n).loaded = true ∧ (t.pair n).loadedTo = l ∧ (∀ m, m ≠ n → t.pair m = s.pair m) ∧
        (x.loaded = true ∨ s.caused n = true → (t.pair n).safe = x.safe) ∧
        (x.loaded = false → s.caused n = false → (t.pair n).safe = false)))) ∧
  (∀ (s : State) (l : Nat), l < 32 →
    let x := s.link l
    (x.en = false ∨ x.wasUp = false ∨ lastAt (x.start + x.sendOff) x.period s.now = none → exec (.downlinkSend l) s = .next s) ∧
    (∀ c, lastAt (x.start + x.sendOff) x.period s.now = some c → x.en = true → x.wasUp = true →
      (x.sent.any (fun p => decide (c - x.sendOff ≤ p.1)) = true → exec (.downlinkSend l) s = .next s) ∧
      (x.sent.any (fun p => decide (c - x.sendOff ≤ p.1)) = false → ∃ t, exec (.downlinkSend l) s = .next t ∧
        (t.link l).seq = x.seq + 1 ∧ (t.link l).sent = some (c - x.sendOff, c + x.applyDly) ∧ (t.link l).ulSeen = false ∧
        (t.link l).ulMissing = (if x.ulDue = true ∧ x.ulSeen = false then satAdd x.ulMissing 1 else x.ulMissing) ∧
        (s.sends l = false → (t.link l).out = x.out ∧ (t.link l).wire = x.wire) ∧
        (let fr := downFrame l x.cells false (!x.fromRegs && (s.mailbox x.mbBase).staleBefore c) (x.seq + 1) (c + x.applyDly)
           ((List.range x.cells).map (fun j => s.cellWord l j c))
         s.sends l = true → x.dbl = false → (t.link l).out = x.out ++ [(c, fr)] ∧
           (t.link l).wire = x.wire ++ [((x.place c).1, (x.place c).2, (codeGroups x.txRd (frameSyms fr)).1)]) ∧
        (∀ m, m ≠ l → t.link m = s.link m))) ∧
    (s.blocked l = true → ∀ c a, s.cellWord l c a = 0xFFFF) ∧
    ((s.tripSrc 80).latch = true ∨ (s.tripSrc 82).latch = true ∨ x.unitHold = true → s.blocked l = true) ∧
    (∀ rd gs,
      let fr := (frameIn rd gs).1
      let inv := (frameIn rd gs).2
      (x.sent = none ∨ x.en = false ∨ s.wit.mode = .replay ∨ (x.st ≠ .sync ∧ x.st ≠ .up) → exec (.uplinkReceived l rd gs) s = .next s) ∧
      (∀ b a, x.sent = some (b, a) → x.en = true → s.wit.mode ≠ .replay → x.st = .sync ∨ x.st = .up →
        (goodFrame inv fr = false → exec (.uplinkReceived l rd gs) s =
          .next ((s.setLink l { x with ulCrc := satAdd x.ulCrc 1, ulSeen := true, fUlMiss := true }).event 0x184 l 1)) ∧
        (goodFrame inv fr = true → ¬ ((fr.getD 0 0).toNat / 64 = 2 ∧ (fr.getD 0 0).toNat % 32 + 1 = x.cells ∧ leAt 2 2 fr = x.seq.toNat) →
          exec (.uplinkReceived l rd gs) s = .next s) ∧
        (goodFrame inv fr = true → (fr.getD 0 0).toNat / 64 = 2 → (fr.getD 0 0).toNat % 32 + 1 = x.cells → leAt 2 2 fr = x.seq.toNat →
          b + x.upDue ≤ s.now → exec (.uplinkReceived l rd gs) s =
          .next ((s.setLink l { x with ulLate := satAdd x.ulLate 1, ulSeen := true, fUlMiss := true }).event 0x185 l 1)) ∧
        (goodFrame inv fr = true → (fr.getD 0 0).toNat / 64 = 2 → s.now < b + x.upDue → (fr.getD 0 0).toNat % 32 + 1 = x.cells → leAt 2 2 fr = x.seq.toNat →
          exec (.uplinkReceived l rd gs) s =
            .next ((s.setLink l { x with uplink := some ((fr.drop 4).take (4 * x.cells)), ulSeen := true }).event 0x182 l 1)))) ∧
    (x.sent = none ∨ x.en = false ∨ s.wit.mode = .replay → exec (.uplinkPush l) s = .next s) ∧
    (∀ b a, x.sent = some (b, a) → x.en = true → s.wit.mode ≠ .replay →
      (s.now < b + x.upDue ∨ x.pushedAt.any (fun p => decide (b ≤ p)) = true → exec (.uplinkPush l) s = .next s) ∧
      (b + x.upDue ≤ s.now → x.pushedAt.any (fun p => decide (b ≤ p)) = false →
        exec (.uplinkPush l) s = .next ((s.setLink l { x with pushedAt := some b, ulDue := true, fUlMiss := x.fUlMiss || !x.ulSeen }).pushElement l
          (x.element l a)))) ∧
    (x.en = false ∨ (x.wasUp = false ∧ x.st ≠ .sync) ∨ lastAt (x.start + x.beaconOff) (x.period * x.bcnDiv) s.now = none →
      exec (.beaconSend l) s = .next s) ∧
    (∀ c, lastAt (x.start + x.beaconOff) (x.period * x.bcnDiv) s.now = some c → x.en = true → x.wasUp = true ∨ x.st = .sync →
      (x.beaconAt.any (fun p => decide (c ≤ p)) = true → exec (.beaconSend l) s = .next s) ∧
      (x.beaconAt.any (fun p => decide (c ≤ p)) = false → exec (.beaconSend l) s = .next
        (((s.setLink l { x with beaconAt := some c, bseq := x.bseq + 1, echoFor := some x.bseq }).transmit l c
          (beaconFrame l x.bseq c x.delayUi x.holdUs)).event 0x186 l 1))) ∧
    (∀ rd gs rtt,
      let fr := (frameIn rd gs).1
      let inv := (frameIn rd gs).2
      (x.en = false ∨ (x.st ≠ .sync ∧ x.st ≠ .up) ∨ goodFrame inv fr = false ∨ (fr.getD 0 0).toNat / 64 ≠ 3 ∨ x.echoFor ≠ some (fr.getD 2 0) →
        exec (.beaconEchoReceived l rd gs rtt) s = .next s) ∧
      (x.en = true → x.st = .sync ∨ x.st = .up → goodFrame inv fr = true → (fr.getD 0 0).toNat / 64 = 3 → x.echoFor = some (fr.getD 2 0) →
        let d := (rtt - 10000 + 4) / 8
        (2 * d ≤ 5 * x.cableMax → exec (.beaconEchoReceived l rd gs rtt) s =
          .next (s.setLink l { x with st := .up, wasUp := true, echoFor := none, delayUi := BitVec.ofNat 16 (min d 0xFFFE) })) ∧
        (5 * x.cableMax < 2 * d → exec (.beaconEchoReceived l rd gs rtt) s =
          .next (s.setLink l { x with fDelay := true, echoFor := none, delayUi := BitVec.ofNat 16 (min d 0xFFFE) })))) ∧
    (∀ c bs, s.sends l = true → ((s.transmit l c bs).link l).out = x.out ++ [(c, bs)] ∧
      ((s.transmit l c bs).link l).wire = x.wire ++ [((x.place c).1, (x.place c).2, (codeGroups x.txRd (frameSyms bs)).1)]) ∧
    (s.sends l = s.linkDrives ∨ s.underTest (99 + l / 8) = true) ∧ (s.underTest (99 + l / 8) = true → s.sends l = false) ∧
    (∀ c e, (x.wire = [] → x.place c = (c, 2)) ∧ (x.lineEnd = some e → c ≤ (x.place c).1 ∧ e + 8 * (x.place c).2 ≤ (x.place c).1 ∧ 2 ≤ (x.place c).2)) ∧
    (s.sends l = true → s.mg.inReset = false → (s.dom (99 + l / 8)).rung = 0 →
      (∀ w ∈ x.wire, ¬ (w.1 ≤ s.now ∧ s.now < w.1 + 4 * w.2.2.length)) → s.clTx l = (codeGroups x.txRd Sym.idle).1[s.now / 4 % 2]?) ∧
    exec (.linkSync l) s = .next (s.setLink l (if x.en = true ∧ x.st = .align then { x with st := .sync } else x)) ∧
    (x.en = false ∨ (x.st ≠ .sync ∧ x.st ≠ .up) → exec (.syncLost l) s = .next s) ∧
    (x.en = true → x.st = .sync ∨ x.st = .up → exec (.syncLost l) s =
      .next ((s.setLink l { x with st := .align, fSyncLost := true, syncLost := satAdd x.syncLost 1 }).event 0x187 l 1))) ∧
  (∀ (rd : Bool) (bs : List Byte), frameIn rd (codeGroups rd (frameSyms bs)).1 = (bs, false)) ∧
  (∀ (rd : Bool) (c : Sym), c ∈ symbols → charOf rd (codeGroup rd c).1 = some c) ∧
  (∀ (rd : Bool) (gs : List (BitVec 10)), (∃ c ∈ received rd gs, c = none ∨ ∃ d, c = some d ∧ d.k = true ∧ d ≠ Sym.sof ∧ d ≠ Sym.eof ∧ d.b ≠ 0xBC) →
    ∀ fr, goodFrame (frameIn rd gs).2 fr = false)

/-! ## Events of the timebase and of the Ethernet ports (12 R400 to R411; 16 R524 to R531) -/

/-- A tick adds the increment to seconds, nanoseconds and fraction (12 R400), but not during a power-on reset. The servo computes the increment from
the offset, clamped (R407), and a TB_SERVO write takes effect at that update (R425). A step sets the counter to its source's time (R403, R404); the
first one waits until it is allowed. Without an offset for lost_n Sync intervals an AUTO device enters holdover at the mean of its last increments
(R409); the intervals run on the time since power-on, which no step moves. PPS_IN gives a phase offset (R405), and the lock of the twin moves the
servo of a STANDBY device, whose change of holdover is recorded, and of one that joins, which enters BULK once it is within 2 ns (12 R409; 01 R34,
R36; 14 R460). -/
def Obligations.TimebaseEvents : Prop :=
  (∀ b : Timebase, b.ns.toNat < 1000000000 → b.inc.toNat < 2 ^ 33 → b.sec.toNat + 1 < 2 ^ 48 →
    (b.tick.sec.toNat * 1000000000 + b.tick.ns.toNat) * 2 ^ 32 + b.tick.frac.toNat =
      (b.sec.toNat * 1000000000 + b.ns.toNat) * 2 ^ 32 + b.frac.toNat + b.inc.toNat ∧ b.tick.ns.toNat < 1000000000) ∧
  (∀ s : State,
    (s.mg.inReset = true → s.mg.resetCause = 0 → exec .timebaseTick s = .next s) ∧
    (s.mg.inReset = false ∨ s.mg.resetCause ≠ 0 → ∃ t, exec .timebaseTick s = .next t ∧
      (s.twin.bothHighAt = none → s.kiln.stepsDue = [] → s.wit.buffer = [] ∨ s.wit.outputs = 0 →
        (s.port 0).wait = [] → (s.port 1).wait = [] → s.hbm.losing = false → (∀ e ∈ s.tiles, e.2.failing = false) → (∀ p, p < 68 → s.countsCycles p = false) →
        t.tb = { s.tb.tick with shadow := s.tb.shadow.map ShadowCtr.tick } ∧ t.queues = s.queues ∧ t.tiles = s.tiles ∧ t.hbm = s.hbm ∧ t.mg = s.mg))) ∧
  (∀ (s : State) (theta : Int),
    let b := s.tb.ready
    (s.tb.preset = false → b = { s.tb with servo := s.tb.written, servoNext := none }) ∧
    (s.tb.preset = true → b.ki ≠ 0 → b.acc = tdiv ((incNominal - (s.tb.inc.toNat : Int)) * 2 ^ 24) b.ki) ∧
    let acc := clampI (b.acc + theta) (-(2 ^ 40)) (2 ^ 40)
    let adj := ((b.kp : Int) * theta + (b.ki : Int) * acc) / 2 ^ 24
    let t := s.servoUpdate theta true
    t.tb.acc = acc ∧ t.tb.inc = i64 (clampI (incNominal - adj) (incNominal - 286331) (incNominal + 286331)) ∧ t.tb.servo = s.tb.written ∧ t.tb.servoNext = none ∧
    t.tb.preset = false ∧
    (s.servoUpdate theta false).tb.inc = s.tb.inc ∧ (s.servoUpdate theta false).tb.acc = s.tb.acc ∧
    (∀ e a r, (r = true ∨ (s.twin.role ≠ .standby ∧ s.joining = false) → exec (.timebaseLockReceived e a r) s = .next s) ∧
      (let th := a - (fld s.twin.dly 0 32 : Int) - e - Config.twinDelay
       let moved := fun (h : Bool) => (({ s with freeIx := s.freeIx + 1 } : State).setTb { s.tb with theta := th, lastOffset := s.up, holdover := h }).servoUpdate th true
       let h := Config.peerFree s.freeIx
       (s.twin.role = .standby → h = s.tb.holdover → exec (.timebaseLockReceived e a false) s = .next (moved h)) ∧
       (s.twin.role = .standby → h ≠ s.tb.holdover → exec (.timebaseLockReceived e a false) s = .next (timeEvent (if h then 1 else 2) (moved h))) ∧
       (s.twin.role ≠ .standby → s.joining = true →
         (131072 < th.natAbs → exec (.timebaseLockReceived e a false) s = .next (moved s.tb.holdover)) ∧
         (th.natAbs ≤ 131072 → exec (.timebaseLockReceived e a false) s = .next (moved s.tb.holdover).enterBulk))))) ∧
  (∀ (s : State),
    let v : Int := (s.now * 2 ^ 32 + s.tb.frac.toNat : Nat) - s.tb.theta * 65536
    (s.tb.stepWait = false ∨ s.firstScale = false ∨ s.nothingTimed = false → exec .counterStep s = .next s) ∧
    (s.tb.stepWait = true → s.firstScale = true → s.nothingTimed = true → ∃ t, exec .counterStep s = .next t ∧
      t.tb.timescale = true ∧ t.tb.stepWait = false ∧ t.tb.steps = satAdd s.tb.steps 1 ∧
      (0 ≤ v → v < 2 ^ 48 * 1000000000 * 2 ^ 32 → ((t.now * 2 ^ 32 + t.tb.frac.toNat : Nat) : Int) = v))) ∧
  (∀ s : State,
    (s.up < s.tb.lastOffset + s.tb.lostN * s.tb.syncIvl ∨ s.twin.role = .standby ∨ s.wit.mode = .replay ∨ s.tb.modeCfg ≠ 0 ∨ s.tb.holdover = true →
      exec .holdoverEntry s = .next s) ∧
    (s.tb.lastOffset + s.tb.lostN * s.tb.syncIvl ≤ s.up → s.twin.role ≠ .standby → s.wit.mode ≠ .replay → s.tb.modeCfg = 0 → s.tb.holdover = false →
      ∃ t, exec .holdoverEntry s = .next t ∧ t.tb.modeEff = 2 ∧ t.tb.holdover = true ∧ t.tb.holdovers = satAdd s.tb.holdovers 1 ∧ t.now = s.now ∧
        (s.tb.incHist = [] → t.tb.inc = s.tb.inc) ∧
        (s.tb.incHist ≠ [] → t.tb.inc = BitVec.ofNat 64 ((2 * s.tb.incHist.sum + s.tb.incHist.length) / (2 * s.tb.incHist.length))))) ∧
  (∀ s : State,
    let n : Int := s.tb.ns.toNat * 65536 + s.tb.frac.toNat / 65536
    (s.tb.src ≠ 3 ∨ s.wit.mode = .replay → exec .ppsInEdge s = .next s) ∧
    (s.tb.src = 3 → s.wit.mode ≠ .replay →
      (s.tb.ns.toNat < 500000000 → exec .ppsInEdge s = .next ((s.setTb { s.tb with syncIvl := 1000000000 }).offset n)) ∧
      (500000000 ≤ s.tb.ns.toNat → exec .ppsInEdge s = .next ((s.setTb { s.tb with syncIvl := 1000000000 }).offset (n - 65536000000000)))))

/-- With pps_out_en set PPS_OUT rises at each count whose nanoseconds are 0 and falls at nanoseconds 100,000,000, in holdover and in every mode (12
R410); without it the pin does not move. -/
def Obligations.PulsePerSecondOut : Prop :=
  ∀ s : State,
    (bit s.tb.servo 60 = true →
      exec .ppsOutEdge s = .next (s.setTb { s.tb with pps := decide (s.tb.ns.toNat < 100000000) }) ∧
      (∀ t, exec .ppsOutEdge s = .next t → (s.tb.ns = 0 → t.tb.pps = true) ∧ (s.tb.ns.toNat = 100000000 → t.tb.pps = false) ∧
        (∀ (m : BitVec 2) (b : Bool), exec .ppsOutEdge (s.setTb { s.tb with modeEff := m, modeCfg := m, holdover := b }) =
          .next (t.setTb { t.tb with modeEff := m, modeCfg := m, holdover := b })))) ∧
    (bit s.tb.servo 60 = false → exec .ppsOutEdge s = .next s)

/-- A port takes a PTP message of its domain, counts it and records it, and in a replay drops it (16 R527; 01 R36). From the leader a one-step Sync
gives t1 and t2, a two-step Sync waits for its Follow_Up (12 R406); a Delay_Resp gives a delay, and the mean of the last eight is the path delay
(R406). An Announce joins the leaders heard, and selection runs (16 R528). A leader answers a Delay_Req and sends Sync and Announce in its intervals; a follower sends
one Delay_Req in each interval (16 R529, R530). A frame leaves an enabled port at once, or waits while another is in transmission (R526). The transparent clock adds the residence, at once or in the Follow_Up, and forgets it after 1 s (12 R411; 16 R531). A frame
that is not consumed is counted (16 R525); the lock of PCS and, at 25GBASE-R, of FEC is shown (R524). -/
def Obligations.PtpAndEthernetEvents : Prop :=
  ∀ (s : State) (p : Nat), p < 2 →
    let e := s.port p
    (∀ m, e.ptpOn = true → m.domain = fld e.ctl 40 8 → s.wit.mode ≠ .replay → ∃ u, s.ptpTake p m = some u ∧
      u.tb = s.tb ∧ (u.port p).rxPtp = satAdd e.rxPtp 1 ∧ (u.port p).out = e.out) ∧
    (∀ m, e.ptpOn = false ∨ m.domain ≠ fld e.ctl 40 8 ∨ s.wit.mode = .replay → s.ptpTake p m = none ∧
      (let t := if e.ptpOn = false then s
         else if s.wit.mode = .replay then s.setPort p { e with rxDropped := satAdd e.rxDropped 1 } else s.ptpRecord p m
       exec (.ptpSyncReceived p m) s = .next t ∧ exec (.ptpFollowUpReceived p m) s = .next t ∧ exec (.ptpDelayRespReceived p m) s = .next t ∧
       exec (.ptpAnnounceReceived p m) s = .next t ∧ exec (.ptpDelayReqReceived p m) s = .next t)) ∧
    (∀ m u, s.ptpTake p m = some u →
      (u.fromLeader p m = false → exec (.ptpSyncReceived p m) s = .next u) ∧
      (u.fromLeader p m = true →
        let t2 := m.ingress - (u.port p).rxDly
        let v := u.setTb { u.tb with syncIvl := logNs m.logInterval }
        (m.twoStep = true → exec (.ptpSyncReceived p m) s = .next (v.setTb { v.tb with sync := some (p, { m with ingress := t2 }) })) ∧
        (m.twoStep = false → exec (.ptpSyncReceived p m) s =
          .next ((v.setTb { v.tb with lastSync := some (p, ptpTs m + m.correction, t2), sync := none }).offset (t2 - (ptpTs m + m.correction) - u.tb.pd)))) ∧
      (u.tb.sync = none → exec (.ptpFollowUpReceived p m) s = .next u) ∧
      (∀ q y, u.tb.sync = some (q, y) →
        (q ≠ p ∨ y.clockId ≠ m.clockId ∨ y.portNum ≠ m.portNum ∨ y.seqId ≠ m.seqId ∨ u.fromLeader p m = false → exec (.ptpFollowUpReceived p m) s = .next u) ∧
        (q = p → y.clockId = m.clockId → y.portNum = m.portNum → y.seqId = m.seqId → u.fromLeader p m = true →
          let t1 := ptpTs m + m.correction + y.correction
          exec (.ptpFollowUpReceived p m) s =
            .next ((u.setTb { u.tb with lastSync := some (p, t1, y.ingress), sync := none }).offset (y.ingress - t1 - u.tb.pd)))) ∧
      (u.tb.lastSync = none ∨ u.tb.delayReq.find? (fun x => decide (x.1 = p ∧ x.2.1 = m.seqId)) = none → exec (.ptpDelayRespReceived p m) s = .next u) ∧
      (∀ t1 t2 x, u.tb.lastSync = some (p, t1, t2) → u.tb.delayReq.find? (fun x => decide (x.1 = p ∧ x.2.1 = m.seqId)) = some x →
        m.reqClockId = (u.port p).clockId → u.fromLeader p m = true →
        let ds := (tdiv ((t2 - t1) + (ptpTs m - x.2.2 - m.correction)) 2 :: u.tb.delays).take 8
        ∃ t, exec (.ptpDelayRespReceived p m) s = .next t ∧ t.tb.delays = ds ∧ t.tb.pd = tdiv ds.sum ds.length ∧ t.now = u.now) ∧
      (let same := fun (f : Foreign) => decide (f.port = p ∧ f.msg.clockId = m.clockId ∧ f.msg.portNum = m.portNum)
       (u.tb.foreign.find? same = none → exec (.ptpAnnounceReceived p m) s =
         .next ((u.setTb { u.tb with foreign := { port := p, msg := m, heard := [u.up] } :: u.tb.foreign.filter (fun g => !same g) }).selectLeader)) ∧
       (∀ f, u.tb.foreign.find? same = some f → exec (.ptpAnnounceReceived p m) s =
         .next ((u.setTb { u.tb with foreign := { port := p, msg := m, heard := (u.up :: f.heard).take 4 } :: u.tb.foreign.filter (fun g => !same g) }).selectLeader))) ∧
      ((u.port p).ptpState ≠ 3 → exec (.ptpDelayReqReceived p m) s = .next u) ∧
      ((u.port p).ptpState = 3 →
        let t4 := m.ingress - (u.port p).rxDly
        exec (.ptpDelayReqReceived p m) s =
          .next (u.send p (.ptp .delayResp m.seqId (ns16 t4).1 (ns16 t4).2 (m.correction - t4 % 65536) (some m))))) ∧
    (e.ptpState ≠ 2 ∨ e.reqAt = some (s.up / s.tb.reqIvl) → exec (.delayReqSend p) s = .next s) ∧
    (e.ptpState = 2 → e.reqAt ≠ some (s.up / s.tb.reqIvl) → ∃ t, exec (.delayReqSend p) s = .next t ∧
      t.tb.delayReq.head? = some (p, e.seqId, s.now16 + e.txDly) ∧
      (bit e.ctl 0 = true → e.wait = [] → e.busy ≤ s.up → (t.port p).out = e.out ++ [.ptp .delayReq e.seqId 0 0 0 none] ∧ (t.port p).wait = []) ∧
      (bit e.ctl 0 = true → e.wait ≠ [] ∨ s.up < e.busy → (t.port p).out = e.out ∧ (t.port p).wait = e.wait ++ [.ptp .delayReq e.seqId 0 0 0 none]) ∧
      (t.port p).seqId = e.seqId + 1 ∧ (t.port p).reqAt = some (s.up / s.tb.reqIvl)) ∧
    (e.ptpState ≠ 3 → exec (.syncSend p) s = .next s ∧ exec (.announceSend p) s = .next s) ∧
    (∀ c, e.syncAt = some c → s.up < c + logNs (e.log4 20) → exec (.syncSend p) s = .next s) ∧
    (∀ c, e.annAt = some c → s.up < c + logNs (e.log4 16) → exec (.announceSend p) s = .next s) ∧
    (e.ptpState = 3 →
      let t := s.now16 + e.txDly
      (e.syncAt.all (fun c => decide (c + logNs (e.log4 20) ≤ s.up)) = true → exec (.syncSend p) s =
        .next ((s.setPort p { e with seqId := e.seqId + 1, syncAt := some s.up }).send p (.ptp .sync e.seqId (ns16 t).1 (ns16 t).2 (t % 65536) none))) ∧
      (e.annAt.all (fun c => decide (c + logNs (e.log4 16) ≤ s.up)) = true → exec (.announceSend p) s =
        .next ((s.setPort p { e with seqId := e.seqId + 1, annAt := some s.up }).send p (.ptp .announce e.seqId 0 0 0 none)))) ∧
    (∀ o, let bs := e.bytesOf o
      (bit e.ctl 0 = false → s.send p o = s) ∧
      (bit e.ctl 0 = true → e.wait = [] → e.busy ≤ s.up → s.send p o = s.depart p o) ∧
      (bit e.ctl 0 = true → e.wait ≠ [] ∨ s.up < e.busy → s.send p o = s.setPort p { e with wait := e.wait ++ [o] }) ∧
      s.depart p o = (s.setPort p { e with out := e.out ++ [o], wire := e.wire ++ [bs], busy := s.up + e.frameNs bs.length }).event 0x281 (p + 1) 1) ∧
    (∀ m g, (s.tcOn = false ∨ s.wit.mode = .replay ∨ m.kind = .pdelay → exec (.tcForward p m g) s = .next s) ∧
      (s.tcOn = true → s.wit.mode ≠ .replay →
        let res := (g + (s.port (1 - p)).txDly) - (m.ingress - e.rxDly)
        let out := fun (c : Int) (s : State) => s.depart (1 - p) (.ptp m.kind m.seqId m.tsSec m.tsNs c (some { m with correction := c }))
        (m.kind = .delayReq ∨ (m.kind = .sync ∧ m.twoStep = false) → exec (.tcForward p m g) s = .next (out (m.correction + res) s)) ∧
        (m.kind = .sync → m.twoStep = true → e.residences.length < 16 → exec (.tcForward p m g) s =
          .next (out m.correction (s.setPort p { e with residences := e.residences ++ [(m.clockId, m.portNum, m.seqId, res, s.up)] }))) ∧
        (∀ r, m.kind = .followUp → e.residences.find? (sameSync m) = some r → exec (.tcForward p m g) s =
          .next (out (m.correction + r.2.2.2.1) (s.setPort p { e with residences := e.residences.filter (fun x => !sameSync m x) }))) ∧
        (m.kind = .delayResp ∨ m.kind = .announce ∨ m.kind = .signaling ∨ m.kind = .management → exec (.tcForward p m g) s = .next (out m.correction s)))) ∧
    (∀ sid sq,
      let hit := fun (r : BitVec 64 × BitVec 16 × BitVec 16 × Int × Nat) =>
        decide (r.1.toNat * 65536 + r.2.1.toNat = sid ∧ r.2.2.1 = sq ∧ r.2.2.2.2 + 1000000000 ≤ s.up)
      (e.residences.any hit = false → exec (.tcResidenceTimeout p sid sq) s = .next s) ∧
      (e.residences.any hit = true → exec (.tcResidenceTimeout p sid sq) s =
        .next (s.setPort p { e with residences := e.residences.filter (fun r => !hit r), tcUnmatched := satAdd e.tcUnmatched 1 }))) ∧
    (∀ fr,
      (bit e.ctl 0 = false → exec (.ethFrameReceived p fr) s = .next s) ∧
      (bit e.ctl 0 = true → fr.fcsOk = false → exec (.ethFrameReceived p fr) s =
        .next ((s.setPort p { e with fcsErr := satAdd e.fcsErr 1 }).event 0x282 (p + 1) 1)) ∧
      (let drop := (s.setPort p { e with rxDropped := satAdd e.rxDropped 1 }).event 0x280 (p + 1) 1
       bit e.ctl 0 = true → fr.fcsOk = true →
        (e.consumes fr = false ∨ fr.ptp = none → exec (.ethFrameReceived p fr) s = .next drop) ∧
        (∀ m, e.consumes fr = true → fr.ptp = some m →
          (m.kind = .pdelay ∨ m.kind = .signaling ∨ m.kind = .management →
            exec (.ethFrameReceived p fr) s = .next (if e.ptpOn = true then drop.ptpRecord p m else drop)) ∧
          (m.kind ≠ .pdelay → m.kind ≠ .signaling → m.kind ≠ .management → exec (.ethFrameReceived p fr) s = .next s)))) ∧
    (∀ link fec, exec (.ethPcsLockChange p link fec) s =
      .next (s.setPort p { e with linkUp := link && bit e.ctl 0, fecLock := fec && bit e.ctl 2 && bit e.ctl 1 && bit e.ctl 0 }))

/-! ## Events of the host's ports (10 R341, R348 to R351; 16 R519 to R523; 18 R571, R572) -/

/-- A piece of the pending map that has changed is sent when coalesce_us have passed since the last one, not in U3 (10 R349). A bus reset drops the
link and what was held, and cuts every DATA_GET off at the first byte not delivered (16 R522); in U3 nothing is sent, and what waited leaves at the resume (16 R521); a trained port
sends all pieces (16 R519), High-Speed not in the first 100 ms (log entry 215); U1 and U2 are entered where they are enabled (R521). Every millisecond one telemetry record of 304 bytes joins a buffer of
215 (R523). An SMBus Block Read answers eight bytes and the packet error check, from 2 ms after the reset (18 R571, R572). -/
def Obligations.PortEvents : Prop :=
  ∀ s : State,
    (∀ i, i < 16 →
      (s.usb.u3 = true ∨ s.usb.speed = 0 ∨ s.mapPiece i = Tbl.get (zeros 32) i s.usb.mapSent → exec (.pendingMapPiece i) s = .next s) ∧
      (∀ t, s.usb.lastPiece = some t → s.up < t + 1000 * s.usb.coalesce.toNat → exec (.pendingMapPiece i) s = .next s) ∧
      (s.usb.u3 = false → s.usb.speed ≠ 0 → s.mapPiece i ≠ Tbl.get (zeros 32) i s.usb.mapSent →
        s.usb.lastPiece.all (fun t => decide (t + 1000 * s.usb.coalesce.toNat ≤ s.up)) = true →
        exec (.pendingMapPiece i) s = .next (s.sendPiece i))) ∧
    (s.mg.inReset = true → exec .telemetryRecord s = .next s) ∧
    (s.mg.inReset = false → ∃ t, exec .telemetryRecord s = .next t ∧ t.usb.teleNo = s.usb.teleNo + 1 ∧
      t.usb.ep2tele = (s.usb.ep2tele ++ [s.telemetryBytes]).drop (s.usb.ep2tele.length + 1 - 215) ∧ t.queues = s.queues ∧ t.tb = s.tb) ∧
    (let t := s.setUsb { s.usb with speed := 0, u3 := false, lowPower := 0, wake := false, held := [], gets := [], lastPiece := none }
     (s.usb.gets = [] → exec .usbBusReset s = .next t) ∧
     (∀ g, s.usb.gets = [g] → exec .usbBusReset s = .next ((t.setUsb { t.usb with ep2data := t.usb.ep2data ++ [(g.stream, t.hbmBytes g.src g.sent)] }).complete
       g.queue g.seq { status := St.dataError, location := locHbm (g.src + g.sent) } { }))) ∧
    (s.usb.speed = 0 → exec .usbSuspend s = .next s) ∧
    (s.usb.speed ≠ 0 → ∃ w, exec .usbSuspend s = .next (({ s with freeIx := s.freeIx + 1 } : State).setUsb { s.usb with u3 := true, lowPower := 0, remoteWake := w })) ∧
    exec .usbResume s = .next (s.setUsb { s.usb with u3 := false, wake := false, lowPower := 0, ep1 := s.usb.ep1 ++ s.usb.held, held := [] }) ∧
    (∀ v : BitVec 3,
      (s.mg.inReset = true ∨ v = 0 ∨ 5 ≤ v.toNat ∨ (v = 1 ∧ s.up < s.mg.releasedAt + 100000000) → exec (.usbLinkTrained v) s = .next s) ∧
      (s.mg.inReset = false → v ≠ 0 → v.toNat < 5 → ¬ (v = 1 ∧ s.up < s.mg.releasedAt + 100000000) → exec (.usbLinkTrained v) s =
        .next ((s.setUsb { s.usb with speed := v, u3 := false, lowPower := 0 }).sendAllPieces))) ∧
    (∀ u2 : Bool,
      (s.usb.u3 = true ∨ s.usb.speed = 0 ∨ bit s.usb.ctl (if u2 then 1 else 0) = false → exec (.u1U2Request u2) s = .next s) ∧
      (s.usb.u3 = false → s.usb.speed ≠ 0 → bit s.usb.ctl (if u2 then 1 else 0) = true → exec (.u1U2Request u2) s =
        .next (s.setUsb { s.usb with lowPower := if u2 then 2 else 1 }))) ∧
    (∀ addr code pec,
      let own : BitVec 7 := if s.mg.twinPref then 0x5B else 0x5A
      (s.mg.inReset = true ∨ s.up < s.mg.releasedAt + 2000000 ∨ addr ≠ own ∨ pec = false ∨ s.smbusValue code = none →
        exec (.smbusBlockRead addr code pec) s = .next (s.setMg { s.mg with smb := none })) ∧
      (∀ v, s.mg.inReset = false → s.mg.releasedAt + 2000000 ≤ s.up → addr = own → pec = true → s.smbusValue code = some v →
        let body := leBytes 1 8 ++ w64Bytes v
        exec (.smbusBlockRead addr code pec) s = .next (s.setMg { s.mg with smb := some (body ++
          [crc8 (leBytes 1 (2 * addr.toNat) ++ [code] ++ leBytes 1 (2 * addr.toNat + 1) ++ body)]) }))) ∧
    s.smbusValue 2 = some s.mg.bootStat ∧ s.smbusValue 3 = some s.faultReg ∧ s.smbusValue 5 = some s.twin.stat ∧ s.smbusValue 8 = none

/-! ## Events of the twin (14 R452 to R474; 16 R532 to R536) -/

/-- Heartbeats leave every 1,000 ns, and three intervals without one lose the peer (14 R457, R458): an ACTIVE device goes on alone, a STANDBY device
is LOST and is declared for a promotion unless the peer's pin is high (R470). The pin is resolved when both are high for 20 ns (R453). A promotion
raises the pin 50 ns, enables the outputs 2 µs, and is ACTIVE 4 µs after its declaration (R468). A device that joins and loses its peer fails its
ATTACH; BULK is followed by FINAL and then by SYNCED (R460). A DETACH takes effect at its count (R462), a ROLE_SWAP when the work has drained, and its
peer raises the pin once it sees the other low for 50 ns (R453, R463). The link trains and loses lanes (16 R532). -/
def Obligations.TwinStateEvents : Prop :=
  ∀ s : State,
    (s.now / 1000 = s.twin.hbCount ∨ s.twin.linkState ≠ 3 ∨ s.twin.wdGone = true ∨ s.mg.inReset = true → exec .heartbeatSend s = .next s) ∧
    (s.now / 1000 ≠ s.twin.hbCount → s.twin.linkState = 3 → s.twin.wdGone = false → s.mg.inReset = false →
      let t := s.setTwin { s.twin with hbCount := s.now / 1000, out := s.twin.out ++ [.heartbeat s.twin.role s.twin.pair s.twin.applied (short s.now)] }
      exec .heartbeatSend s = .next (if s.now / 1000 % 10 = 0 then t.tell .lock else t)) ∧
    (s.now / 1000 = s.twin.hbEnd ∨ s.mg.inReset = true → exec .heartbeatIntervalEnd s = .next s) ∧
    (s.now / 1000 ≠ s.twin.hbEnd → s.mg.inReset = false →
      ((s.together = false ∧ s.joining = false) ∨ s.twin.hbSeen = true → exec .heartbeatIntervalEnd s =
        .next (s.setTwin { s.twin with hbEnd := s.now / 1000, hbSeen := false, hbMissed := 0 })) ∧
      (s.together = true ∨ s.joining = true → s.twin.hbSeen = false →
        let t := (s.setTwin { s.twin with hbEnd := s.now / 1000, hbMissed := s.twin.hbMissed + 1 }).event 0x285 3 1
        (s.twin.hbMissed < 2 → exec .heartbeatIntervalEnd s = .next t) ∧
        (2 ≤ s.twin.hbMissed → exec .heartbeatIntervalEnd s = .next (t.peerLost 1)))) ∧
    (∀ why, (s.joining = true → s.peerLost why = s.failAttach why) ∧
      (s.joining = false → s.together = false ∨ s.twin.role = .solo → s.peerLost why = s) ∧
      (s.together = true → s.twin.role = .active → s.peerLost why = s.goAlone .lost .active why) ∧
      (s.together = true → s.twin.role = .standby → s.mirrored = false → s.peerLost why = s.failAttach why) ∧
      (s.twin.role = .standby → s.mirrored = true →
        (s.peerLost why).twin.pair = .lost ∧ (s.peerLost why).twin.role = .standby ∧ (s.peerLost why).twin.leaveReason = why ∧
        (s.twin.peerActive = false → (s.peerLost why).twin.declared = some s.up) ∧
        (s.twin.peerActive = true → (s.peerLost why).twin.declared = none ∧ .promoteBlocked ∈ (s.peerLost why).mg.alerts))) ∧
    exec .leavingReceived s = .next (s.peerLost 2) ∧
    (∀ level, exec (.peerActiveChange level) s = .next ((s.setTwin { s.twin with peerActive := level, peerLowAt := if level then none else some s.up, bothHighAt := if level && s.twin.active then some s.up else none }).interlock.promoteLost)) ∧
    (s.pinConflict = false → s.interlock = s) ∧
    (s.pinConflict = true → Config.peerPref ≠ s.mg.twinPref →
      s.interlock = if s.mg.twinPref then s else s.setTwin { s.twin with active := false, bothHighAt := none }) ∧
    (s.pinConflict = true → Config.peerPref = s.mg.twinPref →
      s.interlock.twin.active = false ∧ s.interlock.twin.roleConflict = true ∧ .roleConflict ∈ s.interlock.mg.alerts) ∧
    (s.twin.declared = none ∨ s.twin.role ≠ .standby ∨ s.twin.pair ≠ .lost ∨ s.twin.peerActive = true → exec .promotion s = .next s) ∧
    (∀ d, s.twin.declared = some d → s.twin.role = .standby → s.twin.pair = .lost → s.twin.peerActive = false →
      let t0 := max d (s.twin.peerLowAt.getD d)
      (s.up < t0 + 50 → exec .promotion s = .next s) ∧
      (t0 + 50 ≤ s.up → s.up < t0 + 2000 → s.twin.blocked = false → exec .promotion s = .next (s.setTwin { s.twin with active := true })) ∧
      (t0 + 2000 ≤ s.up → s.up < t0 + 4000 → s.twin.blocked = false → exec .promotion s = .next (s.setTwin { s.twin with active := true, enabled := true })) ∧
      (t0 + 4000 ≤ s.up → s.twin.blocked = false → exec .promotion s = .next ((s.setTwin { s.twin with active := true, enabled := true }).promoted))) ∧
    (∀ mem copies binds,
      (s.twin.pair ≠ .bulk → exec (.attachBulkDone mem copies binds) s = .next s) ∧
      (s.twin.pair = .bulk → s.twin.role ≠ .standby → exec (.attachBulkDone mem copies binds) s = .next (s.sendFinal.twinChange { s.sendFinal.twin with pair := .final })) ∧
      (s.twin.pair = .bulk → s.twin.role = .standby →
        let t := mem.foldl (fun s e => (s.hbmWrite e.1 e.2).1) s
        let u := binds.foldl (fun s e => s.joinBinding e.1 e.2) (t.setKiln { t.kiln with copies := copies.sections })
        let v := copies.links.foldl (fun s k => s.joinLink k) u
        exec (.attachBulkDone mem copies binds) s = .next (v.twinChange { v.twin with pair := .final }))) ∧
    (∀ k : LinkCopy, ((s.joinLink k).link k.link).seq = k.seq ∧ ((s.joinLink k).link k.link).bseq = k.bseq ∧ ((s.joinLink k).link k.link).echoFor = k.echoFor ∧ ((s.joinLink k).link k.link).cmd = k.cmd ∧
      (∀ l, l ≠ k.link → (s.joinLink k).link l = s.link l)) ∧
    (∀ qs ix,
      (s.twin.pair ≠ .final → exec (.attachFinalDone qs ix) s = .next s) ∧
      (s.twin.pair = .final → s.twin.role ≠ .standby → exec (.attachFinalDone qs ix) s = .next (s.twinChange { s.twin with pair := .synced })) ∧
      (s.twin.pair = .final → s.twin.role = .standby → s.bindings.any (fun e => e.2.catchup) = false → (∀ e ∈ qs, e.1 = 0 ∨ e.2.outst = []) →
        let t := (qs.filter (fun e => decide (e.1 ≠ 0 ∧ e.1 < 4096))).foldl (fun s e => s.setQueue e.1 e.2) s
        let u := t.setTwin { s.twin with applied := ix, commitIx := ix.toNat }
        exec (.attachFinalDone qs ix) s = .next ((u.twinChange { u.twin with pair := .synced }).attachEnds St.done))) ∧
    (s.twin.detachAt = none → exec .detachEffect s = .next s) ∧
    (∀ c q sq, s.twin.detachAt = some (c, q, sq) →
      (s.now < c → exec .detachEffect s = .next s) ∧
      (let t := s.setTwin { s.twin with detachAt := none }
       let ends := fun (u : State) => u.complete q sq { r0 := BitVec.ofNat 64 u.twin.role.num } { }
       (c ≤ s.now → s.twin.role = .solo → exec .detachEffect s = .next (ends (t.attachEnds St.flagged))) ∧
       (c ≤ s.now → s.twin.role = .active → exec .detachEffect s = .next (ends (t.goAlone .none .solo 3))))) ∧
    (s.twin.swapAt = none → exec .roleSwapCount s = .next s) ∧
    (∀ c q sq, s.twin.swapAt = some (c, q, sq) → s.twin.role = .active →
      (s.now < c ∨ s.mirrored = false ∨ s.onDemandRunning = true ∨ s.twin.entries ≠ [] → exec .roleSwapCount s = .next s) ∧
      (c ≤ s.now → s.mirrored = true → s.onDemandRunning = false → s.twin.entries = [] →
        let t := s.handOver.tell (.roleSwap s.now)
        exec .roleSwapCount s = .next ((t.twinChange { t.twin with role := .standby, active := false, enabled := false, swapAt := none, received := [], declared := none }).complete q sq { r0 := 2 } { }))) ∧
    (∀ c q sq, s.twin.swapAt = some (c, q, sq) → s.twin.role ≠ .active →
      (s.now < c + 50 → exec .roleSwapCount s = .next s) ∧
      (s.peerLow = false → s.now < c + 100 → exec .roleSwapCount s = .next s) ∧
      (c + 50 ≤ s.now → s.now < c + 100 → s.peerLow = true → s.twin.blocked = false →
        exec .roleSwapCount s = .next (s.setTwin { s.twin with active := true }))) ∧
    ((s.dom 105).rung ≠ 0 → exec .twinLinkTrained s = .next s) ∧
    ((s.dom 105).rung = 0 → exec .twinLinkTrained s =
      .next (s.setTwin { s.twin with linkState := 3, lanesLocked := 15, retryRun := 0, nakSent := false })) ∧
    (∀ n, n < 4 → exec (.twinLaneLockLoss n) s = .next (s.setTwin { s.twin with
      lanesLocked := s.twin.lanesLocked &&& ~~~(BitVec.ofNat 4 (2 ^ n)), lockLoss := satAdd s.twin.lockLoss 1, linkState := 1 }))

/-- A flit with a bad CRC is counted and answered by a nak; one in sequence moves the receive number, and its message takes effect when it is whole
(16 R533, R534). A nak sends the unacknowledged flits again; when the expected flit has been sent again 8 times in vain the lanes count as unlocked,
and an idle flit leaves where nothing waits or 256 flits are unacknowledged (R534). A commit entry is applied in index order, once, and acknowledged (14 R467); the
peer's acknowledgement frees the records up to its index (R464). A mirrored command is accepted when its mirror is acknowledged (10 R321). The record
whose turn it is leaves the reorder buffer for the ring, or for the overflow area, which stops the queue at 4,096 (R335, R336). A copy set is
installed between two invocations (14 R461). -/
def Obligations.TwinLogEvents : Prop :=
  ∀ s : State,
    (∀ f,
      (s.twin.linkState ≠ 3 ∨ s.mg.inReset = true → exec (.flitReceived f) s = .next s) ∧
      (s.twin.linkState = 3 → s.mg.inReset = false →
        (flitGood f = false → exec (.flitReceived f) s = .next (((s.setTwin { s.twin with crcErr := satAdd s.twin.crcErr 1 }).event 0x282 3 1).nakOut
          (bit (BitVec.ofNat 64 (leAt 1 1 f)) 2 && decide (BitVec.ofNat 16 (leAt 2 2 f) = s.twin.rxSeq + 1)))) ∧
        (flitGood f = true → bit (BitVec.ofNat 64 (leAt 1 1 f)) 1 = false →
          let u := (s.event 0x280 3 1).flitsAcked (BitVec.ofNat 16 (leAt 4 2 f))
          (leAt 0 1 f = 0 → exec (.flitReceived f) s = .next u) ∧
          (leAt 0 1 f ≠ 0 → BitVec.ofNat 16 (leAt 2 2 f) = s.twin.rxSeq + 1 → exec (.flitReceived f) s = .next (u.flitTaken f)) ∧
          (leAt 0 1 f ≠ 0 → BitVec.ofNat 16 (leAt 2 2 f) ≠ s.twin.rxSeq + 1 →
            exec (.flitReceived f) s = .next (if s.twin.nakSent then u else u.nakOut false))))) ∧
    (∀ again : Bool,
      let run := s.twin.retryRun + if again then 1 else 0
      let t := (s.setTwin { s.twin with nakSent := true, retries := satAdd s.twin.retries 1, retryRun := run,
                                        sent := s.twin.sent ++ [flit 0 2 0 s.twin.rxSeq []] }).event 0x284 3 1
      (run < 8 → s.nakOut again = t) ∧
      (8 ≤ run → s.nakOut again = t.setTwin { t.twin with linkState := 1, lanesLocked := 0, lockLoss := satAdd s.twin.lockLoss 1, retryRun := 0 })) ∧
    (s.twin.linkState ≠ 3 → s.pump = s) ∧
    (s.twin.linkState = 3 → 256 ≤ s.twin.replayBuf.length ∨ (s.twin.out = [] ∧ s.twin.part = []) →
      s.pump = s.setTwin { s.twin with sent := s.twin.sent ++ [flit 0 0 0 s.twin.rxSeq []] }) ∧
    (∀ f, bit (BitVec.ofNat 64 (leAt 1 1 f)) 0 = false → (s.flitTaken f).twin.rxSeq = BitVec.ofNat 16 (leAt 2 2 f) ∧
      Tbl.get [] (leAt 0 1 f) (s.flitTaken f).twin.msg = Tbl.get [] (leAt 0 1 f) s.twin.msg ++ slice 8 (min (leAt 6 1 f) 52) f) ∧
    (∀ a,
      let t := { s.twin with replayBuf := s.twin.replayBuf.filter (fun e => seqAfter e.1 a) }
      exec (.nakReceived a) s = .next ((s.setTwin { t with
        retries := satAdd t.retries 1, sent := t.sent ++ t.replayBuf.map (fun e => resentFlit t.rxSeq e.2) }).event 0x284 3 1)) ∧
    (∀ en,
      (s.twin.role ≠ .standby ∨ (s.mirrored = false ∧ s.twin.pair ≠ .lost) ∨ en.length < 224 ∨ leAt 0 8 en ≤ s.twin.applied.toNat ∨
          s.twin.received.any (fun e => decide (leAt 0 8 e = leAt 0 8 en)) = true →
        exec (.commitEntryReceived en) s = .next s) ∧
      (s.twin.role = .standby → s.mirrored = true ∨ s.twin.pair = .lost → 224 ≤ en.length → s.twin.received = [] →
        (s.twin.applied.toNat + 1 < leAt 0 8 en → exec (.commitEntryReceived en) s = .next (s.setTwin { s.twin with received := [en] })) ∧
        (leAt 0 8 en = s.twin.applied.toNat + 1 → ∃ t, exec (.commitEntryReceived en) s = .next t ∧
          t.twin.applied = BitVec.ofNat 64 (leAt 0 8 en) ∧ t.twin.commitIx = leAt 0 8 en ∧ .ackEntry (leAt 0 8 en) ∈ t.twin.out))) ∧
    (∀ ix, ∃ t, exec (.commitMirrorAck ix) s = .next t ∧ t.twin.entries = s.twin.entries.filter (fun e => decide (ix < e.1)) ∧
      (∀ q, (t.queue q).outst = (s.queue q).outst ∧ (t.queue q).ring = (s.queue q).ring ∧
        (t.queue q).reorder.map (fun d => d.record) = (s.queue q).reorder.map (fun d => d.record))) ∧
    (s.twin.mirrors = [] → exec .queueMirrorAck s = .next s) ∧
    (∀ m, s.twin.mirrors = [m] → exec .queueMirrorAck s = .next (s.dropArrival.accept m)) ∧
    (∀ q, q < 4096 →
      let v := s.queue q
      (v.turn = none ∨ v.stopped = true → exec (.completionRelease q) s = .next s) ∧
      (∀ d, v.turn = some d →
        (d.mirrored = false → exec (.completionRelease q) s = .next s) ∧
        (v.stopped = false → d.mirrored = true → ∃ t, exec (.completionRelease q) s = .next t ∧
          (t.queue q).released = v.released + 1 ∧ (t.queue q).reorder = v.reorder.filter (fun x => decide (x.record.seq ≠ d.record.seq)) ∧
          (v.ring.length < v.depth → v.overflow = [] → (t.queue q).ring = v.ring ++ [d.record] ∧ (t.queue q).overflow = [] ∧ (t.queue q).stopped = false) ∧
          (v.depth ≤ v.ring.length ∨ v.overflow ≠ [] → (t.queue q).ring = v.ring ∧ (t.queue q).overflow = v.overflow ++ [d.record] ∧
            (t.queue q).stopped = decide (v.overflow.length + 1 ≥ 4096)) ∧
          (∀ k, k ≠ q → t.queue k = s.queue k)))) ∧
    (∀ b data,
      (s.binding b = none → exec (.catchup b data) s = .next s) ∧
      (∀ v, s.binding b = some v →
        (v.catchup = false ∨ v.running = true ∨ v.toStart = true ∨ s.mirrored = false ∨ s.phys v.ltile = none → exec (.catchup b data) s = .next s) ∧
        (∀ p, v.catchup = true → v.running = false → v.toStart = false → s.mirrored = true → s.phys v.ltile = some p → (s.tile p).slotOf b = none →
          let u := data.foldl (fun s e => match storeAt e.1 with
            | some x => (s.storeWrite p x.1 x.2 e.2).updTile p (Tile.noteWrite v.image x.1 x.2 e.2.length)
            | none => s) s
          let u := u.setBinding b { v with catchup := false, firstRerun := false }
          exec (.catchup b data) s = .next ((u.setTwin { u.twin with catchups := satAdd u.twin.catchups 1 }).catchupEnd))))

/-! ## Events of the resets, of the recorder and of a replay (12 R414 to R422; 14 R455; 15 R490 to R511) -/

/-- A power-on reset leaves the flash, whose health record it empties on request, and what waits outside the device (15 R490, R492, R508). A warm
reset keeps the count, HBM, the journal, the flash, the queues and the stores (R492), cuts off the work under way (R493), and starts the ROM unless
RESET_N holds it. When RESET_N rises the straps are sampled (R494), and the ROM ends in RECOVERY or TEST where the straps or the identity say so
(R514), with status on the SMBus target alone where no pseudo-channel trains. START_UP ends in SERVICE (R497). A firmware load writes the flash, is
read back and checked, and completes (R507). A TRNG failure is counted (R511). The recorder starts
at its count (12 R416) and writes a GAP when there is room again (R417); a replay takes each entry at its stamp (R420) and ends at END, at a GAP or at
the end of its log (R421, R422). -/
def Obligations.ResetAndRecorderEvents : Prop :=
  ∀ s : State,
    (let f := if s.mg.healthClear then s.mg.flash.newRecord s.mg.secret { } else s.mg.flash
     exec .powerOnReset s = .next { State.reset with
       pending := s.pending, freeIx := s.freeIx, mg := { State.reset.mg with flash := f, safeBall := s.mg.safeBall },
       twin := { State.reset.twin with peerActive := s.twin.peerActive } }) ∧
    (∀ cause, 1 ≤ cause → cause ≤ 3 →
      (s.mg.inReset = true → exec (.warmReset cause) s = .next s) ∧
      (cause ≠ 1 → s.mg.warmAt.any (fun w => decide (w.2 = cause ∧ w.1 ≤ s.up)) = false → exec (.warmReset cause) s = .next s) ∧
      (s.mg.inReset = false →
        let t := s.cutOff.flushCache.keptOver
        let u := t.setMg { t.mg with resetCause := BitVec.ofNat 3 cause, inReset := true }
        (cause = 1 → exec (.warmReset cause) s = .next u) ∧
        (cause ≠ 1 → s.mg.warmAt.any (fun w => decide (w.2 = cause ∧ w.1 ≤ s.up)) = true → exec (.warmReset cause) s = .next (u.boot true [])))) ∧
    (s.keptOver.now = s.now ∧ s.keptOver.hbm.mem = s.hbm.mem ∧ s.keptOver.mg.flash = s.mg.flash ∧ s.keptOver.mg.journal = s.mg.journal ∧
      s.keptOver.queues = s.queues ∧ (∀ p, (s.keptOver.tile p).mem = (s.tile p).mem) ∧ s.keptOver.twin.applied = s.twin.applied ∧
      s.keptOver.twin.log = s.twin.log ∧ s.keptOver.tb = { s.tb with shadow := none } ∧ s.keptOver.wit.buffer = s.wit.buffer ∧
      s.keptOver.slots = [] ∧ s.keptOver.bindings = [] ∧ s.keptOver.links = [] ∧ s.keptOver.pairs = [] ∧ s.keptOver.lanes = [] ∧ s.keptOver.mailboxes = [] ∧
      s.keptOver.kiln.ready = [] ∧ s.keptOver.kiln.swapped = [] ∧ s.keptOver.hbm.pinned = []) ∧
    (∀ sel pref safe bad,
      (s.mg.inReset = false → exec (.resetRelease sel pref safe bad) s = .next s) ∧
      (s.mg.inReset = true → exec (.resetRelease sel pref safe bad) s =
        .next ((s.setMg { s.mg with bootSel := sel, twinPref := pref, pwmSafe := safe, safeBall := safe }).boot (decide (s.mg.resetCause ≠ 0)) bad))) ∧
    (∀ warm bad,
      (s.mg.bootSel = 4 → (s.boot warm bad).mg.dev = .test ∧ (s.boot warm bad).mg.inReset = false) ∧
      (s.mg.bootSel = 2 ∨ 5 ≤ s.mg.bootSel.toNat → (s.boot warm bad).mg.dev = .recovery ∧ (s.boot warm bad).mg.inReset = false ∧
        (s.boot warm bad).mg.strapErr = decide (5 ≤ s.mg.bootSel.toNat) ∧
        (s.boot warm bad).mg.recoveryWhy = (if (s.boot warm bad).pcSlots = [] then 4 else 1) ∧
        ((s.boot warm bad).queue 0).enabled = decide ((s.boot warm bad).pcSlots ≠ []) ∧ (s.boot warm bad).mute = decide ((s.boot warm bad).pcSlots = [])) ∧
      (s.mg.bootSel.toNat < 2 ∨ s.mg.bootSel = 3 → warm = true → s.mg.identityOk = false →
        (s.boot warm bad).mg.dev = .recovery ∧ (s.boot warm bad).mg.recoveryWhy = (if (s.boot warm bad).pcSlots = [] then 4 else 3))) ∧
    (s.serviceDue = false → exec .enterService s = .next s) ∧
    (s.serviceDue = true →
      let t := s.setMg { s.mg with dev := .service }
      exec .enterService s = .next (if s.mg.resetCause ≠ 0 then t.resumeWork else t)) ∧
    (s.mg.load = none → exec .fwLoadDone s = .next s) ∧
    (∀ l, s.mg.load = some l →
      let a := s.mg.areaFor l.object
      let t := s.setMg { s.mg with load := none, flash := s.mg.flash.store a l.object }
      let loc := ((s.outstOf l.queue l.seq).map (fun o => locHbm o.pkt.descAddr)).getD 0
      exec .fwLoadDone s = .next (if t.mg.accepts (t.mg.flash.content a) = true then
          (t.journalNow (s.causeOf l.queue l.seq) (objTarget 0 0x31) none none).complete l.queue l.seq { r0 := BitVec.ofNat 64 (objVersion l.object) } { }
        else t.complete l.queue l.seq { status := St.dataError, location := loc } { })) ∧
    exec (.trngHealthFail true) s = .next (s.setMg { s.mg with trngOk := false, trngFails := satAdd s.mg.trngFails 1 }) ∧
    exec (.trngHealthFail false) s = .next (s.setMg { s.mg with trngOk := true }) ∧
    (s.wit.startAt = none → exec .witnessRecordStart s = .next s) ∧
    (∀ c out cause, s.wit.startAt = some (c, out, cause) →
      (s.now < c → exec .witnessRecordStart s = .next s) ∧
      (c ≤ s.now → ∃ t, exec .witnessRecordStart s = .next t ∧ t.wit.mode = .record ∧ t.wit.recording = true ∧ t.wit.outputs = out ∧ t.wit.startAt = none ∧
        t.queues = s.queues ∧ t.slots = s.slots ∧ t.tb = s.tb)) ∧
    (s.wit.lost = 0 ∨ s.wit.mode ≠ .record ∨ witRoom < witFill s.wit + 65536 → exec .witnessGap s = .next s) ∧
    (s.wit.lost ≠ 0 → s.wit.mode = .record → witFill s.wit + 65536 ≤ witRoom → exec .witnessGap s =
      .next ((s.setWit { s.wit with lost := 0, gaps := satAdd s.wit.gaps 1 }).witPut 0x3F 0 s.now (leBytes 8 s.wit.lost))) ∧
    (let bs := s.logRest
     let e := bs.take (entrySize bs)
     (s.wit.mode ≠ .replay → exec .replayEntry s = .next s ∧ exec .replayEnd s = .next s) ∧
     (bs = [] → exec .replayEntry s = .next s) ∧
     (s.wit.mode = .replay → bs = [] → exec .replayEnd s = .next (s.replayEnd false)) ∧
     (s.wit.mode = .replay → bs ≠ [] →
       (logType e = 0x3E ∨ logType e = 0x3F ∨ s.now < logStamp e → exec .replayEntry s = .next s) ∧
       (logType e ≠ 0x3E → logType e ≠ 0x3F → logStamp e ≤ s.now →
         exec .replayEntry s = .next ((s.setWit { s.wit with logPos := s.wit.logPos + entrySize bs }).replayOne e)) ∧
       (s.now < logStamp bs ∨ (logType bs ≠ 0x3E ∧ logType bs ≠ 0x3F) → exec .replayEnd s = .next s) ∧
       (logStamp bs ≤ s.now → logType bs = 0x3E → exec .replayEnd s = .next (s.replayEnd false)) ∧
       (logStamp bs ≤ s.now → logType bs = 0x3F →
         exec .replayEnd s = .next ((s.setWit { s.wit with gaps := satAdd s.wit.gaps 1, gapMet := true }).replayEnd false)))) ∧
    (∀ e, logType e = 3 → s.replayOne e = s.setTb { s.tb with inc := limitInc (w64At 0 (logPayload e)) }) ∧
    (∀ v, incMin ≤ ((limitInc v).toNat : Int) ∧ ((limitInc v).toNat : Int) ≤ incMax) ∧
    (∀ b q sq, s.wit.mode = .replay → s.wit.by_ = some (q, sq) →
      (s.replayEnd b).wit.mode = .off ∧ (s.replayEnd b).wit.log = [] ∧ (s.replayEnd b).mg.dev = .service ∧ (s.replayEnd b).lanes = [])

/-- When the device watchdog expires the device lowers TWIN_ACTIVE, raises trip source 82, sends no more heartbeats, puts a LEAVING flit on the link
of its pair and leaves the pair; the warm reset is due 1 ms later (14 R455; 15 R491). -/
def Obligations.WatchdogExpiry : Prop :=
  ∀ s : State,
    (s.mg.inReset = true ∨ s.twin.wdGone = true → exec .watchdogExpiry s = .next s) ∧
    (s.mg.inReset = false → s.twin.wdGone = false → ∃ t, exec .watchdogExpiry s = .next t ∧
      t.twin.active = false ∧ (t.tripSrc 82).raised = true ∧ (t.tripSrc 82).latch = true ∧ exec .heartbeatSend t = .next t ∧
      t.twin.pair = .none ∧ (s.twin.pair ≠ .none → t.twin.leaveReason = 5 ∧ t.twin.role = .solo ∧ .leaving ∈ t.twin.out) ∧
      (s.twin.pair = .none → t.twin.leaveReason = s.twin.leaveReason) ∧
      t.mg.wdExpired = true ∧ t.mg.warmAt = s.mg.warmAt ++ [(s.up + 1000000, 3)] ∧ .watchdog ∈ t.mg.alerts)

/-! ## The whole machine -/

/-- A step runs the command at the front of the queue with the rest of the queue, and with no command waiting the block idles: the model's own form of taking commands in the order of their arrival (log entry 1; it rests on 10 R322). -/
def Obligations.StepRunsFront : Prop :=
  (∀ (s : State) (c : Instr), step { s with pending := c :: s.pending } = exec c s) ∧
  (∀ (s : State) (c : Instr) (rest : List Instr), s.pending = c :: rest → step s = exec c { s with pending := rest }) ∧
  (∀ s : State, s.pending = [] → step s = .next s)

/-- A power-on reset leaves Q0 enabled with depth 256 and priority 7 and every other queue disabled, of control class below Q16 (10 R313); the device
in START_UP with its counter at zero and in a LONG state (12 R400; 15 R492, R495); nothing bound (15 R492), no slot, link or pair, every pair safe (08
R282); masks of sources 80 and 82 all ones (08 R291); every byte of the stores zero (02 R74); SOLO and in no pair (15 R492). The byte of HBM that
nothing has written, and Q16 upward of data class, are the model's choices (log entries 5 and 82). g0, p0 and k0 are hard-wired (05 R141): writes to
them are ignored. -/
def Obligations.ResetAndHardWired : Prop :=
  (let s := State.reset
   s.pending = [] ∧ s.mg.dev = .startUp ∧ s.mg.inReset = true ∧ s.now = 0 ∧ s.tb.frac = 0 ∧ s.stampLong = true ∧ s.tb.inc = 0xAAAAAAAB ∧
   (s.queue 0).enabled = true ∧ (s.queue 0).depth = 256 ∧ (s.queue 0).prio = 7 ∧
   (∀ q, q ≠ 0 → (s.queue q).enabled = false ∧ (s.queue q).dataClass = decide (16 ≤ q) ∧ (s.queue q).ring = [] ∧ (s.queue q).outst = []) ∧
   (∀ n, (s.slot n).st = .unbound ∧ (s.link n).st = .down ∧ (s.link n).en = false ∧ (s.pair n).safe = true ∧ (s.pair n).en = false ∧ s.binding n = none) ∧
   (∀ n, (s.tripSrc n).latch = false ∧ (s.tripSrc n).mask = if n = 80 ∨ n = 82 then 0xFFFFFFFFFFFF else 0) ∧
   (∀ t a, Mem.read a (s.tile t).mem = 0 ∧ (s.tile t).cur = none ∧ (s.tile t).reserved = false ∧ (s.tile t).failed = false) ∧
   (∀ a, Mem.read a s.hbm.mem = 0) ∧ (∀ m, (s.mailbox m).value = 0 ∧ (s.mailbox m).writer = none) ∧
   s.twin.role = .solo ∧ s.twin.pair = .none ∧ s.twin.active = false ∧ s.wit.mode = .off ∧ s.mg.journal.index = 0 ∧ s.mg.alerts = [] ∧ s.Inv) ∧
  (∀ (c : Ctx) (v : W64) (b : Bool),
    c.reg 0 = 0 ∧ c.pred 0 = true ∧ c.mask 0 = BitVec.allOnes 64 ∧ c.setReg 0 v = c ∧ c.setPred 0 b = c ∧ c.setMask 0 v = c ∧
    (∀ n, n ≠ 0 → (c.setReg n v).reg n = v ∧ (c.setPred n b).pred n = b ∧ (c.setMask n v).mask n = v ∧
      ∀ m, m ≠ n → (c.setReg n v).reg m = c.reg m ∧ (c.setPred n b).pred m = c.pred m ∧ (c.setMask n v).mask m = c.mask m))

/-- The issue of one instruction. Words of the spec's examples name the instructions that they stand for, and a reserved major or minor code names none
(05 R143, R145, R147). A pending trap ends a THROUGHPUT job (05 R164), an uncorrectable word that another engine met for it ends a job at its location
(02 R54, 11 R383), and a fetch outside CODE, a word with a reserved code and a reserved or unused field that is not zero
end it with FAILED_DATA_ERROR at the instruction (R146), a false guard leaves everything but pc
(R144), and a tile with no context that may issue does nothing (log entries 3 and 7). The frame: an instruction of the scalar, predicate, vector and
compare groups changes, of the whole device, nothing but its destination, pc and the flag words of its context (R141, R147, R152, R156) and the event
counters; no byte of any store or of HBM. -/
def Obligations.InstructionIssueAndFrame : Prop :=
  (∀ t : Nat,
    tileInstr t 0x0200029400000020 = some (.addi t 0x029400000020) ∧ tileInstr t 0x05003000FFFFFFFD = some (.br t 0x3000FFFFFFFD) ∧
    tileInstr t 0x0906001000000001 = some (.cwait t 0x001000000001) ∧ tileInstr t 0x0905009000000000 = some (.clast t 0x009000000000) ∧
    tileInstr t 0x0601010500000000 = some (.ldD t 0x010500000000) ∧ tileInstr t 0x0907001000000000 = some (.cdrain t 0x001000000000) ∧
    (∀ w : W64, fld w 56 8 = 0x0C ∨ (fld w 56 8 = 0x02 ∧ fld w 48 8 = 1) ∨ 0x24 ≤ fld w 56 8 → tileInstr t w = none ∧ codeGood t (w64Bytes w) = false)) ∧
  (∀ (i : Instr) (s : State) (t : Nat) (f : BitVec 48) (ok : Bool), i.form = some (t, f, ok) →
    (68 ≤ t → s.builtinAt t = none → exec i s = .fault .noSuchUnit) ∧
    (t < 68 → s.issuing t = none → s.builtinAt t = none → exec i s = .next s) ∧
    (∀ c, t < 68 → s.builtinAt t = none → s.issuing t = some c →
      (∀ l, c.doomed = some l → exec i s = .next (s.failJob t (s.tile t).execSlot l.1 l.2)) ∧
      (c.doomed = none → c.trap = true → c.job.tput = true → exec i s = .next (s.failJob t (s.tile t).execSlot St.fpTrap 0)) ∧
      (c.doomed = none → (c.trap && c.job.tput) = false → c.inCode = false → exec i s = .next (s.failJob t (s.tile t).execSlot St.dataError (locInstr t c.pc)))) ∧
    (∀ c, s.Fetches t c → codeGood t (s.bytesAt t 3 (8 * c.pc) 8) = false →
      exec i s = .next (s.failJob t (s.tile t).execSlot St.dataError (locInstr t c.pc))) ∧
    (∀ c, s.Issues t c →
      (ok = false → exec i s = .next (s.failJob t (s.tile t).execSlot St.dataError (locInstr t c.pc))) ∧
      (ok = true → c.guarded f = false → exec i s = s.ran t (c.after s.now s.up)))) ∧
  (∀ (i : Instr) (s : State) (t : Nat) (f : BitVec 48) (c : Ctx), i.form = some (t, f, true) → s.Runs t f c →
    (i ∈ [Instr.add t f, .sub t f, .and t f, .or t f, .xor t f, .shl t f, .shr t f, .sar t f, .mov t f, .adds t f, .subs t f, .addi t f, .andi t f,
        .ori t f, .xori t f, .shli t f, .shri t f, .sari t f, .movi t f, .movhi t f, .addsi t f, .mul t f, .mulh t f, .mulhu t f, .mulhsu t f, .div t f,
        .divu t f, .rem t f, .remu t f, .flgrd t f] →
      ∃ u k, exec i s = .next u ∧ s.OnlyCtx u t k ∧ (∀ n, n ≠ Fmt.d f → k.reg n = c.reg n) ∧
        k = { c.after s.now s.up with g := k.g, flagW := k.flagW, jobAcc := k.jobAcc, trap := k.trap }) ∧
    (i ∈ [Instr.cmp t f, .pand t f, .por t f, .pxor t f, .pnot t f] →
      ∃ u k, exec i s = .next u ∧ s.OnlyCtx u t k ∧ (∀ n, n ≠ Fmt.d f → k.pred n = c.pred n) ∧ k = { c.after s.now s.up with p := k.p }) ∧
    (i ∈ [Instr.vadd t f, .vsub t f, .vand t f, .vor t f, .vxor t f, .vshl t f, .vshr t f, .vsar t f, .vadds t f, .vsubs t f, .vmulI t f, .vmuls t f,
        .vmin t f, .vmax t f, .vsel t f, .vneg t f, .vabs t f, .vbcast t f, .vaddF t f, .vsubF t f, .vmulF t f, .vmulaF t f, .vminF t f, .vmaxF t f,
        .vminnum t f, .vmaxnum t f, .vselF t f, .vnegF t f, .vabsF t f, .vcpysgn t f, .vclamp t f] →
      ∃ u k, exec i s = .next u ∧ s.OnlyCtx u t k ∧ (∀ n, n ≠ Fmt.d f → k.vec n = c.vec n) ∧
        k = { c.after s.now s.up with v := k.v, flagW := k.flagW, jobAcc := k.jobAcc, trap := k.trap }) ∧
    (i ∈ [Instr.vcmp t f, .vcmpF t f] →
      ∃ u k, exec i s = .next u ∧ s.OnlyCtx u t k ∧ (∀ n, n ≠ Fmt.d f → k.mask n = c.mask n) ∧
        k = { c.after s.now s.up with k := k.k, flagW := k.flagW, jobAcc := k.jobAcc, trap := k.trap }))

/-- Every command that names units that exist has a next state, whatever the device holds, and a command that names a unit the device does not have
stops by name (log entry 6): no data and no state ends a run. -/
def Obligations.WellFormedCompletes : Prop :=
  (∀ (c : Instr) (s : State), c.wf → ∃ t, exec c s = .next t) ∧
  (∀ (c : Instr) (s : State), ¬ c.wf → exec c s = .fault .noSuchUnit) ∧
  (∀ (c : Instr) (s : State) (r : Refusal), exec c s ≠ .refused r)

/-- From every state that keeps the rules of the whole machine a step answers a next state, and that state keeps them: HBM and every tile's stores
stay in canonical form, and no command touches the queue of those that wait behind it. -/
def Obligations.StepKeepsInvariant : Prop :=
  ∀ s : State, s.Inv → ∃ t, step s = .next t ∧ t.Inv
end

