-- ==== Sys2Proof/Laws/Table.lean ====
section
/-!
SUPPORT. Reading after writing a sparse table, and the canonical form of a memory: every operation keeps it.
-/

set_option Elab.async false

namespace Sys2Proof.Machine

open Sys2Proof

variable {α : Type}

@[simp] theorem Tbl.get_nil (d : α) (k : Nat) : Tbl.get d k [] = d := rfl

theorem Tbl.get_cons (d : α) (k j : Nat) (a : α) (t : Tbl α) :
    Tbl.get d k ((j, a) :: t) = if j = k then a else Tbl.get d k t := rfl

@[simp] theorem Tbl.get_insert_same (d : α) (k : Nat) (v : α) (t : Tbl α) : Tbl.get d k (Tbl.insert k v t) = v := by
  induction t with
  | nil => simp [Tbl.insert, Tbl.get]
  | cons e t ih =>
    obtain ⟨j, a⟩ := e
    simp only [Tbl.insert]
    split
    · simp [Tbl.get]
    · split
      · simp [Tbl.get]
      · rename_i h
        simp [Tbl.get, h, ih]

theorem Tbl.get_insert_ne (d : α) {k m : Nat} (h : m ≠ k) (v : α) (t : Tbl α) :
    Tbl.get d m (Tbl.insert k v t) = Tbl.get d m t := by
  induction t with
  | nil => simp [Tbl.insert, Tbl.get, Ne.symm h]
  | cons e t ih =>
    obtain ⟨j, a⟩ := e
    simp only [Tbl.insert]
    split
    · simp [Tbl.get, Ne.symm h]
    · split
      · rename_i hj
        subst hj
        simp [Tbl.get, Ne.symm h]
      · simp [Tbl.get, ih]

@[simp] theorem Tbl.get_erase_same (d : α) (k : Nat) (t : Tbl α) : Tbl.get d k (Tbl.erase k t) = d := by
  induction t with
  | nil => rfl
  | cons e t ih =>
    obtain ⟨j, a⟩ := e
    simp only [Tbl.erase]
    split
    · exact ih
    · rename_i h
      simp [Tbl.get, h, ih]

theorem Tbl.get_erase_ne (d : α) {k m : Nat} (h : m ≠ k) (t : Tbl α) : Tbl.get d m (Tbl.erase k t) = Tbl.get d m t := by
  induction t with
  | nil => rfl
  | cons e t ih =>
    obtain ⟨j, a⟩ := e
    simp only [Tbl.erase]
    split
    · rename_i hj
      subst hj
      simp [Tbl.get, Ne.symm h, ih]
    · simp [Tbl.get, ih]

@[simp] theorem Tbl.get_set_same [DecidableEq α] (d : α) (k : Nat) (v : α) (t : Tbl α) : Tbl.get d k (Tbl.set d k v t) = v := by
  unfold Tbl.set
  split
  · rename_i h
    simp [h]
  · simp

/-- Another index holds what it held, whatever the two unlisted values are. -/
theorem Tbl.get_set_ne [DecidableEq α] (d : α) {d' : α} {k m : Nat} (h : m ≠ k) (v : α) (t : Tbl α) :
    Tbl.get d m (Tbl.set d' k v t) = Tbl.get d m t := by
  unfold Tbl.set
  split
  · exact Tbl.get_erase_ne d h t
  · exact Tbl.get_insert_ne d h v t

/-- What an index holds after a write of another, in one form. -/
theorem Tbl.get_set [DecidableEq α] (d : α) (k m : Nat) (v : α) (t : Tbl α) :
    Tbl.get d m (Tbl.set d k v t) = if m = k then v else Tbl.get d m t := by
  split
  · rename_i h
    subst h
    simp
  · rename_i h
    exact Tbl.get_set_ne d h v t

@[simp] theorem Tbl.insert_insert (k : Nat) (v w : α) (t : Tbl α) : Tbl.insert k v (Tbl.insert k w t) = Tbl.insert k v t := by
  induction t with
  | nil => simp [Tbl.insert]
  | cons e t ih =>
    obtain ⟨j, a⟩ := e
    by_cases h : k < j
    · simp [Tbl.insert, h]
    · by_cases h' : j = k
      · simp [Tbl.insert, h']
      · simp [Tbl.insert, h', h, ih]

@[simp] theorem Tbl.erase_erase (k : Nat) (t : Tbl α) : Tbl.erase k (Tbl.erase k t) = Tbl.erase k t := by
  induction t with
  | nil => rfl
  | cons e t ih =>
    obtain ⟨j, a⟩ := e
    by_cases h : j = k
    · simp [Tbl.erase, h, ih]
    · simp [Tbl.erase, h, ih]

@[simp] theorem Tbl.erase_insert (k : Nat) (v : α) (t : Tbl α) : Tbl.erase k (Tbl.insert k v t) = Tbl.erase k t := by
  induction t with
  | nil => simp [Tbl.insert, Tbl.erase]
  | cons e t ih =>
    obtain ⟨j, a⟩ := e
    by_cases h : k < j
    · have h' : ¬ j = k := by omega
      simp [Tbl.insert, Tbl.erase, h, h']
    · by_cases h' : j = k
      · simp [Tbl.insert, Tbl.erase, h']
      · simp [Tbl.insert, Tbl.erase, h', h, ih]

/-- Two writes of an index, when the first is not the unlisted value: the second alone. -/
theorem Tbl.set_set [DecidableEq α] {d w : α} (hw : w ≠ d) (k : Nat) (v : α) (t : Tbl α) :
    Tbl.set d k v (Tbl.set d k w t) = Tbl.set d k v t := by
  unfold Tbl.set
  simp only [hw, if_false]
  split <;> simp

/-- Every entry after a write is the new one or an old one. -/
theorem Tbl.mem_insert {k : Nat} {v : α} {t : Tbl α} {e : Nat × α} (h : e ∈ Tbl.insert k v t) : e = (k, v) ∨ e ∈ t := by
  induction t with
  | nil => simp [Tbl.insert] at h; exact .inl h
  | cons x t ih =>
    obtain ⟨j, a⟩ := x
    simp only [Tbl.insert] at h
    split at h
    · simp at h ⊢
      rcases h with h | h | h
      · exact .inl h
      · exact .inr (.inl h)
      · exact .inr (.inr h)
    · split at h
      · simp at h ⊢
        rcases h with h | h
        · exact .inl h
        · exact .inr (.inr h)
      · simp at h ⊢
        rcases h with h | h
        · exact .inr (.inl h)
        · rcases ih h with h | h
          · exact .inl h
          · exact .inr (.inr h)

theorem Tbl.mem_erase {k : Nat} {t : Tbl α} {e : Nat × α} (h : e ∈ Tbl.erase k t) : e ∈ t ∧ e.1 ≠ k := by
  induction t with
  | nil => simp [Tbl.erase] at h
  | cons x t ih =>
    obtain ⟨j, a⟩ := x
    simp only [Tbl.erase] at h
    split at h
    · have := ih h
      exact ⟨List.mem_cons_of_mem _ this.1, this.2⟩
    · rename_i hj
      simp at h
      rcases h with h | h
      · subst h
        exact ⟨List.mem_cons_self, hj⟩
      · have := ih h
        exact ⟨List.mem_cons_of_mem _ this.1, this.2⟩

theorem Tbl.mem_set [DecidableEq α] {d : α} {k : Nat} {v : α} {t : Tbl α} {e : Nat × α} (h : e ∈ Tbl.set d k v t) :
    e = (k, v) ∨ e ∈ t := by
  unfold Tbl.set at h
  split at h
  · exact .inr (Tbl.mem_erase h).1
  · exact Tbl.mem_insert h

/-- What an index holds is an entry's value, or the unlisted value. -/
theorem Tbl.get_mem (d : α) (k : Nat) (t : Tbl α) : Tbl.get d k t = d ∨ (k, Tbl.get d k t) ∈ t := by
  induction t with
  | nil => exact .inl rfl
  | cons x t ih =>
    obtain ⟨j, a⟩ := x
    simp only [Tbl.get]
    split
    · rename_i h
      subst h
      exact .inr List.mem_cons_self
    · rcases ih with h | h
      · exact .inl h
      · exact .inr (List.mem_cons_of_mem _ h)

/-! ## The canonical form -/

theorem Tbl.wf_iff [DecidableEq α] (d : α) (t : Tbl α) :
    Tbl.wf d t = true ↔ t.Pairwise (fun a b => a.1 < b.1) ∧ ∀ e ∈ t, e.2 ≠ d := by
  simp [Tbl.wf]

theorem Tbl.pairwise_erase {t : Tbl α} (k : Nat) (h : t.Pairwise (fun a b => a.1 < b.1)) :
    (Tbl.erase k t).Pairwise (fun a b => a.1 < b.1) := by
  induction t with
  | nil => exact h
  | cons x t ih =>
    obtain ⟨j, a⟩ := x
    rw [List.pairwise_cons] at h
    simp only [Tbl.erase]
    split
    · exact ih h.2
    · rw [List.pairwise_cons]
      exact ⟨fun e he => h.1 e (Tbl.mem_erase he).1, ih h.2⟩

theorem Tbl.pairwise_insert {t : Tbl α} (k : Nat) (v : α) (h : t.Pairwise (fun a b => a.1 < b.1)) :
    (Tbl.insert k v t).Pairwise (fun a b => a.1 < b.1) := by
  induction t with
  | nil => simp [Tbl.insert]
  | cons x t ih =>
    obtain ⟨j, a⟩ := x
    have h' := List.pairwise_cons.mp h
    simp only [Tbl.insert]
    split
    · rename_i hk
      rw [List.pairwise_cons]
      refine ⟨fun e he => ?_, h⟩
      simp at he
      rcases he with he | he
      · subst he
        exact hk
      · exact Nat.lt_trans hk (h'.1 e he)
    · split
      · rename_i hj
        subst hj
        rw [List.pairwise_cons]
        exact ⟨fun e he => h'.1 e he, h'.2⟩
      · rw [List.pairwise_cons]
        refine ⟨fun e he => ?_, ih h'.2⟩
        rcases Tbl.mem_insert he with he | he
        · subst he
          simp
          omega
        · exact h'.1 e he

theorem Tbl.wf_set [DecidableEq α] {d : α} {t : Tbl α} (k : Nat) (v : α) (h : Tbl.wf d t = true) :
    Tbl.wf d (Tbl.set d k v t) = true := by
  rw [Tbl.wf_iff] at *
  unfold Tbl.set
  split
  · exact ⟨Tbl.pairwise_erase k h.1, fun e he => h.2 e (Tbl.mem_erase he).1⟩
  · rename_i hv
    refine ⟨Tbl.pairwise_insert k v h.1, fun e he => ?_⟩
    rcases Tbl.mem_insert he with he | he
    · subst he
      exact hv
    · exact h.2 e he

theorem Tbl.wf_filter [DecidableEq α] {d : α} {t : Tbl α} (p : Nat × α → Bool) (h : Tbl.wf d t = true) :
    Tbl.wf d (t.filter p) = true := by
  rw [Tbl.wf_iff] at *
  exact ⟨h.1.filter p, fun e he => h.2 e (List.mem_filter.mp he).1⟩

/-! ## Memories -/

@[simp] theorem Mem.wf_nil : Mem.wf [] = true := rfl

theorem Mem.wf_write {m : Mem} (a : Nat) (b : Byte) (h : Mem.wf m = true) : Mem.wf (Mem.write a b m) = true := Tbl.wf_set a b h

theorem Mem.wf_store {m : Mem} (a : Nat) (bs : List Byte) (h : Mem.wf m = true) : Mem.wf (Mem.store a bs m) = true := by
  induction bs generalizing a m with
  | nil => exact h
  | cons b bs ih => exact ih (a + 1) (Mem.wf_write a b h)

theorem Mem.wf_clear {m : Mem} (lo n : Nat) (h : Mem.wf m = true) : Mem.wf (Mem.clear lo n m) = true := Tbl.wf_filter _ h

/-- A byte after a write of one byte. -/
theorem Mem.read_write (a x : Nat) (b : Byte) (m : Mem) : Mem.read x (Mem.write a b m) = if x = a then b else Mem.read x m :=
  Tbl.get_set _ _ _ _ _

/-- A byte outside the bytes stored is as it was. -/
theorem Mem.read_store_outside {a x : Nat} (bs : List Byte) (h : x < a ∨ a + bs.length ≤ x) (m : Mem) :
    Mem.read x (Mem.store a bs m) = Mem.read x m := by
  induction bs generalizing a m with
  | nil => rfl
  | cons b bs ih =>
    simp only [List.length_cons] at h
    have hx : x ≠ a := by omega
    show Mem.read x (Mem.store (a + 1) bs (Mem.write a b m)) = _
    rw [ih (by omega), Mem.read_write, if_neg hx]

/-- A byte inside the bytes stored is the byte stored there. -/
theorem Mem.read_store_inside {a x : Nat} (bs : List Byte) (h : a ≤ x) (h' : x < a + bs.length) (m : Mem) :
    Mem.read x (Mem.store a bs m) = bs.getD (x - a) 0 := by
  induction bs generalizing a m with
  | nil => simp at h'; omega
  | cons b bs ih =>
    simp only [List.length_cons] at h'
    show Mem.read x (Mem.store (a + 1) bs (Mem.write a b m)) = _
    by_cases hx : x = a
    · subst hx
      rw [Mem.read_store_outside bs (by omega), Mem.read_write]
      simp
    · rw [ih (by omega) (by omega)]
      have : x - a = (x - (a + 1)) + 1 := by omega
      rw [this]
      rfl

@[simp] theorem Mem.length_bytes (a n : Nat) (m : Mem) : (Mem.bytes a n m).length = n := by simp [Mem.bytes]

end Sys2Proof.Machine
end

