-- ==== Sys2Proof/Laws/State.lean ====
section
/-!
SUPPORT. One lemma per field per update of the state, and the units after an update: no later proof unfolds a record update.
-/

set_option Elab.async false

namespace Sys2Proof.Machine

open Sys2Proof

/-! ## Fields after an update -/

@[simp] theorem State.setQueue_pending (s : State) (q : Nat) (v : Queue) : (s.setQueue q v).pending = s.pending := rfl
@[simp] theorem State.setQueue_freeIx (s : State) (q : Nat) (v : Queue) : (s.setQueue q v).freeIx = s.freeIx := rfl
@[simp] theorem State.setQueue_tb (s : State) (q : Nat) (v : Queue) : (s.setQueue q v).tb = s.tb := rfl
@[simp] theorem State.setQueue_mg (s : State) (q : Nat) (v : Queue) : (s.setQueue q v).mg = s.mg := rfl
@[simp] theorem State.setQueue_usb (s : State) (q : Nat) (v : Queue) : (s.setQueue q v).usb = s.usb := rfl
@[simp] theorem State.setQueue_eth (s : State) (q : Nat) (v : Queue) : (s.setQueue q v).eth = s.eth := rfl
@[simp] theorem State.setQueue_kiln (s : State) (q : Nat) (v : Queue) : (s.setQueue q v).kiln = s.kiln := rfl
@[simp] theorem State.setQueue_bindings (s : State) (q : Nat) (v : Queue) : (s.setQueue q v).bindings = s.bindings := rfl
@[simp] theorem State.setQueue_doms (s : State) (q : Nat) (v : Queue) : (s.setQueue q v).doms = s.doms := rfl
@[simp] theorem State.setQueue_tileMap (s : State) (q : Nat) (v : Queue) : (s.setQueue q v).tileMap = s.tileMap := rfl
@[simp] theorem State.setQueue_tiles (s : State) (q : Nat) (v : Queue) : (s.setQueue q v).tiles = s.tiles := rfl
@[simp] theorem State.setQueue_mailboxes (s : State) (q : Nat) (v : Queue) : (s.setQueue q v).mailboxes = s.mailboxes := rfl
@[simp] theorem State.setQueue_slots (s : State) (q : Nat) (v : Queue) : (s.setQueue q v).slots = s.slots := rfl
@[simp] theorem State.setQueue_swaps (s : State) (q : Nat) (v : Queue) : (s.setQueue q v).swaps = s.swaps := rfl
@[simp] theorem State.setQueue_lanes (s : State) (q : Nat) (v : Queue) : (s.setQueue q v).lanes = s.lanes := rfl
@[simp] theorem State.setQueue_pushes (s : State) (q : Nat) (v : Queue) : (s.setQueue q v).pushes = s.pushes := rfl
@[simp] theorem State.setQueue_pairs (s : State) (q : Nat) (v : Queue) : (s.setQueue q v).pairs = s.pairs := rfl
@[simp] theorem State.setQueue_trips (s : State) (q : Nat) (v : Queue) : (s.setQueue q v).trips = s.trips := rfl
@[simp] theorem State.setQueue_tripSw (s : State) (q : Nat) (v : Queue) : (s.setQueue q v).tripSw = s.tripSw := rfl
@[simp] theorem State.setQueue_links (s : State) (q : Nat) (v : Queue) : (s.setQueue q v).links = s.links := rfl
@[simp] theorem State.setQueue_hbm (s : State) (q : Nat) (v : Queue) : (s.setQueue q v).hbm = s.hbm := rfl
@[simp] theorem State.setQueue_twin (s : State) (q : Nat) (v : Queue) : (s.setQueue q v).twin = s.twin := rfl
@[simp] theorem State.setQueue_wit (s : State) (q : Nat) (v : Queue) : (s.setQueue q v).wit = s.wit := rfl
@[simp] theorem State.setQueue_evc (s : State) (q : Nat) (v : Queue) : (s.setQueue q v).evc = s.evc := rfl
@[simp] theorem State.setQueue_evcCtl (s : State) (q : Nat) (v : Queue) : (s.setQueue q v).evcCtl = s.evcCtl := rfl
@[simp] theorem State.setPort_pending (s : State) (p : Nat) (v : EthPort) : (s.setPort p v).pending = s.pending := rfl
@[simp] theorem State.setPort_freeIx (s : State) (p : Nat) (v : EthPort) : (s.setPort p v).freeIx = s.freeIx := rfl
@[simp] theorem State.setPort_tb (s : State) (p : Nat) (v : EthPort) : (s.setPort p v).tb = s.tb := rfl
@[simp] theorem State.setPort_mg (s : State) (p : Nat) (v : EthPort) : (s.setPort p v).mg = s.mg := rfl
@[simp] theorem State.setPort_queues (s : State) (p : Nat) (v : EthPort) : (s.setPort p v).queues = s.queues := rfl
@[simp] theorem State.setPort_usb (s : State) (p : Nat) (v : EthPort) : (s.setPort p v).usb = s.usb := rfl
@[simp] theorem State.setPort_kiln (s : State) (p : Nat) (v : EthPort) : (s.setPort p v).kiln = s.kiln := rfl
@[simp] theorem State.setPort_bindings (s : State) (p : Nat) (v : EthPort) : (s.setPort p v).bindings = s.bindings := rfl
@[simp] theorem State.setPort_doms (s : State) (p : Nat) (v : EthPort) : (s.setPort p v).doms = s.doms := rfl
@[simp] theorem State.setPort_tileMap (s : State) (p : Nat) (v : EthPort) : (s.setPort p v).tileMap = s.tileMap := rfl
@[simp] theorem State.setPort_tiles (s : State) (p : Nat) (v : EthPort) : (s.setPort p v).tiles = s.tiles := rfl
@[simp] theorem State.setPort_mailboxes (s : State) (p : Nat) (v : EthPort) : (s.setPort p v).mailboxes = s.mailboxes := rfl
@[simp] theorem State.setPort_slots (s : State) (p : Nat) (v : EthPort) : (s.setPort p v).slots = s.slots := rfl
@[simp] theorem State.setPort_swaps (s : State) (p : Nat) (v : EthPort) : (s.setPort p v).swaps = s.swaps := rfl
@[simp] theorem State.setPort_lanes (s : State) (p : Nat) (v : EthPort) : (s.setPort p v).lanes = s.lanes := rfl
@[simp] theorem State.setPort_pushes (s : State) (p : Nat) (v : EthPort) : (s.setPort p v).pushes = s.pushes := rfl
@[simp] theorem State.setPort_pairs (s : State) (p : Nat) (v : EthPort) : (s.setPort p v).pairs = s.pairs := rfl
@[simp] theorem State.setPort_trips (s : State) (p : Nat) (v : EthPort) : (s.setPort p v).trips = s.trips := rfl
@[simp] theorem State.setPort_tripSw (s : State) (p : Nat) (v : EthPort) : (s.setPort p v).tripSw = s.tripSw := rfl
@[simp] theorem State.setPort_links (s : State) (p : Nat) (v : EthPort) : (s.setPort p v).links = s.links := rfl
@[simp] theorem State.setPort_hbm (s : State) (p : Nat) (v : EthPort) : (s.setPort p v).hbm = s.hbm := rfl
@[simp] theorem State.setPort_twin (s : State) (p : Nat) (v : EthPort) : (s.setPort p v).twin = s.twin := rfl
@[simp] theorem State.setPort_wit (s : State) (p : Nat) (v : EthPort) : (s.setPort p v).wit = s.wit := rfl
@[simp] theorem State.setPort_evc (s : State) (p : Nat) (v : EthPort) : (s.setPort p v).evc = s.evc := rfl
@[simp] theorem State.setPort_evcCtl (s : State) (p : Nat) (v : EthPort) : (s.setPort p v).evcCtl = s.evcCtl := rfl
@[simp] theorem State.setBinding_pending (s : State) (b : Nat) (v : Binding) : (s.setBinding b v).pending = s.pending := rfl
@[simp] theorem State.setBinding_freeIx (s : State) (b : Nat) (v : Binding) : (s.setBinding b v).freeIx = s.freeIx := rfl
@[simp] theorem State.setBinding_tb (s : State) (b : Nat) (v : Binding) : (s.setBinding b v).tb = s.tb := rfl
@[simp] theorem State.setBinding_mg (s : State) (b : Nat) (v : Binding) : (s.setBinding b v).mg = s.mg := rfl
@[simp] theorem State.setBinding_queues (s : State) (b : Nat) (v : Binding) : (s.setBinding b v).queues = s.queues := rfl
@[simp] theorem State.setBinding_usb (s : State) (b : Nat) (v : Binding) : (s.setBinding b v).usb = s.usb := rfl
@[simp] theorem State.setBinding_eth (s : State) (b : Nat) (v : Binding) : (s.setBinding b v).eth = s.eth := rfl
@[simp] theorem State.setBinding_kiln (s : State) (b : Nat) (v : Binding) : (s.setBinding b v).kiln = s.kiln := rfl
@[simp] theorem State.setBinding_doms (s : State) (b : Nat) (v : Binding) : (s.setBinding b v).doms = s.doms := rfl
@[simp] theorem State.setBinding_tileMap (s : State) (b : Nat) (v : Binding) : (s.setBinding b v).tileMap = s.tileMap := rfl
@[simp] theorem State.setBinding_tiles (s : State) (b : Nat) (v : Binding) : (s.setBinding b v).tiles = s.tiles := rfl
@[simp] theorem State.setBinding_mailboxes (s : State) (b : Nat) (v : Binding) : (s.setBinding b v).mailboxes = s.mailboxes := rfl
@[simp] theorem State.setBinding_slots (s : State) (b : Nat) (v : Binding) : (s.setBinding b v).slots = s.slots := rfl
@[simp] theorem State.setBinding_swaps (s : State) (b : Nat) (v : Binding) : (s.setBinding b v).swaps = s.swaps := rfl
@[simp] theorem State.setBinding_lanes (s : State) (b : Nat) (v : Binding) : (s.setBinding b v).lanes = s.lanes := rfl
@[simp] theorem State.setBinding_pushes (s : State) (b : Nat) (v : Binding) : (s.setBinding b v).pushes = s.pushes := rfl
@[simp] theorem State.setBinding_pairs (s : State) (b : Nat) (v : Binding) : (s.setBinding b v).pairs = s.pairs := rfl
@[simp] theorem State.setBinding_trips (s : State) (b : Nat) (v : Binding) : (s.setBinding b v).trips = s.trips := rfl
@[simp] theorem State.setBinding_tripSw (s : State) (b : Nat) (v : Binding) : (s.setBinding b v).tripSw = s.tripSw := rfl
@[simp] theorem State.setBinding_links (s : State) (b : Nat) (v : Binding) : (s.setBinding b v).links = s.links := rfl
@[simp] theorem State.setBinding_hbm (s : State) (b : Nat) (v : Binding) : (s.setBinding b v).hbm = s.hbm := rfl
@[simp] theorem State.setBinding_twin (s : State) (b : Nat) (v : Binding) : (s.setBinding b v).twin = s.twin := rfl
@[simp] theorem State.setBinding_wit (s : State) (b : Nat) (v : Binding) : (s.setBinding b v).wit = s.wit := rfl
@[simp] theorem State.setBinding_evc (s : State) (b : Nat) (v : Binding) : (s.setBinding b v).evc = s.evc := rfl
@[simp] theorem State.setBinding_evcCtl (s : State) (b : Nat) (v : Binding) : (s.setBinding b v).evcCtl = s.evcCtl := rfl
@[simp] theorem State.dropBinding_pending (s : State) (b : Nat) : (s.dropBinding b).pending = s.pending := rfl
@[simp] theorem State.dropBinding_freeIx (s : State) (b : Nat) : (s.dropBinding b).freeIx = s.freeIx := rfl
@[simp] theorem State.dropBinding_tb (s : State) (b : Nat) : (s.dropBinding b).tb = s.tb := rfl
@[simp] theorem State.dropBinding_mg (s : State) (b : Nat) : (s.dropBinding b).mg = s.mg := rfl
@[simp] theorem State.dropBinding_queues (s : State) (b : Nat) : (s.dropBinding b).queues = s.queues := rfl
@[simp] theorem State.dropBinding_usb (s : State) (b : Nat) : (s.dropBinding b).usb = s.usb := rfl
@[simp] theorem State.dropBinding_eth (s : State) (b : Nat) : (s.dropBinding b).eth = s.eth := rfl
@[simp] theorem State.dropBinding_kiln (s : State) (b : Nat) : (s.dropBinding b).kiln = s.kiln := rfl
@[simp] theorem State.dropBinding_doms (s : State) (b : Nat) : (s.dropBinding b).doms = s.doms := rfl
@[simp] theorem State.dropBinding_tileMap (s : State) (b : Nat) : (s.dropBinding b).tileMap = s.tileMap := rfl
@[simp] theorem State.dropBinding_tiles (s : State) (b : Nat) : (s.dropBinding b).tiles = s.tiles := rfl
@[simp] theorem State.dropBinding_mailboxes (s : State) (b : Nat) : (s.dropBinding b).mailboxes = s.mailboxes := rfl
@[simp] theorem State.dropBinding_slots (s : State) (b : Nat) : (s.dropBinding b).slots = s.slots := rfl
@[simp] theorem State.dropBinding_swaps (s : State) (b : Nat) : (s.dropBinding b).swaps = s.swaps := rfl
@[simp] theorem State.dropBinding_lanes (s : State) (b : Nat) : (s.dropBinding b).lanes = s.lanes := rfl
@[simp] theorem State.dropBinding_pushes (s : State) (b : Nat) : (s.dropBinding b).pushes = s.pushes := rfl
@[simp] theorem State.dropBinding_pairs (s : State) (b : Nat) : (s.dropBinding b).pairs = s.pairs := rfl
@[simp] theorem State.dropBinding_trips (s : State) (b : Nat) : (s.dropBinding b).trips = s.trips := rfl
@[simp] theorem State.dropBinding_tripSw (s : State) (b : Nat) : (s.dropBinding b).tripSw = s.tripSw := rfl
@[simp] theorem State.dropBinding_links (s : State) (b : Nat) : (s.dropBinding b).links = s.links := rfl
@[simp] theorem State.dropBinding_hbm (s : State) (b : Nat) : (s.dropBinding b).hbm = s.hbm := rfl
@[simp] theorem State.dropBinding_twin (s : State) (b : Nat) : (s.dropBinding b).twin = s.twin := rfl
@[simp] theorem State.dropBinding_wit (s : State) (b : Nat) : (s.dropBinding b).wit = s.wit := rfl
@[simp] theorem State.dropBinding_evc (s : State) (b : Nat) : (s.dropBinding b).evc = s.evc := rfl
@[simp] theorem State.dropBinding_evcCtl (s : State) (b : Nat) : (s.dropBinding b).evcCtl = s.evcCtl := rfl
@[simp] theorem State.setDom_pending (s : State) (d : Nat) (v : Dom) : (s.setDom d v).pending = s.pending := rfl
@[simp] theorem State.setDom_freeIx (s : State) (d : Nat) (v : Dom) : (s.setDom d v).freeIx = s.freeIx := rfl
@[simp] theorem State.setDom_tb (s : State) (d : Nat) (v : Dom) : (s.setDom d v).tb = s.tb := rfl
@[simp] theorem State.setDom_mg (s : State) (d : Nat) (v : Dom) : (s.setDom d v).mg = s.mg := rfl
@[simp] theorem State.setDom_queues (s : State) (d : Nat) (v : Dom) : (s.setDom d v).queues = s.queues := rfl
@[simp] theorem State.setDom_usb (s : State) (d : Nat) (v : Dom) : (s.setDom d v).usb = s.usb := rfl
@[simp] theorem State.setDom_eth (s : State) (d : Nat) (v : Dom) : (s.setDom d v).eth = s.eth := rfl
@[simp] theorem State.setDom_kiln (s : State) (d : Nat) (v : Dom) : (s.setDom d v).kiln = s.kiln := rfl
@[simp] theorem State.setDom_bindings (s : State) (d : Nat) (v : Dom) : (s.setDom d v).bindings = s.bindings := rfl
@[simp] theorem State.setDom_tileMap (s : State) (d : Nat) (v : Dom) : (s.setDom d v).tileMap = s.tileMap := rfl
@[simp] theorem State.setDom_tiles (s : State) (d : Nat) (v : Dom) : (s.setDom d v).tiles = s.tiles := rfl
@[simp] theorem State.setDom_mailboxes (s : State) (d : Nat) (v : Dom) : (s.setDom d v).mailboxes = s.mailboxes := rfl
@[simp] theorem State.setDom_slots (s : State) (d : Nat) (v : Dom) : (s.setDom d v).slots = s.slots := rfl
@[simp] theorem State.setDom_swaps (s : State) (d : Nat) (v : Dom) : (s.setDom d v).swaps = s.swaps := rfl
@[simp] theorem State.setDom_lanes (s : State) (d : Nat) (v : Dom) : (s.setDom d v).lanes = s.lanes := rfl
@[simp] theorem State.setDom_pushes (s : State) (d : Nat) (v : Dom) : (s.setDom d v).pushes = s.pushes := rfl
@[simp] theorem State.setDom_pairs (s : State) (d : Nat) (v : Dom) : (s.setDom d v).pairs = s.pairs := rfl
@[simp] theorem State.setDom_trips (s : State) (d : Nat) (v : Dom) : (s.setDom d v).trips = s.trips := rfl
@[simp] theorem State.setDom_tripSw (s : State) (d : Nat) (v : Dom) : (s.setDom d v).tripSw = s.tripSw := rfl
@[simp] theorem State.setDom_links (s : State) (d : Nat) (v : Dom) : (s.setDom d v).links = s.links := rfl
@[simp] theorem State.setDom_hbm (s : State) (d : Nat) (v : Dom) : (s.setDom d v).hbm = s.hbm := rfl
@[simp] theorem State.setDom_twin (s : State) (d : Nat) (v : Dom) : (s.setDom d v).twin = s.twin := rfl
@[simp] theorem State.setDom_wit (s : State) (d : Nat) (v : Dom) : (s.setDom d v).wit = s.wit := rfl
@[simp] theorem State.setDom_evc (s : State) (d : Nat) (v : Dom) : (s.setDom d v).evc = s.evc := rfl
@[simp] theorem State.setDom_evcCtl (s : State) (d : Nat) (v : Dom) : (s.setDom d v).evcCtl = s.evcCtl := rfl
@[simp] theorem State.setTile_pending (s : State) (p : Nat) (v : Tile) : (s.setTile p v).pending = s.pending := rfl
@[simp] theorem State.setTile_freeIx (s : State) (p : Nat) (v : Tile) : (s.setTile p v).freeIx = s.freeIx := rfl
@[simp] theorem State.setTile_tb (s : State) (p : Nat) (v : Tile) : (s.setTile p v).tb = s.tb := rfl
@[simp] theorem State.setTile_mg (s : State) (p : Nat) (v : Tile) : (s.setTile p v).mg = s.mg := rfl
@[simp] theorem State.setTile_queues (s : State) (p : Nat) (v : Tile) : (s.setTile p v).queues = s.queues := rfl
@[simp] theorem State.setTile_usb (s : State) (p : Nat) (v : Tile) : (s.setTile p v).usb = s.usb := rfl
@[simp] theorem State.setTile_eth (s : State) (p : Nat) (v : Tile) : (s.setTile p v).eth = s.eth := rfl
@[simp] theorem State.setTile_kiln (s : State) (p : Nat) (v : Tile) : (s.setTile p v).kiln = s.kiln := rfl
@[simp] theorem State.setTile_bindings (s : State) (p : Nat) (v : Tile) : (s.setTile p v).bindings = s.bindings := rfl
@[simp] theorem State.setTile_doms (s : State) (p : Nat) (v : Tile) : (s.setTile p v).doms = s.doms := rfl
@[simp] theorem State.setTile_tileMap (s : State) (p : Nat) (v : Tile) : (s.setTile p v).tileMap = s.tileMap := rfl
@[simp] theorem State.setTile_mailboxes (s : State) (p : Nat) (v : Tile) : (s.setTile p v).mailboxes = s.mailboxes := rfl
@[simp] theorem State.setTile_slots (s : State) (p : Nat) (v : Tile) : (s.setTile p v).slots = s.slots := rfl
@[simp] theorem State.setTile_swaps (s : State) (p : Nat) (v : Tile) : (s.setTile p v).swaps = s.swaps := rfl
@[simp] theorem State.setTile_lanes (s : State) (p : Nat) (v : Tile) : (s.setTile p v).lanes = s.lanes := rfl
@[simp] theorem State.setTile_pushes (s : State) (p : Nat) (v : Tile) : (s.setTile p v).pushes = s.pushes := rfl
@[simp] theorem State.setTile_pairs (s : State) (p : Nat) (v : Tile) : (s.setTile p v).pairs = s.pairs := rfl
@[simp] theorem State.setTile_trips (s : State) (p : Nat) (v : Tile) : (s.setTile p v).trips = s.trips := rfl
@[simp] theorem State.setTile_tripSw (s : State) (p : Nat) (v : Tile) : (s.setTile p v).tripSw = s.tripSw := rfl
@[simp] theorem State.setTile_links (s : State) (p : Nat) (v : Tile) : (s.setTile p v).links = s.links := rfl
@[simp] theorem State.setTile_hbm (s : State) (p : Nat) (v : Tile) : (s.setTile p v).hbm = s.hbm := rfl
@[simp] theorem State.setTile_twin (s : State) (p : Nat) (v : Tile) : (s.setTile p v).twin = s.twin := rfl
@[simp] theorem State.setTile_wit (s : State) (p : Nat) (v : Tile) : (s.setTile p v).wit = s.wit := rfl
@[simp] theorem State.setTile_evc (s : State) (p : Nat) (v : Tile) : (s.setTile p v).evc = s.evc := rfl
@[simp] theorem State.setTile_evcCtl (s : State) (p : Nat) (v : Tile) : (s.setTile p v).evcCtl = s.evcCtl := rfl
@[simp] theorem State.setMailbox_pending (s : State) (m : Nat) (v : Mailbox) : (s.setMailbox m v).pending = s.pending := rfl
@[simp] theorem State.setMailbox_freeIx (s : State) (m : Nat) (v : Mailbox) : (s.setMailbox m v).freeIx = s.freeIx := rfl
@[simp] theorem State.setMailbox_tb (s : State) (m : Nat) (v : Mailbox) : (s.setMailbox m v).tb = s.tb := rfl
@[simp] theorem State.setMailbox_mg (s : State) (m : Nat) (v : Mailbox) : (s.setMailbox m v).mg = s.mg := rfl
@[simp] theorem State.setMailbox_queues (s : State) (m : Nat) (v : Mailbox) : (s.setMailbox m v).queues = s.queues := rfl
@[simp] theorem State.setMailbox_usb (s : State) (m : Nat) (v : Mailbox) : (s.setMailbox m v).usb = s.usb := rfl
@[simp] theorem State.setMailbox_eth (s : State) (m : Nat) (v : Mailbox) : (s.setMailbox m v).eth = s.eth := rfl
@[simp] theorem State.setMailbox_kiln (s : State) (m : Nat) (v : Mailbox) : (s.setMailbox m v).kiln = s.kiln := rfl
@[simp] theorem State.setMailbox_bindings (s : State) (m : Nat) (v : Mailbox) : (s.setMailbox m v).bindings = s.bindings := rfl
@[simp] theorem State.setMailbox_doms (s : State) (m : Nat) (v : Mailbox) : (s.setMailbox m v).doms = s.doms := rfl
@[simp] theorem State.setMailbox_tileMap (s : State) (m : Nat) (v : Mailbox) : (s.setMailbox m v).tileMap = s.tileMap := rfl
@[simp] theorem State.setMailbox_tiles (s : State) (m : Nat) (v : Mailbox) : (s.setMailbox m v).tiles = s.tiles := rfl
@[simp] theorem State.setMailbox_slots (s : State) (m : Nat) (v : Mailbox) : (s.setMailbox m v).slots = s.slots := rfl
@[simp] theorem State.setMailbox_swaps (s : State) (m : Nat) (v : Mailbox) : (s.setMailbox m v).swaps = s.swaps := rfl
@[simp] theorem State.setMailbox_lanes (s : State) (m : Nat) (v : Mailbox) : (s.setMailbox m v).lanes = s.lanes := rfl
@[simp] theorem State.setMailbox_pushes (s : State) (m : Nat) (v : Mailbox) : (s.setMailbox m v).pushes = s.pushes := rfl
@[simp] theorem State.setMailbox_pairs (s : State) (m : Nat) (v : Mailbox) : (s.setMailbox m v).pairs = s.pairs := rfl
@[simp] theorem State.setMailbox_trips (s : State) (m : Nat) (v : Mailbox) : (s.setMailbox m v).trips = s.trips := rfl
@[simp] theorem State.setMailbox_tripSw (s : State) (m : Nat) (v : Mailbox) : (s.setMailbox m v).tripSw = s.tripSw := rfl
@[simp] theorem State.setMailbox_links (s : State) (m : Nat) (v : Mailbox) : (s.setMailbox m v).links = s.links := rfl
@[simp] theorem State.setMailbox_hbm (s : State) (m : Nat) (v : Mailbox) : (s.setMailbox m v).hbm = s.hbm := rfl
@[simp] theorem State.setMailbox_twin (s : State) (m : Nat) (v : Mailbox) : (s.setMailbox m v).twin = s.twin := rfl
@[simp] theorem State.setMailbox_wit (s : State) (m : Nat) (v : Mailbox) : (s.setMailbox m v).wit = s.wit := rfl
@[simp] theorem State.setMailbox_evc (s : State) (m : Nat) (v : Mailbox) : (s.setMailbox m v).evc = s.evc := rfl
@[simp] theorem State.setMailbox_evcCtl (s : State) (m : Nat) (v : Mailbox) : (s.setMailbox m v).evcCtl = s.evcCtl := rfl
@[simp] theorem State.setSlot_pending (s : State) (n : Nat) (v : Slot) : (s.setSlot n v).pending = s.pending := rfl
@[simp] theorem State.setSlot_freeIx (s : State) (n : Nat) (v : Slot) : (s.setSlot n v).freeIx = s.freeIx := rfl
@[simp] theorem State.setSlot_tb (s : State) (n : Nat) (v : Slot) : (s.setSlot n v).tb = s.tb := rfl
@[simp] theorem State.setSlot_mg (s : State) (n : Nat) (v : Slot) : (s.setSlot n v).mg = s.mg := rfl
@[simp] theorem State.setSlot_queues (s : State) (n : Nat) (v : Slot) : (s.setSlot n v).queues = s.queues := rfl
@[simp] theorem State.setSlot_usb (s : State) (n : Nat) (v : Slot) : (s.setSlot n v).usb = s.usb := rfl
@[simp] theorem State.setSlot_eth (s : State) (n : Nat) (v : Slot) : (s.setSlot n v).eth = s.eth := rfl
@[simp] theorem State.setSlot_kiln (s : State) (n : Nat) (v : Slot) : (s.setSlot n v).kiln = s.kiln := rfl
@[simp] theorem State.setSlot_bindings (s : State) (n : Nat) (v : Slot) : (s.setSlot n v).bindings = s.bindings := rfl
@[simp] theorem State.setSlot_doms (s : State) (n : Nat) (v : Slot) : (s.setSlot n v).doms = s.doms := rfl
@[simp] theorem State.setSlot_tileMap (s : State) (n : Nat) (v : Slot) : (s.setSlot n v).tileMap = s.tileMap := rfl
@[simp] theorem State.setSlot_tiles (s : State) (n : Nat) (v : Slot) : (s.setSlot n v).tiles = s.tiles := rfl
@[simp] theorem State.setSlot_mailboxes (s : State) (n : Nat) (v : Slot) : (s.setSlot n v).mailboxes = s.mailboxes := rfl
@[simp] theorem State.setSlot_swaps (s : State) (n : Nat) (v : Slot) : (s.setSlot n v).swaps = s.swaps := rfl
@[simp] theorem State.setSlot_lanes (s : State) (n : Nat) (v : Slot) : (s.setSlot n v).lanes = s.lanes := rfl
@[simp] theorem State.setSlot_pushes (s : State) (n : Nat) (v : Slot) : (s.setSlot n v).pushes = s.pushes := rfl
@[simp] theorem State.setSlot_pairs (s : State) (n : Nat) (v : Slot) : (s.setSlot n v).pairs = s.pairs := rfl
@[simp] theorem State.setSlot_trips (s : State) (n : Nat) (v : Slot) : (s.setSlot n v).trips = s.trips := rfl
@[simp] theorem State.setSlot_tripSw (s : State) (n : Nat) (v : Slot) : (s.setSlot n v).tripSw = s.tripSw := rfl
@[simp] theorem State.setSlot_links (s : State) (n : Nat) (v : Slot) : (s.setSlot n v).links = s.links := rfl
@[simp] theorem State.setSlot_hbm (s : State) (n : Nat) (v : Slot) : (s.setSlot n v).hbm = s.hbm := rfl
@[simp] theorem State.setSlot_twin (s : State) (n : Nat) (v : Slot) : (s.setSlot n v).twin = s.twin := rfl
@[simp] theorem State.setSlot_wit (s : State) (n : Nat) (v : Slot) : (s.setSlot n v).wit = s.wit := rfl
@[simp] theorem State.setSlot_evc (s : State) (n : Nat) (v : Slot) : (s.setSlot n v).evc = s.evc := rfl
@[simp] theorem State.setSlot_evcCtl (s : State) (n : Nat) (v : Slot) : (s.setSlot n v).evcCtl = s.evcCtl := rfl
@[simp] theorem State.setLane_pending (s : State) (n : Nat) (v : Lane) : (s.setLane n v).pending = s.pending := rfl
@[simp] theorem State.setLane_freeIx (s : State) (n : Nat) (v : Lane) : (s.setLane n v).freeIx = s.freeIx := rfl
@[simp] theorem State.setLane_tb (s : State) (n : Nat) (v : Lane) : (s.setLane n v).tb = s.tb := rfl
@[simp] theorem State.setLane_mg (s : State) (n : Nat) (v : Lane) : (s.setLane n v).mg = s.mg := rfl
@[simp] theorem State.setLane_queues (s : State) (n : Nat) (v : Lane) : (s.setLane n v).queues = s.queues := rfl
@[simp] theorem State.setLane_usb (s : State) (n : Nat) (v : Lane) : (s.setLane n v).usb = s.usb := rfl
@[simp] theorem State.setLane_eth (s : State) (n : Nat) (v : Lane) : (s.setLane n v).eth = s.eth := rfl
@[simp] theorem State.setLane_kiln (s : State) (n : Nat) (v : Lane) : (s.setLane n v).kiln = s.kiln := rfl
@[simp] theorem State.setLane_bindings (s : State) (n : Nat) (v : Lane) : (s.setLane n v).bindings = s.bindings := rfl
@[simp] theorem State.setLane_doms (s : State) (n : Nat) (v : Lane) : (s.setLane n v).doms = s.doms := rfl
@[simp] theorem State.setLane_tileMap (s : State) (n : Nat) (v : Lane) : (s.setLane n v).tileMap = s.tileMap := rfl
@[simp] theorem State.setLane_tiles (s : State) (n : Nat) (v : Lane) : (s.setLane n v).tiles = s.tiles := rfl
@[simp] theorem State.setLane_mailboxes (s : State) (n : Nat) (v : Lane) : (s.setLane n v).mailboxes = s.mailboxes := rfl
@[simp] theorem State.setLane_slots (s : State) (n : Nat) (v : Lane) : (s.setLane n v).slots = s.slots := rfl
@[simp] theorem State.setLane_swaps (s : State) (n : Nat) (v : Lane) : (s.setLane n v).swaps = s.swaps := rfl
@[simp] theorem State.setLane_pushes (s : State) (n : Nat) (v : Lane) : (s.setLane n v).pushes = s.pushes := rfl
@[simp] theorem State.setLane_pairs (s : State) (n : Nat) (v : Lane) : (s.setLane n v).pairs = s.pairs := rfl
@[simp] theorem State.setLane_trips (s : State) (n : Nat) (v : Lane) : (s.setLane n v).trips = s.trips := rfl
@[simp] theorem State.setLane_tripSw (s : State) (n : Nat) (v : Lane) : (s.setLane n v).tripSw = s.tripSw := rfl
@[simp] theorem State.setLane_links (s : State) (n : Nat) (v : Lane) : (s.setLane n v).links = s.links := rfl
@[simp] theorem State.setLane_hbm (s : State) (n : Nat) (v : Lane) : (s.setLane n v).hbm = s.hbm := rfl
@[simp] theorem State.setLane_twin (s : State) (n : Nat) (v : Lane) : (s.setLane n v).twin = s.twin := rfl
@[simp] theorem State.setLane_wit (s : State) (n : Nat) (v : Lane) : (s.setLane n v).wit = s.wit := rfl
@[simp] theorem State.setLane_evc (s : State) (n : Nat) (v : Lane) : (s.setLane n v).evc = s.evc := rfl
@[simp] theorem State.setLane_evcCtl (s : State) (n : Nat) (v : Lane) : (s.setLane n v).evcCtl = s.evcCtl := rfl
@[simp] theorem State.setPush_pending (s : State) (n : Nat) (v : Push) : (s.setPush n v).pending = s.pending := rfl
@[simp] theorem State.setPush_freeIx (s : State) (n : Nat) (v : Push) : (s.setPush n v).freeIx = s.freeIx := rfl
@[simp] theorem State.setPush_tb (s : State) (n : Nat) (v : Push) : (s.setPush n v).tb = s.tb := rfl
@[simp] theorem State.setPush_mg (s : State) (n : Nat) (v : Push) : (s.setPush n v).mg = s.mg := rfl
@[simp] theorem State.setPush_queues (s : State) (n : Nat) (v : Push) : (s.setPush n v).queues = s.queues := rfl
@[simp] theorem State.setPush_usb (s : State) (n : Nat) (v : Push) : (s.setPush n v).usb = s.usb := rfl
@[simp] theorem State.setPush_eth (s : State) (n : Nat) (v : Push) : (s.setPush n v).eth = s.eth := rfl
@[simp] theorem State.setPush_kiln (s : State) (n : Nat) (v : Push) : (s.setPush n v).kiln = s.kiln := rfl
@[simp] theorem State.setPush_bindings (s : State) (n : Nat) (v : Push) : (s.setPush n v).bindings = s.bindings := rfl
@[simp] theorem State.setPush_doms (s : State) (n : Nat) (v : Push) : (s.setPush n v).doms = s.doms := rfl
@[simp] theorem State.setPush_tileMap (s : State) (n : Nat) (v : Push) : (s.setPush n v).tileMap = s.tileMap := rfl
@[simp] theorem State.setPush_tiles (s : State) (n : Nat) (v : Push) : (s.setPush n v).tiles = s.tiles := rfl
@[simp] theorem State.setPush_mailboxes (s : State) (n : Nat) (v : Push) : (s.setPush n v).mailboxes = s.mailboxes := rfl
@[simp] theorem State.setPush_slots (s : State) (n : Nat) (v : Push) : (s.setPush n v).slots = s.slots := rfl
@[simp] theorem State.setPush_swaps (s : State) (n : Nat) (v : Push) : (s.setPush n v).swaps = s.swaps := rfl
@[simp] theorem State.setPush_lanes (s : State) (n : Nat) (v : Push) : (s.setPush n v).lanes = s.lanes := rfl
@[simp] theorem State.setPush_pairs (s : State) (n : Nat) (v : Push) : (s.setPush n v).pairs = s.pairs := rfl
@[simp] theorem State.setPush_trips (s : State) (n : Nat) (v : Push) : (s.setPush n v).trips = s.trips := rfl
@[simp] theorem State.setPush_tripSw (s : State) (n : Nat) (v : Push) : (s.setPush n v).tripSw = s.tripSw := rfl
@[simp] theorem State.setPush_links (s : State) (n : Nat) (v : Push) : (s.setPush n v).links = s.links := rfl
@[simp] theorem State.setPush_hbm (s : State) (n : Nat) (v : Push) : (s.setPush n v).hbm = s.hbm := rfl
@[simp] theorem State.setPush_twin (s : State) (n : Nat) (v : Push) : (s.setPush n v).twin = s.twin := rfl
@[simp] theorem State.setPush_wit (s : State) (n : Nat) (v : Push) : (s.setPush n v).wit = s.wit := rfl
@[simp] theorem State.setPush_evc (s : State) (n : Nat) (v : Push) : (s.setPush n v).evc = s.evc := rfl
@[simp] theorem State.setPush_evcCtl (s : State) (n : Nat) (v : Push) : (s.setPush n v).evcCtl = s.evcCtl := rfl
@[simp] theorem State.setPair_pending (s : State) (n : Nat) (v : Pair) : (s.setPair n v).pending = s.pending := rfl
@[simp] theorem State.setPair_freeIx (s : State) (n : Nat) (v : Pair) : (s.setPair n v).freeIx = s.freeIx := rfl
@[simp] theorem State.setPair_tb (s : State) (n : Nat) (v : Pair) : (s.setPair n v).tb = s.tb := rfl
@[simp] theorem State.setPair_mg (s : State) (n : Nat) (v : Pair) : (s.setPair n v).mg = s.mg := rfl
@[simp] theorem State.setPair_queues (s : State) (n : Nat) (v : Pair) : (s.setPair n v).queues = s.queues := rfl
@[simp] theorem State.setPair_usb (s : State) (n : Nat) (v : Pair) : (s.setPair n v).usb = s.usb := rfl
@[simp] theorem State.setPair_eth (s : State) (n : Nat) (v : Pair) : (s.setPair n v).eth = s.eth := rfl
@[simp] theorem State.setPair_kiln (s : State) (n : Nat) (v : Pair) : (s.setPair n v).kiln = s.kiln := rfl
@[simp] theorem State.setPair_bindings (s : State) (n : Nat) (v : Pair) : (s.setPair n v).bindings = s.bindings := rfl
@[simp] theorem State.setPair_doms (s : State) (n : Nat) (v : Pair) : (s.setPair n v).doms = s.doms := rfl
@[simp] theorem State.setPair_tileMap (s : State) (n : Nat) (v : Pair) : (s.setPair n v).tileMap = s.tileMap := rfl
@[simp] theorem State.setPair_tiles (s : State) (n : Nat) (v : Pair) : (s.setPair n v).tiles = s.tiles := rfl
@[simp] theorem State.setPair_mailboxes (s : State) (n : Nat) (v : Pair) : (s.setPair n v).mailboxes = s.mailboxes := rfl
@[simp] theorem State.setPair_slots (s : State) (n : Nat) (v : Pair) : (s.setPair n v).slots = s.slots := rfl
@[simp] theorem State.setPair_swaps (s : State) (n : Nat) (v : Pair) : (s.setPair n v).swaps = s.swaps := rfl
@[simp] theorem State.setPair_lanes (s : State) (n : Nat) (v : Pair) : (s.setPair n v).lanes = s.lanes := rfl
@[simp] theorem State.setPair_pushes (s : State) (n : Nat) (v : Pair) : (s.setPair n v).pushes = s.pushes := rfl
@[simp] theorem State.setPair_trips (s : State) (n : Nat) (v : Pair) : (s.setPair n v).trips = s.trips := rfl
@[simp] theorem State.setPair_tripSw (s : State) (n : Nat) (v : Pair) : (s.setPair n v).tripSw = s.tripSw := rfl
@[simp] theorem State.setPair_links (s : State) (n : Nat) (v : Pair) : (s.setPair n v).links = s.links := rfl
@[simp] theorem State.setPair_hbm (s : State) (n : Nat) (v : Pair) : (s.setPair n v).hbm = s.hbm := rfl
@[simp] theorem State.setPair_twin (s : State) (n : Nat) (v : Pair) : (s.setPair n v).twin = s.twin := rfl
@[simp] theorem State.setPair_wit (s : State) (n : Nat) (v : Pair) : (s.setPair n v).wit = s.wit := rfl
@[simp] theorem State.setPair_evc (s : State) (n : Nat) (v : Pair) : (s.setPair n v).evc = s.evc := rfl
@[simp] theorem State.setPair_evcCtl (s : State) (n : Nat) (v : Pair) : (s.setPair n v).evcCtl = s.evcCtl := rfl
@[simp] theorem State.setTrip_pending (s : State) (n : Nat) (v : TripSrc) : (s.setTrip n v).pending = s.pending := rfl
@[simp] theorem State.setTrip_freeIx (s : State) (n : Nat) (v : TripSrc) : (s.setTrip n v).freeIx = s.freeIx := rfl
@[simp] theorem State.setTrip_tb (s : State) (n : Nat) (v : TripSrc) : (s.setTrip n v).tb = s.tb := rfl
@[simp] theorem State.setTrip_mg (s : State) (n : Nat) (v : TripSrc) : (s.setTrip n v).mg = s.mg := rfl
@[simp] theorem State.setTrip_queues (s : State) (n : Nat) (v : TripSrc) : (s.setTrip n v).queues = s.queues := rfl
@[simp] theorem State.setTrip_usb (s : State) (n : Nat) (v : TripSrc) : (s.setTrip n v).usb = s.usb := rfl
@[simp] theorem State.setTrip_eth (s : State) (n : Nat) (v : TripSrc) : (s.setTrip n v).eth = s.eth := rfl
@[simp] theorem State.setTrip_kiln (s : State) (n : Nat) (v : TripSrc) : (s.setTrip n v).kiln = s.kiln := rfl
@[simp] theorem State.setTrip_bindings (s : State) (n : Nat) (v : TripSrc) : (s.setTrip n v).bindings = s.bindings := rfl
@[simp] theorem State.setTrip_doms (s : State) (n : Nat) (v : TripSrc) : (s.setTrip n v).doms = s.doms := rfl
@[simp] theorem State.setTrip_tileMap (s : State) (n : Nat) (v : TripSrc) : (s.setTrip n v).tileMap = s.tileMap := rfl
@[simp] theorem State.setTrip_tiles (s : State) (n : Nat) (v : TripSrc) : (s.setTrip n v).tiles = s.tiles := rfl
@[simp] theorem State.setTrip_mailboxes (s : State) (n : Nat) (v : TripSrc) : (s.setTrip n v).mailboxes = s.mailboxes := rfl
@[simp] theorem State.setTrip_slots (s : State) (n : Nat) (v : TripSrc) : (s.setTrip n v).slots = s.slots := rfl
@[simp] theorem State.setTrip_swaps (s : State) (n : Nat) (v : TripSrc) : (s.setTrip n v).swaps = s.swaps := rfl
@[simp] theorem State.setTrip_lanes (s : State) (n : Nat) (v : TripSrc) : (s.setTrip n v).lanes = s.lanes := rfl
@[simp] theorem State.setTrip_pushes (s : State) (n : Nat) (v : TripSrc) : (s.setTrip n v).pushes = s.pushes := rfl
@[simp] theorem State.setTrip_pairs (s : State) (n : Nat) (v : TripSrc) : (s.setTrip n v).pairs = s.pairs := rfl
@[simp] theorem State.setTrip_tripSw (s : State) (n : Nat) (v : TripSrc) : (s.setTrip n v).tripSw = s.tripSw := rfl
@[simp] theorem State.setTrip_links (s : State) (n : Nat) (v : TripSrc) : (s.setTrip n v).links = s.links := rfl
@[simp] theorem State.setTrip_hbm (s : State) (n : Nat) (v : TripSrc) : (s.setTrip n v).hbm = s.hbm := rfl
@[simp] theorem State.setTrip_twin (s : State) (n : Nat) (v : TripSrc) : (s.setTrip n v).twin = s.twin := rfl
@[simp] theorem State.setTrip_wit (s : State) (n : Nat) (v : TripSrc) : (s.setTrip n v).wit = s.wit := rfl
@[simp] theorem State.setTrip_evc (s : State) (n : Nat) (v : TripSrc) : (s.setTrip n v).evc = s.evc := rfl
@[simp] theorem State.setTrip_evcCtl (s : State) (n : Nat) (v : TripSrc) : (s.setTrip n v).evcCtl = s.evcCtl := rfl
@[simp] theorem State.setLink_pending (s : State) (n : Nat) (v : Link) : (s.setLink n v).pending = s.pending := rfl
@[simp] theorem State.setLink_freeIx (s : State) (n : Nat) (v : Link) : (s.setLink n v).freeIx = s.freeIx := rfl
@[simp] theorem State.setLink_tb (s : State) (n : Nat) (v : Link) : (s.setLink n v).tb = s.tb := rfl
@[simp] theorem State.setLink_mg (s : State) (n : Nat) (v : Link) : (s.setLink n v).mg = s.mg := rfl
@[simp] theorem State.setLink_queues (s : State) (n : Nat) (v : Link) : (s.setLink n v).queues = s.queues := rfl
@[simp] theorem State.setLink_usb (s : State) (n : Nat) (v : Link) : (s.setLink n v).usb = s.usb := rfl
@[simp] theorem State.setLink_eth (s : State) (n : Nat) (v : Link) : (s.setLink n v).eth = s.eth := rfl
@[simp] theorem State.setLink_kiln (s : State) (n : Nat) (v : Link) : (s.setLink n v).kiln = s.kiln := rfl
@[simp] theorem State.setLink_bindings (s : State) (n : Nat) (v : Link) : (s.setLink n v).bindings = s.bindings := rfl
@[simp] theorem State.setLink_doms (s : State) (n : Nat) (v : Link) : (s.setLink n v).doms = s.doms := rfl
@[simp] theorem State.setLink_tileMap (s : State) (n : Nat) (v : Link) : (s.setLink n v).tileMap = s.tileMap := rfl
@[simp] theorem State.setLink_tiles (s : State) (n : Nat) (v : Link) : (s.setLink n v).tiles = s.tiles := rfl
@[simp] theorem State.setLink_mailboxes (s : State) (n : Nat) (v : Link) : (s.setLink n v).mailboxes = s.mailboxes := rfl
@[simp] theorem State.setLink_slots (s : State) (n : Nat) (v : Link) : (s.setLink n v).slots = s.slots := rfl
@[simp] theorem State.setLink_swaps (s : State) (n : Nat) (v : Link) : (s.setLink n v).swaps = s.swaps := rfl
@[simp] theorem State.setLink_lanes (s : State) (n : Nat) (v : Link) : (s.setLink n v).lanes = s.lanes := rfl
@[simp] theorem State.setLink_pushes (s : State) (n : Nat) (v : Link) : (s.setLink n v).pushes = s.pushes := rfl
@[simp] theorem State.setLink_pairs (s : State) (n : Nat) (v : Link) : (s.setLink n v).pairs = s.pairs := rfl
@[simp] theorem State.setLink_trips (s : State) (n : Nat) (v : Link) : (s.setLink n v).trips = s.trips := rfl
@[simp] theorem State.setLink_tripSw (s : State) (n : Nat) (v : Link) : (s.setLink n v).tripSw = s.tripSw := rfl
@[simp] theorem State.setLink_hbm (s : State) (n : Nat) (v : Link) : (s.setLink n v).hbm = s.hbm := rfl
@[simp] theorem State.setLink_twin (s : State) (n : Nat) (v : Link) : (s.setLink n v).twin = s.twin := rfl
@[simp] theorem State.setLink_wit (s : State) (n : Nat) (v : Link) : (s.setLink n v).wit = s.wit := rfl
@[simp] theorem State.setLink_evc (s : State) (n : Nat) (v : Link) : (s.setLink n v).evc = s.evc := rfl
@[simp] theorem State.setLink_evcCtl (s : State) (n : Nat) (v : Link) : (s.setLink n v).evcCtl = s.evcCtl := rfl
@[simp] theorem State.setPc_pending (s : State) (n : Nat) (v : Pc) : (s.setPc n v).pending = s.pending := rfl
@[simp] theorem State.setPc_freeIx (s : State) (n : Nat) (v : Pc) : (s.setPc n v).freeIx = s.freeIx := rfl
@[simp] theorem State.setPc_tb (s : State) (n : Nat) (v : Pc) : (s.setPc n v).tb = s.tb := rfl
@[simp] theorem State.setPc_mg (s : State) (n : Nat) (v : Pc) : (s.setPc n v).mg = s.mg := rfl
@[simp] theorem State.setPc_queues (s : State) (n : Nat) (v : Pc) : (s.setPc n v).queues = s.queues := rfl
@[simp] theorem State.setPc_usb (s : State) (n : Nat) (v : Pc) : (s.setPc n v).usb = s.usb := rfl
@[simp] theorem State.setPc_eth (s : State) (n : Nat) (v : Pc) : (s.setPc n v).eth = s.eth := rfl
@[simp] theorem State.setPc_kiln (s : State) (n : Nat) (v : Pc) : (s.setPc n v).kiln = s.kiln := rfl
@[simp] theorem State.setPc_bindings (s : State) (n : Nat) (v : Pc) : (s.setPc n v).bindings = s.bindings := rfl
@[simp] theorem State.setPc_doms (s : State) (n : Nat) (v : Pc) : (s.setPc n v).doms = s.doms := rfl
@[simp] theorem State.setPc_tileMap (s : State) (n : Nat) (v : Pc) : (s.setPc n v).tileMap = s.tileMap := rfl
@[simp] theorem State.setPc_tiles (s : State) (n : Nat) (v : Pc) : (s.setPc n v).tiles = s.tiles := rfl
@[simp] theorem State.setPc_mailboxes (s : State) (n : Nat) (v : Pc) : (s.setPc n v).mailboxes = s.mailboxes := rfl
@[simp] theorem State.setPc_slots (s : State) (n : Nat) (v : Pc) : (s.setPc n v).slots = s.slots := rfl
@[simp] theorem State.setPc_swaps (s : State) (n : Nat) (v : Pc) : (s.setPc n v).swaps = s.swaps := rfl
@[simp] theorem State.setPc_lanes (s : State) (n : Nat) (v : Pc) : (s.setPc n v).lanes = s.lanes := rfl
@[simp] theorem State.setPc_pushes (s : State) (n : Nat) (v : Pc) : (s.setPc n v).pushes = s.pushes := rfl
@[simp] theorem State.setPc_pairs (s : State) (n : Nat) (v : Pc) : (s.setPc n v).pairs = s.pairs := rfl
@[simp] theorem State.setPc_trips (s : State) (n : Nat) (v : Pc) : (s.setPc n v).trips = s.trips := rfl
@[simp] theorem State.setPc_tripSw (s : State) (n : Nat) (v : Pc) : (s.setPc n v).tripSw = s.tripSw := rfl
@[simp] theorem State.setPc_links (s : State) (n : Nat) (v : Pc) : (s.setPc n v).links = s.links := rfl
@[simp] theorem State.setPc_twin (s : State) (n : Nat) (v : Pc) : (s.setPc n v).twin = s.twin := rfl
@[simp] theorem State.setPc_wit (s : State) (n : Nat) (v : Pc) : (s.setPc n v).wit = s.wit := rfl
@[simp] theorem State.setPc_evc (s : State) (n : Nat) (v : Pc) : (s.setPc n v).evc = s.evc := rfl
@[simp] theorem State.setPc_evcCtl (s : State) (n : Nat) (v : Pc) : (s.setPc n v).evcCtl = s.evcCtl := rfl
@[simp] theorem State.setTb_pending (s : State) (v : Timebase) : (s.setTb v).pending = s.pending := rfl
@[simp] theorem State.setTb_freeIx (s : State) (v : Timebase) : (s.setTb v).freeIx = s.freeIx := rfl
@[simp] theorem State.setTb_tb (s : State) (v : Timebase) : (s.setTb v).tb = v := rfl
@[simp] theorem State.setTb_mg (s : State) (v : Timebase) : (s.setTb v).mg = s.mg := rfl
@[simp] theorem State.setTb_queues (s : State) (v : Timebase) : (s.setTb v).queues = s.queues := rfl
@[simp] theorem State.setTb_usb (s : State) (v : Timebase) : (s.setTb v).usb = s.usb := rfl
@[simp] theorem State.setTb_eth (s : State) (v : Timebase) : (s.setTb v).eth = s.eth := rfl
@[simp] theorem State.setTb_kiln (s : State) (v : Timebase) : (s.setTb v).kiln = s.kiln := rfl
@[simp] theorem State.setTb_bindings (s : State) (v : Timebase) : (s.setTb v).bindings = s.bindings := rfl
@[simp] theorem State.setTb_doms (s : State) (v : Timebase) : (s.setTb v).doms = s.doms := rfl
@[simp] theorem State.setTb_tileMap (s : State) (v : Timebase) : (s.setTb v).tileMap = s.tileMap := rfl
@[simp] theorem State.setTb_tiles (s : State) (v : Timebase) : (s.setTb v).tiles = s.tiles := rfl
@[simp] theorem State.setTb_mailboxes (s : State) (v : Timebase) : (s.setTb v).mailboxes = s.mailboxes := rfl
@[simp] theorem State.setTb_slots (s : State) (v : Timebase) : (s.setTb v).slots = s.slots := rfl
@[simp] theorem State.setTb_swaps (s : State) (v : Timebase) : (s.setTb v).swaps = s.swaps := rfl
@[simp] theorem State.setTb_lanes (s : State) (v : Timebase) : (s.setTb v).lanes = s.lanes := rfl
@[simp] theorem State.setTb_pushes (s : State) (v : Timebase) : (s.setTb v).pushes = s.pushes := rfl
@[simp] theorem State.setTb_pairs (s : State) (v : Timebase) : (s.setTb v).pairs = s.pairs := rfl
@[simp] theorem State.setTb_trips (s : State) (v : Timebase) : (s.setTb v).trips = s.trips := rfl
@[simp] theorem State.setTb_tripSw (s : State) (v : Timebase) : (s.setTb v).tripSw = s.tripSw := rfl
@[simp] theorem State.setTb_links (s : State) (v : Timebase) : (s.setTb v).links = s.links := rfl
@[simp] theorem State.setTb_hbm (s : State) (v : Timebase) : (s.setTb v).hbm = s.hbm := rfl
@[simp] theorem State.setTb_twin (s : State) (v : Timebase) : (s.setTb v).twin = s.twin := rfl
@[simp] theorem State.setTb_wit (s : State) (v : Timebase) : (s.setTb v).wit = s.wit := rfl
@[simp] theorem State.setTb_evc (s : State) (v : Timebase) : (s.setTb v).evc = s.evc := rfl
@[simp] theorem State.setTb_evcCtl (s : State) (v : Timebase) : (s.setTb v).evcCtl = s.evcCtl := rfl
@[simp] theorem State.setMg_pending (s : State) (v : Mgmt) : (s.setMg v).pending = s.pending := rfl
@[simp] theorem State.setMg_freeIx (s : State) (v : Mgmt) : (s.setMg v).freeIx = s.freeIx := rfl
@[simp] theorem State.setMg_tb (s : State) (v : Mgmt) : (s.setMg v).tb = s.tb := rfl
@[simp] theorem State.setMg_mg (s : State) (v : Mgmt) : (s.setMg v).mg = v := rfl
@[simp] theorem State.setMg_queues (s : State) (v : Mgmt) : (s.setMg v).queues = s.queues := rfl
@[simp] theorem State.setMg_usb (s : State) (v : Mgmt) : (s.setMg v).usb = s.usb := rfl
@[simp] theorem State.setMg_eth (s : State) (v : Mgmt) : (s.setMg v).eth = s.eth := rfl
@[simp] theorem State.setMg_kiln (s : State) (v : Mgmt) : (s.setMg v).kiln = s.kiln := rfl
@[simp] theorem State.setMg_bindings (s : State) (v : Mgmt) : (s.setMg v).bindings = s.bindings := rfl
@[simp] theorem State.setMg_doms (s : State) (v : Mgmt) : (s.setMg v).doms = s.doms := rfl
@[simp] theorem State.setMg_tileMap (s : State) (v : Mgmt) : (s.setMg v).tileMap = s.tileMap := rfl
@[simp] theorem State.setMg_tiles (s : State) (v : Mgmt) : (s.setMg v).tiles = s.tiles := rfl
@[simp] theorem State.setMg_mailboxes (s : State) (v : Mgmt) : (s.setMg v).mailboxes = s.mailboxes := rfl
@[simp] theorem State.setMg_slots (s : State) (v : Mgmt) : (s.setMg v).slots = s.slots := rfl
@[simp] theorem State.setMg_swaps (s : State) (v : Mgmt) : (s.setMg v).swaps = s.swaps := rfl
@[simp] theorem State.setMg_lanes (s : State) (v : Mgmt) : (s.setMg v).lanes = s.lanes := rfl
@[simp] theorem State.setMg_pushes (s : State) (v : Mgmt) : (s.setMg v).pushes = s.pushes := rfl
@[simp] theorem State.setMg_pairs (s : State) (v : Mgmt) : (s.setMg v).pairs = s.pairs := rfl
@[simp] theorem State.setMg_trips (s : State) (v : Mgmt) : (s.setMg v).trips = s.trips := rfl
@[simp] theorem State.setMg_tripSw (s : State) (v : Mgmt) : (s.setMg v).tripSw = s.tripSw := rfl
@[simp] theorem State.setMg_links (s : State) (v : Mgmt) : (s.setMg v).links = s.links := rfl
@[simp] theorem State.setMg_hbm (s : State) (v : Mgmt) : (s.setMg v).hbm = s.hbm := rfl
@[simp] theorem State.setMg_twin (s : State) (v : Mgmt) : (s.setMg v).twin = s.twin := rfl
@[simp] theorem State.setMg_wit (s : State) (v : Mgmt) : (s.setMg v).wit = s.wit := rfl
@[simp] theorem State.setMg_evc (s : State) (v : Mgmt) : (s.setMg v).evc = s.evc := rfl
@[simp] theorem State.setMg_evcCtl (s : State) (v : Mgmt) : (s.setMg v).evcCtl = s.evcCtl := rfl
@[simp] theorem State.setUsb_pending (s : State) (v : Usb) : (s.setUsb v).pending = s.pending := rfl
@[simp] theorem State.setUsb_freeIx (s : State) (v : Usb) : (s.setUsb v).freeIx = s.freeIx := rfl
@[simp] theorem State.setUsb_tb (s : State) (v : Usb) : (s.setUsb v).tb = s.tb := rfl
@[simp] theorem State.setUsb_mg (s : State) (v : Usb) : (s.setUsb v).mg = s.mg := rfl
@[simp] theorem State.setUsb_queues (s : State) (v : Usb) : (s.setUsb v).queues = s.queues := rfl
@[simp] theorem State.setUsb_usb (s : State) (v : Usb) : (s.setUsb v).usb = v := rfl
@[simp] theorem State.setUsb_eth (s : State) (v : Usb) : (s.setUsb v).eth = s.eth := rfl
@[simp] theorem State.setUsb_kiln (s : State) (v : Usb) : (s.setUsb v).kiln = s.kiln := rfl
@[simp] theorem State.setUsb_bindings (s : State) (v : Usb) : (s.setUsb v).bindings = s.bindings := rfl
@[simp] theorem State.setUsb_doms (s : State) (v : Usb) : (s.setUsb v).doms = s.doms := rfl
@[simp] theorem State.setUsb_tileMap (s : State) (v : Usb) : (s.setUsb v).tileMap = s.tileMap := rfl
@[simp] theorem State.setUsb_tiles (s : State) (v : Usb) : (s.setUsb v).tiles = s.tiles := rfl
@[simp] theorem State.setUsb_mailboxes (s : State) (v : Usb) : (s.setUsb v).mailboxes = s.mailboxes := rfl
@[simp] theorem State.setUsb_slots (s : State) (v : Usb) : (s.setUsb v).slots = s.slots := rfl
@[simp] theorem State.setUsb_swaps (s : State) (v : Usb) : (s.setUsb v).swaps = s.swaps := rfl
@[simp] theorem State.setUsb_lanes (s : State) (v : Usb) : (s.setUsb v).lanes = s.lanes := rfl
@[simp] theorem State.setUsb_pushes (s : State) (v : Usb) : (s.setUsb v).pushes = s.pushes := rfl
@[simp] theorem State.setUsb_pairs (s : State) (v : Usb) : (s.setUsb v).pairs = s.pairs := rfl
@[simp] theorem State.setUsb_trips (s : State) (v : Usb) : (s.setUsb v).trips = s.trips := rfl
@[simp] theorem State.setUsb_tripSw (s : State) (v : Usb) : (s.setUsb v).tripSw = s.tripSw := rfl
@[simp] theorem State.setUsb_links (s : State) (v : Usb) : (s.setUsb v).links = s.links := rfl
@[simp] theorem State.setUsb_hbm (s : State) (v : Usb) : (s.setUsb v).hbm = s.hbm := rfl
@[simp] theorem State.setUsb_twin (s : State) (v : Usb) : (s.setUsb v).twin = s.twin := rfl
@[simp] theorem State.setUsb_wit (s : State) (v : Usb) : (s.setUsb v).wit = s.wit := rfl
@[simp] theorem State.setUsb_evc (s : State) (v : Usb) : (s.setUsb v).evc = s.evc := rfl
@[simp] theorem State.setUsb_evcCtl (s : State) (v : Usb) : (s.setUsb v).evcCtl = s.evcCtl := rfl
@[simp] theorem State.setKiln_pending (s : State) (v : Kiln) : (s.setKiln v).pending = s.pending := rfl
@[simp] theorem State.setKiln_freeIx (s : State) (v : Kiln) : (s.setKiln v).freeIx = s.freeIx := rfl
@[simp] theorem State.setKiln_tb (s : State) (v : Kiln) : (s.setKiln v).tb = s.tb := rfl
@[simp] theorem State.setKiln_mg (s : State) (v : Kiln) : (s.setKiln v).mg = s.mg := rfl
@[simp] theorem State.setKiln_queues (s : State) (v : Kiln) : (s.setKiln v).queues = s.queues := rfl
@[simp] theorem State.setKiln_usb (s : State) (v : Kiln) : (s.setKiln v).usb = s.usb := rfl
@[simp] theorem State.setKiln_eth (s : State) (v : Kiln) : (s.setKiln v).eth = s.eth := rfl
@[simp] theorem State.setKiln_kiln (s : State) (v : Kiln) : (s.setKiln v).kiln = v := rfl
@[simp] theorem State.setKiln_bindings (s : State) (v : Kiln) : (s.setKiln v).bindings = s.bindings := rfl
@[simp] theorem State.setKiln_doms (s : State) (v : Kiln) : (s.setKiln v).doms = s.doms := rfl
@[simp] theorem State.setKiln_tileMap (s : State) (v : Kiln) : (s.setKiln v).tileMap = s.tileMap := rfl
@[simp] theorem State.setKiln_tiles (s : State) (v : Kiln) : (s.setKiln v).tiles = s.tiles := rfl
@[simp] theorem State.setKiln_mailboxes (s : State) (v : Kiln) : (s.setKiln v).mailboxes = s.mailboxes := rfl
@[simp] theorem State.setKiln_slots (s : State) (v : Kiln) : (s.setKiln v).slots = s.slots := rfl
@[simp] theorem State.setKiln_swaps (s : State) (v : Kiln) : (s.setKiln v).swaps = s.swaps := rfl
@[simp] theorem State.setKiln_lanes (s : State) (v : Kiln) : (s.setKiln v).lanes = s.lanes := rfl
@[simp] theorem State.setKiln_pushes (s : State) (v : Kiln) : (s.setKiln v).pushes = s.pushes := rfl
@[simp] theorem State.setKiln_pairs (s : State) (v : Kiln) : (s.setKiln v).pairs = s.pairs := rfl
@[simp] theorem State.setKiln_trips (s : State) (v : Kiln) : (s.setKiln v).trips = s.trips := rfl
@[simp] theorem State.setKiln_tripSw (s : State) (v : Kiln) : (s.setKiln v).tripSw = s.tripSw := rfl
@[simp] theorem State.setKiln_links (s : State) (v : Kiln) : (s.setKiln v).links = s.links := rfl
@[simp] theorem State.setKiln_hbm (s : State) (v : Kiln) : (s.setKiln v).hbm = s.hbm := rfl
@[simp] theorem State.setKiln_twin (s : State) (v : Kiln) : (s.setKiln v).twin = s.twin := rfl
@[simp] theorem State.setKiln_wit (s : State) (v : Kiln) : (s.setKiln v).wit = s.wit := rfl
@[simp] theorem State.setKiln_evc (s : State) (v : Kiln) : (s.setKiln v).evc = s.evc := rfl
@[simp] theorem State.setKiln_evcCtl (s : State) (v : Kiln) : (s.setKiln v).evcCtl = s.evcCtl := rfl
@[simp] theorem State.setHbm_pending (s : State) (v : Hbm) : (s.setHbm v).pending = s.pending := rfl
@[simp] theorem State.setHbm_freeIx (s : State) (v : Hbm) : (s.setHbm v).freeIx = s.freeIx := rfl
@[simp] theorem State.setHbm_tb (s : State) (v : Hbm) : (s.setHbm v).tb = s.tb := rfl
@[simp] theorem State.setHbm_mg (s : State) (v : Hbm) : (s.setHbm v).mg = s.mg := rfl
@[simp] theorem State.setHbm_queues (s : State) (v : Hbm) : (s.setHbm v).queues = s.queues := rfl
@[simp] theorem State.setHbm_usb (s : State) (v : Hbm) : (s.setHbm v).usb = s.usb := rfl
@[simp] theorem State.setHbm_eth (s : State) (v : Hbm) : (s.setHbm v).eth = s.eth := rfl
@[simp] theorem State.setHbm_kiln (s : State) (v : Hbm) : (s.setHbm v).kiln = s.kiln := rfl
@[simp] theorem State.setHbm_bindings (s : State) (v : Hbm) : (s.setHbm v).bindings = s.bindings := rfl
@[simp] theorem State.setHbm_doms (s : State) (v : Hbm) : (s.setHbm v).doms = s.doms := rfl
@[simp] theorem State.setHbm_tileMap (s : State) (v : Hbm) : (s.setHbm v).tileMap = s.tileMap := rfl
@[simp] theorem State.setHbm_tiles (s : State) (v : Hbm) : (s.setHbm v).tiles = s.tiles := rfl
@[simp] theorem State.setHbm_mailboxes (s : State) (v : Hbm) : (s.setHbm v).mailboxes = s.mailboxes := rfl
@[simp] theorem State.setHbm_slots (s : State) (v : Hbm) : (s.setHbm v).slots = s.slots := rfl
@[simp] theorem State.setHbm_swaps (s : State) (v : Hbm) : (s.setHbm v).swaps = s.swaps := rfl
@[simp] theorem State.setHbm_lanes (s : State) (v : Hbm) : (s.setHbm v).lanes = s.lanes := rfl
@[simp] theorem State.setHbm_pushes (s : State) (v : Hbm) : (s.setHbm v).pushes = s.pushes := rfl
@[simp] theorem State.setHbm_pairs (s : State) (v : Hbm) : (s.setHbm v).pairs = s.pairs := rfl
@[simp] theorem State.setHbm_trips (s : State) (v : Hbm) : (s.setHbm v).trips = s.trips := rfl
@[simp] theorem State.setHbm_tripSw (s : State) (v : Hbm) : (s.setHbm v).tripSw = s.tripSw := rfl
@[simp] theorem State.setHbm_links (s : State) (v : Hbm) : (s.setHbm v).links = s.links := rfl
@[simp] theorem State.setHbm_hbm (s : State) (v : Hbm) : (s.setHbm v).hbm = v := rfl
@[simp] theorem State.setHbm_twin (s : State) (v : Hbm) : (s.setHbm v).twin = s.twin := rfl
@[simp] theorem State.setHbm_wit (s : State) (v : Hbm) : (s.setHbm v).wit = s.wit := rfl
@[simp] theorem State.setHbm_evc (s : State) (v : Hbm) : (s.setHbm v).evc = s.evc := rfl
@[simp] theorem State.setHbm_evcCtl (s : State) (v : Hbm) : (s.setHbm v).evcCtl = s.evcCtl := rfl
@[simp] theorem State.setTwin_pending (s : State) (v : Twin) : (s.setTwin v).pending = s.pending := rfl
@[simp] theorem State.setTwin_freeIx (s : State) (v : Twin) : (s.setTwin v).freeIx = s.freeIx := rfl
@[simp] theorem State.setTwin_tb (s : State) (v : Twin) : (s.setTwin v).tb = s.tb := rfl
@[simp] theorem State.setTwin_mg (s : State) (v : Twin) : (s.setTwin v).mg = s.mg := rfl
@[simp] theorem State.setTwin_queues (s : State) (v : Twin) : (s.setTwin v).queues = s.queues := rfl
@[simp] theorem State.setTwin_usb (s : State) (v : Twin) : (s.setTwin v).usb = s.usb := rfl
@[simp] theorem State.setTwin_eth (s : State) (v : Twin) : (s.setTwin v).eth = s.eth := rfl
@[simp] theorem State.setTwin_kiln (s : State) (v : Twin) : (s.setTwin v).kiln = s.kiln := rfl
@[simp] theorem State.setTwin_bindings (s : State) (v : Twin) : (s.setTwin v).bindings = s.bindings := rfl
@[simp] theorem State.setTwin_doms (s : State) (v : Twin) : (s.setTwin v).doms = s.doms := rfl
@[simp] theorem State.setTwin_tileMap (s : State) (v : Twin) : (s.setTwin v).tileMap = s.tileMap := rfl
@[simp] theorem State.setTwin_tiles (s : State) (v : Twin) : (s.setTwin v).tiles = s.tiles := rfl
@[simp] theorem State.setTwin_mailboxes (s : State) (v : Twin) : (s.setTwin v).mailboxes = s.mailboxes := rfl
@[simp] theorem State.setTwin_slots (s : State) (v : Twin) : (s.setTwin v).slots = s.slots := rfl
@[simp] theorem State.setTwin_swaps (s : State) (v : Twin) : (s.setTwin v).swaps = s.swaps := rfl
@[simp] theorem State.setTwin_lanes (s : State) (v : Twin) : (s.setTwin v).lanes = s.lanes := rfl
@[simp] theorem State.setTwin_pushes (s : State) (v : Twin) : (s.setTwin v).pushes = s.pushes := rfl
@[simp] theorem State.setTwin_pairs (s : State) (v : Twin) : (s.setTwin v).pairs = s.pairs := rfl
@[simp] theorem State.setTwin_trips (s : State) (v : Twin) : (s.setTwin v).trips = s.trips := rfl
@[simp] theorem State.setTwin_tripSw (s : State) (v : Twin) : (s.setTwin v).tripSw = s.tripSw := rfl
@[simp] theorem State.setTwin_links (s : State) (v : Twin) : (s.setTwin v).links = s.links := rfl
@[simp] theorem State.setTwin_hbm (s : State) (v : Twin) : (s.setTwin v).hbm = s.hbm := rfl
@[simp] theorem State.setTwin_twin (s : State) (v : Twin) : (s.setTwin v).twin = v := rfl
@[simp] theorem State.setTwin_wit (s : State) (v : Twin) : (s.setTwin v).wit = s.wit := rfl
@[simp] theorem State.setTwin_evc (s : State) (v : Twin) : (s.setTwin v).evc = s.evc := rfl
@[simp] theorem State.setTwin_evcCtl (s : State) (v : Twin) : (s.setTwin v).evcCtl = s.evcCtl := rfl
@[simp] theorem State.setWit_pending (s : State) (v : Witness) : (s.setWit v).pending = s.pending := rfl
@[simp] theorem State.setWit_freeIx (s : State) (v : Witness) : (s.setWit v).freeIx = s.freeIx := rfl
@[simp] theorem State.setWit_tb (s : State) (v : Witness) : (s.setWit v).tb = s.tb := rfl
@[simp] theorem State.setWit_mg (s : State) (v : Witness) : (s.setWit v).mg = s.mg := rfl
@[simp] theorem State.setWit_queues (s : State) (v : Witness) : (s.setWit v).queues = s.queues := rfl
@[simp] theorem State.setWit_usb (s : State) (v : Witness) : (s.setWit v).usb = s.usb := rfl
@[simp] theorem State.setWit_eth (s : State) (v : Witness) : (s.setWit v).eth = s.eth := rfl
@[simp] theorem State.setWit_kiln (s : State) (v : Witness) : (s.setWit v).kiln = s.kiln := rfl
@[simp] theorem State.setWit_bindings (s : State) (v : Witness) : (s.setWit v).bindings = s.bindings := rfl
@[simp] theorem State.setWit_doms (s : State) (v : Witness) : (s.setWit v).doms = s.doms := rfl
@[simp] theorem State.setWit_tileMap (s : State) (v : Witness) : (s.setWit v).tileMap = s.tileMap := rfl
@[simp] theorem State.setWit_tiles (s : State) (v : Witness) : (s.setWit v).tiles = s.tiles := rfl
@[simp] theorem State.setWit_mailboxes (s : State) (v : Witness) : (s.setWit v).mailboxes = s.mailboxes := rfl
@[simp] theorem State.setWit_slots (s : State) (v : Witness) : (s.setWit v).slots = s.slots := rfl
@[simp] theorem State.setWit_swaps (s : State) (v : Witness) : (s.setWit v).swaps = s.swaps := rfl
@[simp] theorem State.setWit_lanes (s : State) (v : Witness) : (s.setWit v).lanes = s.lanes := rfl
@[simp] theorem State.setWit_pushes (s : State) (v : Witness) : (s.setWit v).pushes = s.pushes := rfl
@[simp] theorem State.setWit_pairs (s : State) (v : Witness) : (s.setWit v).pairs = s.pairs := rfl
@[simp] theorem State.setWit_trips (s : State) (v : Witness) : (s.setWit v).trips = s.trips := rfl
@[simp] theorem State.setWit_tripSw (s : State) (v : Witness) : (s.setWit v).tripSw = s.tripSw := rfl
@[simp] theorem State.setWit_links (s : State) (v : Witness) : (s.setWit v).links = s.links := rfl
@[simp] theorem State.setWit_hbm (s : State) (v : Witness) : (s.setWit v).hbm = s.hbm := rfl
@[simp] theorem State.setWit_twin (s : State) (v : Witness) : (s.setWit v).twin = s.twin := rfl
@[simp] theorem State.setWit_wit (s : State) (v : Witness) : (s.setWit v).wit = v := rfl
@[simp] theorem State.setWit_evc (s : State) (v : Witness) : (s.setWit v).evc = s.evc := rfl
@[simp] theorem State.setWit_evcCtl (s : State) (v : Witness) : (s.setWit v).evcCtl = s.evcCtl := rfl

/-! ## Other units after an update -/

@[simp] theorem State.setQueue_port' (s : State) (q : Nat) (v : Queue) (i : Nat) : (s.setQueue q v).port i = s.port i := rfl
@[simp] theorem State.setQueue_binding' (s : State) (q : Nat) (v : Queue) (i : Nat) : (s.setQueue q v).binding i = s.binding i := rfl
@[simp] theorem State.setQueue_dom' (s : State) (q : Nat) (v : Queue) (i : Nat) : (s.setQueue q v).dom i = s.dom i := rfl
@[simp] theorem State.setQueue_tile' (s : State) (q : Nat) (v : Queue) (i : Nat) : (s.setQueue q v).tile i = s.tile i := rfl
@[simp] theorem State.setQueue_mailbox' (s : State) (q : Nat) (v : Queue) (i : Nat) : (s.setQueue q v).mailbox i = s.mailbox i := rfl
@[simp] theorem State.setQueue_slot' (s : State) (q : Nat) (v : Queue) (i : Nat) : (s.setQueue q v).slot i = s.slot i := rfl
@[simp] theorem State.setQueue_lane' (s : State) (q : Nat) (v : Queue) (i : Nat) : (s.setQueue q v).lane i = s.lane i := rfl
@[simp] theorem State.setQueue_push' (s : State) (q : Nat) (v : Queue) (i : Nat) : (s.setQueue q v).push i = s.push i := rfl
@[simp] theorem State.setQueue_pair' (s : State) (q : Nat) (v : Queue) (i : Nat) : (s.setQueue q v).pair i = s.pair i := rfl
@[simp] theorem State.setQueue_tripSrc' (s : State) (q : Nat) (v : Queue) (i : Nat) : (s.setQueue q v).tripSrc i = s.tripSrc i := rfl
@[simp] theorem State.setQueue_link' (s : State) (q : Nat) (v : Queue) (i : Nat) : (s.setQueue q v).link i = s.link i := rfl
@[simp] theorem State.setQueue_pc' (s : State) (q : Nat) (v : Queue) (i : Nat) : (s.setQueue q v).pc i = s.pc i := rfl
@[simp] theorem State.setQueue_now (s : State) (q : Nat) (v : Queue) : (s.setQueue q v).now = s.now := rfl
@[simp] theorem State.setPort_queue' (s : State) (p : Nat) (v : EthPort) (i : Nat) : (s.setPort p v).queue i = s.queue i := rfl
@[simp] theorem State.setPort_binding' (s : State) (p : Nat) (v : EthPort) (i : Nat) : (s.setPort p v).binding i = s.binding i := rfl
@[simp] theorem State.setPort_dom' (s : State) (p : Nat) (v : EthPort) (i : Nat) : (s.setPort p v).dom i = s.dom i := rfl
@[simp] theorem State.setPort_tile' (s : State) (p : Nat) (v : EthPort) (i : Nat) : (s.setPort p v).tile i = s.tile i := rfl
@[simp] theorem State.setPort_mailbox' (s : State) (p : Nat) (v : EthPort) (i : Nat) : (s.setPort p v).mailbox i = s.mailbox i := rfl
@[simp] theorem State.setPort_slot' (s : State) (p : Nat) (v : EthPort) (i : Nat) : (s.setPort p v).slot i = s.slot i := rfl
@[simp] theorem State.setPort_lane' (s : State) (p : Nat) (v : EthPort) (i : Nat) : (s.setPort p v).lane i = s.lane i := rfl
@[simp] theorem State.setPort_push' (s : State) (p : Nat) (v : EthPort) (i : Nat) : (s.setPort p v).push i = s.push i := rfl
@[simp] theorem State.setPort_pair' (s : State) (p : Nat) (v : EthPort) (i : Nat) : (s.setPort p v).pair i = s.pair i := rfl
@[simp] theorem State.setPort_tripSrc' (s : State) (p : Nat) (v : EthPort) (i : Nat) : (s.setPort p v).tripSrc i = s.tripSrc i := rfl
@[simp] theorem State.setPort_link' (s : State) (p : Nat) (v : EthPort) (i : Nat) : (s.setPort p v).link i = s.link i := rfl
@[simp] theorem State.setPort_pc' (s : State) (p : Nat) (v : EthPort) (i : Nat) : (s.setPort p v).pc i = s.pc i := rfl
@[simp] theorem State.setPort_now (s : State) (p : Nat) (v : EthPort) : (s.setPort p v).now = s.now := rfl
@[simp] theorem State.setBinding_queue' (s : State) (b : Nat) (v : Binding) (i : Nat) : (s.setBinding b v).queue i = s.queue i := rfl
@[simp] theorem State.setBinding_port' (s : State) (b : Nat) (v : Binding) (i : Nat) : (s.setBinding b v).port i = s.port i := rfl
@[simp] theorem State.setBinding_dom' (s : State) (b : Nat) (v : Binding) (i : Nat) : (s.setBinding b v).dom i = s.dom i := rfl
@[simp] theorem State.setBinding_tile' (s : State) (b : Nat) (v : Binding) (i : Nat) : (s.setBinding b v).tile i = s.tile i := rfl
@[simp] theorem State.setBinding_mailbox' (s : State) (b : Nat) (v : Binding) (i : Nat) : (s.setBinding b v).mailbox i = s.mailbox i := rfl
@[simp] theorem State.setBinding_slot' (s : State) (b : Nat) (v : Binding) (i : Nat) : (s.setBinding b v).slot i = s.slot i := rfl
@[simp] theorem State.setBinding_lane' (s : State) (b : Nat) (v : Binding) (i : Nat) : (s.setBinding b v).lane i = s.lane i := rfl
@[simp] theorem State.setBinding_push' (s : State) (b : Nat) (v : Binding) (i : Nat) : (s.setBinding b v).push i = s.push i := rfl
@[simp] theorem State.setBinding_pair' (s : State) (b : Nat) (v : Binding) (i : Nat) : (s.setBinding b v).pair i = s.pair i := rfl
@[simp] theorem State.setBinding_tripSrc' (s : State) (b : Nat) (v : Binding) (i : Nat) : (s.setBinding b v).tripSrc i = s.tripSrc i := rfl
@[simp] theorem State.setBinding_link' (s : State) (b : Nat) (v : Binding) (i : Nat) : (s.setBinding b v).link i = s.link i := rfl
@[simp] theorem State.setBinding_pc' (s : State) (b : Nat) (v : Binding) (i : Nat) : (s.setBinding b v).pc i = s.pc i := rfl
@[simp] theorem State.setBinding_now (s : State) (b : Nat) (v : Binding) : (s.setBinding b v).now = s.now := rfl
@[simp] theorem State.dropBinding_queue' (s : State) (b : Nat) (i : Nat) : (s.dropBinding b).queue i = s.queue i := rfl
@[simp] theorem State.dropBinding_port' (s : State) (b : Nat) (i : Nat) : (s.dropBinding b).port i = s.port i := rfl
@[simp] theorem State.dropBinding_dom' (s : State) (b : Nat) (i : Nat) : (s.dropBinding b).dom i = s.dom i := rfl
@[simp] theorem State.dropBinding_tile' (s : State) (b : Nat) (i : Nat) : (s.dropBinding b).tile i = s.tile i := rfl
@[simp] theorem State.dropBinding_mailbox' (s : State) (b : Nat) (i : Nat) : (s.dropBinding b).mailbox i = s.mailbox i := rfl
@[simp] theorem State.dropBinding_slot' (s : State) (b : Nat) (i : Nat) : (s.dropBinding b).slot i = s.slot i := rfl
@[simp] theorem State.dropBinding_lane' (s : State) (b : Nat) (i : Nat) : (s.dropBinding b).lane i = s.lane i := rfl
@[simp] theorem State.dropBinding_push' (s : State) (b : Nat) (i : Nat) : (s.dropBinding b).push i = s.push i := rfl
@[simp] theorem State.dropBinding_pair' (s : State) (b : Nat) (i : Nat) : (s.dropBinding b).pair i = s.pair i := rfl
@[simp] theorem State.dropBinding_tripSrc' (s : State) (b : Nat) (i : Nat) : (s.dropBinding b).tripSrc i = s.tripSrc i := rfl
@[simp] theorem State.dropBinding_link' (s : State) (b : Nat) (i : Nat) : (s.dropBinding b).link i = s.link i := rfl
@[simp] theorem State.dropBinding_pc' (s : State) (b : Nat) (i : Nat) : (s.dropBinding b).pc i = s.pc i := rfl
@[simp] theorem State.dropBinding_now (s : State) (b : Nat) : (s.dropBinding b).now = s.now := rfl
@[simp] theorem State.setDom_queue' (s : State) (d : Nat) (v : Dom) (i : Nat) : (s.setDom d v).queue i = s.queue i := rfl
@[simp] theorem State.setDom_port' (s : State) (d : Nat) (v : Dom) (i : Nat) : (s.setDom d v).port i = s.port i := rfl
@[simp] theorem State.setDom_binding' (s : State) (d : Nat) (v : Dom) (i : Nat) : (s.setDom d v).binding i = s.binding i := rfl
@[simp] theorem State.setDom_tile' (s : State) (d : Nat) (v : Dom) (i : Nat) : (s.setDom d v).tile i = s.tile i := rfl
@[simp] theorem State.setDom_mailbox' (s : State) (d : Nat) (v : Dom) (i : Nat) : (s.setDom d v).mailbox i = s.mailbox i := rfl
@[simp] theorem State.setDom_slot' (s : State) (d : Nat) (v : Dom) (i : Nat) : (s.setDom d v).slot i = s.slot i := rfl
@[simp] theorem State.setDom_lane' (s : State) (d : Nat) (v : Dom) (i : Nat) : (s.setDom d v).lane i = s.lane i := rfl
@[simp] theorem State.setDom_push' (s : State) (d : Nat) (v : Dom) (i : Nat) : (s.setDom d v).push i = s.push i := rfl
@[simp] theorem State.setDom_pair' (s : State) (d : Nat) (v : Dom) (i : Nat) : (s.setDom d v).pair i = s.pair i := rfl
@[simp] theorem State.setDom_tripSrc' (s : State) (d : Nat) (v : Dom) (i : Nat) : (s.setDom d v).tripSrc i = s.tripSrc i := rfl
@[simp] theorem State.setDom_link' (s : State) (d : Nat) (v : Dom) (i : Nat) : (s.setDom d v).link i = s.link i := rfl
@[simp] theorem State.setDom_pc' (s : State) (d : Nat) (v : Dom) (i : Nat) : (s.setDom d v).pc i = s.pc i := rfl
@[simp] theorem State.setDom_now (s : State) (d : Nat) (v : Dom) : (s.setDom d v).now = s.now := rfl
@[simp] theorem State.setTile_queue' (s : State) (p : Nat) (v : Tile) (i : Nat) : (s.setTile p v).queue i = s.queue i := rfl
@[simp] theorem State.setTile_port' (s : State) (p : Nat) (v : Tile) (i : Nat) : (s.setTile p v).port i = s.port i := rfl
@[simp] theorem State.setTile_binding' (s : State) (p : Nat) (v : Tile) (i : Nat) : (s.setTile p v).binding i = s.binding i := rfl
@[simp] theorem State.setTile_dom' (s : State) (p : Nat) (v : Tile) (i : Nat) : (s.setTile p v).dom i = s.dom i := rfl
@[simp] theorem State.setTile_mailbox' (s : State) (p : Nat) (v : Tile) (i : Nat) : (s.setTile p v).mailbox i = s.mailbox i := rfl
@[simp] theorem State.setTile_slot' (s : State) (p : Nat) (v : Tile) (i : Nat) : (s.setTile p v).slot i = s.slot i := rfl
@[simp] theorem State.setTile_lane' (s : State) (p : Nat) (v : Tile) (i : Nat) : (s.setTile p v).lane i = s.lane i := rfl
@[simp] theorem State.setTile_push' (s : State) (p : Nat) (v : Tile) (i : Nat) : (s.setTile p v).push i = s.push i := rfl
@[simp] theorem State.setTile_pair' (s : State) (p : Nat) (v : Tile) (i : Nat) : (s.setTile p v).pair i = s.pair i := rfl
@[simp] theorem State.setTile_tripSrc' (s : State) (p : Nat) (v : Tile) (i : Nat) : (s.setTile p v).tripSrc i = s.tripSrc i := rfl
@[simp] theorem State.setTile_link' (s : State) (p : Nat) (v : Tile) (i : Nat) : (s.setTile p v).link i = s.link i := rfl
@[simp] theorem State.setTile_pc' (s : State) (p : Nat) (v : Tile) (i : Nat) : (s.setTile p v).pc i = s.pc i := rfl
@[simp] theorem State.setTile_now (s : State) (p : Nat) (v : Tile) : (s.setTile p v).now = s.now := rfl
@[simp] theorem State.setMailbox_queue' (s : State) (m : Nat) (v : Mailbox) (i : Nat) : (s.setMailbox m v).queue i = s.queue i := rfl
@[simp] theorem State.setMailbox_port' (s : State) (m : Nat) (v : Mailbox) (i : Nat) : (s.setMailbox m v).port i = s.port i := rfl
@[simp] theorem State.setMailbox_binding' (s : State) (m : Nat) (v : Mailbox) (i : Nat) : (s.setMailbox m v).binding i = s.binding i := rfl
@[simp] theorem State.setMailbox_dom' (s : State) (m : Nat) (v : Mailbox) (i : Nat) : (s.setMailbox m v).dom i = s.dom i := rfl
@[simp] theorem State.setMailbox_tile' (s : State) (m : Nat) (v : Mailbox) (i : Nat) : (s.setMailbox m v).tile i = s.tile i := rfl
@[simp] theorem State.setMailbox_slot' (s : State) (m : Nat) (v : Mailbox) (i : Nat) : (s.setMailbox m v).slot i = s.slot i := rfl
@[simp] theorem State.setMailbox_lane' (s : State) (m : Nat) (v : Mailbox) (i : Nat) : (s.setMailbox m v).lane i = s.lane i := rfl
@[simp] theorem State.setMailbox_push' (s : State) (m : Nat) (v : Mailbox) (i : Nat) : (s.setMailbox m v).push i = s.push i := rfl
@[simp] theorem State.setMailbox_pair' (s : State) (m : Nat) (v : Mailbox) (i : Nat) : (s.setMailbox m v).pair i = s.pair i := rfl
@[simp] theorem State.setMailbox_tripSrc' (s : State) (m : Nat) (v : Mailbox) (i : Nat) : (s.setMailbox m v).tripSrc i = s.tripSrc i := rfl
@[simp] theorem State.setMailbox_link' (s : State) (m : Nat) (v : Mailbox) (i : Nat) : (s.setMailbox m v).link i = s.link i := rfl
@[simp] theorem State.setMailbox_pc' (s : State) (m : Nat) (v : Mailbox) (i : Nat) : (s.setMailbox m v).pc i = s.pc i := rfl
@[simp] theorem State.setMailbox_now (s : State) (m : Nat) (v : Mailbox) : (s.setMailbox m v).now = s.now := rfl
@[simp] theorem State.setSlot_queue' (s : State) (n : Nat) (v : Slot) (i : Nat) : (s.setSlot n v).queue i = s.queue i := rfl
@[simp] theorem State.setSlot_port' (s : State) (n : Nat) (v : Slot) (i : Nat) : (s.setSlot n v).port i = s.port i := rfl
@[simp] theorem State.setSlot_binding' (s : State) (n : Nat) (v : Slot) (i : Nat) : (s.setSlot n v).binding i = s.binding i := rfl
@[simp] theorem State.setSlot_dom' (s : State) (n : Nat) (v : Slot) (i : Nat) : (s.setSlot n v).dom i = s.dom i := rfl
@[simp] theorem State.setSlot_tile' (s : State) (n : Nat) (v : Slot) (i : Nat) : (s.setSlot n v).tile i = s.tile i := rfl
@[simp] theorem State.setSlot_mailbox' (s : State) (n : Nat) (v : Slot) (i : Nat) : (s.setSlot n v).mailbox i = s.mailbox i := rfl
@[simp] theorem State.setSlot_lane' (s : State) (n : Nat) (v : Slot) (i : Nat) : (s.setSlot n v).lane i = s.lane i := rfl
@[simp] theorem State.setSlot_push' (s : State) (n : Nat) (v : Slot) (i : Nat) : (s.setSlot n v).push i = s.push i := rfl
@[simp] theorem State.setSlot_pair' (s : State) (n : Nat) (v : Slot) (i : Nat) : (s.setSlot n v).pair i = s.pair i := rfl
@[simp] theorem State.setSlot_tripSrc' (s : State) (n : Nat) (v : Slot) (i : Nat) : (s.setSlot n v).tripSrc i = s.tripSrc i := rfl
@[simp] theorem State.setSlot_link' (s : State) (n : Nat) (v : Slot) (i : Nat) : (s.setSlot n v).link i = s.link i := rfl
@[simp] theorem State.setSlot_pc' (s : State) (n : Nat) (v : Slot) (i : Nat) : (s.setSlot n v).pc i = s.pc i := rfl
@[simp] theorem State.setSlot_now (s : State) (n : Nat) (v : Slot) : (s.setSlot n v).now = s.now := rfl
@[simp] theorem State.setLane_queue' (s : State) (n : Nat) (v : Lane) (i : Nat) : (s.setLane n v).queue i = s.queue i := rfl
@[simp] theorem State.setLane_port' (s : State) (n : Nat) (v : Lane) (i : Nat) : (s.setLane n v).port i = s.port i := rfl
@[simp] theorem State.setLane_binding' (s : State) (n : Nat) (v : Lane) (i : Nat) : (s.setLane n v).binding i = s.binding i := rfl
@[simp] theorem State.setLane_dom' (s : State) (n : Nat) (v : Lane) (i : Nat) : (s.setLane n v).dom i = s.dom i := rfl
@[simp] theorem State.setLane_tile' (s : State) (n : Nat) (v : Lane) (i : Nat) : (s.setLane n v).tile i = s.tile i := rfl
@[simp] theorem State.setLane_mailbox' (s : State) (n : Nat) (v : Lane) (i : Nat) : (s.setLane n v).mailbox i = s.mailbox i := rfl
@[simp] theorem State.setLane_slot' (s : State) (n : Nat) (v : Lane) (i : Nat) : (s.setLane n v).slot i = s.slot i := rfl
@[simp] theorem State.setLane_push' (s : State) (n : Nat) (v : Lane) (i : Nat) : (s.setLane n v).push i = s.push i := rfl
@[simp] theorem State.setLane_pair' (s : State) (n : Nat) (v : Lane) (i : Nat) : (s.setLane n v).pair i = s.pair i := rfl
@[simp] theorem State.setLane_tripSrc' (s : State) (n : Nat) (v : Lane) (i : Nat) : (s.setLane n v).tripSrc i = s.tripSrc i := rfl
@[simp] theorem State.setLane_link' (s : State) (n : Nat) (v : Lane) (i : Nat) : (s.setLane n v).link i = s.link i := rfl
@[simp] theorem State.setLane_pc' (s : State) (n : Nat) (v : Lane) (i : Nat) : (s.setLane n v).pc i = s.pc i := rfl
@[simp] theorem State.setLane_now (s : State) (n : Nat) (v : Lane) : (s.setLane n v).now = s.now := rfl
@[simp] theorem State.setPush_queue' (s : State) (n : Nat) (v : Push) (i : Nat) : (s.setPush n v).queue i = s.queue i := rfl
@[simp] theorem State.setPush_port' (s : State) (n : Nat) (v : Push) (i : Nat) : (s.setPush n v).port i = s.port i := rfl
@[simp] theorem State.setPush_binding' (s : State) (n : Nat) (v : Push) (i : Nat) : (s.setPush n v).binding i = s.binding i := rfl
@[simp] theorem State.setPush_dom' (s : State) (n : Nat) (v : Push) (i : Nat) : (s.setPush n v).dom i = s.dom i := rfl
@[simp] theorem State.setPush_tile' (s : State) (n : Nat) (v : Push) (i : Nat) : (s.setPush n v).tile i = s.tile i := rfl
@[simp] theorem State.setPush_mailbox' (s : State) (n : Nat) (v : Push) (i : Nat) : (s.setPush n v).mailbox i = s.mailbox i := rfl
@[simp] theorem State.setPush_slot' (s : State) (n : Nat) (v : Push) (i : Nat) : (s.setPush n v).slot i = s.slot i := rfl
@[simp] theorem State.setPush_lane' (s : State) (n : Nat) (v : Push) (i : Nat) : (s.setPush n v).lane i = s.lane i := rfl
@[simp] theorem State.setPush_pair' (s : State) (n : Nat) (v : Push) (i : Nat) : (s.setPush n v).pair i = s.pair i := rfl
@[simp] theorem State.setPush_tripSrc' (s : State) (n : Nat) (v : Push) (i : Nat) : (s.setPush n v).tripSrc i = s.tripSrc i := rfl
@[simp] theorem State.setPush_link' (s : State) (n : Nat) (v : Push) (i : Nat) : (s.setPush n v).link i = s.link i := rfl
@[simp] theorem State.setPush_pc' (s : State) (n : Nat) (v : Push) (i : Nat) : (s.setPush n v).pc i = s.pc i := rfl
@[simp] theorem State.setPush_now (s : State) (n : Nat) (v : Push) : (s.setPush n v).now = s.now := rfl
@[simp] theorem State.setPair_queue' (s : State) (n : Nat) (v : Pair) (i : Nat) : (s.setPair n v).queue i = s.queue i := rfl
@[simp] theorem State.setPair_port' (s : State) (n : Nat) (v : Pair) (i : Nat) : (s.setPair n v).port i = s.port i := rfl
@[simp] theorem State.setPair_binding' (s : State) (n : Nat) (v : Pair) (i : Nat) : (s.setPair n v).binding i = s.binding i := rfl
@[simp] theorem State.setPair_dom' (s : State) (n : Nat) (v : Pair) (i : Nat) : (s.setPair n v).dom i = s.dom i := rfl
@[simp] theorem State.setPair_tile' (s : State) (n : Nat) (v : Pair) (i : Nat) : (s.setPair n v).tile i = s.tile i := rfl
@[simp] theorem State.setPair_mailbox' (s : State) (n : Nat) (v : Pair) (i : Nat) : (s.setPair n v).mailbox i = s.mailbox i := rfl
@[simp] theorem State.setPair_slot' (s : State) (n : Nat) (v : Pair) (i : Nat) : (s.setPair n v).slot i = s.slot i := rfl
@[simp] theorem State.setPair_lane' (s : State) (n : Nat) (v : Pair) (i : Nat) : (s.setPair n v).lane i = s.lane i := rfl
@[simp] theorem State.setPair_push' (s : State) (n : Nat) (v : Pair) (i : Nat) : (s.setPair n v).push i = s.push i := rfl
@[simp] theorem State.setPair_tripSrc' (s : State) (n : Nat) (v : Pair) (i : Nat) : (s.setPair n v).tripSrc i = s.tripSrc i := rfl
@[simp] theorem State.setPair_link' (s : State) (n : Nat) (v : Pair) (i : Nat) : (s.setPair n v).link i = s.link i := rfl
@[simp] theorem State.setPair_pc' (s : State) (n : Nat) (v : Pair) (i : Nat) : (s.setPair n v).pc i = s.pc i := rfl
@[simp] theorem State.setPair_now (s : State) (n : Nat) (v : Pair) : (s.setPair n v).now = s.now := rfl
@[simp] theorem State.setTrip_queue' (s : State) (n : Nat) (v : TripSrc) (i : Nat) : (s.setTrip n v).queue i = s.queue i := rfl
@[simp] theorem State.setTrip_port' (s : State) (n : Nat) (v : TripSrc) (i : Nat) : (s.setTrip n v).port i = s.port i := rfl
@[simp] theorem State.setTrip_binding' (s : State) (n : Nat) (v : TripSrc) (i : Nat) : (s.setTrip n v).binding i = s.binding i := rfl
@[simp] theorem State.setTrip_dom' (s : State) (n : Nat) (v : TripSrc) (i : Nat) : (s.setTrip n v).dom i = s.dom i := rfl
@[simp] theorem State.setTrip_tile' (s : State) (n : Nat) (v : TripSrc) (i : Nat) : (s.setTrip n v).tile i = s.tile i := rfl
@[simp] theorem State.setTrip_mailbox' (s : State) (n : Nat) (v : TripSrc) (i : Nat) : (s.setTrip n v).mailbox i = s.mailbox i := rfl
@[simp] theorem State.setTrip_slot' (s : State) (n : Nat) (v : TripSrc) (i : Nat) : (s.setTrip n v).slot i = s.slot i := rfl
@[simp] theorem State.setTrip_lane' (s : State) (n : Nat) (v : TripSrc) (i : Nat) : (s.setTrip n v).lane i = s.lane i := rfl
@[simp] theorem State.setTrip_push' (s : State) (n : Nat) (v : TripSrc) (i : Nat) : (s.setTrip n v).push i = s.push i := rfl
@[simp] theorem State.setTrip_pair' (s : State) (n : Nat) (v : TripSrc) (i : Nat) : (s.setTrip n v).pair i = s.pair i := rfl
@[simp] theorem State.setTrip_link' (s : State) (n : Nat) (v : TripSrc) (i : Nat) : (s.setTrip n v).link i = s.link i := rfl
@[simp] theorem State.setTrip_pc' (s : State) (n : Nat) (v : TripSrc) (i : Nat) : (s.setTrip n v).pc i = s.pc i := rfl
@[simp] theorem State.setTrip_now (s : State) (n : Nat) (v : TripSrc) : (s.setTrip n v).now = s.now := rfl
@[simp] theorem State.setLink_queue' (s : State) (n : Nat) (v : Link) (i : Nat) : (s.setLink n v).queue i = s.queue i := rfl
@[simp] theorem State.setLink_port' (s : State) (n : Nat) (v : Link) (i : Nat) : (s.setLink n v).port i = s.port i := rfl
@[simp] theorem State.setLink_binding' (s : State) (n : Nat) (v : Link) (i : Nat) : (s.setLink n v).binding i = s.binding i := rfl
@[simp] theorem State.setLink_dom' (s : State) (n : Nat) (v : Link) (i : Nat) : (s.setLink n v).dom i = s.dom i := rfl
@[simp] theorem State.setLink_tile' (s : State) (n : Nat) (v : Link) (i : Nat) : (s.setLink n v).tile i = s.tile i := rfl
@[simp] theorem State.setLink_mailbox' (s : State) (n : Nat) (v : Link) (i : Nat) : (s.setLink n v).mailbox i = s.mailbox i := rfl
@[simp] theorem State.setLink_slot' (s : State) (n : Nat) (v : Link) (i : Nat) : (s.setLink n v).slot i = s.slot i := rfl
@[simp] theorem State.setLink_lane' (s : State) (n : Nat) (v : Link) (i : Nat) : (s.setLink n v).lane i = s.lane i := rfl
@[simp] theorem State.setLink_push' (s : State) (n : Nat) (v : Link) (i : Nat) : (s.setLink n v).push i = s.push i := rfl
@[simp] theorem State.setLink_pair' (s : State) (n : Nat) (v : Link) (i : Nat) : (s.setLink n v).pair i = s.pair i := rfl
@[simp] theorem State.setLink_tripSrc' (s : State) (n : Nat) (v : Link) (i : Nat) : (s.setLink n v).tripSrc i = s.tripSrc i := rfl
@[simp] theorem State.setLink_pc' (s : State) (n : Nat) (v : Link) (i : Nat) : (s.setLink n v).pc i = s.pc i := rfl
@[simp] theorem State.setLink_now (s : State) (n : Nat) (v : Link) : (s.setLink n v).now = s.now := rfl
@[simp] theorem State.setPc_queue' (s : State) (n : Nat) (v : Pc) (i : Nat) : (s.setPc n v).queue i = s.queue i := rfl
@[simp] theorem State.setPc_port' (s : State) (n : Nat) (v : Pc) (i : Nat) : (s.setPc n v).port i = s.port i := rfl
@[simp] theorem State.setPc_binding' (s : State) (n : Nat) (v : Pc) (i : Nat) : (s.setPc n v).binding i = s.binding i := rfl
@[simp] theorem State.setPc_dom' (s : State) (n : Nat) (v : Pc) (i : Nat) : (s.setPc n v).dom i = s.dom i := rfl
@[simp] theorem State.setPc_tile' (s : State) (n : Nat) (v : Pc) (i : Nat) : (s.setPc n v).tile i = s.tile i := rfl
@[simp] theorem State.setPc_mailbox' (s : State) (n : Nat) (v : Pc) (i : Nat) : (s.setPc n v).mailbox i = s.mailbox i := rfl
@[simp] theorem State.setPc_slot' (s : State) (n : Nat) (v : Pc) (i : Nat) : (s.setPc n v).slot i = s.slot i := rfl
@[simp] theorem State.setPc_lane' (s : State) (n : Nat) (v : Pc) (i : Nat) : (s.setPc n v).lane i = s.lane i := rfl
@[simp] theorem State.setPc_push' (s : State) (n : Nat) (v : Pc) (i : Nat) : (s.setPc n v).push i = s.push i := rfl
@[simp] theorem State.setPc_pair' (s : State) (n : Nat) (v : Pc) (i : Nat) : (s.setPc n v).pair i = s.pair i := rfl
@[simp] theorem State.setPc_tripSrc' (s : State) (n : Nat) (v : Pc) (i : Nat) : (s.setPc n v).tripSrc i = s.tripSrc i := rfl
@[simp] theorem State.setPc_link' (s : State) (n : Nat) (v : Pc) (i : Nat) : (s.setPc n v).link i = s.link i := rfl
@[simp] theorem State.setPc_now (s : State) (n : Nat) (v : Pc) : (s.setPc n v).now = s.now := rfl
@[simp] theorem State.setTb_queue' (s : State) (v : Timebase) (i : Nat) : (s.setTb v).queue i = s.queue i := rfl
@[simp] theorem State.setTb_port' (s : State) (v : Timebase) (i : Nat) : (s.setTb v).port i = s.port i := rfl
@[simp] theorem State.setTb_binding' (s : State) (v : Timebase) (i : Nat) : (s.setTb v).binding i = s.binding i := rfl
@[simp] theorem State.setTb_dom' (s : State) (v : Timebase) (i : Nat) : (s.setTb v).dom i = s.dom i := rfl
@[simp] theorem State.setTb_tile' (s : State) (v : Timebase) (i : Nat) : (s.setTb v).tile i = s.tile i := rfl
@[simp] theorem State.setTb_mailbox' (s : State) (v : Timebase) (i : Nat) : (s.setTb v).mailbox i = s.mailbox i := rfl
@[simp] theorem State.setTb_slot' (s : State) (v : Timebase) (i : Nat) : (s.setTb v).slot i = s.slot i := rfl
@[simp] theorem State.setTb_lane' (s : State) (v : Timebase) (i : Nat) : (s.setTb v).lane i = s.lane i := rfl
@[simp] theorem State.setTb_push' (s : State) (v : Timebase) (i : Nat) : (s.setTb v).push i = s.push i := rfl
@[simp] theorem State.setTb_pair' (s : State) (v : Timebase) (i : Nat) : (s.setTb v).pair i = s.pair i := rfl
@[simp] theorem State.setTb_tripSrc' (s : State) (v : Timebase) (i : Nat) : (s.setTb v).tripSrc i = s.tripSrc i := rfl
@[simp] theorem State.setTb_link' (s : State) (v : Timebase) (i : Nat) : (s.setTb v).link i = s.link i := rfl
@[simp] theorem State.setTb_pc' (s : State) (v : Timebase) (i : Nat) : (s.setTb v).pc i = s.pc i := rfl
theorem State.setTb_now (s : State) (v : Timebase) : (s.setTb v).now = v.sec.toNat * 1000000000 + v.ns.toNat := rfl
@[simp] theorem State.setMg_queue' (s : State) (v : Mgmt) (i : Nat) : (s.setMg v).queue i = s.queue i := rfl
@[simp] theorem State.setMg_port' (s : State) (v : Mgmt) (i : Nat) : (s.setMg v).port i = s.port i := rfl
@[simp] theorem State.setMg_binding' (s : State) (v : Mgmt) (i : Nat) : (s.setMg v).binding i = s.binding i := rfl
@[simp] theorem State.setMg_dom' (s : State) (v : Mgmt) (i : Nat) : (s.setMg v).dom i = s.dom i := rfl
@[simp] theorem State.setMg_tile' (s : State) (v : Mgmt) (i : Nat) : (s.setMg v).tile i = s.tile i := rfl
@[simp] theorem State.setMg_mailbox' (s : State) (v : Mgmt) (i : Nat) : (s.setMg v).mailbox i = s.mailbox i := rfl
@[simp] theorem State.setMg_slot' (s : State) (v : Mgmt) (i : Nat) : (s.setMg v).slot i = s.slot i := rfl
@[simp] theorem State.setMg_lane' (s : State) (v : Mgmt) (i : Nat) : (s.setMg v).lane i = s.lane i := rfl
@[simp] theorem State.setMg_push' (s : State) (v : Mgmt) (i : Nat) : (s.setMg v).push i = s.push i := rfl
@[simp] theorem State.setMg_pair' (s : State) (v : Mgmt) (i : Nat) : (s.setMg v).pair i = s.pair i := rfl
@[simp] theorem State.setMg_tripSrc' (s : State) (v : Mgmt) (i : Nat) : (s.setMg v).tripSrc i = s.tripSrc i := rfl
@[simp] theorem State.setMg_link' (s : State) (v : Mgmt) (i : Nat) : (s.setMg v).link i = s.link i := rfl
@[simp] theorem State.setMg_pc' (s : State) (v : Mgmt) (i : Nat) : (s.setMg v).pc i = s.pc i := rfl
@[simp] theorem State.setMg_now (s : State) (v : Mgmt) : (s.setMg v).now = s.now := rfl
@[simp] theorem State.setUsb_queue' (s : State) (v : Usb) (i : Nat) : (s.setUsb v).queue i = s.queue i := rfl
@[simp] theorem State.setUsb_port' (s : State) (v : Usb) (i : Nat) : (s.setUsb v).port i = s.port i := rfl
@[simp] theorem State.setUsb_binding' (s : State) (v : Usb) (i : Nat) : (s.setUsb v).binding i = s.binding i := rfl
@[simp] theorem State.setUsb_dom' (s : State) (v : Usb) (i : Nat) : (s.setUsb v).dom i = s.dom i := rfl
@[simp] theorem State.setUsb_tile' (s : State) (v : Usb) (i : Nat) : (s.setUsb v).tile i = s.tile i := rfl
@[simp] theorem State.setUsb_mailbox' (s : State) (v : Usb) (i : Nat) : (s.setUsb v).mailbox i = s.mailbox i := rfl
@[simp] theorem State.setUsb_slot' (s : State) (v : Usb) (i : Nat) : (s.setUsb v).slot i = s.slot i := rfl
@[simp] theorem State.setUsb_lane' (s : State) (v : Usb) (i : Nat) : (s.setUsb v).lane i = s.lane i := rfl
@[simp] theorem State.setUsb_push' (s : State) (v : Usb) (i : Nat) : (s.setUsb v).push i = s.push i := rfl
@[simp] theorem State.setUsb_pair' (s : State) (v : Usb) (i : Nat) : (s.setUsb v).pair i = s.pair i := rfl
@[simp] theorem State.setUsb_tripSrc' (s : State) (v : Usb) (i : Nat) : (s.setUsb v).tripSrc i = s.tripSrc i := rfl
@[simp] theorem State.setUsb_link' (s : State) (v : Usb) (i : Nat) : (s.setUsb v).link i = s.link i := rfl
@[simp] theorem State.setUsb_pc' (s : State) (v : Usb) (i : Nat) : (s.setUsb v).pc i = s.pc i := rfl
@[simp] theorem State.setUsb_now (s : State) (v : Usb) : (s.setUsb v).now = s.now := rfl
@[simp] theorem State.setKiln_queue' (s : State) (v : Kiln) (i : Nat) : (s.setKiln v).queue i = s.queue i := rfl
@[simp] theorem State.setKiln_port' (s : State) (v : Kiln) (i : Nat) : (s.setKiln v).port i = s.port i := rfl
@[simp] theorem State.setKiln_binding' (s : State) (v : Kiln) (i : Nat) : (s.setKiln v).binding i = s.binding i := rfl
@[simp] theorem State.setKiln_dom' (s : State) (v : Kiln) (i : Nat) : (s.setKiln v).dom i = s.dom i := rfl
@[simp] theorem State.setKiln_tile' (s : State) (v : Kiln) (i : Nat) : (s.setKiln v).tile i = s.tile i := rfl
@[simp] theorem State.setKiln_mailbox' (s : State) (v : Kiln) (i : Nat) : (s.setKiln v).mailbox i = s.mailbox i := rfl
@[simp] theorem State.setKiln_slot' (s : State) (v : Kiln) (i : Nat) : (s.setKiln v).slot i = s.slot i := rfl
@[simp] theorem State.setKiln_lane' (s : State) (v : Kiln) (i : Nat) : (s.setKiln v).lane i = s.lane i := rfl
@[simp] theorem State.setKiln_push' (s : State) (v : Kiln) (i : Nat) : (s.setKiln v).push i = s.push i := rfl
@[simp] theorem State.setKiln_pair' (s : State) (v : Kiln) (i : Nat) : (s.setKiln v).pair i = s.pair i := rfl
@[simp] theorem State.setKiln_tripSrc' (s : State) (v : Kiln) (i : Nat) : (s.setKiln v).tripSrc i = s.tripSrc i := rfl
@[simp] theorem State.setKiln_link' (s : State) (v : Kiln) (i : Nat) : (s.setKiln v).link i = s.link i := rfl
@[simp] theorem State.setKiln_pc' (s : State) (v : Kiln) (i : Nat) : (s.setKiln v).pc i = s.pc i := rfl
@[simp] theorem State.setKiln_now (s : State) (v : Kiln) : (s.setKiln v).now = s.now := rfl
@[simp] theorem State.setHbm_queue' (s : State) (v : Hbm) (i : Nat) : (s.setHbm v).queue i = s.queue i := rfl
@[simp] theorem State.setHbm_port' (s : State) (v : Hbm) (i : Nat) : (s.setHbm v).port i = s.port i := rfl
@[simp] theorem State.setHbm_binding' (s : State) (v : Hbm) (i : Nat) : (s.setHbm v).binding i = s.binding i := rfl
@[simp] theorem State.setHbm_dom' (s : State) (v : Hbm) (i : Nat) : (s.setHbm v).dom i = s.dom i := rfl
@[simp] theorem State.setHbm_tile' (s : State) (v : Hbm) (i : Nat) : (s.setHbm v).tile i = s.tile i := rfl
@[simp] theorem State.setHbm_mailbox' (s : State) (v : Hbm) (i : Nat) : (s.setHbm v).mailbox i = s.mailbox i := rfl
@[simp] theorem State.setHbm_slot' (s : State) (v : Hbm) (i : Nat) : (s.setHbm v).slot i = s.slot i := rfl
@[simp] theorem State.setHbm_lane' (s : State) (v : Hbm) (i : Nat) : (s.setHbm v).lane i = s.lane i := rfl
@[simp] theorem State.setHbm_push' (s : State) (v : Hbm) (i : Nat) : (s.setHbm v).push i = s.push i := rfl
@[simp] theorem State.setHbm_pair' (s : State) (v : Hbm) (i : Nat) : (s.setHbm v).pair i = s.pair i := rfl
@[simp] theorem State.setHbm_tripSrc' (s : State) (v : Hbm) (i : Nat) : (s.setHbm v).tripSrc i = s.tripSrc i := rfl
@[simp] theorem State.setHbm_link' (s : State) (v : Hbm) (i : Nat) : (s.setHbm v).link i = s.link i := rfl
@[simp] theorem State.setHbm_now (s : State) (v : Hbm) : (s.setHbm v).now = s.now := rfl
@[simp] theorem State.setTwin_queue' (s : State) (v : Twin) (i : Nat) : (s.setTwin v).queue i = s.queue i := rfl
@[simp] theorem State.setTwin_port' (s : State) (v : Twin) (i : Nat) : (s.setTwin v).port i = s.port i := rfl
@[simp] theorem State.setTwin_binding' (s : State) (v : Twin) (i : Nat) : (s.setTwin v).binding i = s.binding i := rfl
@[simp] theorem State.setTwin_dom' (s : State) (v : Twin) (i : Nat) : (s.setTwin v).dom i = s.dom i := rfl
@[simp] theorem State.setTwin_tile' (s : State) (v : Twin) (i : Nat) : (s.setTwin v).tile i = s.tile i := rfl
@[simp] theorem State.setTwin_mailbox' (s : State) (v : Twin) (i : Nat) : (s.setTwin v).mailbox i = s.mailbox i := rfl
@[simp] theorem State.setTwin_slot' (s : State) (v : Twin) (i : Nat) : (s.setTwin v).slot i = s.slot i := rfl
@[simp] theorem State.setTwin_lane' (s : State) (v : Twin) (i : Nat) : (s.setTwin v).lane i = s.lane i := rfl
@[simp] theorem State.setTwin_push' (s : State) (v : Twin) (i : Nat) : (s.setTwin v).push i = s.push i := rfl
@[simp] theorem State.setTwin_pair' (s : State) (v : Twin) (i : Nat) : (s.setTwin v).pair i = s.pair i := rfl
@[simp] theorem State.setTwin_tripSrc' (s : State) (v : Twin) (i : Nat) : (s.setTwin v).tripSrc i = s.tripSrc i := rfl
@[simp] theorem State.setTwin_link' (s : State) (v : Twin) (i : Nat) : (s.setTwin v).link i = s.link i := rfl
@[simp] theorem State.setTwin_pc' (s : State) (v : Twin) (i : Nat) : (s.setTwin v).pc i = s.pc i := rfl
@[simp] theorem State.setTwin_now (s : State) (v : Twin) : (s.setTwin v).now = s.now := rfl
@[simp] theorem State.setWit_queue' (s : State) (v : Witness) (i : Nat) : (s.setWit v).queue i = s.queue i := rfl
@[simp] theorem State.setWit_port' (s : State) (v : Witness) (i : Nat) : (s.setWit v).port i = s.port i := rfl
@[simp] theorem State.setWit_binding' (s : State) (v : Witness) (i : Nat) : (s.setWit v).binding i = s.binding i := rfl
@[simp] theorem State.setWit_dom' (s : State) (v : Witness) (i : Nat) : (s.setWit v).dom i = s.dom i := rfl
@[simp] theorem State.setWit_tile' (s : State) (v : Witness) (i : Nat) : (s.setWit v).tile i = s.tile i := rfl
@[simp] theorem State.setWit_mailbox' (s : State) (v : Witness) (i : Nat) : (s.setWit v).mailbox i = s.mailbox i := rfl
@[simp] theorem State.setWit_slot' (s : State) (v : Witness) (i : Nat) : (s.setWit v).slot i = s.slot i := rfl
@[simp] theorem State.setWit_lane' (s : State) (v : Witness) (i : Nat) : (s.setWit v).lane i = s.lane i := rfl
@[simp] theorem State.setWit_push' (s : State) (v : Witness) (i : Nat) : (s.setWit v).push i = s.push i := rfl
@[simp] theorem State.setWit_pair' (s : State) (v : Witness) (i : Nat) : (s.setWit v).pair i = s.pair i := rfl
@[simp] theorem State.setWit_tripSrc' (s : State) (v : Witness) (i : Nat) : (s.setWit v).tripSrc i = s.tripSrc i := rfl
@[simp] theorem State.setWit_link' (s : State) (v : Witness) (i : Nat) : (s.setWit v).link i = s.link i := rfl
@[simp] theorem State.setWit_pc' (s : State) (v : Witness) (i : Nat) : (s.setWit v).pc i = s.pc i := rfl
@[simp] theorem State.setWit_now (s : State) (v : Witness) : (s.setWit v).now = s.now := rfl

/-! ## The unit that is updated -/

@[simp] theorem State.setQueue_queue (s : State) (q : Nat) (v : Queue) : (s.setQueue q v).queue q = v := by simp [State.setQueue, State.queue]
theorem State.setQueue_queue_ne (s : State) (q : Nat) (v : Queue) (j : Nat) (h : j ≠ q) : (s.setQueue q v).queue j = s.queue j := by
  simp [State.setQueue, State.queue, Tbl.get_set_ne _ h]
@[simp] theorem State.setPort_port (s : State) (p : Nat) (v : EthPort) : (s.setPort p v).port p = v := by simp [State.setPort, State.port]
theorem State.setPort_port_ne (s : State) (p : Nat) (v : EthPort) (j : Nat) (h : j ≠ p) : (s.setPort p v).port j = s.port j := by
  simp [State.setPort, State.port, Tbl.get_set_ne _ h]
@[simp] theorem State.setDom_dom (s : State) (d : Nat) (v : Dom) : (s.setDom d v).dom d = v := by simp [State.setDom, State.dom]
theorem State.setDom_dom_ne (s : State) (d : Nat) (v : Dom) (j : Nat) (h : j ≠ d) : (s.setDom d v).dom j = s.dom j := by
  simp [State.setDom, State.dom, Tbl.get_set_ne _ h]
@[simp] theorem State.setTile_tile (s : State) (p : Nat) (v : Tile) : (s.setTile p v).tile p = v := by simp [State.setTile, State.tile]
theorem State.setTile_tile_ne (s : State) (p : Nat) (v : Tile) (j : Nat) (h : j ≠ p) : (s.setTile p v).tile j = s.tile j := by
  simp [State.setTile, State.tile, Tbl.get_set_ne _ h]
@[simp] theorem State.setMailbox_mailbox (s : State) (m : Nat) (v : Mailbox) : (s.setMailbox m v).mailbox m = v := by simp [State.setMailbox, State.mailbox]
theorem State.setMailbox_mailbox_ne (s : State) (m : Nat) (v : Mailbox) (j : Nat) (h : j ≠ m) : (s.setMailbox m v).mailbox j = s.mailbox j := by
  simp [State.setMailbox, State.mailbox, Tbl.get_set_ne _ h]
@[simp] theorem State.setSlot_slot (s : State) (n : Nat) (v : Slot) : (s.setSlot n v).slot n = v := by simp [State.setSlot, State.slot]
theorem State.setSlot_slot_ne (s : State) (n : Nat) (v : Slot) (j : Nat) (h : j ≠ n) : (s.setSlot n v).slot j = s.slot j := by
  simp [State.setSlot, State.slot, Tbl.get_set_ne _ h]
@[simp] theorem State.setLane_lane (s : State) (n : Nat) (v : Lane) : (s.setLane n v).lane n = v := by simp [State.setLane, State.lane]
theorem State.setLane_lane_ne (s : State) (n : Nat) (v : Lane) (j : Nat) (h : j ≠ n) : (s.setLane n v).lane j = s.lane j := by
  simp [State.setLane, State.lane, Tbl.get_set_ne _ h]
@[simp] theorem State.setPush_push (s : State) (n : Nat) (v : Push) : (s.setPush n v).push n = v := by simp [State.setPush, State.push]
theorem State.setPush_push_ne (s : State) (n : Nat) (v : Push) (j : Nat) (h : j ≠ n) : (s.setPush n v).push j = s.push j := by
  simp [State.setPush, State.push, Tbl.get_set_ne _ h]
@[simp] theorem State.setPair_pair (s : State) (n : Nat) (v : Pair) : (s.setPair n v).pair n = v := by simp [State.setPair, State.pair]
theorem State.setPair_pair_ne (s : State) (n : Nat) (v : Pair) (j : Nat) (h : j ≠ n) : (s.setPair n v).pair j = s.pair j := by
  simp [State.setPair, State.pair, Tbl.get_set_ne _ h]
@[simp] theorem State.setTrip_tripSrc (s : State) (n : Nat) (v : TripSrc) : (s.setTrip n v).tripSrc n = v := by simp [State.setTrip, State.tripSrc]
theorem State.setTrip_tripSrc_ne (s : State) (n : Nat) (v : TripSrc) (j : Nat) (h : j ≠ n) : (s.setTrip n v).tripSrc j = s.tripSrc j := by
  simp [State.setTrip, State.tripSrc, Tbl.get_set_ne _ h]
@[simp] theorem State.setLink_link (s : State) (n : Nat) (v : Link) : (s.setLink n v).link n = v := by simp [State.setLink, State.link]
theorem State.setLink_link_ne (s : State) (n : Nat) (v : Link) (j : Nat) (h : j ≠ n) : (s.setLink n v).link j = s.link j := by
  simp [State.setLink, State.link, Tbl.get_set_ne _ h]
@[simp] theorem State.setPc_pc (s : State) (n : Nat) (v : Pc) : (s.setPc n v).pc n = v := by simp [State.setPc, State.pc]
theorem State.setPc_pc_ne (s : State) (n : Nat) (v : Pc) (j : Nat) (h : j ≠ n) : (s.setPc n v).pc j = s.pc j := by
  simp [State.setPc, State.pc, Tbl.get_set_ne _ h]
theorem Tbl.get_some_map {α : Type} (k : Nat) (t : Tbl α) : Tbl.get none k (t.map (fun e => (e.1, some e.2))) = (t.find? (fun e => decide (e.1 = k))).map (·.2) := by
  induction t with
  | nil => rfl
  | cons x t ih =>
    simp only [List.map_cons, Tbl.get, List.find?_cons, ih]
    by_cases h : x.1 = k <;> simp [h]
theorem Tbl.map_insert {α β : Type} (g : α → β) (k : Nat) (v : α) (t : Tbl α) :
    (Tbl.insert k v t).map (fun e => (e.1, g e.2)) = Tbl.insert k (g v) (t.map (fun e => (e.1, g e.2))) := by
  induction t with
  | nil => rfl
  | cons x t ih =>
    simp only [Tbl.insert, List.map_cons]
    split
    · rfl
    · split
      · rfl
      · simp [ih]
@[simp] theorem State.setBinding_binding (s : State) (b : Nat) (v : Binding) : (s.setBinding b v).binding b = some v := by
  simp only [State.setBinding, State.binding, Tbl.map_insert, Tbl.get_insert_same]
theorem State.setBinding_binding_ne (s : State) (b : Nat) (v : Binding) (j : Nat) (h : j ≠ b) : (s.setBinding b v).binding j = s.binding j := by
  simp only [State.setBinding, State.binding, Tbl.map_insert, Tbl.get_insert_ne _ h]

/-! ## An update through a function is an update by value -/

theorem State.updQueue_eq (s : State) (q : Nat) (f : Queue → Queue) : s.updQueue q f = s.setQueue q (f (s.queue q)) := rfl
theorem State.updPort_eq (s : State) (p : Nat) (f : EthPort → EthPort) : s.updPort p f = s.setPort p (f (s.port p)) := rfl
theorem State.updDom_eq (s : State) (d : Nat) (f : Dom → Dom) : s.updDom d f = s.setDom d (f (s.dom d)) := rfl
theorem State.updTile_eq (s : State) (p : Nat) (f : Tile → Tile) : s.updTile p f = s.setTile p (f (s.tile p)) := rfl
theorem State.updMailbox_eq (s : State) (m : Nat) (f : Mailbox → Mailbox) : s.updMailbox m f = s.setMailbox m (f (s.mailbox m)) := rfl
theorem State.updSlot_eq (s : State) (n : Nat) (f : Slot → Slot) : s.updSlot n f = s.setSlot n (f (s.slot n)) := rfl
theorem State.updLane_eq (s : State) (n : Nat) (f : Lane → Lane) : s.updLane n f = s.setLane n (f (s.lane n)) := rfl
theorem State.updPair_eq (s : State) (n : Nat) (f : Pair → Pair) : s.updPair n f = s.setPair n (f (s.pair n)) := rfl
theorem State.updTrip_eq (s : State) (n : Nat) (f : TripSrc → TripSrc) : s.updTrip n f = s.setTrip n (f (s.tripSrc n)) := rfl
theorem State.updLink_eq (s : State) (n : Nat) (f : Link → Link) : s.updLink n f = s.setLink n (f (s.link n)) := rfl

/-- The whole-record updates collapse. -/
@[simp] theorem State.setTb_setTb (s : State) (v w : Timebase) : (s.setTb v).setTb w = s.setTb w := rfl
@[simp] theorem State.setMg_setMg (s : State) (v w : Mgmt) : (s.setMg v).setMg w = s.setMg w := rfl
@[simp] theorem State.setUsb_setUsb (s : State) (v w : Usb) : (s.setUsb v).setUsb w = s.setUsb w := rfl
@[simp] theorem State.setKiln_setKiln (s : State) (v w : Kiln) : (s.setKiln v).setKiln w = s.setKiln w := rfl
@[simp] theorem State.setHbm_setHbm (s : State) (v w : Hbm) : (s.setHbm v).setHbm w = s.setHbm w := rfl
@[simp] theorem State.setTwin_setTwin (s : State) (v w : Twin) : (s.setTwin v).setTwin w = s.setTwin w := rfl
@[simp] theorem State.setWit_setWit (s : State) (v w : Witness) : (s.setWit v).setWit w = s.setWit w := rfl

end Sys2Proof.Machine
end

