-- ==== Sys2Proof/Laws/Hbm.lean ====
section
/-!
SUPPORT. Reads of HBM through the hearth cache: where nothing carries an error every access answers, and an uncorrectable burst that
lies first fails a read at its address, while reads of other lines leave it as it is.
-/

set_option Elab.async false

namespace Sys2Proof.Machine

open Sys2Proof

@[simp] theorem State.event_hbm (ev inst n : Nat) (s : State) : (s.event ev inst n).hbm = s.hbm := by
  unfold State.event
  split <;> rfl

theorem Tbl.get_or (p : α → Prop) (d : α) (k : Nat) (t : Tbl α) (hd : p d) (h : ∀ e ∈ t, p e.2) : p (Tbl.get d k t) := by
  induction t with
  | nil => exact hd
  | cons e t ih =>
    rw [Tbl.get_cons]
    split
    · exact h _ (.head _)
    · exact ih (fun x hx => h x (.tail _ hx))

theorem State.pc_sound {s : State} (h : ∀ e ∈ s.hbm.pcs, e.2.failed = false) (n : Nat) : (s.pc n).failed = false :=
  Tbl.get_or (fun c : Pc => c.failed = false) _ _ _ rfl h

/-! ## Nothing carries an error -/

theorem State.hbmClean_congr {s t : State} (h : t.hbm = s.hbm) (c : s.hbmClean) : t.hbmClean := by
  unfold State.hbmClean at c ⊢
  rw [h]
  exact c

theorem State.writeBack_clean {s : State} (x : Line) (c : s.hbmClean) : (s.writeBack x).hbmClean := by
  obtain ⟨h1, h2, h3⟩ := c
  refine ⟨?_, ?_, ?_⟩
  · simp [State.writeBack, h1, State.setHbm]
  · intro y hy
    simp only [State.writeBack, State.event_hbm, State.setHbm, List.mem_map] at hy
    obtain ⟨z, hz, rfl⟩ := hy
    split <;> exact h2 z hz
  · intro e he
    simp only [State.writeBack, State.event_hbm, State.setHbm] at he
    exact h3 e he

theorem State.evictFor_clean {s : State} (a : Nat) (c : s.hbmClean) : (s.evictFor a).hbmClean := by
  unfold State.evictFor
  split
  · exact c
  · split
    · exact c
    · rename_i x _
      have hb : (if x.dirty then s.writeBack x else s).hbmClean := by
        split
        · exact State.writeBack_clean x c
        · exact c
      exact ⟨hb.1, fun y hy => hb.2.1 y (List.mem_filter.1 hy).1, hb.2.2⟩

theorem State.enterLine_clean {s : State} (x : Line) (front : Bool) (hx : x.err = 0) (c : s.hbmClean) : (s.enterLine x front).hbmClean := by
  obtain ⟨h1, h2, h3⟩ := State.evictFor_clean x.addr c
  refine ⟨h1, ?_, h3⟩
  intro y hy
  have : y = x ∨ y ∈ (s.evictFor x.addr).hbm.cache := by
    cases front <;> simp [State.enterLine, State.setHbm] at hy <;> tauto
  rcases this with rfl | h
  · exact hx
  · exact h2 y h

theorem State.useLine_clean {s : State} (a : Nat) (write whole : Bool) (c : s.hbmClean) :
    (s.useLine a write whole).2 = none ∧ (s.useLine a write whole).1.hbmClean := by
  obtain ⟨h1, h2, h3⟩ := c
  unfold State.useLine
  cases hc : s.cached a with
  | some x =>
    have hx : x.err = 0 := h2 x (List.mem_of_find?_eq_some hc)
    have hy : (if (write && whole) = true then 0 else x.err) = 0 := by split <;> simp [hx]
    simp only [hy, show ¬ (0 : Nat) = 2 by decide, if_false]
    refine ⟨trivial, by simpa [State.setHbm] using h1, ?_, by simpa [State.setHbm] using h3⟩
    intro y m
    simp only [State.setHbm, List.mem_cons] at m
    rcases m with rfl | m
    · rfl
    · exact h2 y (by simpa using (List.mem_filter.1 m).1)
  | none =>
    have hp : ∀ n, ((s.event 0x209 (s.sliceAt a) 1).pc n).failed = false := fun n => State.pc_sound (by simpa using h3) n
    have hb : (s.event 0x209 (s.sliceAt a) 1).badBursts a 128 = [] := by simp [State.badBursts, h1]
    have he : (s.event 0x209 (s.sliceAt a) 1).hbmClean := State.hbmClean_congr (State.event_hbm ..) ⟨h1, h2, h3⟩
    simp only [State.loadLine, hp, hb]
    split
    · exact ⟨rfl, State.enterLine_clean _ _ rfl he⟩
    · exact ⟨rfl, State.enterLine_clean _ _ rfl (State.hbmClean_congr (State.event_hbm ..) he)⟩

/-- Accesses to lines, where nothing carries an error. -/
theorem State.useLines_clean (lo : Nat) (write whole : Bool) (ls : List Nat) {s : State} (c : s.hbmClean) :
    (s.useLines lo write whole ls).2 = none ∧ (s.useLines lo write whole ls).1.hbmClean := by
  suffices h : ∀ r : State × Option Nat, r.2 = none → r.1.hbmClean →
      let t := ls.foldl (fun r m =>
        let x := r.1.useLine m write whole
        (x.1, match r.2 with
          | some b => some b
          | none => x.2.map (failsAt lo))) r
      t.2 = none ∧ t.1.hbmClean from h (s, none) rfl c
  induction ls with
  | nil => exact fun r h1 h2 => ⟨h1, h2⟩
  | cons m ls ih =>
    intro r h1 h2
    have hu := State.useLine_clean m write whole h2
    refine ih _ ?_ hu.2
    simp [h1, hu.1]

/-- A read of the device region. -/
theorem State.devRead_clean (kind a b n : Nat) {s : State} (c : s.hbmClean) : (s.devRead kind a b n).2 = none ∧ (s.devRead kind a b n).1.hbmClean := by
  have h := State.useLines_clean (hbmDev + 32 * (Config.devPlace kind a b % 0x7000000)) false false
    (linesOf (hbmDev + 32 * (Config.devPlace kind a b % 0x7000000)) n) c
  simp only [State.devRead, State.hbmRead, h.1]
  exact ⟨trivial, h.2⟩

theorem State.pairRead_clean (kind a b n : Nat) {s : State} (c : s.hbmClean) : (s.pairRead kind a b n).2 = none ∧ (s.pairRead kind a b n).1.hbmClean := by
  have h := State.devRead_clean kind a b n c
  refine ⟨?_, h.2⟩
  simp [State.pairRead, h.1]

/-- A command's entry and its captured inputs are readable. -/
theorem State.readEntry_clean (o : Outst) {s : State} (c : s.hbmClean) : (s.readEntry o).2 = none ∧ (s.readEntry o).1.hbmClean := by
  have h := State.pairRead_clean 5 o.pkt.q o.seq (64 + o.pkt.payload.length) c
  unfold State.readEntry
  simp only [h.1]
  split
  · exact h
  · exact State.pairRead_clean 0 o.pkt.q o.seq o.captured.length h.2

/-! ## What such an access changes: lines of the cache, and event counters -/

/-- From `s` to `u` only the lines of the hearth cache and the event counters have changed. -/
def State.OnlyLines (s u : State) : Prop := ∃ l e, u = { s with hbm := { s.hbm with cache := l }, evc := e }

theorem State.OnlyLines.rfl (s : State) : s.OnlyLines s := ⟨s.hbm.cache, s.evc, Eq.refl s⟩

theorem State.OnlyLines.trans {s t u : State} (h : s.OnlyLines t) (k : t.OnlyLines u) : s.OnlyLines u := by
  obtain ⟨l, e, h⟩ := h
  subst h
  obtain ⟨l', e', h⟩ := k
  exact ⟨l', e', h⟩

theorem State.event_onlyLines (ev inst n : Nat) (s : State) : s.OnlyLines (s.event ev inst n) := by
  unfold State.event
  split
  · exact .rfl s
  · exact ⟨s.hbm.cache, _, Eq.refl _⟩

theorem State.setCache_onlyLines (l : List Line) (s : State) : s.OnlyLines (s.setHbm { s.hbm with cache := l }) := ⟨l, s.evc, Eq.refl _⟩

theorem State.writeBack_onlyLines {s : State} (x : Line) (h : s.hbm.upset = []) : s.OnlyLines (s.writeBack x) := by
  have : s.OnlyLines (s.setHbm { s.hbm with cache := s.hbm.cache.map (fun y => if y.addr = x.addr then { y with dirty := false } else y),
                                            upset := s.hbm.upset.filter (fun e => decide (¬ (x.addr ≤ e.1 ∧ e.1 < x.addr + 128))) }) := by
    have hf : s.hbm.upset.filter (fun e => decide (¬ (x.addr ≤ e.1 ∧ e.1 < x.addr + 128))) = s.hbm.upset := by simp [h]
    rw [hf]
    exact State.setCache_onlyLines _ s
  exact (this.trans (State.event_onlyLines ..)).trans (State.event_onlyLines ..)

theorem State.enterLine_onlyLines {s : State} (x : Line) (front : Bool) (h : s.hbm.upset = []) : s.OnlyLines (s.enterLine x front) := by
  have : s.OnlyLines (s.evictFor x.addr) := by
    unfold State.evictFor
    split
    · exact .rfl s
    · split
      · exact .rfl s
      · refine State.OnlyLines.trans ?_ (State.setCache_onlyLines _ _)
        split
        · exact State.writeBack_onlyLines _ h
        · exact .rfl s
  exact this.trans (State.setCache_onlyLines _ _)

theorem State.useLine_onlyLines {s : State} (a : Nat) (write whole : Bool) (c : s.hbmClean) : s.OnlyLines (s.useLine a write whole).1 := by
  obtain ⟨h1, h2, h3⟩ := c
  unfold State.useLine
  cases hc : s.cached a with
  | some x =>
    have hx : x.err = 0 := h2 x (List.mem_of_find?_eq_some hc)
    have hy : (if (write && whole) = true then 0 else x.err) = 0 := by split <;> simp [hx]
    simp only [hy, show ¬ (0 : Nat) = 2 by decide, if_false]
    exact (State.event_onlyLines ..).trans (State.setCache_onlyLines _ _)
  | none =>
    have hp : ∀ n, ((s.event 0x209 (s.sliceAt a) 1).pc n).failed = false := fun n => State.pc_sound (by simpa using h3) n
    have hb : (s.event 0x209 (s.sliceAt a) 1).badBursts a 128 = [] := by simp [State.badBursts, h1]
    simp only [State.loadLine, hp, hb]
    split
    · exact (State.event_onlyLines ..).trans (State.enterLine_onlyLines _ _ (by simpa using h1))
    · exact ((State.event_onlyLines ..).trans (State.event_onlyLines ..)).trans (State.enterLine_onlyLines _ _ (by simpa using h1))

theorem State.useLines_onlyLines (lo : Nat) (write whole : Bool) (ls : List Nat) {s : State} (c : s.hbmClean) :
    s.OnlyLines (s.useLines lo write whole ls).1 := by
  suffices h : ∀ r : State × Option Nat, r.1.hbmClean → r.1.OnlyLines (ls.foldl (fun r m =>
      let x := r.1.useLine m write whole
      (x.1, match r.2 with
        | some b => some b
        | none => x.2.map (failsAt lo))) r).1 from h (s, none) c
  induction ls with
  | nil => exact fun r _ => .rfl r.1
  | cons m ls ih => exact fun r h => (State.useLine_onlyLines m write whole h).trans (ih _ (State.useLine_clean m write whole h).2)

theorem State.pairRead_onlyLines (kind a b n : Nat) {s : State} (c : s.hbmClean) : s.OnlyLines (s.pairRead kind a b n).1 := by
  have h := State.useLines_clean (hbmDev + 32 * (Config.devPlace kind a b % 0x7000000)) false false
    (linesOf (hbmDev + 32 * (Config.devPlace kind a b % 0x7000000)) n) c
  simp only [State.pairRead, State.devRead, State.hbmRead, h.1]
  exact State.useLines_onlyLines _ _ _ _ c

theorem State.readEntry_onlyLines (o : Outst) {s : State} (c : s.hbmClean) : s.OnlyLines (s.readEntry o).1 := by
  have h := State.pairRead_clean 5 o.pkt.q o.seq (64 + o.pkt.payload.length) c
  have k := State.pairRead_onlyLines 5 o.pkt.q o.seq (64 + o.pkt.payload.length) c
  unfold State.readEntry
  simp only [h.1]
  split
  · exact k
  · exact k.trans (State.pairRead_onlyLines 0 o.pkt.q o.seq o.captured.length h.2)

/-! ## The first burst is uncorrectable -/

theorem State.useLines_fails (lo : Nat) (write whole : Bool) (m : Nat) (ls : List Nat) {s : State} {b : Nat} (h : (s.useLine m write whole).2 = some b) :
    (s.useLines lo write whole (m :: ls)).2 = some (failsAt lo b) := by
  suffices k : ∀ r : State × Option Nat, ∀ x, r.2 = some x → (ls.foldl (fun r m =>
      let x := r.1.useLine m write whole
      (x.1, match r.2 with
        | some b => some b
        | none => x.2.map (failsAt lo))) r).2 = some x by
    apply k
    simp [h]
  induction ls with
  | nil => exact fun r x h => h
  | cons n ls ih =>
    intro r x hr
    exact ih _ _ (by simp [hr])

/-- A read that begins with an uncorrectable burst fails there, where it finds no line and its pseudo-channel works. -/
theorem State.hbmRead_fails {s : State} {b n : Nat} (hb : b % 32 = 0) (hn : 0 < n) (hu : s.hbm.upset = [(b, 2)])
    (hc : ∀ x ∈ s.hbm.cache, x.addr ≠ b / 128 * 128) (hp : ∀ e ∈ s.hbm.pcs, e.2.failed = false) : (s.hbmRead b n).2.2 = some b := by
  have hl : (s.useLine (b / 128 * 128) false false).2 = some b := by
    have h1 : s.cached (b / 128 * 128) = none := List.find?_eq_none.2 (fun x hx => by simpa using hc x hx)
    have h2 : ∀ k, ((s.event 0x209 (s.sliceAt (b / 128 * 128)) 1).pc k).failed = false := fun k => State.pc_sound (by simpa using hp) k
    have h3 : (s.event 0x209 (s.sliceAt (b / 128 * 128)) 1).badBursts (b / 128 * 128) 128 = [(b, 2)] := by
      have : b / 128 * 128 / 32 * 32 ≤ b ∧ b < b / 128 * 128 + 128 := by omega
      simp [State.badBursts, hu, this]
    unfold State.useLine
    simp only [h1, State.loadLine, h2, h3]
    rfl
  have hf : failsAt b b = b := by unfold failsAt; split <;> omega
  have hz : linesOf b n = b / 128 * 128 :: ((List.range ((b + n - 1) / 128 - b / 128)).map (fun i => (b / 128 + (i + 1)) * 128)) := by
    unfold linesOf
    rw [if_neg (by omega), List.range_succ_eq_map]
    simp
  simp only [State.hbmRead]
  rw [hz, State.useLines_fails _ _ _ _ _ hl, hf]

/-! ## One burst is uncorrectable, and others are read -/

/-- The burst at `b` is uncorrectable and lies in no line of the cache; nothing else carries an error, and no line is dirty. -/
def State.lostAt (b : Nat) (s : State) : Prop :=
  s.hbm.upset = [(b, 2)] ∧ (∀ x ∈ s.hbm.cache, x.err = 0 ∧ x.dirty = false ∧ x.addr ≠ b / 128 * 128) ∧ ∀ e ∈ s.hbm.pcs, e.2.failed = false

theorem State.lostAt_congr {b : Nat} {s t : State} (h : t.hbm = s.hbm) (c : s.lostAt b) : t.lostAt b := by
  unfold State.lostAt at c ⊢
  rw [h]
  exact c

theorem State.useLine_lostAt {b m : Nat} {s : State} (hm : m % 128 = 0) (hb : m ≠ b / 128 * 128) (c : s.lostAt b) :
    (s.useLine m false false).2 = none ∧ (s.useLine m false false).1.lostAt b := by
  obtain ⟨h1, h2, h3⟩ := c
  unfold State.useLine
  cases hc : s.cached m with
  | some x =>
    obtain ⟨hx, hd, ha⟩ := h2 x (List.mem_of_find?_eq_some hc)
    simp only [hx, hd, Bool.false_and, Bool.or_false]
    refine ⟨by simp, ?_⟩
    refine ⟨by simpa [State.setHbm] using h1, ?_, by simpa [State.setHbm] using h3⟩
    intro y hy
    simp [State.setHbm] at hy
    rcases hy with rfl | ⟨hy, -⟩
    · exact ⟨rfl, rfl, ha⟩
    · exact h2 y hy
  | none =>
    have hp : ∀ n, ((s.event 0x209 (s.sliceAt m) 1).pc n).failed = false := fun n => State.pc_sound (by simpa using h3) n
    have hn : (s.event 0x209 (s.sliceAt m) 1).badBursts m 128 = [] := by
      have : ¬ (m / 32 * 32 ≤ b ∧ b < m + 128) := by omega
      simp [State.badBursts, h1, this]
    simp only [State.loadLine, hp, hn, Bool.false_and]
    refine ⟨rfl, ?_⟩
    have he : (State.event 0x200 ((s.event 0x209 (s.sliceAt m) 1).pcOf m) 4 (s.event 0x209 (s.sliceAt m) 1)).lostAt b :=
      State.lostAt_congr (by simp) ⟨h1, h2, h3⟩
    have hv : ∀ u : State, u.lostAt b → (u.evictFor m).lostAt b := by
      intro u hu
      unfold State.evictFor
      split
      · exact hu
      · split
        · exact hu
        · rename_i x hx
          have hxm : x ∈ u.hbm.cache := (List.mem_filter.1 (List.mem_filter.1 (List.mem_of_getLast? hx)).1).1
          have hxd := (hu.2.1 x hxm).2.1
          simp only [hxd, Bool.false_eq_true, if_false]
          exact ⟨hu.1, fun y hy => hu.2.1 y (List.mem_filter.1 hy).1, hu.2.2⟩
    obtain ⟨e1, e2, e3⟩ := hv _ he
    refine ⟨e1, ?_, e3⟩
    intro y hy
    simp [State.enterLine, State.setHbm] at hy
    rcases hy with rfl | hy
    · exact ⟨rfl, rfl, hb⟩
    · exact e2 y hy

/-- Reads of other lines leave the burst as it is. -/
theorem State.useLines_lostAt {b : Nat} (lo : Nat) (ls : List Nat) {s : State} (hl : ∀ m ∈ ls, m % 128 = 0 ∧ m ≠ b / 128 * 128) (c : s.lostAt b) :
    (s.useLines lo false false ls).2 = none ∧ (s.useLines lo false false ls).1.lostAt b := by
  suffices h : ∀ r : State × Option Nat, r.2 = none → r.1.lostAt b →
      let t := ls.foldl (fun r m =>
        let x := r.1.useLine m false false
        (x.1, match r.2 with
          | some b => some b
          | none => x.2.map (failsAt lo))) r
      t.2 = none ∧ t.1.lostAt b from h (s, none) rfl c
  induction ls with
  | nil => exact fun r h1 h2 => ⟨h1, h2⟩
  | cons m ls ih =>
    intro r h1 h2
    have hu := State.useLine_lostAt (hl m (.head _)).1 (hl m (.head _)).2 h2
    refine ih (fun x hx => hl x (.tail _ hx)) _ ?_ hu.2
    simp [h1, hu.1]

theorem linesOf_spec {a n m : Nat} (h : m ∈ linesOf a n) : m % 128 = 0 ∧ a / 128 * 128 ≤ m := by
  unfold linesOf at h
  split at h
  · cases h
  · simp only [List.mem_map, List.mem_range] at h
    obtain ⟨i, -, rfl⟩ := h
    omega

/-- Reads of the device region leave a burst below it as it is, and succeed. -/
theorem State.pairRead_lostAt (kind a b' n : Nat) {b : Nat} {s : State} (hb : b < hbmDev) (c : s.lostAt b) :
    (s.pairRead kind a b' n).2 = none ∧ (s.pairRead kind a b' n).1.lostAt b := by
  have h := State.useLines_lostAt (b := b) (hbmDev + 32 * (Config.devPlace kind a b' % 0x7000000))
    (linesOf (hbmDev + 32 * (Config.devPlace kind a b' % 0x7000000)) n) (s := s)
    (fun m hm => by
      obtain ⟨h1, h2⟩ := linesOf_spec hm
      refine ⟨h1, ?_⟩
      unfold hbmDev at hb h2
      omega) c
  simp only [State.pairRead, State.devRead, State.hbmRead, h.1]
  exact ⟨by simp, h.2⟩

theorem State.readEntry_lostAt (o : Outst) {b : Nat} {s : State} (hb : b < hbmDev) (c : s.lostAt b) :
    (s.readEntry o).2 = none ∧ (s.readEntry o).1.lostAt b := by
  have h := State.pairRead_lostAt 5 o.pkt.q o.seq (64 + o.pkt.payload.length) hb c
  unfold State.readEntry
  simp only [h.1]
  split
  · exact h
  · exact State.pairRead_lostAt 0 o.pkt.q o.seq o.captured.length hb h.2

end Sys2Proof.Machine
end

