-- ==== Sys2Proof/Laws/Issue.lean ====
section
/-!
SUPPORT. The issue of one instruction: its context before and after, a read without errors, and what an instruction answers under
`State.Runs` once its body is known.
-/

set_option Elab.async false

namespace Sys2Proof.Machine

open Sys2Proof

/-! ## The contexts of a tile -/

@[simp] theorem Tile.slot_setSlot (w : Nat) (c : Option Ctx) (t : Tile) : (t.setSlot w c).slot w = c := by
  unfold Tile.slot Tile.setSlot
  split <;> rfl

theorem Tile.slot_setSlot_ne {w x : Nat} (hw : w < 2) (hx : x < 2) (h : x ≠ w) (c : Option Ctx) (t : Tile) : (t.setSlot w c).slot x = t.slot x := by
  unfold Tile.slot Tile.setSlot
  split <;> split <;> first | rfl | omega

@[simp] theorem Tile.setSlot_execSlot (w : Nat) (c : Option Ctx) (t : Tile) : (t.setSlot w c).execSlot = t.execSlot := by
  unfold Tile.setSlot Tile.execSlot
  split <;> rfl

@[simp] theorem Tile.setSlot_mem (w : Nat) (c : Option Ctx) (t : Tile) : (t.setSlot w c).mem = t.mem := by
  unfold Tile.setSlot
  split <;> rfl

@[simp] theorem Tile.setSlot_upset (w : Nat) (c : Option Ctx) (t : Tile) : (t.setSlot w c).upset = t.upset := by
  unfold Tile.setSlot
  split <;> rfl

@[simp] theorem Tile.setSlot_setSlot (w : Nat) (c d : Option Ctx) (t : Tile) : (t.setSlot w c).setSlot w d = t.setSlot w d := by
  unfold Tile.setSlot
  split <;> rfl

theorem Tile.execSlot_lt (t : Tile) : t.execSlot < 2 := by
  unfold Tile.execSlot
  split <;> omega

@[simp] theorem State.setCtx_tile (p w : Nat) (c : Ctx) (s : State) : (s.setCtx p w c).tile p = (s.tile p).setSlot w (some c) := by
  simp [State.setCtx, State.updTile]

theorem State.setCtx_tile_ne {p q : Nat} (h : q ≠ p) (w : Nat) (c : Ctx) (s : State) : (s.setCtx p w c).tile q = s.tile q := by
  simp [State.setCtx, State.updTile, State.setTile_tile_ne _ _ _ _ h]

@[simp] theorem State.setCtx_ctx (p w : Nat) (c : Ctx) (s : State) : (s.setCtx p w c).ctx p w = some c := by
  simp [State.ctx]

theorem State.updCtx_some {p w : Nat} {c : Ctx} {s : State} (h : s.ctx p w = some c) (f : Ctx → Ctx) : s.updCtx p w f = s.setCtx p w (f c) := by
  simp [State.updCtx, h]

theorem State.updCtx_none {p w : Nat} {s : State} (h : s.ctx p w = none) (f : Ctx → Ctx) : s.updCtx p w f = s := by
  simp [State.updCtx, h]

/-- A tile with a context is not as it is after a reset, so its table lists it. -/
theorem Tile.setSlot_some_ne (w : Nat) (c : Ctx) (t : Tile) : t.setSlot w (some c) ≠ { } := by
  intro h
  have h1 := congrArg (Tile.slot w) h
  rw [Tile.slot_setSlot] at h1
  unfold Tile.slot at h1
  split at h1 <;> cases h1

theorem State.setTile_setTile {v : Tile} (h : v ≠ { }) (p : Nat) (u : Tile) (s : State) : (s.setTile p v).setTile p u = s.setTile p u := by
  simp only [State.setTile, Tbl.set_set h]

@[simp] theorem State.setCtx_setCtx (p w : Nat) (c d : Ctx) (s : State) : (s.setCtx p w c).setCtx p w d = s.setCtx p w d := by
  rw [State.setCtx, State.setCtx, State.updTile, State.updTile, State.setTile_tile, State.setTile_setTile (Tile.setSlot_some_ne w c _),
    Tile.setSlot_setSlot]
  rfl

@[simp] theorem State.setCtx_updCtx (p w : Nat) (c : Ctx) (f : Ctx → Ctx) (s : State) : (s.setCtx p w c).updCtx p w f = s.setCtx p w (f c) := by
  rw [State.updCtx_some (State.setCtx_ctx p w c s), State.setCtx_setCtx]

@[simp] theorem State.setCtx_now (p w : Nat) (c : Ctx) (s : State) : (s.setCtx p w c).now = s.now := rfl

@[simp] theorem State.withCtx_tile (t : Nat) (c : Ctx) (s : State) : (s.withCtx t c).tile t = (s.tile t).setSlot (s.tile t).execSlot (some c) :=
  State.setCtx_tile _ _ _ _

theorem State.withCtx_tile_ne {t q : Nat} (h : q ≠ t) (c : Ctx) (s : State) : (s.withCtx t c).tile q = s.tile q :=
  State.setCtx_tile_ne h _ _ _

@[simp] theorem State.withCtx_cur (t : Nat) (c : Ctx) (s : State) : ((s.withCtx t c).tile t).cur = some c := by
  simp [Tile.cur]

@[simp] theorem State.withCtx_execSlot (t : Nat) (c : Ctx) (s : State) : ((s.withCtx t c).tile t).execSlot = (s.tile t).execSlot := by simp
@[simp] theorem State.withCtx_mem (t : Nat) (c : Ctx) (s : State) : ((s.withCtx t c).tile t).mem = (s.tile t).mem := by simp
@[simp] theorem State.withCtx_upset (t : Nat) (c : Ctx) (s : State) : ((s.withCtx t c).tile t).upset = (s.tile t).upset := by simp
@[simp] theorem State.withCtx_now (t : Nat) (c : Ctx) (s : State) : (s.withCtx t c).now = s.now := rfl
@[simp] theorem State.withCtx_withCtx (t : Nat) (c d : Ctx) (s : State) : (s.withCtx t c).withCtx t d = s.withCtx t d := by
  simp [State.withCtx]

theorem State.withCtx_updCtx (t : Nat) (c : Ctx) (f : Ctx → Ctx) (s : State) :
    (s.withCtx t c).updCtx t (s.tile t).execSlot f = s.withCtx t (f c) := by
  simp [State.withCtx]

/-- No update of a context touches another tile, HBM or the queue of commands. -/
@[simp] theorem State.withCtx_hbm (t : Nat) (c : Ctx) (s : State) : (s.withCtx t c).hbm = s.hbm := rfl
@[simp] theorem State.withCtx_pending (t : Nat) (c : Ctx) (s : State) : (s.withCtx t c).pending = s.pending := rfl

/-! ## Events are counted and change nothing else -/

theorem State.event_eq (ev i n : Nat) (s : State) : ∃ e, s.event ev i n = { s with evc := e } := by
  unfold State.event
  split
  · exact ⟨s.evc, rfl⟩
  · exact ⟨_, rfl⟩

/-- Below FIRE a tile's event is not counted (17 R546). -/
theorem State.tileEvent_eq (p ev n : Nat) (s : State) :
    s.tileEvent p ev n = s ∨ ∃ e v, s.tileEvent p ev n = { (s.setTile p { s.tile p with evc := e }) with evc := v } := by
  unfold State.tileEvent
  split
  · exact .inl rfl
  · obtain ⟨v, hv⟩ := State.event_eq ev p n (s.setTile p { s.tile p with evc := (s.tile p).evc.map (fun e =>
      if bit e.2.sel 8 && decide (fld e.2.sel 0 8 = ev) then (e.1, Counter.add n e.2) else e) })
    exact .inr ⟨_, v, hv⟩

theorem State.tileEvent_tile (p ev n : Nat) (s : State) : ∃ e, (s.tileEvent p ev n).tile p = { s.tile p with evc := e } := by
  rcases State.tileEvent_eq p ev n s with h | ⟨e, v, h⟩
  · exact ⟨(s.tile p).evc, by rw [h]⟩
  · exact ⟨e, by rw [h]; exact State.setTile_tile _ _ _⟩

theorem State.tileEvent_tile_ne {p q : Nat} (h : q ≠ p) (ev n : Nat) (s : State) : (s.tileEvent p ev n).tile q = s.tile q := by
  rcases State.tileEvent_eq p ev n s with hv | ⟨e, v, hv⟩ <;> rw [hv]
  exact State.setTile_tile_ne s p _ q h

@[simp] theorem State.tileEvent_mem (p ev n q : Nat) (s : State) : ((s.tileEvent p ev n).tile q).mem = (s.tile q).mem := by
  by_cases h : q = p
  · subst h
    obtain ⟨e, he⟩ := State.tileEvent_tile q ev n s
    rw [he]
  · rw [State.tileEvent_tile_ne h]

@[simp] theorem State.tileEvent_cur (p ev n q : Nat) (s : State) : ((s.tileEvent p ev n).tile q).cur = (s.tile q).cur := by
  by_cases h : q = p
  · subst h
    obtain ⟨e, he⟩ := State.tileEvent_tile q ev n s
    rw [he]
    rfl
  · rw [State.tileEvent_tile_ne h]

@[simp] theorem State.tileEvent_hbm (p ev n : Nat) (s : State) : (s.tileEvent p ev n).hbm = s.hbm := by
  rcases State.tileEvent_eq p ev n s with h | ⟨e, v, h⟩ <;> rw [h]
  rfl

@[simp] theorem State.tileEvent_pending (p ev n : Nat) (s : State) : (s.tileEvent p ev n).pending = s.pending := by
  rcases State.tileEvent_eq p ev n s with h | ⟨e, v, h⟩ <;> rw [h]
  rfl

/-! ## Reads without errors (02 R54) -/

theorem Tile.upsets_nil {t : Tile} (h : t.upset = []) (st off n : Nat) : t.upsets st off n = [] := by simp [Tile.upsets, h]

theorem State.storeRead_clean {p st off n : Nat} {s : State} (h : (s.tile p).upsets st off n = []) (eng : Nat) :
    s.storeRead p eng st off n = (s.bytesAt p st off n, s, none) := by
  simp only [State.storeRead, h]
  rfl

/-- Several reads without errors: their bytes, an empty range being no bytes, and nothing else. -/
theorem At.reads_clean (h : At) (eng : Nat) (rs : List (Nat × Nat × Nat)) (s : State)
    (hc : ∀ r ∈ rs, r.2.2 ≠ 0 → (s.tile h.p).upsets r.1 r.2.1 r.2.2 = []) :
    h.reads eng rs s = (rs.map (fun r => if r.2.2 = 0 then [] else s.bytesAt h.p r.1 r.2.1 r.2.2), s, none) := by
  induction rs with
  | nil => rfl
  | cons r rs ih =>
    have ih := ih (fun x hx => hc x (List.mem_cons_of_mem _ hx))
    unfold At.reads
    by_cases h0 : r.2.2 = 0
    · simp [h0, ih]
    · simp [h0, State.storeRead_clean (hc r (List.mem_cons_self ..) h0), ih]

/-- A dequantisation on a tile without errors reads and changes nothing (04 R125). -/
theorem At.dequant_clean (h : At) (eng : Nat) (q : Bq) (n : Nat) {s : State} (hu : (s.tile h.p).upset = []) :
    (h.dequant eng q n s).2 = (s, none) := by
  have hc : ∀ rs : List (Nat × Nat × Nat), h.reads eng rs s = (_, s, none) := fun rs =>
    h.reads_clean eng rs s (fun _ _ _ => Tile.upsets_nil hu _ _ _)
  simp only [At.dequant, hc]

/-! ## The issue of an instruction (05 R141 to R148, R164) -/

theorem State.Fetches.issuing {s : State} {t : Nat} {c : Ctx} (h : s.Fetches t c) : s.issuing t = some c := by
  have hb := h.budget
  simp [State.issuing, h.cur, h.live, h.fire, h.program, h.ready, hb]

theorem State.Fetches.ctx {s : State} {t : Nat} {c : Ctx} (h : s.Fetches t c) : s.ctx t (s.tile t).execSlot = some c := h.cur

theorem issue_of_issues {s : State} {t : Nat} {c : Ctx} (h : s.Issues t c) (f : BitVec 48) (good : Bool) (body : Body) :
    issue t f good body s = .next (if good then s.retire t (s.tile t).execSlot c f body
      else s.failJob t (s.tile t).execSlot St.dataError (locInstr t c.pc)) := by
  have h3 : s.storeRead t 7 3 (8 * c.pc) 8 = (_, s, none) := State.storeRead_clean h.clean 7
  have hn := h.noTrap
  have hw : codeGood t (s.bytesAt t 3 (8 * c.pc) 8) = true := h.word
  simp only [issue, h.unit, if_true, h.issuing, State.issued, h.unhurt, hn, h.code, h3, hw]
  simp

/-- A word with a reserved code ends the job before its guard is looked at (R145, R146). -/
theorem issue_reserved {s : State} {t : Nat} {c : Ctx} (h : s.Fetches t c)
    (hw : codeGood t (Mem.bytes (storeBase 3 + 8 * c.pc) 8 (s.tile t).mem) = false) (f : BitVec 48) (good : Bool) (body : Body) :
    issue t f good body s = .next (s.failJob t (s.tile t).execSlot St.dataError (locInstr t c.pc)) := by
  have h3 : s.storeRead t 7 3 (8 * c.pc) 8 = (_, s, none) := State.storeRead_clean h.clean 7
  have hn := h.noTrap
  have hw : codeGood t (s.bytesAt t 3 (8 * c.pc) 8) = false := hw
  simp only [issue, h.unit, if_true, h.issuing, State.issued, h.unhurt, hn, h.code, h3, hw]
  simp

/-- A tile without a context that may issue does nothing (log entries 3 and 7). -/
theorem issue_of_none {s : State} {t : Nat} (ht : t < 68) (h : s.issuing t = none) (f : BitVec 48) (good : Bool) (body : Body) :
    issue t f good body s = .next s := by
  simp [issue, ht, h]

theorem issue_of_no_tile {t : Nat} (ht : ¬ t < 68) (f : BitVec 48) (good : Bool) (body : Body) (s : State) :
    issue t f good body s = .fault .noSuchUnit := by
  simp [issue, ht]

/-- What the body of an instruction works on, once the word has issued. -/
def atIssue (s : State) (t : Nat) (f : BitVec 48) (c : Ctx) : At :=
  { p := t, w := (s.tile t).execSlot, c := c.after s.now s.up, f := f, bad := .bad St.dataError (locInstr t c.pc) }

theorem State.Runs.retire {s : State} {t : Nat} {f : BitVec 48} {c : Ctx} (h : s.Runs t f c) (body : Body) :
    s.retire t (s.tile t).execSlot c f body =
      match (body (atIssue s t f c) (s.withCtx t (c.after s.now s.up))).2 with
      | .ok => (body (atIssue s t f c) (s.withCtx t (c.after s.now s.up))).1.tileEvent t 0x2 1
      | .wait => (body (atIssue s t f c) (s.withCtx t (c.after s.now s.up))).1.updCtx t (s.tile t).execSlot
          (fun x => { x with pc := c.pc, started := c.started, cycSince := c.cycSince })
      | .hold => (body (atIssue s t f c) (s.withCtx t (c.after s.now s.up))).1.updCtx t (s.tile t).execSlot (fun x => { x with pc := c.pc })
      | .banks bs => (body (atIssue s t f c) (s.withCtx t (c.after s.now s.up))).1.updCtx t (s.tile t).execSlot
          (fun x => { x with pc := c.pc, started := c.started, cycSince := c.cycSince, stage1 := bs })
      | .bad st loc => ((body (atIssue s t f c) (s.withCtx t (c.after s.now s.up))).1.tileEvent t 0x2 1).failJob t (s.tile t).execSlot st loc := by
  have hg : ({ c with stage1 := [] } : Ctx).guarded f = true := h.guard
  unfold State.retire
  simp only [hg]
  rfl

/-- An instruction whose body is done has retired. -/
theorem issue_done {s : State} {t : Nat} {f : BitVec 48} {c : Ctx} (h : s.Runs t f c) {good : Bool} (hg : good = true) {body : Body} {u : State}
    (hb : body (atIssue s t f c) (s.withCtx t (c.after s.now s.up)) = (u, .ok)) : issue t f good body s = u.retired t := by
  rw [issue_of_issues h.toIssues, hg, if_pos rfl, h.retire, hb]
  rfl

/-- An instruction that only changes its context. -/
theorem issue_set {s : State} {t : Nat} {f : BitVec 48} {c : Ctx} (h : s.Runs t f c) {good : Bool} (hg : good = true) {body : Body} {g : Ctx → Ctx}
    (hb : body (atIssue s t f c) (s.withCtx t (c.after s.now s.up)) = (atIssue s t f c).done g (s.withCtx t (c.after s.now s.up))) :
    issue t f good body s = s.ran t (g (c.after s.now s.up)) := by
  refine issue_done h hg (hb.trans ?_)
  simp only [At.done, At.set, atIssue, State.withCtx_updCtx]

/-- A body that fails ends the job; its instruction has issued, and is counted (17 R551). -/
theorem issue_bad {s : State} {t : Nat} {f : BitVec 48} {c : Ctx} (h : s.Runs t f c) {good : Bool} (hg : good = true) {body : Body} {u : State}
    {st : Byte} {loc : W64} (hb : body (atIssue s t f c) (s.withCtx t (c.after s.now s.up)) = (u, .bad st loc)) :
    issue t f good body s = .next ((u.tileEvent t 0x2 1).failJob t (s.tile t).execSlot st loc) := by
  rw [issue_of_issues h.toIssues, hg, if_pos rfl, h.retire, hb]

/-- A field that is reserved or not used ends the job before the guard is looked at (R146). -/
theorem issue_bad_field {s : State} {t : Nat} {c : Ctx} (h : s.Issues t c) (f : BitVec 48) (body : Body) :
    issue t f false body s = .next (s.failJob t (s.tile t).execSlot St.dataError (locInstr t c.pc)) := by
  rw [issue_of_issues h]
  rfl

/-- A false guard leaves everything but pc (R144). -/
theorem issue_guard_false {s : State} {t : Nat} {f : BitVec 48} {c : Ctx} (h : s.Issues t c) (hf : c.guarded f = false) (body : Body) :
    issue t f true body s = s.ran t (c.after s.now s.up) := by
  have hg : ({ c with stage1 := [] } : Ctx).guarded f = false := hf
  rw [issue_of_issues h, if_pos rfl]
  unfold State.retire
  simp only [hg]
  rfl

/-- A retired instruction that changed nothing but its context leaves the rest of the device as it was. -/
theorem State.onlyCtx_ran (t : Nat) (k : Ctx) (s : State) : ∃ u, s.ran t k = .next u ∧ u = (s.withCtx t k).tileEvent t 0x2 1 := ⟨_, rfl, rfl⟩

end Sys2Proof.Machine
end

