-- ==== Sys2Proof/Tests/Slice0.lean ====
section
/-!
SUPPORT. Tests of the model on small states: what the check of the commands refuses, a few results whose values the spec's text gives,
and for every statement with hypotheses a concrete state and operands that meet them.
-/

set_option Elab.async false

namespace Sys2Proof.Tests

open Sys2Proof Sys2Proof.Machine

/-! ## The check of the commands: one term for each bound that it refuses -/

def noHdr : Header :=
  { flags := 0, queue := 0, payloadLen := 0, tag := 0, cones := 0, dlSec := 0, dlNs := 0, rsvd := 0, w0 := 0, w1 := 0, w2 := 0, w3 := 0 }

theorem test_wf_refuses_domain : ¬ (Instr.rungReached 116).wf := by show ¬ (116 < 116); decide
theorem test_wf_refuses_test_domain : ¬ (Instr.selfTestRun 116 0).wf := by show ¬ (116 < 116); decide
theorem test_wf_refuses_queue : ¬ (Instr.completionRelease 4096).wf := by show ¬ (4096 < 4096); decide
theorem test_wf_refuses_piece : ¬ (Instr.pendingMapPiece 16).wf := by show ¬ (16 < 16); decide
theorem test_wf_refuses_tile : ¬ (Instr.nop 68 0).wf := by show ¬ (68 < 68); decide
theorem test_wf_refuses_tile_event : ¬ (Instr.contextSwitch 68).wf := by show ¬ (68 < 68); decide
theorem test_wf_refuses_bank : ¬ (Instr.bankTransitionDone 0 40).wf := by show ¬ (0 < 68 ∧ 40 < 40); decide
theorem test_wf_refuses_dma_queue : ¬ (Instr.dmaDescriptorDone 0 16).wf := by show ¬ (0 < 68 ∧ 16 < 16); decide
theorem test_wf_refuses_coil : ¬ (Instr.receivePush 0 32 .host 0 0 []).wf := by show ¬ (0 < 68 ∧ 32 < 32); decide
theorem test_wf_refuses_atomic_coil : ¬ (Instr.atomicAdd 0 32 0 false []).wf := by show ¬ (0 < 68 ∧ 32 < 32); decide
theorem test_wf_refuses_unit : ¬ (Instr.unitFailure .senseGroup 4).wf := by show ¬ (4 < 4); decide
theorem test_wf_refuses_engine_unit : ¬ (Instr.unitFailure .loopEngine 16).wf := by show ¬ (16 < 16); decide
theorem test_wf_refuses_refresh_bank : ¬ (Instr.hbmRefresh 0 32).wf := by show ¬ (0 < 32 ∧ 32 < 32); decide
theorem test_wf_refuses_pseudo_channel : ¬ (Instr.hbmRefresh 32 0).wf := by show ¬ (32 < 32 ∧ 0 < 32); decide
theorem test_wf_refuses_engine : ¬ (Instr.slotStart 16 0).wf := by show ¬ (16 < 16 ∧ 0 < 8); decide
theorem test_wf_refuses_slot : ¬ (Instr.slotStart 0 8).wf := by show ¬ (0 < 16 ∧ 8 < 8); decide
theorem test_wf_refuses_slot_write : ¬ (Instr.leSlotManWrite noHdr 0 8 0).wf := by show ¬ (0 < 16 ∧ 8 < 8); decide
theorem test_wf_refuses_bank_word : ¬ (Instr.leSlotBankWrite noHdr 0 0 false 64 0).wf := by show ¬ (0 < 16 ∧ 0 < 8 ∧ 64 < 64); decide
theorem test_wf_refuses_lane : ¬ (Instr.convertPulse 64).wf := by show ¬ (64 < 64); decide
theorem test_wf_refuses_trip_pin : ¬ (Instr.tripInput 16 true 0).wf := by show ¬ (16 < 16); decide
theorem test_wf_refuses_trip_source : ¬ (Instr.tripLatchClear noHdr 83).wf := by show ¬ (83 < 83); decide
theorem test_wf_refuses_pair : ¬ (Instr.pairResume 48).wf := by show ¬ (48 < 48); decide
theorem test_wf_refuses_link : ¬ (Instr.downlinkSend 32).wf := by show ¬ (32 < 32); decide
theorem test_wf_refuses_port : ¬ (Instr.syncSend 2).wf := by show ¬ (2 < 2); decide
theorem test_wf_refuses_shadow_slot : ¬ (Instr.loopShadowReceived 0 8 [] 0).wf := by show ¬ (0 < 16 ∧ 8 < 8); decide
theorem test_wf_refuses_reset_cause : ¬ (Instr.warmReset 4).wf := by show ¬ (1 ≤ 4 ∧ 4 ≤ 3); decide
theorem test_wf_refuses_power_on_as_warm : ¬ (Instr.warmReset 0).wf := by show ¬ (1 ≤ 0 ∧ 0 ≤ 3); decide
theorem test_wf_refuses_global_counter : ¬ (Instr.evcSelWrite noHdr none 32 0).wf := by show ¬ (32 < 32); decide
theorem test_wf_refuses_tile_counter : ¬ (Instr.evcSelWrite noHdr (some 0) 8 0).wf := by show ¬ (0 < 68 ∧ 8 < 8); decide
theorem test_wf_refuses_twin_lane : ¬ (Instr.twinLaneLockLoss 4).wf := by show ¬ (4 < 4); decide

/-! ## Small states -/

/-- An image of one CODE section over the I-store and regions over the first banks of the W-, A- and P-stores (05 R179, R180). -/
def image : Image :=
  { sections := [
      { kind := 1, persistent := false, reload := false, store := 3, fileOff := 0, length := 0, storeOff := 0, size := 0x40000 },
      { kind := 3, persistent := false, reload := false, store := 0, fileOff := 0, length := 0, storeOff := 0, size := 0x10000 },
      { kind := 3, persistent := false, reload := false, store := 1, fileOff := 0, length := 0, storeOff := 0, size := 0x20000 },
      { kind := 3, persistent := false, reload := false, store := 2, fileOff := 0, length := 0, storeOff := 0, size := 0x20000 }] }

/-- A context that runs the image, with some registers set. -/
def ctx (g : Tbl W64) : Ctx := { job := { image := image }, live := true, g := g }

/-- Tile 0 at FIRE with its first banks ON, in service with Q0 and queue 1 (control) and queue 2 (data) enabled. -/
def dev (c : Ctx) (T : Tile) : State :=
  { tiles := [(0, { T with ctx0 := some c, banks := [(0, .on), (16, .on), (32, .on)] })], doms := [(0, { rung := 0, target := 0 })],
    mg := { dev := .service, inReset := false },
    queues := [(0, { enabled := true, prio := 7, depthLog2 := 8 }), (1, { enabled := true, depthLog2 := 8 }),
               (2, { enabled := true, dataClass := true, depthLog2 := 8 })] }

/-- A word from its fields: guard, [43:39], [38:34], [33:29], [28:24] and the rest. -/
def wd (d a b c low : Nat) : BitVec 48 := BitVec.ofNat 48 (d * 2 ^ 39 + a * 2 ^ 34 + b * 2 ^ 29 + c * 2 ^ 24 + low)

theorem runs_of (s : State) (f : BitVec 48) (c : Ctx) (hc : (s.tile 0).cur = some c) (hd : (s.dom 0).rung = 0) (hu : (s.tile 0).upset = [])
    (h : (c.live && !c.job.builtin && decide (c.wait = none) && decide (c.job.image.wcet = 0) && !c.trap && decide (c.doomed = none) &&
      codeGood 0 (Mem.bytes (storeBase 3 + 8 * c.pc) 8 (s.tile 0).mem) && c.inCode && c.guarded f) = true) :
    s.Runs 0 f c := by
  simp only [Bool.and_eq_true, decide_eq_true_eq, Bool.not_eq_true'] at h
  obtain ⟨⟨⟨⟨⟨⟨⟨⟨h1, h2⟩, h3⟩, h4⟩, h5⟩, h8⟩, h9⟩, h6⟩, h7⟩ := h
  exact { unit := by decide, cur := hc, live := h1, fire := hd, program := h2, ready := h3, budget := .inl h4,
          noTrap := by simp [h5], unhurt := h8, word := h9, code := h6, clean := by simp [Tile.upsets, hu], guard := h7 }

theorem runs_dev (g : Tbl W64) (f : BitVec 48) (h : Fmt.guard f = 0 ∧ Fmt.gneg f = false := by decide) : (dev (ctx g) { }).Runs 0 f (ctx g) := by
  refine runs_of _ f _ rfl rfl rfl ?_
  have hg : (ctx g).guarded f = true := by simp [Ctx.guarded, Ctx.pred, h.1, h.2]
  have hw : codeGood 0 (Mem.bytes (storeBase 3 + 8 * (ctx g).pc) 8 ((dev (ctx g) { }).tile 0).mem) = true := by
    show codeGood 0 (Mem.bytes (storeBase 3 + 8 * 0) 8 []) = true
    decide +kernel
  simp only [hg, hw, Bool.and_true]
  rfl

/-! ## Witnesses: the instructions -/

/-- Both forms of each group, with g0 and g31 as destination and as operand, and the greatest shift count. -/
theorem witness_AluResults :
    (dev (ctx [(2, 63)]) { }).Runs 0 (wd 31 1 2 0 0) (ctx [(2, 63)]) ∧ goodAlu (wd 31 1 2 0 0) = true ∧ goodAlu (wd 0 31 31 0 1) = true ∧
    (dev (ctx []) { }).Runs 0 (wd 0 31 31 0 1) (ctx []) ∧ Fmt.b (wd 1 2 0 0 1) = 0 ∧ goodAlu (wd 1 2 0 0 1) = true ∧
    (dev (ctx []) { }).Runs 0 (wd 1 2 0 0 0x1FFFFFFFF) (ctx []) ∧ fld (wd 1 2 0 0 0x1FFFFFFFF) 33 1 = 0 ∧ fld (wd 31 0 0 0 0) 33 1 = 0 ∧
    Fmt.a (wd 31 0 0 0 0) = 0 :=
  ⟨runs_dev _ _, rfl, rfl, runs_dev _ _, rfl, rfl, runs_dev _ _, rfl, rfl, rfl⟩

theorem witness_AluResults_saturating :
    (dev (ctx [(1, 0x7FFFFFFFFFFFFFFF), (2, 1)]) { }).Runs 0 (wd 3 1 2 0 0) (ctx [(1, 0x7FFFFFFFFFFFFFFF), (2, 1)]) ∧ goodAlu (wd 3 1 2 0 0) = true ∧
    (dev (ctx [(1, 0x80000000)]) { }).Runs 0 (wd 0 1 1 0 1) (ctx [(1, 0x80000000)]) ∧ goodAlu (wd 0 1 1 0 1) = true ∧
    (dev (ctx [(1, 0x80000000)]) { }).Runs 0 (wd 3 1 0 0 0x1FFFFFFFF) (ctx [(1, 0x80000000)]) ∧ fld (wd 3 1 0 0 0x1FFFFFFFF) 33 1 = 0 :=
  ⟨runs_dev _ _, rfl, runs_dev _ _, rfl, runs_dev _ _, rfl⟩

/-- Division by zero, MIN / −1 in both forms, and an ordinary one. -/
theorem witness_DivisionResults :
    (dev (ctx [(1, 7)]) { }).Runs 0 (wd 3 1 2 0 0) (ctx [(1, 7)]) ∧ goodAlu (wd 3 1 2 0 0) = true ∧ (ctx [(1, 7)]).reg 2 = 0 ∧
    (dev (ctx [(1, 0x8000000000000000), (2, 0xFFFFFFFFFFFFFFFF)]) { }).Runs 0 (wd 3 1 2 0 0) (ctx [(1, 0x8000000000000000), (2, 0xFFFFFFFFFFFFFFFF)]) ∧
    (dev (ctx [(1, 0x80000000), (2, 0xFFFFFFFF)]) { }).Runs 0 (wd 0 1 2 0 1) (ctx [(1, 0x80000000), (2, 0xFFFFFFFF)]) ∧ goodAlu (wd 0 1 2 0 1) = true ∧
    (dev (ctx [(1, 7), (2, 2)]) { }).Runs 0 (wd 3 1 2 0 0) (ctx [(1, 7), (2, 2)]) :=
  ⟨runs_dev _ _, rfl, rfl, runs_dev _ _, runs_dev _ _, rfl, runs_dev _ _⟩

theorem witness_PredicateAndBranchResults_predicates :
    (dev (ctx [(1, 7)]) { }).Runs 0 (wd 7 1 2 0 5) (ctx [(1, 7)]) ∧ Fmt.d (wd 7 1 2 0 5) < 8 ∧ Fmt.c (wd 7 1 2 0 5) = 0 ∧
    fld (wd 7 1 2 0 5) 4 20 = 0 ∧ fld (wd 7 1 2 0 5) 0 3 ≤ 5 ∧
    (dev (ctx []) { }).Runs 0 (wd 0 1 0 0 8) (ctx []) ∧ fld (wd 0 1 0 0 8) 4 20 = 0 ∧ fld (wd 0 1 0 0 8) 0 3 ≤ 5 ∧
    (dev (ctx []) { }).Runs 0 (wd 7 7 7 0 0) (ctx []) ∧ goodPred (wd 7 7 7 0 0) = true ∧
    goodPred (wd 1 0 0 0 0) = true ∧ Fmt.b (wd 1 0 0 0 0) = 0 :=
  ⟨runs_dev _ _, by decide, rfl, rfl, by decide, runs_dev _ _, rfl, by decide, runs_dev _ _, rfl, rfl, rfl⟩

/-- The last word of the I-store, a register count of one and of zero, and a jump without offset. -/
theorem witness_PredicateAndBranchResults_branches :
    (dev { ctx [(1, 1)] with pc := 32767 } { }).Runs 0 (wd 1 0 0 0 0xFFFFFFFF) { ctx [(1, 1)] with pc := 32767 } ∧ fld (wd 1 0 0 0 0xFFFFFFFF) 32 7 = 0 ∧
    ({ ctx [(1, 1)] with pc := 32767 } : Ctx).pc < 32768 ∧
    (dev (ctx []) { }).Runs 0 (wd 0 0 0 0 2) (ctx []) ∧ Fmt.d (wd 0 0 0 0 2) = 0 ∧ fld (wd 0 0 0 0 2) 32 7 = 0 ∧
    Fmt.imm (wd 1 0 0 0 0) = 0 ∧ fld (wd 1 0 0 0 0) 32 7 = 0 :=
  ⟨runs_of _ _ _ rfl rfl rfl (by decide +kernel), rfl, by decide, runs_dev _ _, rfl, rfl, rfl, rfl⟩

/-- A word of the A-store and a double word of the P-store, at zero and at the end of the footprint. -/
theorem witness_LoadAndStoreResults_loads :
    let s := dev (ctx [(1, 0x1FFF8)]) { }
    s.Runs 0 (wd 2 1 1 0 4) (ctx [(1, 0x1FFF8)]) ∧ goodM (wd 2 1 0 0 0x100000004) = true ∧ s.Runs 0 (wd 2 1 0 0 0x100000004) (ctx [(1, 0x1FFF8)]) ∧
    Fmt.store (wd 2 1 0 0 0x100000004) = 1 ∧ s.usable 0 (ctx [(1, 0x1FFF8)]) [Range.rd 1 0x1FFFC 4] ∧
    goodM (wd 2 1 0 0 0x200000000) = true ∧ s.Runs 0 (wd 2 1 0 0 0x200000000) (ctx [(1, 0x1FFF8)]) ∧
    s.usable 0 (ctx [(1, 0x1FFF8)]) [Range.rd 2 0x1FFF8 8] :=
  ⟨runs_dev _ _, rfl, runs_dev _ _, rfl, by unfold State.usable; decide, rfl, runs_dev _ _, by unfold State.usable; decide⟩

theorem witness_LoadAndStoreResults_stores :
    let s := dev (ctx [(1, 0x1FFF8)]) { }
    s.Runs 0 (wd 2 1 0 0 0x100000004) (ctx [(1, 0x1FFF8)]) ∧ goodM (wd 2 1 0 0 0x100000004) = true ∧
    s.usable 0 (ctx [(1, 0x1FFF8)]) [Range.wr 1 0x1FFFC 4] ∧
    s.Runs 0 (wd 2 1 0 0 0x200000000) (ctx [(1, 0x1FFF8)]) ∧ s.usable 0 (ctx [(1, 0x1FFF8)]) [Range.wr 2 0x1FFF8 8] :=
  ⟨runs_dev _ _, rfl, by unfold State.usable; decide, runs_dev _ _, by unfold State.usable; decide⟩

/-- The greatest register of a pair, and a target at the present count and one behind it. -/
theorem witness_TimeReadResults :
    let s := dev (ctx [(1, 0xFFFFFFFF)]) { }
    s.Runs 0 (wd 30 0 0 0 0) (ctx [(1, 0xFFFFFFFF)]) ∧ goodI true false false (wd 30 0 0 0 0) = true ∧ Fmt.d (wd 30 0 0 0 0) ≠ 31 ∧
    s.Runs 0 (wd 0 1 0 0 0) (ctx [(1, 0xFFFFFFFF)]) ∧ goodI false true false (wd 0 1 0 0 0) = true ∧
    (short s.now - ((ctx [(1, 0xFFFFFFFF)]).reg (Fmt.a (wd 0 1 0 0 0))).setWidth 32).toNat < 2 ^ 31 ∧
    (short s.now - ((ctx [(1, 0xFFFFFFFF)]).reg (Fmt.a (wd 0 0 0 0 0))).setWidth 32).toNat < 2 ^ 31 :=
  ⟨runs_dev _ _, rfl, by decide, runs_dev _ _, rfl, by decide, by decide⟩

theorem witness_SystemResults :
    let s := dev (ctx []) { }
    s.Runs 0 (wd 0 0 0 0 0) (ctx []) ∧ goodI false false false (wd 0 0 0 0 0) = true ∧ (ctx []).trap = false ∧
    (s.tile 0).dma.all (fun e => e.2.descs.isEmpty) = true ∧ (s.tile 0).sb.all (fun e => !e.2.valid) = true ∧ (∀ r ∈ (s.tile 0).bankReq, r.by_ ≠ some (s.tile 0).execSlot) ∧
    s.Runs 0 (wd 31 0 0 0 0) (ctx []) ∧ goodI true false false (wd 31 0 0 0 0) = true ∧
    s.Runs 0 (wd 0 0 0 0 0xFFFFFFFF) (ctx []) ∧ goodI false false true (wd 0 0 0 0 0xFFFFFFFF) = true ∧
    s.Runs 0 (wd 0 31 0 0 0) (ctx []) ∧ goodI false true false (wd 0 31 0 0 0) = true ∧
    s.Runs 0 (wd 0 15 0 0 0) (ctx []) ∧ Fmt.a (wd 0 15 0 0 0) < 16 ∧ Fmt.emod (wd 0 15 0 0 0) = 0 ∧
    (Tbl.get { } 15 (s.tile 0).dma).descs = [] :=
  ⟨runs_dev _ _, rfl, rfl, rfl, rfl, (fun _ h => nomatch h), runs_dev _ _, rfl, runs_dev _ _, rfl, runs_dev _ _, rfl, runs_dev _ _, by decide, rfl, rfl⟩

/-- A standing job whose binding names mailbox 255. -/
def mailCtx : Ctx := { ctx [(1, 5)] with job := { image := image, binding := some 3 } }

theorem witness_MailboxStaging :
    let s := { dev mailCtx { } with bindings := [(3, { mailboxes := [255] })] }
    s.Runs 0 (wd 0 1 0 0 255) mailCtx ∧ goodI false true true (wd 0 1 0 0 255) = true ∧ fld (wd 0 1 0 0 255) 8 24 = 0 ∧
    (∃ b v, mailCtx.job.binding = some b ∧ s.binding b = some v ∧ fld (wd 0 1 0 0 255) 0 8 ∈ v.mailboxes) ∧ (s.tile 0).cu = none :=
  ⟨runs_of _ _ _ rfl rfl rfl (by decide +kernel), rfl, rfl, ⟨3, { mailboxes := [255] }, rfl, rfl, by decide⟩, rfl⟩

/-- A coil of 64-byte elements, at the wrap. -/
def coil0 : Coil := { store := 1, base := 0, size := 0x800, head := 0x7C0, tail := 0x7C0, tailLap := true, isOpen := true, elem := 64 }

theorem witness_CoilPointers :
    0 < coil0.elem ∧ coil0.head < coil0.size ∧ coil0.tail < coil0.size ∧ coil0.full = true ∧ ({ coil0 with tailLap := false } : Coil).empty = true ∧
    (dev (ctx []) { }).Runs 0 (wd 31 31 0 0 0) (ctx []) ∧ goodI true true false (wd 31 31 0 0 0) = true :=
  ⟨by decide, by decide, by decide, rfl, rfl, runs_dev _ _, rfl⟩

/-- COPEN of a coil of one element size 64; the others on an open coil that holds one element. -/
def coilCtx : Ctx := { ctx [(3, 1)] with coils := [(1, { coil0 with tail := 0, tailLap := true })] }

theorem witness_CoilResults :
    (let c := ctx [(2, 0x0000004000400000), (3, 64)]
     let s := dev c { }
     s.Runs 0 (wd 2 31 0 0 0) c ∧ goodI true true false (wd 2 31 0 0 0) = true ∧ Fmt.d (wd 2 31 0 0 0) ≠ 31 ∧
     fld (c.reg 2) 54 10 = 0 ∧ fld (c.reg 2) 24 8 = 0 ∧ fld (c.reg 3) 25 39 = 0 ∧ fld (c.reg 3) 17 3 = 0 ∧ fld (c.reg 2) 22 2 = 1 ∧
     fld (c.reg 2) 32 22 = 64 ∧ fld (c.reg 3) 0 13 = 64 ∧ fld (c.reg 2) 0 22 = 0 ∧ inFoot c.job.image 1 0 64 = true ∧ (c.coil 31).isOpen = false ∧ c.coils = []) ∧
    (let s := dev coilCtx { }
     s.Runs 0 (wd 3 1 0 0 0) coilCtx ∧ goodI true true false (wd 3 1 0 0 0) = true ∧ (coilCtx.coil 1).empty = false ∧
     s.Runs 0 (wd 0 1 0 0 0) coilCtx ∧ goodI false true false (wd 0 1 0 0 0) = true ∧
     s.Runs 0 (wd 0 1 0 0 2) coilCtx ∧ goodI false true true (wd 0 1 0 0 2) = true ∧
     (((s.withCtx 0 (coilCtx.after s.now s.up)).rxDrain 0 16).tile 0).rx.all (fun e => decide (e.coil ≠ 1)) = true ∧
     (coilCtx.coil 1).isOpen = true ∧ (coilCtx.coil 1).receive = false ∧ ((coilCtx.coil 1).pushN ((coilCtx.reg 3).toNat - coilCtx.progress)).2 = 0) :=
  ⟨⟨runs_dev _ _, rfl, by decide, rfl, rfl, rfl, rfl, rfl, rfl, rfl, rfl, by decide, rfl, rfl⟩,
   ⟨runs_of _ _ _ rfl rfl rfl (by decide +kernel), rfl, rfl, runs_of _ _ _ rfl rfl rfl (by decide +kernel), rfl, runs_of _ _ _ rfl rfl rfl (by decide +kernel), rfl, by decide,
    rfl, rfl, by decide⟩⟩

/-- ON and OFF of bank 39, the last one, with no bank of the footprint in it for OFF: BANKPWR ON of it, OFF of none. -/
theorem witness_BankAndDmaCommands_banks :
    let c := ctx [(1, 0x8000000000)]
    let s := dev c { }
    s.Runs 0 (wd 0 1 0 0 2) c ∧ goodI false true true (wd 0 1 0 0 2) = true ∧ ((wd 0 1 0 0 2).setWidth 32 : W32).toNat ≤ 2 ∧
    (c.reg 1).toNat < 2 ^ 40 ∧
    (let c := ctx [(1, 0x10000)]
     let s := dev c { }
     s.Runs 0 (wd 0 1 0 0 0) c ∧ goodI false true true (wd 0 1 0 0 0) = true ∧ s.mayTakeOff 0 c 16 = true) :=
  ⟨runs_dev _ _, rfl, by decide, by decide, runs_dev _ _, rfl, by decide⟩

/-- The last DMA queue: a row of 4 bytes from the A-store to the P-store of the tile; queue 15 without descriptors. -/
theorem witness_BankAndDmaCommands_dma :
    let c := ctx [(4, BitVec.ofNat 64 (winBase 0 + 0x400000)), (5, BitVec.ofNat 64 (winBase 0 + 0x600000)), (6, 4)]
    let s := dev c { }
    let v := Tbl.get { } 15 (s.tile 0).dma
    let d : Desc := { w0 := c.reg 4, w1 := c.reg 5, w2 := c.reg 6, w3 := c.reg 7, attr := v.attr, no := (s.tile 0).dmaNo, active := false,
                      slot := (s.tile 0).execSlot, row := 0, entry := v.count % 16 }
    s.Runs 0 (wd 4 15 0 0 0) c ∧ Fmt.a (wd 4 15 0 0 0) < 16 ∧ Fmt.d (wd 4 15 0 0 0) % 4 = 0 ∧ Fmt.emod (wd 4 15 0 0 0) = 0 ∧
    s.descGood 0 c d = true ∧ v.descs.length < 16 ∧
    (∀ r ∈ descRanges 0 (s.tile 0) d, (s.tile 0).spanBusy 0 (some 15) r.1 r.2.1 r.2.2.1 r.2.2.2 = false) ∧
    (∀ r ∈ descHbm 0 d, (s.tile 0).hbmBusy 0 15 r.1 r.2.1 r.2.2 = false) ∧
    s.Runs 0 (wd 0 15 0 0 2) c ∧ Fmt.d (wd 0 15 0 0 2) = 0 ∧ fld (wd 0 15 0 0 2) 10 24 = 0 ∧ bit (wd 0 15 0 0 2) 7 = false ∧ v.descs = [] ∧
    bit (wd 0 15 0 0 2) 1 = true ∧ ((s.tile 0).dma.filter (fun e => decide (e.1 ≠ 15) && bit e.2.attr 1)).length < 8 ∧ bit (wd 0 15 0 0 2) 8 = false :=
  ⟨runs_dev _ _, by decide, rfl, rfl, by decide, by decide, by decide, by decide, runs_dev _ _, rfl, rfl, rfl, rfl, rfl, by decide, rfl⟩

/-- Signed and unsigned lanes, under k7 with no lane enabled and under k0. -/
theorem witness_IntegerLaneResults :
    let s := dev (ctx []) { }
    s.Runs 0 (wd 31 31 31 0 (7 * 2 ^ 21 + 2 ^ 19)) (ctx []) ∧ Fmt.lt (wd 31 31 31 0 (7 * 2 ^ 21 + 2 ^ 19)) ≤ 1 ∧
    Fmt.vmod (wd 31 31 31 0 (7 * 2 ^ 21 + 2 ^ 19)) = 0 ∧ Fmt.c (wd 31 31 31 0 (7 * 2 ^ 21 + 2 ^ 19)) = 0 ∧
    s.Runs 0 (wd 0 0 0 0 0) (ctx []) ∧ Fmt.lt (wd 0 0 0 0 0) ≤ 1 ∧ Fmt.vmod (wd 0 0 0 0 0) = 0 ∧ Fmt.c (wd 0 0 0 0 0) = 0 ∧ Fmt.b (wd 0 0 0 0 0) = 0 :=
  ⟨runs_dev _ _, by decide, rfl, rfl, runs_dev _ _, by decide, rfl, rfl, rfl⟩

theorem witness_LaneSelectionAndCompares :
    let s := dev (ctx []) { }
    s.Runs 0 (wd 1 2 3 0 (2 ^ 19)) (ctx []) ∧ Fmt.vmod (wd 1 2 3 0 (2 ^ 19)) = 0 ∧ Fmt.c (wd 1 2 3 0 (2 ^ 19)) = 0 ∧ Fmt.lt (wd 1 2 3 0 (2 ^ 19)) ≤ 1 ∧
    s.Runs 0 (wd 1 2 3 0 (2 ^ 20)) (ctx []) ∧ Fmt.lt (wd 1 2 3 0 (2 ^ 20)) = 2 ∧ Fmt.vmod (wd 1 2 3 0 (2 ^ 20)) = 0 ∧ Fmt.c (wd 1 2 3 0 (2 ^ 20)) = 0 ∧
    s.Runs 0 (wd 7 2 3 0 (2 ^ 19 + 5)) (ctx []) ∧ Fmt.d (wd 7 2 3 0 (2 ^ 19 + 5)) < 8 ∧ Fmt.c (wd 7 2 3 0 (2 ^ 19 + 5)) = 0 ∧
    fld (wd 7 2 3 0 (2 ^ 19 + 5)) 3 16 = 0 ∧ fld (wd 7 2 3 0 (2 ^ 19 + 5)) 0 3 ≤ 5 ∧ Fmt.lt (wd 7 2 3 0 (2 ^ 19 + 5)) ≤ 1 ∧
    s.Runs 0 (wd 0 2 3 0 (2 ^ 20)) (ctx []) ∧ Fmt.d (wd 0 2 3 0 (2 ^ 20)) < 8 ∧ fld (wd 0 2 3 0 (2 ^ 20)) 3 16 = 0 ∧
    fld (wd 0 2 3 0 (2 ^ 20)) 0 3 ≤ 5 ∧ Fmt.lt (wd 0 2 3 0 (2 ^ 20)) = 2 :=
  ⟨runs_dev _ _, rfl, rfl, by decide, runs_dev _ _, rfl, rfl, rfl, runs_dev _ _, by decide, rfl, rfl, by decide, by decide, runs_dev _ _, by decide, rfl,
   by decide, rfl⟩

theorem witness_FloatLaneResults :
    let s := dev (ctx []) { }
    s.Runs 0 (wd 1 2 3 4 (2 ^ 20)) (ctx []) ∧ Fmt.lt (wd 1 2 3 4 (2 ^ 20)) = 2 ∧ Fmt.vmod (wd 1 2 3 4 (2 ^ 20)) = 0 ∧
    s.Runs 0 (wd 1 2 0 0 (2 ^ 20)) (ctx []) ∧ Fmt.lt (wd 1 2 0 0 (2 ^ 20)) = 2 ∧ Fmt.vmod (wd 1 2 0 0 (2 ^ 20)) = 0 ∧ Fmt.c (wd 1 2 0 0 (2 ^ 20)) = 0 ∧
    Fmt.b (wd 1 2 0 0 (2 ^ 20)) = 0 :=
  ⟨runs_dev _ _, rfl, rfl, runs_dev _ _, rfl, rfl, rfl, rfl⟩

/-- FP32 to INT8, a narrower target, and INT8 to FP32. -/
theorem witness_ConvertResults :
    let s := dev (ctx []) { }
    s.Runs 0 (wd 1 2 0 0 0) (ctx []) ∧ goodV 1 [0] (wd 1 2 0 0 0) = true ∧
    (∃ m : Byte, cvtPair (m.toNat / 16) (m.toNat % 16) = true ∧ fmtBits (m.toNat % 16) < fmtBits (m.toNat / 16)) ∧
    (∃ m : Byte, cvtPair (m.toNat / 16) (m.toNat % 16) = true ∧ fmtBits (m.toNat / 16) < fmtBits (m.toNat % 16)) :=
  ⟨runs_dev _ _, rfl, by decide, by decide⟩

/-- An open coil with one 256-byte element in the A-store. -/
def vecCoil : Coil := { store := 1, base := 0x1000, size := 0x400, head := 0x300, tail := 0, tailLap := true, isOpen := true, elem := 256 }
def vecCtx : Ctx := { ctx [(1, 0x1FF00)] with coils := [(31, vecCoil)] }

/-- The last 256 bytes of the footprint, the last element before the wrap, and lane 63. -/
theorem witness_VectorLoadsAndStores_loads :
    let s := dev vecCtx { }
    s.Runs 0 (wd 2 1 0 0 0x100000000) vecCtx ∧ Fmt.store (wd 2 1 0 0 0x100000000) ≤ 2 ∧ fld (wd 2 1 0 0 0x100000000) 26 6 = 0 ∧
    bit (wd 2 1 0 0 0x100000000) 22 = false ∧ s.usable 0 vecCtx [Range.rd 1 0x1FF00 256] ∧
    s.Runs 0 (wd 2 31 0 0 0x400000) vecCtx ∧ Fmt.store (wd 2 31 0 0 0x400000) ≤ 2 ∧ fld (wd 2 31 0 0 0x400000) 26 6 = 0 ∧
    bit (wd 2 31 0 0 0x400000) 22 = true ∧ fld (wd 2 31 0 0 0x400000) 0 22 = 0 ∧ (vecCtx.coil 31).isOpen = true ∧ (vecCtx.coil 31).elem = 256 ∧
    (vecCtx.coil 31).empty = false ∧ s.usable 0 vecCtx [Range.rd 1 0x1300 256] ∧
    s.Runs 0 (wd 1 2 0 0 (2 ^ 20 + 63)) vecCtx ∧ Fmt.lt (wd 1 2 0 0 (2 ^ 20 + 63)) ≤ 2 ∧ Fmt.k (wd 1 2 0 0 (2 ^ 20 + 63)) = 0 ∧
    Fmt.b (wd 1 2 0 0 (2 ^ 20 + 63)) = 0 ∧ Fmt.c (wd 1 2 0 0 (2 ^ 20 + 63)) = 0 ∧ fld (wd 1 2 0 0 (2 ^ 20 + 63)) 6 13 = 0 :=
  ⟨runs_of _ _ _ rfl rfl rfl (by decide +kernel), by decide, rfl, rfl, by unfold State.usable; decide, runs_of _ _ _ rfl rfl rfl (by decide +kernel), by decide, rfl, rfl,
   rfl, rfl, rfl, rfl, by unfold State.usable; decide, runs_of _ _ _ rfl rfl rfl (by decide +kernel), by decide, rfl, rfl, rfl, rfl⟩

/-- A coil with room, and one that is full and drops the newest. -/
theorem witness_VectorLoadsAndStores_stores :
    let s := dev vecCtx { }
    let full : Coil := { vecCoil with tail := 0x300, policy := 2 }
    s.Runs 0 (wd 2 1 0 0 0x100000000) vecCtx ∧ s.usable 0 vecCtx [Range.wr 1 0x1FF00 256] ∧
    s.Runs 0 (wd 2 31 0 0 0x400000) vecCtx ∧ (vecCtx.coil 31).receive = false ∧ (∃ k, vecCoil.room = .ready k ∧ s.need 0 [Range.wr k.store (k.base + k.tail) 256] = .ok) ∧
    (∃ k, full.room = .dropped k) ∧ full.isOpen = true ∧ full.elem = 256 :=
  ⟨runs_of _ _ _ rfl rfl rfl (by decide +kernel), by unfold State.usable; decide, runs_of _ _ _ rfl rfl rfl (by decide +kernel), rfl, ⟨vecCoil, rfl, by decide⟩,
   ⟨_, rfl⟩, rfl, rfl⟩

theorem witness_ReductionResults :
    let s := dev (ctx []) { }
    s.Runs 0 (wd 1 2 0 0 (2 ^ 20)) (ctx []) ∧ Fmt.vmod (wd 1 2 0 0 (2 ^ 20)) = 0 ∧ Fmt.b (wd 1 2 0 0 (2 ^ 20)) = 0 ∧ Fmt.c (wd 1 2 0 0 (2 ^ 20)) = 0 ∧
    Fmt.lt (wd 1 2 0 0 (2 ^ 20)) = 2 ∧ s.Runs 0 (wd 1 2 0 0 (7 * 2 ^ 21)) (ctx []) ∧ Fmt.vmod (wd 1 2 0 0 (7 * 2 ^ 21)) = 0 ∧
    Fmt.b (wd 1 2 0 0 (7 * 2 ^ 21)) = 0 ∧ Fmt.c (wd 1 2 0 0 (7 * 2 ^ 21)) = 0 ∧ Fmt.lt (wd 1 2 0 0 (7 * 2 ^ 21)) = 0 :=
  ⟨runs_dev _ _, rfl, rfl, rfl, rfl, runs_dev _ _, rfl, rfl, rfl, rfl⟩

/-- The hash of no bytes and of 64 bytes, with the block in g29 to g31. -/
theorem witness_RandomAndHash :
    let c := ctx [(29, 0x400000), (30, 64), (31, 0x40)]
    let s := dev c { }
    s.Runs 0 (wd 31 0 0 0 (2 ^ 19)) c ∧ goodV 0 [1] (wd 31 0 0 0 (2 ^ 19)) = true ∧
    s.Runs 0 (wd 0 29 0 0 0) c ∧ goodI false true false (wd 0 29 0 0 0) = true ∧ Fmt.a (wd 0 29 0 0 0) < 30 ∧
    fld (c.reg 29) 24 40 = 0 ∧ refVq (fld (c.reg 29) 0 24) = true ∧ (c.reg 30).toNat % 4 = 0 ∧ (c.reg 30).toNat ≤ storeSize (refSt (fld (c.reg 29) 0 24)) ∧
    fld (c.reg 31) 22 42 = 0 ∧ fld (c.reg 31) 0 22 % 64 = 0 ∧ s.usable 0 c [Range.rd 1 0 64, Range.wr 1 0x40 64] ∧
    s.usable 0 c [Range.rd 1 0 0, Range.wr 1 0x40 64] :=
  ⟨runs_dev _ _, rfl, runs_dev _ _, rfl, by decide, rfl, rfl, rfl, by decide, rfl, rfl, by unfold State.usable; decide, by unfold State.usable; decide⟩

/-- A BQ8 tensor of one channel group of one block of 16 elements, its descriptor at offset 0 of the A-store. -/
def bqBytes : List Byte :=
  w64Bytes 0x00003C0000000000 ++ w64Bytes (BitVec.ofNat 64 (0x402000 * 2 ^ 24 + 0x401000)) ++ w64Bytes (BitVec.ofNat 64 0x404000) ++ leBytes 8 0x403000
def bqCtx (dst count : Nat) : Ctx := ctx [(4, 0x400000), (5, 0x408000), (6, BitVec.ofNat 64 dst), (7, BitVec.ofNat 64 count)]
/-- Its blocks, each with its number and no code but zero. -/
def bqMem : Mem :=
  Mem.store (storeBase 1 + 0x2000) ((List.range 16).flatMap (leBytes 4)) (Mem.store (storeBase 1 + 0x1000) ((List.range 16).flatMap (leBytes 20))
    (Mem.store (storeBase 1) bqBytes []))
def bqDev (c : Ctx) : State := dev c { mem := bqMem }
def bqBlock (dst : Nat) (coil : Option Nat) (count : Nat) : VqBlock := { d := 0x400000, src := 0x408000, dst := dst, coil := coil, count := count, range := 0 }

theorem witness_Quantisation :
    let c := bqCtx 0 1
    let s := bqDev c
    let w0 := s.bytesAt 0 1 0 32
    let q := bqOf w0
    s.Runs 0 (wd 4 0 0 0 0) c ∧ goodE (wd 4 0 0 0 0) = true ∧ vqBlock false c (Fmt.d (wd 4 0 0 0 0)) = some (bqBlock 0 none 1) ∧
    refVq 0x400000 = true ∧ refVq 0x408000 = true ∧ q.good (w64At 0 w0) = true ∧ 1 ≤ q.groups ∧ s.usable 0 c [Range.rd 1 0 32] ∧
    s.usable 0 c [rangeOf false 0x408000 1024, rangeOf true q.code (16 * q.codeBytes), rangeOf true q.scale 64, rangeOf true q.chan 64,
                  rangeOf true q.grog (4 * q.cap), rangeOf true 0x400000 32] :=
  ⟨runs_of _ _ _ rfl rfl rfl (by decide +kernel), rfl, rfl, rfl, rfl, by decide +kernel, by decide +kernel, by unfold State.usable; decide +kernel,
   by unfold State.usable; decide +kernel⟩

/-- The output coil of a dequantisation: elements of 512 bytes in the A-store. -/
def bqCoilCtx : Ctx := { bqCtx (31 * 2 ^ 24 + 2 ^ 30) 1 with coils := [(31, { store := 1, base := 0x10000, size := 0x400, isOpen := true, elem := 512 })] }
def bqAt (c : Ctx) : At := { p := 0, w := 0, c := c.after 0 0, f := wd 4 0 0 0 0, bad := .bad St.dataError (locInstr 0 0) }

theorem witness_Dequantisation :
    let s1 := fun (c : Ctx) => (bqDev c).withCtx 0 (c.after 0 0)
    let w0 := (bqDev (bqCtx 0x409000 1)).bytesAt 0 1 0 32
    let q := bqOf w0
    let x := fun (c : Ctx) => (bqAt c).dequant 1 q 1 (s1 c)
    (let c := bqCtx 0x409000 1
     let s := bqDev c
     s.Runs 0 (wd 4 0 0 0 0) c ∧ goodE (wd 4 0 0 0 0) = true ∧ vqBlock false c 4 = some (bqBlock 0x409000 none 1) ∧ refVq 0x400000 = true ∧
     q.good (w64At 0 w0) = true ∧ 1 ≤ q.groups ∧ s.usable 0 c [Range.rd 1 0 32] ∧ (x c).2.1 = s1 c ∧ (x c).2.2 = none ∧ (x c).1.2.2 = none ∧ c.rest = none ∧
     refVq 0x409000 = true ∧ s.usable 0 c (bqRanges q 1 ++ [rangeOf true 0x409000 512])) ∧
    (let c := bqCoilCtx
     let s := bqDev c
     s.Runs 0 (wd 4 0 0 0 0) c ∧ vqBlock false c 4 = some (bqBlock 0 (some 31) 1) ∧ (x c).2.1 = s1 c ∧ (x c).2.2 = none ∧ (x c).1.2.2 = none ∧
     s.usable 0 c (bqRanges q 1) ∧ (c.coil 31).isOpen = true ∧ (c.coil 31).receive = false ∧ (c.coil 31).elem = 32 * q.chanLen ∧ c.rest = none ∧
     ((bqAt c).pushGroups 31 512 ((List.range ((x c).1.1.length / (q.blocks * 16))).map (fun g => groupBytes q g (x c).1.1))
       (s.withCtx 0 ((c.after 0 0).raise 1 (x c).1.2.1))).2 = ([], .ok)) ∧
    (let ds := [zeros 512]
     let c := { bqCoilCtx with rest := some (ds, 0) }
     let full : Coil := { store := 1, base := 0x10000, size := 0x400, tailLap := true, isOpen := true, elem := 512 }
     let d := { c with coils := [(31, full)] }
     (bqDev c).Runs 0 (wd 4 0 0 0 0) c ∧ vqBlock false c 4 = some (bqBlock 0 (some 31) 1) ∧ c.rest = some (ds, 0) ∧
     ((bqAt c).pushGroups 31 512 ds (s1 c)).2 = ([], .ok) ∧
     (bqDev d).Runs 0 (wd 4 0 0 0 0) d ∧ d.rest = some (ds, 0) ∧ ((bqAt d).pushGroups 31 512 ds (s1 d)).2 = (ds, .wait)) := by
  refine ⟨⟨runs_of _ _ _ rfl rfl rfl (by decide +kernel), rfl, rfl, rfl, ?_, ?_, ?_, congrArg Prod.fst (At.dequant_clean _ _ _ _ (State.withCtx_upset ..)), ?_, ?_, rfl, rfl, ?_⟩,
    ⟨runs_of _ _ _ rfl rfl rfl (by decide +kernel), rfl, congrArg Prod.fst (At.dequant_clean _ _ _ _ (State.withCtx_upset ..)), ?_, ?_, ?_, rfl, rfl, ?_, rfl, ?_⟩,
    ⟨runs_of _ _ _ rfl rfl rfl (by decide +kernel), rfl, rfl, ?_, runs_of _ _ _ rfl rfl rfl (by decide +kernel), rfl, ?_⟩⟩
  all_goals first | decide +kernel | (unfold State.usable; decide +kernel)

/-- Two channels with the greatest output range, and none. -/
theorem witness_Requantisation :
    (let c := ctx [(4, 0x400000), (5, 0x401000), (6, 0x402000), (7, BitVec.ofNat 64 (3 * 2 ^ 16 + 2))]
     let s := dev c { }
     s.Runs 0 (wd 4 0 0 0 0) c ∧ goodE (wd 4 0 0 0 0) = true ∧
     vqBlock true c 4 = some { d := 0x400000, src := 0x401000, dst := 0x402000, coil := none, count := 2, range := 3 } ∧
     refVq 0x400000 = true ∧ refVq 0x401000 = true ∧ refVq 0x402000 = true ∧
     s.usable 0 c [rangeOf false 0x400000 32, rangeOf false 0x401000 8, rangeOf true 0x402000 (roundUp 4 ((2 * (reqRange 3).2.2 + 7) / 8))]) ∧
    (let c := ctx [(4, 0x400000), (5, 0x401000), (6, 0x402000)]
     let s := dev c { }
     s.Runs 0 (wd 4 0 0 0 0) c ∧ vqBlock true c 4 = some { d := 0x400000, src := 0x401000, dst := 0x402000, coil := none, count := 0, range := 0 } ∧
     s.usable 0 c [rangeOf false 0x400000 0, rangeOf false 0x401000 0, rangeOf true 0x402000 (roundUp 4 ((0 * (reqRange 0).2.2 + 7) / 8))]) := by
  and_intros
  any_goals first | exact runs_of _ _ _ rfl rfl rfl (by decide +kernel) | decide +kernel

/-- An open output coil whose elements hold two channels of the greatest output range, with room for one. -/
theorem witness_Requantisation_coil :
    let out := roundUp 4 ((2 * (reqRange 3).2.2 + 7) / 8)
    let c := { ctx [(4, 0x400000), (5, 0x401000), (6, BitVec.ofNat 64 (31 * 2 ^ 24 + 2 ^ 30)), (7, BitVec.ofNat 64 (3 * 2 ^ 16 + 2))] with
               coils := [(31, { store := 1, base := 0x10000, size := 64 * out, isOpen := true, elem := out })] }
    let s := dev c { }
    let k := c.after s.now s.up
    let h : At := { p := 0, w := 0, c := k, f := wd 4 0 0 0 0, bad := .bad St.dataError (locInstr 0 0) }
    s.Runs 0 (wd 4 0 0 0 0) c ∧ vqBlock true c 4 = some { d := 0x400000, src := 0x401000, dst := fld (c.reg 6) 0 24, coil := some 31, count := 2, range := 3 } ∧
    (c.coil 31).isOpen = true ∧ (c.coil 31).receive = false ∧ (c.coil 31).elem = out ∧
    s.usable 0 c [rangeOf false 0x400000 32, rangeOf false 0x401000 8] ∧
    (h.push 31 out (fun st off u => ((u.ownWrite 0 0 st off (zeros out)), .ok)) (s.withCtx 0 k)).2 = .ok := by
  and_intros
  any_goals first | exact runs_of _ _ _ rfl rfl rfl (by decide +kernel) | decide +kernel

/-- The greatest base that lane 63 may have, FP16 and INT8; and BQ8 into a tensor of sixteen channels, from block 0. -/
theorem witness_TemperingStores :
    let f := wd 6 1 7 0 (2 ^ 20)
    (let c := ctx [(6, BitVec.ofNat 64 (2 ^ 47 - 64)), (7, 0x400000)]
     let s := dev c { }
     s.Runs 0 f c ∧ Fmt.c f = 0 ∧ Fmt.vmod f = 0 ∧ Fmt.lt f = 2 ∧ (∀ j, j < 64 → bit (c.mask (Fmt.k f)) j = true → (c.reg 6).toNat % 2 ^ 47 + j < 2 ^ 47) ∧
     refVq (fld (c.reg 7) 0 24) = true ∧ s.usable 0 c [Range.wr 1 0 128] ∧ s.usable 0 c [Range.wr 1 0 64]) ∧
    (let c := ctx [(7, 0x400000)]
     let s := dev c { mem := Mem.store (storeBase 1) bqBytes [] }
     let w0 := s.bytesAt 0 1 0 32
     let q := bqOf w0
     s.Runs 0 f c ∧ refVq (fld (c.reg 7) 0 24) = true ∧ q.good (w64At 0 w0) = true ∧ q.four = decide ((2 : Byte).toNat = 3) ∧
     0 + 64 / q.size ≤ q.groups * q.blocks * 16 ∧ s.usable 0 c [Range.rd 1 0 32] ∧
     s.usable 0 c ([rangeOf true (q.code + 0 * q.codeBytes) (4 * q.codeBytes), rangeOf true (q.scale + 4 * 0) 16, rangeOf true q.grog (4 * q.cap),
       rangeOf true 0x400000 32] ++ [0, 1, 2, 3].map (fun y => rangeOf true (q.chan + 4 * y) 4))) := by
  and_intros
  any_goals first | exact runs_of _ _ _ rfl rfl rfl (by decide +kernel) | decide +kernel

/-- Output coils of an FP16 and of an INT8 store. -/
theorem witness_TemperingStores_coil :
    ∀ n ∈ [128, 64],
    let f := wd 6 1 7 0 (2 ^ 20)
    let c := { ctx [(7, BitVec.ofNat 64 (31 * 2 ^ 24 + 2 ^ 30))] with
               coils := [(31, { store := 1, base := 0x10000, size := 0x400, isOpen := true, elem := BitVec.toNat (BitVec.ofNat 13 n) })] }
    let s := dev c { }
    let k := c.after s.now s.up
    let h : At := { p := 0, w := 0, c := k, f := f, bad := .bad St.dataError (locInstr 0 0) }
    s.Runs 0 f c ∧ bit (c.reg 7) 30 = true ∧ fld (c.reg 7) 24 5 = 31 ∧ (c.coil 31).isOpen = true ∧ (c.coil 31).receive = false ∧ (c.coil 31).elem = n ∧
    (h.push 31 n (fun st off u => ((u.ownWrite 0 0 st off (zeros n)), .ok)) (s.withCtx 0 k)).2 = .ok := by
  intro n hn
  simp only [List.mem_cons, List.not_mem_nil, or_false] at hn
  rcases hn with rfl | rfl
  all_goals and_intros
  any_goals first | exact runs_of _ _ _ rfl rfl rfl (by decide +kernel) | decide +kernel

/-- Where the free layout spells a block of one FP16 weight tile, every hypothesis holds (log entry 8: no word of the spec says which block does). -/
theorem witness_MatrixResults (hc : Config.matBlock 0 0 0 0 = [1, 2, 0, 0, 0, 0, 512, 0x1000, 32, 0x2000, 64, 1, 1, 16, 0]) :
    let s := dev (ctx []) { }
    let b := matBlockOf (Config.matBlock 0 0 0 0)
    s.Runs 0 (wd 4 0 0 0 0) (ctx []) ∧ goodE (wd 4 0 0 0 0) = true ∧ b.ok = true ∧ b.bq = false ∧ b.coil = none ∧ (s.tile 0).upsets 2 b.p b.pn = [] ∧
    s.usable 0 (ctx []) [Range.rd 0 b.w b.wn, Range.rd 1 b.a b.an, Range.wr 2 b.p b.pn] := by
  rw [hc]
  exact ⟨runs_dev _ _, rfl, rfl, rfl, rfl, rfl, by unfold State.usable; decide +kernel⟩

/-- The same block with an output coil in the P-store, and one whose weights are a BQ tensor in the W-store. -/
theorem witness_MatrixResults_coil (hc : Config.matBlock 0 0 0 0 = [1, 2, 0, 0, 0, 0, 512, 0x1000, 32, 0x2000, 64, 1, 1, 16, 1]) :
    let c := { ctx [] with coils := [(0, { store := 2, base := 0, size := 128, isOpen := true, elem := 64 })] }
    let s := dev c { }
    let b := matBlockOf (Config.matBlock 0 0 0 0)
    s.Runs 0 (wd 4 0 0 0 0) c ∧ b.ok = true ∧ b.bq = false ∧ b.coil = some 0 ∧ (c.coil 0).isOpen = true ∧ (c.coil 0).receive = false ∧
    (c.coil 0).elem = b.pn ∧ (c.coil 0).store = 2 ∧ s.usable 0 c [Range.rd 0 b.w b.wn, Range.rd 1 b.a b.an, Range.rd 2 b.p b.pn] := by
  rw [hc]
  exact ⟨runs_of _ _ _ rfl rfl rfl (by decide +kernel), rfl, rfl, rfl, rfl, rfl, rfl, rfl, by unfold State.usable; decide +kernel⟩

def bqWBytes : List Byte :=
  w64Bytes 0x00003C0000000000 ++ w64Bytes (BitVec.ofNat 64 (0x2000 * 2 ^ 24 + 0x1000)) ++ w64Bytes (BitVec.ofNat 64 0x4000) ++ leBytes 8 0x3000
def bqWMem : Mem :=
  Mem.store (storeBase 0 + 0x2000) ((List.range 16).flatMap (leBytes 4))
    (Mem.store (storeBase 0 + 0x1000) ((List.range 16).flatMap (leBytes 20)) (Mem.store (storeBase 0) bqWBytes []))
def bqWDev : State := dev (ctx []) { mem := bqWMem }

theorem witness_MatrixResults_quantised (hc : Config.matBlock 0 0 0 0 = [1, 2, 0, 0, 1, 0, 32, 0x1000, 32, 0x2000, 64, 1, 1, 16, 0]) :
    let b := matBlockOf (Config.matBlock 0 0 0 0)
    let wb := bqWDev.bytesAt 0 0 b.w b.wn
    let q := bqOf wb
    let h : At := { p := 0, w := 0, c := (ctx []).after 0 0, f := wd 4 0 0 0 0, bad := .bad St.dataError (locInstr 0 0) }
    let s1 := bqWDev.withCtx 0 ((ctx []).after 0 0)
    let x := h.dequant 2 q b.outs s1
    bqWDev.Runs 0 (wd 4 0 0 0 0) (ctx []) ∧ b.ok = true ∧ b.bq = true ∧ b.path = 2 ∧ b.coil = none ∧ (bqWDev.tile 0).upsets 2 b.p b.pn = [] ∧
    bqWDev.usable 0 (ctx []) [Range.rd 0 b.w b.wn, Range.rd 1 b.a b.an, Range.wr 2 b.p b.pn] ∧ q.good (w64At 0 wb) = true ∧ refSt q.code = 0 ∧
    refSt q.scale = 0 ∧ refSt q.chan = 0 ∧ refSt q.grog = 0 ∧ b.outs ≤ q.groups ∧ b.ins * 16 ≤ q.chanLen ∧ bqWDev.usable 0 (ctx []) (bqRanges q b.outs) ∧
    x.2.1 = s1 ∧ x.2.2 = none ∧ x.1.2.2 = none := by
  rw [hc]
  refine ⟨runs_of _ _ _ rfl rfl rfl (by decide +kernel), rfl, rfl, rfl, rfl, rfl, ?_, ?_, ?_, ?_, ?_, ?_, ?_, ?_, ?_,
    congrArg Prod.fst (At.dequant_clean _ _ _ _ (State.withCtx_upset ..)), ?_, ?_⟩
  all_goals first | decide +kernel | (unfold State.usable; decide +kernel)

/-- Factors of order 1: the source and the factor area in the A-store. -/
def facCtx (rows r mode : Nat) : Ctx :=
  ctx [(4, BitVec.ofNat 64 (2 ^ 48 + rows * 2 ^ 32 + r * 2 ^ 24 + mode * 2 ^ 16)), (5, BitVec.ofNat 64 (0x400000 * 2 ^ 24 + 0x401000)),
       (6, BitVec.ofNat 64 (0x402000 * 2 ^ 24 + 0x403000))]
/-- A source word of 1.0 and a factor of order 1 and of a kind, with 1.0 in it. -/
def facDev (kind : Nat) (c : Ctx) : State :=
  dev c { mem := Mem.store (storeBase 1 + 0x402000) (w32Bytes 0x3F800000) (Mem.store (storeBase 1 + 0x1000)
    (leBytes 4 1 ++ leBytes 2 1 ++ leBytes 1 kind ++ zeros 57 ++ w32Bytes 0x3F800000 ++ w32Bytes 0x3F800000 ++ w32Bytes 0) (Mem.store (storeBase 1) (w32Bytes 0x3F800000) [])) }

theorem witness_FactorResults :
    let may := fun (s : State) (c : Ctx) (ins : List (Nat × Nat)) (out : Nat) => (∀ x ∈ ins ++ [(0x401000, out)], c.refGood x.1 x.2 = true) ∧
      s.usable 0 c (ins.map (fun x => rangeOf false x.1 x.2) ++ [rangeOf true 0x401000 out])
    (let c := facCtx 0 0 0
     let s := facDev 0 c
     let b := facBlock c 4
     let m := triangle b.n b.upper (wordsOf (s.bytesAt 0 1 0 4))
     s.Runs 0 (wd 4 0 0 0 0) c ∧ goodE (wd 4 0 0 0 0) = true ∧ facBlockGood c 4 false false 1 = true ∧ may s c [(0x400000, 4)] (facBytes 1 0) ∧
     (fchol b.pivot m { }).2.bad = false ∧ (fldl b.pivot m { }).2.bad = false) ∧
    (let c := facCtx 1 1 0
     let s := facDev 2 c
     let b := facBlock c 4
     let rows := streamRows b (wordsOf (s.bytesAt 0 1 0 4)) (wordsOf (s.bytesAt 0 1 0x2000 4))
     let f0 := (factorOf b.n b.r (s.bytesAt 0 1 0x1000 (facBytes 1 1))).getD (clearedFactor 1 1)
     s.Runs 0 (wd 4 0 0 0 0) c ∧ facBlockGood c 4 true false 1 = true ∧ b.n ≤ b.rows ∧ may s c [(0x400000, 4), (0x402000, b.rhsBytes)] (facBytes 1 1) ∧
     (fgivens b.pivot (clearedFactor b.n b.r) rows { }).2.bad = false ∧
     may s c [(0x400000, 4), (0x402000, b.rhsBytes), (0x401000, facBytes 1 1)] (facBytes 1 1) ∧
     factorOf b.n b.r (s.bytesAt 0 1 0x1000 (facBytes 1 1)) = some f0 ∧ f0.kind = 2 ∧ (fgivens b.pivot f0 rows f0.acc).2.bad = false) ∧
    (let c := facCtx 0 0 1
     let s := facDev 1 c
     let b := facBlock c 4
     let f0 := (factorOf b.n 0 (s.bytesAt 0 1 0x1000 (facBytes 1 0))).getD (clearedFactor 1 0)
     s.Runs 0 (wd 4 0 0 0 0) c ∧ facBlockGood c 4 false false 2 = true ∧ may s c [(0x401000, facBytes 1 0), (0x400000, 4)] (facBytes 1 0) ∧
     factorOf b.n 0 (s.bytesAt 0 1 0x1000 (facBytes 1 0)) = some f0 ∧ f0.kind = 1 ∧
     (fupdate b.pivot false f0 (wordsOf (s.bytesAt 0 1 0 4)) f0.acc).2.bad = false) := by
  and_intros
  any_goals first | exact runs_of _ _ _ rfl rfl rfl (by decide +kernel) | decide +kernel

/-- Every mode of FTRSV with a factor of its kind; the solve of mode 0 meets no singular pivot. -/
theorem witness_FactorResults_solve :
    let c := facCtx 0 1 0
    let s := facDev 1 c
    let b := facBlock c 4
    let f0 := (factorOf b.n 0 (s.bytesAt 0 1 0x1000 (facBytes 1 0))).getD (clearedFactor 1 0)
    s.Runs 0 (wd 4 0 0 0 0) c ∧ goodE (wd 4 0 0 0 0) = true ∧ facBlockGood c 4 false true 6 = true ∧
    (∀ x ∈ [(b.fac, facBytes b.n 0), (b.rhs, 4 * b.n * b.r), (b.out, 4 * b.n * b.r)], c.refGood x.1 x.2 = true) ∧
    s.usable 0 c [rangeOf false b.fac (facBytes b.n 0), rangeOf false b.rhs (4 * b.n * b.r), rangeOf true b.out (4 * b.n * b.r)] ∧
    factorOf b.n 0 (s.bytesAt 0 1 0x1000 (facBytes 1 0)) = some f0 ∧ modeKind b.mode f0.kind = true ∧
    (mapFac (fun j => ftrsv b.mode f0 (column b.r j (wordsOf (s.bytesAt 0 1 0x2000 4)))) (List.range b.r) { }).2.bad = false ∧
    (∀ m, m < 6 → modeKind m 0 = true ∨ modeKind m 1 = true) := by
  and_intros
  any_goals first | exact runs_of _ _ _ rfl rfl rfl (by decide +kernel) | decide +kernel

def cmCtx : Ctx := ctx [(4, BitVec.ofNat 64 (2 ^ 48 + 2 ^ 24)), (5, BitVec.ofNat 64 (0x400000 * 2 ^ 24 + 0x401000)), (6, 0x402000)]
/-- The commit unit of one problem of one variable, held by the context in slot 0. -/
def unit0 : CommitUnit := { n := 1, m := 0, k := 1, recordRef := 0x402000, map := [[{ lo := 0, hi := 0, index := 0, frac := 0, mailbox := none }]],
                            held := [{ xs := [0] }], owner := 0 }

/-- CMINIT with one problem and an unnamed mailbox; CMOFFER and CMSTAT of a unit that the context holds. -/
theorem witness_CommitUnitResults :
    (let c := cmCtx
     let s := dev c { }
     let u := cmBlock (c.reg 4) (c.reg 5) (c.reg 6) (c.reg 7)
     let raw := (List.range u.b).map (fun i => (List.range u.k).map (fun j => slice (16 * (i * u.k + j)) 16 (s.bytesAt 0 1 0 (u.b * u.k * 16))))
     s.Runs 0 (wd 4 0 0 0 0) c ∧ goodE (wd 4 0 0 0 0) = true ∧ (s.tile 0).cu = none ∧
     cmBlockGood (c.reg 4) (c.reg 5) (c.reg 6) (c.reg 7) c = true ∧
     s.usable 0 c [rangeOf false u.map (u.b * u.k * 16), rangeOf true u.iter (u.b * iterStride u.n u.m), rangeOf true u.record (u.b * recordStride u.k),
                   rangeOf false u.lu (u.b * 2 * vecBytes u.m), rangeOf false u.blob (if u.blobEn then u.b * blobStride u.n u.m else 0)] ∧
     (∀ m ∈ raw, ∀ e ∈ m, mapEntryGood u.n e = true) ∧ (raw.flatMap (fun m => (m.map mapEntryOf).filterMap (·.mailbox))) = []) ∧
    (let c := ctx [(4, BitVec.ofNat 64 (0x400000 * 2 ^ 24))]
     let s := dev c { cu := some unit0 }
     s.Runs 0 (wd 4 0 0 0 0) c ∧ (s.tile 0).cu = some unit0 ∧ unit0.owner = (s.tile 0).execSlot ∧
     fld (c.reg 4) 48 16 = 0 ∧ fld (c.reg 4) 20 4 = 0 ∧ c.reg 7 = 0 ∧ fld (c.reg 4) 16 4 < unit0.held.length ∧
     c.refGood (fld (c.reg 4) 24 24) (4 * unit0.n) = true ∧ 0 < unit0.n ∧ s.wit.mode ≠ .replay ∧ s.usable 0 c [rangeOf false (fld (c.reg 4) 24 24) (4 * unit0.n)] ∧
     unit0.frozen = false ∧ (dev c { cu := some { unit0 with frozen := true } }).Runs 0 (wd 4 0 0 0 0) c) ∧
    (let c := ctx [(4, 0x402000)]
     let s := dev c { cu := some unit0 }
     let n := (unit0.records c.jobAcc (short s.now)).length
     s.Runs 0 (wd 4 0 0 0 0) c ∧ (s.tile 0).cu = some unit0 ∧ fld (c.reg 4) 24 40 = 0 ∧ c.reg 5 = 0 ∧ c.reg 6 = 0 ∧ c.reg 7 = 0 ∧
     c.refGood 0x402000 n = true ∧ c.mayWrite 1 0x2000 n = true ∧ s.usable 0 c [rangeOf true 0x402000 n]) := by
  and_intros
  any_goals first | exact runs_of _ _ _ rfl rfl rfl (by decide +kernel) | decide +kernel

/-- Without a commit unit, with one that the job holds, and for a built-in image. -/
theorem witness_JobEnds :
    let f := wd 0 0 0 0 0
    let b : Ctx := { ctx [] with job := { opcode := 0x2001 } }
    (dev (ctx []) { }).Runs 0 f (ctx []) ∧ goodI false false false f = true ∧ (ctx []).trap = false ∧ ((dev (ctx []) { }).tile 0).cu = none ∧
    ((dev (ctx []) { }).tile 0).dma.all (fun e => e.2.descs.isEmpty) = true ∧ ((dev (ctx []) { }).tile 0).sb.all (fun e => !e.2.valid) = true ∧
    (dev (ctx []) { cu := some unit0 }).Runs 0 f (ctx []) ∧ ((dev (ctx []) { cu := some unit0 }).tile 0).cu = some unit0 ∧
    unit0.owner = ((dev (ctx []) { cu := some unit0 }).tile 0).execSlot ∧
    ((dev b { }).tile 0).cur = some b ∧ b.live = true ∧ b.job.builtin = true ∧ ((dev b { }).dom 0).rung = 0 :=
  ⟨runs_dev _ _, rfl, rfl, rfl, rfl, rfl, runs_of _ _ _ rfl rfl rfl (by decide +kernel), rfl, rfl, rfl, rfl, rfl, rfl⟩

/-! ## Witnesses: the commands of the host -/

def hd (q len : Nat) (flags : BitVec 16) (w0 w1 w2 w3 : W64) : Header :=
  { noHdr with queue := BitVec.ofNat 16 q, payloadLen := BitVec.ofNat 16 len, flags := flags, tag := 7, w0 := w0, w1 := w1, w2 := w2, w3 := w3 }

/-- Every condition of `State.Starts`, to be evaluated. -/
def starts (s : State) (p : Packet) : Bool :=
  !s.mute && decide (s.twin.mirrors = []) && (s.arrived p).headerGood p && decide (((s.arrived p).queue p.q).tagHeld p.hdr.tag = none) &&
    decide ((s.arrived p).refusedBy ((s.received p).arrival p) = 0) && !(s.arrived p).mirrorsFirst p && (s.accepting p).2.2.isNone &&
    ((s.accepting p).2.1.deferred (s.outOf p)).isNone

theorem starts_of {s : State} {p : Packet} (h : starts s p = true) : s.Starts p := by
  simp only [starts, Bool.and_eq_true, decide_eq_true_eq, Bool.not_eq_true', Option.isNone_iff_eq_none] at h
  obtain ⟨⟨⟨⟨⟨⟨⟨h1, h2⟩, h3⟩, h4⟩, h5⟩, h6⟩, h7⟩, h8⟩ := h
  exact { running := h1, alone := h2, header := h3, fresh := h4, allowed := h5, own := h6, named := h7, ready := h8 }

/-- Nothing in HBM and in the hearth cache carries an error, to be evaluated. -/
def clean (s : State) : Bool := decide (s.hbm.upset = []) && s.hbm.cache.all (fun x => decide (x.err = 0)) && s.hbm.pcs.all (fun e => !e.2.failed)

theorem clean_of {s : State} (h : clean s = true) : s.hbmClean := by
  simpa [clean, State.hbmClean, and_assoc] using h

/-- And of `State.Begins`: where its entry lies is not given (log entry 158), so that it reads for want of errors. -/
def begins (s : State) (p : Packet) : Bool := starts s p && clean (s.accepting p).2.1

theorem begins_of {s : State} {p : Packet} (h : begins s p = true) : s.Begins p := by
  simp only [begins, Bool.and_eq_true] at h
  exact { starts_of h.1 with readable := (State.readEntry_clean _ (clean_of h.2)).1 }

/-- The check of row 3 on arrival. -/
def fits (s : State) (p : Packet) : Bool := (s.arrived p).descriptorGood p && (s.arrived p).parametersGood ((s.arrived p).inlined p)

/-- An image of 320 bytes with one CODE section, for standing jobs and for jobs on demand (05 R178, R179). -/
def imageBytes : List Byte :=
  leBytes 4 0x4D495850 ++ leBytes 2 1 ++ leBytes 2 0x100 ++ leBytes 4 320 ++ leBytes 2 1 ++ leBytes 2 3 ++ zeros 8 ++ leBytes 8 1 ++ leBytes 4 0 ++
    leBytes 4 0 ++ leBytes 2 1 ++ zeros 214 ++ leBytes 2 1 ++ leBytes 2 0 ++ leBytes 1 3 ++ zeros 3 ++ leBytes 4 0 ++ leBytes 4 64 ++ leBytes 4 0 ++
    leBytes 4 64 ++ zeros 8

/-- The device in service with its pseudo-channels mapped and an image at the start of HBM; lane 0 in WORD mode, slot 9 waiting for LAUNCH, push channel
15, pair 47 and link 31 in use, and a standing job that waits for LAUNCH. -/
def svcWith (T : Tile) : State :=
  { dev (ctx []) T with
    hbm := { mem := Mem.store 0x400000000 imageBytes [], pcs := (List.range 32).map (fun n => (n, { mapped := true })) },
    mg := { dev := .service, inReset := false, avsIn := true },
    lanes := [(0, { mode := 4, time := 0x3E8000000 })],
    slots := [(9, { st := .armed, phase := 0x0003E80000000100 })],
    pushes := [(15, { reg := 0x100000000000001 })],
    pairs := [(47, { cfg := 1 })],
    links := [(31, { cfg := 1 })],
    tileMap := [(0, 1), (1, 2)],
    bindings := [(3, { period := 1000, ltile := 1 })] }
def svc : State := svcWith { }

/-- The same device with nothing in use, and the log of a recording at the start of HBM. -/
def idleDev : State :=
  { svc with hbm := { svc.hbm with mem := Mem.store 0x400000000 (witBytes 1 0 1000000 0 (zeros 48)) [] }, slots := [], pushes := [], pairs := [], links := [],
             bindings := [] }

/-- A packet on an enabled queue and one on a queue that is not; a device in reset, one that waits for a mirror, a held tag, and a command that each of
rows 3, 4, 5, 6 and 7 turns away. -/
theorem witness_AcceptedCommands : svc.Takes (packet 1 (hd 0 0 0 0 1 0 0) []) ∧ svc.Takes (packet 4 (hd 0 0 0 0 2 0 0) []) ∧ svc.usb.u3 = false :=
  ⟨(begins_of (by decide +kernel)).toTakes, (begins_of (by decide +kernel)).toTakes, rfl⟩

/-- Where an item of the device region lies: the place is not given (log entry 158). -/
def badPlace (kind a b : Nat) : Nat := hbmDev + 32 * (Config.devPlace kind a b % 0x7000000)

/-- An item whose first burst is uncorrectable is not readable, wherever it lies. -/
theorem pairRead_bad {s : State} {kind a b n : Nat} (h : s.hbm.upset = [(badPlace kind a b, 2)]) (hn : 0 < n) (hc : s.hbm.cache = [])
    (hp : ∀ e ∈ s.hbm.pcs, e.2.failed = false) (ht : s.twin.pair ≠ .synced) : (s.pairRead kind a b n).2 = some (badPlace kind a b) := by
  have h0 : badPlace kind a b % 32 = 0 := by unfold badPlace hbmDev; omega
  have hr : (s.hbmRead (badPlace kind a b) n).2.2 = some (badPlace kind a b) := State.hbmRead_fails h0 hn h (by simp [hc]) hp
  have hd : (s.devRead kind a b n).2 = some (badPlace kind a b) := by
    unfold State.devRead
    rw [show hbmDev + 32 * (Config.devPlace kind a b % 0x7000000) = badPlace kind a b from rfl]
    dsimp only
    rw [hr]
  simp [State.pairRead, ht, hd]

/-- The device whose place for the entry of command 1 of queue 2 is uncorrectable, and a DATA_PUT. -/
def upsetDev : State := { svc with hbm := { svc.hbm with upset := [(badPlace 5 2 1, 2)] } }
def putPacket : Packet := { packet 0x3001 (hd 2 0 0 0x400000000 64 0 0) [] with put := zeros 64 }

theorem witness_AcceptedCommands_unreadable :
    upsetDev.Starts putPacket ∧ putPacket.op ≠ 1 ∧ (∃ x, (upsetDev.inputsRead putPacket).2 = some x) ∧ upsetDev.twin.role ≠ .standby := by
  have hq : (upsetDev.outOf putPacket).pkt.q = 2 := by decide +kernel
  have hn : (upsetDev.outOf putPacket).seq = 1 := by decide +kernel
  have hu : (upsetDev.accepting putPacket).2.1.hbm.upset = [(badPlace 5 2 1, 2)] := by rfl
  refine ⟨starts_of (by decide +kernel), by decide +kernel, ⟨badPlace 5 2 1, ?_⟩, by decide +kernel⟩
  have hb := pairRead_bad (n := 64 + (upsetDev.outOf putPacket).pkt.payload.length) hu (by omega) (by decide +kernel) (by decide +kernel) (by decide +kernel)
  unfold State.inputsRead State.readEntry
  simp only [hq, hn, hb]
  simp [hb]

theorem witness_RefusedCommands :
    State.reset.mg.inReset = true ∧ svc.mg.inReset = false ∧
    ({ svc with twin := { mirrors := [{ pkt := default, arrival := 0 }] } } : State).twin.mirrors ≠ [] ∧ svc.Free ∧
    (svc.arrived (packet 4 (hd 4095 0 0 0 1 0 0) [])).headerGood (packet 4 (hd 4095 0 0 0 1 0 0) []) = false ∧
    (let p := packet 4 (hd 0 0 0 0 1 0 0) []
     let s := { svc with queues := [(0, { enabled := true, depthLog2 := 8, tags := [(7, 1, 5)] })] }
     (s.arrived p).headerGood p = true ∧ ((s.arrived p).queue p.q).tagHeld p.hdr.tag = some (1, 5)) ∧
    (let p := packet 4 (hd 0 0 0 0 3 0 0) []
     (svc.arrived p).headerGood p = true ∧ ((svc.arrived p).queue p.q).tagHeld p.hdr.tag = none ∧ fits svc p = false) ∧
    (let p := packet 4 (hd 0 0 0 0 1 0 0) []
     let s := { svc with twin := { role := .active, pair := .final } }
     (s.arrived p).headerGood p = true ∧ fits s p = true ∧ (s.arrived p).synced ((s.arrived p).inlined p) = false) ∧
    (let p := packet 4 (hd 0 0 0 0 1 0 0) []
     let s := { svc with queues := [(0, { enabled := true, depthLog2 := 8, stopped := true })] }
     (s.arrived p).headerGood p = true ∧ fits s p = true ∧ (s.arrived p).synced ((s.arrived p).inlined p) = true ∧ (s.arrived p).roomFor p = false) ∧
    (let p := packet 0x20 (hd 0 0 0 67 0 0 0) []
     let s := { svc with kiln := { tests := [{ queue := 0, seq := 1, dom := 67, options := 0 }] } }
     (s.arrived p).headerGood p = true ∧ fits s p = true ∧ (s.arrived p).synced ((s.arrived p).inlined p) = true ∧ (s.arrived p).roomFor p = true ∧
     (s.arrived p).testBusy ((s.arrived p).inlined p) s.now = true) ∧
    (let p := packet 0x42 (hd 0 0 0 0 0 0 0) []
     (svc.arrived p).headerGood p = true ∧ fits svc p = true ∧ (svc.arrived p).synced ((svc.arrived p).inlined p) = true ∧ (svc.arrived p).roomFor p = true ∧
     (svc.arrived p).testBusy ((svc.arrived p).inlined p) svc.now = false ∧
     ((svc.received p).stateAllows p && (svc.received p).opFeasible ((svc.received p).inlined p) svc.now) = false) ∧
    (let p := packet 5 (hd 1 0 0 0x400200 2 0 0) []
     let s := { svc with twin := { role := .active, pair := .synced } }
     (s.arrived p).headerGood p = true ∧ (s.arrived p).refusedBy ((s.received p).arrival p) = 0 ∧ (s.arrived p).mirrorsFirst p = true) := by
  refine ⟨rfl, rfl, by decide, ⟨rfl, rfl⟩, ?_⟩
  and_intros
  all_goals decide +kernel

/-- Commands that arrive in TEST outside a replay, and in a RECOVERY for want of HBM. -/
theorem witness_RefusedCommands_mute :
    (({ mg := { dev := .test } } : State).mg.dev = .test ∧ ({ mg := { dev := .test } } : State).wit.mode ≠ .replay) ∧
    ({ mg := { recoveryWhy := 4 } } : State).mg.recoveryWhy = 4 ∧ svc.mute = false := by
  and_intros
  all_goals decide +kernel

/-- ACK up to the newest released number, QUEUE_SET of the last queue, the lowest cap, and each time mode. -/
theorem witness_QueueAndModeCommands :
    svc.Takes (packet 1 (hd 0 0 0 0 1 0 0) []) ∧ svc.Begins (packet 2 (hd 0 0 0 0x80080FFF 0 0 0) []) ∧ svc.Begins (packet 0x10 (hd 0 0 0 1000 1 0 0) []) ∧
    svc.Begins (packet 0x4004 (hd 0 0 0 2 0 0 0) []) ∧ svc.Begins (packet 0x4004 (hd 0 0 0 1 0xAAAAAAAB 0 0) []) ∧
    ({ svc with twin := { role := .standby, pair := .synced } } : State).Begins (packet 0x4004 (hd 0 0 0 0 0 0 0) []) := by
  refine ⟨(begins_of (by decide +kernel)).toTakes, ?_⟩
  and_intros
  all_goals exact begins_of (by decide +kernel)

/-- One register and two registers; a write; a journal and a report with room for them. Every burst of HBM is readable. -/
theorem witness_RegisterCommands :
    let one := packet 4 (hd 0 0 0 0 1 0 0) []
    let two := packet 4 (hd 0 0 0 0 2 0 0) []
    svc.Begins one ∧ ((svc.begun one).peek 0).isSome = true ∧ svc.Begins two ∧ ((svc.begun two).peek 8).isSome = true ∧
    (((svc.begun two).clearRc 0).peek 8).isSome = true ∧ svc.Begins (packet 5 (hd 0 0 0 0x400200 2 0 0) []) ∧
    svc.Begins (packet 0x50 (hd 0 0 0 0 1 0x400000000 0) []) ∧ svc.Begins (packet 0x30 (hd 0 32 0 0x400000000 0 0 0) (zeros 32)) ∧ svc.hbmClean := by
  and_intros
  any_goals exact begins_of (by decide +kernel)
  all_goals decide +kernel

/-- The last tile and the last domain; the self-test of a tile, on a STANDBY device too; DETACH and ROLE_SWAP of a pair. -/
theorem witness_BlockAndPairCommands :
    let pair : State := { svc with twin := { role := .active, pair := .synced, active := true } }
    let fire : State := { svc with doms := [(0, { rung := 0, target := 0 }), (67, { rung := 0, target := 0 }), (102, { rung := 0, target := 0 })] }
    svc.Begins (packet 0x11 (hd 0 0 0 67 1 0 0) []) ∧ svc.Begins (packet 0x11 (hd 0 0 0 115 0 0 0) []) ∧ fire.Begins (packet 0x20 (hd 0 0 0 67 0 0 0) []) ∧
    ({ fire with twin := { role := .standby, pair := .synced } } : State).Begins (packet 0x20 (hd 0 0 0 102 0 0 0) []) ∧
    svc.Begins (packet 0x31 (hd 0 16 2 0 0 0 0) (leBytes 8 0x400000000 ++ leBytes 8 64)) ∧
    pair.Begins (packet 0x41 (hd 0 0 0 0 0 0 0) []) ∧ pair.Begins (packet 0x42 (hd 0 0 0 0 0 0 0) []) := by
  and_intros
  all_goals exact begins_of (by decide +kernel)

/-- The device out of its LONG states, with nothing bound. -/
def attachDev : State :=
  { idleDev with lanes := [], tb := { timescale := true, modeCfg := 2 } }

def attachPacket : Packet := packet 0x40 (hd 0 0 0 0 0 0 0) []

/-- ATTACH where the peer allows it and prefers the other role, which the spec leaves to the peer (log entry 91). -/
theorem witness_BlockAndPairCommands_attach (h : Config.peerAllows 0 = true) (h' : Config.peerPref = true) :
    attachDev.Begins attachPacket := by
  have hf : ∀ s : State, s.freeIx = 0 → s.mg.twinPref = false → (decide (s.twin.role = .solo) && decide (s.twin.pair = .none) &&
      !s.anythingBound && s.twin.attachBy.isNone && s.twin.detachAt.isNone && decide (s.twin.peerRole = .solo)) = true → s.attachFeasible = true := by
    intro s h1 h2 h3
    simp only [Bool.and_eq_true, Bool.not_eq_true'] at h3
    simp only [State.attachFeasible, h1, h2, h3, h, h']
    rfl
  have ha : (attachDev.received attachPacket).opFeasible ((attachDev.received attachPacket).inlined attachPacket) (attachDev.received attachPacket).now = true := by
    have hi : (attachDev.received attachPacket).inlined attachPacket = attachPacket := by decide +kernel
    rw [hi]
    show (attachDev.received attachPacket).attachFeasible = true
    exact hf _ (by decide +kernel) (by decide +kernel) (by decide +kernel)
  have hm : ((attachDev.received attachPacket).arrival attachPacket).admitted = true := by
    have h1 : (attachDev.received attachPacket).stateAllows attachPacket = true := by decide +kernel
    simp [State.arrival, State.admits, h1, ha]
  have hr : (attachDev.arrived attachPacket).refusedBy ((attachDev.received attachPacket).arrival attachPacket) = 0 := by
    have h1 : fits attachDev attachPacket = true := by decide +kernel
    have h2 : ((attachDev.arrived attachPacket).synced ((attachDev.arrived attachPacket).inlined attachPacket) && (attachDev.arrived attachPacket).roomFor attachPacket &&
      !(attachDev.arrived attachPacket).testBusy ((attachDev.arrived attachPacket).inlined attachPacket) ((attachDev.received attachPacket).arrival attachPacket).arrival) = true := by decide +kernel
    simp only [fits, Bool.and_eq_true, Bool.not_eq_true'] at h1 h2
    have hp : ((attachDev.received attachPacket).arrival attachPacket).pkt = attachPacket := rfl
    simp [State.refusedBy, hp, h1, h2, hm]
  have hb : (decide ((attachDev.arrived attachPacket).headerGood attachPacket = true) && decide (((attachDev.arrived attachPacket).queue attachPacket.q).tagHeld attachPacket.hdr.tag = none) &&
    !(attachDev.arrived attachPacket).mirrorsFirst attachPacket && (attachDev.accepting attachPacket).2.2.isNone && ((attachDev.accepting attachPacket).2.1.deferred (attachDev.outOf attachPacket)).isNone &&
    clean (attachDev.accepting attachPacket).2.1) = true := by
    decide +kernel
  simp only [Bool.and_eq_true, decide_eq_true_eq, Bool.not_eq_true', Option.isNone_iff_eq_none] at hb
  obtain ⟨⟨⟨⟨⟨b1, b2⟩, b3⟩, b4⟩, b5⟩, b6⟩ := hb
  exact { running := rfl, alone := rfl, header := b1, fresh := b2, allowed := hr, own := b3, named := b4, ready := b5,
          readable := (State.readEntry_clean _ (clean_of b6)).1 }

def slotPayload : List Byte := ([0, 0, 1000 * 2 ^ 40 + 300, 0, 0, 0] ++ List.replicate 64 0).flatMap w64Bytes
def standingPacket : Packet :=
  packet 0x1004 (hd 1 96 0 0 0 0 0) (leBytes 8 0x400000000 ++ zeros 18 ++ leBytes 2 2 ++ leBytes 4 1000 ++ zeros 64)
/-- A tile on which the image is resident. -/
def holder : Tile :=
  { residents := [{ programDigest := zeros 64, weightDigest := zeros 64, sections := [
      { kind := 1, persistent := false, reload := false, store := 3, fileOff := 0, length := 64, storeOff := 0, size := 64 }] }] }

/-- The first and the last slot, a slot that runs, the last lane, pair and link, a LAUNCH of both kinds, and UNBIND of every kind. -/
theorem witness_BindingCommands :
    svc.Begins (packet 0x1001 (hd 1 560 0 0xF7 0 100000 0) slotPayload) ∧ (svc.slot 127).st ≠ .running ∧
    svc.Begins (packet 0x1001 (hd 1 560 0 0 0 0 0) slotPayload) ∧
    (let s := { svc with slots := [(0, { st := .running, start := some 0 })] }
     s.Begins (packet 0x1001 (hd 1 560 0 0 0 0 0) slotPayload) ∧ (s.slot 0).st = .running) ∧
    svc.Begins (packet 0x1003 (hd 1 0 0 0x201 0 0 0) []) ∧
    (let s := svcWith holder
     let u := s.begun standingPacket
     let v := u.bindingOf (s.command standingPacket)
     s.Begins standingPacket ∧ u.phys v.ltile = some 0 ∧ ((u.reserve 0).loadBound 0 v.image).2 = .ok) ∧
    svc.Begins (packet 0x1005 (hd 1 32 0 63 0 0 0) ([4, 50 * 2 ^ 24, 0, 0].flatMap w64Bytes)) ∧
    idleDev.Begins (packet 0x1006 (hd 1 24 0 47 0 0 0) ([0x1D, 400 * 2 ^ 24, 0].flatMap w64Bytes)) ∧
    idleDev.Begins (packet 0x1007 (hd 1 32 0 31 0 100000 0)
      ([0x000100007F000105, 10000 * 2 ^ 40 + 1000 * 2 ^ 16 + 2000, 9000 * 2 ^ 40 + 100 * 2 ^ 16 + 10, 0].flatMap w64Bytes)) ∧
    svc.Begins (packet 0x1008 (hd 1 4 0 0 100000 0 0) (leBytes 2 3 ++ leBytes 2 0x8009)) ∧
    svc.Begins (packet 0x1002 (hd 1 0 0 0x900 0 0 0) []) ∧ svc.grid 9 = none ∧ svc.Begins (packet 0x1002 (hd 1 0 0 0x301 0 0 0) []) ∧
    svc.Begins (packet 0x1002 (hd 1 0 0 0xF02 0 0 0) []) ∧ svc.Begins (packet 0x1002 (hd 1 0 0 0x2F03 0 0 0) []) ∧
    svc.Begins (packet 0x1002 (hd 1 0 0 0x1F04 0 0 0) []) ∧
    (({ svc with slots := [(9, { st := .running, start := some 0, phase := 0x0003E80000000100 })] } : State).grid 9).isSome = true := by
  have hb : (svcWith holder).Begins standingPacket := begins_of (by decide +kernel)
  have hl : (svcWith holder).accepting standingPacket |>.2.1.OnlyLines ((svcWith holder).begun standingPacket) :=
    State.readEntry_onlyLines _ (clean_of (by decide +kernel))
  have hu : ({ ((svcWith holder).accepting standingPacket).2.1 with
      hbm := { ((svcWith holder).accepting standingPacket).2.1.hbm with cache := ((svcWith holder).begun standingPacket).hbm.cache },
      evc := ((svcWith holder).begun standingPacket).evc } : State) = (svcWith holder).begun standingPacket := by
    obtain ⟨l, e, hu⟩ := hl
    rw [hu]
  have hp : (let u := ({ ((svcWith holder).accepting standingPacket).2.1 with
        hbm := { ((svcWith holder).accepting standingPacket).2.1.hbm with cache := ((svcWith holder).begun standingPacket).hbm.cache },
        evc := ((svcWith holder).begun standingPacket).evc } : State)
      let v := u.bindingOf ((svcWith holder).command standingPacket)
      u.phys v.ltile = some 0 ∧ ((u.reserve 0).loadBound 0 v.image).2 = .ok) := by decide +kernel
  rw [hu] at hp
  and_intros
  any_goals first | exact begins_of (by decide +kernel) | exact hp.1 | exact hp.2 | decide +kernel

/-- The least jobs of each kind, a put of 64 bytes, a get of one, and both uses of HEARTH_PIN. -/
theorem witness_WorkCommands :
    svc.twin.role ≠ .standby ∧ svc.Begins (packet 0x2001 { hd 2 0 0 (2 ^ 48 + 2 ^ 24 + 2 ^ 16) 0x400000000 (0x400000000 + 4096 * 2 ^ 40) 0 with cones := 1 } []) ∧
    svc.Begins (packet 0x2002 { hd 2 0 0 (2 ^ 48 + 2 ^ 32 + 2 ^ 24) 0x400000000 (0x400000000 + 4096 * 2 ^ 40) 0 with cones := 1 } []) ∧
    svc.Begins (packet 0x2003 { hd 2 0 0 (2 ^ 48 + 2 ^ 32 + 2 ^ 24) 0x400000000 (0x400000000 + 4096 * 2 ^ 40) 0 with cones := 1 } []) ∧
    svc.Begins (packet 0x2004 (hd 2 0 0 0x400000000 0 0 0) []) ∧ svc.Begins (packet 0x2005 (hd 2 0 0 0x400000000 0 0 0) []) ∧
    svc.Begins (packet 0x2006 (hd 2 0 0 0x400000000 0 0 0) []) ∧
    svc.Begins { packet 0x3001 (hd 2 0 0 0x400000000 64 0 0) [] with put := zeros 64 } ∧ svc.Begins (packet 0x3002 (hd 2 0 0 0x400000000 1 3 0) []) ∧
    svc.Begins (packet 0x3003 (hd 2 0 0 0x400000000 1 1 0) []) ∧ svc.Begins (packet 0x3003 (hd 2 0 0 0x400000000 1 0 0) []) ∧
    (let o : Outst := { seq := 1, accept := 0, pkt := packet 0x3001 (hd 2 0 0 0x400000000 64 0 0) [], captured := [] }
     svc.deferred o = none ∧ 0x2000 ≤ o.pkt.op ∧ o.pkt.op < 0x4000) := by
  and_intros
  any_goals first | exact begins_of (by decide +kernel) | decide +kernel

/-- An image whose first burst is uncorrectable. -/
theorem witness_WorkCommands_unreadable :
    let s : State := { svc with hbm := { svc.hbm with upset := [(0x400000000, 2)] } }
    let p := packet 0x2004 (hd 2 0 0 0x400000000 0 0 0) []
    s.Takes p ∧ (s.accepting p).2.2.isSome = true := by
  refine ⟨{ running := by decide +kernel, alone := rfl, header := by decide +kernel, fresh := by decide +kernel, allowed := by decide +kernel,
            own := by decide +kernel }, by decide +kernel⟩

/-- A start, a stop in each mode, and a replay of a log that begins with START. -/
theorem witness_RecorderCommands :
    idleDev.Begins (packet 0x4001 (hd 0 0 0 0xF 0 0 0) []) ∧ idleDev.Begins (packet 0x4002 (hd 0 0 0 0 0 0 0) []) ∧ idleDev.wit.mode = .off ∧
    ({ idleDev with wit := { mode := .record, recording := true } } : State).Begins (packet 0x4002 (hd 0 0 0 0 0 0 0) []) ∧
    ({ idleDev with wit := { mode := .replay } } : State).Begins (packet 0x4002 (hd 0 0 0 0 0 0 0) []) ∧
    idleDev.Begins (packet 0x4003 (hd 0 0 0 0x400000000 64 0 0) []) ∧
    (let l := idleDev.logOf (packet 0x4003 (hd 0 0 0 0x400000000 64 0 0) [])
     ∃ e es, logEntries l.length l = some (e :: es) ∧ logStamp e < 2 ^ 48 * 1000000000) := by
  and_intros
  any_goals exact begins_of (by decide +kernel)
  · rfl
  · exact ⟨witBytes 1 0 1000000 0 (zeros 48), [], by decide +kernel⟩

/-- The log that is to be replayed reads; and its first burst is uncorrectable, while the command's entry reads. -/
theorem witness_RecorderCommands_replay :
    let p := packet 0x4003 (hd 0 0 0 0x400000000 64 0 0) []
    (idleDev.Begins p ∧ ((idleDev.begun p).hbmRead 0x400000000 64).2.2 = none ∧
     ∃ e es, logEntries 64 ((idleDev.begun p).hbmRead 0x400000000 64).1 = some (e :: es) ∧ logStamp e < 2 ^ 48 * 1000000000) ∧
    (let s : State := { idleDev with hbm := { idleDev.hbm with upset := [(0x400000000, 2)] } }
     s.Begins p ∧ ((s.begun p).hbmRead 0x400000000 64).2.2 = some 0x400000000) := by
  refine ⟨⟨begins_of (by decide +kernel), ?_, witBytes 1 0 1000000 0 (zeros 48), [], ?_, by decide +kernel⟩, ?_, ?_⟩
  · exact (State.useLines_clean _ _ _ _ (State.readEntry_clean _ (clean_of (by decide +kernel))).2).1
  · obtain ⟨l, e, hu⟩ := State.readEntry_onlyLines (idleDev.outOf (packet 0x4003 (hd 0 0 0 0x400000000 64 0 0) []))
      (s := (idleDev.accepting (packet 0x4003 (hd 0 0 0 0x400000000 64 0 0) [])).2.1) (clean_of (by decide +kernel))
    have hb : idleDev.begun (packet 0x4003 (hd 0 0 0 0x400000000 64 0 0) []) = _ := hu
    rw [hb]
    show logEntries 64 ((idleDev.accepting (packet 0x4003 (hd 0 0 0 0x400000000 64 0 0) [])).2.1.hbmBytes 0x400000000 64) = _
    decide +kernel
  all_goals
    have hl : (({ idleDev with hbm := { idleDev.hbm with upset := [(0x400000000, 2)] } } : State).accepting
        (packet 0x4003 (hd 0 0 0 0x400000000 64 0 0) [])).2.1.lostAt 0x400000000 := ⟨by decide +kernel, by decide +kernel, by decide +kernel⟩
    have hr := State.readEntry_lostAt (({ idleDev with hbm := { idleDev.hbm with upset := [(0x400000000, 2)] } } : State).outOf
        (packet 0x4003 (hd 0 0 0 0x400000000 64 0 0) [])) (by decide) hl
  · exact { starts_of (by decide +kernel) with readable := hr.1 }
  · exact State.hbmRead_fails (by decide) (by decide) hr.2.1 (fun x hx => (hr.2.2.1 x hx).2.2) hr.2.2.2

/-- Every named field that is written: the register's packet is accepted; slots that are bound and not, a swap that is pending, and ranges that hold and
do not. -/
theorem witness_NamedFieldWrites :
    (∀ p ∈ ([.usbDbCtlAll (hd 0 0 0 0 0 0 0), .tileCtlBconfClear (hd 0 0 0 0 0 0 0) 67, .leSlotModeAuto (hd 0 0 0 0 0 0 0) 15 7 true,
        .leSlotModeFbExit (hd 0 0 0 0 0 0 0) 15 7, .leSlotModeManFromLast (hd 0 0 0 0 0 0 0) 15 7, .leSlotManWrite (hd 0 0 0 0 0 0 0) 15 7 1,
        .leSlotFbWrite (hd 0 0 0 0 0 0 0) 15 7 1, .leSlotBankWrite (hd 0 0 0 0 0 0 0) 15 7 true 63 1, .snsLaneSwap (hd 0 0 0 0 0 0 0) 63 1,
        .pwmTripSw (hd 0 0 0 0 0 0 0) true, .tripLatchClear (hd 0 0 0 0 0 0 0) 82, .ethCtlWrite (hd 0 0 0 0 0 0 0) 1 0, .tbServoWrite (hd 0 0 0 0 0 0 0) 0,
        .mgResetCtlWarm (hd 0 0 0 0 0 0 0), .mgResetCtlHealthClear (hd 0 0 0 0 0 0 0), .evcCtlFreeze (hd 0 0 0 0 0 0 0) true,
        .evcCtlClearAll (hd 0 0 0 0 0 0 0), .evcSelWrite (hd 0 0 0 0 0 0 0) none 31 0, .evcSelWrite (hd 0 0 0 0 0 0 0) (some 67) 7 0] : List Instr),
      (p.packet.any (fun p => begins svc p)) = true) ∧
    (let s := { svc with slots := [(0, { st := .armed, swapAt := some 5 })], lanes := [(63, { swapAt := some 5 })] }
     (s.slot 0).bound = true ∧ s.slotOwner 0 = 0 ∧ (s.slot 0).swapAt.isSome = true ∧ (s.lane 63).swapAt.isSome = true ∧
     s.Begins (regPacket (hd 0 0 0 0 0 0 0) 0x200030 1 1) ∧ s.Begins (regPacket (hd 0 0 0 0 0 0 0) 0x200028 1 0) ∧
     s.Begins (regPacket (hd 0 0 0 0 0 0 0) 0x200020 1 0) ∧ s.Begins (regPacket (hd 0 0 0 0 0 0 0) 0x200400 1 0) ∧
     s.Begins (regPacket (hd 0 0 0 0 0 0 0) 0x100FE8 1 0)) ∧
    (svc.tripSrc 82).filter ≠ 3 ∧ ethCtlGood (0x0000FF0000000000 &&& 0x0FFFFFFFFFFF0377) = false ∧ ethCtlGood (0x0000008080C00000 &&& 0x0FFFFFFFFFFF0377) = true ∧
    fld (0x84300000002E02DD &&& 0xFFF00000FFFFFFFF : W64) 56 4 ≠ 0 ∧ fld (0x84300000002E02DD &&& 0xFFF00000FFFFFFFF : W64) 52 4 ≠ 0 ∧
    selGood 0 = true ∧ tileEventCode (fld (2 : W64) 0 8) = true := by
  and_intros
  any_goals first | exact begins_of (by decide +kernel) | decide +kernel

/-! ## Witnesses: the events -/

def stop0 : Cause := { queue := 1, seq := 4 }
/-- A context that is live, and one that is blocked since a count. -/
def liveCtx : Ctx := ctx []
def blockedCtx (since : Nat) : Ctx := { ctx [] with wait := some (.coil 0 1), waitSince := since }
/-- Tiles 0 to 2 mapped and at FIRE, with what a witness asks of tile 0; the counter stands at `now` nanoseconds. -/
def at_ (now : Nat) (T : Tile) : State :=
  { tiles := [(0, T)], tileMap := [(0, 1), (1, 2), (2, 3)], doms := [(0, { rung := 0, target := 0 }), (1, { rung := 0, target := 0 })],
    tb := { sec := BitVec.ofNat 48 (now / 1000000000), ns := BitVec.ofNat 30 (now % 1000000000) }, mg := { dev := .service, inReset := false } }

/-- What stops a dispatch, and a job that is dispatched: unpinned, and pinned. -/
theorem witness_KilnDispatchAndRefill :
    ({ kiln := { critical := true } } : State).kiln.critical = true ∧ ({ twin := { role := .standby } } : State).twin.role = .standby ∧
    ({ twin := { swapAt := some (0, 0, 0) } } : State).twin.swapAt.isSome = true ∧
    (let u := { at_ 0 { } with kiln := { ready := [{ queue := 2, image := image }], level := 1000 } }
     u.kiln.critical = false ∧ u.twin.role ≠ .standby ∧ u.twin.swapAt = none ∧ (State.pick true false u.readyList u).isSome = true ∧
     ((u.tile 0).freeSlot).isSome = true) ∧
    (let u := { at_ 0 { } with kiln := { ready := [{ queue := 2, image := image, pin := some 1 }] } }
     (State.pick true false u.readyList u).isSome = true) ∧
    (let u := { at_ 0 { } with kiln := { swapped := [{ ctx := liveCtx, saved := [], home := 1, runnable := true }] } }
     (State.pick true false u.readyList u).any (fun x => (u.swappedOf x.1).isSome) = true) ∧
    ({ kiln := { newBudget := some (1000, 1, stop0) } } : State).kiln.newBudget.isSome = true := by
  and_intros
  all_goals decide +kernel

theorem witness_ContextEvents :
    (let c := { ctx [] with job := { image := { image with wcet := 3 } }, started := some 0 }
     let s := at_ 2 { ctx0 := some c }
     (0 : Nat) < 68 ∧ s.ctx 0 0 = some c ∧ c.live = true ∧ c.job.deadline.all (fun d => decide (s.now < d)) = true ∧ c.job.image.wcet ≠ 0 ∧
     c.job.image.wcet ≤ s.wdCycles 0 c) ∧
    (let T : Tile := { ctx0 := some (blockedCtx 0), ctx1 := some liveCtx }
     T.slot (1 - T.execSlot) = some liveCtx ∧ liveCtx.live = true ∧ liveCtx.wait = none ∧ T.running = false) ∧
    ({ ctx0 := some liveCtx } : Tile).running = true ∧ ((at_ 0 { }).dom 0).closed = false ∧
    (let s := { at_ 0 { } with doms := [(0, { closed := true, rung := 3, target := 3 }), (1, { closed := true, rung := 0, target := 0 })] }
     (s.dom 0).closed = true ∧ (s.dom 0).target ≠ 0 ∧ (s.dom 1).target = 0) ∧
    (let T : Tile := { ctx1 := some (blockedCtx 0) }
     T.slot (1 - T.execSlot) = some (blockedCtx 0) ∧ (blockedCtx 0).wait ≠ none) ∧
    (let T : Tile := { }
     T.slot (1 - T.execSlot) = none) ∧
    ((at_ 0 { reserved := true }).tile 0).reserved = true ∧ ((at_ 0 { }).tile 0).reserved = false ∧
    (let s := at_ 50000 { ctx0 := some (blockedCtx 50000), ctx1 := some liveCtx }
     (s.tile 0).reserved = false ∧ s.ctx 0 0 = some (blockedCtx 50000) ∧ s.now ≤ (blockedCtx 50000).waitSince + 1000 * fld s.kiln.admitCtl 16 16 ∧
     s.ctx 0 1 = some liveCtx ∧ liveCtx.wait = none) ∧
    (let s := { at_ 10000000 { ctx0 := some (blockedCtx 1), ctx1 := some (blockedCtx 0) } with kiln := { admitCtl := 0x0000006400010000 } }
     (s.tile 0).reserved = false ∧ (s.tile 0).ctx0 = some (blockedCtx 1) ∧ (s.tile 0).ctx1 = some (blockedCtx 0) ∧ (blockedCtx 1).live = true ∧
     (blockedCtx 1).waitSince + 1000 * fld s.kiln.admitCtl 16 16 < s.now ∧ (blockedCtx 0).waitSince + 1000 * fld s.kiln.admitCtl 16 16 < s.now ∧
     (((if (blockedCtx 0).waitSince < (blockedCtx 1).waitSince then [1, 0] else [0, 1]).filter (fun w => (s.tile 0).evictable w)).head?).isSome = true) ∧
    (let s := { at_ 0 { } with kiln := { swapped := [{ ctx := liveCtx, saved := [], home := 1, runnable := true }] } }
     s.noDispatch = false ∧ (State.firstFor 0 s.readyList s).isSome = true ∧ State.firstFor 0 (at_ 0 { }).readyList (at_ 0 { }) = none) ∧
    ({ kiln := { critical := true } } : State).noDispatch = true := by
  and_intros
  all_goals decide +kernel

def pub0 : Pub := { due := 10, seq := 0, qseq := 1, ended := true, publishes := true, status := 0, staged := [(5, 9)], held := none }
def bind0 : Binding := { image := image, cqueue := 2, period := 1000, deadline := 500, first := some 0, mailboxes := [5, 255], ltile := 0 }
def bound0 (now : Nat) (v : Binding) : State := { at_ now { reserved := true } with bindings := [(0, v)] }

theorem witness_StandingEvents :
    (at_ 0 { }).binding 0 = none ∧ (bound0 0 { bind0 with first := none }).binding 0 = some { bind0 with first := none } ∧
    ({ bind0 with first := none } : Binding).first = none ∧ (bound0 0 bind0).now < ({ bind0 with next := 1 } : Binding).next ∧
    (let s := bound0 0 bind0
     s.binding 0 = some bind0 ∧ bind0.first.isSome = true ∧ bind0.unbindAt = none ∧ bind0.next ≤ s.now ∧ bind0.behind = false ∧ bind0.awaitImage = none ∧
     s.phys bind0.ltile = some 0) ∧
    (let v := { bind0 with toStart := true }
     let s := bound0 120 v
     v.toStart = true ∧ v.boundary + 120 ≤ s.now ∧ s.invoking 0 v = false ∧ s.phys v.ltile = some 0 ∧ ((s.swapAll 0).tile 0).slotOf 0 = none ∧
     ((s.swapAll 0).tile 0).freeSlot = some 0 ∧ (bound0 119 v).now < v.boundary + 120) ∧
    (let v := { bind0 with toStart := true }
     let s := { bound0 120 v with tiles := [(0, { reserved := true, ctx0 := some { ctx [] with job := { image := image, binding := some 0 }, live := false } })] }
     s.invoking 0 v = false ∧ ((s.swapAll 0).tile 0).slotOf 0 = some 0) ∧
    (let v := { bind0 with toStart := true }
     let s := { bound0 120 v with tiles := [(0, { reserved := true, ctx0 := some { ctx [] with job := { image := image, binding := some 0 } } })] }
     v.boundary + 120 ≤ s.now ∧ s.invoking 0 v = true) ∧
    (let v := { bind0 with pubs := [pub0] }
     v.pubs = pub0 :: [] ∧ (bound0 9 v).now < pub0.due ∧ pub0.due ≤ (bound0 10 v).now ∧ v.mailboxes.Nodup ∧ (5 : Nat) ∈ v.mailboxes ∧ (4 : Nat) ∉ v.mailboxes ∧
     pub0.ended = true ∧ pub0.publishes = true ∧ pub0.staged.any (fun e => decide (e.1 = 5)) = true ∧ pub0.staged.any (fun e => decide (e.1 = 255)) = false ∧
     ¬ (({ pub0 with ended := false } : Pub).ended = true ∧ ({ pub0 with ended := false } : Pub).publishes = true)) ∧
    (let v := { bind0 with unbindAt := some (0, stop0) }
     let s := bound0 0 v
     v.unbindAt = some (0, stop0) ∧ v.pubs = [] ∧ v.toStart = false ∧ s.invoking 0 v = false ∧ s.phys v.ltile = some 0 ∧
     ({ s with tileMap := [] } : State).phys v.ltile = none) ∧
    (let c := { ctx [] with job := { image := image, deadline := some 7 } }
     let s := at_ 7 { ctx0 := some c }
     s.wit.mode ≠ .replay ∧ s.ctx 0 0 = some c ∧ (c.live && c.job.deadline.any (fun d => decide (d ≤ s.now))) = true) := by
  and_intros
  all_goals decide +kernel

theorem witness_PowerEvents :
    ((at_ 0 { }).dom 115).busy = false ∧
    (let s := { at_ 0 { } with doms := [(67, { busy := true, rung := 4, target := 3 }), (68, { busy := true, waiting := true })] }
     (s.dom 68).waiting = true ∧ (s.dom 67).busy = true ∧ (s.dom 67).waiting = false) ∧
    (let s := { at_ 0 { } with doms := [(0, { closed := true })] }
     (s.dom 0).closed = true) ∧
    (let s := at_ 2000 { }
     (s.dom 0).closed = false ∧ (s.tile 0).failed = false ∧ (s.tile 0).executing = false ∧ (s.dom 0).busy = false ∧ (∀ j ∈ s.kiln.ready, j.pin ≠ some 0) ∧
     (s.dom 0).rung = 0 ∧ fld s.kiln.idle 0 16 ≠ 0 ∧ (s.tile 0).idleFrom + fld s.kiln.idle 0 16 ≤ s.now) ∧
    ((at_ 0 { failed := true }).tile 0).failed = true ∧ ((at_ 0 { ctx0 := some liveCtx }).tile 0).executing = true ∧
    (at_ 0 { }).nextWake = none ∧
    (let s := { at_ 0 { } with doms := [(67, { busy := true, waiting := true })], kiln := { wakes := [67] } }
     s.nextWake = some 67) ∧
    ((at_ 0 { }).tile 0).bankReq.find? (fun r => decide (r.bank = 39)) = none ∧
    (let r : BankReq := { bank := 39, goal := .off }
     let s := at_ 0 { bankReq := [r], banks := [(39, .moving)] }
     (s.tile 0).bankReq.find? (fun r => decide (r.bank = 39)) = some r ∧ (s.tile 0).bank 39 = .moving) ∧
    (let r : BankReq := { bank := 39, goal := .on, by_ := some 1 }
     let s := at_ 0 { bankReq := [r], banks := [(39, .moving)] }
     (s.tile 0).bankReq.find? (fun r => decide (r.bank = 39)) = some r ∧ (s.tile 0).bank 39 = .moving ∧ r.goal ≠ .off) ∧
    (let s := { at_ 0 { } with tiles := [(67, { ctx0 := some (ctx []) })] }
     (s.tile 67).clkStep ≠ 2 ∧ s.ctx 67 0 = some (ctx []) ∧ (ctx []).live = true) := by
  and_intros
  all_goals decide +kernel

/-- At 100 °C, which lies below either critical threshold. -/
theorem witness_PowerEvents_hot :
    (at_ 0 { }).kiln.critical = false ∧ (at_ 0 { }).kiln.hotSince = none ∧ 100 ≤ (hottest (List.replicate 69 (100 : Int))).1 ∧
    (hottest (List.replicate 69 (100 : Int))).1 < critTemp ∧ ((at_ 0 { }).tile 67).reserved = false ∧ ((at_ 0 { }).tile 67).failed = false ∧
    (at_ 0 { }).stepGoal 67 = 0 ∧ ((at_ 0 { }).tile 67).clkStep = 0 := by
  have h1 : (hottest (List.replicate 69 (100 : Int))).1 = 100 := by decide +kernel
  have h2 : (100 : Int) < critTemp := by
    unfold critTemp
    split <;> decide
  rw [h1]
  exact ⟨rfl, rfl, by decide, h2, rfl, rfl, rfl, rfl⟩

theorem witness_FailureEvents :
    ((at_ 0 { failed := true }).tile 0).failed = true ∧ ((at_ 0 { }).tile 67).failed = false ∧
    (15 : Nat) ∈ ({ mg := { leFailed := [15] } } : State).mg.leFailed ∧ (15 : Nat) ∉ (at_ 0 { }).mg.leFailed ∧
    (3 : Nat) ∈ ({ mg := { sgFailed := [3] } } : State).mg.sgFailed ∧ (3 : Nat) ∉ (at_ 0 { }).mg.sgFailed ∧
    (({ hbm := { pcs := [(31, { failed := true })] } } : State).pc 31).failed = true ∧ ((at_ 0 { }).pc 31).failed = false ∧ (at_ 0 { }).twin.pair = .none ∧
    ({ twin := { role := .active, pair := .synced } } : State).twin.pair ≠ .none ∧
    (at_ 0 { }).testOf 115 = none ∧
    (let k : SelfTest := { queue := 0, seq := 1, dom := 0, options := 8 }
     let s := { at_ 0 { } with kiln := { tests := [k] } }
     let t := { at_ 0 { ctx0 := some liveCtx } with kiln := { tests := [k] } }
     s.testOf 0 = some k ∧ s.blockDrained 0 = true ∧ t.testOf 0 = some k ∧ t.blockDrained 0 = false) := by
  and_intros
  all_goals decide +kernel

/-- An open receive coil of 64-byte elements that accepts every source, in the first bank of the A-store. -/
def rxCoil : Coil := { store := 1, base := 0, size := 0x80, isOpen := true, receive := true, accept := 0x1F, elem := 64 }
def rxCtx (k : Coil) (tput : Bool) : Ctx := { ctx [] with job := { image := image, tput := tput }, coils := [(31, k)] }
def rxDev (k : Coil) (tput : Bool) (T : Tile) : State := at_ 0 { T with ctx0 := some (rxCtx k tput), banks := [(16, .on)] }

theorem witness_StoreEvents_coils :
    let d := zeros 64
    (let s := at_ 0 { }
     let c := (s.tile 0).coil 31
     s.kiln.swapped.any (awaits 0 { coil := 31, src := .host, prod := 0, n6 := 0, data := d }) = false ∧ c.refuses .host d.length = true) ∧
    (let s := rxDev rxCoil true { }
     let c := (s.tile 0).coil 31
     c.isOpen = true ∧ c.refuses .host d.length = false ∧ Tbl.get 0 (rxKey 31 .host 0) (s.tile 0).rxNext = (0 : BitVec 6) ∧ c.full = false ∧
     s.orderTurn 0 31 .host 0 = true ∧ (s.tile 0).rxBusy 0 31 c.store (c.base + c.tail) c.elem = false ∧
     (s.tile 0).on c.store (c.base + c.tail) c.elem = true ∧ Tbl.get 0 (rxKey 31 .host 0) (s.tile 0).rxNext ≠ (63 : BitVec 6) ∧ (s.tile 0).rx.length < 16) ∧
    (let s := rxDev rxCoil true { }
     let c := (s.tile 0).coil 31
     (s.tile 0).coilOwner 31 = some 0 ∧ (s.tile 0).slot 0 = some (rxCtx rxCoil true) ∧ (rxCtx rxCoil true).job.tput = true ∧ bit c.accept 1 = true ∧
     4 * 31 + 4 * 1 ≤ c.size ∧ (s.tile 0).upsets c.store (c.base + 4 * 31) 4 = [] ∧ (s.tile 0).rxBusy 0 31 c.store (c.base + 4 * 31) 4 = false ∧
     (s.tile 0).on c.store (c.base + 4 * 31) 4 = true ∧ c.size < 4 * 31 + 4 * 2) ∧
    (let s := rxDev rxCoil false { }
     (s.tile 0).coilOwner 31 = some 0 ∧ (s.tile 0).slot 0 = some (rxCtx rxCoil false) ∧ (rxCtx rxCoil false).job.tput = false) ∧
    (let s := at_ 0 { ctx0 := some (rxCtx rxCoil true) }
     let c := (s.tile 0).coil 31
     (s.tile 0).coilOwner 31 = some 0 ∧ (s.tile 0).on c.store (c.base + 0) 4 = false) ∧
    (let s := rxDev rxCoil true { upset := [(storeBase 1 + 0x7C, 3)] }
     (s.tile 0).rxBusy 0 31 1 0x7C 4 = false ∧ (s.tile 0).on 1 0x7C 4 = true ∧ (s.storeRead 0 5 1 0x7C 4).2.2.isSome = true) ∧
    (let y : Ctx := { ctx [] with doomed := some (St.power, locStore 0 1 0) }
     let s := at_ 0 { ctx0 := some (ctx []), ctx1 := some y }
     s.ctx 0 0 = some (ctx []) ∧ (ctx []).doomed = none ∧ s.ctx 0 1 = some y ∧ y.doomed = some (St.power, locStore 0 1 0)) := by
  and_intros
  all_goals decide +kernel

def desc0 : Desc :=
  { w0 := BitVec.ofNat 64 (winBase 0 + 0x400000), w1 := BitVec.ofNat 64 (winBase 0 + 0x600000), w2 := 4, w3 := 0, attr := 0, no := 0, active := true, slot := 0,
    row := 0, entry := 0 }
def copyDev (d : Desc) (banks : Tbl BankSt) : State := at_ 0 { ctx0 := some (ctx []), banks := banks, dma := [(15, { descs := [d] })] }

theorem witness_StoreEvents_dma :
    (let s := copyDev desc0 [(16, .on), (32, .on)]
     let v := Tbl.get { } 15 (s.tile 0).dma
     desc0.srcIsCoil = false ∧ desc0.toCoil = false ∧ bit desc0.attr 0 = false ∧ sideOf 0 (desc0.srcAt 0) = .own 1 0 ∧ sideOf 0 (desc0.dstAt 0) = .own 2 0 ∧
     (s.tile 0).offBank 1 0 desc0.rowBytes = none ∧ (s.tile 0).upsets 1 0 desc0.rowBytes = [] ∧ s.ctx 0 desc0.slot = some (ctx []) ∧
     (ctx []).mayWrite 2 0 desc0.rowBytes = true ∧ (s.tile 0).offBank 2 0 desc0.rowBytes = none ∧
     v.descs = desc0 :: [] ∧ desc0.active = true ∧ bit desc0.w2 47 = false ∧ (s.dmaRows 0 15 desc0 (desc0.rows - desc0.row) desc0.row).2.2 = .ok ∧
     (Tbl.get { } 14 (s.tile 0).dma).descs = []) ∧
    (let d := { desc0 with active := false }
     let v := Tbl.get { } 15 ((copyDev d []).tile 0).dma
     v.descs = d :: [] ∧ d.active = false) ∧
    (let s := copyDev desc0 []
     ∃ st loc, (s.dmaRows 0 15 desc0 (desc0.rows - desc0.row) desc0.row).2.2 = .bad st loc) := by
  refine ⟨?_, by decide +kernel, ?_⟩
  · and_intros
    all_goals decide +kernel
  · refine ⟨0x26, 0x4000000000000f00, ?_⟩
    decide +kernel

/-- Errors in the last word of the first bank: one bit, and two. -/
theorem witness_StoreEvents_scrub :
    (let s := at_ 0 { ctl := 4 }
     bit (s.tile 0).ctl 1 = false) ∧
    (inStore 1 0x200000 4 = false ∧ ((at_ 0 { }).tile 0).on 1 0 4 = false) ∧
    (let s := at_ 0 { banks := [(16, .on)], upset := [(storeBase 1 + 0x1FFFC, 1)] }
     bit (s.tile 0).ctl 1 = true ∧ inStore 1 0x1FFFC 4 = true ∧ (s.tile 0).on 1 0x1FFFC 4 = true ∧
     (s.tile 0).upsets 1 0x1FFFC 4 = (0x1FFFC, 1) :: [] ∧ correctable (syndrome 1) = true ∧ (s.tile 0).upsets 1 0 4 = []) ∧
    (let s := at_ 0 { banks := [(16, .on)], upset := [(storeBase 1 + 0x1FFFC, 3)] }
     (s.tile 0).upsets 1 0x1FFFC 4 = (0x1FFFC, 3) :: [] ∧ correctable (syndrome 3) = false) := by
  and_intros
  all_goals decide +kernel

theorem witness_StoreEvents_hbm :
    bit ({ hbm := { ctl := 0 } } : State).hbm.ctl 0 = false ∧ (0x3FFFFFFFF / 32 * 32 : Nat) < hbmLo ∧ hbmHi ≤ (0x800000000 / 32 * 32 : Nat) ∧
    (let s : State := { hbm := { upset := [(0x7FFFFFFE0, 1)] } }
     bit s.hbm.ctl 0 = true ∧ hbmLo ≤ (0x7FFFFFFFF / 32 * 32 : Nat) ∧ (0x7FFFFFFFF / 32 * 32 : Nat) < hbmHi ∧ Tbl.get 0 (0x7FFFFFFFF / 32 * 32) s.hbm.upset = 1 ∧
     Tbl.get 0 0x400000000 s.hbm.upset = 0) ∧
    (let s : State := { hbm := { upset := [(0x400000000, 2)] } }
     bit s.hbm.ctl 0 = true ∧ Tbl.get 0 (0x400000000 / 32 * 32) s.hbm.upset = 2) ∧
    (let p : PinReq := { queue := 2, seq := 1, lines := [8] }
     let s : State := { hbm := { pins := [p] }, queues := [(2, { outst := [{ seq := 1, accept := 0, pkt := packet 0x3003 (hd 2 0 0 0 0 0 0) [], captured := [] }] })] }
     s.hbm.pins.find? (fun p => decide (p.queue = 2 ∧ p.seq = 1)) = some p ∧ p.lines.filter (fun m => !s.hbm.pinned.contains m) ≠ [] ∧
     (s.outstOf 2 1).isSome = true ∧ s.hbm.pins.find? (fun p => decide (p.queue = 2 ∧ p.seq = 2)) = none ∧
     p.lines.filter (fun m => !({ s.hbm with pinned := [8] } : Hbm).pinned.contains m) = []) ∧
    (let r : HbmReq := { id := 1, cls := 4, pf := true, deadline := 0, arrival := 0, tile := 0, desc := 0 }
     r.pf = true ∧ r.since + 5000 ≤ (at_ 5000 { }).up ∧ (at_ 4999 { }).up < r.since + 5000 ∧ 2 ≤ r.cls ∧ r.since + 20000 ≤ (at_ 20000 { }).up ∧
     (at_ 19999 { }).up < r.since + 20000 ∧ ({ r with pf := false } : HbmReq).pf = false ∧ ({ r with cls := 1 } : HbmReq).cls < 2 ∧ ({ hbm := { waiting := [r] } } : State).hbm.waiting.find? (fun r => decide (r.id = 1)) = some r ∧
     ({ hbm := { waiting := [r] } } : State).hbm.waiting.find? (fun r => decide (r.id = 2)) = none) ∧
    (let g : Stream := { queue := 2, seq := 1, src := 0x400000000, len := 64, stream := 3 }
     let s : State := { svc with usb := { gets := [g] } }
     s.usb.gets.find? (fun g => decide (g.queue = 2 ∧ g.seq = 1)) = some g ∧ s.usb.u3 = false ∧ clean s = true ∧ s.usb.gets.find? (fun g => decide (g.queue = 2 ∧ g.seq = 2)) = none ∧
     ({ usb := { u3 := true } } : State).usb.u3 = true) := by
  and_intros
  all_goals decide +kernel

/-- A coil in a bank that no request turns ON and one whose bank a request turns ON; a coil with an element that waits, and the scoreboard's entry over it. -/
theorem witness_StoreEvents_held :
    let d := zeros 64
    (let s := at_ 0 { ctx0 := some (rxCtx rxCoil true) }
     let T := s.tile 0
     let c := T.coil 31
     c.isOpen = true ∧ c.refuses .host d.length = false ∧ Tbl.get 0 (rxKey 31 .host 0) T.rxNext = (0 : BitVec 6) ∧ c.full = false ∧
     s.orderTurn 0 31 .host 0 = true ∧ T.rxBusy 0 31 c.store (c.base + c.tail) c.elem = false ∧ T.on c.store (c.base + c.tail) c.elem = false ∧
     T.dark c.store (c.base + c.tail) c.elem = true ∧ T.coilOwner 31 = some 0 ∧ T.slot 0 = some (rxCtx rxCoil true) ∧
     T.rx.any (fun e => decide (e.coil = 31)) = false ∧ T.rxBusy 0 31 c.store c.base 4 = false ∧ T.on c.store c.base 4 = false ∧ T.dark c.store c.base 4 = true) ∧
    (let T := (rxDev rxCoil true { }).tile 0
     let c := T.coil 31
     T.rxBusy 0 31 c.store (c.base + c.tail) c.elem = false ∧ T.rx.any (fun e => decide (e.coil = 31)) = false ∧ T.rxBusy 0 31 c.store (c.base + 4 * 31) 4 = false) ∧
    (let T := (at_ 0 { ctx0 := some (rxCtx rxCoil true), bankReq := [{ bank := 16, goal := .on }] }).tile 0
     T.on 1 0 4 = false ∧ T.dark 1 0 4 = false) ∧
    ((rxDev rxCoil true { rx := [{ coil := 31, src := .host, prod := 0, n6 := 1, data := d }] }).tile 0).rx.any (fun e => decide (e.coil = 31)) = true ∧
    ((rxDev rxCoil true { sb := [(0, { valid := true, write := true, engine := 1, store := 1, first := 0, last := 0, owner := 7 })] }).tile 0).rxBusy 0 31 1 0 4 = true ∧
    (let s := rxDev rxCoil true { upset := [(storeBase 1 + 0x7C, 3)] }
     (s.tile 0).rxBusy 0 31 1 0x7C 4 = false ∧ (s.storeRead 0 5 1 0x7C 4).2.2 = some 0x7C) ∧
    (let s : State := { copyDev desc0 [] with doms := [(0, { rung := 1 })] }
     (Tbl.get ({ } : DmaQueue) 15 (s.tile 0).dma).descs ≠ [] ∧ (s.dom 0).rung ≠ 0 ∧ ((copyDev desc0 []).dom 0).rung = 0) := by
  and_intros
  all_goals decide +kernel

/-- The patrol scrubber at the first burst of HBM: a new pass, a pass that has read it, a bank for which a request waits, and the sixteenth
uncorrectable burst within 1 s and just after it. -/
theorem witness_StoreEvents_patrol :
    (let s := { svc with hbm := { svc.hbm with upset := [(0x400000000, 2)] } }
     let c := s.pc (s.pcOf 0x400000000)
     bit s.hbm.ctl 0 = true ∧ c.mapped = true ∧ s.bankWaits 0x400000000 = false ∧ c.scrubbed.all (fun x => decide (x < 0x400000000)) = true ∧
     ¬ (15 ≤ c.uncAt.length)) ∧
    (let pc : Pc := { mapped := true, scrubbed := some 0x400000000 }
     let s : State := { svc with hbm := { svc.hbm with pcs := svc.hbm.pcs.map (fun e => (e.1, pc)) } }
     let c := s.pc (s.pcOf 0x400000000)
     decide (c.passAt + 3600000000000 * fld s.hbm.ctl 8 8 ≤ s.up) = false ∧ c.scrubbed.any (fun x => decide (0x400000000 ≤ x)) = true) ∧
    (let s := { svc with tb := { sec := 86400 } }
     decide ((s.pc (s.pcOf 0x400000000)).passAt + 3600000000000 * fld s.hbm.ctl 8 8 ≤ s.up) = true) ∧
    (let r : HbmReq := { id := 1, cls := 4, pf := true, deadline := 0, arrival := 0, tile := 0, desc := 0, addr := 0x400000000, len := 64 }
     ({ svc with hbm := { svc.hbm with waiting := [r] } } : State).bankWaits 0x400000000 = true) ∧
    (let s := fun (n : Nat) => { svc with hbm := { svc.hbm with pcs := [(0, { mapped := true, uncAt := List.replicate 15 0 })], upset := [(0x400000000, 2)] },
                                          tb := { sec := 1, ns := BitVec.ofNat 30 n } }
     (s 0).pcOf 0x400000000 = 0 ∧ 15 ≤ ((s 0).pc 0).uncAt.length ∧ (s 0).up ≤ ((s 0).pc 0).uncAt.getD 14 0 + 1000000000 ∧
     ¬ ((s 1).up ≤ ((s 1).pc 0).uncAt.getD 14 0 + 1000000000) ∧ ((s 0).pc 0).mapped = true ∧ (s 0).bankWaits 0x400000000 = false) := by
  and_intros
  all_goals decide +kernel

/-- A pin whose line loads and one whose line does not; a DATA_GET of 64 bytes that read and of 64 that do not. -/
theorem witness_StoreEvents_reads :
    let bad : State := { svc with hbm := { svc.hbm with upset := [(0x400000000, 2)] } }
    (svc.lineAddr 0 = 0x400000000 ∧ (svc.useLines 0 false false [0x400000000]).2 = none ∧ (bad.useLines 0 false false [0x400000000]).2 = some 0x400000000) ∧
    ((svc.hbmRead 0x400000000 64).2.2 = none ∧ (bad.hbmRead 0x400000000 64).2.2 = some 0x400000000) := by
  and_intros
  all_goals decide +kernel

/-- A tile on its way to COOL, quiet, and with a descriptor, an entry of the scoreboard or a push in flight; the twin link's domain either way. -/
theorem witness_PowerEvents_rungs :
    (let s := { at_ 0 { } with doms := [(67, { busy := true, rung := 0, target := 3 })] }
     (s.dom 67).busy = true ∧ (s.dom 67).waiting = false ∧ (s.dom 67).rung.toNat < (s.dom 67).target.toNat ∧ (s.tile 67).descs = [] ∧
     (s.tile 67).sb.all (fun e => !e.2.valid) = true ∧ (List.range 40).all (fun b => decide ((s.tile 67).inFlight b = 0)) = true) ∧
    (let s := { copyDev desc0 [] with doms := [(0, { busy := true, rung := 0, target := 3 })] }
     (s.dom 0).busy = true ∧ (s.dom 0).rung.toNat < (s.dom 0).target.toNat ∧ (s.tile 0).descs ≠ []) ∧
    (let s := { at_ 0 { sb := [(0, { valid := true, owner := 1 })] } with doms := [(0, { busy := true, rung := 0, target := 3 })] }
     (s.dom 0).busy = true ∧ (s.tile 0).sb.all (fun e => !e.2.valid) = false) ∧
    (let s := { rxDev rxCoil true { rx := [{ coil := 31, src := .host, prod := 0, n6 := 0, data := zeros 64 }] } with
                doms := [(0, { busy := true, rung := 0, target := 3 })] }
     (s.dom 0).busy = true ∧ (s.tile 0).inFlight 16 ≠ 0) ∧
    (let up := { at_ 0 { } with doms := [(105, { busy := true, rung := 3, target := 0 })] }
     let down := { at_ 0 { } with doms := [(105, { busy := true, rung := 0, target := 3 })] }
     (up.dom 105).busy = true ∧ (up.dom 105).target = 0 ∧ up.twin.linkState = 0 ∧ (down.dom 105).busy = true ∧ (down.dom 105).target ≠ 0) := by
  and_intros
  all_goals decide +kernel

theorem witness_FailureEvents_tests :
    ({ twin := { role := .active, pair := .synced } } : State).hbm.losing = false ∧
    ({ mg := { avsIn := false } } : State).mg.avsIn = false ∧ svc.mg.avsIn = true ∧ 1 < (({ doms := [(0, { rung := 2 })] } : State).dom 0).rung.toNat ∧
    ((at_ 0 { }).dom 0).rung.toNat ≤ 1 := by
  and_intros
  all_goals decide +kernel

/-- Slot 127 at 2,000 ns with a period of 1,000 ns, fed by lane 0. -/
def runSlot : Slot := { st := .running, start := some 1000, phase := 0x0003E80000000100, lastEval := 999 }
def runDev (now : Nat) (x : Slot) (l : Lane) : State := { at_ now { } with slots := [(127, x)], lanes := [(0, l)] }
def staged0 (copy : Option W32) : Staged := { at_ := 2256, phase := 2000, out := 5, copy := copy, stateMis := false }

theorem witness_LoopEvents :
    (at_ 0 { }).duePhase 127 = none ∧ ((at_ 0 { }).slot 127).unbindAt = none ∧ ((at_ 0 { }).slot 127).st ≠ .armed ∧ ((at_ 0 { }).slot 127).staged = none ∧
    (let x : Slot := { st := .armed, start := some 1000 }
     x.st = .armed ∧ x.start = some 1000 ∧ (runDev 999 x { }).now < 1000 ∧ 1000 ≤ (runDev 1000 x { }).now) ∧
    (let s := runDev 2000 runSlot { mode := 4, time := 0x3E8000000, hist := [{ phase := 2000, raw := 1, val := 256, came := 2000 }] }
     s.duePhase 127 = some 2000 ∧ (s.slot 127).unbindAt.all (fun u => decide (2000 < u.1)) = true ∧ (s.inputsAt 127 2000).isSome = true ∧
     runSlot.pend = [] ∧ runSlot.swapAt = none ∧ (127 : Nat) ∉ s.wit.snapSlots ∧ runSlot.paired = false ∧ runSlot.targetSrc = 0) ∧
    (let s := runDev 2000 runSlot { mode := 4, time := 0x3E8000000 }
     s.duePhase 127 = some 2000 ∧ s.inputsAt 127 2000 = none ∧ s.isLate 127 2000 = false) ∧
    (let s := runDev 2999 runSlot { mode := 4, time := 0x3E8000000 }
     s.duePhase 127 = some 2000 ∧ s.inputsAt 127 2000 = none ∧ s.isLate 127 2000 = true) ∧
    (let s := runDev 2000 { runSlot with unbindAt := some (2000, stop0) } { mode := 4, time := 0x3E8000000 }
     s.duePhase 127 = some 2000 ∧ (s.slot 127).unbindAt = some (2000, stop0) ∧ (2000 : Nat) ≤ 2000) ∧
    (let g := staged0 none
     g.copy.all (fun o => decide (o = g.out)) = true ∧ g.stateMis = false ∧ runSlot.stopped = false ∧ g.at_ ≤ (runDev 2256 runSlot { }).now ∧
     (runDev 2255 runSlot { }).now < g.at_) ∧
    ((staged0 (some 6)).copy = some 6 ∧ (6 : W32) ≠ (staged0 (some 6)).out ∧ ({ runSlot with misRun := 1 } : Slot).misRun = 1 ∧ runSlot.misRun ≠ 1) ∧
    (at_ 0 { }).twin.role ≠ .standby := by
  and_intros
  all_goals decide +kernel

theorem not_ne_self (c : W32) : c ≠ ~~~c := by
  intro h
  have h0 := congrArg (fun v : W32 => v.getLsbD 0) h
  simp at h0

/-- A shadow image whose CRC-32C is the one given, and one whose is not. -/
theorem witness_LoopEvents_shadow :
    let s := { runDev 2000 runSlot { } with twin := { role := .standby, pair := .bulk } }
    (s.slot 127).st = .running ∧ s.twin.role = .standby ∧ (127 : Nat) ∉ s.twin.shadowDone ∧ (s.slot 127).paired = false ∧ s.twin.pair ≠ .synced ∧
    s.twin.pair ≠ .catchup ∧
    (∃ image crc, crc32c image = crc ∧ crc32c (shadowImage (s.slot 127).chain (s.slot 127).lastOut) = crc) ∧
    (∃ image crc, crc32c image ≠ crc ∧ crc32c (shadowImage (s.slot 127).chain (s.slot 127).lastOut) ≠ crc) := by
  refine ⟨by decide +kernel, by decide +kernel, by decide +kernel, by decide +kernel, by decide +kernel, by decide +kernel,
    ⟨_, _, rfl, rfl⟩, ⟨_, _, not_ne_self _, not_ne_self _⟩⟩

/-- Lane 63 in WORD mode and in an SD mode, phases every 1,000 ns and every 800 ns. -/
def wordLane : Lane := { mode := 4, time := 0x3E8000000 }
def sdLane : Lane := { mode := 0x28138001, time := 0x320000000 }
def laneDev (now : Nat) (x : Lane) : State := { at_ now { } with lanes := [(63, x)] }

theorem witness_LaneEvents :
    ({ wit := { mode := .replay } } : State).wit.mode = .replay ∧ (at_ 0 { }).wit.mode ≠ .replay ∧ wordLane.wordMode = true ∧ sdLane.wordMode = false ∧
    sdLane.sdMode = true ∧ wordLane.sdMode = false ∧
    lastAt ({ wordLane with time := 0x3E8000001 } : Lane).off ({ wordLane with time := 0x3E8000001 } : Lane).per ((at_ 0 { }).now + wordLane.lead) = none ∧
    (let s := laneDev 1000 wordLane
     lastAt wordLane.off wordLane.per (s.now + wordLane.lead) = some 1000 ∧ ({ wordLane with wordPhase := some 1000 } : Lane).wordPhase.any (fun p => decide (1000 ≤ p)) = true ∧
     wordLane.wordPhase.any (fun p => decide (1000 ≤ p)) = false ∧ wordLane.wordPhase = none ∧ ({ wordLane with mode := 0x204 } : Lane).conv ≠ wordLane.conv ∧
     ({ wordLane with mode := 0x204 } : Lane).wordMode = true ∧
     (let x := { wordLane with wordPhase := some 0 }
      x.wordPhase.any (fun p => decide (1000 ≤ p)) = false ∧ x.wordPhase.isSome = true ∧ x.wordMet = false ∧ (17 : Nat) ≠ x.wlen ∧ (16 : Nat) = x.wlen ∧
      0 + x.arrWin < 1 ∧ (0 : Nat) ≤ 0 + x.arrWin)) ∧
    (let s := laneDev 1024 wordLane
     wordLane.kind ≠ 0 ∧ wordLane.kind ≤ 4 ∧ wordLane.delay ≤ s.now ∧ lastAt wordLane.off wordLane.per (s.now - wordLane.delay) = some 1000 ∧
     (laneDev 23 wordLane).now < wordLane.delay ∧ wordLane.phase.any (fun p => decide (1000 ≤ p)) = false ∧
     ({ wordLane with phase := some 1000 } : Lane).phase.any (fun p => decide (1000 ≤ p)) = true ∧ wordLane.kind = 4 ∧
     wordLane.words.find? (fun w => decide (w.1 = 1000)) = none ∧
     ({ wordLane with words := [(1000, 7)] } : Lane).words.find? (fun w => decide (w.1 = 1000)) = some (1000, 7)) ∧
    (let now := 800 + sdLane.delay
     let s := laneDev now sdLane
     sdLane.kind ≠ 0 ∧ sdLane.kind ≤ 3 ∧ sdLane.delay ≤ s.now ∧ lastAt sdLane.off sdLane.per (s.now - sdLane.delay) = some 800 ∧ sdLane.lost = false ∧
     (List.replicate sdLane.window true).length = sdLane.window ∧ ([] : List Bool).length ≠ sdLane.window ∧ ({ sdLane with lost := true } : Lane).lost = true) ∧
    ({ sdLane with mode := 0x28138003 } : Lane).kind = 3 ∧ sdLane.kind ≠ 3 ∧ (laneDev 0 { }).lanes ≠ [] ∧ ({ } : Lane).kind = 0 ∧
    bit ({ } : Lane).oc 0 = false ∧
    (let x := { sdLane with oc := 0x0000000000000001 }
     bit x.oc 0 = true ∧ (x.comparator (List.replicate 7 true)).isSome = true ∧ x.fOcRaised = false ∧ ({ x with fOcRaised := true } : Lane).fOcRaised = true ∧
     sfld x.oc 16 24 ≤ 0 ∧ (0 : Int) ≤ sfld x.oc 40 24 ∧ sfld x.oc 40 24 < 1 ∧ fld x.oc 2 2 + 1 ≤ min (x.ocRun + 1) 4 ∧
     (let y := { x with oc := 0x000000000000000D }
      min (y.ocRun + 1) 4 < fld y.oc 2 2 + 1)) := by
  and_intros
  all_goals decide +kernel

/-- A due phase of lane 63 in a replay, for which the log holds a later value, and for which it holds none. -/
theorem witness_LaneEvents_replay :
    let s := fun (mask : Nat) => { laneDev 1024 wordLane with wit := { mode := .replay, log := witBytes 0x10 3 1000 0 (leBytes 2 mask ++ leBytes 4 7) } }
    (s 0).wit.mode = .replay ∧ wordLane.kind ≠ 0 ∧ wordLane.kind ≤ 4 ∧ wordLane.delay ≤ (s 0).now ∧
    lastAt wordLane.off wordLane.per ((s 0).now - wordLane.delay) = some 1000 ∧ wordLane.phase.any (fun p => decide (1000 ≤ p)) = false ∧
    (s 0x8000).sampleAhead (63 / 16) 1000 (63 % 16) = true ∧ (s 0).sampleAhead (63 / 16) 1000 (63 % 16) = false := by
  and_intros
  all_goals decide +kernel


/-! ## Witnesses: pairs, links, the timebase and the ports -/

/-- Pair 47 in up mode and link 31 with one cell, both with periods of 1,000 ns. -/
def pair0 : Pair := { cfg := 9, time := 0x0003E8000000 }
def pairDev (now : Nat) (x : Pair) : State := { at_ now { } with doms := [(98, { rung := 0, target := 0 })], pairs := [(47, x)] }
def link0 : Link := { cfg := 0x7F000101, time := 0x0003E80000640000, time2 := 0x0001F40000000064, st := .up, wasUp := true }
def linkDev (now : Nat) (x : Link) : State := { at_ now { } with links := [(31, x)] }
/-- An uplink of one cell with sequence number 0, and the echo of beacon 0. -/
def uplink0 : List Byte := withCrc [0x80, 0, 0, 0, 1, 2, 3, 4]
def echo0 : List Byte := withCrc [0xC0, 0, 0, 0]

theorem witness_PairAndLinkEvents_pairs :
    (let s : State := { pairs := [(47, { safe := false })], trips := [(82, { mask := 0x800000000000 })] }
     (82 : Nat) < 83 ∧ bit (s.tripSrc 82).mask 47 = true ∧ (s.pair 47).safe = false ∧ bit (s.tripSrc 82).mask 46 = false ∧ s.caused 46 = false) ∧
    (let s : State := { trips := [(15, { raised := true })] }
     (({ wit := { mode := .replay } } : State).wit.mode = .replay) ∧ (3 < ({ filter := 1 } : TripSrc).filterNs ∧ (s.tripSrc 15).raised = true) ∧
     s.wit.mode ≠ .replay ∧ ¬ (true = true ∧ 100 < (s.tripSrc 14).filterNs) ∧ (s.tripSrc 14).raised ≠ true ∧ (s.tripSrc 15).raised ≠ false) ∧
    (let x : Pair := { pair0 with clearAt := some 1500, loaded := true, safe := true }
     x.clearAt = some 1500 ∧ (pairDev 1999 x).now < nextAt x.off x.per 1500 ∧ x.en = true ∧ (pairDev 2000 x).caused 47 = false ∧
     nextAt x.off x.per 1500 ≤ (pairDev 2000 x).now ∧ pair0.clearAt = none ∧ ({ } : Pair).en = false ∧ pair0.loaded = false ∧ ({ safe := false } : Pair).safe = false ∧
     (pairDev 0 { x with unitCause := true }).caused 47 = true ∧ (pairDev 2000 x).pwmRuns 47 = true ∧ (at_ 0 { }).pwmRuns 47 = false) ∧
    (let x := pair0
     ({ x with cfg := 1 } : Pair).loadPoint 2000 = none ∧ x.loadPoint (pairDev 2000 x).now = some 2000 ∧ 2000 ≤ ({ x with loadedTo := 2000 } : Pair).loadedTo ∧
     x.en = true ∧ x.loadedTo < 2000 ∧ ({ x with shadowAt := some 2000 } : Pair).shadowAt.any (fun w => decide (2000 ≤ w)) = true ∧ x.loaded = false ∧
     (pairDev 2000 x).caused 47 = false ∧ ({ x with loaded := true } : Pair).loaded = true) := by
  and_intros
  all_goals decide +kernel

theorem witness_PairAndLinkEvents_links :
    (let x := link0
     lastAt (x.start + x.sendOff) x.period (linkDev 2100 x).now = some 2100 ∧ x.en = true ∧ x.wasUp = true ∧ x.sent.any (fun p => decide (2100 - x.sendOff ≤ p.1)) = false ∧
     ({ x with sent := some (2000, 0) } : Link).sent.any (fun p => decide (2100 - x.sendOff ≤ p.1)) = true ∧ (linkDev 2100 x).linkDrives = true ∧ x.dbl = false ∧
     ({ twin := { role := .standby } } : State).linkDrives = false ∧ lastAt (x.start + x.sendOff) x.period (linkDev 99 x).now = none ∧ ({ } : Link).en = false ∧
     ({ } : Link).wasUp = false) ∧
    ({ trips := [(80, { latch := true })] } : State).blocked 31 = true ∧ (({ trips := [(82, { latch := true })] } : State).tripSrc 82).latch = true ∧
    (linkDev 0 { link0 with unitHold := true }).blocked 31 = true ∧
    (let x := { link0 with sent := some (2000, 2100) }
     x.sent = some (2000, 2100) ∧ x.en = true ∧ (linkDev 2000 x).wit.mode ≠ .replay ∧ (x.st = .sync ∨ x.st = .up) ∧ goodFrame true uplink0 = false ∧
     (linkDev 2499 x).now < 2000 + x.upDue ∧ 2000 + x.upDue ≤ (linkDev 2500 x).now ∧ x.ulSeen = false ∧ ({ x with ulSeen := true } : Link).ulSeen = true ∧
     x.pushedAt.any (fun p => decide (2000 ≤ p)) = false ∧ ({ x with pushedAt := some 2000 } : Link).pushedAt.any (fun p => decide (2000 ≤ p)) = true ∧
     link0.sent = none) ∧
    (let gs := (codeGroups true (frameSyms uplink0)).1
     frameIn true gs = (uplink0, false) ∧ goodFrame (frameIn true (gs.drop 1)).2 (frameIn true (gs.drop 1)).1 = false ∧
     frameIn false (codeGroups false (frameSyms echo0)).1 = (echo0, false)) ∧
    (none ∈ received true [0, 0] ∧ some Sym.sof ∈ received true (codeGroups true [Sym.sof]).1 ∧ Sym.eof ∈ symbols) ∧
    (goodFrame false uplink0 = true ∧ (uplink0.getD 0 0).toNat / 64 = 2 ∧ (uplink0.getD 0 0).toNat % 32 + 1 = link0.cells ∧ leAt 2 2 uplink0 = link0.seq.toNat) ∧
    (let x := link0
     lastAt (x.start + x.beaconOff) (x.period * x.bcnDiv) (linkDev 1999 x).now = some 1000 ∧ x.beaconAt.any (fun p => decide (1000 ≤ p)) = false ∧
     ({ x with beaconAt := some 1000 } : Link).beaconAt.any (fun p => decide (1000 ≤ p)) = true ∧
     lastAt ({ x with start := 1 } : Link).start 1000 (linkDev 0 x).now = none) ∧
    (let x := { link0 with echoFor := some 0 }
     x.en = true ∧ (x.st = .sync ∨ x.st = .up) ∧ goodFrame false echo0 = true ∧ (echo0.getD 0 0).toNat / 64 = 3 ∧ x.echoFor = some (echo0.getD 2 0) ∧
     2 * ((12000 - 10000 + 4) / 8) ≤ 5 * x.cableMax ∧ 5 * x.cableMax < 2 * ((12004 - 10000 + 4) / 8) ∧ link0.echoFor ≠ some (echo0.getD 2 0)) ∧
    (let x := { link0 with st := .align }
     (x.en = true ∧ x.st = .align) ∧ (x.st ≠ .sync ∧ x.st ≠ .up)) := by
  and_intros
  all_goals decide +kernel

/-- Links that send and whose group is under test; a line with a frame before, and one without; and one that sends IDLE. -/
theorem witness_PairAndLinkEvents_line :
    (let test : State := { linkDev 2100 link0 with kiln := { tests := [{ queue := 0, seq := 1, dom := 102, options := 0 }] } }
     test.underTest (99 + 31 / 8) = true ∧ test.sends 31 = false ∧ (linkDev 2100 link0).sends 31 = true) ∧
    (link0.wire = [] ∧ ({ link0 with wire := [(2000, 2, [0, 0])] } : Link).lineEnd = some 2008) ∧
    (let s := { linkDev 2100 link0 with doms := [(102, { rung := 0, target := 0 })] }
     s.sends 31 = true ∧ s.mg.inReset = false ∧ (s.dom (99 + 31 / 8)).rung = 0 ∧ (s.link 31).wire = []) := by
  and_intros
  all_goals decide +kernel

theorem witness_TimebaseEvents :
    (let b : Timebase := { sec := 1, ns := 999999999, frac := 0xFFFFFFFF }
     b.ns.toNat < 1000000000 ∧ b.inc.toNat < 2 ^ 33 ∧ b.sec.toNat + 1 < 2 ^ 48) ∧
    (State.reset.mg.inReset = true ∧ State.reset.mg.resetCause = 0 ∧ (at_ 0 { }).mg.inReset = false ∧
     ({ State.reset with mg := { resetCause := 3 } } : State).mg.resetCause ≠ 0 ∧ (at_ 0 { }).twin.bothHighAt = none ∧ (at_ 0 { }).kiln.stepsDue = [] ∧
     (at_ 0 { }).wit.buffer = []) ∧
    (let b := ({ preset := true } : Timebase)
     b.preset = true ∧ b.ready.ki ≠ 0 ∧ ({ } : Timebase).preset = false) ∧
    (State.reset.twin.role ≠ .standby ∧ ({ twin := { role := .standby } } : State).twin.role = .standby) ∧
    (let s := { at_ 1000000000000000000 { } with tb := { sec := 1000000000, stepWait := true } }
     s.tb.stepWait = true ∧ s.firstScale = true ∧ s.nothingTimed = true ∧
     (let v : Int := (s.now * 2 ^ 32 + s.tb.frac.toNat : Nat) - s.tb.theta * 65536
      0 ≤ v ∧ v < 2 ^ 48 * 1000000000 * 2 ^ 32) ∧
     (at_ 0 { }).tb.stepWait = false ∧ ({ s with tb := { s.tb with timescale := true } } : State).firstScale = false ∧
     ({ s with kiln := { launches := [{ queue := 0, seq := 0, at_ := 0, bindings := [], slots := [] }] } } : State).nothingTimed = false) ∧
    (let s := { at_ 3000000000 { } with tb := { sec := 4000000000 } }
     s.tb.lastOffset + s.tb.lostN * s.tb.syncIvl ≤ s.up ∧ s.twin.role ≠ .standby ∧ s.wit.mode ≠ .replay ∧ s.tb.modeCfg = 0 ∧ s.tb.holdover = false ∧
     s.tb.incHist = [] ∧ ({ s.tb with incHist := [1] } : Timebase).incHist ≠ [] ∧
     (at_ 0 { }).up < (at_ 0 { }).tb.lastOffset + (at_ 0 { }).tb.lostN * (at_ 0 { }).tb.syncIvl) ∧
    (let s : State := { tb := { servo := 0xD000000000000000, ns := 499999999 } }
     s.tb.src = 3 ∧ s.wit.mode ≠ .replay ∧ s.tb.ns.toNat < 500000000 ∧ 500000000 ≤ ({ s.tb with ns := 500000000 } : Timebase).ns.toNat ∧ bit s.tb.servo 60 = true ∧
     State.reset.tb.src ≠ 3 ∧ bit State.reset.tb.servo 60 = false) := by
  and_intros
  all_goals decide +kernel

/-- A tick with nothing to do but to count. -/
theorem witness_TimebaseEvents_tick :
    ((at_ 0 { }).port 0).wait = [] ∧ ((at_ 0 { }).port 1).wait = [] ∧ (at_ 0 { }).hbm.losing = false ∧ (at_ 0 { }).tiles.all (fun e => !e.2.failing) = true ∧
    (List.range 68).all (fun p => !(at_ 0 { }).countsCycles p) = true := by
  and_intros
  all_goals decide +kernel


/-- A Sync of the leader on port 1 with a message of each kind. -/
def msg0 (k : PtpKind) (two : Bool) : PtpMsg :=
  { kind := k, domain := 0, clockId := 5, portNum := 1, seqId := 9, twoStep := two, correction := 0, tsSec := 0, tsNs := 0, ingress := 0, priority1 := 0,
    clockClass := 0, clockAccuracy := 0, variance := 0, priority2 := 0, grandmaster := 0, stepsRemoved := 0, udp := false, logInterval := 0,
    reqClockId := 0xFFFE000000, reqPort := 2 }
def port0 (st : BitVec 3) : EthPort := { ctl := 0x91, ptpState := st }
def ptpDev (b : Timebase) (e : EthPort) : State := { at_ 0 { } with eth := [(0, { ctl := 0x91 }), (1, e)], tb := b }
def led : Timebase := { servo := 0x44300000002E02DD, leader := some (1, 5) }

theorem witness_PtpAndEthernetEvents :
    (let e := port0 2
     let m := msg0 .sync false
     (1 : Nat) < 2 ∧ e.ptpOn = true ∧ m.domain = fld e.ctl 40 8 ∧ (ptpDev led e).wit.mode ≠ .replay ∧ ((ptpDev led e).ptpTake 1 m).isSome = true ∧
     ({ } : EthPort).ptpOn = false ∧ ({ m with domain := 1 } : PtpMsg).domain ≠ fld e.ctl 40 8 ∧
     (({ ptpDev led e with wit := { mode := .replay } } : State).ptpTake 1 m).isNone = true) ∧
    (let m := msg0 .sync true
     ∃ u, (ptpDev led (port0 2)).ptpTake 1 m = some u ∧ u.fromLeader 1 m = true ∧ m.twoStep = true ∧ (msg0 .sync false).twoStep = false ∧ u.tb.sync = none ∧
       u.tb.lastSync = none ∧ (u.port 1).ptpState ≠ 3 ∧ u.tb.foreign.find? (fun f => decide (f.port = 1 ∧ f.msg.clockId = m.clockId ∧ f.msg.portNum = m.portNum)) = none) ∧
    (let m := msg0 .sync false
     ∃ u, (ptpDev { } (port0 3)).ptpTake 1 m = some u ∧ u.fromLeader 1 m = false ∧ (u.port 1).ptpState = 3) ∧
    (let y := msg0 .sync true
     let m := msg0 .followUp false
     ∃ u, (ptpDev { led with sync := some (1, y) } (port0 2)).ptpTake 1 m = some u ∧ u.tb.sync = some (1, y) ∧ y.clockId = m.clockId ∧ y.portNum = m.portNum ∧
       y.seqId = m.seqId ∧ u.fromLeader 1 m = true ∧ (0 : Nat) ≠ 1) ∧
    (let m := msg0 .delayResp false
     ∃ u, (ptpDev { led with lastSync := some (1, 0, 10), delayReq := [(1, 9, 20)] } (port0 2)).ptpTake 1 m = some u ∧ u.tb.lastSync = some (1, 0, 10) ∧
       u.tb.delayReq.find? (fun x => decide (x.1 = 1 ∧ x.2.1 = m.seqId)) = some (1, 9, 20) ∧ m.reqClockId = (u.port 1).clockId ∧ u.fromLeader 1 m = true) ∧
    (let m := msg0 .announce false
     let f : Foreign := { port := 1, msg := m, heard := [1, 2, 3, 4] }
     ∃ u, (ptpDev { led with foreign := [f] } (port0 2)).ptpTake 1 m = some u ∧
       u.tb.foreign.find? (fun f => decide (f.port = 1 ∧ f.msg.clockId = m.clockId ∧ f.msg.portNum = m.portNum)) = some f) := by
  and_intros
  · decide
  iterate 7 decide +kernel
  · exact ⟨_, rfl, by decide +kernel, by decide +kernel, by decide +kernel, by decide +kernel, by decide +kernel, by decide +kernel, by decide +kernel⟩
  · exact ⟨_, rfl, by decide +kernel, by decide +kernel⟩
  · exact ⟨_, rfl, by decide +kernel, by decide +kernel, by decide +kernel, by decide +kernel, by decide +kernel, by decide⟩
  · exact ⟨_, rfl, by decide +kernel, by decide +kernel, by decide +kernel, by decide +kernel⟩
  · exact ⟨_, rfl, by decide +kernel⟩

theorem witness_PtpAndEthernetEvents_ports :
    (port0 2).ptpState = 2 ∧ (port0 3).ptpState = 3 ∧ (port0 0).ptpState ≠ 2 ∧ (port0 0).ptpState ≠ 3 ∧
    (ptpDev led (port0 2)).tcOn = true ∧ (at_ 0 { }).tcOn = false ∧ (msg0 .delayReq false).kind = .delayReq ∧
    ((msg0 .sync false).kind = .sync ∧ (msg0 .sync false).twoStep = false) ∧ ((msg0 .sync true).twoStep = true ∧ (port0 2).residences.length < 16) ∧
    (let r : BitVec 64 × BitVec 16 × BitVec 16 × Int × Nat := (5, 1, 9, 7, 0)
     let e := { port0 2 with residences := [r] }
     (msg0 .followUp false).kind = .followUp ∧ e.residences.find? (sameSync (msg0 .followUp false)) = some r ∧
     (let hit := fun (now : Nat) (r : BitVec 64 × BitVec 16 × BitVec 16 × Int × Nat) =>
        decide (r.1.toNat * 65536 + r.2.1.toNat = 327681 ∧ r.2.2.1 = 9 ∧ r.2.2.2.2 + 1000000000 ≤ now)
      e.residences.any (hit (at_ 999999999 { }).up) = false ∧ e.residences.any (hit (at_ 1000000000 { }).up) = true)) ∧
    (msg0 .announce false).kind = .announce ∧ (msg0 .pdelay false).kind = .pdelay ∧
    (let fr : EthFrame := { dst := 0x011B19000000, ethertype := 0x88F7, tagged := false, vid := 0, pause := false, dstIp := 0, udpPort := 0, fcsOk := true, ptp := some (msg0 .management false) }
     bit (port0 2).ctl 0 = true ∧ fr.fcsOk = true ∧ ({ fr with fcsOk := false } : EthFrame).fcsOk = false ∧ ({ fr with ptp := none } : EthFrame).ptp = none ∧
     (port0 2).consumes fr = true ∧ (port0 2).consumes { fr with ethertype := 0 } = false ∧ bit ({ } : EthPort).ctl 0 = false ∧
     fr.ptp = some (msg0 .management false)) := by
  and_intros
  all_goals decide +kernel

/-- A port that is idle, one that is in transmission, and one that is not enabled; intervals that have passed and that have not. -/
theorem witness_PtpAndEthernetEvents_sending :
    (bit (port0 2).ctl 0 = true ∧ (port0 2).wait = [] ∧ (port0 2).busy ≤ (at_ 0 { }).up ∧ (at_ 0 { }).up < ({ port0 2 with busy := 1 } : EthPort).busy ∧
     bit ({ port0 2 with ctl := 0x90 } : EthPort).ctl 0 = false ∧ ({ port0 2 with wait := [.ptp .sync 0 0 0 0 none] } : EthPort).wait ≠ []) ∧
    ((port0 2).reqAt ≠ some ((at_ 0 { }).up / (at_ 0 { }).tb.reqIvl) ∧
     ({ port0 2 with reqAt := some 0 } : EthPort).reqAt = some ((at_ 0 { }).up / (at_ 0 { }).tb.reqIvl)) ∧
    (let e := { port0 3 with syncAt := some 0, annAt := some 0 }
     e.syncAt = some 0 ∧ e.annAt = some 0 ∧ (at_ 0 { }).up < 0 + logNs (e.log4 20) ∧ (at_ 0 { }).up < 0 + logNs (e.log4 16) ∧
     e.syncAt.all (fun c => decide (c + logNs (e.log4 20) ≤ (at_ (logNs (e.log4 20)) { }).up)) = true ∧
     e.annAt.all (fun c => decide (c + logNs (e.log4 16) ≤ (at_ (logNs (e.log4 16)) { }).up)) = true ∧ (port0 3).syncAt = none) := by
  and_intros
  all_goals decide +kernel

def usb0 : Usb := { speed := 4 }
def usbDev (now : Nat) (u : Usb) : State := { at_ now { } with usb := u, queues := [(7, { enabled := true, reorder := [], ring := [default] })] }

theorem witness_PortEvents :
    (let s := usbDev 0 usb0
     (0 : Nat) < 16 ∧ ({ u3 := true } : Usb).u3 = true ∧ ({ } : Usb).speed = 0 ∧ s.mapPiece 15 = Tbl.get (zeros 32) 15 s.usb.mapSent ∧
     (at_ 15999 { }).up < 0 + 1000 * s.usb.coalesce.toNat ∧ s.usb.u3 = false ∧ s.usb.speed ≠ 0 ∧ s.mapPiece 0 ≠ Tbl.get (zeros 32) 0 s.usb.mapSent ∧
     (let t := usbDev 16000 { usb0 with lastPiece := some 0 }
      t.usb.lastPiece.all (fun c => decide (c + 1000 * t.usb.coalesce.toNat ≤ t.up)) = true)) ∧
    State.reset.mg.inReset = true ∧ (at_ 0 { }).mg.inReset = false ∧ usb0.gets = [] ∧
    (let g : Stream := { queue := 2, seq := 1, src := 0, len := 1, stream := 0 }
     ({ usb0 with gets := [g] } : Usb).gets = [g]) ∧
    ((4 : BitVec 3) ≠ 0 ∧ (4 : BitVec 3).toNat < 5 ∧ 5 ≤ (5 : BitVec 3).toNat) ∧
    (bit ({ usb0 with ctl := 3 } : Usb).ctl 0 = true ∧ bit ({ usb0 with ctl := 3 } : Usb).ctl 1 = true ∧ bit usb0.ctl 0 = false ∧ bit usb0.ctl 1 = false) ∧
    ((at_ 2000000 { }).mg.releasedAt + 2000000 ≤ (at_ 2000000 { }).up ∧ (at_ 1999999 { }).up < (at_ 1999999 { }).mg.releasedAt + 2000000 ∧
     ((0x5A : BitVec 7) = if (at_ 0 { }).mg.twinPref then 0x5B else 0x5A) ∧ ((at_ 0 { }).smbusValue 5).isSome = true ∧ (at_ 0 { }).smbusValue 8 = none) := by
  and_intros
  all_goals decide +kernel

/-- High-Speed just before 100 ms and at it. -/
theorem witness_PortEvents_highspeed :
    (at_ 99999999 { }).up < (at_ 99999999 { }).mg.releasedAt + 100000000 ∧ ¬ ((at_ 100000000 { }).up < (at_ 100000000 { }).mg.releasedAt + 100000000) := by
  and_intros
  all_goals decide +kernel

/-! ## Witnesses: the twin, the resets and the recorder -/

def twinDev (now : Nat) (t : Twin) : State := { at_ now { } with twin := t }

theorem witness_TwinStateEvents_heartbeats :
    (let s := twinDev 10000 { linkState := 3, pair := .synced, hbCount := 9, hbEnd := 9 }
     s.now / 1000 ≠ s.twin.hbCount ∧ s.twin.linkState = 3 ∧ s.twin.wdGone = false ∧ s.mg.inReset = false ∧ s.now / 1000 % 10 = 0 ∧ s.twin.pair ≠ .none ∧
     s.now / 1000 ≠ s.twin.hbEnd ∧ s.together = true ∧ s.twin.hbSeen = false ∧ s.twin.hbMissed < 2 ∧ 2 ≤ ({ s.twin with hbMissed := 2 } : Twin).hbMissed) ∧
    ((twinDev 0 { }).now / 1000 = (twinDev 0 { }).twin.hbCount ∧ (twinDev 0 { }).now / 1000 = (twinDev 0 { }).twin.hbEnd ∧ (twinDev 0 { }).twin.linkState ≠ 3 ∧
     ({ wdGone := true } : Twin).wdGone = true ∧ (twinDev 0 { }).together = false ∧ (twinDev 0 { }).twin.role = .solo) ∧
    ((twinDev 0 { role := .active, pair := .catchup }).together = true ∧ (twinDev 0 { role := .standby, pair := .bulk }).together = true ∧
     (twinDev 0 { role := .standby, pair := .bulk }).mirrored = false ∧ (twinDev 0 { role := .standby, pair := .synced }).mirrored = true ∧
     ({ peerActive := true } : Twin).peerActive = true) ∧
    ((twinDev 0 { }).pinConflict = false ∧ (twinDev 21 { active := true, peerActive := true, bothHighAt := some 0 }).pinConflict = true ∧
     (twinDev 20 { active := true, peerActive := true, bothHighAt := some 0 }).pinConflict = false) := by
  and_intros
  all_goals decide +kernel

/-- Whatever the peer's TWIN_PREF, one of the two devices meets each case of a conflict of the pins (log entry 91). -/
theorem witness_TwinStateEvents_conflict :
    (∃ s : State, s.pinConflict = true ∧ Config.peerPref ≠ s.mg.twinPref) ∧ (∃ s : State, s.pinConflict = true ∧ Config.peerPref = s.mg.twinPref) := by
  have h : ∀ b : Bool, ({ twinDev 21 { active := true, peerActive := true, bothHighAt := some 0 } with mg := { twinPref := b } } : State).pinConflict = true := by decide +kernel
  exact ⟨⟨_, h (!Config.peerPref), by simp⟩, ⟨_, h Config.peerPref, rfl⟩⟩

theorem witness_TwinStateEvents_changes :
    (let s := fun (now : Nat) => twinDev now { role := .standby, pair := .lost, declared := some 1000, peerLowAt := some 900 }
     (s 0).twin.declared = some 1000 ∧ (s 0).twin.role = .standby ∧ (s 0).twin.pair = .lost ∧ (s 0).twin.peerActive = false ∧
     max 1000 ((s 0).twin.peerLowAt.getD 1000) = 1000 ∧ (s 1049).up < 1000 + 50 ∧ 1000 + 50 ≤ (s 1050).up ∧ (s 2999).up < 1000 + 2000 ∧
     1000 + 2000 ≤ (s 3000).up ∧ (s 4999).up < 1000 + 4000 ∧ 1000 + 4000 ≤ (s 5000).up ∧ (s 0).twin.blocked = false ∧ (twinDev 0 { }).twin.declared = none) ∧
    (({ pair := .bulk, role := .active } : Twin).pair = .bulk ∧ ({ pair := .bulk, role := .active } : Twin).role ≠ .standby ∧
     ({ pair := .bulk, role := .standby } : Twin).role = .standby ∧ ({ } : Twin).pair ≠ .bulk ∧ ({ } : Twin).pair ≠ .final) ∧
    (let s := twinDev 0 { pair := .final, role := .standby }
     let qs : List (Nat × Queue) := [(0, { outst := [default] }), (4095, { })]
     s.twin.pair = .final ∧ s.twin.role = .standby ∧ s.bindings.any (fun e => e.2.catchup) = false ∧ (∀ e ∈ qs, e.1 = 0 ∨ e.2.outst = [])) ∧
    (({ detachAt := some (50, 0, 1) } : Twin).detachAt = some (50, 0, 1) ∧ (twinDev 49 { }).now < 50 ∧ 50 ≤ (twinDev 50 { }).now ∧ ({ } : Twin).detachAt = none) ∧
    (let s := twinDev 50 { swapAt := some (50, 0, 1), role := .active, pair := .synced }
     s.twin.swapAt = some (50, 0, 1) ∧ s.twin.role = .active ∧ (50 : Nat) ≤ s.now ∧ s.mirrored = true ∧ s.onDemandRunning = false ∧ s.twin.entries = [] ∧
     ({ s.twin with pair := .final } : Twin).pair ≠ .synced ∧ ({ s.twin with entries := [(1, [])] } : Twin).entries ≠ []) ∧
    (let s := fun (now : Nat) => twinDev now { swapAt := some (50, 0, 1), role := .standby, pair := .synced }
     (s 99).now < 50 + 50 ∧ 50 + 50 ≤ (s 100).now ∧ (s 149).now < 50 + 100 ∧ (s 100).twin.peerActive = false ∧ (s 100).twin.blocked = false) ∧
    ((at_ 0 { }).dom 105).rung ≠ 0 ∧ (({ doms := [(105, { rung := 0 })] } : State).dom 105).rung = 0 ∧ (3 : Nat) < 4 := by
  and_intros
  all_goals decide +kernel

/-- A device that joins, and a peer's pin that has been low for 50 ns and for 49. -/
theorem witness_TwinStateEvents_pin :
    ((twinDev 0 { attachBy := some (0, 1) }).joining = true ∧ (twinDev 0 { attachBy := some (0, 1) }).twin.hbSeen = false ∧ (twinDev 0 { }).joining = false ∧
     (twinDev 0 { role := .active, pair := .synced }).joining = false) ∧
    (let s := fun (now : Nat) => twinDev now { swapAt := some (50, 0, 1), role := .standby, pair := .synced, peerLowAt := some 60 }
     (s 110).peerLow = true ∧ 50 + 50 ≤ (s 110).now ∧ (s 110).now < 50 + 100 ∧ (s 109).peerLow = false ∧ (s 109).now < 50 + 100) := by
  and_intros
  all_goals decide +kernel

/-- Lock messages that a STANDBY device takes, whose answer to whether the peer is in holdover is free, and one that joins takes, 2 ns off and more. -/
theorem witness_TimebaseEvents_lock :
    (let s := fun (b : Bool) => { twinDev 0 { role := .standby, pair := .synced } with tb := { holdover := b } }
     (s true).twin.role = .standby ∧ (s (Config.peerFree 0)).freeIx = 0 ∧ Config.peerFree (s (Config.peerFree 0)).freeIx = (s (Config.peerFree 0)).tb.holdover ∧
     Config.peerFree (s (!Config.peerFree 0)).freeIx ≠ (s (!Config.peerFree 0)).tb.holdover) ∧
    (let s := twinDev 0 { attachBy := some (0, 1) }
     let th := fun (a : Int) => a - (fld s.twin.dly 0 32 : Int) - 0 - Config.twinDelay
     s.twin.role ≠ .standby ∧ s.joining = true ∧ (th (Config.twinDelay + fld s.twin.dly 0 32 + 131072)).natAbs ≤ 131072 ∧
     131072 < (th (Config.twinDelay + fld s.twin.dly 0 32 + 131073)).natAbs) ∧
    ((twinDev 0 { }).twin.role ≠ .standby ∧ (twinDev 0 { }).joining = false) := by
  refine ⟨⟨rfl, rfl, rfl, ?_⟩, ⟨by decide, by decide, ?_, ?_⟩, by decide, by decide⟩
  · show Config.peerFree 0 ≠ !Config.peerFree 0
    cases Config.peerFree 0 <;> simp
  · show (Config.twinDelay + _ + 131072 - _ - 0 - Config.twinDelay : Int).natAbs ≤ 131072
    omega
  · show 131072 < (Config.twinDelay + _ + 131073 - _ - 0 - Config.twinDelay : Int).natAbs
    omega

/-- A flit from its first 60 bytes (16 R533). -/
def flitOf (b : List Byte) : List Byte := b ++ w32Bytes (crc32 b)

/-- The 32-bit word after 60 bytes is the number its four bytes came from. -/
theorem w32At_append (b : List Byte) (h : b.length = 60) (c : W32) : w32At 60 (b ++ w32Bytes c) = c := by
  have hd : (b ++ w32Bytes c).drop 60 = w32Bytes c := by rw [← h]; simp
  have hc := c.isLt
  unfold w32At leAt
  rw [hd]
  apply BitVec.eq_of_toNat_eq
  simp only [w32Bytes, leBytes, List.take, leNat, BitVec.toNat_ofNat]
  omega

theorem flitOf_good (b : List Byte) (h : b.length = 60) : flitGood (flitOf b) = true := by
  have h1 : (flitOf b).length = 64 := by simp [flitOf, w32Bytes, leBytes, h]
  have h2 : w32At 60 (flitOf b) = crc32 ((flitOf b).take 60) := by
    rw [show (flitOf b).take 60 = b by rw [← h]; simp [flitOf]]
    exact w32At_append b h _
  simp [flitGood, h1, h2]

def data0 : List Byte := leBytes 1 1 ++ leBytes 1 0 ++ leBytes 2 1 ++ zeros 56

theorem witness_TwinLogEvents :
    (let s := twinDev 0 { linkState := 3 }
     let f := flitOf data0
     s.twin.linkState = 3 ∧ s.mg.inReset = false ∧ flitGood [] = false ∧ flitGood f = true ∧ bit (BitVec.ofNat 64 (leAt 1 1 f)) 1 = false ∧ leAt 0 1 f ≠ 0 ∧
     BitVec.ofNat 16 (leAt 2 2 f) = s.twin.rxSeq + 1 ∧ BitVec.ofNat 16 (leAt 2 2 f) ≠ ({ s.twin with rxSeq := 1 } : Twin).rxSeq + 1 ∧
     bit (BitVec.ofNat 64 (leAt 1 1 f)) 0 = false ∧ flitGood (flitOf (zeros 60)) = true ∧ leAt 0 1 (flitOf (zeros 60)) = 0) ∧
    (let s := twinDev 0 { role := .standby, pair := .synced }
     let en := leBytes 8 1 ++ zeros 216
     let ahead := leBytes 8 2 ++ zeros 216
     s.twin.role = .standby ∧ s.mirrored = true ∧ 224 ≤ en.length ∧ s.twin.received = [] ∧ leAt 0 8 en = s.twin.applied.toNat + 1 ∧
     s.twin.applied.toNat + 1 < leAt 0 8 ahead ∧ leAt 0 8 (zeros 224) ≤ s.twin.applied.toNat ∧ (zeros 223).length < 224) ∧
    (let m : Mirror := { pkt := default, arrival := 0 }
     ({ } : Twin).mirrors = [] ∧ ({ mirrors := [m] } : Twin).mirrors = [m]) ∧
    (let d : Done := { record := { seq := 1 }, commit := 0, mirrored := true, capBytes := 0, tput := false, vals := [] }
     let v : Queue := { reorder := [d], depthLog2 := 8 }
     (4095 : Nat) < 4096 ∧ v.turn = some d ∧ d.mirrored = true ∧ v.stopped = false ∧ v.ring.length < v.depth ∧ v.overflow = [] ∧
     ({ v with overflow := [default] } : Queue).overflow ≠ [] ∧ ({ } : Queue).turn = none ∧ ({ v with reorder := [{ d with mirrored := false }] } : Queue).turn = some { d with mirrored := false }) ∧
    (let v := { bind0 with catchup := true }
     let s := { bound0 0 v with twin := { role := .standby, pair := .catchup } }
     s.binding 0 = some v ∧ v.catchup = true ∧ v.running = false ∧ v.toStart = false ∧ s.mirrored = true ∧ s.phys v.ltile = some 0 ∧ (s.tile 0).slotOf 0 = none ∧
     s.binding 1 = none) := by
  refine ⟨⟨rfl, rfl, by decide, flitOf_good _ rfl, ?_, ?_, ?_, ?_, ?_, flitOf_good _ rfl, ?_⟩, ?_⟩
  all_goals and_intros
  all_goals decide +kernel

/-- The seventh and the eighth time that the expected flit comes again in vain; a link with nothing to send and one with 256 flits unacknowledged. -/
theorem witness_TwinLogEvents_line :
    (({ retryRun := 6 } : Twin).retryRun + (if true then 1 else 0) < 8 ∧ 8 ≤ ({ retryRun := 7 } : Twin).retryRun + (if true then 1 else 0)) ∧
    (twinDev 0 { }).twin.linkState ≠ 3 ∧
    (let s := twinDev 0 { linkState := 3 }
     s.twin.linkState = 3 ∧ s.twin.out = [] ∧ s.twin.part = []) ∧
    256 ≤ (twinDev 0 { linkState := 3, replayBuf := List.replicate 256 (0, []) }).twin.replayBuf.length := by
  and_intros
  all_goals decide +kernel

/-- A log of one entry with a stamp of 5 ns, of an END and of a GAP. -/
def logDev (now : Nat) (mode : WitMode) (typ : Nat) : State := { at_ now { } with wit := { mode := mode, log := witBytes typ 0 5 0 (zeros 8), by_ := some (0, 1) } }

theorem witness_ResetAndRecorderEvents :
    (1 ≤ 3 ∧ State.reset.mg.inReset = true ∧ (at_ 0 { }).mg.inReset = false ∧ ({ warmAt := [(0, 2)] } : Mgmt).warmAt.any (fun w => decide (w.2 = 2 ∧ w.1 ≤ (at_ 0 { }).up)) = true ∧
     ({ } : Mgmt).warmAt.any (fun w => decide (w.2 = 3 ∧ w.1 ≤ (at_ 0 { }).up)) = false) ∧
    (({ bootSel := 4 } : Mgmt).bootSel = 4 ∧ 5 ≤ ({ bootSel := 5 } : Mgmt).bootSel.toNat ∧ ({ } : Mgmt).bootSel.toNat < 2 ∧ ({ } : Mgmt).identityOk = false) ∧
    (let s := { at_ 0 { } with mg := { dev := .startUp, inReset := false, startUpTest := true } }
     s.serviceDue = true ∧ State.reset.serviceDue = false ∧ ({ s with mg := { s.mg with resetCause := 1 } } : State).serviceDue = true) ∧
    (let l : FwLoad := { queue := 0, seq := 1, object := [], ok := true }
     ({ load := some l } : Mgmt).load = some l ∧ ({ } : Mgmt).load = none) ∧
    (({ startAt := some (9, 7, stop0) } : Witness).startAt = some (9, 7, stop0) ∧ (at_ 8 { }).now < 9 ∧ 9 ≤ (at_ 9 { }).now ∧ (at_ 0 { }).wit.startAt = none) ∧
    (let w : Witness := { mode := .record, lost := 1 }
     w.lost ≠ 0 ∧ w.mode = .record ∧ witFill w + 65536 ≤ witRoom ∧ ({ } : Witness).lost = 0) ∧
    (let s := logDev 5 .replay 3
     let e := s.logRest.take (entrySize s.logRest)
     s.wit.mode = .replay ∧ s.logRest ≠ [] ∧ logType e ≠ 0x3E ∧ logType e ≠ 0x3F ∧ logStamp e ≤ s.now ∧ logType e = 3 ∧ s.wit.by_ = some (0, 1)) ∧
    (let s := logDev 4 .replay 3
     s.now < logStamp s.logRest ∧ s.now < logStamp (s.logRest.take (entrySize s.logRest))) ∧
    (let s := logDev 5 .replay 0x3E
     s.wit.mode = .replay ∧ s.logRest ≠ [] ∧ logStamp s.logRest ≤ s.now ∧ logType s.logRest = 0x3E ∧ logType (s.logRest.take (entrySize s.logRest)) = 0x3E) ∧
    (let s := logDev 5 .replay 0x3F
     logType s.logRest = 0x3F ∧ logType (s.logRest.take (entrySize s.logRest)) = 0x3F) ∧
    ((at_ 0 { }).wit.mode ≠ .replay ∧ (at_ 0 { }).logRest = []) := by
  and_intros
  all_goals decide +kernel

/-! ## Witnesses: the rules that are stated one by one -/

/-- Addresses of the management block: without a register, in front of one, and behind one. -/
theorem witness_UnnamedRegisters :
    svc.Begins (packet 4 (hd 0 0 0 0x20 1 0 0) []) ∧ (svc.entered (packet 4 (hd 0 0 0 0x20 1 0 0) [])).peek 0x20 = none ∧
    svc.Begins (packet 4 (hd 0 0 0 0x20 2 0 0) []) ∧ (svc.entered (packet 4 (hd 0 0 0 0x20 2 0 0) [])).peek 0x28 = none ∧
    svc.Begins (packet 4 (hd 0 0 0 0xF8 2 0 0) []) ∧ (svc.entered (packet 4 (hd 0 0 0 0xF8 2 0 0) [])).peek 0xF8 = none ∧
    ((svc.entered (packet 4 (hd 0 0 0 0xF8 2 0 0) [])).peek 0x100).isSome = true ∧
    (let u := svc.entered (packet 4 (hd 0 0 0 0x10 2 0 0) [])
     svc.Begins (packet 4 (hd 0 0 0 0x10 2 0 0) []) ∧ (u.peek 0x10).isSome = true ∧ u.peek 0x18 = none ∧ (u.clearRc 0x10).peek 0x18 = none) ∧
    svc.Begins (packet 5 (hd 0 0 0 0x20 1 0 0) []) ∧ (svc.entered (packet 5 (hd 0 0 0 0x20 1 0 0) [])).peek 0x20 = none :=
  by
    and_intros
    any_goals first | exact begins_of (by decide +kernel) | decide +kernel

/-- The last word of each bank of the last slot: the bank in force, the other, and one with a swap pending. -/
theorem witness_CoefficientBanks :
    (∀ b : Bool, (Instr.leSlotBankWrite (hd 0 0 0 0 0 0 0) 15 7 b 63 1).packet.any (fun p => begins svc p) = true) ∧
    (svc.slot 127).bankSel ≠ true ∧ (svc.slot 127).swapAt = none ∧ (svc.slot 127).pend = [] ∧ (svc.slot 127).paired = false ∧
    (127 : Nat) ∉ svc.wit.snapSlots ∧
    (let s := { svc with slots := [(0, { st := .armed, swapAt := some 5 })] }
     (s.slot 0).swapAt.isSome = true ∧ (Instr.leSlotBankWrite (hd 0 0 0 0 0 0 0) 0 0 true 0 1).packet.any (fun p => begins s p) = true) := by
  and_intros
  all_goals decide +kernel

/-- A LAUNCH of a binding and of the last slot, before its count and at it, and the UNBIND of the slot and of the binding that it names. -/
theorem witness_LaunchAtItsCount :
    (let l : Launch := { queue := 1, seq := 2, at_ := 100, bindings := [0], slots := [127] }
     let s := { bound0 100 bind0 with kiln := { launches := [l] }, slots := [(127, { st := .armed })] }
     s.kiln.launches.find? (fun l => decide (l.queue = 1 ∧ l.seq = 2)) = some l ∧ l.at_ ≤ s.now ∧ (at_ 99 { }).now < l.at_ ∧
     s.kiln.launches.find? (fun l => decide (l.queue = 1 ∧ l.seq = 3)) = none ∧ l ∈ s.kiln.launches ∧ s.binding 0 = some bind0 ∧ (0 : Nat) ∈ l.bindings ∧
     (1 : Nat) ∉ l.bindings ∧ (s.slot 127).st = .armed ∧ (127 : Nat) ∈ l.slots ∧ (126 : Nat) ∉ l.slots) ∧
    (svcWith { reserved := true }).Begins (packet 0x1002 (hd 1 0 0 0x900 0 0 0) []) ∧
    (svcWith { reserved := true }).Begins (packet 0x1002 (hd 1 0 0 0x301 0 0 0) []) :=
  ⟨by and_intros <;> decide +kernel, begins_of (by decide +kernel), begins_of (by decide +kernel)⟩

theorem witness_WatchdogExpiry :
    State.reset.mg.inReset = true ∧ ({ wdGone := true } : Twin).wdGone = true ∧ (at_ 0 { }).mg.inReset = false ∧ (at_ 0 { }).twin.wdGone = false ∧
    (twinDev 0 { pair := .bulk }).mg.inReset = false ∧ (twinDev 0 { pair := .bulk }).twin.wdGone = false ∧ (twinDev 0 { pair := .bulk }).twin.pair ≠ .none := by
  and_intros
  all_goals decide +kernel

/-- The two edges, and a device that sends no pulse. -/
theorem witness_PulsePerSecondOut :
    bit ({ servo := 0x1000000000000000 } : Timebase).servo 60 = true ∧ bit ({ servo := 0 } : Timebase).servo 60 = false ∧
    (at_ 1000000000 { }).tb.ns = 0 ∧ (at_ 1100000000 { }).tb.ns.toNat = 100000000 := by
  and_intros
  all_goals decide +kernel

/-- A job of the least priority behind a context of the greatest that was swapped out. -/
theorem witness_ReadyListOrder :
    (let c := { liveCtx with job := { liveCtx.job with prio := 7 } }
     let s := { at_ 0 { } with kiln := { swapped := [{ ctx := c, saved := [], home := 1, runnable := true }] } }
     ∃ e ∈ s.kiln.swapped, e.runnable = true ∧ s.eligible 0 e.ctx.job.image = true ∧ e.ctx.job.prio > ({ prio := 0, queue := 1 } : Job).prio) :=
  ⟨_, List.mem_singleton.mpr rfl, rfl, by decide +kernel, by decide⟩

/-- A TSTORE whose second lane would take index 2^47. -/
theorem witness_RandomAndHash_index :
    let c := ctx [(1, 0x7FFFFFFFFFFF)]
    (dev c { }).Runs 0 (wd 1 2 3 0 (2 ^ 20)) c ∧ Fmt.c (wd 1 2 3 0 (2 ^ 20)) = 0 ∧ Fmt.vmod (wd 1 2 3 0 (2 ^ 20)) = 0 ∧ Fmt.lt (wd 1 2 3 0 (2 ^ 20)) = 2 ∧
    bit (c.mask (Fmt.k (wd 1 2 3 0 (2 ^ 20)))) 1 = true ∧ 2 ^ 47 ≤ (c.reg (Fmt.d (wd 1 2 3 0 (2 ^ 20)))).toNat % 2 ^ 47 + 1 :=
  ⟨runs_dev _ _, rfl, rfl, rfl, by decide +kernel, by decide +kernel⟩

/-! ## Witnesses: the whole machine -/

theorem witness_StepRunsFront :
    ({ pending := [.timebaseTick] } : State).pending = .timebaseTick :: [] ∧ State.reset.pending = [] := ⟨rfl, rfl⟩

theorem witness_ResetAndHardWired : (1 : Nat) ≠ 0 ∧ (31 : Nat) ≠ 0 := by decide

/-- Each way in which an instruction ends without its effect, and one instruction of each group that has it. -/
theorem witness_InstructionIssueAndFrame :
    Instr.form (.add 0 0) = some (0, 0, true) ∧ Instr.form (.add 68 0) = some (68, 0, true) ∧ (at_ 0 { }).builtinAt 68 = none ∧ (at_ 0 { }).issuing 0 = none ∧
    (at_ 0 { }).builtinAt 0 = none ∧
    (let c := { ctx [] with job := { image := image, tput := true }, trap := true }
     (dev c { }).issuing 0 = some c ∧ (dev c { }).builtinAt 0 = none ∧ c.trap = true ∧ c.job.tput = true) ∧
    (let c := { ctx [] with job := { image := { image with sections := [] } } }
     (dev c { }).issuing 0 = some c ∧ (c.trap && c.job.tput) = false ∧ c.inCode = false) ∧
    (let c : Ctx := { ctx [] with doomed := some (St.dataError, locStore 0 1 0) }
     (dev c { }).issuing 0 = some c ∧ (dev c { }).builtinAt 0 = none ∧ c.doomed = some (St.dataError, locStore 0 1 0)) ∧
    (let T : Tile := { mem := Mem.store (storeBase 3) (leBytes 8 (0x24 * 2 ^ 56)) [] }
     codeGood 0 ((dev (ctx []) T).bytesAt 0 3 0 8) = false ∧ ((dev (ctx []) T).tile 0).cur = some (ctx []) ∧ ((dev (ctx []) T).tile 0).upsets 3 0 8 = [] ∧
     (ctx []).inCode = true) ∧
    (fld (0x0C00000000000000 : W64) 56 8 = 0x0C ∧ fld (0x0201000000000000 : W64) 48 8 = 1 ∧ 0x24 ≤ fld (0xFF00000000000000 : W64) 56 8) ∧
    Instr.form (.add 0 2) = some (0, 2, false) ∧ Instr.form (.add 0 0x100000000000) = some (0, 0x100000000000, true) ∧
    (ctx []).guarded 0x100000000000 = false := by
  and_intros
  all_goals decide +kernel

theorem witness_InstructionIssueAndFrame_runs :
    (dev (ctx []) { }).Issues 0 (ctx []) ∧ (dev (ctx [(1, 2)]) { }).Runs 0 (wd 31 1 0 0 0) (ctx [(1, 2)]) ∧
    Instr.form (.addi 0 (wd 31 1 0 0 0)) = some (0, wd 31 1 0 0 0, true) ∧
    Instr.form (.pand 0 (wd 7 7 7 0 0)) = some (0, wd 7 7 7 0 0, true) ∧ (dev (ctx []) { }).Runs 0 (wd 7 7 7 0 0) (ctx []) ∧
    Instr.form (.vadd 0 (wd 31 30 29 0 0)) = some (0, wd 31 30 29 0 0, true) ∧ (dev (ctx []) { }).Runs 0 (wd 31 30 29 0 0) (ctx []) ∧
    Instr.form (.vcmp 0 (wd 3 1 2 0 0)) = some (0, wd 3 1 2 0 0, true) ∧ (dev (ctx []) { }).Runs 0 (wd 3 1 2 0 0) (ctx []) :=
  ⟨(runs_dev [] 0).toIssues, runs_dev _ _, by decide +kernel, by decide +kernel, runs_dev _ _, by decide +kernel, runs_dev _ _, by decide +kernel, runs_dev _ _⟩

theorem witness_WellFormedCompletes : (Instr.timebaseTick).wf ∧ (Instr.nop 67 0).wf ∧ ¬ (Instr.nop 68 0).wf :=
  ⟨by show True; trivial, by show 67 < 68; decide, test_wf_refuses_tile⟩

theorem reset_inv : State.reset.Inv := by
  refine { hbm := rfl, tiles := ?_, queue := ?_ }
  · intro e h; cases h
  · intro c h; cases h

/-- A state with commands that wait, a byte of HBM and a byte of a store. -/
theorem witness_StepKeepsInvariant :
    ({ pending := [.nop 0 0, .timebaseTick], hbm := { mem := [(0x400000000, 1)] }, tiles := [(0, { mem := [(5, 1)] })] } : State).Inv := by
  refine { hbm := by decide, tiles := ?_, queue := ?_ }
  · intro e h
    simp only [List.mem_singleton] at h
    subst h
    decide
  · intro c h
    simp only [List.mem_cons, List.not_mem_nil, or_false] at h
    rcases h with rfl | rfl
    · show 0 < 68; decide
    · show True; trivial

/-! ## Results that the spec's text works out -/

/-- A register of the executing context of tile 0 after an instruction, and its pc. -/
def regAfter (n : Nat) (r : Res) : Option (W64 × Nat) :=
  match r with
  | .next u => (u.tile 0).cur.map (fun c => (c.reg n, c.pc))
  | _ => none

/-- The two words that 05 R146 spells. -/
theorem test_words : tileInstr 0 0x0200029400000020 = some (.addi 0 0x029400000020) ∧ tileInstr 0 0x05003000FFFFFFFD = some (.br 0 0x3000FFFFFFFD) := by decide +kernel

/-- K28.5 and D16.2, the two characters of IDLE, at either disparity (09 R293; IEEE 802.3, clause 36). -/
theorem test_idle : (codeGroup false { k := true, b := 0xBC }).1 = 0b0011111010 ∧ (codeGroup true { k := true, b := 0xBC }).1 = 0b1100000101 ∧
    (codeGroup true { k := false, b := 0x50 }).1 = 0b1001000101 := by decide +kernel

/-- ADDI g5, g5, 32 by the word of 05 R146. -/
theorem test_addi_word : regAfter 5 (exec (.addi 0 0x029400000020) (dev (ctx [(5, 10)]) { })) = some (42, 1) := by decide +kernel

/-- The branch back three instructions, taken when p1 is 0 (05 R146), and not taken when it is 1. -/
theorem test_br_word : regAfter 0 (exec (.br 0 0x3000FFFFFFFD) (dev { ctx [] with pc := 9 } { })) = some (0, 6) := by decide +kernel
theorem test_br_guard : regAfter 0 (exec (.br 0 0x3000FFFFFFFD) (dev { ctx [] with pc := 9, p := [(1, true)] } { })) = some (0, 10) := by decide +kernel

/-- The address of 13 R429: pseudo-channel 24, column granule 0 of row 512, slice 7, set 3. -/
theorem test_hbm_map : pcOfGranule (List.range 32) 0x20001A = 24 ∧ granuleL (List.range 32) 0x20001A = 0x10000 ∧ sliceOf 0x400034 = 7 ∧ setOf 0x400034 = 3 := by
  decide +kernel

/-- The compare of PW0 in Plant A (08, worked example). -/
theorem test_duty : Pair.compare 240000 0x0A7B6DB6 = (139654, false) := by decide +kernel

/-- Rows 0 and 1 of the column of 03's worked example. -/
theorem test_multiplier : fmulT 0x40000000 0x40400000 = (0x40C00000, 0) ∧ fmulT 0x7F000000 0x40800000 = (0x7F800000, Fl.of_ ||| Fl.nx) ∧
    (fmulT 0x3FC00000 0xC0000000).1 = 0xC0400000 ∧ fadd 0x7F800000 0x7FC00000 = (0x7FC00000, Fl.iv) := by decide +kernel

/-- The tensor and block 5 of 04's worked example. -/
def bq0 : Bq :=
  { four := false, size := 16, maxEsc := 2, seq := 0, ratio := 0x5000, groups := 1, blocks := 8, code := 0, scale := 0, grog := 0, chan := 0, used := 0, cap := 8 }
def block5 : List W32 :=
  [0x3F000000, 0xBE800000, 0x3F400000, 0x3F800000, 0xBF800000, 0x3E000000, 0x42200000, 0, 0x3EC00000, 0xBF000000, 0x3E800000, 0x3F600000, 0xBF200000, 0x3D800000,
   0x3E400000, 0xBD800000]

theorem test_quantise :
    let b := quantBlock bq0 8 (rneCode 127) block5
    b.code bq0 5 = [5, 0, 0, 0, 0x3F, 0xE0, 0x5F, 0x7F, 0x81, 0x10, 0, 0, 0x30, 0xC1, 0x20, 0x6F, 0xB1, 0x08, 0x18, 0xF8] ∧
    b.entry 5 = leBytes 4 0x20092005 ∧ b.grog 5 = leBytes 4 0x51000506 ∧ b.flags = Fl.nx := by decide +kernel

theorem test_quantise_full :
    let b := quantBlock bq0 0 (rneCode 127) block5
    b.scale = 0x350B ∧ b.crushed = 3 ∧ b.refused = true ∧ b.codes.getD 6 0 = 127 ∧ b.flags &&& (Fl.grogFull ||| Fl.crushed) = Fl.grogFull ||| Fl.crushed := by decide +kernel

theorem test_dequantise : dequant 63 0x2009 = (0x37F2, Fl.nx) ∧ dequant 127 0x2009 = (0x3C01, Fl.nx) ∧ dequant 0 0x2009 = (0, 0) := by decide +kernel

/-- The downlink of CL0 in Plant B begins as 09's worked example says. -/
theorem test_downlink : (downFrame 0 32 false false 0x1A2B (0x10000000 + 25200 + 4800) [1, 2]).take 12 =
    [0x1F, 0, 0x2B, 0x1A, 0x30, 0x75, 0, 0x10, 1, 0, 2, 0] := by decide +kernel
end Sys2Proof.Tests
end

section
/-!
SUPPORT. How an accepted command of the host has its effect (10 R321, R322): what the entry of a command holds, and the command run on the
state in which its effect begins.
-/

set_option Elab.async false

namespace Sys2Proof.Machine

open Sys2Proof

/-! ## What an event and a witness entry leave unchanged -/

@[simp] theorem State.event_twin (ev inst n : Nat) (s : State) : (s.event ev inst n).twin = s.twin := by
  obtain ⟨e, h⟩ := State.event_eq ev inst n s
  rw [h]

@[simp] theorem State.event_queues (ev inst n : Nat) (s : State) : (s.event ev inst n).queues = s.queues := by
  obtain ⟨e, h⟩ := State.event_eq ev inst n s
  rw [h]

@[simp] theorem State.event_tb (ev inst n : Nat) (s : State) : (s.event ev inst n).tb = s.tb := by
  obtain ⟨e, h⟩ := State.event_eq ev inst n s
  rw [h]

@[simp] theorem State.event_mg (ev inst n : Nat) (s : State) : (s.event ev inst n).mg = s.mg := by
  obtain ⟨e, h⟩ := State.event_eq ev inst n s
  rw [h]

/-- A witness entry changes the recorder, and event counters. -/
theorem State.witness_eq (typ src stamp : Nat) (pl : List Byte) (s : State) :
    ∃ w e, s.witness typ src stamp pl = { s with wit := w, evc := e } := by
  unfold State.witness
  split
  · unfold State.witPut
    dsimp only
    split <;> exact ⟨_, _, (State.event_eq ..).choose_spec⟩
  · exact ⟨s.wit, s.evc, rfl⟩

@[simp] theorem State.witness_twin (typ src stamp : Nat) (pl : List Byte) (s : State) : (s.witness typ src stamp pl).twin = s.twin := by
  obtain ⟨w, e, h⟩ := State.witness_eq typ src stamp pl s
  rw [h]

@[simp] theorem State.witness_queues (typ src stamp : Nat) (pl : List Byte) (s : State) : (s.witness typ src stamp pl).queues = s.queues := by
  obtain ⟨w, e, h⟩ := State.witness_eq typ src stamp pl s
  rw [h]

@[simp] theorem State.witness_tb (typ src stamp : Nat) (pl : List Byte) (s : State) : (s.witness typ src stamp pl).tb = s.tb := by
  obtain ⟨w, e, h⟩ := State.witness_eq typ src stamp pl s
  rw [h]

/-! ## The entry of a command (10 R321) -/

@[simp] theorem State.received_twin (p : Packet) (s : State) : (s.received p).twin = s.twin := by simp [State.received]

@[simp] theorem State.received_queue (p : Packet) (s : State) (q : Nat) : (s.received p).queue q = s.queue q := by
  simp [State.received, State.queue]

@[simp] theorem State.received_now (p : Packet) (s : State) : (s.received p).now = s.now := by simp [State.received, State.now]

theorem Packet.inlined_opcode (bs : List Byte) (p : Packet) : (p.inlined bs).opcode = p.opcode := by
  unfold Packet.inlined
  split <;> rfl

/-- A descriptor in the place of inline data is taken out of the flags, and nothing else of the header changes. -/
theorem Packet.inlined_hdr (bs : List Byte) (p : Packet) : ∃ f, (p.inlined bs).hdr = { p.hdr with flags := f } := by
  unfold Packet.inlined
  split
  · exact ⟨p.hdr.flags, rfl⟩
  · exact ⟨_, rfl⟩

@[simp] theorem State.outOf_opcode (p : Packet) (s : State) : (s.outOf p).pkt.opcode = p.opcode := Packet.inlined_opcode _ _

@[simp] theorem State.outOf_op (p : Packet) (s : State) : (s.outOf p).pkt.op = p.op := by simp [Packet.op]

theorem State.outOf_hdr (p : Packet) (s : State) : ∃ f, (s.outOf p).pkt.hdr = { p.hdr with flags := f } := Packet.inlined_hdr _ _

@[simp] theorem State.outOf_q (p : Packet) (s : State) : (s.outOf p).pkt.q = p.q := by
  obtain ⟨f, h⟩ := State.outOf_hdr p s
  simp [Packet.q, h]

@[simp] theorem State.outOf_w0 (p : Packet) (s : State) : (s.outOf p).pkt.hdr.w0 = p.hdr.w0 := by
  obtain ⟨f, h⟩ := State.outOf_hdr p s
  rw [h]

@[simp] theorem State.outOf_w1 (p : Packet) (s : State) : (s.outOf p).pkt.hdr.w1 = p.hdr.w1 := by
  obtain ⟨f, h⟩ := State.outOf_hdr p s
  rw [h]

@[simp] theorem State.outOf_w2 (p : Packet) (s : State) : (s.outOf p).pkt.hdr.w2 = p.hdr.w2 := by
  obtain ⟨f, h⟩ := State.outOf_hdr p s
  rw [h]

@[simp] theorem State.outOf_seq (p : Packet) (s : State) : (s.outOf p).seq = (s.queue p.q).nextSeq := by
  simp [State.outOf, State.outstFor]

@[simp] theorem State.outOf_accept (p : Packet) (s : State) : (s.outOf p).accept = s.now := rfl

/-! ## From arrival to effect (10 R321, R322) -/

theorem State.arrived_dropArrival {p : Packet} {s : State} (h : s.twin.mirrors = []) : (s.arrived p).dropArrival = s.received p := by
  have ht : ({ (s.received p).twin with mirrors := [] } : Twin) = (s.received p).twin := by
    rw [State.received_twin, ← h]
  show (s.received p).setTwin { (s.received p).twin with mirrors := [] } = _
  rw [ht]
  rfl

/-- No check turns away a command that the device takes. -/
theorem State.Takes.turnAway {s : State} {p : Packet} (h : s.Takes p) : (s.arrived p).turnAway ((s.received p).arrival p) = none := by
  show (if !(s.arrived p).headerGood p then _ else _) = none
  have hf : ((s.arrived p).queue ((s.received p).arrival p).pkt.q).tagHeld ((s.received p).arrival p).pkt.hdr.tag = none := h.fresh
  simp only [h.header, hf, h.allowed, Bool.not_true, Bool.false_eq_true, if_false]

theorem State.submit_of_takes {s : State} {p : Packet} (h : s.Takes p) :
    s.submit p = (s.received p).accept ((s.received p).arrival p) := by
  have ha : (s.received p).setTwin { (s.received p).twin with mirrors := (s.received p).twin.mirrors ++ [(s.received p).arrival p] } = s.arrived p := by
    simp [State.arrived, h.alone]
  have hm : (s.arrived p).twin.mirrors = (s.received p).arrival p :: [] := rfl
  have ho : (s.arrived p).mirrorsFirst ((s.received p).arrival p).pkt = false := h.own
  have hi : (s.received p).twin.mirrors.isEmpty = true := by simp [h.alone]
  calc s.submit p = (if (s.received p).twin.mirrors.isEmpty then State.takeArrivals 1 (s.arrived p) else s.arrived p) := by
        rw [← ha]
        simp only [State.submit, h.running, Bool.false_eq_true, if_false]
        rfl
    _ = State.takeArrivals 1 (s.arrived p) := by rw [hi, if_pos rfl]
    _ = State.takeArrivals 0 ((s.arrived p).dropArrival.accept ((s.received p).arrival p)) := by
        simp only [State.takeArrivals, hm, h.turnAway, ho, Bool.false_eq_true, if_false]
    _ = (s.received p).accept ((s.received p).arrival p) := by rw [State.arrived_dropArrival h.alone]; rfl

/-- The state in which an accepted command begins is the one that its acceptance writes. -/
theorem State.entered_eq (p : Packet) (s : State) :
    (((s.received p).enter (s.outOf p)).reply p Code.accepted (s.outOf p).seq 0 s.now).event 0x1C0 0 1 = s.entered p := by
  obtain ⟨f, h⟩ := State.outOf_hdr p s
  have hr : (s.outOf p).replayed = false := rfl
  have ha : (s.outOf p).accept = s.now := rfl
  simp only [State.entered, State.enter, State.updQueue_eq, h, hr, ha, State.outOf_seq, State.received_queue, Packet.q, Bool.false_eq_true, if_false]

theorem State.Takes.mirrorsFirst {s : State} {p : Packet} (h : s.Takes p) : (s.received p).mirrorsFirst p = false := h.own

/-- A command whose named inputs can be read, and which no self-test holds back, runs. -/
theorem State.Starts.submit_eq {s : State} {p : Packet} (h : s.Starts p) (hop : p.op ≠ 1) :
    s.submit p = (s.accepting p).2.1.run (s.outOf p) s.now := by
  have ho : (s.received p).outstFor p ((s.received p).captureOf p) s.now ((s.received p).arrival p).pin = s.outOf p := rfl
  have ha : ((s.received p).arrival p).arrival = s.now := State.received_now p s
  have hp : ((s.received p).arrival p).pkt = p := rfl
  rw [State.submit_of_takes h.toTakes, State.accept]
  simp only [hp, ha, hop, if_false, State.received_now, h.mirrorsFirst, Bool.false_eq_true, ho, State.entered_eq]
  show (match (s.accepting p).2.2 with
    | some loc => (s.accepting p).2.1.inputLost (s.outOf p) loc
    | none => (s.accepting p).2.1.begin_ (s.outOf p) s.now) = _
  rw [h.named]
  show (s.accepting p).2.1.begin_ (s.outOf p) s.now = _
  rw [State.begin_, h.ready]

/-- A command of the control plane has its effect on the state in which it begins. -/
theorem State.Begins.submit_eq {s : State} {p : Packet} (h : s.Begins p) (hop : p.op ≠ 1) (hd : p.isData = false) :
    s.submit p = (s.begun p).runOp (s.outOf p) s.now := by
  have hc : (s.outOf p).pkt.isData = false := by simpa [Packet.isData] using hd
  have hr : ((s.accepting p).2.1.readEntry (s.outOf p)).2 = none := h.readable
  rw [h.toStarts.submit_eq hop, State.run, hc]
  simp only [Bool.false_eq_true, if_false, State.withCaptured, hr]
  rfl

end Sys2Proof.Machine
end

section
/-!
PROOFS. REG_READ and REG_WRITE of an address that names no register (01 R12; 10 R333).
-/

set_option Elab.async false

namespace Sys2Proof.Machine

open Sys2Proof

/-! ## REG_READ and REG_WRITE as they begin -/

@[simp] theorem packet_op (op : BitVec 16) (h : Header) (pl : List Byte) : (packet op h pl).op = op.toNat := rfl

theorem exec_regRead {s : State} {h : Header} {pl : List Byte} (hb : s.Begins (packet 0x0004 h pl)) :
    exec (.regRead h pl) s = .next ((s.begun (packet 0x0004 h pl)).regRead (s.outOf (packet 0x0004 h pl))) := by
  have hop : (s.outOf (packet 0x0004 h pl)).pkt.op = 4 := State.outOf_op _ _
  have hr : s.submit (packet 0x0004 h pl) = _ := hb.submit_eq (by simp) (by simp [Packet.isData])
  show Host.Outcome.next (s.submit (packet 0x0004 h pl)) = _
  rw [hr]
  simp only [State.runOp, hop]

theorem exec_regWrite {s : State} {h : Header} {pl : List Byte} (hb : s.Begins (packet 0x0005 h pl)) :
    exec (.regWrite h pl) s = .next ((s.begun (packet 0x0005 h pl)).regWrite (s.outOf (packet 0x0005 h pl))) := by
  have hop : (s.outOf (packet 0x0005 h pl)).pkt.op = 5 := State.outOf_op _ _
  have hr : s.submit (packet 0x0005 h pl) = _ := hb.submit_eq (by simp) (by simp [Packet.isData])
  show Host.Outcome.next (s.submit (packet 0x0005 h pl)) = _
  rw [hr]
  simp only [State.runOp, hop]

/-- The RC fields of an address clear where it names a register (01 R8). -/
def State.clearNamed (a : Nat) (s : State) : State := if (s.peek a).isSome then s.clearRc a else s

theorem State.clearNamed_none {a : Nat} {s : State} (h : s.peek a = none) : s.clearNamed a = s := by simp [State.clearNamed, h]

theorem State.clearNamed_some {a : Nat} {x : W64} {s : State} (h : s.peek a = some x) : s.clearNamed a = s.clearRc a := by
  simp [State.clearNamed, h]

/-- A REG_READ of one register (10 R333). -/
theorem State.regRead_one {o : Outst} {u : State} (hw : o.pkt.hdr.w1 = 1) :
    let v := u.peek o.pkt.hdr.w0.toNat
    u.regRead o = (u.clearNamed o.pkt.hdr.w0.toNat).complete o.pkt.q o.seq
      { status := if v.isSome then St.done else St.flagged, r0 := v.getD 0 } { } := by
  have h2 : o.pkt.hdr.w1 ≠ 2 := by simp [hw]
  simp only [State.regRead, if_neg h2, List.map, List.all, Bool.and_true]
  rfl

/-- A REG_READ of two registers: both values are of one count, before the first one's fields clear. -/
theorem State.regRead_two {o : Outst} {u : State} (hw : o.pkt.hdr.w1 = 2) :
    let a := o.pkt.hdr.w0.toNat
    u.regRead o = ((u.clearNamed a).clearNamed (a + 8)).complete o.pkt.q o.seq
      { status := if (u.peek a).isSome && (u.peek (a + 8)).isSome then St.done else St.flagged, r0 := (u.peek a).getD 0,
        r1 := (u.peek (a + 8)).getD 0 } { } := by
  simp only [State.regRead, if_pos hw, List.map, List.all, Bool.and_true]
  rfl

/-- A write to an address that names no register fails. -/
theorem State.pokeLogged_none {a : Nat} {s : State} (h : s.peek a = none) (v m : W64) (stamp : Nat) (c : Cause) :
    s.pokeLogged a v m stamp c = none := by
  simp [State.pokeLogged, h]

/-- The location of a register is kind 5 above its address (10 R332). -/
theorem locReg_eq {x : Nat} (hx : x < 2 ^ 40) : locReg x = BitVec.ofNat 64 (5 * 2 ^ 60 + x) := by
  have hor : (5 <<< 60 ||| x) = 5 * 2 ^ 60 + x := by
    rw [Nat.shiftLeft_eq, Nat.mul_comm, Nat.two_pow_add_eq_or_of_lt (by omega)]
  rw [locReg, at64, at64, Nat.mod_eq_of_lt hx, Nat.shiftLeft_zero, ← BitVec.ofNat_or, hor]

end Sys2Proof.Machine

open Sys2Proof Sys2Proof.Machine

/-- Settles O30: the fields of an address that names no register read as zero and clear nothing, and its write fails before anything is
written. -/
theorem unnamedRegisters : Obligations.UnnamedRegisters := by
  unfold Obligations.UnnamedRegisters
  intro s h pl
  refine ⟨fun hb => ?_, fun hb hn => ?_, fun x hx => locReg_eq hx⟩
  · have w0 : (s.outOf (packet 0x0004 h pl)).pkt.hdr.w0 = h.w0 := State.outOf_w0 _ _
    have w1 : (s.outOf (packet 0x0004 h pl)).pkt.hdr.w1 = h.w1 := State.outOf_w1 _ _
    refine ⟨fun hn => ⟨fun hw => ?_, fun hw hn' => ?_, fun x hw hx => ?_⟩, fun x hw hx hn hc => ?_⟩
    · rw [exec_regRead hb, State.regRead_one (w1.trans hw), w0, State.clearNamed_none hn, hn, State.outOf_q, State.outOf_seq]
      rfl
    · rw [exec_regRead hb, State.regRead_two (w1.trans hw), w0, State.clearNamed_none hn, State.clearNamed_none hn', hn, hn',
        State.outOf_q, State.outOf_seq]
      rfl
    · rw [exec_regRead hb, State.regRead_two (w1.trans hw), w0, State.clearNamed_none hn, State.clearNamed_some hx, hn, hx,
        State.outOf_q, State.outOf_seq]
      rfl
    · rw [exec_regRead hb, State.regRead_two (w1.trans hw), w0, State.clearNamed_some hx, State.clearNamed_none hc, hx, hn,
        State.outOf_q, State.outOf_seq]
      rfl
  · have w0 : (s.outOf (packet 0x0005 h pl)).pkt.hdr.w0 = h.w0 := State.outOf_w0 _ _
    rw [exec_regWrite hb, State.regWrite, w0, State.pokeLogged_none hn, State.outOf_q, State.outOf_seq]
    rfl
end

section
/-!
SUPPORT. What a failing read of HBM does to accepted work: without a pair it touches neither the twin nor a queue (13 R434), and in a pair it
makes the device leave it (14 R479), so that a ROLE_SWAP under way completes (14 R463).
-/

set_option Elab.async false

namespace Sys2Proof.Machine

open Sys2Proof

/-! ## Neither the twin nor a queue changes -/

/-- From `s` to `t` the twin logic and every queue are as they were. -/
def State.SameWork (s t : State) : Prop := t.twin = s.twin ∧ t.queues = s.queues

theorem State.SameWork.rfl (s : State) : s.SameWork s := ⟨Eq.refl _, Eq.refl _⟩

theorem State.SameWork.trans {s t u : State} (h : s.SameWork t) (k : t.SameWork u) : s.SameWork u := ⟨k.1.trans h.1, k.2.trans h.2⟩

theorem State.SameWork.queue {s t : State} (h : s.SameWork t) (q : Nat) : t.queue q = s.queue q := by
  simp only [State.queue, h.2]

theorem State.setMg_sameWork (v : Mgmt) (s : State) : s.SameWork (s.setMg v) := ⟨rfl, rfl⟩
theorem State.setUsb_sameWork (v : Usb) (s : State) : s.SameWork (s.setUsb v) := ⟨rfl, rfl⟩
theorem State.setHbm_sameWork (v : Hbm) (s : State) : s.SameWork (s.setHbm v) := ⟨rfl, rfl⟩
theorem State.setPc_sameWork (n : Nat) (v : Pc) (s : State) : s.SameWork (s.setPc n v) := ⟨rfl, rfl⟩

theorem State.event_sameWork (ev inst n : Nat) (s : State) : s.SameWork (s.event ev inst n) :=
  ⟨State.event_twin .., State.event_queues ..⟩

theorem State.witness_sameWork (typ src stamp : Nat) (pl : List Byte) (s : State) : s.SameWork (s.witness typ src stamp pl) :=
  ⟨State.witness_twin .., State.witness_queues ..⟩

theorem State.raiseAlert_sameWork (a : Alert) (s : State) : s.SameWork (s.raiseAlert a) := by
  have ha : s.SameWork (s.alert a) := by
    unfold State.alert
    split
    · exact .rfl s
    · exact State.setMg_sameWork _ s
  have hw : ∀ t : State, t.SameWork t.signalWake := by
    intro t
    unfold State.signalWake
    split
    · exact State.setUsb_sameWork _ t
    · exact .rfl t
  unfold State.raiseAlert
  split
  · exact ha.trans (hw _)
  · exact ha

theorem State.journalNow_sameWork (c : Cause) (target : W64) (before after : List Byte) (s : State) :
    s.SameWork (s.journalNow c target (some before) (some after)) :=
  (State.setMg_sameWork _ s).trans (State.event_sameWork ..)

theorem State.recordFailure_sameWork {f : State → State} {s : State} (h : s.SameWork (f s)) (a : Alert) : s.SameWork (s.recordFailure f a) :=
  ((h.trans (State.setMg_sameWork _ _)).trans (State.raiseAlert_sameWork a _)).trans (State.journalNow_sameWork ..)

theorem State.health_sameWork (f : Health → Health) (s : State) : s.SameWork (s.health f) := State.setMg_sameWork _ s

theorem State.logBurst_sameWork (b : Nat) (s : State) : s.SameWork (s.logBurst b) := by
  unfold State.logBurst
  split
  · exact .rfl s
  · exact State.setHbm_sameWork _ s

theorem State.writeBack_sameWork (x : Line) (s : State) : s.SameWork (s.writeBack x) :=
  ((State.setHbm_sameWork _ s).trans (State.event_sameWork ..)).trans (State.event_sameWork ..)

theorem State.evictFor_sameWork (a : Nat) (s : State) : s.SameWork (s.evictFor a) := by
  unfold State.evictFor
  split
  · exact .rfl s
  · split
    · exact .rfl s
    · refine State.SameWork.trans ?_ (State.setHbm_sameWork _ _)
      split
      · exact State.writeBack_sameWork _ s
      · exact .rfl s

theorem State.enterLine_sameWork (x : Line) (front : Bool) (s : State) : s.SameWork (s.enterLine x front) :=
  (State.evictFor_sameWork _ s).trans (State.setHbm_sameWork _ _)

/-! ## A pseudo-channel fails (13 R434) -/

/-- The record of a pseudo-channel's failure, before the device of a pair leaves it. -/
theorem State.pcFailed_eq {n : Nat} {s : State} (hf : (s.pc n).failed = false) :
    ∃ y, s.SameWork y ∧ s.pcFailed n = if y.twin.pair = .none then y.setHbm { y.hbm with losing := true } else y.leavePair 7 := by
  refine ⟨_, (State.recordFailure_sameWork (State.setPc_sameWork n { s.pc n with failed := true } s) .pseudoChannel).trans
    (State.health_sameWork (fun h => { h with pcs := h.pcs ++ [n] }) _), ?_⟩
  simp only [State.pcFailed, hf, Bool.false_eq_true, if_false]

theorem State.pcFailed_sameWork (n : Nat) {s : State} (hp : s.twin.pair = .none) : s.SameWork (s.pcFailed n) := by
  cases hf : (s.pc n).failed with
  | true =>
    simp only [State.pcFailed, hf, if_true]
    exact .rfl s
  | false =>
    obtain ⟨y, hy, h⟩ := State.pcFailed_eq hf
    rw [h, if_pos (hy.1 ▸ hp)]
    exact hy.trans (State.setHbm_sameWork _ y)

/-- An uncorrectable burst is counted on its pseudo-channel and logged (13 R431, R434). -/
def State.burstLost (b : Nat) (s : State) : State :=
  let p := s.pcOf b
  let c := s.pc p
  ((s.setPc p { c with uncorrected := satAdd c.uncorrected 1, uncAt := (s.up :: c.uncAt).take 16 }).event 0x203 p 1).logBurst b

/-- Of an uncorrectable burst, the sixteenth one within 1 s fails the pseudo-channel. -/
theorem State.meetBurst_uncorrectable (b : Nat) {kind : Nat} (hk : kind ≠ 1) (s : State) :
    let ts := (s.up :: (s.pc (s.pcOf b)).uncAt).take 16
    s.meetBurst b kind = if ts.length = 16 ∧ (s.burstLost b).up ≤ ts.getLastD 0 + 1000000000 then (s.burstLost b).pcFailed (s.pcOf b)
      else s.burstLost b := by
  rw [State.meetBurst, if_neg hk]
  rfl

theorem State.burstLost_sameWork (b : Nat) (s : State) : s.SameWork (s.burstLost b) :=
  ((State.setPc_sameWork ..).trans (State.event_sameWork ..)).trans (State.logBurst_sameWork ..)

theorem State.burstLost_up (b : Nat) (s : State) : (s.burstLost b).up = s.up := by
  have h : (s.burstLost b).tb = s.tb := by
    unfold State.burstLost State.logBurst
    dsimp only
    split <;> simp
  simp only [State.up, State.now, h]

theorem State.burstLost_failed (b : Nat) (s : State) : ((s.burstLost b).pc (s.pcOf b)).failed = (s.pc (s.pcOf b)).failed := by
  have hl : ∀ t : State, (t.logBurst b).hbm.pcs = t.hbm.pcs := by
    intro t
    unfold State.logBurst
    split <;> rfl
  rw [State.pc, State.burstLost, hl, State.event_hbm, ← State.pc, State.setPc_pc]

theorem State.meetBurst_sameWork (b kind : Nat) {s : State} (hp : s.twin.pair = .none) : s.SameWork (s.meetBurst b kind) := by
  by_cases hk : kind = 1
  · rw [State.meetBurst, if_pos hk]
    exact (State.setPc_sameWork ..).trans (State.event_sameWork ..)
  · have hl := State.burstLost_sameWork b s
    rw [State.meetBurst_uncorrectable b hk]
    split
    · exact hl.trans (State.pcFailed_sameWork _ (hl.1 ▸ hp))
    · exact hl

theorem State.loadLine_sameWork (a : Nat) {s : State} (hp : s.twin.pair = .none) : s.SameWork (s.loadLine a).1 := by
  have hfold : ∀ (l : List (Nat × Nat)) (t : State), s.SameWork t → s.SameWork (l.foldl (fun s e => s.meetBurst e.1 e.2) t) := by
    intro l
    induction l with
    | nil => exact fun t h => h
    | cons e l ih => exact fun t h => ih _ (h.trans (State.meetBurst_sameWork _ _ (h.1 ▸ hp)))
  unfold State.loadLine
  dsimp only
  split
  · exact State.logBurst_sameWork a s
  · exact (hfold _ s (.rfl s)).trans (State.event_sameWork ..)

theorem State.useLine_sameWork (a : Nat) (write whole : Bool) {s : State} (hp : s.twin.pair = .none) :
    s.SameWork (s.useLine a write whole).1 := by
  unfold State.useLine
  cases s.cached a with
  | some x =>
    have hd : ∀ (t : State) (v : Hbm) (e d : Prop) [Decidable e] [Decidable d],
        t.SameWork (if e then ((if d then t.setHbm v else t), some a) else (t, none)).1 := by
      intro t v e d _ _
      split
      · split
        · exact State.setHbm_sameWork v t
        · exact .rfl t
      · exact .rfl t
    exact ((State.event_sameWork ..).trans (State.setHbm_sameWork _ _)).trans (hd ..)
  | none =>
    have he := State.event_sameWork 0x209 (s.sliceAt a) 1 s
    have hl := he.trans (State.loadLine_sameWork a (he.1 ▸ hp))
    dsimp only
    split
    · exact he.trans (State.enterLine_sameWork ..)
    · split
      · exact hl
      · exact hl.trans (State.enterLine_sameWork ..)

/-- Accesses to lines change the state line after line, whether or not one of them failed. -/
theorem State.useLines_cons (lo : Nat) (write whole : Bool) (m : Nat) (ls : List Nat) (s : State) :
    (s.useLines lo write whole (m :: ls)).1 = ((s.useLine m write whole).1.useLines lo write whole ls).1 := by
  suffices h : ∀ (ls : List Nat) (r r' : State × Option Nat), r.1 = r'.1 →
      (ls.foldl (fun r m =>
        let x := r.1.useLine m write whole
        (x.1, match r.2 with
          | some b => some b
          | none => x.2.map (failsAt lo))) r).1 =
      (ls.foldl (fun r m =>
        let x := r.1.useLine m write whole
        (x.1, match r.2 with
          | some b => some b
          | none => x.2.map (failsAt lo))) r').1 from h ls _ _ rfl
  intro ls
  induction ls with
  | nil => exact fun r r' h => h
  | cons m ls ih => exact fun r r' h => ih _ _ (congrArg (fun t : State => (t.useLine m write whole).1) h)

theorem State.useLines_sameWork (lo : Nat) (write whole : Bool) (ls : List Nat) {s : State} (hp : s.twin.pair = .none) :
    s.SameWork (s.useLines lo write whole ls).1 := by
  induction ls generalizing s with
  | nil => exact .rfl s
  | cons m ls ih =>
    have h := State.useLine_sameWork m write whole hp
    rw [State.useLines_cons]
    exact h.trans (ih (h.1 ▸ hp))

/-! ## A command that has completed is no longer outstanding (10 R327) -/

/-- No accepted command `sq` of queue `q` waits for its completion, and the device is in no pair. -/
structure State.Gone (q sq : Nat) (s : State) : Prop where
  done : s.outstOf q sq = none
  unpaired : s.twin.pair = .none

theorem State.Gone.congr {q sq : Nat} {s t : State} (h : s.SameWork t) (g : s.Gone q sq) : t.Gone q sq :=
  ⟨by rw [State.outstOf, h.queue]; exact g.done, by rw [h.1]; exact g.unpaired⟩

theorem State.complete_of_outstOf_none {q sq : Nat} {s : State} (h : s.outstOf q sq = none) (r : Record) (e : Effects) :
    s.complete q sq r e = s := by
  simp [State.complete, State.completeAt, h]

/-- A commit entry is a matter of the twin's log, and leaves the pair state and every queue. -/
theorem State.commitEntry_keeps (e : Effects) (r : Record) (s : State) :
    (s.commitEntry e r).2.2.twin.pair = s.twin.pair ∧ (s.commitEntry e r).2.2.queues = s.queues := by
  unfold State.commitEntry
  split
  · exact ⟨rfl, rfl⟩
  · dsimp only
    split <;> exact ⟨rfl, rfl⟩

theorem State.reorderPut_pair (q : Nat) (r : Record) (e : Effects) (cap : Nat) (s : State) :
    (s.reorderPut q r e cap).twin.pair = s.twin.pair :=
  (State.commitEntry_keeps e r s).1

theorem State.reorderPut_outst (q : Nat) (r : Record) (e : Effects) (cap : Nat) (s : State) :
    ((s.reorderPut q r e cap).queue q).outst = (s.queue q).outst := by
  have h : (s.commitEntry e r).2.2.queue q = s.queue q := by simp only [State.queue, (State.commitEntry_keeps e r s).2]
  simp [State.reorderPut, State.updQueue_eq, h]

theorem State.bareExt_sameWork (o : Outst) (r : Record) (s : State) : s.SameWork (s.bareExt o r).2 := by
  unfold State.bareExt
  split
  · exact .rfl s
  · split <;> exact ⟨rfl, rfl⟩

/-- A completion takes the command from its queue, where no invocations share a record there. -/
theorem State.complete_gone {q sq : Nat} {s : State} (hm : (s.queue q).merged = none) (hp : s.twin.pair = .none) (r : Record) (e : Effects) :
    (s.complete q sq r e).Gone q sq := by
  cases ho : s.outstOf q sq with
  | none =>
    rw [State.complete_of_outstOf_none ho]
    exact ⟨ho, hp⟩
  | some o =>
    have hx : ∀ r, ((s.bareExt o r).2.queue q).merged = none := fun r => by rw [(State.bareExt_sameWork o r s).queue]; exact hm
    simp only [State.complete, State.completeAt, ho, hx]
    refine ⟨?_, ?_⟩
    · rw [State.outstOf, State.reorderPut_outst, State.setQueue_queue]
      simp
    · rw [State.reorderPut_pair]
      show (s.bareExt o _).2.twin.pair = _
      rw [(State.bareExt_sameWork ..).1, hp]

/-! ## A device leaves its pair (14 R463, R479) -/

theorem Tbl.get_map {α : Type} {g : α → α} {d : α} (h : g d = d) (k : Nat) (t : Tbl α) :
    Tbl.get d k (t.map (fun e => (e.1, g e.2))) = g (Tbl.get d k t) := by
  induction t with
  | nil => exact h.symm
  | cons e t ih =>
    obtain ⟨j, a⟩ := e
    rw [List.map_cons, Tbl.get_cons, Tbl.get_cons, ih]
    split <;> rfl

theorem State.unmirror_merged (q : Nat) (s : State) : (s.unmirror.queue q).merged = (s.queue q).merged := by
  have hr : ({ Queue.reset q with reorder := (Queue.reset q).reorder.map (fun d => { d with mirrored := true }) } : Queue) = Queue.reset q := by
    unfold Queue.reset
    split <;> rfl
  have h : s.unmirror.queue q = { s.queue q with reorder := (s.queue q).reorder.map (fun d => { d with mirrored := true }) } :=
    Tbl.get_map (g := fun v : Queue => { v with reorder := v.reorder.map (fun d => { d with mirrored := true }) }) hr q s.queues
  rw [h]

/-- A device that is not STANDBY takes a new twin state: but for a message to the peer that is all that changes of the twin, and no queue is
touched. -/
theorem State.twinChange_keeps {v : Twin} {s : State} (hr : s.twin.role ≠ .standby) :
    ∃ o, ((s.setTwin { v with out := o }).SameWork (s.twinChange v)) := by
  obtain ⟨o, ho⟩ : ∃ o, (if v.pair = s.twin.pair then v else { v with out := v.out ++ [.pairState v.pair] }) = { v with out := o } := by
    split
    · exact ⟨v.out, rfl⟩
    · exact ⟨_, rfl⟩
  by_cases hc : v.role = s.twin.role ∧ v.pair = s.twin.pair
  · exact ⟨v.out, by rw [State.twinChange, if_pos hc]; exact .rfl _⟩
  · refine ⟨o, ?_⟩
    rw [State.twinChange, if_neg hc, ho]
    dsimp only
    rw [if_neg (fun h => hr h.1)]
    split
    · exact State.journalNow_sameWork ..
    · exact (State.journalNow_sameWork ..).trans (State.witness_sameWork ..)

/-- A ROLE_SWAP of an ACTIVE device is under way under the number `sq` of queue `q`, and no ATTACH is. -/
structure State.Swapping (q sq : Nat) (s : State) : Prop where
  role : s.twin.role = .active
  paired : s.twin.pair = .synced
  swap : ∃ c, s.twin.swapAt = some (c, q, sq)
  attach : s.twin.attachBy = none
  merged : (s.queue q).merged = none

theorem State.Swapping.congr {q sq : Nat} {s t : State} (h : s.SameWork t) (w : s.Swapping q sq) : t.Swapping q sq := by
  obtain ⟨h1, h2, h3, h4, h5⟩ := w
  exact ⟨by rw [h.1, h1], by rw [h.1, h2], by rw [h.1]; exact h3, by rw [h.1, h4], by rw [h.queue, h5]⟩

/-- Where the device leaves its pair, the ROLE_SWAP under way completes (14 R463). -/
theorem State.leavePair_gone {q sq : Nat} {s : State} (w : s.Swapping q sq) (reason : BitVec 4) : (s.leavePair reason).Gone q sq := by
  obtain ⟨c, hc⟩ := w.swap
  have hr : s.unmirror.twin.role ≠ .standby := by
    show s.twin.role ≠ .standby
    rw [w.role]
    decide
  have hf : s.unmirror.forgetWork = s.unmirror := by rw [State.forgetWork, if_neg hr]
  have hm : (s.unmirror.queue q).merged = none := by rw [State.unmirror_merged, w.merged]
  obtain ⟨o, ht, hq⟩ := State.twinChange_keeps (s := s.unmirror)
    (v := { s.unmirror.twin with leaveReason := reason, role := .solo, pair := .none, active := false,
                                 peerLowAt := if s.unmirror.twin.peerActive then s.unmirror.twin.peerLowAt else some s.unmirror.up,
                                 out := s.unmirror.twin.out ++ [.leaving] }) hr
  rw [State.leavePair, if_neg (by rw [w.paired]; decide)]
  dsimp only
  rw [hf]
  generalize s.unmirror.twinChange _ = y at ht hq ⊢
  have ha : y.twin.attachBy = none := by rw [ht]; exact w.attach
  have hs : y.twin.swapAt = some (c, q, sq) := by rw [ht]; exact hc
  have hp : y.twin.pair = .none := by rw [ht]; rfl
  have hy : (y.queue q).merged = none := by rw [← hm, State.queue, hq]; rfl
  have he : y.attachEnds St.flagged = y := by rw [State.attachEnds, ha]
  rw [he, State.swapEnds, hs]
  exact State.complete_gone (s := y.setTwin { y.twin with swapAt := none }) hy hp _ _

/-! ## The first burst of a read is the sixteenth loss of its channel within 1 s (13 R434) -/

/-- The burst at `b` is uncorrectable, no line is in the cache, and each pseudo-channel has lost fifteen bursts since power-on, which is at
most 1 s ago. -/
structure State.Failing (b : Nat) (s : State) : Prop where
  upset : s.hbm.upset = [(b, 2)]
  cache : s.hbm.cache = []
  pcs : ∀ n < 32, s.pc n = { mapped := true, uncAt := List.replicate 15 0 }
  young : s.up ≤ 1000000000

theorem pcOfGranule_lt {slots : List Nat} (h : slots.length = 32) (g : Nat) : pcOfGranule slots g < 32 := by
  unfold pcOfGranule
  rw [if_pos h]
  have hm : ∀ x, x % 32 < 2 ^ 5 := fun x => Nat.mod_lt x (by decide)
  exact Nat.xor_lt_two_pow (Nat.xor_lt_two_pow (Nat.xor_lt_two_pow (Nat.xor_lt_two_pow (hm _) (hm _)) (hm _)) (hm _)) (hm _)

theorem State.Failing.pcOf_lt {b : Nat} {s : State} (h : s.Failing b) (a : Nat) : s.pcOf a < 32 := by
  refine pcOfGranule_lt ?_ _
  have hf : (List.range 32).filter (fun n => (s.pc n).mapped) = List.range 32 :=
    List.filter_eq_self.2 (fun n hn => by rw [h.pcs n (List.mem_range.1 hn)])
  rw [State.pcSlots, hf, List.length_range]

theorem State.Failing.event {b : Nat} {s : State} (h : s.Failing b) (ev inst n : Nat) : (s.event ev inst n).Failing b := by
  obtain ⟨h1, h2, h3, h4⟩ := h
  have ht : (s.event ev inst n).up = s.up := by simp [State.up, State.now]
  refine ⟨by rw [State.event_hbm, h1], by rw [State.event_hbm, h2], fun n hn => ?_, by rw [ht]; exact h4⟩
  rw [State.pc, State.event_hbm]
  exact h3 n hn

/-- The burst fails its pseudo-channel, and the device leaves its pair. -/
theorem State.Failing.meetBurst_gone {b q sq : Nat} {s : State} (h : s.Failing b) (w : s.Swapping q sq) : (s.meetBurst b 2).Gone q sq := by
  have hc := h.pcs _ (h.pcOf_lt b)
  have hl : ((s.burstLost b).pc (s.pcOf b)).failed = false := by rw [State.burstLost_failed, hc]
  have ht : ((s.up :: (s.pc (s.pcOf b)).uncAt).take 16).getLastD 0 = 0 := by rw [hc]; rfl
  obtain ⟨y, hy, he⟩ := State.pcFailed_eq hl
  have wy : y.Swapping q sq := w.congr ((State.burstLost_sameWork b s).trans hy)
  rw [State.meetBurst_uncorrectable b (by decide), if_pos ⟨by rw [hc]; rfl, by rw [State.burstLost_up, ht]; exact h.young⟩, he,
    if_neg (by rw [wy.paired]; decide)]
  exact State.leavePair_gone wy 7

theorem State.Failing.useLine_gone {b q sq : Nat} {s : State} (h : s.Failing b) (w : s.Swapping q sq) :
    (s.useLine (b / 128 * 128) false false).1.Gone q sq := by
  have hn : s.cached (b / 128 * 128) = none := by simp [State.cached, h.cache]
  have he := h.event 0x209 (s.sliceAt (b / 128 * 128)) 1
  have we := w.congr (State.event_sameWork 0x209 (s.sliceAt (b / 128 * 128)) 1 s)
  unfold State.useLine
  simp only [hn]
  generalize s.event 0x209 _ 1 = t at he we ⊢
  have hf : (t.pc (t.pcOf (b / 128 * 128))).failed = false := by rw [he.pcs _ (he.pcOf_lt _)]
  have hb : t.badBursts (b / 128 * 128) 128 = [(b, 2)] := by
    have : b / 128 * 128 / 32 * 32 ≤ b ∧ b < b / 128 * 128 + 128 := by omega
    simp [State.badBursts, he.upset, this]
  simp only [State.loadLine, hf, hb, Bool.false_and, Bool.false_eq_true, if_false]
  exact (he.meetBurst_gone we).congr (State.event_sameWork ..)

/-- A read that begins with the burst. -/
theorem State.Failing.hbmRead_gone {b n q sq : Nat} {s : State} (h : s.Failing b) (w : s.Swapping q sq) (hn : 0 < n) :
    (s.hbmRead b n).2.1.Gone q sq := by
  obtain ⟨ls, hl⟩ : ∃ ls, linesOf b n = b / 128 * 128 :: ls := by
    rw [linesOf, if_neg (by omega), List.range_succ_eq_map, List.map_cons, Nat.add_zero]
    exact ⟨_, rfl⟩
  have hg := h.useLine_gone w
  show (s.useLines b false false (linesOf b n)).1.Gone q sq
  rw [hl, State.useLines_cons]
  exact hg.congr (State.useLines_sameWork _ _ _ _ hg.unpaired)

end Sys2Proof.Machine
end

section
/-!
PROOFS. REG_WRITE journals the cause that its queue holds when it is carried out (10 R346). Where the read of its own entry makes the
device leave its pair, and a ROLE_SWAP under way then completes under the number that this command has, that is another cause than the one
with which it was accepted.
-/

set_option Elab.async false

namespace Sys2Proof.Machine

open Sys2Proof

/-- The journal entry of a change of a register (10 R345, R346). -/
theorem State.journalNow_entry (c : Cause) (target : W64) (before after : List Byte) (s : State) :
    Tbl.get [] (s.mg.journal.index.toNat % 4096) (s.journalNow c target (some before) (some after)).mg.journal.ring =
      stampBytes s.now ++ leBytes 2 c.queue ++ w32Bytes c.tag ++ leBytes 6 c.seq ++ leBytes 2 c.opcode ++ w64Bytes target ++
        (sha512 before).take 16 ++ (sha512 after).take 16 := by
  have h : (s.journalNow c target (some before) (some after)).mg.journal.ring = Tbl.insert _ _ s.mg.journal.ring :=
    congrArg (fun m : Mgmt => m.journal.ring) (State.event_mg 0x2C5 0 1 (s.setMg _))
  rw [h]
  exact Tbl.get_insert_same ..

/-- A journal entry tells the tags of its causes apart. -/
theorem State.journalNow_tag {c d : Cause} {target : W64} {before after : List Byte} {s : State}
    (h : s.journalNow c target (some before) (some after) = s.journalNow d target (some before) (some after)) (hq : c.queue = d.queue) :
    w32Bytes c.tag = w32Bytes d.tag := by
  have he := congrArg (fun t : State => Tbl.get [] (s.mg.journal.index.toNat % 4096) t.mg.journal.ring) h
  simp only [State.journalNow_entry, hq, List.append_assoc, List.append_cancel_left_eq] at he
  exact (List.append_inj he rfl).1

/-- Bit health_clear of MG_RESET_CTL is set, and the change is journaled. -/
def State.clearHealth (c : Cause) (s : State) : State :=
  (s.setMg { s.mg with healthClear := true }).journalNow c (at64 0x10 0) (some (w64Bytes 0)) (some (w64Bytes 0))

/-- The bit reads as zero, and its write is journaled all the same (log entry 81). -/
theorem State.pokeLogged_healthClear (stamp : Nat) (c : Cause) (s : State) :
    s.pokeLogged 0x10 2 (BitVec.allOnes 64) stamp c = some (s.clearHealth c) := by
  have hr : ∀ t : State, t.peek 0x10 = some 0 := fun _ => rfl
  have hw : s.poke 0x10 2 (BitVec.allOnes 64) stamp c = some (s.setMg { s.mg with healthClear := true }) := rfl
  simp only [State.pokeLogged, hr, hw]
  rfl

/-- A command that is no longer outstanding writes the bit and leaves no completion. -/
theorem State.Gone.complete_clearHealth {q sq : Nat} {s : State} (g : s.Gone q sq) (c : Cause) (r : Record) (e : Effects) :
    (s.clearHealth c).complete q sq r e = s.clearHealth c :=
  State.complete_of_outstOf_none (g.congr ((State.setMg_sameWork _ s).trans (State.journalNow_sameWork ..))).done r e

theorem State.clearHealth_tag {c d : Cause} {s : State} (h : s.clearHealth c = s.clearHealth d) (hq : c.queue = d.queue) :
    w32Bytes c.tag = w32Bytes d.tag :=
  State.journalNow_tag h hq

theorem State.Gone.causeOf {q sq : Nat} {s : State} (g : s.Gone q sq) : s.causeOf q sq = { queue := q, seq := sq } := by
  rw [State.causeOf, g.done]

/-- A REG_WRITE that succeeds answers the value after the write (10 R333). -/
theorem State.regWrite_some {o : Outst} {u t : State}
    (h : u.pokeLogged o.pkt.hdr.w0.toNat o.pkt.hdr.w1 (if o.pkt.hdr.w2 = 0 then BitVec.allOnes 64 else o.pkt.hdr.w2) o.accept
      (u.causeOf o.pkt.q o.seq) = some t) :
    u.regWrite o = t.complete o.pkt.q o.seq { r0 := (t.peek o.pkt.hdr.w0.toNat).getD 0 } { } := by
  simp only [State.regWrite, h]

/-- Where the entry of the first command of Q0 lies in the device region: the place is not given (log entry 158). -/
def entryPlace : Nat := hbmDev + 32 * (Config.devPlace 5 0 1 % 0x7000000)

/-- An ACTIVE device of a SYNCED pair, in service. Its ROLE_SWAP under way bears the number that Q0 gives next, and the place of the entry
with that number is uncorrectable, the sixteenth burst within 1 s that its pseudo-channel loses. -/
def swappingDev : State :=
  { mg := { dev := .service, inReset := false }
    hbm := { upset := [(entryPlace, 2)], pcs := (List.range 32).map (fun n => (n, { mapped := true, uncAt := List.replicate 15 0 })) }
    twin := { role := .active, pair := .synced, swapAt := some (100000, 0, 1) } }

/-- REG_WRITE of health_clear on Q0, with tag 7. -/
def healthClearHdr : Header :=
  { flags := 0, queue := 0, payloadLen := 0, tag := 7, cones := 0, dlSec := 0, dlNs := 0, rsvd := 0, w0 := 0x10, w1 := 2, w2 := 0, w3 := 0 }

theorem swappingDev_begins : swappingDev.Begins (packet 0x0005 healthClearHdr []) where
  running := by decide +kernel
  alone := by decide +kernel
  header := by decide +kernel
  fresh := by decide +kernel
  allowed := by decide +kernel
  own := by decide +kernel
  named := by decide +kernel
  ready := by decide +kernel
  readable := by rfl

theorem swappingDev_failing : (swappingDev.accepting (packet 0x0005 healthClearHdr [])).2.1.Failing entryPlace where
  upset := by rfl
  cache := by rfl
  pcs := by decide +kernel
  young := by decide +kernel

theorem swappingDev_swapping : (swappingDev.accepting (packet 0x0005 healthClearHdr [])).2.1.Swapping 0 1 where
  role := by rfl
  paired := by rfl
  swap := ⟨100000, by rfl⟩
  attach := by rfl
  merged := by rfl

/-- As its entry is read, the number of the command goes to the ROLE_SWAP, and it is no longer outstanding. -/
theorem swappingDev_gone : (swappingDev.begun (packet 0x0005 healthClearHdr [])).Gone 0 1 := by
  have hg : ((swappingDev.accepting (packet 0x0005 healthClearHdr [])).2.1.hbmRead entryPlace 64).2.1.Gone 0 1 :=
    swappingDev_failing.hbmRead_gone swappingDev_swapping (by decide)
  have hd : ((swappingDev.accepting (packet 0x0005 healthClearHdr [])).2.1.devRead 5 0 1 64).1.Gone 0 1 := by
    unfold State.devRead
    dsimp only
    split
    · exact hg.congr (State.setMg_sameWork _ _)
    · exact hg
  exact hd

end Sys2Proof.Machine

open Sys2Proof Sys2Proof.Machine

/-- Refutes O29: the clause on REG_WRITE lets the journal entry bear the cause with which the command was accepted. On `swappingDev` the
command is no longer outstanding when it writes, so that the entry bears no tag. The statement ranges over every state: in this one the
ROLE_SWAP bears a number that its queue has not given yet, which no run is shown to reach. -/
theorem not_registerCommands : ¬ Obligations.RegisterCommands := by
  unfold Obligations.RegisterCommands
  intro hall
  have hb := swappingDev_begins
  have hg := swappingDev_gone
  have hc : swappingDev.causeFor (packet 0x0005 healthClearHdr []) = { queue := 0, tag := 7, seq := 1, opcode := 5 } := by decide +kernel
  obtain ⟨-, hwrite, -⟩ := hall swappingDev healthClearHdr []
  have stated := hwrite hb
  have done := exec_regWrite hb
  have hp : ∀ u c, State.pokeLogged healthClearHdr.w0.toNat healthClearHdr.w1
      (if healthClearHdr.w2 = 0 then BitVec.allOnes 64 else healthClearHdr.w2) swappingDev.now c u = some (u.clearHealth c) :=
    fun u c => State.pokeLogged_healthClear swappingDev.now c u
  generalize swappingDev.begun _ = u at hg stated done
  have hdone : exec (.regWrite healthClearHdr []) swappingDev = .next (u.clearHealth { queue := 0, seq := 1 }) := by
    have hq : u.causeOf 0 1 = { queue := 0, seq := 1 } := hg.causeOf
    have hw : u.regWrite (swappingDev.outOf (packet 0x0005 healthClearHdr [])) = (u.clearHealth (u.causeOf 0 1)).complete 0 1 _ _ :=
      State.regWrite_some (hp u (u.causeOf 0 1))
    rw [done, hw, hg.complete_clearHealth, hq]
  have hstated : exec (.regWrite healthClearHdr []) swappingDev = .next (u.clearHealth { queue := 0, tag := 7, seq := 1, opcode := 5 }) := by
    simp only [hc, hp] at stated
    exact stated.trans (congrArg Host.Outcome.next (hg.complete_clearHealth _ _ _))
  have he := Host.Outcome.next.inj (hdone.symm.trans hstated)
  have ht := State.clearHealth_tag he rfl
  exact absurd ht (by decide)

end

section
/-!
PROOFS. Every command whose units exist has a next state, and every other command stops as naming no unit (log entry 6).
-/

set_option Elab.async false

namespace Sys2Proof.Machine

open Sys2Proof

/-! ## What a command answers that names units where `p` holds -/

/-- A next state where `p` holds, and otherwise the stop by name of log entry 6: never a refusal. -/
def Answers (p : Prop) (r : Res) : Prop := (p ∧ ∃ t, r = .next t) ∨ (¬ p ∧ r = .fault .noSuchUnit)

namespace Answers

variable {p q : Prop} {r : Res}

theorem next_of (h : Answers p r) (hp : p) : ∃ t, r = .next t := by
  obtain ⟨-, hr⟩ | ⟨hn, -⟩ := h
  · exact hr
  · exact absurd hp hn

theorem noSuchUnit_of_not (h : Answers p r) (hn : ¬ p) : r = .fault .noSuchUnit := by
  obtain ⟨hp, -⟩ | ⟨-, hr⟩ := h
  · exact absurd hp hn
  · exact hr

theorem ne_refused (h : Answers p r) (x : Refusal) : r ≠ .refused x := by
  obtain ⟨-, t, rfl⟩ | ⟨-, rfl⟩ := h <;> exact nofun

theorem congr_iff (h : Answers p r) (hpq : p ↔ q) : Answers q r := propext hpq ▸ h

/-- A command that checks no unit: it names none, or it is a packet, which the device judges by its reply (10 R323). -/
theorem next (t : State) : Answers True (.next t) := .inl ⟨trivial, t, rfl⟩

/-- A unit checked ahead of the others. -/
theorem guard [Decidable p] (h : Answers q r) : Answers (p ∧ q) (if p then r else .fault .noSuchUnit) := by
  by_cases hp : p
  · rw [if_pos hp]
    exact h.congr_iff (and_iff_right hp).symm
  · rw [if_neg hp]
    exact .inr ⟨fun hpq => hp hpq.1, rfl⟩

/-- All units checked at once. -/
theorem check (p : Prop) [Decidable p] (t : State) : Answers p (if p then .next t else .fault .noSuchUnit) :=
  (next t).guard.congr_iff (and_iff_left trivial)

end Answers

theorem within_answers (n bound : Nat) (t : State) : Answers (n < bound) (within n bound t) := .check _ t

theorem withinSlot_answers (e sl : Nat) (t : State) : Answers (e < 16 ∧ sl < 8) (withinSlot e sl t) := .check _ t

/-- Whatever its fields, its body and the contexts of the tile, an instruction of an existing tile has a next state. -/
theorem issue_answers (t : Nat) (f : BitVec 48) (good : Bool) (body : Body) (s : State) : Answers (t < 68) (issue t f good body s) := by
  by_cases ht : t < 68
  · refine .inl ⟨ht, ?_⟩
    rw [issue, if_pos ht]
    split
    · exact ⟨_, rfl⟩
    · exact ⟨_, rfl⟩
  · exact .inr ⟨ht, issue_of_no_tile ht f good body s⟩

/-- JEND is an instruction, or the end of a built-in image. -/
theorem execJend_answers (t : Nat) (f : BitVec 48) (s : State) : Answers (t < 68) (execJend t f s) := by
  unfold execJend
  split
  · exact within_answers ..
  · exact issue_answers ..

/-- The head of a DMA queue has a next state at rest, whether or not it may copy, and where it fails (11 R376; 02 R45 to R47). -/
theorem execDmaDescriptorDone_answers (t q : Nat) (s : State) : Answers (t < 68 ∧ q < 16) (execDmaDescriptorDone t q s) := by
  by_cases hu : t < 68 ∧ q < 16
  · refine .inl ⟨hu, ?_⟩
    rw [execDmaDescriptorDone, if_pos hu]
    split
    · exact ⟨_, rfl⟩
    · dsimp only
      split <;> exact ⟨_, rfl⟩
  · exact .inr ⟨hu, if_neg hu⟩

theorem execLeSlotBankWrite_answers (h : Header) (e sl : Nat) (bankB : Bool) (word : Nat) (v : BitVec 64) (s : State) :
    Answers (e < 16 ∧ sl < 8 ∧ word < 64) (execLeSlotBankWrite h e sl bankB word v s) := by
  refine (withinSlot_answers e sl _).guard.congr_iff ?_
  rw [and_comm, and_assoc]

/-- Tile counters and global counters have bounds of their own (17 R548, R549). -/
theorem execEvcSelWrite_answers (h : Header) (tile : Option Nat) (n : Nat) (v : BitVec 64) (s : State) :
    Answers (Instr.evcSelWrite h tile n v).wf (execEvcSelWrite h tile n v s) := by
  cases tile with
  | none => exact within_answers ..
  | some t => exact (within_answers t 68 _).guard.congr_iff and_comm

theorem unitBound_eq_unitCount (k : UnitKind) : unitBound k = unitCount k := by cases k <;> rfl

/-! ## Every command -/

/-- Every command checks, by itself or through the operation that its family shares, the units that it names and nothing else. -/
theorem exec_answers (c : Instr) (s : State) : Answers c.wf (exec c s) := by
  cases c with
  | ack | queueSet | regRead | regWrite | setConeBudget | setRung | selfTest | attest | fwLoad | attach | detach
  | roleSwap | journalRead | bindSlot | unbind | swapCoef | bindStanding | bindLane | bindPwm | bindLink | launch
  | solveQp | solveLs | estimate | infer | temper | runProgram | dataPut | dataGet | hearthPin | witnessStart
  | witnessStop | replayStart | timeMode | usbDbCtlAll | pwmTripSw | tbServoWrite | mgResetCtlWarm
  | mgResetCtlHealthClear | evcCtlFreeze | evcCtlClearAll => exact .next _
  | attachBulkDone | attachFinalDone | detachEffect | roleSwapCount | launchCount | witnessRecordStart | witnessGap
  | replayEntry | replayEnd | queueMirrorAck | commitMirrorAck | telemetryRecord | usbBusReset | usbSuspend
  | smbusBlockRead | jobDispatch | refillTick | invocationStart | standingBoundary | standingRelease | mailboxPublish
  | wakeSlot | thermalReading | hbmScrub | timebaseTick | counterStep | holdoverEntry | ppsInEdge | ppsOutEdge
  | heartbeatSend | heartbeatIntervalEnd | leavingReceived | peerActiveChange | promotion | flitReceived
  | nakReceived | timebaseLockReceived | commitEntryReceived | catchup | watchdogExpiry | powerOnReset | resetRelease
  | enterService | twinLinkTrained | usbLinkTrained | usbResume | u1U2Request | prefetchDropped | agePromotion
  | hearthPinDone | dataGetDone | fwLoadDone | trngHealthFail => exact .next _
  | nop | fpbar | idle | flgrd | flgclr | trapw | add | sub | and | or | xor | shl | shr | sar | mov | adds | subs
  | addi | andi | ori | xori | shli | shri | sari | movi | movhi | addsi | mul | mulh | mulhu | mulhsu | div | divu
  | rem | remu | cmp | pand | por | pxor | pnot | br | call | ret | loop | ldW | ldD | stW | stD | tbreadS | tbreadL
  | tbdl | tbwait | mbwr | copen | cclose | cfill | chead | clast | cpopn | cpushn | cwait | cdrain | vrand | hsha
  | hwait | bankpwr | bpwait | vadd | vsub | vand | vor | vxor | vshl | vshr | vsar | vadds | vsubs | vmulI | vmuls
  | vmin | vmax | vcmp | vsel | vneg | vabs | vbcast | vaddF | vsubF | vmulF | vmulaF | vminF | vmaxF | vminnum
  | vmaxnum | vcmpF | vselF | vnegF | vabsF | vcpysgn | vcvt | vld | vst | vmovg | vqb | vdqb | vreq | vclamp
  | vredAddF | vredAddI | vredMaxF | tstore | mmul | mmulz | fchol | fldl | fqr | fgivens | ftrsv | fupdate | dpush
  | dwait | dqcfg | cminit | cmoffer | cmstat => exact issue_answers ..
  | jend t f => exact execJend_answers t f s
  | rungReached | selfTestRun | completionRelease | pendingMapPiece | deadlineFreeze | budgetWatchdogExpiry
  | contextSwitch | contextEvict | contextSwapIn | idleRungStep | storeScrub | tileCtlBconfClear | convertPulse
  | wordReceived | laneSample | snsLaneSwap | modulatorLoss | ocExceedance | tripInput | tripLatchClear | pairResume
  | shadowLoad | downlinkSend | uplinkReceived | uplinkPush | beaconSend | beaconEchoReceived | linkSync | syncLost
  | ptpSyncReceived | ptpFollowUpReceived | ptpDelayRespReceived | ptpAnnounceReceived | ptpDelayReqReceived
  | delayReqSend | syncSend | announceSend | tcForward | tcResidenceTimeout | ethFrameReceived | ethCtlWrite
  | twinLaneLockLoss | ethPcsLockChange | manchesterCodeViolation | modulatorClockReturn => exact within_answers ..
  | slotStart | slotSample | slotCommit | leSlotModeAuto | leSlotModeFbExit | leSlotModeManFromLast | leSlotManWrite
  | leSlotFbWrite | loopShadowReceived => exact withinSlot_answers ..
  | bankTransitionDone | receivePush | atomicAdd | hbmRefresh | warmReset => exact .check (_ ∧ _) _
  | dmaDescriptorDone t q => exact execDmaDescriptorDone_answers t q s
  | unitFailure kind n => exact (within_answers ..).congr_iff (iff_of_eq (congrArg (n < ·) (unitBound_eq_unitCount kind)))
  | leSlotBankWrite h e sl bankB word v => exact execLeSlotBankWrite_answers h e sl bankB word v s
  | evcSelWrite h tile n v => exact execEvcSelWrite_answers h tile n v s

end Sys2Proof.Machine

open Sys2Proof Sys2Proof.Machine

/-- Settles O59, by what every command answers. -/
theorem wellFormedCompletes : Obligations.WellFormedCompletes := by
  unfold Obligations.WellFormedCompletes
  exact ⟨fun c s h => (exec_answers c s).next_of h, fun c s h => (exec_answers c s).noSuchUnit_of_not h, fun c s => (exec_answers c s).ne_refused⟩

end

section
/-!
PROOFS. The coil instructions (02 R63 to R71; 05 R161, R162): each from what its body does to the context that has issued.
-/

set_option Elab.async false

namespace Sys2Proof.Machine

open Sys2Proof

/-! ## The context after an instruction has issued -/

/-- Issue moves pc, starts the budget watchdog, and leaves the rest of the context (05 R141, R184). -/
theorem Ctx.after_eq (now up : Nat) (c : Ctx) :
    c.after now up = { c with stage1 := [], started := some (c.started.getD now), cycSince := if c.started.isNone then up else c.cycSince,
                              pc := (c.pc + 1) % 32768 } := by
  unfold Ctx.after Ctx.begin_ Ctx.jump
  cases c.started <;> rfl

@[simp] theorem Ctx.after_job (now up : Nat) (c : Ctx) : (c.after now up).job = c.job := by rw [Ctx.after_eq]
@[simp] theorem Ctx.after_g (now up : Nat) (c : Ctx) : (c.after now up).g = c.g := by rw [Ctx.after_eq]
@[simp] theorem Ctx.after_coils (now up : Nat) (c : Ctx) : (c.after now up).coils = c.coils := by rw [Ctx.after_eq]
@[simp] theorem Ctx.after_progress (now up : Nat) (c : Ctx) : (c.after now up).progress = c.progress := by rw [Ctx.after_eq]
@[simp] theorem Ctx.after_rest (now up : Nat) (c : Ctx) : (c.after now up).rest = c.rest := by rw [Ctx.after_eq]

@[simp] theorem Ctx.after_reg (now up n : Nat) (c : Ctx) : (c.after now up).reg n = c.reg n := by simp [Ctx.reg]
@[simp] theorem Ctx.after_coil (now up n : Nat) (c : Ctx) : (c.after now up).coil n = c.coil n := by simp [Ctx.coil]
@[simp] theorem Ctx.after_mayWrite (now up st off n : Nat) (c : Ctx) : (c.after now up).mayWrite st off n = c.mayWrite st off n := by
  simp [Ctx.mayWrite]

/-! ## Pointers and the fill level (02 R65) -/

theorem Coil.empty_iff (k : Coil) : k.empty = true ↔ k.head = k.tail ∧ k.headLap = k.tailLap := by simp [Coil.empty]

theorem Coil.full_iff (k : Coil) : k.full = true ↔ k.head = k.tail ∧ k.headLap ≠ k.tailLap := by simp [Coil.full]

/-- A difference of pointers modulo the size, in integers and, with the size added first, in naturals. -/
theorem pointer_distance {head tail size : Nat} (h : head < size) :
    (((tail : Int) - head) % size).toNat = (tail + size - head) % size := by
  have he : ((tail : Int) - head) % size = ((tail + size - head : Nat) : Int) % size := by
    rw [Nat.cast_sub (by omega), Nat.cast_add, show (tail : Int) + size - head = tail - head + size by ring, Int.add_emod_right]
  rw [he, ← Int.natCast_mod, Int.toNat_natCast]

theorem Coil.fill_eq {k : Coil} (he : 0 < k.elem) (hh : k.head < k.size) :
    k.fill = if k.full = true then k.size / k.elem else (((k.tail : Int) - k.head) % k.size).toNat / k.elem := by
  rw [Coil.fill, if_neg (Nat.ne_of_gt he), pointer_distance hh]

theorem advance_eq (k : Coil) (x : Nat) (lap : Bool) :
    advance k x lap = (if x + k.elem = k.size then 0 else x + k.elem, if x + k.elem = k.size then !lap else lap) := by
  unfold advance
  split <;> rfl

/-- CFILL changes nothing but its register. -/
theorem execCfill_of_runs {s : State} {t : Nat} {f : BitVec 48} {c : Ctx} (h : s.Runs t f c) (hg : goodI true true false f = true) :
    exec (.cfill t f) s = s.putReg t f c (BitVec.ofNat 64 (c.coil (Fmt.a f)).fill) :=
  (issue_set h hg rfl).trans (by simp [atIssue, State.putReg])

/-! ## Coil instructions -/

/-- COPEN's coil is refused by none of the rules that its two images decide (02 R63, R64). -/
theorem coilImages_of {base cfg : W64} (h0 : fld base 54 10 = 0) (h1 : fld base 24 8 = 0) (h2 : fld cfg 25 39 = 0) (h3 : fld cfg 17 3 = 0)
    (hs : (coilOf base cfg).store ≠ 3) (hp : (coilOf base cfg).policy ≠ 3) (he : 4 ≤ (coilOf base cfg).elem) (he' : (coilOf base cfg).elem ≤ 4096)
    (he4 : (coilOf base cfg).elem % 4 = 0) (hz : 64 ≤ (coilOf base cfg).size) (hz64 : (coilOf base cfg).size % 64 = 0)
    (hze : (coilOf base cfg).size % (coilOf base cfg).elem = 0) (hb : (coilOf base cfg).base % 64 = 0) : coilImages base cfg = true := by
  simp only [coilImages, h0, h1, h2, h3, hs, hp, he, he', he4, hz, hz64, hze, hb, ne_eq, not_false_eq_true, and_self, decide_true, Bool.and_self]

/-- A new context in a slot whose coils are those of the slot's old one brings no new coil to the tile. -/
theorem Tile.mem_contexts_setSlot {w : Nat} {c d x : Ctx} {t : Tile} (hc : t.slot w = some c) (hd : d.coils = c.coils)
    (hx : x ∈ (t.setSlot w (some d)).ctx0.toList ++ (t.setSlot w (some d)).ctx1.toList) : ∃ v y, t.slot v = some y ∧ x.coils = y.coils := by
  by_cases hw : w = 0
  · subst hw
    obtain h | h : x = d ∨ t.ctx1 = some x := by simpa [Tile.setSlot] using hx
    · exact ⟨0, c, hc, h ▸ hd⟩
    · exact ⟨1, x, h, rfl⟩
  · obtain h | h : t.ctx0 = some x ∨ x = d := by simpa [Tile.setSlot, hw] using hx
    · exact ⟨0, x, h, rfl⟩
    · exact ⟨w, c, hc, h ▸ hd⟩

theorem execCopen_of_runs {s : State} {t : Nat} {f : BitVec 48} {c : Ctx} (h : s.Runs t f c) (hg : goodI true true false f = true)
    (hd : Fmt.d f ≠ 31) (hi : coilImages (c.reg (Fmt.d f)) (c.reg (Fmt.d f + 1)) = true)
    (hf : inFoot c.job.image (coilOf (c.reg (Fmt.d f)) (c.reg (Fmt.d f + 1))).store (coilOf (c.reg (Fmt.d f)) (c.reg (Fmt.d f + 1))).base
      (coilOf (c.reg (Fmt.d f)) (c.reg (Fmt.d f + 1))).size = true) (ho : (c.coil (Fmt.a f)).isOpen = false)
    (hm : ∀ w x e, (s.tile t).slot w = some x → e ∈ x.coils → e.2.meets (coilOf (c.reg (Fmt.d f)) (c.reg (Fmt.d f + 1))) = false) :
    exec (.copen t f) s = s.ran t ((c.after s.now s.up).setCoil (Fmt.a f) (coilOf (c.reg (Fmt.d f)) (c.reg (Fmt.d f + 1)))) := by
  refine issue_set h (by simp [hg, hd]) ?_
  have hany : (((((s.withCtx t (c.after s.now s.up)).tile t).ctx0.toList ++ ((s.withCtx t (c.after s.now s.up)).tile t).ctx1.toList).flatMap
      (fun x => x.coils.map (·.2))).any (fun o => o.meets (coilOf (c.reg (Fmt.d f)) (c.reg (Fmt.d f + 1))))) = false := by
    simp only [List.any_eq_false, List.mem_flatMap, List.mem_map]
    rintro o ⟨x, hx, e, he, rfl⟩
    rw [State.withCtx_tile] at hx
    obtain ⟨w, y, hy, hxy⟩ := Tile.mem_contexts_setSlot h.cur (Ctx.after_coils ..) hx
    simp [hm w y e hy (hxy ▸ he)]
  simp only [atIssue, Ctx.after_reg, Ctx.after_coil, Ctx.after_job, hi, ho, hf, hany]
  rfl

/-- A store offset of an element of a coil that is not empty. -/
theorem issue_offsetOp {s : State} {t : Nat} {f : BitVec 48} {c : Ctx} (h : s.Runs t f c) (hg : goodI true true false f = true)
    (he : (c.coil (Fmt.a f)).empty = false) (g : Coil → Nat) :
    issue t f (goodI true true false f) (offsetOp g) s =
      s.putReg t f c (BitVec.ofNat 64 ((c.coil (Fmt.a f)).base + g (c.coil (Fmt.a f)))) := by
  refine (issue_set h hg (g := Ctx.setReg (Fmt.d f) (BitVec.ofNat 64 ((c.coil (Fmt.a f)).base + g (c.coil (Fmt.a f))))) ?_)
  simp [offsetOp, atIssue, he]

/-- Pops one after the other are the function repeated. -/
theorem Coil.popN_eq_repeat (n : Nat) (k : Coil) : k.popN n = Nat.repeat Coil.pop n k := by
  have hs : ∀ (m : Nat) (x : Coil), Nat.repeat Coil.pop m x.pop = (Nat.repeat Coil.pop m x).pop := fun m x => by
    induction m with
    | zero => rfl
    | succ m ih => exact congrArg Coil.pop ih
  induction n generalizing k with
  | zero => rfl
  | succ n ih => exact (ih k.pop).trans (hs n k)

theorem execCpopn_of_runs {s : State} {t : Nat} {f : BitVec 48} {c : Ctx} (h : s.Runs t f c) (hg : goodI true true false f = true) :
    exec (.cpopn t f) s = s.ran t ((c.after s.now s.up).setCoil (Fmt.a f)
      (Nat.repeat Coil.pop (min (c.reg (Fmt.d f)).toNat (c.coil (Fmt.a f)).fill) (c.coil (Fmt.a f)))) := by
  refine (issue_set h hg rfl).trans ?_
  simp [atIssue, Coil.popN_eq_repeat]

theorem execCdrain_of_runs {s : State} {t : Nat} {f : BitVec 48} {c : Ctx} (h : s.Runs t f c) (hg : goodI false true false f = true) :
    exec (.cdrain t f) s = s.ran t ((c.after s.now s.up).setCoil (Fmt.a f) (c.coil (Fmt.a f)).drain) := by
  refine (issue_set h hg rfl).trans ?_
  simp [atIssue]

theorem execCwait_of_runs {s : State} {t : Nat} {f : BitVec 48} {c : Ctx} (h : s.Runs t f c) (hg : goodI false true true f = true) :
    exec (.cwait t f) s = if (Fmt.imm f).toNat ≤ (c.coil (Fmt.a f)).fill then s.ran t (c.after s.now s.up)
      else s.ran t { c.after s.now s.up with wait := some (.coil (Fmt.a f) (Fmt.imm f).toNat), waitSince := s.now } := by
  split
  · next hl => exact issue_set h hg (g := id) (by simp [atIssue, hl])
  · next hl =>
    exact issue_set h hg (g := fun c => { c with wait := some (.coil (Fmt.a f) (Fmt.imm f).toNat), waitSince := s.now }) (by simp [atIssue, hl])

/-- CCLOSE takes effect once the port holds nothing for the coil (02 R71). -/
theorem execCclose_of_runs {s : State} {t : Nat} {f : BitVec 48} {c : Ctx} (h : s.Runs t f c) (hg : goodI false true false f = true)
    (hr : (((s.withCtx t (c.after s.now s.up)).rxDrain t 16).tile t).rx.all (fun e => e.coil ≠ Fmt.a f) = true) :
    exec (.cclose t f) s = (((s.withCtx t (c.after s.now s.up)).rxDrain t 16).updCtx t (s.tile t).execSlot
      (fun x => x.setCoil (Fmt.a f) { x.coil (Fmt.a f) with isOpen := false })).retired t := by
  have hn : ¬ (((s.withCtx t (c.after s.now s.up)).rxDrain t 16).tile t).rx.any (fun e => decide (e.coil = Fmt.a f)) = true := by
    simpa using hr
  exact issue_done h hg (if_neg hn)

/-- CPUSHN moves the tail as far as the full policy lets it; here nothing is left over (05 R162). -/
theorem execCpushn_of_runs {s : State} {t : Nat} {f : BitVec 48} {c : Ctx} (h : s.Runs t f c) (hg : goodI true true false f = true)
    (ho : (c.coil (Fmt.a f)).isOpen = true) (hr : (c.coil (Fmt.a f)).receive = false) {k : Coil}
    (hk : (c.coil (Fmt.a f)).pushN ((c.reg (Fmt.d f)).toNat - c.progress) = (k, 0)) :
    let u := s.withCtx t { (c.after s.now s.up).setCoil (Fmt.a f) k with progress := 0 }
    exec (.cpushn t f) s = ((if k.overrun ≠ (c.coil (Fmt.a f)).overrun then u.tileEvent t 0x22 (k.overrun - (c.coil (Fmt.a f)).overrun).toNat
      else u).updTile t Tile.wake).retired t := by
  refine issue_done h hg ?_
  simp [atIssue, ho, hr, hk, At.set, State.withCtx_updCtx]

end Sys2Proof.Machine

open Sys2Proof Sys2Proof.Machine

/-- Settles O8, by how far a pointer advances and what CFILL puts into its register. -/
theorem coilPointers : Obligations.CoilPointers := by
  unfold Obligations.CoilPointers
  refine ⟨Coil.empty_iff, Coil.full_iff, fun k he hh _ => Coil.fill_eq he hh, fun k => ?_, fun k => ?_, fun s t f c h hg => execCfill_of_runs h hg⟩
  · simp [Coil.pop, advance_eq]
  · simp [Coil.pushed, advance_eq]

/-- Settles O9, instruction by instruction. -/
theorem coilResults : Obligations.CoilResults := by
  unfold Obligations.CoilResults
  refine ⟨?_, ?_⟩
  · intro s t f c h hg hd base cfg k h0 h1 h2 h3 hs hp he he' he4 hz hz64 hze hb hf ho hm
    refine execCopen_of_runs h hg hd (coilImages_of h0 h1 h2 h3 hs hp he he' he4 hz hz64 hze hb) hf ho (fun w x e hx hmem => ?_)
    by_cases hopen : e.2.isOpen = true
    · rw [Coil.meets, hopen]
      exact decide_eq_false (hm w x e hx hmem hopen)
    · simp [Coil.meets, hopen]
  · intro s t f c h n k c' m
    refine ⟨fun hg he => ⟨issue_offsetOp h hg he _, issue_offsetOp h hg he _⟩, execCpopn_of_runs h, execCdrain_of_runs h, execCwait_of_runs h,
      execCclose_of_runs h, fun hg ho hr hk => execCpushn_of_runs h hg ho hr (Prod.ext rfl hk)⟩

end

section
/-!
PROOFS. VDQB (02 R68; 04 R125, R127 to R130; 05 R147): what its issue leaves of the accesses of its tile, the ranges that it may use, and
its two destinations.
-/

set_option Elab.async false

namespace Sys2Proof.Machine

open Sys2Proof

/-! ## A context that keeps its coils leaves the accesses of its tile as they are -/

/-- A slot after a context has been put into one: as it was, or the new context in the place of the old. -/
theorem Tile.slot_setSlot_or {w : Nat} {c : Ctx} {t : Tile} (hc : t.slot w = some c) (d : Ctx) (v : Nat) :
    (t.setSlot w (some d)).slot v = t.slot v ∨ t.slot v = some c ∧ (t.setSlot w (some d)).slot v = some d := by
  unfold Tile.slot Tile.setSlot at *
  by_cases hw : w = 0 <;> by_cases hv : v = 0 <;> simp_all

theorem Ctx.coil_congr {c d : Ctx} (hd : d.coils = c.coils) (n : Nat) : d.coil n = c.coil n := by unfold Ctx.coil; rw [hd]

section
variable {w : Nat} {c d : Ctx} {t : Tile} (hc : t.slot w = some c) (hd : d.coils = c.coils)
include hc hd

theorem Tile.coilHome_setSlot (n : Nat) : (t.setSlot w (some d)).coilHome n = t.coilHome n := by
  have hk := Ctx.coil_congr hd n
  have hr : (t.setSlot w (some d)).restHome n = t.restHome n := by unfold Tile.setSlot; split <;> rfl
  unfold Tile.coilHome Tile.cur
  rw [hr, Tile.setSlot_execSlot]
  obtain h | ⟨h, h'⟩ := Tile.slot_setSlot_or hc d t.execSlot <;> obtain g | ⟨g, g'⟩ := Tile.slot_setSlot_or hc d (1 - t.execSlot) <;> simp [*]

theorem Tile.coil_setSlot (n : Nat) : (t.setSlot w (some d)).coil n = t.coil n := by
  have hk := Ctx.coil_congr hd n
  have hr : (t.setSlot w (some d)).restHome n = t.restHome n := by unfold Tile.setSlot; split <;> rfl
  have ht : (t.setSlot w (some d)).coils = t.coils := by unfold Tile.setSlot; split <;> rfl
  unfold Tile.coil
  rw [Tile.coilHome_setSlot hc hd, hr, ht]
  obtain h | ⟨h, h'⟩ := Tile.slot_setSlot_or hc d (t.coilHome n)
  · rw [h]
  · rw [h, h']
    split <;> simp_all

theorem descRanges_setSlot (p : Nat) (e : Desc) : descRanges p (t.setSlot w (some d)) e = descRanges p t e := by
  have hp : pushSpan p e (t.setSlot w (some d)) = pushSpan p e t := by unfold pushSpan; rw [Tile.coil_setSlot hc hd]
  have hs : coilSpan e (t.setSlot w (some d)) = coilSpan e t := by
    unfold coilSpan
    obtain h | ⟨h, h'⟩ := Tile.slot_setSlot_or hc d e.slot
    · rw [h]
    · rw [h, h']
      simp only [Ctx.coil_congr hd]
  unfold descRanges
  rw [hp, hs]

theorem Tile.busy_setSlot (p : Nat) (write : Bool) (st off n : Nat) : (t.setSlot w (some d)).busy p write st off n = t.busy p write st off n := by
  have hs : (t.setSlot w (some d)).sb = t.sb := by unfold Tile.setSlot; split <;> rfl
  have hq : (t.setSlot w (some d)).dma = t.dma := by unfold Tile.setSlot; split <;> rfl
  simp only [Tile.busy, Tile.sbBusy, Tile.spanBusy, Tile.descs, hs, hq, descRanges_setSlot hc hd]

end

theorem State.need_congr {p : Nat} {s u : State} (hb : (u.tile p).banks = (s.tile p).banks) (hr : (u.tile p).bankReq = (s.tile p).bankReq)
    (hu : ∀ write st off n, (u.tile p).busy p write st off n = (s.tile p).busy p write st off n) (rs : List Range) : u.need p rs = s.need p rs := by
  have ho : ∀ st off n, (u.tile p).offBank st off n = (s.tile p).offBank st off n := fun st off n => by unfold Tile.offBank Tile.bank; rw [hb]
  have hp : ∀ b, (u.tile p).onPending b = (s.tile p).onPending b := fun b => by unfold Tile.onPending; rw [hr]
  simp only [State.need, ho, hp, hu]

/-- What an instruction needs of the stores does not depend on what its issue changes. -/
theorem State.need_withCtx {s : State} {t : Nat} {c k : Ctx} (hc : (s.tile t).cur = some c) (hk : k.coils = c.coils) (rs : List Range) :
    (s.withCtx t k).need t rs = s.need t rs := by
  refine State.need_congr ?_ ?_ (fun write st off n => ?_) rs
  · rw [State.withCtx_tile]; unfold Tile.setSlot; split <;> rfl
  · rw [State.withCtx_tile]; unfold Tile.setSlot; split <;> rfl
  · rw [State.withCtx_tile]; exact Tile.busy_setSlot hc hk ..

/-- A change of the context by the body of an instruction that has issued. -/
theorem atIssue_set (s : State) (t : Nat) (f : BitVec 48) (c : Ctx) (g : Ctx → Ctx) :
    (atIssue s t f c).set g (s.withCtx t (c.after s.now s.up)) = s.withCtx t (g (c.after s.now s.up)) :=
  State.withCtx_updCtx ..

/-! ## Ranges that may be used at once -/

@[simp] theorem atIssue_p (s : State) (t : Nat) (f : BitVec 48) (c : Ctx) : (atIssue s t f c).p = t := rfl
@[simp] theorem atIssue_w (s : State) (t : Nat) (f : BitVec 48) (c : Ctx) : (atIssue s t f c).w = (s.tile t).execSlot := rfl
@[simp] theorem atIssue_c (s : State) (t : Nat) (f : BitVec 48) (c : Ctx) : (atIssue s t f c).c = c.after s.now s.up := rfl
@[simp] theorem atIssue_f (s : State) (t : Nat) (f : BitVec 48) (c : Ctx) : (atIssue s t f c).f = f := rfl

@[simp] theorem State.withCtx_bytesAt (t st off n : Nat) (c : Ctx) (s : State) : (s.withCtx t c).bytesAt t st off n = s.bytesAt t st off n := by
  simp [State.bytesAt]

@[simp] theorem State.withCtx_upsets (t st off n : Nat) (c : Ctx) (s : State) : ((s.withCtx t c).tile t).upsets st off n = (s.tile t).upsets st off n := by
  simp [Tile.upsets]

section
variable {s : State} {t : Nat} {f : BitVec 48} {c : Ctx} {rs : List Range}

theorem State.usable.need_withCtx (hu : s.usable t c rs) (h : s.Runs t f c) : (s.withCtx t (c.after s.now s.up)).need t rs = .ok :=
  (State.need_withCtx h.cur (Ctx.after_coils ..) rs).trans hu.2.1

theorem State.usable.allows (hu : s.usable t c rs) : (atIssue s t f c).allows rs = true := by
  obtain ⟨hall, -, -⟩ := hu
  refine List.all_eq_true.mpr (fun r hr => ?_)
  obtain h | ⟨hf, hw⟩ := hall r hr
  · simp [h]
  · cases hb : r.write with
    | false => simp [atIssue, hf]
    | true => simp [atIssue, hf, hw hb]

/-- An instruction that reads a range it may use gets its bytes. -/
theorem State.usable.reading {st off n : Nat} (hu : s.usable t c [Range.rd st off n]) (h : s.Runs t f c) (hn : n ≠ 0) (eng : Nat)
    (k : List Byte → State → State × Halt) :
    (atIssue s t f c).reading eng st off n k (s.withCtx t (c.after s.now s.up)) =
      k (s.bytesAt t st off n) (s.withCtx t (c.after s.now s.up)) := by
  have hneed : (s.withCtx t (c.after s.now s.up)).need t [{ write := false, st := st, off := off, n := n }] = .ok := hu.need_withCtx h
  obtain ⟨hall, -, hup⟩ := hu
  have hf : inFoot c.job.image st off n = true := by
    obtain h0 | ⟨hf, -⟩ := hall _ (List.mem_singleton_self _)
    · exact absurd h0 hn
    · exact hf
  have hclean : ((s.withCtx t (c.after s.now s.up)).tile t).upsets st off n = [] := by
    rw [State.withCtx_upsets]
    exact hup _ (List.mem_singleton_self _) rfl hn
  have ha : (atIssue s t f c).access false st off n (s.withCtx t (c.after s.now s.up)) = .ok := by
    simp only [At.access, atIssue, Ctx.after_job, hf, hneed]
    rfl
  have hr : (s.withCtx t (c.after s.now s.up)).storeRead (atIssue s t f c).p eng st off n = _ := State.storeRead_clean hclean eng
  simp only [At.reading, ha, hr, State.withCtx_bytesAt]

end

/-! ## Writes one after the other -/

@[simp] theorem State.storeWrite_execSlot (p st off : Nat) (bs : List Byte) (s : State) :
    ((s.storeWrite p st off bs).tile p).execSlot = (s.tile p).execSlot := by
  simp [State.storeWrite, Tile.rewritten, Tile.execSlot]

@[simp] theorem State.updCtx_execSlot (p w : Nat) (g : Ctx → Ctx) (s : State) : ((s.updCtx p w g).tile p).execSlot = (s.tile p).execSlot := by
  unfold State.updCtx
  split <;> simp

/-- A write of the program leaves the executing context where it executes. -/
@[simp] theorem State.ownWrite_execSlot (p w st off : Nat) (bs : List Byte) (s : State) :
    ((s.ownWrite p w st off bs).tile p).execSlot = (s.tile p).execSlot := by
  have hn : ∀ (im : Image) (t : Tile), (t.noteWrite im st off bs.length).execSlot = t.execSlot := fun _ _ => rfl
  unfold State.ownWrite
  split
  · exact State.storeWrite_execSlot ..
  · simp [State.updTile, hn]

theorem State.stores_eq_foldl (t : Nat) (ws : List (Nat × Nat × List Byte)) (s : State) :
    s.stores t ws = ws.foldl (fun u x => u.ownWrite t (s.tile t).execSlot x.1 x.2.1 x.2.2) s := by
  induction ws generalizing s with
  | nil => rfl
  | cons x ws ih =>
    have := ih (s.ownWrite t (s.tile t).execSlot x.1 x.2.1 x.2.2)
    rwa [State.ownWrite_execSlot] at this

/-! ## VDQB -/

@[simp] theorem vqBlock_after (req : Bool) (now up a : Nat) (c : Ctx) : vqBlock req (c.after now up) a = vqBlock req c a := by
  simp [vqBlock]

section
variable {s : State} {t : Nat} {f : BitVec 48} {c : Ctx} (h : s.Runs t f c) {good : Bool} (hg : good = true) {body : Body}
include h hg

/-- An instruction that stalls has not issued: pc and the watchdog are as they were (05 R148, R184). -/
theorem issue_wait {u : State} (hb : body (atIssue s t f c) (s.withCtx t (c.after s.now s.up)) = (u, .wait)) :
    issue t f good body s = .next (u.updCtx t (s.tile t).execSlot (fun x => { x with pc := c.pc, started := c.started, cycSince := c.cycSince })) := by
  rw [issue_of_issues h.toIssues, hg, if_pos rfl, h.retire, hb]

end

section
variable (h : At) (coil bytes : Nat) (ds : List (List Byte)) {s u : State}

theorem At.pushRest_ok (hp : h.pushGroups coil bytes ds s = (u, [], .ok)) :
    h.pushRest coil bytes ds 0 s = (u.updCtx h.p h.w (fun c => { c with rest := none }), .ok) := by
  simp only [At.pushRest, hp]
  rfl

theorem At.pushRest_wait {ds' : List (List Byte)} (hp : h.pushGroups coil bytes ds s = (u, ds', .wait)) :
    h.pushRest coil bytes ds 0 s = (u.updCtx h.p h.w (fun c => { c with rest := some (ds', 0) }), .wait) := by
  simp only [At.pushRest, hp]
  rfl

end

/-- VDQB goes on with the groups that a full coil held back (02 R68). -/
theorem vdqb_rest {s : State} {t : Nat} {f : BitVec 48} {c : Ctx} {v : VqBlock} {ds : List (List Byte)}
    (h : s.Runs t f c) (hg : goodE f = true) (hv : vqBlock false c (Fmt.d f) = some v) (hr : c.rest = some (ds, 0)) {u : State} :
    ((atIssue s t f c).pushGroups (v.coil.getD 0) (ds.headD []).length ds (s.withCtx t (c.after s.now s.up)) = (u, [], .ok) →
      exec (.vdqb t f) s = (u.updCtx t (s.tile t).execSlot (fun y => { y with rest := none })).retired t) ∧
    (∀ ds', (atIssue s t f c).pushGroups (v.coil.getD 0) (ds.headD []).length ds (s.withCtx t (c.after s.now s.up)) = (u, ds', .wait) →
      exec (.vdqb t f) s = .next ((u.updCtx t (s.tile t).execSlot (fun y => { y with rest := some (ds', 0) })).updCtx t (s.tile t).execSlot
        (fun y => { y with pc := c.pc, started := c.started, cycSince := c.cycSince }))) := by
  refine ⟨fun hp => issue_done h hg ?_, fun ds' hp => issue_wait h hg ?_⟩
  · simp only [atIssue_c, atIssue_f, vqBlock_after, hv, Ctx.after_rest, hr]
    exact At.pushRest_ok _ _ _ _ hp
  · simp only [atIssue_c, atIssue_f, vqBlock_after, hv, Ctx.after_rest, hr]
    exact At.pushRest_wait _ _ _ _ hp

section
variable {s : State} {t : Nat} {f : BitVec 48} {c : Ctx} (h : s.Runs t f c)
include h

/-- A good tensor that the instruction may read: it goes on with what its descriptor says. -/
theorem State.Runs.tensor {d n : Nat} (hu : s.usable t c [Range.rd (refSt d) (refOff d) 32]) (hr : refVq d = true)
    (hq : (bqOf (s.bytesAt t (refSt d) (refOff d) 32)).good (w64At 0 (s.bytesAt t (refSt d) (refOff d) 32)) = true)
    (hn : n ≤ (bqOf (s.bytesAt t (refSt d) (refOff d) 32)).groups) (k : Bq → State → State × Halt) :
    (atIssue s t f c).tensor d n k (s.withCtx t (c.after s.now s.up)) =
      k (bqOf (s.bytesAt t (refSt d) (refOff d) 32)) (s.withCtx t (c.after s.now s.up)) := by
  simp only [At.tensor, hr, hu.reading h (by decide), hq, hn, decide_true, Bool.not_true, Bool.and_self, Bool.false_eq_true, if_false, if_true]

end

section
variable {s : State} {t : Nat} {f : BitVec 48} {c : Ctx} {v : VqBlock} {q : Bq} {bs : List (Nat × Nat × Nat × List (BitVec 16))} {fl : W32}
  (h : s.Runs t f c) (hg : goodE f = true) (hv : vqBlock false c (Fmt.d f) = some v) (hr : c.rest = none) (hd : refVq v.d = true)
  (hq : q = bqOf (s.bytesAt t (refSt v.d) (refOff v.d) 32)) (hgood : q.good (w64At 0 (s.bytesAt t (refSt v.d) (refOff v.d) 32)) = true)
  (hn : v.count ≤ q.groups) (hu : s.usable t c [Range.rd (refSt v.d) (refOff v.d) 32])
  (hx : (atIssue s t f c).dequant 1 q v.count (s.withCtx t (c.after s.now s.up)) = ((bs, fl, none), s.withCtx t (c.after s.now s.up), none))
include h hg hv hr hd hq hgood hn hu hx

/-- VDQB into a range writes each block's elements in their place (04 R125). -/
theorem vdqb_range (hc : v.coil = none) (hdst : refVq v.dst = true)
    (hus : s.usable t c (bqRanges q v.count ++ [rangeOf true v.dst (v.count * (32 * q.chanLen))])) :
    exec (.vdqb t f) s = ((s.withCtx t ((c.after s.now s.up).raise 1 fl)).stores t (bs.map (fun b =>
      (refSt v.dst, refOff v.dst + (b.2.1 * q.chanLen + b.2.2.1 * q.size) * 2, b.2.2.2.flatMap (fun y => leBytes 2 y.toNat))))).retired t := by
  refine issue_done h hg ?_
  have hallow := hus.allows (f := f)
  have hneed := hus.need_withCtx h
  subst hq
  simp only [atIssue_c, atIssue_f, vqBlock_after, hv, Ctx.after_rest, hr, h.tensor hu hd hgood hn, hc, hdst, hallow, hneed, atIssue_p, hx,
    atIssue_set, Bool.not_true, Bool.or_self, Bool.false_eq_true, if_false]
  rw [State.stores_eq_foldl, List.foldl_map, State.withCtx_execSlot]
  rfl

/-- VDQB into a coil: what it pushes, group by group. -/
theorem vdqb_coil {n : Nat} (hc : v.coil = some n) (hus : s.usable t c (bqRanges q v.count)) (ho : (c.coil n).isOpen = true)
    (hrecv : (c.coil n).receive = false) (helem : (c.coil n).elem = 32 * q.chanLen) {u : State} :
    let ds := (List.range (bs.length / (q.blocks * 16))).map (fun g => groupBytes q g bs)
    ((atIssue s t f c).pushGroups n (32 * q.chanLen) ds (s.withCtx t ((c.after s.now s.up).raise 1 fl)) = (u, [], .ok) →
      exec (.vdqb t f) s = (u.updCtx t (s.tile t).execSlot (fun y => { y with rest := none })).retired t) ∧
    (∀ ds', (atIssue s t f c).pushGroups n (32 * q.chanLen) ds (s.withCtx t ((c.after s.now s.up).raise 1 fl)) = (u, ds', .wait) →
      exec (.vdqb t f) s = .next ((u.updCtx t (s.tile t).execSlot (fun y => { y with rest := some (ds', 0) })).updCtx t (s.tile t).execSlot
        (fun y => { y with pc := c.pc, started := c.started, cycSince := c.cycSince }))) := by
  have hallow := hus.allows (f := f)
  have hneed := hus.need_withCtx h
  have hgood' : (atIssue s t f c).coilGood n (32 * q.chanLen) = true := by simp [At.coilGood, ho, hrecv, helem]
  subst hq
  refine ⟨fun hp => issue_done h hg ?_, fun ds' hp => issue_wait h hg ?_⟩ <;>
    simp only [atIssue_c, atIssue_f, vqBlock_after, hv, Ctx.after_rest, hr, h.tensor hu hd hgood hn, hc, hgood', List.append_nil, hallow, hneed,
      atIssue_p, hx, atIssue_set, Bool.not_true, Bool.or_self, Bool.false_eq_true, if_false]
  · exact At.pushRest_ok _ _ _ _ hp
  · exact At.pushRest_wait _ _ _ _ hp

end

end Sys2Proof.Machine

open Sys2Proof Sys2Proof.Machine

/-- Settles O19: what a VDQB that stalled still has to push, the range, and the coil. -/
theorem dequantisation : Obligations.Dequantisation := by
  unfold Obligations.Dequantisation
  intro s t f c v h hg hv k w0 q gb hat s1 x w keep stalled
  refine ⟨fun ds hr => ⟨fun u => (vdqb_rest h hg hv hr).1, fun u => (vdqb_rest h hg hv hr).2⟩, fun hr hd hgood hn hu hs hb hk => ?_⟩
  have hx : (atIssue s t f c).dequant 1 q v.count s1 = ((x.1.1, x.1.2.1, none), s1, none) :=
    Prod.ext (Prod.ext rfl (Prod.ext rfl hk)) (Prod.ext hs hb)
  refine ⟨vdqb_range h hg hv hr hd rfl hgood hn hu hx, fun n hc hus ho hrecv helem => ?_⟩
  exact ⟨fun u => (vdqb_coil h hg hv hr hd rfl hgood hn hu hx hc hus ho hrecv helem).1,
    fun u => (vdqb_coil h hg hv hr hd rfl hgood hn hu hx hc hus ho hrecv helem).2⟩

end

section
/-!
PROOFS. Every step keeps the rules of the whole machine (O60). The rules speak of the bytes of HBM, of the bytes of the tiles' stores and
of the commands that wait. Bytes change through `Mem.store` and `Mem.clear` alone, which keep the canonical form, and the queue that a
step leaves is copied by every operation; so each operation of the model keeps the rules, by the operations that it calls. This part: what
all operations share; queues, frames, the timebase and the pair.
-/

set_option Elab.async false

namespace Sys2Proof.Machine

open Sys2Proof

/-- The bytes of a tile's stores stand in canonical form. -/
def Tile.Canon (t : Tile) : Prop := Mem.wf t.mem = true

/-- What a fold keeps that each of its steps keeps. -/
theorem foldl_keeps {α β : Type} {p : β → Prop} {g : β → α → β} {l : List α} {b : β} (hb : p b) (hg : ∀ b a, p b → p (g b a)) : p (l.foldl g b) := by
  induction l generalizing b with
  | nil => exact hb
  | cons a l ih => exact ih (hg b a hb)

/-- Whatever state an operation answers that may fail keeps the rules of the whole machine. -/
def OptInv (o : Option State) : Prop := ∀ t, o = some t → t.Inv

theorem OptInv.none : OptInv Option.none := fun _ e => absurd e.symm (Option.some_ne_none _)

theorem OptInv.some {s : State} (h : s.Inv) : OptInv (Option.some s) := fun _ e => Option.some.inj e ▸ h

theorem OptInv.map {α : Type} {o : Option α} {f : α → State} (hf : ∀ a, (f a).Inv) : OptInv (o.map f) := by
  intro t e
  obtain ⟨a, -, rfl⟩ := Option.map_eq_some_iff.mp e
  exact hf a

/-- A branch keeps what both of its sides keep. -/
theorem State.Inv.ite {c : Prop} [Decidable c] {s t : State} (h : s.Inv) (h' : t.Inv) : (if c then s else t).Inv := by
  split
  · exact h
  · exact h'

theorem State.Inv.ite_fst {α : Type} {c : Prop} [Decidable c] {r r' : State × α} (h : r.1.Inv) (h' : r'.1.Inv) : (if c then r else r').1.Inv := by
  split
  · exact h
  · exact h'

theorem OptInv.ite {c : Prop} [Decidable c] {a b : Option State} (ha : OptInv a) (hb : OptInv b) : OptInv (if c then a else b) := by
  split
  · exact ha
  · exact hb

/-! ## Stores of a tile -/

theorem Tile.Canon.blank : Tile.Canon { } := rfl

theorem Tile.Canon.foldl {α : Type} {g : Tile → α → Tile} {l : List α} {t : Tile} (k : t.Canon) (hg : ∀ t a, t.Canon → (g t a).Canon) :
    (l.foldl g t).Canon := foldl_keeps k hg

/-! ## Updates of the state -/

section
variable {s : State}

/-- A change of neither HBM, the tiles nor the queue of commands. -/
theorem State.Inv.congr {t : State} (h : s.Inv) (hm : t.hbm.mem = s.hbm.mem) (ht : t.tiles = s.tiles) (hp : t.pending = s.pending) : t.Inv where
  hbm := hm ▸ h.hbm
  tiles := ht ▸ h.tiles
  queue := hp ▸ h.queue

theorem State.Inv.foldl {α : Type} {g : State → α → State} {l : List α} (h : s.Inv) (hg : ∀ s a, s.Inv → (g s a).Inv) : (l.foldl g s).Inv :=
  foldl_keeps h hg

theorem State.Inv.foldl_fst {α β : Type} {g : State × β → α → State × β} {l : List α} {b : State × β} (h : b.1.Inv)
    (hg : ∀ (b : State × β) a, b.1.Inv → (g b a).1.Inv) : (l.foldl g b).1.Inv :=
  foldl_keeps (p := fun b : State × β => b.1.Inv) h hg

theorem State.Inv.foldl_snd {α β : Type} {g : β × State → α → β × State} {l : List α} {b : β × State} (h : b.2.Inv)
    (hg : ∀ (b : β × State) a, b.2.Inv → (g b a).2.Inv) : (l.foldl g b).2.Inv :=
  foldl_keeps (p := fun b : β × State => b.2.Inv) h hg

theorem State.Inv.foldl_mid {α β γ : Type} {g : β × State × γ → α → β × State × γ} {l : List α} {b : β × State × γ} (h : b.2.1.Inv)
    (hg : ∀ (b : β × State × γ) a, b.2.1.Inv → (g b a).2.1.Inv) : (l.foldl g b).2.1.Inv :=
  foldl_keeps (p := fun b : β × State × γ => b.2.1.Inv) h hg

theorem State.Inv.tile {p : Nat} (h : s.Inv) : (s.tile p).Canon := by
  obtain hd | hm := Tbl.get_mem ({ } : Tile) p s.tiles
  · rw [State.tile, hd]
    exact Tile.Canon.blank
  · exact h.tiles _ hm

theorem State.Inv.setTile {p : Nat} {v : Tile} (h : s.Inv) (k : v.Canon) : (s.setTile p v).Inv where
  hbm := h.hbm
  tiles e he := by
    obtain rfl | he := Tbl.mem_set he
    · exact k
    · exact h.tiles e he
  queue := h.queue

theorem State.Inv.updTile {p : Nat} {f : Tile → Tile} (h : s.Inv) (hf : ∀ t, t.Canon → (f t).Canon) : (s.updTile p f).Inv :=
  h.setTile (hf _ h.tile)

theorem State.Inv.mapTiles {f : Nat × Tile → Nat × Tile} (h : s.Inv) (hf : ∀ e, (f e).2.mem = e.2.mem) : State.Inv { s with tiles := s.tiles.map f } where
  hbm := h.hbm
  tiles e he := by
    obtain ⟨e', he', rfl⟩ := List.mem_map.mp he
    exact hf e' ▸ h.tiles e' he'
  queue := h.queue

theorem State.Inv.setHbm {v : Hbm} (h : s.Inv) (hm : Mem.wf v.mem = true) : (s.setHbm v).Inv where
  hbm := hm
  tiles := h.tiles
  queue := h.queue

theorem State.Inv.hbmStore {a : Nat} {bs : List Byte} (h : s.Inv) : (s.hbmStore a bs).Inv := h.setHbm (Mem.wf_store a bs h.hbm)

theorem State.Inv.setPc {n v} (h : s.Inv) : (s.setPc n v).Inv := h.congr rfl rfl rfl
theorem State.Inv.setQueue {q v} (h : s.Inv) : (s.setQueue q v).Inv := h.congr rfl rfl rfl
theorem State.Inv.setPort {p v} (h : s.Inv) : (s.setPort p v).Inv := h.congr rfl rfl rfl
theorem State.Inv.setBinding {b v} (h : s.Inv) : (s.setBinding b v).Inv := h.congr rfl rfl rfl
theorem State.Inv.dropBinding {b} (h : s.Inv) : (s.dropBinding b).Inv := h.congr rfl rfl rfl
theorem State.Inv.setDom {d v} (h : s.Inv) : (s.setDom d v).Inv := h.congr rfl rfl rfl
theorem State.Inv.setMailbox {m v} (h : s.Inv) : (s.setMailbox m v).Inv := h.congr rfl rfl rfl
theorem State.Inv.setSlot {n v} (h : s.Inv) : (s.setSlot n v).Inv := h.congr rfl rfl rfl
theorem State.Inv.setLane {n v} (h : s.Inv) : (s.setLane n v).Inv := h.congr rfl rfl rfl
theorem State.Inv.setPush {n v} (h : s.Inv) : (s.setPush n v).Inv := h.congr rfl rfl rfl
theorem State.Inv.setPair {n v} (h : s.Inv) : (s.setPair n v).Inv := h.congr rfl rfl rfl
theorem State.Inv.setTrip {n v} (h : s.Inv) : (s.setTrip n v).Inv := h.congr rfl rfl rfl
theorem State.Inv.setLink {n v} (h : s.Inv) : (s.setLink n v).Inv := h.congr rfl rfl rfl
theorem State.Inv.setTb {v} (h : s.Inv) : (s.setTb v).Inv := h.congr rfl rfl rfl
theorem State.Inv.setMg {v} (h : s.Inv) : (s.setMg v).Inv := h.congr rfl rfl rfl
theorem State.Inv.setUsb {v} (h : s.Inv) : (s.setUsb v).Inv := h.congr rfl rfl rfl
theorem State.Inv.setKiln {v} (h : s.Inv) : (s.setKiln v).Inv := h.congr rfl rfl rfl
theorem State.Inv.setTwin {v} (h : s.Inv) : (s.setTwin v).Inv := h.congr rfl rfl rfl
theorem State.Inv.setWit {v} (h : s.Inv) : (s.setWit v).Inv := h.congr rfl rfl rfl

end

theorem State.Inv.reset : State.reset.Inv where
  hbm := rfl
  tiles := List.forall_mem_nil _
  queue := List.forall_mem_nil _

section
variable {s : State}

/-! ## Shared operations -/

theorem State.Inv.updQueue {q f} (h : s.Inv) : (s.updQueue q f).Inv := h.setQueue
theorem State.Inv.updPort {p f} (h : s.Inv) : (s.updPort p f).Inv := h.setPort

theorem State.Inv.updBinding {b f} (h : s.Inv) : (s.updBinding b f).Inv := by
  unfold State.updBinding
  split
  · exact h.setBinding
  · exact h

theorem State.Inv.updDom {d f} (h : s.Inv) : (s.updDom d f).Inv := h.setDom
theorem State.Inv.updMailbox {m f} (h : s.Inv) : (s.updMailbox m f).Inv := h.setMailbox
theorem State.Inv.updSlot {n f} (h : s.Inv) : (s.updSlot n f).Inv := h.setSlot
theorem State.Inv.updLane {n f} (h : s.Inv) : (s.updLane n f).Inv := h.setLane
theorem State.Inv.updPair {n f} (h : s.Inv) : (s.updPair n f).Inv := h.setPair
theorem State.Inv.updTrip {n f} (h : s.Inv) : (s.updTrip n f).Inv := h.setTrip
theorem State.Inv.updLink {n f} (h : s.Inv) : (s.updLink n f).Inv := h.setLink
theorem State.Inv.free (h : s.Inv) : (s.free).2.Inv := h.congr rfl rfl rfl

theorem State.Inv.frees {n} (h : s.Inv) : (s.frees n).2.Inv := by
  induction n generalizing s with
  | zero => exact h
  | succ n ih => exact ih h.free

theorem State.Inv.alert {a} (h : s.Inv) : (s.alert a).Inv := .ite h h.setMg
theorem State.Inv.unalert {a} (h : s.Inv) : (s.unalert a).Inv := h.setMg
theorem State.Inv.event {ev inst n} (h : s.Inv) : (s.event ev inst n).Inv := .ite h (h.congr rfl rfl rfl)
theorem State.Inv.tileEvent {p ev n} (h : s.Inv) : (s.tileEvent p ev n).Inv := .ite h (.event (h.setTile h.tile))

theorem State.Inv.digest128 {x} (h : s.Inv) : (s.digest128 x).2.Inv := by
  unfold State.digest128
  split
  · exact h
  · exact h.frees

theorem State.Inv.journalAt {a c target before after} (h : s.Inv) : (s.journalAt a c target before after).Inv := h.digest128.digest128.setMg.event
theorem State.Inv.journalNow {c target before after} (h : s.Inv) : (s.journalNow c target before after).Inv := h.journalAt
theorem State.Inv.journalDev {cls ix} (h : s.Inv) : (s.journalDev cls ix).Inv := h.journalNow
theorem State.Inv.witPut {typ src stamp pl} (h : s.Inv) : (s.witPut typ src stamp pl).Inv := .ite h.setWit.event h.setWit.event
theorem State.Inv.witness {typ src stamp pl} (h : s.Inv) : (s.witness typ src stamp pl).Inv := .ite h.witPut h
theorem State.Inv.snapshot {kind ix stamp content} (h : s.Inv) : (s.snapshot kind ix stamp content).Inv := h.witness

/-! ## Queues -/

theorem State.Inv.toHost {m} (h : s.Inv) : (s.toHost m).Inv := .ite h.event.setUsb h.event.setUsb
theorem State.Inv.signalWake (h : s.Inv) : s.signalWake.Inv := .ite h.setUsb h
theorem State.Inv.signalIf {c} (h : s.Inv) : (s.signalIf c).Inv := .ite h.signalWake h
theorem State.Inv.raiseAlert {a} (h : s.Inv) : (s.raiseAlert a).Inv := .ite h.alert.signalWake h.alert
theorem State.Inv.reply {p code sq reason stamp} (h : s.Inv) : (s.reply p code sq reason stamp).Inv := h.toHost.witness
theorem State.Inv.enter {o} (h : s.Inv) : (s.enter o).Inv := h.updQueue

theorem State.Inv.mapInvocation {q sq} (h : s.Inv) : (s.mapInvocation q sq).Inv := by
  unfold State.mapInvocation
  dsimp only
  split
  · exact h.setWit
  · exact h

theorem State.Inv.enterInvocation {q tag boundary} (h : s.Inv) : (s.enterInvocation q tag boundary).2.Inv := by
  unfold State.enterInvocation
  dsimp only
  split
  · exact h
  · exact h.setQueue.mapInvocation

theorem State.Inv.logEntry {ix bs} (h : s.Inv) : (s.logEntry ix bs).Inv := h.setTwin

theorem State.Inv.commitEntry {e r} (h : s.Inv) : (s.commitEntry e r).2.2.Inv := by
  unfold State.commitEntry
  split
  · exact h.logEntry
  · dsimp only
    split <;> exact h.logEntry.setTwin

theorem State.Inv.reorderPut {q r e cap} (h : s.Inv) : (s.reorderPut q r e cap).Inv := by
  unfold State.reorderPut
  exact h.commitEntry.updQueue

theorem State.Inv.closeMerged {q} (h : s.Inv) : (s.closeMerged q).Inv := by
  unfold State.closeMerged
  dsimp only
  split
  · exact .ite h.setQueue.reorderPut h
  · exact h

theorem State.Inv.bareExt {o r} (h : s.Inv) : (s.bareExt o r).2.Inv := by
  unfold State.bareExt
  split
  · exact h
  · split
    · exact h
    · exact h.congr rfl rfl rfl

theorem State.Inv.completeAt {stop q sq r e} (h : s.Inv) : (s.completeAt stop q sq r e).Inv := by
  unfold State.completeAt
  split
  · exact h
  · dsimp only
    split
    · exact .ite h.bareExt.setQueue.closeMerged h.bareExt.setQueue.reorderPut
    · exact h.bareExt.setQueue.reorderPut

theorem State.Inv.complete {q sq r e} (h : s.Inv) : (s.complete q sq r e).Inv := h.completeAt
theorem State.Inv.finish {q sq status} (h : s.Inv) : (s.finish q sq status).Inv := h.complete

theorem State.Inv.replayCheck {q d} (h : s.Inv) : (s.replayCheck q d).Inv := by
  unfold State.replayCheck
  refine .ite ?_ h
  dsimp only
  split
  · exact .ite h (.ite h.setWit h.setWit)
  · exact h

theorem State.Inv.deliver {q r} (h : s.Inv) : (s.deliver q r).Inv := .ite h.updQueue h.updQueue.toHost.signalIf
theorem State.Inv.noteWarm {q sq} (h : s.Inv) : (s.noteWarm q sq).Inv := .ite h.setMg h

theorem State.Inv.releaseNext {q} (h : s.Inv) : (s.releaseNext q).Inv := by
  unfold State.releaseNext
  dsimp only
  split
  · exact h
  · exact .ite h (.ite h.replayCheck.setQueue.noteWarm.witness.event.deliver h.replayCheck.setQueue.noteWarm.witness.event.updQueue.event)

/-! ## The timebase -/

theorem State.Inv.stepTo {v} (h : s.Inv) : (s.stepTo v).Inv := h.setTb.event.journalDev
theorem State.Inv.stepBack {theta} (h : s.Inv) : (s.stepBack theta).Inv := h.stepTo.setTb
theorem State.Inv.setInc {v} (h : s.Inv) : (s.setInc v).Inv := h.setTb.witness
theorem State.Inv.servoUpdate {theta apply} (h : s.Inv) : (s.servoUpdate theta apply).Inv := .ite h.setTb.event.setInc h.setTb.event
theorem State.Inv.timeEvent {code} (h : s.Inv) : (timeEvent code s).Inv := h.witness
theorem State.Inv.enterHoldover (h : s.Inv) : s.enterHoldover.Inv := .ite h (.timeEvent (.journalDev (.event (.ite h.setTb h.setTb.setInc))))
theorem State.Inv.exitHoldover (h : s.Inv) : s.exitHoldover.Inv := h.setTb.journalDev.timeEvent
theorem State.Inv.resumeMode (h : s.Inv) : s.resumeMode.Inv := .ite h.setTb h.setTb.journalDev.timeEvent

theorem State.Inv.offset {theta} (h : s.Inv) : (s.offset theta).Inv :=
  .ite h.setTb.servoUpdate (.ite h.setTb (.ite (.ite h.setTb.stepBack h.setTb.setTb) (.ite h.setTb (.ite
    (.ite h.setTb.exitHoldover.servoUpdate h.setTb) (.ite h.setTb.stepBack h.setTb.servoUpdate)))))

theorem State.Inv.ptpRecord {p m} (h : s.Inv) : (s.ptpRecord p m).Inv := h.witness
theorem State.Inv.ptpTake {p m} (h : s.Inv) : OptInv (s.ptpTake p m) := .ite .none (.ite .none (.some h.setPort.event.event.ptpRecord))
theorem State.Inv.ptpDrop {p m} (h : s.Inv) : (s.ptpDrop p m).Inv := .ite h (.ite h.updPort h.ptpRecord)
theorem State.Inv.syncOffset {p t1 t2} (h : s.Inv) : (s.syncOffset p t1 t2).Inv := h.setTb.offset

theorem State.Inv.ptpSync {p m} (h : s.Inv) : (s.ptpSync p m).Inv := by
  unfold State.ptpSync
  split
  · exact h.ptpDrop
  · exact .ite (h.ptpTake _ ‹_›) (.ite (((h.ptpTake _ ‹_›).setTb).setTb) (((h.ptpTake _ ‹_›).setTb).syncOffset))

theorem State.Inv.ptpFollowUp {p m} (h : s.Inv) : (s.ptpFollowUp p m).Inv := by
  unfold State.ptpFollowUp
  split
  · exact h.ptpDrop
  · split
    · exact .ite ((h.ptpTake _ ‹_›).syncOffset) (h.ptpTake _ ‹_›)
    · exact h.ptpTake _ ‹_›

theorem State.Inv.ptpDelayResp {p m} (h : s.Inv) : (s.ptpDelayResp p m).Inv := by
  unfold State.ptpDelayResp
  split
  · exact h.ptpDrop
  · split
    · exact .ite ((h.ptpTake _ ‹_›).setTb) (h.ptpTake _ ‹_›)
    · exact h.ptpTake _ ‹_›

theorem State.Inv.selectLeader (h : s.Inv) : s.selectLeader.Inv :=
  .ite h.updPort.updPort (.ite h.updPort.updPort.setTb.enterHoldover h.updPort.updPort.setTb)

theorem State.Inv.ptpAnnounce {p m} (h : s.Inv) : (s.ptpAnnounce p m).Inv := by
  unfold State.ptpAnnounce
  split
  · exact h.ptpDrop
  · exact ((h.ptpTake _ ‹_›).setTb).selectLeader

theorem State.Inv.depart {p o} (h : s.Inv) : (s.depart p o).Inv := h.setPort.event
theorem State.Inv.send {p o} (h : s.Inv) : (s.send p o).Inv := .ite h (.ite h.depart h.setPort)

theorem State.Inv.restamp {p o} (h : s.Inv) : (s.restamp p o).1.Inv := by
  unfold State.restamp
  dsimp only
  split
  · exact h
  · exact h.setTb
  · exact h

theorem State.Inv.portNext {p} (h : s.Inv) : (s.portNext p).Inv := by
  unfold State.portNext
  refine .ite h ?_
  dsimp only
  split
  · exact h
  · exact h.setPort.restamp.depart

theorem State.Inv.ptpDelayReq {p m} (h : s.Inv) : (s.ptpDelayReq p m).Inv := by
  unfold State.ptpDelayReq
  split
  · exact h.ptpDrop
  · exact .ite ((h.ptpTake _ ‹_›).send) (h.ptpTake _ ‹_›)

theorem State.Inv.delayReqOut {p} (h : s.Inv) : (s.delayReqOut p).Inv := .ite h.setTb.setPort.send h
theorem State.Inv.syncOut {p} (h : s.Inv) : (s.syncOut p).Inv := .ite h.setPort.send h
theorem State.Inv.announceOut {p} (h : s.Inv) : (s.announceOut p).Inv := .ite h.setPort.send h

theorem State.Inv.tcForward {p m egress} (h : s.Inv) : (s.tcForward p m egress).Inv := by
  unfold State.tcForward
  refine .ite h ?_
  dsimp only
  split
  · exact h
  · exact h.depart
  · exact .ite h.updPort.depart h.depart
  · split
    · exact h.updPort.depart
    · exact h.depart
  · exact h.depart
  · exact h.depart
  · exact h.depart
  · exact h.depart

theorem State.Inv.tcTimeout {p sid sq} (h : s.Inv) : (s.tcTimeout p sid sq).Inv := .ite h.setPort h

theorem State.Inv.ethFrame {p fr} (h : s.Inv) : (s.ethFrame p fr).Inv := by
  unfold State.ethFrame
  refine .ite h ?_
  refine .ite h.setPort.event ?_
  dsimp only
  split
  · exact .ite h (.ite h.setPort.event.ptpRecord h.setPort.event)
  · exact h.setPort.event

theorem State.Inv.ethCtl {p v} (h : s.Inv) : (s.ethCtl p v).Inv := .selectLeader (.ite h.setPort.enterHoldover h.setPort)
theorem State.Inv.tbClear {o} (h : s.Inv) : (s.tbClear o).Inv := .ite h.setTb h

theorem State.Inv.servoWrite {v} (h : s.Inv) : OptInv (s.servoWrite v) :=
  .ite .none (.some (.ite (.selectLeader (.ite h.setTb.setTb h.setTb)) (.ite h.setTb.setTb h.setTb)))

theorem State.Inv.timeMode {m inc} (h : s.Inv) : (s.timeMode m inc).Inv := .ite h.setTb.timeEvent (.ite h (.timeEvent (.ite h.setTb.setInc h.setTb)))

/-! ## The pair -/

theorem State.Inv.twinChange {v} (h : s.Inv) : (s.twinChange v).Inv :=
  .ite h.setTwin (.ite (.resumeMode (.ite h.setTwin.journalNow h.setTwin.journalNow.witness))
    (.ite h.setTwin.journalNow h.setTwin.journalNow.witness))

theorem State.Inv.tell {m} (h : s.Inv) : (s.tell m).Inv := h.setTwin
theorem State.Inv.askCatchup {b} (h : s.Inv) : (s.askCatchup b).Inv := .ite h.updBinding.tell.twinChange h.updBinding.tell
theorem State.Inv.unmirror (h : s.Inv) : s.unmirror.Inv := h.congr rfl rfl rfl
theorem State.Inv.raisePin (h : s.Inv) : s.raisePin.Inv := .ite h.setTwin h
theorem State.Inv.forgetWork (h : s.Inv) : s.forgetWork.Inv := .ite (h.congr rfl rfl rfl) h

theorem State.Inv.attachEnds {st} (h : s.Inv) : (s.attachEnds st).Inv := by
  unfold State.attachEnds
  split
  · exact h.setTwin.complete
  · exact h

theorem State.Inv.swapEnds (h : s.Inv) : s.swapEnds.Inv := by
  unfold State.swapEnds
  split
  · exact h.setTwin.complete
  · exact h

theorem State.Inv.leavePair {reason} (h : s.Inv) : (s.leavePair reason).Inv := .ite h h.unmirror.forgetWork.twinChange.attachEnds.swapEnds

theorem State.Inv.recordFailure {a} {f : State → State} (h : s.Inv) (hf : ∀ x, State.Inv x → (f x).Inv) : (s.recordFailure f a).Inv :=
  .journalNow (.raiseAlert (.setMg (hf _ h)))

theorem State.Inv.health {f} (h : s.Inv) : (s.health f).Inv := h.setMg

end

end Sys2Proof.Machine

end

section
/-!
PROOFS. The operations of HBM, of the tiles, of DMA and of the commit unit keep the rules of the whole machine (O60).
-/

set_option Elab.async false

namespace Sys2Proof.Machine

open Sys2Proof

section
variable {s : State}

/-! ## HBM -/

theorem State.Inv.pcFailed {n} (h : s.Inv) : (s.pcFailed n).Inv := by
  unfold State.pcFailed
  extract_lets c s1 s2
  have h2 : s2.Inv := .health (h.recordFailure fun _ k => k.setPc)
  exact .ite h (.ite (h2.setHbm h2.hbm) h2.leavePair)

theorem State.Inv.logBurst {b} (h : s.Inv) : (s.logBurst b).Inv := .ite h (h.setHbm h.hbm)

theorem State.Inv.meetBurst {b kind} (h : s.Inv) : (s.meetBurst b kind).Inv :=
  .ite h.setPc.event (.ite h.setPc.event.logBurst.pcFailed h.setPc.event.logBurst)

theorem State.Inv.writeBack {x} (h : s.Inv) : (s.writeBack x).Inv := .event (.event (h.setHbm h.hbm))

theorem State.Inv.evictFor {a} (h : s.Inv) : (s.evictFor a).Inv := by
  unfold State.evictFor
  refine .ite h ?_
  split
  · exact h
  · exact .setHbm (.ite h.writeBack h) (State.Inv.ite h.writeBack h).hbm

theorem State.Inv.loadLine {a} (h : s.Inv) : (s.loadLine a).1.Inv := .ite_fst h.logBurst (.event (h.foldl (fun _ _ k => k.meetBurst)))
theorem State.Inv.enterLine {x front} (h : s.Inv) : (s.enterLine x front).Inv := h.evictFor.setHbm h.evictFor.hbm

theorem State.Inv.useLine {a write whole} (h : s.Inv) : (s.useLine a write whole).1.Inv := by
  unfold State.useLine
  split
  · exact .ite_fst (.ite (.setHbm (h.event.setHbm h.event.hbm) (State.Inv.hbm (h.event.setHbm h.event.hbm))) (h.event.setHbm h.event.hbm))
      (h.event.setHbm h.event.hbm)
  · refine .ite_fst h.event.enterLine ?_
    dsimp only
    split
    · exact h.event.loadLine
    · exact h.event.loadLine.enterLine

theorem State.Inv.useLines {lo write whole ls} (h : s.Inv) : (s.useLines lo write whole ls).1.Inv := h.foldl_fst (fun _ _ k => k.useLine)
theorem State.Inv.hbmRead {a n} (h : s.Inv) : (s.hbmRead a n).2.1.Inv := h.useLines
theorem State.Inv.forward {a bs} (h : s.Inv) : (s.forward a bs).Inv := .ite h.tell h

theorem State.Inv.hbmWrite {a bs} (h : s.Inv) : (s.hbmWrite a bs).1.Inv := by
  unfold State.hbmWrite
  dsimp only
  split
  · exact h.useLines
  · split
    · exact h.useLines.useLines
    · exact h.useLines.useLines.hbmStore.forward

theorem State.Inv.prefetchLine {a} (h : s.Inv) : (s.prefetchLine a).Inv := .ite h h.loadLine.enterLine.event
theorem State.Inv.cleanLines {ms} (h : s.Inv) : (s.cleanLines ms).Inv := h.foldl (fun _ _ k => .ite k.writeBack k)

theorem State.Inv.flushCache (h : s.Inv) : s.flushCache.Inv := by
  have k : (s.hbm.cache.foldl (fun s x => if x.dirty then s.writeBack x else s) s).Inv := h.foldl fun _ _ k => .ite k.writeBack k
  exact k.setHbm k.hbm

theorem State.Inv.devRead {kind a b n} (h : s.Inv) : (s.devRead kind a b n).1.Inv := by
  unfold State.devRead
  dsimp only
  split
  · exact h.hbmRead.setMg
  · exact h.hbmRead

theorem State.Inv.pairRead {kind a b n} (h : s.Inv) : (s.pairRead kind a b n).1.Inv := h.devRead
theorem State.Inv.readRecord {q r} (h : s.Inv) : (s.readRecord q r).2.Inv := h.pairRead

theorem State.Inv.drainOverflow {q n} (h : s.Inv) : (s.drainOverflow q n).Inv := by
  induction n generalizing s with
  | zero => exact h
  | succ n ih =>
    unfold State.drainOverflow
    dsimp only
    split
    · exact .ite (ih h.setQueue.readRecord.deliver) h
    · exact h

theorem State.Inv.reoffer {q} (h : s.Inv) : (s.reoffer q).Inv := h.foldl (fun _ _ k => k.readRecord.toHost)

theorem State.Inv.acknowledge {q upTo again} (h : s.Inv) : (s.acknowledge q upTo again).Inv :=
  .closeMerged (.updQueue (.ite h.setQueue.drainOverflow.reoffer h.setQueue.drainOverflow))

theorem State.Inv.hbmScrub {addr} (h : s.Inv) : (s.hbmScrub addr).Inv := by
  unfold State.hbmScrub
  dsimp only
  split
  · exact h
  · split
    · exact h.setPc.event.meetBurst.setHbm h.setPc.event.meetBurst.hbm
    · exact h.setPc.event.meetBurst
    · exact h.setPc.event

theorem State.Inv.hbmRefresh {p bank} (h : s.Inv) : (s.hbmRefresh p bank).Inv := h.setPc.event

theorem State.Inv.pinDone {q sq} (h : s.Inv) : (s.pinDone q sq).Inv := by
  unfold State.pinDone
  split
  · exact h
  · extract_lets new hbm s1 r hbm' s2 c
    have hr : r.1.Inv := .useLines (h.setHbm h.hbm)
    split
    · exact hr.complete
    · have h2 : s2.Inv := hr.setHbm hr.hbm
      exact .finish (.ite h2 h2.journalNow)

theorem State.Inv.request {cls pf deadline tile desc addr len} (h : s.Inv) : (s.request cls pf deadline tile desc addr len).Inv := h.setHbm h.hbm
theorem State.Inv.served {tile desc} (h : s.Inv) : (s.served tile desc).Inv := h.setHbm h.hbm

theorem State.Inv.prefetchDrop {rq} (h : s.Inv) : (s.prefetchDrop rq).Inv := by
  unfold State.prefetchDrop
  split
  · exact .ite (.event (h.setHbm h.hbm)) h
  · exact h

theorem State.Inv.agePromote {rq} (h : s.Inv) : (s.agePromote rq).Inv := by
  unfold State.agePromote
  split
  · exact .ite (.event (h.setHbm h.hbm)) h
  · exact h

theorem State.Inv.hbmClear {o} (h : s.Inv) : (s.hbmClear o).Inv := .ite h.setPc (.ite (h.setHbm h.hbm) h)

theorem State.Inv.hbmPoke {o v m} (h : s.Inv) : OptInv (s.hbmPoke o v m) :=
  .ite (.ite .none (.some (h.setHbm h.hbm))) (.ite (.some (h.setHbm h.hbm)) (.some h))

/-! ## Tiles -/

theorem Tile.Canon.setBank {t : Tile} {b v} (k : t.Canon) : (t.setBank b v).Canon := k

theorem Tile.Canon.meet {t : Tile} {eng st off m} (k : t.Canon) : (t.meet eng st off m).Canon := by
  unfold Tile.meet
  split
  · exact k
  · split <;> exact k

theorem Tile.Canon.countUnc {t : Tile} {up a} (k : t.Canon) : (t.countUnc up a).Canon := by
  unfold Tile.countUnc
  dsimp only
  split <;> exact k

theorem Tile.Canon.rewritten {t : Tile} {a n} (k : t.Canon) : (t.rewritten a n).Canon := k

theorem State.Inv.storeRead {p eng st off n} (h : s.Inv) : (s.storeRead p eng st off n).2.1.Inv := by
  unfold State.storeRead
  dsimp only
  split
  · exact h
  · have met {us bad m} : ((s.setTile p (List.foldl (fun t (e : Nat × BitVec 39) => t.countUnc s.up (storeBase st + e.1))
        (List.foldl (fun t (e : Nat × BitVec 39) => t.meet eng st e.1 e.2) (s.tile p) us) bad)).tileEvent p 0x14 m).Inv :=
      .tileEvent (h.setTile (.foldl (h.tile.foldl fun _ _ k => k.meet) fun _ _ k => k.countUnc))
    exact .ite met met.tileEvent

theorem State.Inv.storeWrite {p st off bs} (h : s.Inv) : (s.storeWrite p st off bs).Inv := h.setTile (.rewritten (Mem.wf_store _ _ h.tile))
theorem Tile.Canon.wipe {t : Tile} {st off n} (k : t.Canon) : (t.wipe st off n).Canon := .rewritten (Mem.wf_clear _ _ k)

theorem Tile.Canon.setSlot {t : Tile} {w c} (k : t.Canon) : (t.setSlot w c).Canon := by
  unfold Tile.setSlot
  split <;> exact k

theorem Tile.Canon.trim {t : Tile} (k : t.Canon) : t.trim.Canon := k

theorem Tile.Canon.setCoil {t : Tile} {n v} (k : t.Canon) : (t.setCoil n v).Canon := by
  unfold Tile.setCoil
  split
  · exact k
  · exact k.setSlot
  · exact k.setSlot
  · exact k

theorem Tile.Canon.wake {t : Tile} (k : t.Canon) : t.wake.Canon := k

theorem State.Inv.coilOrder {p coil src prod} (h : s.Inv) : (s.coilOrder p coil src prod).Inv := by
  unfold State.coilOrder
  refine .ite h ?_
  dsimp only
  split
  · exact h.witness.setWit
  · exact h.witness

theorem State.Inv.rxWrite {p e} (h : s.Inv) : (s.rxWrite p e).1.Inv := by
  unfold State.rxWrite
  dsimp only
  split
  · exact h
  · exact .tileEvent (h.setTile h.tile.setCoil)
  · refine .ite_fst h ?_
    refine .ite_fst ?_ (.coilOrder (.ite (.tileEvent (.tileEvent (h.storeWrite.updTile (fun _ k => .wake k.setCoil)))) (.tileEvent
      (h.storeWrite.updTile (fun _ k => .wake k.setCoil)))))
    split
    · exact h.setTile h.tile.setSlot
    · exact h

theorem State.Inv.rxDrain {p n} (h : s.Inv) : (s.rxDrain p n).Inv := by
  induction n generalizing s with
  | zero => exact h
  | succ n ih =>
    unfold State.rxDrain
    split
    · exact h
    · exact .ite (ih (h.rxWrite.updTile fun _ k => k)) h

theorem State.Inv.arrive {p e} (h : s.Inv) : (s.arrive p e).1.Inv := by
  unfold State.arrive
  refine .ite_fst h.setKiln ?_
  refine .ite_fst (.tileEvent (h.setTile h.tile.setCoil)) ?_
  dsimp only
  split
  · exact .rxDrain (.ite_fst h.rxWrite h)
  · exact .ite_fst h (.ite_fst (h.setTile h.tile) (.ite_fst (.tileEvent (h.setTile h.tile.setCoil)) h))

theorem State.Inv.pushTo {p coil src prod d} (h : s.Inv) : (s.pushTo p coil src prod d).1.Inv := h.arrive

theorem State.Inv.pushLogical {l coil src prod d} (h : s.Inv) : (s.pushLogical l coil src prod d).Inv := by
  unfold State.pushLogical
  split
  · exact h.pushTo
  · exact h

theorem State.Inv.scrub {p st off} (h : s.Inv) : (s.scrub p st off).Inv := by
  unfold State.scrub
  refine .ite h ?_
  split
  · exact h
  · exact .ite (.tileEvent (h.setTile (Mem.wf_store _ _ h.tile.meet))) (.tileEvent (h.setTile h.tile.meet.countUnc))

theorem Tile.Canon.clear {t : Tile} {o} (k : t.Canon) : (t.clear o).Canon := by
  unfold Tile.clear
  split
  · exact k
  · exact k
  · split <;> exact k

/-! ## Contexts -/

theorem State.Inv.setCtx {p w c} (h : s.Inv) : (s.setCtx p w c).Inv := h.updTile (fun _ k => k.setSlot)

theorem State.Inv.updCtx {p w f} (h : s.Inv) : (s.updCtx p w f).Inv := by
  unfold State.updCtx
  split
  · exact h.setCtx
  · exact h

theorem State.Inv.foldCycles {p w} (h : s.Inv) : (s.foldCycles p w).Inv := h.updCtx
theorem Tile.Canon.noteWrite {t : Tile} {im st off n} (k : t.Canon) : (t.noteWrite im st off n).Canon := k

theorem State.Inv.ownWrite {p w st off bs} (h : s.Inv) : (s.ownWrite p w st off bs).Inv := by
  unfold State.ownWrite
  split
  · exact h.storeWrite
  · exact .updCtx (h.storeWrite.updTile (fun _ k => k.noteWrite))

theorem Tile.Canon.startBank {t : Tile} {b} (k : t.Canon) : (t.startBank b).Canon := by
  unfold Tile.startBank
  split
  · split
    · exact k
    · exact k.setBank
  · exact k

theorem Tile.Canon.requestBank {t : Tile} {b g by_} (k : t.Canon) : (t.requestBank b g by_).Canon := by
  unfold Tile.requestBank
  dsimp only
  split
  · exact k
  · exact .startBank k

theorem Tile.Canon.disown {t : Tile} {w} (k : t.Canon) : (t.disown w).Canon := k
theorem Tile.Canon.loseIn {t : Tile} {st off n} (k : t.Canon) : (t.loseIn st off n).Canon := k

theorem Tile.Canon.bankTo {t : Tile} {b g} (k : t.Canon) : (t.bankTo b g).Canon := by
  unfold Tile.bankTo
  dsimp only
  split
  · exact k.setBank.wipe.loseIn
  · exact k.setBank

theorem Tile.Canon.bankDone {t : Tile} {b} (k : t.Canon) : (t.bankDone b).Canon := by
  unfold Tile.bankDone
  split
  · exact k
  · split
    · exact k
    · exact .startBank (.bankTo k)

theorem Tile.Canon.settleBanks {t : Tile} (k : t.Canon) : t.settleBanks.Canon := k.foldl (fun _ _ k' => k'.bankTo)
theorem Tile.Canon.sbAlloc {t : Tile} {es} (k : t.Canon) : (t.sbAlloc es).Canon := k.foldl (fun _ _ k' => k')
theorem Tile.Canon.sbRelease {t : Tile} {owner} (k : t.Canon) : (t.sbRelease owner).Canon := k

/-! ## DMA and atomic adds -/

theorem State.Inv.atomicAdd {p coil word fp ws} (h : s.Inv) : (s.atomicAdd p coil word fp ws).1.Inv := by
  unfold State.atomicAdd
  dsimp only
  split
  · split
    · split
      · exact .event (.tileEvent (h.setTile h.tile.setCoil))
      · split
        · exact h
        · split
          · split
            · exact h.updCtx
            · exact h
          · split
            · exact h.storeRead.updCtx
            · exact h.storeRead.storeWrite.updCtx.event
    · split
      · exact .event (.tileEvent (h.setTile h.tile.setCoil))
      · split
        · exact h
        · split
          · split
            · exact h.updCtx
            · exact h
          · split
            · exact h.storeRead.updCtx
            · exact h.storeRead.storeWrite.updCtx.event
  · split
    · exact .event (.tileEvent (h.setTile h.tile.setCoil))
    · split
      · exact h
      · split
        · split
          · exact h.updCtx
          · exact h
        · split
          · exact h.storeRead.updCtx
          · exact h.storeRead.storeWrite.event

theorem State.Inv.dmaBank {p q d write b} (h : s.Inv) : (s.dmaBank p q d write b).1.Inv :=
  .ite_fst h (.ite_fst h.updCtx (.tileEvent (.updCtx (h.setTile h.tile.requestBank))))

theorem State.Inv.jobRead {p w a n} (h : s.Inv) : (s.jobRead p w a n).2.1.Inv := by
  unfold State.jobRead
  split
  · exact h.hbmRead
  · dsimp only
    split
    · exact h.hbmRead
    · split
      · exact h
      · exact h.hbmRead

theorem State.Inv.track {p q d i} (h : s.Inv) : (s.track p q d i).Inv := .ite (h.foldl (fun _ _ k => k.prefetchLine)) h

theorem State.Inv.dmaRead {p q d i} (h : s.Inv) : (s.dmaRead p q d i).2.1.Inv := by
  unfold State.dmaRead
  extract_lets n fromStore
  have hstore {st off} : (fromStore st off s).2.1.Inv := by
    unfold fromStore
    split
    · exact h.dmaBank
    · exact h.storeRead
  split
  · split
    · exact h
    · extract_lets k
      split
      · exact h
      · split
        · exact h
        · exact hstore
  · split
    · exact hstore
    · exact h.jobRead.tileEvent.track
    · exact h

theorem State.Inv.dmaWrite {p q d i bs} (h : s.Inv) : (s.dmaWrite p q d i bs).1.Inv := by
  unfold State.dmaWrite
  refine .ite_fst h.atomicAdd ?_
  refine .ite_fst h.pushTo ?_
  split
  · refine .ite_fst h ?_
    split
    · exact h.dmaBank
    · exact h.ownWrite
  · exact h.hbmWrite.tileEvent.updCtx
  · exact h

theorem State.Inv.dmaRow {p q d i} (h : s.Inv) : (s.dmaRow p q d i).1.Inv := by
  unfold State.dmaRow
  dsimp only
  split
  · split
    · exact .updTile (.ite (.updCtx (.ite h.dmaRead.dmaWrite.updCtx h.dmaRead.dmaWrite)) (.ite h.dmaRead.dmaWrite.updCtx h.dmaRead.dmaWrite))
        (fun _ k => k.wake)
    · exact h.dmaRead.dmaWrite
  · exact h.dmaRead

theorem State.Inv.dmaRows {p q d k i} (h : s.Inv) : (s.dmaRows p q d k i).1.Inv := by
  induction k generalizing s i with
  | zero => exact h
  | succ k ih =>
    unfold State.dmaRows
    dsimp only
    split
    · exact ih h.dmaRow
    · exact h.dmaRow

theorem Tile.Canon.respan {t : Tile} {p d} (k : t.Canon) : (t.respan p d).Canon := by
  unfold Tile.respan
  split
  · exact k.sbRelease.sbAlloc
  · exact k

theorem Tile.Canon.activate {t : Tile} {p q} (k : t.Canon) : (t.activate p q).Canon := by
  unfold Tile.activate
  dsimp only
  split
  · exact k
  · split
    · exact k
    · exact k.sbAlloc

theorem Tile.Canon.activateAll {t : Tile} {p} (k : t.Canon) : (t.activateAll p).Canon := k.foldl (fun _ _ k' => k'.activate)

theorem Tile.Canon.respanned {t : Tile} {p d v} (k : t.Canon) : (Tile.respan p d { t with dma := v }).Canon :=
  Tile.Canon.respan (t := { t with dma := v }) k

theorem Tile.Canon.released {t : Tile} {p o v} (k : t.Canon) : (Tile.activateAll p { t.sbRelease o with dma := v }).Canon :=
  Tile.Canon.activateAll (t := { t.sbRelease o with dma := v }) k

theorem State.Inv.dmaHead {p q} (h : s.Inv) : (s.dmaHead p q).1.Inv := by
  unfold State.dmaHead
  dsimp only
  split
  · exact h
  · split
    · exact h
    · split
      · exact h.dmaRows.updTile fun _ k => k.respanned
      · exact h.dmaRows.updTile fun _ k => k.respanned
      · exact h.dmaRows.updTile fun _ k => k.respanned
      · exact h.dmaRows
      · exact .served (.updTile (.ite h.dmaRows.updCtx.tileEvent h.dmaRows) fun _ k => k.released)

theorem Tile.Canon.dropDescs {t : Tile} {w} (k : t.Canon) : (t.dropDescs w).Canon := k

theorem State.Inv.dmaDrain {p w} (h : s.Inv) : (s.dmaDrain p w).Inv := by
  unfold State.dmaDrain
  extract_lets qs s1 gone s2
  have h1 : s1.Inv := h.foldl fun _ _ k => k.dmaHead
  have h2 : s2.Inv := h1.foldl fun _ _ k => .served (k.updTile fun _ k' => k'.sbRelease)
  exact h2.updTile fun _ k => Tile.Canon.activateAll k.dropDescs

/-! ## The commit unit -/

theorem State.Inv.readWords {p eng st off n} (h : s.Inv) : (s.readWords p eng st off n).2.1.Inv := h.storeRead
theorem State.Inv.recordCuts {q sq p cuts} (h : s.Inv) : (s.recordCuts q sq p cuts).Inv := h.foldl (fun _ _ k => k.witness)
theorem State.Inv.writeRecords {p w c u1} (h : s.Inv) : (s.writeRecords p w c u1).Inv := h.recordCuts.ownWrite

theorem State.Inv.freezeReplayed {p w c} (h : s.Inv) : (s.freezeReplayed p w c).Inv := by
  unfold State.freezeReplayed
  split
  · exact .ite (h.writeRecords.updTile (fun _ k => k)) h
  · exact h

theorem State.Inv.writeIterate {p w x n m i} (h : s.Inv) : (s.writeIterate p w x n m i).Inv :=
  .ite (.ite h.ownWrite h.ownWrite.ownWrite) (.ownWrite (.ite h.ownWrite h.ownWrite.ownWrite))

theorem State.Inv.cmReads {p u1} (h : s.Inv) : (s.cmReads p u1).2.2.2.1.Inv := by
  unfold State.cmReads
  dsimp only
  split
  · refine .storeRead ?_
    split
    · exact h.storeRead
    · exact h.storeRead.storeRead
  · dsimp only
    split
    · exact h.storeRead
    · exact h.storeRead.storeRead

theorem State.Inv.cmInit {p w c w0 w1 w2 w3 bad} (h : s.Inv) : (s.cmInit p w c w0 w1 w2 w3 bad).1.Inv := by
  unfold State.cmInit
  dsimp only
  split
  · exact .ite_fst h h.setCtx
  · refine .ite_fst h ?_
    split
    · refine .ite_fst h.cmReads ?_
      split
      · exact h.cmReads
      · exact .freezeReplayed (.updTile (h.cmReads.foldl (fun _ _ k => k.writeIterate)) (fun _ k => k))
    · exact h

theorem State.Inv.cmOffer {p w c w0 w1 w2 w3 bad} (h : s.Inv) : (s.cmOffer p w c w0 w1 w2 w3 bad).1.Inv := by
  unfold State.cmOffer
  split
  · exact h
  · extract_lets x pr r hd late f s1 s2
    split
    · exact h
    · split
      · have hr : r.2.1.Inv := h.readWords
        split
        · exact hr
        · split
          · exact hr
          · have h1 : s1.Inv := hr.updTile fun _ k => k
            have h2 : s2.Inv := by
              unfold s2
              split
              · exact h1.tileEvent
              · exact h1.tileEvent
              · exact h1.tileEvent
              · exact h1
            exact h2.freezeReplayed
      · exact h

theorem State.Inv.cmStat {p w c w0 w1 w2 w3 bad} (h : s.Inv) : (s.cmStat p w c w0 w1 w2 w3 bad).1.Inv := by
  unfold State.cmStat
  split
  · exact h
  · refine .ite_fst h ?_
    split
    · exact h.ownWrite
    · exact h

theorem State.Inv.freeze {p w c u1} (h : s.Inv) : (s.freeze p w c u1).Inv := .updTile (.ite h h.writeRecords) (fun _ k => k)

end

end Sys2Proof.Machine

end

section
/-!
PROOFS. The operations of jobs, images, PWM pairs, operands, built-in images and power keep the rules of the whole machine (O60).
-/

set_option Elab.async false

namespace Sys2Proof.Machine

open Sys2Proof

section
variable {s : State}

/-! ## Jobs -/

theorem State.Inv.weightNow {p im} (h : s.Inv) : (s.weightNow p im).2.1.Inv := h.foldl_mid (fun _ _ k => k.storeRead)
theorem State.Inv.readSecs {p xs} (h : s.Inv) : (s.readSecs p xs).2.1.Inv := h.foldl_mid (fun _ _ k => k.storeRead)
theorem State.Inv.readHbm {rs} (h : s.Inv) : (s.readHbm rs).2.1.Inv := h.foldl_mid (fun _ _ k => k.hbmRead)

theorem State.Inv.wrote {p c} (h : s.Inv) : (s.wrote p c).2.Inv := by
  unfold State.wrote
  split
  · exact h
  · exact h.readSecs.readHbm

theorem State.Inv.keepSections {im digest parts except} (h : s.Inv) : (s.keepSections im digest parts except).Inv := by
  refine h.setKiln.mapTiles fun e => ?_
  split
  · rfl
  · rfl

theorem State.Inv.bindingContent {v p c} (h : s.Inv) : (s.bindingContent v p c).2.Inv := h.readSecs.readHbm

theorem State.Inv.snapBinding {b c} (h : s.Inv) : (s.snapBinding b c).Inv := by
  unfold State.snapBinding
  split
  · split
    · dsimp only
      split
      · exact h.bindingContent.setWit.snapshot
      · exact h.bindingContent
    · exact h
  · exact h

theorem Tile.Canon.freeUnit {t : Tile} {w} (k : t.Canon) : (t.freeUnit w).Canon := by
  unfold Tile.freeUnit
  dsimp only
  split
  · split <;> exact k
  · exact k

theorem Tile.Canon.leave {t : Tile} {w now ok c} (k : t.Canon) : (t.leave w now ok c).Canon := by
  unfold Tile.leave
  split
  · exact k.freeUnit.disown.setSlot
  · split
    · exact k.freeUnit.disown.setSlot
    · split
      · exact .trim k.freeUnit.disown.setSlot
      · exact k.freeUnit.disown.setSlot

theorem State.Inv.settle {c} (h : s.Inv) : (s.settle c).2.Inv := .setKiln (h.congr rfl rfl rfl)

theorem State.Inv.adopt {r vs} (h : s.Inv) : (s.adopt r vs).Inv := by
  unfold State.adopt
  split
  · exact h
  · exact .ite h.setBinding (h.foldl (fun _ _ k => k.updMailbox))

theorem State.Inv.judgeRun {r vs own} (h : s.Inv) : (s.judgeRun r vs own).Inv := by
  unfold State.judgeRun
  split
  · exact h
  · exact .ite h.updBinding (.ite h.setTwin.event.adopt.updBinding.askCatchup h.setTwin.event.adopt.updBinding)

theorem State.Inv.compareRun {r vs} (h : s.Inv) : (s.compareRun r vs).Inv := .ite h.setTwin h.judgeRun

theorem State.Inv.judgeEarly {q sq} (h : s.Inv) : (s.judgeEarly q sq).Inv := by
  unfold State.judgeEarly
  split
  · exact h.setTwin.judgeRun
  · exact h

theorem State.Inv.endInvocation {b c f st r e} (h : s.Inv) : (s.endInvocation b c f st r e).Inv := by
  unfold State.endInvocation
  split
  · exact h.complete
  · exact .ite (.ite h.setBinding.judgeEarly h.setBinding.judgeEarly.snapBinding) (.complete
      (.ite h.setBinding.judgeEarly h.setBinding.judgeEarly.snapBinding))

theorem State.Inv.readRanges {p rs} (h : s.Inv) : (s.readRanges p rs).2.1.Inv := h.foldl_mid (fun _ _ k => k.storeRead)

theorem State.Inv.sendCopySet {p b c} (h : s.Inv) : (s.sendCopySet p b c).Inv := by
  unfold State.sendCopySet
  refine .ite h ?_
  dsimp only
  split
  · exact h
  · exact .ite h (.ite h.readRanges h.readRanges.setTwin)

theorem State.Inv.endJob {p w f} (h : s.Inv) : (s.endJob p w f).Inv := by
  unfold State.endJob
  dsimp only
  split
  · exact h.dmaDrain
  · split
    · refine .endInvocation ?_
      refine .ite ?_ ?_
      · refine .ite ?_ ?_
        · refine .keepSections ?_
          refine .updTile ?_ (fun _ k => k.leave)
          refine .ite ?_ ?_
          · refine .tileEvent ?_
            refine .settle ?_
            split
            · dsimp only
              split
              · exact h.dmaDrain.weightNow
              · exact h.dmaDrain
            · refine .wrote ?_
              split
              · exact h.dmaDrain.weightNow
              · exact h.dmaDrain
          · refine .settle ?_
            split
            · dsimp only
              split
              · exact h.dmaDrain.weightNow
              · exact h.dmaDrain
            · refine .wrote ?_
              split
              · exact h.dmaDrain.weightNow
              · exact h.dmaDrain
        · refine .updTile ?_ (fun _ k => k.leave)
          refine .ite ?_ ?_
          · refine .tileEvent ?_
            refine .settle ?_
            split
            · dsimp only
              split
              · exact h.dmaDrain.weightNow
              · exact h.dmaDrain
            · refine .wrote ?_
              split
              · exact h.dmaDrain.weightNow
              · exact h.dmaDrain
          · refine .settle ?_
            split
            · dsimp only
              split
              · exact h.dmaDrain.weightNow
              · exact h.dmaDrain
            · refine .wrote ?_
              split
              · exact h.dmaDrain.weightNow
              · exact h.dmaDrain
      · refine .sendCopySet ?_
        refine .ite ?_ ?_
        · refine .keepSections ?_
          refine .updTile ?_ (fun _ k => k.leave)
          refine .ite ?_ ?_
          · refine .tileEvent ?_
            refine .settle ?_
            split
            · dsimp only
              split
              · exact h.dmaDrain.weightNow
              · exact h.dmaDrain
            · refine .wrote ?_
              split
              · exact h.dmaDrain.weightNow
              · exact h.dmaDrain
          · refine .settle ?_
            split
            · dsimp only
              split
              · exact h.dmaDrain.weightNow
              · exact h.dmaDrain
            · refine .wrote ?_
              split
              · exact h.dmaDrain.weightNow
              · exact h.dmaDrain
        · refine .updTile ?_ (fun _ k => k.leave)
          refine .ite ?_ ?_
          · refine .tileEvent ?_
            refine .settle ?_
            split
            · dsimp only
              split
              · exact h.dmaDrain.weightNow
              · exact h.dmaDrain
            · refine .wrote ?_
              split
              · exact h.dmaDrain.weightNow
              · exact h.dmaDrain
          · refine .settle ?_
            split
            · dsimp only
              split
              · exact h.dmaDrain.weightNow
              · exact h.dmaDrain
            · refine .wrote ?_
              split
              · exact h.dmaDrain.weightNow
              · exact h.dmaDrain
    · refine .complete ?_
      refine .ite ?_ ?_
      · refine .keepSections ?_
        refine .updTile ?_ (fun _ k => k.leave)
        refine .ite ?_ ?_
        · refine .tileEvent ?_
          refine .settle ?_
          split
          · dsimp only
            split
            · exact h.dmaDrain.weightNow
            · exact h.dmaDrain
          · refine .wrote ?_
            split
            · exact h.dmaDrain.weightNow
            · exact h.dmaDrain
        · refine .settle ?_
          split
          · dsimp only
            split
            · exact h.dmaDrain.weightNow
            · exact h.dmaDrain
          · refine .wrote ?_
            split
            · exact h.dmaDrain.weightNow
            · exact h.dmaDrain
      · refine .updTile ?_ (fun _ k => k.leave)
        refine .ite ?_ ?_
        · refine .tileEvent ?_
          refine .settle ?_
          split
          · dsimp only
            split
            · exact h.dmaDrain.weightNow
            · exact h.dmaDrain
          · refine .wrote ?_
            split
            · exact h.dmaDrain.weightNow
            · exact h.dmaDrain
        · refine .settle ?_
          split
          · dsimp only
            split
            · exact h.dmaDrain.weightNow
            · exact h.dmaDrain
          · refine .wrote ?_
            split
            · exact h.dmaDrain.weightNow
            · exact h.dmaDrain

theorem State.Inv.failJob {p w st loc} (h : s.Inv) : (s.failJob p w st loc).Inv := h.endJob

theorem State.Inv.failDoomed {p} (h : s.Inv) : (s.failDoomed p).Inv := by
  unfold State.failDoomed
  refine h.foldl ?_
  intro _ _ k
  split
  · exact k.failJob
  · exact k

theorem State.Inv.failLoad {p w loc} (h : s.Inv) : (s.failLoad p w loc).Inv := h.updCtx.failJob
theorem State.Inv.endReady {j st loc} (h : s.Inv) : (s.endReady j st loc).Inv := h.complete
theorem State.Inv.endSwapped {e st loc} (h : s.Inv) : (s.endSwapped e st loc).Inv := h.settle.complete

theorem State.Inv.publish {b} (h : s.Inv) : (s.publish b).Inv := by
  unfold State.publish
  split
  · exact h
  · split
    · exact h
    · refine .ite h ?_
      dsimp only
      split
      · exact .completeAt (h.setBinding.foldl (fun _ _ k => k.updMailbox))
      · exact h.setBinding.foldl (fun _ _ k => k.updMailbox)

/-! ## Images -/

theorem Tile.Canon.wakeFor {t : Tile} {im} (k : t.Canon) : (t.wakeFor im).Canon := by
  refine k.foldl fun t b k' => ?_
  split
  · exact k'
  · dsimp only
    split
    · exact k'.wipe
    · exact k'

theorem State.Inv.secContent {im i x} (h : s.Inv) : (s.secContent im i x).2.1.Inv := by
  unfold State.secContent
  split
  · exact h
  · exact h.hbmRead

theorem Tile.Canon.loaded {t : Tile} {im i} (k : t.Canon) : (t.loaded im i).Canon := k

theorem State.Inv.loadSections {p im xs} (h : s.Inv) : (s.loadSections p im xs).1.Inv := by
  induction xs generalizing s with
  | nil => exact h
  | cons x xs ih =>
    unfold State.loadSections
    dsimp only
    split
    · exact h.secContent
    · exact ih (h.secContent.storeWrite.updTile fun _ k => k.loaded)

theorem State.Inv.programMatch {im} (h : s.Inv) : (s.programMatch im).2.1.Inv := h.readHbm
theorem State.Inv.weightsMatch {im} (h : s.Inv) : (s.weightsMatch im).2.1.Inv := h.foldl_mid (fun _ _ k => k.secContent)

theorem State.Inv.digestsMatch {im weights} (h : s.Inv) : (s.digestsMatch im weights).2.1.Inv := by
  unfold State.digestsMatch
  dsimp only
  split
  · exact h.programMatch
  · exact h.programMatch.weightsMatch

theorem State.Inv.placeImage {p im} (h : s.Inv) : (s.placeImage p im).1.Inv := by
  unfold State.placeImage
  refine .ite_fst (h.setTile (.wakeFor h.tile)) ?_
  dsimp only
  split
  · exact .loadSections (h.setTile (.wakeFor h.tile))
  · refine .updTile ?_ (fun _ k => k.trim)
    split
    · exact .loadSections (h.setTile (.wakeFor h.tile))
    · exact .digestsMatch (.loadSections (h.setTile (.wakeFor h.tile)))

theorem State.Inv.reloadConst {p im} (h : s.Inv) : (s.reloadConst p im).1.Inv := h.loadSections

/-! ## PWM pairs -/

theorem State.Inv.runPairs {a b} (h : s.Inv) : (s.runPairs a b).Inv := h.foldl (fun _ _ k => .ite k (.ite k.setPair.event k.setPair))
theorem State.Inv.settlePair {src p} (h : s.Inv) : (s.settlePair src p).Inv := .ite (.ite h.setPair h.setPair.event) (.ite h.setPair h)
theorem State.Inv.settlePairs {src} (h : s.Inv) : (s.settlePairs src).Inv := h.foldl (fun _ _ k => k.settlePair)
theorem State.Inv.raiseTrip {n} (h : s.Inv) : (s.raiseTrip n).Inv := h.updTrip.settlePairs
theorem State.Inv.lowerTrip {n} (h : s.Inv) : (s.lowerTrip n).Inv := h.updTrip
theorem State.Inv.clearLatch {n} (h : s.Inv) : (s.clearLatch n).Inv := .ite h h.updTrip.settlePairs
theorem State.Inv.tripEdge {n low} (h : s.Inv) : (s.tripEdge n low).Inv := .ite h.witness.raiseTrip h.witness.lowerTrip
theorem State.Inv.tripInput {n low width} (h : s.Inv) : (s.tripInput n low width).Inv := .ite h h.tripEdge
theorem State.Inv.shadowWrite {c p v} (h : s.Inv) : (s.shadowWrite c p v).Inv := h.updPair
theorem State.Inv.dutyWrite {c p v} (h : s.Inv) : (s.dutyWrite c p v).Inv := h.shadowWrite

theorem State.Inv.shadowLoad {p} (h : s.Inv) : (s.shadowLoad p).Inv := by
  unfold State.shadowLoad
  dsimp only
  split
  · exact h
  · exact .ite h (.ite h.setPair.event.event h.setPair.event)

theorem State.Inv.pairResume {p} (h : s.Inv) : (s.pairResume p).Inv := by
  unfold State.pairResume
  dsimp only
  split
  · exact h
  · exact .ite h.setPair h

theorem State.Inv.islandRung {i} (h : s.Inv) : (s.islandRung i).Inv := h.foldl (fun _ _ k => .ite k (.ite k.updPair k.updPair))
theorem State.Inv.pairConfigure {p cfg} (h : s.Inv) : (s.pairConfigure p cfg).Inv := h.updPair
theorem State.Inv.pairUnbind {p} (h : s.Inv) : (s.pairUnbind p).Inv := h.updPair
theorem State.Inv.pwmClear {o} (h : s.Inv) : (s.pwmClear o).Inv := .ite h.updPair h

theorem State.Inv.softTrip {on} (h : s.Inv) : (s.softTrip on).Inv :=
  have h' : State.Inv { s with tripSw := on } := h.congr rfl rfl rfl
  .ite (.ite h' h'.raiseTrip) h'.lowerTrip

theorem State.Inv.pairPoke {p r v m byslot} (h : s.Inv) : OptInv (s.pairPoke p r v m byslot) := by
  unfold State.pairPoke
  dsimp only
  split
  · exact .ite .none (.ite .none (.some h.pairConfigure))
  · exact .ite (.some h) (.ite .none (.some h.setPair))
  · exact .ite .none (.some h.shadowWrite)
  · exact .some h
  · exact .some (.ite h.setPair.settlePair h)
  · exact .none

theorem State.Inv.tripPoke {n v m} (h : s.Inv) : OptInv (s.tripPoke n v m) :=
  .ite .none (.some (.ite h.setTrip.settlePairs.clearLatch h.setTrip.settlePairs))

theorem State.Inv.pwmPoke {o v m byslot} (h : s.Inv) : OptInv (s.pwmPoke o v m byslot) :=
  .ite .none (.ite h.pairPoke (.ite h.tripPoke (.ite (.some h.softTrip) .none)))

/-! ## Operands and the issue of an instruction -/

theorem State.Inv.atSet {a : At} {g} (h : s.Inv) : (a.set g s).Inv := h.updCtx
theorem State.Inv.atDone {a : At} {g} (h : s.Inv) : (a.done g s).1.Inv := h.atSet

theorem State.Inv.retire {p w c f} {body : Body} (h : s.Inv) (hf : ∀ y0 x, State.Inv x → (body y0 x).1.Inv) : (s.retire p w c f body).Inv := by
  unfold State.retire
  refine .ite h.setCtx.tileEvent ?_
  dsimp only
  split
  · exact .tileEvent (hf _ _ h.setCtx)
  · exact .updCtx (hf _ _ h.setCtx)
  · exact .updCtx (hf _ _ h.setCtx)
  · exact .updCtx (hf _ _ h.setCtx)
  · exact .failJob (.tileEvent (hf _ _ h.setCtx))

theorem State.Inv.issued {p w c f good} {body : Body} (h : s.Inv) (hf : ∀ y0 x, State.Inv x → (body y0 x).1.Inv) :
    (s.issued p w c f good body).Inv := by
  unfold State.issued
  split
  · exact h.failJob
  · refine .ite h.failJob ?_
    refine .ite h.failJob ?_
    dsimp only
    split
    · exact h.storeRead.failJob
    · exact .ite (h.storeRead.retire (fun _ _ k => hf _ _ k)) h.storeRead.failJob

theorem State.Inv.atReading {a : At} {eng st off n} {k1 : List Byte → State → State × Halt} (h : s.Inv) (hf : ∀ y0 x, State.Inv x →
    (k1 y0 x).1.Inv) : (a.reading eng st off n k1 s).1.Inv := by
  unfold At.reading
  split
  · dsimp only
    split
    · exact h.storeRead
    · exact hf _ _ h.storeRead
  · exact h

theorem State.Inv.atWriting {a : At} {st off bs} (h : s.Inv) : (a.writing st off bs s).1.Inv := by
  unfold At.writing
  split
  · exact h.ownWrite
  · exact h

/-! ## Built-in images -/

theorem State.Inv.solved {p w out f} (h : s.Inv) : (s.solved p w out f).Inv := by
  unfold State.solved
  split
  · exact h
  · dsimp only
    split
    · exact h.hbmWrite.failJob
    · exact h.hbmWrite.updCtx.endJob

theorem State.Inv.accumulate {p w fl} (h : s.Inv) : (s.accumulate p w fl).Inv := h.updCtx
theorem State.Inv.endQp {p w c cut} (h : s.Inv) : (s.endQp p w c cut).Inv := .ite h.failJob (.ite h.accumulate.failJob h.accumulate.recordCuts.solved)
theorem State.Inv.endLs {p w c} (h : s.Inv) : (s.endLs p w c).Inv := .ite h.accumulate.failJob h.accumulate.solved

theorem State.Inv.useMeasurement {p c} (h : s.Inv) : (s.useMeasurement p c).Inv := by
  unfold State.useMeasurement
  split
  · exact h.updTile (fun _ k => k)
  · exact h

theorem State.Inv.endEstimate {p w c} (h : s.Inv) : (s.endEstimate p w c).Inv :=
  .ite (.ite h.useMeasurement.accumulate.failJob h.useMeasurement.accumulate.solved)
    (.ite h.useMeasurement.accumulate.failJob h.useMeasurement.accumulate.solved)

theorem State.Inv.endBuiltin {p w c cut} (h : s.Inv) : (s.endBuiltin p w c cut).Inv := .ite h.updCtx.endQp (.ite h.updCtx.endLs h.updCtx.endEstimate)

/-! ## Scalar instructions -/

theorem State.Inv.aluOp {op a} (h : s.Inv) : (aluOp op a s).1.Inv := h.atDone
theorem State.Inv.flagOp {op a} (h : s.Inv) : (flagOp op a s).1.Inv := h.atDone
theorem State.Inv.immOp {op a} (h : s.Inv) : (immOp op a s).1.Inv := h.atDone
theorem State.Inv.predOp {op a} (h : s.Inv) : (predOp op a s).1.Inv := h.atDone
theorem State.Inv.atBranch {a : At} {g target} (h : s.Inv) : (a.branch g target s).1.Inv := h.atSet.tileEvent

theorem State.Inv.ofLoadBody {n ext a} (h : s.Inv) : (loadBody n ext a s).1.Inv := by
  unfold loadBody
  split
  · exact h
  · exact h.atReading fun _ _ k => k.atDone

theorem State.Inv.ofStoreBody {n a} (h : s.Inv) : (storeBody n a s).1.Inv := by
  unfold storeBody
  split
  · exact h
  · exact h.atWriting

theorem State.Inv.commitEnd {p w c} (h : s.Inv) : (s.commitEnd p w c).Inv := by
  unfold State.commitEnd
  split
  · exact .ite h.freeze.endJob h.endJob
  · exact h.endJob

theorem State.Inv.freezeAt {p w cut c} (h : s.Inv) : (s.freezeAt p w cut c).Inv :=
  .ite (.ite h.failJob h.endBuiltin) (.ite h.failJob (.ite h.commitEnd h.failJob))

/-! ## Power -/

theorem State.Inv.saveSections {p xs} (h : s.Inv) : (s.saveSections p xs).2.1.Inv := by
  induction xs generalizing s with
  | nil => exact h
  | cons x xs ih => exact ih h.storeRead

theorem Tile.Canon.cool {t : Tile} (k : t.Canon) : t.cool.Canon := k.settleBanks.foldl (fun _ _ k' => k'.setBank)
theorem Tile.Canon.dry {t : Tile} {keep} (_ : t.Canon) : (t.dry keep).Canon := rfl
theorem Tile.Canon.uncool {t : Tile} (k : t.Canon) : t.uncool.Canon := k.foldl (fun _ _ k' => k'.setBank)
theorem Tile.Canon.undry {t : Tile} (k : t.Canon) : t.undry.Canon := k.foldl (fun _ _ k' => Mem.wf_store _ _ (k'.foldl (fun _ _ k'' => k''.setBank)))

theorem Tile.Canon.changeRung {t : Tile} {old new keep} (k : t.Canon) : (t.changeRung old new keep).Canon := by
  unfold Tile.changeRung
  dsimp only
  split
  · refine .dry ?_
    split
    · refine .uncool ?_
      split
      · exact k.undry
      · exact k
    · split
      · exact k.undry
      · exact k
  · split
    · refine .cool ?_
      split
      · refine .uncool ?_
        split
        · exact k.undry
        · exact k
      · split
        · exact k.undry
        · exact k
    · split
      · refine .uncool ?_
        split
        · exact k.undry
        · exact k
      · split
        · exact k.undry
        · exact k

theorem State.Inv.changeRung {p old new} (h : s.Inv) : (s.changeRung p old new).Inv :=
  .ite (h.saveSections.updTile (fun _ k => k.changeRung)) (h.updTile (fun _ k => k.changeRung))

theorem State.Inv.moveDom {d r} (h : s.Inv) : (s.moveDom d r).Inv := .ite h.setDom.setKiln h.setDom.setKiln
theorem State.Inv.rungDone {d} (h : s.Inv) : (s.rungDone d).Inv := h.setDom.foldl (fun _ _ k => .finish (.ite k k.journalNow))
theorem State.Inv.linkRung {r} (h : s.Inv) : (s.linkRung r).Inv := .ite h.setTwin (.ite h.setTwin h)

theorem State.Inv.rungReached {d} (h : s.Inv) : (s.rungReached d).Inv := by
  unfold State.rungReached
  extract_lets x s1 s2 s3 s4
  have h2 : s2.Inv := .ite (h.setDom.changeRung.updTile fun _ k => k) h.setDom
  have h3 : s3.Inv := .ite h2.islandRung h2
  have h4 : s4.Inv := .ite h3.linkRung h3
  exact .ite h (.ite h4 h4.rungDone)

theorem State.Inv.rouse {p} (h : s.Inv) : (s.rouse p).Inv := .ite h h.moveDom
theorem State.Inv.wake {p} (h : s.Inv) : (s.wake p).Inv := .ite h h.rouse
theorem State.Inv.fireHeld (h : s.Inv) : s.fireHeld.Inv := h.foldl (fun _ _ k => .ite k.moveDom.updDom k)

theorem State.Inv.swapOut {p w} (h : s.Inv) : (s.swapOut p w).Inv := by
  unfold State.swapOut
  dsimp only
  split
  · exact h.foldCycles
  · split
    · exact h.foldCycles.saveSections.failJob
    · exact .tileEvent (.setKiln (h.foldCycles.saveSections.setTile h.foldCycles.saveSections.tile.disown.setSlot))

theorem State.Inv.swapAll {p} (h : s.Inv) : (s.swapAll p).Inv := by
  unfold State.swapAll
  refine h.foldl ?_
  intro _ _ k
  split
  · exact .ite k.swapOut k
  · exact k

theorem State.Inv.settleRung {p} (h : s.Inv) : (s.settleRung p).Inv := .ite h (.ite (.ite h.swapAll h) (.moveDom (.ite h.swapAll h)))
theorem State.Inv.unshut {p} (h : s.Inv) : (s.unshut p).Inv := .ite h (.ite h.updDom.rouse.rungDone h.updDom.rouse)

theorem State.Inv.setRung {d r q sq} (h : s.Inv) : (s.setRung d r q sq).Inv := by
  unfold State.setRung
  extract_lets before s1 s2 s3 x
  have h2 : s2.Inv := .ite (h.updDom.updTile fun _ k => k) h.updDom
  have h3 : s3.Inv := .ite h2.settleRung h2.moveDom
  exact .ite h3.rungDone h3

theorem State.Inv.idleStep {p} (h : s.Inv) : (s.idleStep p).Inv := by
  unfold State.idleStep
  refine .ite h.settleRung ?_
  refine .ite h ?_
  split
  · exact h.moveDom
  · exact h

theorem State.Inv.takeStep {p c} (h : s.Inv) : (s.takeStep p c).Inv :=
  .ite h (.journalNow (.event (.setKiln (h.foldCycles.foldCycles.updTile (fun _ k => k)))))

theorem State.Inv.stepClock {p c} (h : s.Inv) : (s.stepClock p c).Inv := .ite h h.setKiln
theorem State.Inv.clockSteps (h : s.Inv) : s.clockSteps.Inv := .ite h (h.setKiln.foldl (fun _ _ k => k.takeStep))

theorem State.Inv.wakeSlot (h : s.Inv) : s.wakeSlot.Inv := by
  unfold State.wakeSlot
  split
  · exact h
  · exact .ite h.setKiln.event.updDom (.ite h.setKiln.event h.setKiln.event.stepClock)

theorem State.Inv.standingCheck (h : s.Inv) : s.standingCheck.Inv := .ite h.setKiln.raiseAlert (.ite h h.unalert)

theorem State.Inv.criticalChange {on} (h : s.Inv) : (s.criticalChange on).Inv :=
  .ite (h.setKiln.journalNow.raiseTrip.raiseAlert.foldl (fun _ _ k => .ite k.stepClock k.stepClock.moveDom)) h.setKiln.journalNow.lowerTrip.unalert

theorem State.Inv.throttleDown (h : s.Inv) : s.throttleDown.Inv := by
  unfold State.throttleDown
  dsimp only
  split
  · exact h.setKiln.foldl (fun _ _ k => .ite k.stepClock k)
  · split
    · exact .ite (h.setKiln.foldl (fun _ _ k => .ite k.stepClock k)) h
    · exact h

theorem State.Inv.throttleUp {t} (h : s.Inv) : (s.throttleUp t).Inv := by
  unfold State.throttleUp
  refine .ite h.setKiln ?_
  split
  · exact h.setKiln
  · exact .ite h.setKiln h.setKiln

theorem State.Inv.criticalStep {t} (h : s.Inv) : (s.criticalStep t).Inv := by
  unfold State.criticalStep
  refine .ite (.ite h.criticalChange h) ?_
  refine .ite h.setKiln ?_
  split
  · exact h.setKiln
  · exact .ite h.criticalChange h

theorem State.Inv.thermal {ts} (h : s.Inv) : (s.thermal ts).Inv :=
  .standingCheck (.criticalStep (.ite (.throttleDown (.setKiln (h.setHbm h.hbm))) (.throttleUp (.setKiln (h.setHbm h.hbm)))))

theorem State.Inv.pwrClear {o} (h : s.Inv) : (s.pwrClear o).Inv := .ite h.setKiln h

theorem State.Inv.pwrPoke {o v m} (h : s.Inv) : OptInv (s.pwrPoke o v m) := by
  unfold State.pwrPoke
  split
  · exact .none
  · exact .some (.ite h.setKiln.standingCheck h)

end

end Sys2Proof.Machine

end

section
/-!
PROOFS. The operations of lanes, loop-engine slots, the kiln, the links and the registers keep the rules of the whole machine (O60).
-/

set_option Elab.async false

namespace Sys2Proof.Machine

open Sys2Proof

section
variable {s : State}

/-! ## Sense lanes -/

theorem State.Inv.laneEvent {n e} (h : s.Inv) : (s.laneEvent n e).Inv := by
  unfold State.laneEvent
  dsimp only
  split <;> exact h.witness.updLane.event

theorem State.Inv.sampleEntry {g c} (h : s.Inv) : (s.sampleEntry g c).Inv := h.witness.foldl (fun _ _ k => k.updLane)
theorem State.Inv.sampleEntries {g} (h : s.Inv) : (s.sampleEntries g).Inv := h.foldl (fun _ _ k => .ite k.sampleEntry k)
theorem State.Inv.pushAt {i c} (h : s.Inv) : (s.pushAt i c).Inv := .ite (.ite h.setPush.pushLogical h.setPush) h

theorem State.Inv.laneThrough {n c raw} (h : s.Inv) : (s.laneThrough n c raw).Inv := by
  unfold State.laneThrough
  dsimp only
  refine .foldl (.ite (.sampleEntries ?_) ?_) fun _ _ k => .ite k.pushAt k
  all_goals
    cases raw with
    | none => exact h.setLane
    | some r => exact .ite (.updLane (.ite h.setLane.event.event h.setLane.event)) (.ite h.setLane.event.event h.setLane.event)

theorem State.Inv.laneSample {n bits} (h : s.Inv) : (s.laneSample n bits).Inv := by
  unfold State.laneSample
  refine .ite h ?_
  split
  · exact h
  · exact .ite h (.ite h.laneThrough h.laneThrough)

theorem State.Inv.convertLane {n} (h : s.Inv) : (s.convertLane n).Inv := by
  obtain ⟨f, hf⟩ : ∃ f, f = State.convertLane := ⟨_, rfl⟩
  obtain ⟨last, hl⟩ : ∃ last, last = lastAt := ⟨_, rfl⟩
  rw [← hf]
  delta State.convertLane at hf
  rw [← hl] at hf
  subst hf
  dsimp only
  split
  · exact h
  · exact .ite h (.updLane (.ite h.laneEvent h))

theorem State.Inv.convert {n} (h : s.Inv) : (s.convert n).Inv := .ite h (h.foldl (fun _ _ k => k.convertLane))

theorem State.Inv.wordIn {n w nbits lastBit} (h : s.Inv) : (s.wordIn n w nbits lastBit).Inv := by
  unfold State.wordIn
  dsimp only
  split
  · exact h
  · exact .ite h (.ite h.setLane.laneEvent (.ite h.setLane.laneEvent h.setLane.updLane))

theorem State.Inv.ocRaise {n} (h : s.Inv) : (s.ocRaise n).Inv := h.witness.event.updLane.raiseTrip
theorem State.Inv.ocLower {n} (h : s.Inv) : (s.ocLower n).Inv := h.updLane.lowerTrip

theorem State.Inv.ocOutput {n bits} (h : s.Inv) : (s.ocOutput n bits).Inv := by
  unfold State.ocOutput
  refine .ite h ?_
  split
  · exact h
  · exact .ite (.ite h.setLane.ocRaise h.setLane) (.ite h.ocLower h.setLane)

theorem State.Inv.bindPush {i reg} (h : s.Inv) : (s.bindPush i reg).Inv := h.setPush
theorem State.Inv.snsClear {o} (h : s.Inv) : (s.snsClear o).Inv := .ite h.updLane h

theorem State.Inv.lanePoke {n r v m} (h : s.Inv) : OptInv (s.lanePoke n r v m) := by
  unfold State.lanePoke
  dsimp only
  split
  · exact .ite .none (.some h.setLane)
  · exact .ite .none (.some h.setLane)
  · exact .map (fun _ => h.setLane)
  · exact .map (fun _ => h.setLane)
  · exact .some (.ite h.setLane.ocLower h.setLane)
  · exact .map (fun _ => h.setLane)
  · exact .some h.setLane
  · exact .ite .none (.some h.setLane)
  · exact .none

theorem State.Inv.snsPoke {o v m} (h : s.Inv) : OptInv (s.snsPoke o v m) := .ite .none (.ite h.lanePoke (.ite (.some h) .none))

/-! ## Loop-engine slots -/

theorem State.Inv.leaveSwaps {n} (h : s.Inv) : (s.leaveSwaps n).Inv :=
  h.foldl fun _ _ k => .ite (.ite (.complete (k.congr rfl rfl rfl)) (k.congr rfl rfl rfl)) k

theorem State.Inv.dropSlot {n} (h : s.Inv) : (s.dropSlot n).Inv := .ite h.updSlot.updSlot h.updSlot
theorem State.Inv.holdLinks {x b} (h : s.Inv) : (s.holdLinks x b).Inv := h.foldl (fun _ _ k => k.updLink)

theorem State.Inv.rebound {n old} (h : s.Inv) : (s.rebound n old).Inv :=
  .ite (.settlePair (.updPair (.holdLinks (.ite h.setSlot.updSlot (.ite h.setSlot.setSlot h.setSlot))))) (.holdLinks (.ite h.setSlot.updSlot
    (.ite h.setSlot.setSlot h.setSlot)))

theorem State.Inv.applyDue {n c ps} (h : s.Inv) : (s.applyDue n c ps).1.Inv := by
  induction ps generalizing s with
  | nil => exact h
  | cons p ps ih =>
    unfold State.applyDue
    split
    · refine ih ?_
      dsimp only
      split
      · exact .rebound (.updSlot (.ite h.setSlot h.setSlot.journalAt))
      · exact .ite h.setSlot h.setSlot.journalAt
    · exact ih h

theorem State.Inv.swapDue {n c} (h : s.Inv) : (s.swapDue n c).1.Inv := by
  unfold State.swapDue
  dsimp only
  split
  · exact .ite_fst h.setSlot.event.journalAt.leaveSwaps h
  · exact h

theorem State.Inv.snapSlot {n c} (h : s.Inv) : (s.snapSlot n c).Inv := .ite h.setWit.snapshot h
theorem State.Inv.lateSample {n c} (h : s.Inv) : (s.lateSample n c).Inv := h.updSlot.event

theorem State.Inv.computeSample {n c v} (h : s.Inv) : (s.computeSample n c v).Inv := by
  have hb : ((s.applyDue n c (s.slot n).pend).1.swapDue n c).1.snapSlot n c |>.Inv := h.applyDue.swapDue.snapSlot
  unfold State.computeSample
  extract_lets a b b t x q o p o2 sMis y y y s1 s2 s3 s4 s5 fl s6 s7
  have h2 : s2.Inv := .ite hb.setSlot.setSlot hb.setSlot
  have h4 : s4.Inv := .ite h2.event.event h2.event
  have h5 : s5.Inv := .ite h4.event h4
  have h6 : s6.Inv := .ite h5.event h5
  have h7 : s7.Inv := .ite h6.event h6
  exact .ite h7.event h7

theorem State.Inv.slotUnbound {n a c} (h : s.Inv) : (s.slotUnbound n a c).Inv := h.dropSlot.leaveSwaps.journalAt

theorem State.Inv.slotSample {n} (h : s.Inv) : (s.slotSample n).Inv := by
  unfold State.slotSample
  split
  · split
    · exact .ite h.slotUnbound h
    · exact h
  · split
    · refine .ite h.slotUnbound ?_
      split
      · exact h.computeSample
      · exact .ite h.lateSample h
    · split
      · exact h.computeSample
      · exact .ite h.lateSample h

theorem State.Inv.holdSlots {es gs} (h : s.Inv) : (s.holdSlots es gs).Inv :=
  h.foldl (fun _ _ k => .ite k.setSlot.holdLinks.updPair.settlePair k.setSlot.holdLinks)

theorem State.Inv.failUnits {es gs} (h : s.Inv) : (s.failUnits es gs).Inv :=
  .ite h (.ite (.holdSlots (.health (h.recordFailure (fun _ k => k.setMg)))) (.leavePair (.health (h.recordFailure (fun _ k => k.setMg)))))

theorem State.Inv.pairFail {n} (h : s.Inv) : (s.pairFail n).Inv :=
  .failUnits (.ite (.ite h.setSlot.raiseAlert.updPair.settlePair h.setSlot.raiseAlert) h)

theorem State.Inv.writeOut {n g} (h : s.Inv) : (s.writeOut n g).Inv :=
  .ite (.pushLogical (.ite (.updSlot (.ite h.dutyWrite h)) (.ite h.dutyWrite h))) (.ite (.updSlot (.ite h.dutyWrite h)) (.ite h.dutyWrite h))

theorem State.Inv.sendShadow {n} (h : s.Inv) : (s.sendShadow n).Inv := .ite h.setTwin h

theorem State.Inv.slotCommit {n} (h : s.Inv) : (s.slotCommit n).Inv := by
  unfold State.slotCommit
  dsimp only
  split
  · exact h
  · exact .ite h (.sendShadow (.ite (.ite (.pairFail (.ite h.setSlot.event h.setSlot)) (.ite h.setSlot.event h.setSlot)) (.writeOut (.ite (.pairFail
      (.ite h.setSlot.event h.setSlot)) (.ite h.setSlot.event h.setSlot)))))

theorem State.Inv.bindFresh {n start ws bw} (h : s.Inv) : (s.bindFresh n start ws bw).Inv := by
  unfold State.bindFresh
  extract_lets swap s1 x y s2 s3 s4 s5
  have h3 : s3.Inv := .ite h.dropSlot.setSlot.setSlot h.dropSlot.setSlot
  exact .ite h3.holdLinks.updPair.settlePair h3.holdLinks

theorem State.Inv.slotStart {n} (h : s.Inv) : (s.slotStart n).Inv := by
  unfold State.slotStart
  dsimp only
  split
  · exact .ite h.setSlot h
  · exact h

theorem State.Inv.unbindSlot {n c} (h : s.Inv) : (s.unbindSlot n c).Inv := by
  unfold State.unbindSlot
  split
  · exact h.updSlot
  · exact h.slotUnbound

theorem State.Inv.leClear {o} (h : s.Inv) : (s.leClear o).Inv := .ite h.updSlot h
theorem State.Inv.defer {n ch stamp c} (h : s.Inv) : (s.defer n ch stamp c).Inv := h.updSlot

theorem State.Inv.slotPoke {n r v m stamp c} (h : s.Inv) : OptInv (s.slotPoke n r v m stamp c) :=
  .ite (.ite .none (.some h.setSlot)) (.ite (.some h.setSlot.defer) (.ite (.some h.setSlot.defer) (.ite (.some h.setSlot.defer) (.ite
    (.some h.setSlot) (.ite (.some h) (.ite (.ite .none (.some h.setSlot)) (.ite (.ite .none (.some h.setSlot)) .none)))))))

theorem State.Inv.lePoke {o v m stamp c} (h : s.Inv) : OptInv (s.lePoke o v m stamp c) := .ite .none h.slotPoke

theorem State.Inv.shadowIn {n image crc} (h : s.Inv) : (s.shadowIn n image crc).Inv := by
  unfold State.shadowIn
  extract_lets x s1 tw s2 ch s3 s4
  have h3 : s3.Inv := h.setSlot.setTwin.updSlot
  have h4 : s4.Inv := .ite h3.updSlot h3
  exact .ite h (.ite h.setSlot.setTwin (.ite h4.setTwin.event h4))

/-! ## The kiln -/

theorem State.Inv.readyTile {p} (h : s.Inv) : (s.readyTile p).Inv := .wake (h.updTile (fun _ k => k.undry.uncool))

theorem State.Inv.dispatch {j p} (h : s.Inv) : (s.dispatch j p).Inv := by
  unfold State.dispatch
  split
  · exact h
  · dsimp only
    split
    · exact .placeImage (.event (h.setKiln.readyTile.updTile (fun _ k => k.setSlot)))
    · exact .failLoad (.placeImage (.event (h.setKiln.readyTile.updTile (fun _ k => k.setSlot))))

theorem State.Inv.swapIn {p e} (h : s.Inv) : (s.swapIn p e).Inv := by
  unfold State.swapIn
  split
  · exact h
  · dsimp only
    split
    · exact .failLoad (.placeImage (h.setKiln.readyTile.updTile (fun _ k => k.setSlot)))
    · exact .updTile (.foldl (.placeImage (h.setKiln.readyTile.updTile (fun _ k => k.setSlot))) (fun _ _ k => k.storeWrite)) (fun _ k => k)

theorem State.Inv.noteHead (h : s.Inv) : s.noteHead.Inv := by
  unfold State.noteHead
  split <;> exact h.setKiln

theorem State.Inv.start {j p} (h : s.Inv) : (s.start j p).Inv := by
  unfold State.start
  split
  · exact h.swapIn
  · exact h.dispatch

theorem State.Inv.jobDispatch (h : s.Inv) : s.jobDispatch.Inv := by
  unfold State.jobDispatch
  refine .ite h.noteHead ?_
  split
  · exact h.noteHead.start.noteHead
  · exact h.noteHead

theorem State.Inv.contextSwitch {p} (h : s.Inv) : (s.contextSwitch p).Inv := by
  unfold State.contextSwitch
  refine .ite h ?_
  refine .ite h.wake ?_
  split
  · exact .ite (.wake (.tileEvent (h.setTile h.tile))) h
  · exact h

theorem State.Inv.contextSwapIn {p} (h : s.Inv) : (s.contextSwapIn p).Inv := by
  unfold State.contextSwapIn
  refine .ite h ?_
  split
  · exact h.swapIn
  · exact h

theorem Tile.Canon.trimmed {t : Tile} {v} (k : t.Canon) : (Tile.trim { t with residents := v }).Canon :=
  Tile.Canon.trim (t := { t with residents := v }) k

theorem State.Inv.loadStanding {p im} (h : s.Inv) : (s.loadStanding p im).1.Inv := by
  unfold State.loadStanding
  dsimp only
  split
  · exact h.readyTile.placeImage.updTile fun _ k => k.trimmed
  · exact h.readyTile.placeImage

theorem State.Inv.loadReserved {p} (h : s.Inv) : (s.loadReserved p).Inv := by
  unfold State.loadReserved
  split
  · exact .ite h h.loadStanding
  · exact h

theorem State.Inv.loadBound {p im} (h : s.Inv) : (s.loadBound p im).1.Inv := .ite_fst h h.loadStanding

theorem State.Inv.contextEvict {p} (h : s.Inv) : (s.contextEvict p).Inv := by
  unfold State.contextEvict
  refine .ite h.swapAll.loadReserved ?_
  refine .ite h ?_
  dsimp only
  split
  · exact h
  · split
    · exact h
    · exact h.swapOut.event.swapIn

theorem State.Inv.deadlineFreeze {p cut} (h : s.Inv) : (s.deadlineFreeze p cut).Inv := by
  refine .foldl (.foldl (.setKiln (h.foldl fun s w k => ?_)) fun _ _ k => k.endReady) fun _ _ k => k.endSwapped
  split
  · exact .ite k.freezeAt k
  · exact k

theorem State.Inv.watchdogBudget {p} (h : s.Inv) : (s.watchdogBudget p).Inv := by
  unfold State.watchdogBudget
  refine h.foldl ?_
  intro _ _ k
  split
  · exact .ite k.failJob k
  · exact k

theorem State.Inv.newBudget (h : s.Inv) : s.newBudget.Inv := by
  unfold State.newBudget
  split
  · exact h
  · exact .ite h.setKiln h.setKiln.journalNow

theorem State.Inv.refillTick (h : s.Inv) : s.refillTick.Inv := by
  unfold State.refillTick
  refine .standingCheck ?_
  refine .noteHead ?_
  split
  · exact .ite h.newBudget.setKiln.event h.newBudget.setKiln
  · exact h.newBudget.setKiln

theorem State.Inv.failInvocation {b st loc} (h : s.Inv) : (s.failInvocation b st loc).Inv := by
  unfold State.failInvocation
  split
  · exact h
  · exact h.setBinding.endInvocation

theorem State.Inv.reserve {p} (h : s.Inv) : (s.reserve p).Inv := .swapAll (.unshut (h.setKiln.takeStep.updTile (fun _ k => k)))

theorem State.Inv.standingBoundary {b} (h : s.Inv) : (s.standingBoundary b).Inv := by
  unfold State.standingBoundary
  split
  · exact h
  · refine .ite h ?_
    refine .ite h.enterInvocation.setBinding.raiseAlert.failInvocation ?_
    split
    · exact h.enterInvocation.setBinding.raiseAlert.failInvocation
    · exact .failInvocation (.ite h.enterInvocation.setBinding.reserve.loadStanding.setBinding.askCatchup
        h.enterInvocation.setBinding.reserve.loadStanding.setBinding)
    · exact h.enterInvocation.setBinding.rouse

theorem State.Inv.beginInvocation {b p w v} (h : s.Inv) : (s.beginInvocation b p w v).Inv := by
  unfold State.beginInvocation
  refine .ite ?_ ?_
  · dsimp only
    split
    · exact .failLoad (.reloadConst (.updTile (.event (h.setBinding.updTile (fun _ k => k.setSlot))) (fun _ k => k.wakeFor)))
    · exact .reloadConst (.updTile (.event (h.setBinding.updTile (fun _ k => k.setSlot))) (fun _ k => k.wakeFor))
  · dsimp only
    split
    · exact .loadStanding (.event (h.setBinding.updTile (fun _ k => k.setSlot)))
    · exact .failLoad (.loadStanding (.event (h.setBinding.updTile (fun _ k => k.setSlot))))

theorem State.Inv.invocationStart {b} (h : s.Inv) : (s.invocationStart b).Inv := by
  unfold State.invocationStart
  split
  · exact h
  · refine .ite h ?_
    refine .ite h.failInvocation ?_
    split
    · exact h.failInvocation
    · dsimp only
      split
      · exact h.swapAll.beginInvocation
      · exact h.swapAll.beginInvocation
      · exact h.swapAll.failInvocation

theorem State.Inv.unmappedCheck (h : s.Inv) : s.unmappedCheck.Inv := .ite h h.unalert

theorem State.Inv.standingRelease {b} (h : s.Inv) : (s.standingRelease b).Inv := by
  unfold State.standingRelease
  split
  · exact h
  · split
    · exact h
    · refine .ite h ?_
      refine .finish ?_
      refine .journalNow ?_
      dsimp only
      split
      · refine .setTile (h.dropBinding.unmappedCheck.foldl (fun _ _ k => k.updMailbox)) ?_
        split
        · exact .setSlot (State.Inv.tile (h.dropBinding.unmappedCheck.foldl (fun _ _ k => k.updMailbox)))
        · exact State.Inv.tile (h.dropBinding.unmappedCheck.foldl (fun _ _ k => k.updMailbox))
      · exact h.dropBinding.unmappedCheck.foldl (fun _ _ k => k.updMailbox)

theorem State.Inv.launchCount {q sq} (h : s.Inv) : (s.launchCount q sq).Inv := by
  unfold State.launchCount
  split
  · exact h
  · exact .ite h (.finish (.foldl (.foldl (h.setKiln.foldl (fun _ _ k => k.updBinding)) (fun _ _ k => k.updSlot.slotStart))
      (fun _ _ k => k.journalAt)))

theorem State.Inv.kilnPoke {o v m} (h : s.Inv) : OptInv (s.kilnPoke o v m) := by
  unfold State.kilnPoke
  split
  · exact .ite .none (.some h.setKiln)
  · exact .some h.setKiln
  · exact .map (fun _ => h)

/-! ## Links -/

theorem State.Inv.transmit {l a bs} (h : s.Inv) : (s.transmit l a bs).Inv := .ite h.updLink.updLink h.updLink
theorem State.Inv.uplinkMissed {l} (h : s.Inv) : (s.uplinkMissed l).Inv := .ite h.setLink.event h.setLink

theorem State.Inv.downlink {l} (h : s.Inv) : (s.downlink l).Inv := by
  obtain ⟨f, hf⟩ : ∃ f, f = State.downlink := ⟨_, rfl⟩
  obtain ⟨last, hl⟩ : ∃ last, last = lastAt := ⟨_, rfl⟩
  rw [← hf]
  delta State.downlink at hf
  rw [← hl] at hf
  subst hf
  dsimp only
  split
  · exact h
  · have sent {x a f} : (((s.uplinkMissed l).setLink l x).transmit l a f).Inv := h.uplinkMissed.setLink.transmit
    exact .ite h (.ite (.event (.event (.ite sent.transmit sent))) (.event (.ite sent.transmit sent)))

theorem State.Inv.uplinkIn {l fr invalid} (h : s.Inv) : (s.uplinkIn l fr invalid).Inv := by
  unfold State.uplinkIn
  dsimp only
  split
  · exact h
  · exact .ite h (.ite h.setLink.event (.ite h (.ite h.setLink.event h.setLink.event)))

theorem State.Inv.pushElement {l el} (h : s.Inv) : (s.pushElement l el).Inv := .ite h.setLink.witness.pushLogical h.setLink

theorem State.Inv.uplinkDue {l} (h : s.Inv) : (s.uplinkDue l).Inv := by
  unfold State.uplinkDue
  dsimp only
  split
  · exact h
  · exact .ite h h.setLink.pushElement

theorem State.Inv.beacon {l} (h : s.Inv) : (s.beacon l).Inv := by
  obtain ⟨f, hf⟩ : ∃ f, f = State.beacon := ⟨_, rfl⟩
  obtain ⟨last, hl⟩ : ∃ last, last = lastAt := ⟨_, rfl⟩
  rw [← hf]
  delta State.beacon at hf
  rw [← hl] at hf
  subst hf
  dsimp only
  split
  · exact h
  · exact .ite h h.setLink.transmit.event

theorem State.Inv.echoIn {l fr invalid rtt} (h : s.Inv) : (s.echoIn l fr invalid rtt).Inv := .ite h (.ite h.setLink h.setLink)
theorem State.Inv.linkSync {l} (h : s.Inv) : (s.linkSync l).Inv := h.updLink
theorem State.Inv.syncLost {l} (h : s.Inv) : (s.syncLost l).Inv := .ite h.setLink.event h
theorem State.Inv.bindLinkTo {l start cfg time time2 push} (h : s.Inv) : (s.bindLinkTo l start cfg time time2 push).Inv := h.uplinkMissed.updLink
theorem State.Inv.unbindLink {l} (h : s.Inv) : (s.unbindLink l).Inv := h.uplinkMissed.updLink
theorem State.Inv.linkClear {o} (h : s.Inv) : (s.linkClear o).Inv := .ite h.updLink h

theorem State.Inv.linkPoke {o v m} (h : s.Inv) : OptInv (s.linkPoke o v m) :=
  .ite .none (.ite (.some h) (.ite (.some h.setLink) (.ite (.some h.setLink) .none)))

/-! ## Registers -/

theorem State.Inv.faultPoke {w} (h : s.Inv) : (s.faultPoke w).Inv :=
  .ite (.unalert (.ite h.setMg.unalert.unalert h.setMg)) (.ite h.setMg.unalert.unalert h.setMg)

theorem State.Inv.mgPoke {a v m c} (h : s.Inv) : OptInv (s.mgPoke a v m c) := by
  unfold State.mgPoke
  dsimp only
  split
  · exact .some (.ite (.setMg (.ite h.setMg h)) (.ite h.setMg h))
  · exact .some h.setMg
  · exact .some h.faultPoke
  · exact .map (fun _ => h)

theorem State.Inv.sendPiece {i} (h : s.Inv) : (s.sendPiece i).Inv := h.setUsb.event
theorem State.Inv.sendAllPieces (h : s.Inv) : s.sendAllPieces.Inv := h.foldl (fun _ _ k => k.sendPiece)

theorem State.Inv.usbPoke {o v m} (h : s.Inv) : OptInv (s.usbPoke o v m) := by
  unfold State.usbPoke
  split
  · exact .some h
  · exact .some h.setUsb
  · exact .some (.ite h.setUsb.sendAllPieces h.setUsb)
  · exact .none

theorem State.Inv.twinClear {o} (h : s.Inv) : (s.twinClear o).Inv := .ite h.setTwin (.ite h.setTwin h)

theorem State.Inv.twinPoke {o v m} (h : s.Inv) : OptInv (s.twinPoke o v m) := by
  unfold State.twinPoke
  split
  · exact .ite .none (.some h.setTwin)
  · exact .some (.ite h.setTwin.unalert.unalert h)
  · exact .some h.setTwin
  · exact .map (fun _ => h)

theorem State.Inv.witClear {o} (h : s.Inv) : (s.witClear o).Inv := .ite h.setWit h

theorem State.Inv.ethPoke {p o v m} (h : s.Inv) : OptInv (s.ethPoke p o v m) := by
  unfold State.ethPoke
  dsimp only
  split
  · exact .ite (.some h.ethCtl.fireHeld) .none
  · exact .some h.setPort
  · exact .some h.setPort
  · exact .some h.setPort
  · exact .map (fun _ => h)

theorem State.Inv.tbPoke {o v m} (h : s.Inv) : OptInv (s.tbPoke o v m) := by
  unfold State.tbPoke
  split
  · exact .ite .none h.servoWrite
  · exact .map (fun _ => h)

theorem State.Inv.setCounter {n c} (h : s.Inv) : (s.setCounter n c).Inv := h.congr rfl rfl rfl
theorem State.Inv.clearCounters (h : s.Inv) : s.clearCounters.Inv := h.foldl (fun _ _ k => k.setCounter)

theorem State.Inv.evcPoke {o v m} (h : s.Inv) : OptInv (s.evcPoke o v m) :=
  .ite (.some (.ite (.clearCounters (h.congr rfl rfl rfl)) (h.congr rfl rfl rfl))) (.ite .none (.ite (.ite (.some h.setCounter) .none)
    (.some h.setCounter)))

theorem State.Inv.clearRc {a} (h : s.Inv) : (s.clearRc a).Inv :=
  .ite h (.ite h.setMg (.ite h (.ite h.tbClear (.ite h (.ite h.updPort (.ite h.updPort (.ite h.twinClear (.ite h (.ite h.snsClear (.ite h.pwmClear
    (.ite h.linkClear (.ite h (.ite h.leClear (.ite h.hbmClear (.ite h (.ite h.pwrClear (.ite h (.ite h.witClear (.ite h
      (.ite (h.updTile fun _ k => k.clear) h))))))))))))))))))))

theorem Tile.Canon.poke {t u : Tile} {o v m} (k : t.Canon) (e : t.poke o v m = some u) : u.Canon := by
  unfold Tile.poke at e
  split at e
  · obtain rfl := Option.some.inj e
    split
    · exact k
    · exact k
  · exact Option.some.inj e ▸ k
  · split at e
    · dsimp only at e
      split at e
      · split at e
        · exact Option.some.inj e ▸ k
        · exact absurd e.symm (Option.some_ne_none _)
      · exact Option.some.inj e ▸ k
    · exact Option.some.inj e ▸ k

theorem State.Inv.poke {a v m stamp c} (h : s.Inv) : OptInv (s.poke a v m stamp c) := by
  have same : OptInv ((s.peek a).map fun _ => s) := .map fun _ => h
  refine .ite h.mgPoke (.ite (.ite same h.tbPoke) (.ite h.kilnPoke (.ite same (.ite h.usbPoke (.ite h.ethPoke (.ite h.ethPoke (.ite h.twinPoke
    (.ite .none
    (.ite h.snsPoke (.ite h.pwmPoke (.ite h.linkPoke (.ite .none (.ite h.lePoke (.ite (.ite h.hbmPoke .none) (.ite .none (.ite h.evcPoke (.ite .none
      (.ite (.some h) (.ite h.pwrPoke (.ite .none (.ite same ?_)))))))))))))))))))))
  dsimp only
  split
  · exact .some (h.setTile (Tile.Canon.poke h.tile ‹_›))
  · exact .none

theorem State.Inv.pokeLogged {a v m stamp c} (h : s.Inv) : OptInv (s.pokeLogged a v m stamp c) := by
  unfold State.pokeLogged
  split
  · exact .ite (.some (h.poke _ ‹_›)) (.some ((h.poke _ ‹_›).journalNow))
  · exact .none

end

end Sys2Proof.Machine

end

section
/-!
PROOFS. The operations of data-plane commands, the recorder, bindings, failures and boot keep the rules of the whole machine (O60).
-/

set_option Elab.async false

namespace Sys2Proof.Machine

open Sys2Proof

section
variable {s : State}

/-! ## Data-plane commands -/

theorem State.Inv.inputLost {o loc} (h : s.Inv) : (s.inputLost o loc).Inv := h.complete
theorem State.Inv.queueJob {o a} (h : s.Inv) : (s.queueJob o a).Inv := h.setKiln

theorem State.Inv.runPut {o} (h : s.Inv) : (s.runPut o).Inv := by
  unfold State.runPut
  dsimp only
  split <;> exact h.hbmWrite.complete

theorem State.Inv.runGet {o} (h : s.Inv) : (s.runGet o).Inv := h.setUsb

theorem State.Inv.runPin {o} (h : s.Inv) : (s.runPin o).Inv :=
  .ite (h.setHbm h.hbm) (.finish (.ite (.journalNow (h.cleanLines.setHbm h.cleanLines.hbm)) (h.cleanLines.setHbm h.cleanLines.hbm)))

theorem State.Inv.readEntry {o} (h : s.Inv) : (s.readEntry o).1.Inv := .ite_fst h.pairRead h.pairRead.pairRead

theorem State.Inv.withCaptured {o} {f : State → State} (h : s.Inv) (hf : ∀ x, State.Inv x → (f x).Inv) : (s.withCaptured o f).Inv := by
  unfold State.withCaptured
  dsimp only
  split
  · exact h.readEntry.inputLost
  · exact hf _ h.readEntry

theorem State.Inv.dataRun {o a} (h : s.Inv) : (s.dataRun o a).Inv :=
  .ite h (h.withCaptured (fun _ k => .ite k.queueJob (.ite k.runPut (.ite k.runGet k.runPin))))

theorem State.Inv.runAgain {rerun} (h : s.Inv) : (s.runAgain rerun).Inv :=
  h.foldl (fun _ _ k => k.foldl (fun _ _ k' => .ite k' (.dataRun (.updQueue (k'.congr rfl rfl rfl)))))

/-! ## Witness -/

theorem State.Inv.witChange {c} {f : State → State} (h : s.Inv) (hf : ∀ x, State.Inv x → (f x).Inv) : (s.witChange c f).Inv :=
  .ite (hf _ h) (.journalNow (hf _ h))

theorem State.Inv.witStart {o} (h : s.Inv) : (s.witStart o).Inv := h.setWit.finish
theorem State.Inv.snapAll {kind c ixs content} (h : s.Inv) : (s.snapAll kind c ixs content).Inv := h.foldl (fun _ _ k => k.snapshot)
theorem State.Inv.dropUnlogged (h : s.Inv) : s.dropUnlogged.Inv := h.congr rfl rfl rfl

theorem State.Inv.recordStart (h : s.Inv) : s.recordStart.Inv := by
  unfold State.recordStart
  split
  · exact h
  · exact .ite h (.fireHeld (.snapshot (.snapAll (.snapAll (.snapAll (.snapAll (.snapAll (.witness (.dropUnlogged (h.witChange
      (fun _ k => k.setWit)))))))))))

theorem State.Inv.flushSamples (h : s.Inv) : s.flushSamples.Inv := h.foldl (fun _ _ k => k.foldl (fun _ _ k' => k'.sampleEntry))
theorem State.Inv.recordEnd {c} (h : s.Inv) : (s.recordEnd c).Inv := h.flushSamples.witness.witChange (fun _ k => k.setWit)
theorem State.Inv.recordStop {q sq} (h : s.Inv) : (s.recordStop q sq).Inv := h.recordEnd.complete
theorem State.Inv.gap (h : s.Inv) : s.gap.Inv := .ite h h.setWit.witPut
theorem State.Inv.streamEth {p e} (h : s.Inv) : (s.streamEth p e).Inv := h.foldl (fun _ _ k => k.setPort.send)
theorem State.Inv.streamUsb {e} (h : s.Inv) : (s.streamUsb e).Inv := .ite h h.setUsb.event
theorem State.Inv.entryLost (h : s.Inv) : s.entryLost.Inv := h.setWit.witPut

theorem State.Inv.witDrain (h : s.Inv) : s.witDrain.Inv := by
  unfold State.witDrain
  split
  · exact h
  · extract_lets d wit s1 s2 s3
    have h1 : s1.Inv := h.devRead.setWit
    have h2 : s2.Inv := .ite h1.streamEth h1
    have h3 : s3.Inv := .ite h2.streamEth h2
    exact .ite h (.ite h1.entryLost (.ite h3.streamUsb h3))

/-! ## Bindings -/

theorem State.Inv.boundDone {o ix} (h : s.Inv) : (s.boundDone o ix).Inv := h.journalNow.fireHeld.finish
theorem State.Inv.bindSlot {o} (h : s.Inv) : (s.bindSlot o).Inv := .ite h.defer.finish h.bindFresh.boundDone
theorem State.Inv.swapCoef {o} (h : s.Inv) : (s.swapCoef o).Inv := .congr (h.foldl (fun _ _ k => k.updSlot)) rfl rfl rfl

theorem State.Inv.bindLane {o} (h : s.Inv) : (s.bindLane o).Inv :=
  .boundDone (.ite (.bindPush (.ite h.setLane.ocLower h.setLane)) (.ite h.setLane.ocLower h.setLane))

theorem State.Inv.bindPwm {o} (h : s.Inv) : (s.bindPwm o).Inv := h.updPair.shadowWrite.pairConfigure.boundDone
theorem State.Inv.bindLink {o} (h : s.Inv) : (s.bindLink o).Inv := h.bindLinkTo.boundDone

theorem State.Inv.bindStandingAs {b o} (h : s.Inv) : (s.bindStandingAs b o).Inv := by
  unfold State.bindStandingAs
  dsimp only
  split
  · exact h.complete
  · split
    · exact .complete (h.reserve.loadBound.updTile (fun _ k => k))
    · exact .complete (.journalNow (h.reserve.loadBound.setBinding.foldl (fun _ _ k => k.updMailbox)))

theorem State.Inv.bindStanding {o} (h : s.Inv) : (s.bindStanding o).Inv := h.bindStandingAs
theorem State.Inv.launch {o} (h : s.Inv) : (s.launch o).Inv := h.setKiln
theorem State.Inv.leaveLaunch {slot i} (h : s.Inv) : (s.leaveLaunch slot i).Inv := h.setKiln

theorem State.Inv.unbind {o} (h : s.Inv) : (s.unbind o).Inv := by
  unfold State.unbind
  dsimp only
  split
  · exact h.leaveLaunch.unbindSlot.finish
  · exact h.leaveLaunch.updBinding
  · exact h.setPush.boundDone
  · exact h.pairUnbind.boundDone
  · exact h.unbindLink.boundDone

theorem State.Inv.failRunning {b p} (h : s.Inv) : (s.failRunning b p).Inv := by
  unfold State.failRunning
  refine .ite h ?_
  split
  · exact .ite h.failJob h.failInvocation
  · exact h.failInvocation

theorem State.Inv.removeBinding {b} (h : s.Inv) : (s.removeBinding b).Inv := by
  unfold State.removeBinding
  split
  · exact h
  · refine .journalDev ?_
    dsimp only
    split
    · refine .updTile ?_ ?_
      · refine .foldl ?_ (fun _ _ k => k.updMailbox)
        refine .dropBinding ?_
        refine h.failRunning.foldl ?_
        intro _ _ k
        split
        · exact k.complete
        · exact k
      · intro _ k
        split
        · exact k.setSlot
        · exact k
    · refine .foldl ?_ (fun _ _ k => k.updMailbox)
      refine .dropBinding ?_
      refine h.failRunning.foldl ?_
      intro _ _ k
      split
      · exact k.complete
      · exact k

theorem State.Inv.removeLane {n} (h : s.Inv) : (s.removeLane n).Inv := .journalDev (.setLane (.ite h.ocLower h))

theorem State.Inv.removeAll (h : s.Inv) : s.removeAll.Inv :=
  .unmappedCheck (.foldl (.foldl (.foldl (.foldl (.foldl (.foldl (.setKiln (.foldl (h.congr rfl rfl rfl) (fun _ _ k => k.finish)))
    (fun _ _ k => k.slotUnbound)) (fun _ _ k => k.removeBinding)) (fun _ _ k => k.setPush.journalDev)) (fun _ _ k => k.pairUnbind.journalDev))
    (fun _ _ k => k.unbindLink.journalDev)) (fun _ _ k => k.removeLane))

/-! ## Failures -/

theorem State.Inv.remap {p} (h : s.Inv) : (s.remap p).Inv := by
  unfold State.remap
  split
  · exact h
  · split <;> exact h.congr rfl rfl rfl

theorem State.Inv.takeBack {c} (h : s.Inv) : (s.takeBack c).Inv := h.settle.setKiln

theorem State.Inv.moveWork {p} (h : s.Inv) : (s.moveWork p).Inv := by
  unfold State.moveWork
  extract_lets t cs ls s1 u s2 hbm s3 s4
  have h1 : s1.Inv := h.foldl fun _ _ k => k.failRunning
  have h2 : s2.Inv := h1.setTile h1.tile
  have h3 : s3.Inv := h2.setHbm h2.hbm
  exact .foldl (.setKiln (h3.foldl fun _ _ k => k.takeBack)) fun _ _ k => k.updBinding

theorem State.Inv.failTile {p} (h : s.Inv) : (s.failTile p).Inv :=
  .ite h (.health (h.recordFailure (fun _ k => .remap (k.moveWork.updTile (fun _ k' => k')))))

theorem State.Inv.dropWork {q sq st loc} (h : s.Inv) : (s.dropWork q sq st loc).Inv := by
  unfold State.dropWork
  dsimp only
  split
  · exact h.failJob
  · split
    · exact .endReady (h.setKiln.setUsb.setHbm h.setKiln.setUsb.hbm)
    · exact .endSwapped (h.setKiln.setUsb.setHbm h.setKiln.setUsb.hbm)
    · exact .complete (h.setKiln.setUsb.setHbm h.setKiln.setUsb.hbm)

theorem State.Inv.loseInputs (h : s.Inv) : s.loseInputs.Inv :=
  h.foldl fun _ _ k => k.foldl fun _ _ k =>
    .ite k (.ite (.dropWork (.free (k.congr rfl rfl rfl))) (k.congr rfl rfl rfl))

theorem State.Inv.loseNow (h : s.Inv) : s.loseNow.Inv := .ite (.loseInputs (h.setHbm h.hbm)) h
theorem State.Inv.failPc {n} (h : s.Inv) : (s.failPc n).Inv := h.pcFailed.loseNow

theorem State.Inv.unitFailure {k1 n} (h : s.Inv) : (s.unitFailure k1 n).Inv := by
  unfold State.unitFailure
  split
  · exact h.failTile
  · exact h.failUnits
  · exact h.failUnits
  · exact h.failPc

theorem State.Inv.selfTest {o} (h : s.Inv) : (s.selfTest o).Inv :=
  .ite (.twinChange (.ite (.swapAll (h.setKiln.updTile (fun _ k => k))) h.setKiln)) (.ite (.swapAll (h.setKiln.updTile (fun _ k => k))) h.setKiln)

theorem State.Inv.behind {d} (h : s.Inv) : (s.behind d).Inv := .ite h (.ite (h.foldl (fun _ _ k => k.askCatchup)) h.setTwin)
theorem State.Inv.markFailed {d} (h : s.Inv) : (s.markFailed d).Inv := .ite h.failTile (.ite h.failUnits (.ite h.failUnits h))
theorem State.Inv.reopen {k1} (h : s.Inv) : (s.reopen k1).Inv := .ite (h.updDom.updTile (fun _ k => k)) h.updDom

theorem State.Inv.selfTestRun {k1 sig} (h : s.Inv) : (s.selfTestRun k1 sig).Inv :=
  .ite h.setKiln.reopen.complete (.complete (.ite h.setKiln.reopen.behind.markFailed h.setKiln.reopen.behind))

theorem State.Inv.deferred {o} (h : s.Inv) : OptInv (s.deferred o) := by
  unfold State.deferred
  split
  · exact .ite .none (.some h.setKiln)
  · exact .none

/-! ## Boot -/

theorem State.Inv.unlock (h : s.Inv) : s.unlock.Inv := h.setMg
theorem State.Inv.readConfig (h : s.Inv) : s.readConfig.Inv := h.setMg

theorem State.Inv.trainHbm {warm} (h : s.Inv) : (s.trainHbm warm).Inv := by
  unfold State.trainHbm
  extract_lets bad old keep pcs hbm s1
  clear_value pcs
  have h1 : s1.Inv := h.setHbm h.hbm
  exact .ite h1 ⟨rfl, h1.tiles, h1.queue⟩

theorem State.Inv.applyHealth (h : s.Inv) : s.applyHealth.Inv := by
  unfold State.applyHealth
  refine .foldl ?_ fun _ _ k => .remap (k.updTile fun _ k' => k')
  exact ⟨h.hbm, h.tiles, h.queue⟩

theorem State.Inv.applyList {l} (h : s.Inv) : (s.applyList l).Inv := by
  unfold State.applyList
  refine h.foldl ?_
  intro _ _ k
  split
  · exact (k.poke _ ‹_›).journalNow
  · exact k.setMg

theorem State.Inv.setSupply (h : s.Inv) : s.setSupply.Inv := h.free.free.setMg
theorem State.Inv.fireAll (h : s.Inv) : s.fireAll.Inv := h.foldl (fun _ _ k => k.setDom)
theorem State.Inv.noHbm (h : s.Inv) : s.noHbm.Inv := h.setMg.updQueue
theorem State.Inv.recover {why warm} (h : s.Inv) : (s.recover why warm).Inv := .ite h.trainHbm.noHbm h.trainHbm.setMg.updQueue

theorem State.Inv.runFirmware {warm bad} (h : s.Inv) : (s.runFirmware warm bad).Inv :=
  .ite h.setMg.applyList.applyHealth.trainHbm.noHbm (.setMg (.ite h.setMg.applyList.applyHealth.trainHbm.fireAll.setSupply
    (h.setMg.applyList.applyHealth.trainHbm.fireAll.setSupply.foldl (fun _ _ k => .ite k.failTile k))))

theorem State.Inv.boot {warm bad} (h : s.Inv) : (s.boot warm bad).Inv := by
  unfold State.boot
  refine .ite h.setMg.setTwin.setMg ?_
  refine .ite (.recover (.readConfig (.ite h.setMg.setTwin h.setMg.setTwin.unlock))) ?_
  refine .ite (.recover (.readConfig (.ite h.setMg.setTwin h.setMg.setTwin.unlock))) ?_
  split
  · exact .recover (.readConfig (.ite h.setMg.setTwin h.setMg.setTwin.unlock))
  · exact .runFirmware (.setMg (.readConfig (.ite h.setMg.setTwin h.setMg.setTwin.unlock)))

theorem State.Inv.fwLoad {o} (h : s.Inv) : (s.fwLoad o).Inv := .ite h.setMg h.complete

theorem State.Inv.fwLoadDone (h : s.Inv) : s.fwLoadDone.Inv := by
  unfold State.fwLoadDone
  split
  · exact h
  · exact .ite h.setMg.complete h.setMg.journalNow.complete

theorem State.Inv.resumeLoad (h : s.Inv) : s.resumeLoad.Inv := by
  unfold State.resumeLoad
  split
  · exact h.updQueue.fwLoad
  · exact h

theorem State.Inv.resumeWork (h : s.Inv) : s.resumeWork.Inv := .resumeLoad (.runAgain (h.journalNow.foldl (fun _ _ k => k.reoffer)))
theorem State.Inv.enterService (h : s.Inv) : s.enterService.Inv := .ite (.ite h.setMg.resumeWork h.setMg) h

theorem State.Inv.replayEnd {flagged} (h : s.Inv) : (s.replayEnd flagged).Inv := by
  unfold State.replayEnd
  split
  · extract_lets s1 s2 b s3 bad s4 s5
    have h1 : s1.Inv := h.removeAll
    clear_value s1
    have h2 : s2.Inv := h1.congr rfl rfl rfl
    have h3 : s3.Inv := by
      unfold s3
      split
      · exact h2.setTb.event.journalDev.resumeMode
      · exact h2
    have h4 : s4.Inv := h3.witChange fun _ k => k.setWit
    exact h4.finish.setMg
  · exact h

theorem State.Inv.powerOn (h : s.Inv) : s.powerOn.Inv where
  hbm := State.Inv.reset.hbm
  tiles := State.Inv.reset.tiles
  queue := h.queue

theorem State.Inv.cutOff (h : s.Inv) : s.cutOff.Inv := by
  unfold State.cutOff
  refine .foldl ?_ (fun _ _ k => k.foldl (fun _ _ k' => .ite k' k'.finish))
  refine .removeAll ?_
  refine .leavePair ?_
  split
  · exact h.recordEnd
  · exact h.replayEnd
  · exact h

theorem Tile.Canon.warm {t : Tile} (k : t.Canon) : t.warm.Canon := k

theorem State.Inv.keptOver (h : s.Inv) : s.keptOver.Inv where
  hbm := h.hbm
  tiles := (h.mapTiles (f := fun e => (e.1, Tile.warm e.2)) fun _ => rfl).tiles
  queue := h.queue

theorem State.Inv.warmReset {cause} (h : s.Inv) : (s.warmReset cause).Inv :=
  .ite h (.ite h.cutOff.flushCache.keptOver.setMg h.cutOff.flushCache.keptOver.setMg.boot)

theorem State.Inv.release {sel pref safe bad} (h : s.Inv) : (s.release sel pref safe bad).Inv := .ite h h.setMg.boot
theorem State.Inv.watchdog (h : s.Inv) : s.watchdog.Inv := .ite h h.setTwin.setMg.raiseAlert.raiseTrip.journalNow.leavePair

theorem State.Inv.attest {o} (h : s.Inv) : (s.attest o).Inv := by
  have h1 {x} : State.Inv { s with freeIx := x } := h.congr rfl rfl rfl
  unfold State.attest
  extract_lets b ok sig s1 r
  have hr : r.1.Inv := h1.hbmWrite
  split
  · exact hr.complete
  · exact hr.complete

theorem State.Inv.journalEntries {is} (h : s.Inv) : (s.journalEntries is).2.2.Inv := by
  induction is generalizing s with
  | nil => exact h
  | cons i is ih => exact ih h.devRead

theorem State.Inv.journalRead {o} (h : s.Inv) : (s.journalRead o).Inv := by
  unfold State.journalRead
  dsimp only
  split <;> exact h.journalEntries.hbmWrite.complete

end

end Sys2Proof.Machine

end

section
/-!
PROOFS. The operations of the twin pair, the host link, replays and the commands keep the rules of the whole machine (O60).
-/

set_option Elab.async false

namespace Sys2Proof.Machine

open Sys2Proof

section
variable {s : State}

/-! ## The twin pair -/

theorem State.Inv.dropContext {p w} (h : s.Inv) : (s.dropContext p w).Inv := by
  unfold State.dropContext
  split
  · exact .ite h (h.updTile (fun _ k => k.leave))
  · exact h

theorem State.Inv.handOver (h : s.Inv) : s.handOver.Inv :=
  .setHbm (.setUsb (h.setKiln.foldl (fun _ _ k => k.dropContext.dropContext))) (State.Inv.hbm (h.setKiln.foldl
    (fun _ _ k => k.dropContext.dropContext)))

theorem State.Inv.endOwn (h : s.Inv) : s.endOwn.Inv :=
  .foldl (h.foldl fun _ _ k => k.foldl fun _ _ k => .ite k.dropWork (.ite k k.finish)) fun _ _ k => k.foldl fun _ _ k => k.releaseNext

theorem State.Inv.attach {o} (h : s.Inv) : (s.attach o).Inv := h.setTwin.unalert
theorem State.Inv.enterBulk (h : s.Inv) : s.enterBulk.Inv := .ite h.attachEnds h.endOwn.handOver.twinChange.fireHeld

theorem State.Inv.joinBinding {b p} (h : s.Inv) : (s.joinBinding b p).Inv := by
  unfold State.joinBinding
  dsimp only
  split
  · exact h.bindSlot
  · exact h.bindStandingAs.updBinding
  · exact h.bindLane
  · exact h.bindPwm
  · exact h.bindLink
  · exact h

theorem State.Inv.joinLink {k1} (h : s.Inv) : (s.joinLink k1).Inv := h.updLink
theorem State.Inv.sendFinal (h : s.Inv) : s.sendFinal.Inv := h.tell

theorem State.Inv.bulkDone {mem copies binds} (h : s.Inv) : (s.bulkDone mem copies binds).Inv :=
  .ite h (.twinChange (.ite (.foldl (.foldl (.setKiln (h.foldl (fun _ _ k => k.hbmWrite))) (fun _ _ k => k.joinBinding))
    (fun _ _ k => k.joinLink)) h.sendFinal))

theorem State.Inv.joinCommand {o} (h : s.Inv) : (s.joinCommand o).Inv := by
  unfold State.joinCommand
  split
  · exact h.unbind
  · exact h.swapCoef
  · exact h.launch
  · exact h

theorem State.Inv.finalDone {qs ix} (h : s.Inv) : (s.finalDone qs ix).Inv :=
  .ite h (.ite (.foldl (.attachEnds (.twinChange (.foldl (.setTwin (h.foldl (fun _ _ k => k.setQueue))) (fun _ _ k => k.foldl
    (fun _ _ k' => k'.joinCommand))))) (fun _ _ k => k.tell)) h.twinChange)

theorem State.Inv.detach {o} (h : s.Inv) : (s.detach o).Inv := h.setTwin
theorem State.Inv.roleSwap {o} (h : s.Inv) : (s.roleSwap o).Inv := h.setTwin
theorem State.Inv.heartbeat (h : s.Inv) : s.heartbeat.Inv := .ite h (.ite h.setTwin.tell h.setTwin)

theorem State.Inv.twinLock {egress arrival resent} (h : s.Inv) : (s.twinLock egress arrival resent).Inv := by
  unfold State.twinLock
  extract_lets standby theta free was s0 s1 s2 s3
  have h2 : s2.Inv := .servoUpdate (.setTb (h.congr rfl rfl rfl))
  have h3 : s3.Inv := .ite h2 h2.timeEvent
  exact .ite h (.ite h3.enterBulk h3)

theorem State.Inv.entryEffects {kind r digest payload} (h : s.Inv) : (s.entryEffects kind r digest payload).Inv := by
  unfold State.entryEffects
  split
  · exact h.foldl (fun _ _ k => k.hbmWrite)
  · dsimp only
    split
    · exact .keepSections (h.foldl (fun _ _ k => k.hbmWrite))
    · exact h.foldl (fun _ _ k => k.hbmWrite)
  · exact h.compareRun
  · exact h

theorem State.Inv.releaseHeld {r} (h : s.Inv) : (s.releaseHeld r).Inv := by
  unfold State.releaseHeld
  split
  · exact h
  · exact h.setBinding

theorem State.Inv.entryRecord {ix kind r payload} (h : s.Inv) : (s.entryRecord ix kind r payload).Inv := .ite h h.releaseHeld.setQueue

theorem State.Inv.applyEntry {en} (h : s.Inv) : (s.applyEntry en).Inv := by
  unfold State.applyEntry
  extract_lets ix kind payload r d s1
  have h1 : s1.Inv := by
    unfold s1
    split
    · exact h.logEntry.pairRead.entryRecord
    · exact h.logEntry.pairRead.entryEffects.entryRecord
  exact h1.setTwin.tell

theorem State.Inv.applyReceived {n} (h : s.Inv) : (s.applyReceived n).Inv := by
  induction n generalizing s with
  | zero => exact h
  | succ n ih =>
    unfold State.applyReceived
    split
    · exact ih h.setTwin.applyEntry
    · exact h

theorem State.Inv.entryIn {en} (h : s.Inv) : (s.entryIn en).Inv := .ite h h.setTwin.applyReceived
theorem State.Inv.entryAcked {ix} (h : s.Inv) : (s.entryAcked ix).Inv := h.congr rfl rfl rfl
theorem State.Inv.catchupEnd (h : s.Inv) : s.catchupEnd.Inv := .ite h.twinChange h

theorem State.Inv.installPiece {p im e} (h : s.Inv) : (s.installPiece p im e).Inv := by
  unfold State.installPiece
  split
  · exact h.storeWrite.updTile (fun _ k => k.noteWrite)
  · exact h

theorem State.Inv.catchUp {b data} (h : s.Inv) : (s.catchUp b data).Inv := by
  unfold State.catchUp
  split
  · exact h
  · refine .ite h ?_
    split
    · exact h
    · exact .catchupEnd (.setTwin (.setBinding (.foldl (h.foldl (fun _ _ k => k.installPiece)) (fun _ _ k => k.storeWrite))))

theorem State.Inv.linkTrained (h : s.Inv) : s.linkTrained.Inv := .ite h.setTwin h
theorem State.Inv.laneLost {n} (h : s.Inv) : (s.laneLost n).Inv := h.setTwin

/-! ## The host link -/

theorem State.Inv.pendingPiece {i} (h : s.Inv) : (s.pendingPiece i).Inv := .ite h h.sendPiece
theorem State.Inv.usbTrained {v} (h : s.Inv) : (s.usbTrained v).Inv := .ite h h.setUsb.sendAllPieces
theorem State.Inv.streamsOn (h : s.Inv) : s.streamsOn.Inv := .ite h h.free.setUsb
theorem State.Inv.cutGet {g} (h : s.Inv) : (s.cutGet g).Inv := h.setUsb.complete
theorem State.Inv.busReset (h : s.Inv) : s.busReset.Inv := h.setUsb.foldl (fun _ _ k => k.cutGet)
theorem State.Inv.suspend (h : s.Inv) : s.suspend.Inv := .ite h (.setUsb (h.congr rfl rfl rfl))
theorem State.Inv.resume (h : s.Inv) : s.resume.Inv := h.setUsb
theorem State.Inv.lowPowerRequest {u2} (h : s.Inv) : (s.lowPowerRequest u2).Inv := .ite h h.setUsb

theorem State.Inv.getDone {q sq} (h : s.Inv) : (s.getDone q sq).Inv := by
  unfold State.getDone
  split
  · exact h
  · refine .ite h ?_
    dsimp only
    split
    · exact h.setUsb.hbmRead.complete
    · exact h.setUsb.hbmRead.setUsb.event.complete

theorem State.Inv.teleEth {p e} (h : s.Inv) : (s.teleEth p e).Inv := .ite h.setPort.send h
theorem State.Inv.telemetry (h : s.Inv) : s.telemetry.Inv := .ite h h.setUsb.teleEth.teleEth

theorem State.Inv.smbus {addr code pecOk} (h : s.Inv) : (s.smbus addr code pecOk).Inv := by
  unfold State.smbus
  refine .ite h.setMg ?_
  split <;> exact h.setMg

/-! ## Replays -/

theorem State.Inv.replayFrom {o log} (h : s.Inv) : (s.replayFrom o log).Inv :=
  .fireHeld (.setTb (.stepTo (.setMg (h.setTb.witChange (fun _ k => k.setWit)))))

theorem State.Inv.replayStart {o} (h : s.Inv) : (s.replayStart o).Inv := by
  unfold State.replayStart
  dsimp only
  split
  · exact h.hbmRead.inputLost
  · exact h.hbmRead.replayFrom

/-! ## Commands -/

theorem State.Inv.queueSet {o} (h : s.Inv) : (s.queueSet o).Inv := .finish (.ite h.setQueue h.setQueue.journalNow)

theorem State.Inv.regRead {o} (h : s.Inv) : (s.regRead o).Inv :=
  .complete (h.foldl fun _ _ k => .ite k.clearRc k)

theorem State.Inv.regWrite {o} (h : s.Inv) : (s.regWrite o).Inv := by
  unfold State.regWrite
  dsimp only
  split
  · exact (h.pokeLogged _ ‹_›).complete
  · exact h.complete

theorem State.Inv.setBudget {o} (h : s.Inv) : (s.setBudget o).Inv := h.setKiln.finish
theorem State.Inv.timeModeSet {o} (h : s.Inv) : (s.timeModeSet o).Inv := .finish (.ite h.timeMode.journalNow h.timeMode)

theorem State.Inv.witStop {o} (h : s.Inv) : (s.witStop o).Inv := by
  unfold State.witStop
  split
  · exact h.recordStop
  · exact h.replayEnd.finish
  · exact h.setWit.finish

theorem State.Inv.runOp {o a} (h : s.Inv) : (s.runOp o a).Inv := by
  unfold State.runOp
  split
  · exact h.queueSet
  · exact h.regRead
  · exact h.regWrite
  · exact h.setBudget
  · exact h.setRung
  · exact h.selfTest
  · exact h.attest
  · exact h.fwLoad
  · exact h.attach
  · exact h.detach
  · exact h.roleSwap
  · exact h.journalRead
  · exact h.bindSlot
  · exact h.unbind
  · exact h.swapCoef
  · exact h.bindStanding
  · exact h.bindLane
  · exact h.bindPwm
  · exact h.bindLink
  · exact h.launch
  · exact h.witStart
  · exact h.witStop
  · exact h.replayStart
  · exact h.timeModeSet
  · exact h.dataRun

theorem State.Inv.run {o a} (h : s.Inv) : (s.run o a).Inv := .ite h.dataRun (h.withCaptured (fun _ k => k.runOp))

theorem State.Inv.begin_ {o a} (h : s.Inv) : (s.begin_ o a).Inv := by
  unfold State.begin_
  split
  · exact h.deferred _ ‹_›
  · exact h.run

theorem State.Inv.ack {p} (h : s.Inv) : (s.ack p).Inv := h.event.reply.acknowledge

theorem State.Inv.accept {m} (h : s.Inv) : (s.accept m).Inv := by
  unfold State.accept
  refine .ite h.ack ?_
  dsimp only
  split
  · exact .inputLost (.readHbm (.ite h.enter.reply.event.tell h.enter.reply.event))
  · exact .begin_ (.readHbm (.ite h.enter.reply.event.tell h.enter.reply.event))

theorem State.Inv.refuse {p row} (h : s.Inv) : (s.refuse p row).Inv := .ite h.reply.event.event h.reply.event

theorem State.Inv.turnAway {m} (h : s.Inv) : OptInv (s.turnAway m) := by
  unfold State.turnAway
  refine .ite (.some h.refuse) ?_
  split
  · exact .some h.reply
  · split
    · exact .none
    · exact .some (.refuse (h.congr rfl rfl rfl))

theorem State.Inv.dropArrival (h : s.Inv) : s.dropArrival.Inv := h.setTwin

theorem State.Inv.takeArrivals {n} (h : s.Inv) : (s.takeArrivals n).Inv := by
  induction n generalizing s with
  | zero => exact h
  | succ n ih =>
    unfold State.takeArrivals
    split
    · exact h
    · split
      · exact ih (h.turnAway _ ‹_›).dropArrival
      · exact .ite h.tell (ih h.dropArrival.accept)

theorem State.Inv.submit {p} (h : s.Inv) : (s.submit p).Inv := .ite h (.ite h.event.witness.setTwin.takeArrivals h.event.witness.setTwin)

theorem State.Inv.mirrorAcked (h : s.Inv) : s.mirrorAcked.Inv := by
  unfold State.mirrorAcked
  split
  · exact h
  · exact h.dropArrival.accept.takeArrivals

theorem State.Inv.acceptAlone (h : s.Inv) : s.acceptAlone.Inv := h.mirrorAcked

theorem State.Inv.testRuns {d sig} (h : s.Inv) : (s.testRuns d sig).Inv := by
  unfold State.testRuns
  split
  · exact h
  · refine .ite h (.catchupEnd (h.selfTestRun.foldl fun s w k => ?_))
    split
    · exact k.begin_
    · exact k

theorem State.Inv.writes {h1 a v m} (h : s.Inv) : (s.writes h1 a v m).Inv := h.submit

/-! ## The peer -/

theorem State.Inv.interlock (h : s.Inv) : s.interlock.Inv := .ite h (.ite h.setTwin.raiseAlert.journalNow.leavePair (.ite h h.setTwin))
theorem State.Inv.promoteLost (h : s.Inv) : s.promoteLost.Inv := .ite h.setTwin h
theorem State.Inv.peerPin {level} (h : s.Inv) : (s.peerPin level).Inv := h.setTwin.interlock.promoteLost
theorem State.Inv.goAlone {pair role why} (h : s.Inv) : (s.goAlone pair role why).Inv := h.unmirror.twinChange.acceptAlone.swapEnds

theorem State.Inv.failAttach {why} (h : s.Inv) : (s.failAttach why).Inv := by
  unfold State.failAttach
  exact h.removeAll.twinChange.attachEnds

theorem State.Inv.peerLost {why} (h : s.Inv) : (s.peerLost why).Inv := by
  unfold State.peerLost
  refine .ite h.failAttach ?_
  refine .ite h ?_
  split
  · exact h
  · exact h.goAlone
  · exact .ite (.ite h.twinChange.raiseAlert h.twinChange) h.failAttach

theorem State.Inv.peerDetached {why} (h : s.Inv) : (s.peerDetached why).Inv := .ite h.twinChange (.ite h h.peerLost)

theorem State.Inv.intervalEnd (h : s.Inv) : s.intervalEnd.Inv :=
  .ite h (.ite h.setTwin (.ite h.setTwin (.ite h.setTwin.event.peerLost h.setTwin.event)))

theorem State.Inv.abortTests (h : s.Inv) : s.abortTests.Inv := by
  unfold State.abortTests
  refine h.setKiln.setKiln.foldl ?_
  intro _ _ k
  refine k.reopen.complete.foldl ?_
  intro _ _ k'
  split
  · exact k'.begin_
  · exact k'

theorem State.Inv.leaveBehind (h : s.Inv) : s.leaveBehind.Inv := .ite (.raiseAlert (h.congr rfl rfl rfl)) h
theorem State.Inv.promoted (h : s.Inv) : s.promoted.Inv := h.unmirror.twinChange.event.abortTests.leaveBehind.runAgain.foldl (fun _ _ k => k.reoffer)

theorem State.Inv.promotion (h : s.Inv) : s.promotion.Inv := by
  unfold State.promotion
  split
  · exact h
  · exact .ite h (.ite (.promoted (.ite (.setTwin (.ite h.setTwin h)) (.ite h.setTwin h))) (.ite (.setTwin (.ite h.setTwin h)) (.ite h.setTwin h)))

theorem State.Inv.detachEffect (h : s.Inv) : s.detachEffect.Inv := by
  unfold State.detachEffect
  split
  · exact h
  · refine .ite h ?_
    refine .complete ?_
    split
    · exact h.setTwin.attachEnds
    · exact h.setTwin.goAlone
    · exact h.setTwin.removeAll.forgetWork.twinChange.attachEnds

theorem State.Inv.swapCount (h : s.Inv) : s.swapCount.Inv := by
  unfold State.swapCount
  split
  · exact h
  · exact .ite (.ite h h.handOver.tell.twinChange.complete) (.ite (.runAgain (.twinChange (.unmirror (.ite h.setTwin h)))) (.ite h.setTwin h))

/-! ## Flits -/

theorem State.Inv.messageBytes {m} (h : s.Inv) : (s.messageBytes m).2.Inv := by
  unfold State.messageBytes
  split
  · exact h
  · exact h
  · exact h.congr rfl rfl rfl

theorem State.Inv.sendFlit {cls bytes} (h : s.Inv) : (s.sendFlit cls bytes).Inv := h.setTwin.event
theorem State.Inv.idleFlit (h : s.Inv) : s.idleFlit.Inv := h.setTwin

theorem State.Inv.pump (h : s.Inv) : s.pump.Inv := by
  unfold State.pump
  refine .ite h ?_
  refine .ite h.idleFlit ?_
  dsimp only
  split
  · exact h.idleFlit
  · split
    · exact h.setTwin.messageBytes.sendFlit
    · exact h.sendFlit

theorem State.Inv.flitsAcked {ack} (h : s.Inv) : (s.flitsAcked ack).Inv := h.setTwin
theorem State.Inv.nakIn {ack} (h : s.Inv) : (s.nakIn ack).Inv := h.flitsAcked.setTwin.event
theorem State.Inv.nakOut {again} (h : s.Inv) : (s.nakOut again).Inv := .ite h.setTwin.event.setTwin h.setTwin.event
theorem State.Inv.sendBulk (h : s.Inv) : s.sendBulk.Inv := h.tell

theorem State.Inv.peerPairIs {x} (h : s.Inv) : (s.peerPairIs x).Inv := by
  unfold State.peerPairIs
  dsimp only
  split
  · exact .ite h.twinChange.unalert.sendBulk.fireHeld h
  · exact h.peerDetached
  · exact h.peerDetached
  · exact .ite h.twinChange.sendFinal h
  · exact .ite h.twinChange h

theorem State.Inv.roleMessage {m} (h : s.Inv) : (s.roleMessage m).Inv := by
  unfold State.roleMessage
  split
  · exact .ite h.setTwin h
  · exact h.peerPairIs
  · exact .ite h.setTwin h
  · exact h

theorem State.Inv.mirrorIn {p captured stamp sq} (h : s.Inv) : (s.mirrorIn p captured stamp sq).Inv :=
  .ite h.tell h.witness.updQueue.enter.tell.begin_

theorem State.Inv.mirrorMessage {bs} (h : s.Inv) : (s.mirrorMessage bs).Inv := by
  unfold State.mirrorMessage
  refine .ite h ?_
  split
  · exact h.mirrorIn
  · exact h.acknowledge.tell

theorem State.Inv.messageIn {cls bs} (h : s.Inv) : (s.messageIn cls bs).Inv := by
  unfold State.messageIn
  split
  · exact h.setTwin
  · exact h.roleMessage
  · exact h.mirrorMessage
  · exact h

theorem State.Inv.flitTaken {f} (h : s.Inv) : (s.flitTaken f).Inv := .ite h.setTwin.messageIn h.setTwin

theorem State.Inv.flitIn {f} (h : s.Inv) : (s.flitIn f).Inv := by
  unfold State.flitIn
  extract_lets again tw ack s1 s2
  have h2 : s2.Inv := .ite h.event.nakIn h.event.flitsAcked
  exact .ite h (.ite h.setTwin.event.nakOut (.ite h2 (.ite h2.flitTaken (.ite h2 h2.nakOut))))

/-! ## Replay entries -/

theorem State.Inv.replaySlot {n b} (h : s.Inv) : (s.replaySlot n b).Inv := .fireHeld (.ite h.bindFresh.updSlot.updSlot h.bindFresh.updSlot)
theorem State.Inv.replayLane {n b} (h : s.Inv) : (s.replayLane n b).Inv := h.setLane
theorem State.Inv.replayPair {p b} (h : s.Inv) : (s.replayPair p b).Inv := h.updPair
theorem State.Inv.replayLink {l b} (h : s.Inv) : (s.replayLink l b).Inv := .fireHeld (.updLink (.ite h.updLink h.bindLinkTo))
theorem State.Inv.replayMailbox {m b} (h : s.Inv) : (s.replayMailbox m b).Inv := h.updMailbox
theorem State.Inv.dropResults {q next} (h : s.Inv) : (s.dropResults q next).Inv := h.setWit

theorem State.Inv.replayBinding {b c} (h : s.Inv) : (s.replayBinding b c).Inv := by
  unfold State.replayBinding
  extract_lets len record s1 hdr pkt p s2 parts next s3
  have h3 : s3.Inv := h.hbmStore.bindStandingAs.updBinding
  split
  · exact h3
  · extract_lets s4 fresh ctx
    have h4 : s4.Inv := h3.dropResults
    split
    · exact h4
    · extract_lets s5
      have h5 : s5.Inv := by
        refine h4.foldl fun s e k => ?_
        split
        · exact k.storeWrite
        · exact k
      split
      · exact h5.updTile fun _ k => k.setSlot
      · exact h5

theorem State.Inv.replaySnapshot {pl} (h : s.Inv) : (s.replaySnapshot pl).Inv := by
  unfold State.replaySnapshot
  dsimp only
  split
  · exact h.replaySlot
  · exact h.replayLane
  · exact h.setPush
  · exact h.replayPair
  · exact h.replayLink
  · exact h.replayMailbox
  · exact h.replayBinding
  · exact h

theorem State.Inv.replaySample {g c pl} (h : s.Inv) : (s.replaySample g c pl).Inv := h.foldl (fun _ _ k => .ite k.laneThrough (.ite k.laneThrough k))

theorem State.Inv.replayPhase {n} (h : s.Inv) : (s.replayPhase n).Inv := by
  unfold State.replayPhase
  refine .ite h ?_
  split
  · exact h
  · exact .ite h h.laneThrough

theorem State.Inv.replayAck {p} (h : s.Inv) : (s.replayAck p).Inv := by
  unfold State.replayAck
  dsimp only
  split
  · exact h.acknowledge
  · exact h

theorem State.Inv.replayPacket {stamp p} (h : s.Inv) : (s.replayPacket stamp p).Inv := by
  unfold State.replayPacket
  dsimp only
  split
  · exact h
  · exact .ite (.ite (.event (.ite h h.event)) (.ite h h.event)) (.ite h.setWit (.ite h.event.replayAck h.setWit.enter.event.begin_))

theorem State.Inv.replayBegin {pl} (h : s.Inv) : (s.replayBegin pl).Inv := .ite h.setTb h.setTb.setMg.journalNow

theorem State.Inv.replayOne {e} (h : s.Inv) : (s.replayOne e).Inv := by
  unfold State.replayOne
  dsimp only
  split
  · exact h.replayBegin
  · exact h.replaySnapshot
  · exact h.setTb
  · exact h.replaySample
  · exact h.laneEvent
  · exact h.tripEdge
  · exact h.ocRaise
  · exact h.pushElement
  · exact h.replayPacket
  · exact h

theorem State.Inv.replayEntry (h : s.Inv) : s.replayEntry.Inv := .ite h (.ite h h.setWit.replayOne)
theorem State.Inv.replayOver (h : s.Inv) : s.replayOver.Inv := .ite h (.ite h.replayEnd (.ite h (.ite h.replayEnd (.ite h.setWit.replayEnd h))))

/-! ## The count of time -/

theorem State.Inv.countCycles {a b} (h : s.Inv) : (s.countCycles a b).Inv := by
  refine h.foldl fun s p k => ?_
  have counted {c : Prop} [Decidable c] {m n} : (if c then (s.tileEvent p 0 m).tileEvent p 1 n else s.tileEvent p 0 m).Inv :=
    .ite k.tileEvent.tileEvent k.tileEvent
  exact .ite counted.tileEvent (.ite counted.tileEvent counted)

theorem State.Inv.failures (h : s.Inv) : s.failures.Inv := .loseNow (h.foldl (fun _ _ k => k.failTile))

theorem State.Inv.tick (h : s.Inv) : s.tick.Inv :=
  .ite h h.setTb.runPairs.interlock.raisePin.witDrain.pump.portNext.portNext.clockSteps.streamsOn.failures.countCycles

end

end Sys2Proof.Machine

end

section
/-!
PROOFS. Every instruction and every event keeps the rules of the whole machine, and so does every step (O60).
-/

set_option Elab.async false

namespace Sys2Proof.Machine

open Sys2Proof

section
variable {s : State}

/-! ## Vector instructions -/

theorem State.Inv.lanesOp {op a} (h : s.Inv) : (lanesOp op a s).1.Inv := h.atDone
theorem State.Inv.maskOp {op a} (h : s.Inv) : (maskOp op a s).1.Inv := h.atDone
theorem State.Inv.selOp {a} (h : s.Inv) : (selOp a s).1.Inv := h.atDone
theorem State.Inv.intOp {op a} (h : s.Inv) : (intOp op a s).1.Inv := h.lanesOp
theorem State.Inv.intSat {op a} (h : s.Inv) : (intSat op a s).1.Inv := h.lanesOp
theorem State.Inv.fpOp {op a} (h : s.Inv) : (fpOp op a s).1.Inv := h.lanesOp

theorem State.Inv.atPush {a : At} {n bytes} {write : ℕ → ℕ → State → State × Halt} (h : s.Inv) (hf : ∀ y0 y1 x, State.Inv x →
    (write y0 y1 x).1.Inv) : (a.push n bytes write s).1.Inv := by
  unfold At.push
  refine .ite_fst h ?_
  split
  · exact h
  · exact h.atSet.tileEvent
  · split
    · dsimp only
      split
      · exact .ite (.tileEvent (.updTile (.atSet (hf _ _ _ h)) (fun _ k => k.wake))) (.updTile (.atSet (hf _ _ _ h)) (fun _ k => k.wake))
      · exact hf _ _ _ h
    · exact h

theorem State.Inv.atPop {a : At} {eng n bytes} {k1 : List Byte → State → State × Halt} (h : s.Inv) (hf : ∀ y0 x, State.Inv x → (k1 y0 x).1.Inv) :
    (a.pop eng n bytes k1 s).1.Inv :=
  .ite_fst h (.ite_fst h.atSet (h.atReading (fun _ _ k => hf _ _ k.atSet)))

theorem State.Inv.atPutLanes {a : At} {m ws st off} (h : s.Inv) : (a.putLanes m ws st off s).Inv :=
  .ite h.ownWrite (h.foldl (fun _ _ k => .ite k.ownWrite k))

theorem State.Inv.redOp {unit op a} (h : s.Inv) : (redOp unit op a s).1.Inv := h.atDone

/-! ## Quantisation -/

theorem State.Inv.atReads {a : At} {eng rs} (h : s.Inv) : (a.reads eng rs s).2.1.Inv := by
  induction rs generalizing s with
  | nil => exact h
  | cons r rs ih =>
    refine ih ?_
    split
    · exact h
    · exact h.storeRead

theorem State.Inv.quantised {a bs} (h : s.Inv) : (s.quantised a bs).Inv :=
  .ite (h.atSet.updTile (fun _ k => k)) (.tileEvent (h.atSet.updTile (fun _ k => k)))

theorem State.Inv.atTensor {a : At} {d count} {k1 : Bq → State → State × Halt} (h : s.Inv) (hf : ∀ y0 x, State.Inv x → (k1 y0 x).1.Inv) :
    (a.tensor d count k1 s).1.Inv :=
  .ite_fst h (h.atReading (fun _ _ k => .ite_fst (hf _ _ k) k))

theorem State.Inv.atSkewed {a : At} {e} (h : s.Inv) : (a.skewed e s).1.Inv := by
  unfold At.skewed
  split
  · exact .tileEvent (h.updTile (fun _ k => k))
  · exact h

theorem State.Inv.atDequant {a : At} {eng q groups} (h : s.Inv) : (a.dequant eng q groups s).2.1.Inv := h.atReads.atReads

theorem State.Inv.atPushGroups {a : At} {coil bytes ds} (h : s.Inv) : (a.pushGroups coil bytes ds s).1.Inv := by
  induction ds generalizing s with
  | nil => exact h
  | cons d ds ih =>
    have hp {b : At} {f : Nat → Nat → State → State × Halt} (hf : ∀ st off s, s.Inv → (f st off s).1.Inv) :
      (b.push coil bytes f s).1.Inv := h.atPush hf
    unfold At.pushGroups
    extract_lets h' r
    have hr : r.1.Inv := hp fun _ _ _ k => k.ownWrite
    split
    · exact ih hr
    · exact hr

theorem State.Inv.atEndVdqb {a : At} {code} (h : s.Inv) : (a.endVdqb code s).1.Inv := .ite_fst h h.atSkewed

theorem State.Inv.atPushRest {a : At} {coil bytes ds code} (h : s.Inv) : (a.pushRest coil bytes ds code s).1.Inv := by
  unfold At.pushRest
  dsimp only
  split
  · exact h.atPushGroups.atSet.atEndVdqb
  · exact h.atPushGroups.atSet

theorem State.Inv.atTsPlain {a : At} {m half rnd st off} (h : s.Inv) : (a.tsPlain m half rnd st off s).1.Inv :=
  .atDone (h.foldl fun _ _ k => .ite k.ownWrite k)

theorem State.Inv.atTsBlock {a : At} {m four rnd d k0} (h : s.Inv) : (a.tsBlock m four rnd d k0 s).1.Inv := by
  unfold At.tsBlock
  refine h.atTensor ?_
  intro _ _ k
  refine .ite_fst k ?_
  split
  · exact .quantised (.ownWrite (k.ownWrite.ownWrite.ownWrite.foldl (fun _ _ k' => k'.ownWrite)))
  · exact k

/-! ## Coils, the matrix array and factorisations -/

theorem State.Inv.ofOffsetOp {at_ a} (h : s.Inv) : (offsetOp at_ a s).1.Inv := by
  unfold offsetOp
  dsimp only
  split
  · exact h
  · exact h.atDone

theorem State.Inv.requests {p j d} (h : s.Inv) : (s.requests p j d).Inv :=
  .ite h (.ite (.foldl (h.foldl (fun _ _ k => k.request)) (fun _ _ k => k.request)) (h.foldl (fun _ _ k => k.request)))

theorem State.Inv.ofMatBody {zero a} (h : s.Inv) : (matBody zero a s).1.Inv := by
  have own {α : Type} {s : State} {ys : List α} {st : Nat} {off : α → Nat} {bs : α → List Byte} (h : s.Inv) :
      (ys.foldl (fun s y => s.ownWrite a.p a.w st (off y) (bs y)) s).Inv := h.foldl fun _ _ k => k.ownWrite
  unfold matBody
  extract_lets g b d out rs coilBad r bits wb ab pb act sums go q x bs weight done
  split
  · exact h
  · split
    · have hr : r.2.1.Inv := h.atReads
      split
      · exact hr
      · have hgo {weight done fl e s} (h : s.Inv) : (go weight done fl e s).1.Inv := by
          unfold go
          split
          · exact own h.atSet.tileEvent
          · exact (own h.atSet.tileEvent).atSkewed
          · exact h.atSet.tileEvent.atSkewed
          · exact h.atSet.tileEvent.atPush fun _ _ _ k => own k
        split
        · split
          · exact hr
          · split
            · have hx : x.2.1.Inv := hr.atDequant
              split
              · exact hx
              · exact hgo hx
            · exact hr
        · exact hgo hr
    · exact h

theorem State.Inv.atFactor {a : At} {j fac go} (h : s.Inv) : (a.factor j fac go s).1.Inv := by
  unfold At.factor
  refine .ite_fst h ?_
  split
  · dsimp only
    split
    · refine .ite ?_ h.atReads
      split
      · exact h.atReads.ownWrite
      · exact h.atReads
    · split
      · exact h.atReads
      · refine .ite_fst ?_ (h.atReads.atSet.foldl (fun _ _ k => k.ownWrite))
        dsimp only
        split
        · exact h.atReads.atSet.ownWrite
        · exact h.atReads.atSet
  · exact h

theorem State.Inv.ofCholBody {kind a} (h : s.Inv) : (cholBody kind a s).1.Inv := by
  unfold cholBody
  dsimp only
  split
  · exact h
  · exact h.atFactor

theorem State.Inv.ofStreamBody {cleared a} (h : s.Inv) : (streamBody cleared a s).1.Inv := by
  unfold streamBody
  dsimp only
  split
  · exact h
  · exact h.atFactor

theorem State.Inv.ofSolveBody {a} (h : s.Inv) : (solveBody a s).1.Inv := by
  unfold solveBody
  dsimp only
  split
  · exact h
  · exact h.atFactor

theorem State.Inv.ofUpdateBody {a} (h : s.Inv) : (updateBody a s).1.Inv := by
  unfold updateBody
  dsimp only
  split
  · exact h
  · exact h.atFactor

theorem State.Inv.cmBody {a} {op : ℕ → ℕ → Ctx → W64 → W64 → W64 → W64 → Halt → State → State × Halt} (h : s.Inv)
    (hf : ∀ y0 y1 y2 y3 y4 y5 y6 y7 x, State.Inv x → (op y0 y1 y2 y3 y4 y5 y6 y7 x).1.Inv) : (cmBody op a s).1.Inv :=
  hf _ _ _ _ _ _ _ _ _ h

/-! ## Results -/

/-- The next state, where one is answered, keeps the rules of the whole machine. -/
def NextInv : Res → Prop
  | .next t => t.Inv
  | .fault _ => True
  | .refused _ => True

theorem NextInv.next {s : State} (h : s.Inv) : NextInv (.next s) := h

theorem NextInv.fault {x : Fault} : NextInv (.fault x) := trivial

theorem NextInv.ite {c : Prop} [Decidable c] {r r' : Res} (h : NextInv r) (h' : NextInv r') : NextInv (if c then r else r') := by
  split
  · exact h
  · exact h'

theorem NextInv.within {n bound : Nat} {s : State} (h : s.Inv) : NextInv (within n bound s) := .ite (.next h) .fault

theorem NextInv.withinSlot {e sl : Nat} {s : State} (h : s.Inv) : NextInv (withinSlot e sl s) := .ite (.next h) .fault

/-- What the effect of an instruction keeps. -/
def Body.Keeps (body : Body) : Prop := ∀ a u, u.Inv → (body a u).1.Inv

/-- A branch between two effects, stated of the effects as functions: the kernel then compares the condition as it stands. -/
theorem Body.Keeps.ite {c : At → State → Prop} [∀ a u, Decidable (c a u)] {b b' : Body} (hb : b.Keeps) (hb' : b'.Keeps) :
    Body.Keeps (fun a u => if c a u then b a u else b' a u) := fun a u k => .ite_fst (hb a u k) (hb' a u k)

/-- An instruction keeps the rules that its effect keeps: the checks before it and what follows it keep them. -/
theorem NextInv.issue {s : State} {t f good} {body : Body} (h : s.Inv) (hb : body.Keeps) : NextInv (issue t f good body s) := by
  refine .ite ?_ .fault
  split
  · exact .next (h.issued hb)
  · exact .next h

/-! ## Instructions and events with several outcomes -/

theorem NextInv.jend {t f} (h : s.Inv) : NextInv (execJend t f s) := by
  unfold execJend
  split
  · exact .within h.endBuiltin
  · exact .issue h (fun _ _ k => .ite_fst k (.ite_fst k k.commitEnd))

theorem NextInv.hsha {t f} (h : s.Inv) : NextInv (execHsha t f s) := by
  unfold execHsha
  refine .issue h fun _ _ k => ?_
  refine .ite_fst k ?_
  split
  · dsimp only
    split
    · exact k.atReads
    · exact k.atReads.ownWrite
  · exact k

theorem NextInv.bankpwr {t f} (h : s.Inv) : NextInv (execBankpwr t f s) := by
  refine .issue h fun _ _ k => .ite_fst k ?_
  dsimp only
  exact k.updTile fun _ k' => k'.foldl fun _ _ k'' => k''.requestBank

theorem NextInv.vld {t f} (h : s.Inv) : NextInv (execVld t f s) := by
  unfold execVld
  refine .issue h fun _ _ k => ?_
  refine .ite_fst (k.atPop (fun _ _ k' => k'.atDone)) ?_
  split
  · exact k
  · exact k.atReading (fun _ _ k' => k'.atDone)

theorem NextInv.vst {t f} (h : s.Inv) : NextInv (execVst t f s) := by
  unfold execVst
  refine .issue h fun _ _ k => ?_
  refine .ite_fst (k.atPush (fun _ _ _ k' => k'.atPutLanes)) ?_
  split
  · exact k
  · split
    · exact k.atPutLanes
    · exact k

theorem NextInv.vqb {t f} (h : s.Inv) : NextInv (execVqb t f s) := by
  unfold execVqb
  refine .issue h fun _ _ k => ?_
  split
  · exact k
  · refine k.atTensor ?_
    intro _ _ k'
    refine .ite_fst k' ?_
    split
    · dsimp only
      split
      · exact k'.atReads
      · exact k'.atReads.ownWrite.ownWrite.ownWrite.ownWrite.ownWrite.quantised
    · exact k'

theorem NextInv.vdqb {t f} (h : s.Inv) : NextInv (execVdqb t f s) := by
  unfold execVdqb
  refine .issue h fun _ _ k => ?_
  split
  · exact k
  · exact k.atPushRest
  · refine k.atTensor ?_
    intro _ _ k'
    refine .ite_fst k' ?_
    split
    · dsimp only
      split
      · exact k'.atDequant
      · split
        · exact k'.atDequant.atSet.atPushRest
        · exact .atEndVdqb (k'.atDequant.atSet.foldl (fun _ _ k'' => k''.ownWrite))
    · exact k'

theorem NextInv.vreq {t f} (h : s.Inv) : NextInv (execVreq t f s) := by
  unfold execVreq
  refine .issue h fun _ _ k => ?_
  split
  · exact k
  · refine .ite_fst k ?_
    split
    · dsimp only
      split
      · exact k.atReads
      · split
        · exact k.atReads.atPush (fun _ _ _ k' => k'.ownWrite.atDone)
        · exact k.atReads.ownWrite.atDone
    · exact k

theorem NextInv.tstore {t minor f} (h : s.Inv) : NextInv (execTstore t minor f s) := by
  unfold execTstore
  refine .issue h fun _ _ k => ?_
  refine .ite_fst k ?_
  refine .ite_fst ?_ k.atTsBlock
  refine .ite_fst (k.atPush (fun _ _ _ k' => k'.atTsPlain)) ?_
  refine .ite_fst k ?_
  split
  · exact k.atTsPlain
  · exact k

theorem NextInv.dqcfg {t f} (h : s.Inv) : NextInv (execDqcfg t f s) := by
  refine .issue h fun _ _ k => .ite_fst k (.ite_fst k ?_)
  dsimp only
  exact k.updTile fun _ k' => k'

theorem NextInv.dmaDescriptorDone {t q} (h : s.Inv) : NextInv (execDmaDescriptorDone t q s) := by
  unfold execDmaDescriptorDone
  refine .ite ?_ .fault
  refine .ite (.next h) ?_
  dsimp only
  split
  · exact .next (.rxDrain (.ite h.dmaHead.failDoomed h.dmaHead))
  · exact .next h.dmaHead
  · exact .next (.ite h.dmaHead.failDoomed h.dmaHead)
  · exact .next (.ite h.dmaHead.failDoomed h.dmaHead)
  · exact .next (.ite h.dmaHead.failDoomed h.dmaHead)
  · exact .next h.dmaHead
  · exact .next h.dmaHead
  · exact .next h.dmaHead
  · exact .next h.dmaHead.failJob
  · exact .next h.dmaHead

theorem NextInv.evcSelWrite {hd tile n v} (h : s.Inv) : NextInv (execEvcSelWrite hd tile n v s) := by
  unfold execEvcSelWrite
  split
  · exact .within h.writes
  · exact .ite (.within h.writes) .fault

end

/-! ## Every command -/

theorem exec_keeps (c : Instr) {s : State} (h : s.Inv) : NextInv (exec c s) := by
  cases c with
  | ack | queueSet | regRead | regWrite | setConeBudget | setRung | selfTest | attest | fwLoad | attach | detach | roleSwap
  | journalRead | bindSlot | unbind | swapCoef | bindStanding | bindLane | bindPwm | bindLink | launch | solveQp | solveLs
  | estimate | infer | temper | runProgram | dataPut | dataGet | hearthPin | witnessStart | witnessStop | replayStart | timeMode =>
    exact .next h.submit
  | rungReached => exact .within h.rungReached
  | selfTestRun => exact .within h.testRuns
  | attachBulkDone => exact .next h.bulkDone
  | attachFinalDone => exact .next h.finalDone
  | detachEffect => exact .next h.detachEffect
  | roleSwapCount => exact .next h.swapCount
  | launchCount => exact .next h.launchCount
  | witnessRecordStart => exact .next h.recordStart
  | witnessGap => exact .next h.gap
  | replayEntry => exact .next h.replayEntry
  | replayEnd => exact .next h.replayOver
  | queueMirrorAck => exact .next h.mirrorAcked
  | completionRelease => exact .within h.releaseNext
  | commitMirrorAck => exact .next h.entryAcked
  | pendingMapPiece => exact .within h.pendingPiece
  | usbDbCtlAll | pwmTripSw | tbServoWrite | mgResetCtlWarm | mgResetCtlHealthClear | evcCtlFreeze | evcCtlClearAll => exact .next h.writes
  | telemetryRecord => exact .next h.telemetry
  | usbBusReset => exact .next h.busReset
  | usbSuspend => exact .next h.suspend
  | smbusBlockRead => exact .next h.smbus
  | jobDispatch => exact .next h.jobDispatch
  | refillTick => exact .next h.refillTick
  | invocationStart => exact .next h.invocationStart
  | standingBoundary => exact .next h.standingBoundary
  | standingRelease => exact .next h.standingRelease
  | deadlineFreeze => exact .within h.deadlineFreeze
  | mailboxPublish => exact .next h.publish
  | budgetWatchdogExpiry => exact .within h.watchdogBudget
  | contextSwitch => exact .within h.contextSwitch
  | contextEvict => exact .within h.contextEvict
  | contextSwapIn => exact .within h.contextSwapIn
  | idleRungStep => exact .within h.idleStep
  | wakeSlot => exact .next h.wakeSlot
  | bankTransitionDone => exact .ite (.next (h.updTile (fun _ k => k.bankDone))) .fault
  | thermalReading => exact .next h.thermal
  | nop | flgrd | flgclr | trapw | addsi | cmp | tbreadS | tbreadL | tbdl | cfill | cpopn | cdrain | vrand | hwait | vcvt | vmovg =>
    exact .issue h (fun _ _ k => k.atDone)
  | jend => exact .jend h
  | fpbar | mbwr | copen => exact .issue h (fun _ _ k => .ite_fst k k.atDone)
  | idle | bpwait | dwait => exact .issue h (fun _ _ k => .ite_fst k.atDone k)
  | add | sub | and | or | xor | shl | shr | sar | mov | mul | mulh | mulhu | mulhsu => exact .issue h (fun _ _ k => k.aluOp)
  | adds | subs | div | divu | rem | remu => exact .issue h (fun _ _ k => k.flagOp)
  | addi | andi | ori | xori | shli | shri | sari | movi | movhi => exact .issue h (fun _ _ k => k.immOp)
  | pand | por | pxor | pnot => exact .issue h (fun _ _ k => k.predOp)
  | br | call | ret => exact .issue h (fun _ _ k => k.atBranch)
  | loop => exact .issue h (fun _ _ k => .ite_fst k.atBranch k.atDone)
  | ldW | ldD => exact .issue h (fun _ _ k => k.ofLoadBody)
  | stW | stD => exact .issue h (fun _ _ k => k.ofStoreBody)
  | tbwait => exact .issue h (.ite (fun _ _ k => k.atDone) fun _ _ k => k)
  | cclose => exact .issue h (fun _ _ k => .ite_fst k.rxDrain k.rxDrain.atDone)
  | chead | clast => exact .issue h (fun _ _ k => k.ofOffsetOp)
  | cpushn => exact .issue h (fun _ _ k => .ite_fst k (.updTile (.ite k.atSet.tileEvent k.atSet) (fun _ k' => k'.wake)))
  | cwait => exact .issue h (fun _ _ k => .ite_fst k.atDone k.atDone)
  | hsha => exact .hsha h
  | bankpwr => exact .bankpwr h
  | vadd | vsub | vand | vor | vxor | vshl | vshr | vsar | vmulI | vmin | vmax | vneg | vabs => exact .issue h (fun _ _ k => k.intOp)
  | vadds | vsubs | vmuls => exact .issue h (fun _ _ k => k.intSat)
  | vcmp | vcmpF => exact .issue h (fun _ _ k => k.maskOp)
  | vsel | vselF => exact .issue h (fun _ _ k => k.selOp)
  | vbcast | vmulaF | vnegF | vabsF | vcpysgn | vclamp => exact .issue h (fun _ _ k => k.lanesOp)
  | vaddF | vsubF | vmulF | vminF | vmaxF | vminnum | vmaxnum => exact .issue h (fun _ _ k => k.fpOp)
  | vld => exact .vld h
  | vst => exact .vst h
  | vqb => exact .vqb h
  | vdqb => exact .vdqb h
  | vreq => exact .vreq h
  | vredAddF | vredAddI | vredMaxF => exact .issue h (fun _ _ k => k.redOp)
  | tstore => exact .tstore h
  | mmul | mmulz => exact .issue h (fun _ _ k => k.ofMatBody)
  | fchol | fldl => exact .issue h (fun _ _ k => k.ofCholBody)
  | fqr | fgivens => exact .issue h (fun _ _ k => k.ofStreamBody)
  | ftrsv => exact .issue h (fun _ _ k => k.ofSolveBody)
  | fupdate => exact .issue h (fun _ _ k => k.ofUpdateBody)
  | dpush => exact .issue h (fun _ _ k => .ite_fst k (.ite_fst k (.requests (k.updTile (fun _ k' => .activateAll k')))))
  | dqcfg => exact .dqcfg h
  | cminit => exact .issue h (fun _ _ k => k.cmBody (fun _ _ _ _ _ _ _ _ _ k' => k'.cmInit))
  | cmoffer => exact .issue h (fun _ _ k => k.cmBody (fun _ _ _ _ _ _ _ _ _ k' => k'.cmOffer))
  | cmstat => exact .issue h (fun _ _ k => k.cmBody (fun _ _ _ _ _ _ _ _ _ k' => k'.cmStat))
  | dmaDescriptorDone => exact .dmaDescriptorDone h
  | receivePush => exact .ite (.next h.arrive.failDoomed) .fault
  | atomicAdd => exact .ite (.next h.atomicAdd.failDoomed) .fault
  | storeScrub => exact .within h.scrub
  | unitFailure => exact .within h.unitFailure
  | tileCtlBconfClear | snsLaneSwap | tripLatchClear | ethCtlWrite => exact .within h.writes
  | hbmScrub => exact .next h.hbmScrub
  | hbmRefresh => exact .ite (.next h.hbmRefresh) .fault
  | slotStart => exact .withinSlot h.slotStart
  | slotSample => exact .withinSlot h.slotSample
  | slotCommit => exact .withinSlot h.slotCommit
  | leSlotModeAuto | leSlotModeFbExit | leSlotModeManFromLast | leSlotManWrite | leSlotFbWrite => exact .withinSlot h.writes
  | leSlotBankWrite => exact .ite (.withinSlot h.writes) .fault
  | convertPulse => exact .within h.convert
  | wordReceived => exact .within h.wordIn
  | laneSample => exact .within (.ite h.replayPhase h.laneSample)
  | modulatorLoss | manchesterCodeViolation => exact .within (.ite h.laneEvent h)
  | ocExceedance => exact .within h.ocOutput
  | tripInput => exact .within h.tripInput
  | pairResume => exact .within h.pairResume
  | shadowLoad => exact .within h.shadowLoad
  | downlinkSend => exact .within h.downlink
  | uplinkReceived => exact .within h.uplinkIn
  | uplinkPush => exact .within h.uplinkDue
  | beaconSend => exact .within h.beacon
  | beaconEchoReceived => exact .within h.echoIn
  | linkSync => exact .within h.linkSync
  | syncLost => exact .within h.syncLost
  | timebaseTick => exact .next h.tick
  | counterStep => exact .next (.ite h.stepBack h)
  | ptpSyncReceived => exact .within h.ptpSync
  | ptpFollowUpReceived => exact .within h.ptpFollowUp
  | ptpDelayRespReceived => exact .within h.ptpDelayResp
  | ptpAnnounceReceived => exact .within h.ptpAnnounce
  | ptpDelayReqReceived => exact .within h.ptpDelayReq
  | delayReqSend => exact .within h.delayReqOut
  | syncSend => exact .within h.syncOut
  | announceSend => exact .within h.announceOut
  | holdoverEntry => exact .next (.ite h.enterHoldover h)
  | tcForward => exact .within h.tcForward
  | tcResidenceTimeout => exact .within h.tcTimeout
  | ethFrameReceived => exact .within h.ethFrame
  | ppsInEdge => exact .next (.ite h.setTb.offset h)
  | ppsOutEdge => exact .next (.ite h.setTb h)
  | heartbeatSend => exact .next h.heartbeat
  | heartbeatIntervalEnd => exact .next h.intervalEnd
  | leavingReceived => exact .next h.peerLost
  | peerActiveChange => exact .next h.peerPin
  | promotion => exact .next h.promotion
  | flitReceived => exact .next h.flitIn
  | nakReceived => exact .next h.nakIn
  | timebaseLockReceived => exact .next h.twinLock
  | commitEntryReceived => exact .next h.entryIn
  | loopShadowReceived => exact .withinSlot h.shadowIn.catchupEnd
  | catchup => exact .next h.catchUp
  | watchdogExpiry => exact .next h.watchdog
  | powerOnReset => exact .next h.powerOn
  | warmReset => exact .ite (.next h.warmReset) .fault
  | resetRelease => exact .next h.release
  | enterService => exact .next h.enterService
  | evcSelWrite => exact .evcSelWrite h
  | twinLinkTrained => exact .next h.linkTrained
  | twinLaneLockLoss => exact .within h.laneLost
  | ethPcsLockChange => exact .within h.updPort
  | usbLinkTrained => exact .next h.usbTrained
  | usbResume => exact .next h.resume
  | u1U2Request => exact .next h.lowPowerRequest
  | modulatorClockReturn => exact .within (.ite h.updLane h)
  | prefetchDropped => exact .next h.prefetchDrop
  | agePromotion => exact .next h.agePromote
  | hearthPinDone => exact .next h.pinDone
  | dataGetDone => exact .next h.getDone
  | fwLoadDone => exact .next h.fwLoadDone
  | trngHealthFail => exact .next (.ite h.setMg h.setMg)

/-- A step takes the command at the front of the queue, which names units that exist, and leaves those behind it. -/
theorem step_keeps {s : State} (h : s.Inv) : ∃ t, step s = .next t ∧ t.Inv := by
  unfold step
  cases hp : s.pending with
  | nil => exact ⟨s, rfl, h⟩
  | cons c rest =>
    have queue := h.queue
    rw [hp] at queue
    have hs : State.Inv { s with pending := rest } := ⟨h.hbm, h.tiles, fun d hd => queue d (List.mem_cons_of_mem c hd)⟩
    obtain ⟨t, e⟩ := (exec_answers c { s with pending := rest }).next_of (queue c List.mem_cons_self)
    have k := exec_keeps c hs
    rw [e] at k
    exact ⟨t, e, k⟩

end Sys2Proof.Machine

open Sys2Proof Sys2Proof.Machine

/-- Settles O60, by what every command keeps. -/
theorem stepKeepsInvariant : Obligations.StepKeepsInvariant := by
  unfold Obligations.StepKeepsInvariant
  exact fun _ h => step_keeps h

end

section
/-!
PROOFS. What a completion, a change of the twin and a record of a failure leave of HBM: everything; and what a failing pseudo-channel
changes there (13 R434).
-/

set_option Elab.async false

namespace Sys2Proof.Machine

open Sys2Proof

/-! ## What leaves HBM as it is: records, the twin, completions -/

theorem State.alert_hbm (a : Alert) (s : State) : (s.alert a).hbm = s.hbm := by
  unfold State.alert
  split <;> rfl

theorem State.signalWake_hbm (s : State) : s.signalWake.hbm = s.hbm := by
  unfold State.signalWake
  split <;> rfl

theorem State.raiseAlert_hbm (a : Alert) (s : State) : (s.raiseAlert a).hbm = s.hbm := by
  unfold State.raiseAlert
  split
  · rw [State.signalWake_hbm, State.alert_hbm]
  · exact State.alert_hbm a s

theorem State.frees_hbm (n : Nat) (s : State) : (s.frees n).2.hbm = s.hbm := by
  induction n generalizing s with
  | zero => rfl
  | succ n ih => exact ih s.free.2

theorem State.digest128_hbm (x : Option (List Byte)) (s : State) : (s.digest128 x).2.hbm = s.hbm := by
  cases x with
  | some b => rfl
  | none => exact State.frees_hbm 2 s

theorem State.journalNow_hbm (c : Cause) (target : W64) (before after : Option (List Byte)) (s : State) :
    (s.journalNow c target before after).hbm = s.hbm := by
  unfold State.journalNow State.journalAt
  dsimp only
  rw [State.event_hbm, State.setMg_hbm, State.digest128_hbm, State.digest128_hbm]

theorem State.witness_hbm (typ src stamp : Nat) (pl : List Byte) (s : State) : (s.witness typ src stamp pl).hbm = s.hbm := by
  unfold State.witness State.witPut
  dsimp only
  split
  · split <;> rw [State.event_hbm, State.setWit_hbm]
  · rfl

theorem State.commitEntry_hbm (e : Effects) (r : Record) (s : State) : (s.commitEntry e r).2.2.hbm = s.hbm := by
  unfold State.commitEntry
  split
  · rfl
  · dsimp only
    split <;> rfl

theorem State.reorderPut_hbm (q : Nat) (r : Record) (e : Effects) (cap : Nat) (s : State) : (s.reorderPut q r e cap).hbm = s.hbm :=
  State.commitEntry_hbm e r s

theorem State.closeMerged_hbm (q : Nat) (s : State) : (s.closeMerged q).hbm = s.hbm := by
  unfold State.closeMerged
  dsimp only
  split
  · split
    · rw [State.reorderPut_hbm, State.setQueue_hbm]
    · rfl
  · rfl

theorem State.bareExt_hbm (o : Outst) (r : Record) (s : State) : (s.bareExt o r).2.hbm = s.hbm := by
  unfold State.bareExt
  split
  · rfl
  · split <;> rfl

theorem State.complete_hbm (q sq : Nat) (r : Record) (e : Effects) (s : State) : (s.complete q sq r e).hbm = s.hbm := by
  unfold State.complete State.completeAt
  split
  · rfl
  · dsimp only
    split
    · split
      · rw [State.closeMerged_hbm, State.setQueue_hbm, State.bareExt_hbm]
      · rw [State.reorderPut_hbm, State.setQueue_hbm, State.bareExt_hbm]
    · rw [State.reorderPut_hbm, State.setQueue_hbm, State.bareExt_hbm]

theorem State.resumeMode_hbm (s : State) : s.resumeMode.hbm = s.hbm := by
  unfold State.resumeMode
  dsimp only
  split
  · rfl
  · rw [show ∀ t : State, (timeEvent 0 t).hbm = t.hbm from fun t => State.witness_hbm .., State.journalDev, State.journalNow_hbm, State.setTb_hbm]

theorem State.twinChange_hbm (v : Twin) (s : State) : (s.twinChange v).hbm = s.hbm := by
  have hw : ∀ (b : Prop) [Decidable b] (t : State) (typ src stamp : Nat) (pl : List Byte),
      (if b then t else t.witness typ src stamp pl).hbm = t.hbm := fun b _ t typ src stamp pl => by
    split
    · rfl
    · exact State.witness_hbm ..
  have hm : ∀ (b : Prop) [Decidable b] (t : State), (if b then t.resumeMode else t).hbm = t.hbm := fun b _ t => by
    split
    · exact State.resumeMode_hbm t
    · rfl
  by_cases hc : v.role = s.twin.role ∧ v.pair = s.twin.pair
  · rw [State.twinChange, if_pos hc, State.setTwin_hbm]
  · rw [State.twinChange, if_neg hc]
    dsimp only
    rw [hm, hw, State.journalNow_hbm, State.setTwin_hbm]

theorem State.forgetWork_hbm (s : State) : s.forgetWork.hbm = s.hbm := by
  unfold State.forgetWork
  split <;> rfl

theorem State.attachEnds_hbm (st : Byte) (s : State) : (s.attachEnds st).hbm = s.hbm := by
  unfold State.attachEnds
  split
  · rw [State.complete_hbm, State.setTwin_hbm]
  · rfl

theorem State.swapEnds_hbm (s : State) : s.swapEnds.hbm = s.hbm := by
  unfold State.swapEnds
  split
  · rw [State.complete_hbm, State.setTwin_hbm]
  · rfl

theorem State.leavePair_hbm (reason : BitVec 4) (s : State) : (s.leavePair reason).hbm = s.hbm := by
  unfold State.leavePair
  split
  · rfl
  · dsimp only
    rw [State.swapEnds_hbm, State.attachEnds_hbm, State.twinChange_hbm, State.forgetWork_hbm]
    rfl

theorem State.recordFailure_hbm (f : State → State) (a : Alert) (s : State) : (s.recordFailure f a).hbm = (f s).hbm := by
  rw [State.recordFailure, State.journalNow_hbm, State.raiseAlert_hbm, State.setMg_hbm]

/-- A pseudo-channel that fails for the first time is recorded as failed, and nothing else of the channels changes (13 R434). -/
theorem State.pcFailed_pcs {n : Nat} {s : State} (hf : (s.pc n).failed = false) :
    (s.pcFailed n).hbm.pcs = (s.setPc n { s.pc n with failed := true }).hbm.pcs := by
  obtain ⟨y, hy, h⟩ : ∃ y : State, y.hbm = (s.setPc n { s.pc n with failed := true }).hbm ∧
      s.pcFailed n = if y.twin.pair = .none then y.setHbm { y.hbm with losing := true } else y.leavePair 7 := by
    refine ⟨(s.recordFailure (fun t => t.setPc n { s.pc n with failed := true }) .pseudoChannel).health (fun h => { h with pcs := h.pcs ++ [n] }),
      State.recordFailure_hbm .., ?_⟩
    simp only [State.pcFailed, hf, Bool.false_eq_true, if_false]
  rw [h]
  split
  · rw [State.setHbm_hbm, hy]
  · rw [State.leavePair_hbm, hy]

/-- A pseudo-channel that fails has failed afterwards, whether or not it had before (13 R434). -/
theorem State.pcFailed_failed (n : Nat) (s : State) : ((s.pcFailed n).pc n).failed = true := by
  cases hf : (s.pc n).failed with
  | true => simp [State.pcFailed, hf]
  | false => rw [State.pc, State.pcFailed_pcs hf, ← State.pc, State.setPc_pc]

end Sys2Proof.Machine
end

section
/-!
PROOFS. Pushes and remote atomic adds at the receive port, rows and ends of descriptors, and the scrubber of a store (02 R45 to R71;
13 R446 to R448).
-/

set_option Elab.async false

namespace Sys2Proof.Machine

open Sys2Proof

/-! ## A push at the receive port (02 R69 to R71; 13 R446) -/

theorem Tile.offBank_of_not_on {t : Tile} {st off n : Nat} (h : t.on st off n = false) : ∃ b, t.offBank st off n = some b := by
  rw [← Option.isSome_iff_exists, Tile.offBank, List.find?_isSome]
  obtain ⟨b, hb, hne⟩ := List.all_eq_false.1 h
  exact ⟨b, hb, by simpa using hne⟩

theorem Coil.room_of_not_full {c : Coil} (h : c.full = false) : c.room = .ready c := by simp [Coil.room, h]

/-- An element whose turn it is, at a free place of a bank that is ON, is written at the tail (02 R65, R71). -/
theorem State.rxWrite_on {p : Nat} {e : RxElem} {s : State} {c : Coil} (hc : (s.tile p).coil e.coil = c) (hf : c.full = false)
    (ht : s.orderTurn p e.coil e.src e.prod = true) (hb : (s.tile p).rxBusy p e.coil c.store (c.base + c.tail) c.elem = false)
    (ho : (s.tile p).on c.store (c.base + c.tail) c.elem = true) :
    s.rxWrite p e = ((((s.storeWrite p c.store (c.base + c.tail) e.data).updTile p (fun T =>
      ({ (T.setCoil e.coil c.pushed) with rxNext := Tbl.set 0 (rxKey e.coil e.src e.prod) (e.n6 + 1) (T.setCoil e.coil c.pushed).rxNext }).wake)).tileEvent
        p 0x20 1).coilOrder p e.coil e.src e.prod, .taken) := by
  simp [State.rxWrite, hc, Coil.room_of_not_full hf, ht, hb, ho]

/-- At a bank that no request turns ON it has no effect, and the job whose coil it is is to end (05 R174; 11 R383). -/
theorem State.rxWrite_dark {p w : Nat} {e : RxElem} {s : State} {c : Coil} {x : Ctx} (hc : (s.tile p).coil e.coil = c) (hf : c.full = false)
    (ht : s.orderTurn p e.coil e.src e.prod = true) (hb : (s.tile p).rxBusy p e.coil c.store (c.base + c.tail) c.elem = false)
    (ho : (s.tile p).on c.store (c.base + c.tail) c.elem = false) (hd : (s.tile p).dark c.store (c.base + c.tail) c.elem = true)
    (hw : (s.tile p).coilOwner e.coil = some w) (hx : (s.tile p).slot w = some x) :
    let y := (s.tile p).setSlot w (some { x with doomed := some (St.power, locStore p c.store (c.base + c.tail)) })
    s.rxWrite p e = (s.setTile p { y with rxNext := Tbl.set 0 (rxKey e.coil e.src e.prod) (e.n6 + 1) y.rxNext }, .taken) := by
  obtain ⟨b, hoff⟩ := Tile.offBank_of_not_on ho
  simp [State.rxWrite, hc, Coil.room_of_not_full hf, ht, hb, ho, hd, hw, hx, hoff]

theorem State.arrive_refused {p : Nat} {e : RxElem} {s : State} {c : Coil} (hc : (s.tile p).coil e.coil = c)
    (ha : s.kiln.swapped.any (awaits p e) = false) (hr : c.refuses e.src e.data.length = true) :
    (s.arrive p e).1 = (s.setTile p ((s.tile p).setCoil e.coil { c with refused := satAdd c.refused 1 })).tileEvent p 0x21 1 := by
  simp [State.arrive, hc, ha, hr]

/-- What the coil takes in its turn is written, and then what waits in the buffer behind it (02 R71). -/
theorem State.arrive_taken {p : Nat} {e : RxElem} {s t : State} {c : Coil} (hc : (s.tile p).coil e.coil = c) (ho : c.isOpen = true)
    (hr : c.refuses e.src e.data.length = false) (hn : Tbl.get 0 (rxKey e.coil e.src e.prod) (s.tile p).rxNext = e.n6)
    (hw : s.rxWrite p e = (t, .taken)) : (s.arrive p e).1 = t.rxDrain p 16 := by
  simp only [State.arrive, hc, ho, hr, decide_eq_true hn, hw, Bool.not_true, Bool.false_and, Bool.false_eq_true, if_false, if_true]

/-- What comes out of its turn waits in the buffer of 16 (13 R446). -/
theorem State.arrive_buffered {p : Nat} {e : RxElem} {s : State} {c : Coil} (hc : (s.tile p).coil e.coil = c) (ho : c.isOpen = true)
    (hr : c.refuses e.src e.data.length = false) (hn : Tbl.get 0 (rxKey e.coil e.src e.prod) (s.tile p).rxNext ≠ e.n6)
    (hl : (s.tile p).rx.length < 16) : (s.arrive p e).1 = s.setTile p { s.tile p with rx := (s.tile p).rx ++ [e] } := by
  simp only [State.arrive, hc, ho, hr, decide_eq_false hn, hl, Bool.not_true, Bool.false_and, Bool.false_eq_true, if_false, if_true]

theorem exec_receivePush {t coil : Nat} (ht : t < 68) (hc : coil < 32) (src : PushSrc) (prod : Nat) (n6 : BitVec 6) (d : List Byte) (s : State) :
    exec (.receivePush t coil src prod n6 d) s =
      .next ((s.arrive t { coil := coil, src := src, prod := prod, n6 := n6, data := d }).1.failDoomed t) :=
  if_pos ⟨ht, hc⟩

/-! ## A remote atomic add (13 R447, R448) -/

theorem exec_atomicAdd {t coil : Nat} (ht : t < 68) (hc : coil < 32) (word : Nat) (fp : Bool) (ws : List W32) (s : State) :
    exec (.atomicAdd t coil word fp ws) s = .next ((s.atomicAdd t coil word fp ws).1.failDoomed t) :=
  if_pos ⟨ht, hc⟩

/-- A coil that is closed, receives nothing, accepts no tile or is too small refuses the add. -/
theorem State.atomicAdd_refused_coil {p coil word : Nat} {ws : List W32} {s : State} {c : Coil} (hc : (s.tile p).coil coil = c)
    (h : c.isOpen = false ∨ c.receive = false ∨ bit c.accept 1 = false ∨ c.size < 4 * word + 4 * ws.length) (fp : Bool) :
    (s.atomicAdd p coil word fp ws).1 =
      ((s.setTile p ((s.tile p).setCoil coil { c with refused := satAdd c.refused 1 })).tileEvent p 0x21 1).event 0x243 (p / 17 * 2) 1 := by
  rcases h with h | h | h | h <;> simp [State.atomicAdd, hc, h]

/-- So does the coil of a STRICT job. -/
theorem State.atomicAdd_refused_strict {p coil w : Nat} {s : State} {c : Coil} {x : Ctx} (hc : (s.tile p).coil coil = c)
    (hw : (s.tile p).coilOwner coil = some w) (hx : (s.tile p).slot w = some x) (h : x.job.tput = false) (word : Nat) (fp : Bool) (ws : List W32) :
    (s.atomicAdd p coil word fp ws).1 =
      ((s.setTile p ((s.tile p).setCoil coil { c with refused := satAdd c.refused 1 })).tileEvent p 0x21 1).event 0x243 (p / 17 * 2) 1 := by
  simp [State.atomicAdd, hc, hw, hx, h]

/-- The coil `c` of a THROUGHPUT job in slot `w` takes an add of the words `ws` from its word `word` on. -/
structure State.Adds (p coil word : Nat) (ws : List W32) (w : Nat) (c : Coil) (s : State) : Prop where
  names : (s.tile p).coil coil = c
  owner : (s.tile p).coilOwner coil = some w
  job : ∃ x, (s.tile p).slot w = some x ∧ x.job.tput = true
  isOpen : c.isOpen = true
  receive : c.receive = true
  accept : bit c.accept 1 = true
  fits : 4 * word + 4 * ws.length ≤ c.size

section
variable {p coil word w : Nat} {ws : List W32} {c : Coil} {s : State}

/-- It waits for elements that arrived before it, for its range, and for a bank that is being turned ON. -/
theorem State.Adds.held (h : s.Adds p coil word ws w c) (fp : Bool)
    (hw : ((s.tile p).rx.any (fun e => decide (e.coil = coil)) || (s.tile p).rxBusy p coil c.store (c.base + 4 * word) (4 * ws.length)) = true ∨
      (s.tile p).on c.store (c.base + 4 * word) (4 * ws.length) = false ∧ (s.tile p).dark c.store (c.base + 4 * word) (4 * ws.length) = false) :
    (s.atomicAdd p coil word fp ws).1 = s := by
  obtain ⟨hc, ho, ⟨x, hx, hj⟩, h1, h2, h3, h4⟩ := h
  have hs : ¬ c.size < 4 * word + 4 * ws.length := by omega
  simp only [State.atomicAdd, hc, ho, hx, hj, h1, h2, h3, hs]
  rcases hw with hw | ⟨hn, hd⟩
  · simp [hw]
  · simp only [hn, hd]
    cases (s.tile p).rx.any (fun e => decide (e.coil = coil)) || (s.tile p).rxBusy p coil c.store (c.base + 4 * word) (4 * ws.length) <;> simp

section
variable (h : s.Adds p coil word ws w c) (fp : Bool)
  (hh : ((s.tile p).rx.any (fun e => decide (e.coil = coil)) || (s.tile p).rxBusy p coil c.store (c.base + 4 * word) (4 * ws.length)) = false)
include h hh

theorem State.Adds.dark (hn : (s.tile p).on c.store (c.base + 4 * word) (4 * ws.length) = false)
    (hd : (s.tile p).dark c.store (c.base + 4 * word) (4 * ws.length) = true) :
    (s.atomicAdd p coil word fp ws).1 = s.updCtx p w (fun y => { y with doomed := some (St.power, locStore p c.store (c.base + 4 * word)) }) := by
  obtain ⟨hc, ho, ⟨x, hx, hj⟩, h1, h2, h3, h4⟩ := h
  have hs : ¬ c.size < 4 * word + 4 * ws.length := by omega
  simp [State.atomicAdd, hc, ho, hx, hj, h1, h2, h3, hs, hh, hn, hd]

/-- One that meets an uncorrectable word writes nothing (02 R54). -/
theorem State.Adds.uncorrectable (hn : (s.tile p).on c.store (c.base + 4 * word) (4 * ws.length) = true) {o : Nat}
    (hr : (s.storeRead p 5 c.store (c.base + 4 * word) (4 * ws.length)).2.2 = some o) :
    (s.atomicAdd p coil word fp ws).1 = (s.storeRead p 5 c.store (c.base + 4 * word) (4 * ws.length)).2.1.updCtx p w (fun y =>
      { y with doomed := some (St.dataError, locStore p c.store o) }) := by
  obtain ⟨hc, ho, ⟨x, hx, hj⟩, h1, h2, h3, h4⟩ := h
  have hs : ¬ c.size < 4 * word + 4 * ws.length := by omega
  simp [State.atomicAdd, hc, ho, hx, hj, h1, h2, h3, hs, hh, hn, hr]

theorem State.Adds.taken (hn : (s.tile p).on c.store (c.base + 4 * word) (4 * ws.length) = true)
    (hu : (s.tile p).upsets c.store (c.base + 4 * word) (4 * ws.length) = []) :
    let raw := Mem.bytes (storeBase c.store + (c.base + 4 * word)) (4 * ws.length) (s.tile p).mem
    let rs := (((List.range ws.length).map (fun k => w32At (4 * k) raw)).zip ws).map (fun y => addWord fp y.1 y.2)
    (s.atomicAdd p coil word fp ws).1 = (((s.storeWrite p c.store (c.base + 4 * word) (rs.flatMap (fun y => w32Bytes y.1))).updCtx p w (fun y =>
      { y with jobAcc := y.jobAcc ||| rs.foldl (fun a z => a ||| z.2) 0 })).event 0x242 (p / 17 * 2) 1) := by
  obtain ⟨hc, ho, ⟨x, hx, hj⟩, h1, h2, h3, h4⟩ := h
  have hs : ¬ c.size < 4 * word + 4 * ws.length := by omega
  simp [State.atomicAdd, hc, ho, hx, hj, h1, h2, h3, hs, hh, hn, State.storeRead_clean hu, State.bytesAt]

end

end

/-! ## Jobs that end for their coil (02 R54; 05 R174) -/

theorem State.failDoomed_none {t : Nat} {s : State} (h : ∀ w x, s.ctx t w = some x → x.doomed = none) : s.failDoomed t = s := by
  have hb : ∀ w, (s.ctx t w).bind (·.doomed) = none := fun w => by
    cases hw : s.ctx t w with
    | none => rfl
    | some x => exact h w x hw
  simp [State.failDoomed, hb]

theorem State.failDoomed_second {t : Nat} {s : State} {x : Ctx} {l : Byte × W64} (h0 : ∀ y, s.ctx t 0 = some y → y.doomed = none)
    (h1 : s.ctx t 1 = some x) (hx : x.doomed = some l) : s.failDoomed t = s.failJob t 1 l.1 l.2 := by
  have hb : (s.ctx t 0).bind (·.doomed) = none := by
    cases hw : s.ctx t 0 with
    | none => rfl
    | some y => exact h0 y hw
  simp [State.failDoomed, hb, h1, hx]

/-! ## Descriptors (02 R45 to R48; 11 R376) -/

theorem State.dmaRead_own {p q i a x : Nat} {d : Desc} {s : State} (hk : d.srcIsCoil = false) (hs : sideOf p (d.srcAt i) = .own a x)
    (ho : (s.tile p).offBank a x d.rowBytes = none) (hu : (s.tile p).upsets a x d.rowBytes = []) :
    s.dmaRead p q d i = (Mem.bytes (storeBase a + x) d.rowBytes (s.tile p).mem, s, .ok) := by
  simp [State.dmaRead, hk, hs, ho, State.storeRead_clean hu, State.bytesAt]

theorem State.dmaWrite_own {p q i b y : Nat} {d : Desc} {bs : List Byte} {s : State} {c : Ctx} (hk : d.toCoil = false)
    (hs : sideOf p (d.dstAt i) = .own b y) (hc : s.ctx p d.slot = some c) (hm : c.mayWrite b y bs.length = true)
    (ho : (s.tile p).offBank b y bs.length = none) : s.dmaWrite p q d i bs = (s.ownWrite p d.slot b y bs, .ok) := by
  obtain ⟨ha, hp⟩ : d.add = false ∧ d.coilPush = false := by simpa [Desc.toCoil, and_comm] using hk
  simp [State.dmaWrite, ha, hp, hs, hc, hm, ho]

/-- A row between two stores of the tile copies its bytes. -/
theorem State.dmaRow_own {p q i a b x y : Nat} {d : Desc} {s : State} {c : Ctx} (hsc : d.srcIsCoil = false) (hdc : d.toCoil = false)
    (hat : bit d.attr 0 = false) (hs : sideOf p (d.srcAt i) = .own a x) (hd : sideOf p (d.dstAt i) = .own b y)
    (hso : (s.tile p).offBank a x d.rowBytes = none) (hu : (s.tile p).upsets a x d.rowBytes = []) (hc : s.ctx p d.slot = some c)
    (hm : c.mayWrite b y d.rowBytes = true) (hdo : (s.tile p).offBank b y d.rowBytes = none) :
    s.dmaRow p q d i = ((s.ownWrite p d.slot b y (Mem.bytes (storeBase a + x) d.rowBytes (s.tile p).mem)).updTile p Tile.wake, .ok) := by
  have hl : (Mem.bytes (storeBase a + x) d.rowBytes (s.tile p).mem).length = d.rowBytes := Mem.length_bytes ..
  have hw := State.dmaWrite_own (q := q) (bs := Mem.bytes (storeBase a + x) d.rowBytes (s.tile p).mem) hdc hd hc (by rw [hl]; exact hm)
    (by rw [hl]; exact hdo)
  simp [State.dmaRow, State.dmaRead_own hsc hs hso hu, hw, hsc, hat]

theorem exec_dmaDescriptorDone (t q : Nat) (s : State) : exec (.dmaDescriptorDone t q) s = execDmaDescriptorDone t q s := rfl

section
variable {t q : Nat} {s : State} (ht : t < 68) (hq : q < 16)
include ht hq

theorem exec_dmaDescriptorDone_still (h : (Tbl.get { } q (s.tile t).dma).descs = [] ∨ (s.dom t).rung ≠ 0) :
    exec (.dmaDescriptorDone t q) s = .next s := by
  rw [exec_dmaDescriptorDone, execDmaDescriptorDone, if_pos ⟨ht, hq⟩]
  by_cases hr : (s.dom t).rung = 0
  · have he := h.resolve_right (not_not_intro hr)
    simp only [hr, State.dmaHead, he, List.head?_nil, ne_eq, not_true_eq_false, if_false]
  · rw [if_pos hr]

section
variable {d : Desc} {rest : List Desc} (hd : (Tbl.get { } q (s.tile t).dma).descs = d :: rest) (hr : (s.dom t).rung = 0)
include hd hr

theorem exec_dmaDescriptorDone_waiting (ha : d.active = false) :
    exec (.dmaDescriptorDone t q) s = .next (if d.add then s.failDoomed d.dstTile else s) := by
  rw [exec_dmaDescriptorDone, execDmaDescriptorDone, if_pos ⟨ht, hq⟩]
  simp only [hr, State.dmaHead, hd, ha, List.head?_cons, ne_eq, not_true_eq_false, if_false, Bool.not_false, if_true]

/-- A descriptor whose last row is written retires. -/
theorem exec_dmaDescriptorDone_retires {u : State} {i : Nat} (ha : d.active = true) (hl : bit d.w2 47 = false)
    (hrow : s.dmaRows t q d (d.rows - d.row) d.row = (u, i, .ok)) :
    let v := Tbl.get { } q (s.tile t).dma
    let v' := if bit d.w2 46 then { v with descs := rest, doneEvent := true, doneTag := BitVec.ofNat 8 (fld d.w3 32 8) } else { v with descs := rest }
    let x := (u.updTile t (fun T => ({ (T.sbRelease d.no) with dma := Tbl.set { } q v' T.dma }).activateAll t)).served t d.no
    exec (.dmaDescriptorDone t q) s = .next ((if d.add then x.failDoomed d.dstTile else x).rxDrain t 16) := by
  rw [exec_dmaDescriptorDone, execDmaDescriptorDone, if_pos ⟨ht, hq⟩]
  simp only [hr, State.dmaHead, hd, ha, hl, hrow, List.head?_cons, ne_eq, not_true_eq_false, if_false, Bool.not_true, Bool.false_and,
    Bool.false_eq_true]

theorem exec_dmaDescriptorDone_bad {u : State} {i : Nat} {st : Byte} {loc : W64} (ha : d.active = true)
    (hrow : s.dmaRows t q d (d.rows - d.row) d.row = (u, i, .bad st loc)) :
    exec (.dmaDescriptorDone t q) s = .next (u.failJob t d.slot st loc) := by
  rw [exec_dmaDescriptorDone, execDmaDescriptorDone, if_pos ⟨ht, hq⟩]
  simp only [hr, State.dmaHead, hd, ha, hrow, List.head?_cons, ne_eq, not_true_eq_false, if_false, Bool.not_true, Bool.false_eq_true]

end
end

/-! ## The scrubber of a store (02 R55) -/

theorem exec_storeScrub {t : Nat} (ht : t < 68) (store off : Nat) (s : State) : exec (.storeScrub t store off) s = .next (s.scrub t store off) :=
  if_pos ht

theorem State.scrub_still {t store off : Nat} {s : State}
    (h : bit (s.tile t).ctl 1 = false ∨ inStore store (off / 4 * 4) 4 = false ∨ (s.tile t).on store (off / 4 * 4) 4 = false ∨
      (s.tile t).upsets store (off / 4 * 4) 4 = []) : s.scrub t store off = s := by
  rcases h with h | h | h | h <;> simp [State.scrub, h]

theorem Tile.meet_corrected {t : Tile} {eng st off : Nat} {m : BitVec 39} (h : correctable (syndrome m) = true) :
    t.meet eng st off m = { t with eccCor := satAdd t.eccCor 1 } := by simp [Tile.meet, h]

theorem Tile.meet_uncorrectable (t : Tile) (eng st off : Nat) {m : BitVec 39} (h : correctable (syndrome m) = false) :
    (t.meet eng st off m).eccUnc = satAdd t.eccUnc 1 ∧ (t.meet eng st off m).eccValid = true ∧ (t.meet eng st off m).mem = t.mem ∧
      (t.meet eng st off m).eccLog = if t.eccValid then t.eccLog else eccEntry (syndrome m) eng st off := by
  cases hv : t.eccValid <;> simp [Tile.meet, h, hv]

/-- The count of an uncorrectable word touches no counter, log entry or byte. -/
theorem Tile.countUnc_ecc (up a : Nat) (t : Tile) : (t.countUnc up a).eccUnc = t.eccUnc ∧ (t.countUnc up a).eccValid = t.eccValid ∧
    (t.countUnc up a).mem = t.mem ∧ (t.countUnc up a).eccLog = t.eccLog := by
  unfold Tile.countUnc
  dsimp only
  split <;> exact ⟨rfl, rfl, rfl, rfl⟩

section
variable {t store off : Nat} {s : State} {e : Nat × BitVec 39} {rest : List (Nat × BitVec 39)} (hc : bit (s.tile t).ctl 1 = true)
  (hi : inStore store (off / 4 * 4) 4 = true) (ho : (s.tile t).on store (off / 4 * 4) 4 = true)
  (hu : (s.tile t).upsets store (off / 4 * 4) 4 = e :: rest)
include hc hi ho hu

theorem State.scrub_corrects (h : correctable (syndrome e.2) = true) : ((s.scrub t store off).tile t).eccCor = satAdd (s.tile t).eccCor 1 ∧
    ((s.scrub t store off).tile t).mem = Mem.store (storeBase store + off / 4 * 4)
      (w32Bytes (BitVec.ofNat 32 (leNat (Mem.bytes (storeBase store + off / 4 * 4) 4 (s.tile t).mem)) ^^^ residual e.2)) (s.tile t).mem := by
  simp only [State.scrub, hc, hi, ho, hu, h, Tile.meet_corrected h, Bool.not_true, Bool.or_false, Bool.false_eq_true, if_false, if_true]
  obtain ⟨v, hv⟩ := State.tileEvent_tile t 0x14 1 _
  rw [hv, State.setTile_tile]
  exact ⟨rfl, rfl⟩

theorem State.scrub_logs (h : correctable (syndrome e.2) = false) : ((s.scrub t store off).tile t).eccUnc = satAdd (s.tile t).eccUnc 1 ∧
    ((s.scrub t store off).tile t).eccValid = true ∧ ((s.scrub t store off).tile t).mem = (s.tile t).mem ∧
    ((s.scrub t store off).tile t).eccLog = if (s.tile t).eccValid then (s.tile t).eccLog else eccEntry (syndrome e.2) 6 store e.1 := by
  obtain ⟨m1, m2, m3, m4⟩ := Tile.meet_uncorrectable (s.tile t) 6 store e.1 h
  obtain ⟨c1, c2, c3, c4⟩ := Tile.countUnc_ecc s.up (storeBase store + off / 4 * 4) ((s.tile t).meet 6 store e.1 e.2)
  simp only [State.scrub, hc, hi, ho, hu, h, Bool.not_true, Bool.or_false, Bool.false_eq_true, if_false]
  obtain ⟨v, hv⟩ := State.tileEvent_tile t 0x15 1 (s.setTile t (((s.tile t).meet 6 store e.1 e.2).countUnc s.up (storeBase store + off / 4 * 4)))
  rw [hv, State.setTile_tile]
  exact ⟨c1.trans m1, c2.trans m2, c3.trans m3, c4.trans m4⟩

end

end Sys2Proof.Machine
end

section
/-!
PROOFS. The patrol scrubber and the refresh of HBM (13 R431 to R434).
-/

set_option Elab.async false

namespace Sys2Proof.Machine

open Sys2Proof

/-! ## The patrol scrubber of HBM (13 R432, R434) -/

/-- The address map depends on which pseudo-channels are mapped, and on nothing else (13 R428, R429). -/
theorem State.pcOf_congr {s t : State} (h : ∀ n, (t.pc n).mapped = (s.pc n).mapped) (a : Nat) : t.pcOf a = s.pcOf a := by
  have hs : t.pcSlots = s.pcSlots := List.filter_congr (fun n _ => h n)
  rw [State.pcOf, State.pcOf, State.placeOf, State.placeOf, State.stackOff, State.stackOff, State.stackBytes, State.stackBytes, hs]

theorem State.pc_congr {s t : State} (h : t.hbm.pcs = s.hbm.pcs) (n : Nat) : t.pc n = s.pc n := by
  rw [State.pc, h, ← State.pc]

/-- A pass of the scrubber begins `scrub_h` hours after the one before. -/
def State.passBegins (c : Pc) (s : State) : Bool := decide (c.passAt + 3600000000000 * fld s.hbm.ctl 8 8 ≤ s.up)

/-- A pseudo-channel whose scrubber has read the burst at `b`. -/
def State.scrubbedPc (b : Nat) (s : State) : Pc :=
  let c := s.pc (s.pcOf b)
  { c with scrubbed := some b, passAt := if s.passBegins c then s.up else c.passAt }

theorem State.scrubTakes_none {b : Nat} {s : State} (h : bit s.hbm.ctl 0 = false ∨ b < hbmLo ∨ hbmHi ≤ b ∨ (s.pc (s.pcOf b)).mapped = false ∨
      s.bankWaits b = true ∨ s.passBegins (s.pc (s.pcOf b)) = false ∧ (s.pc (s.pcOf b)).scrubbed.any (fun x => decide (b ≤ x)) = true) :
    s.scrubTakes b = none := by
  unfold State.scrubTakes
  rcases h with h | h | h | h | h | ⟨h, hb⟩
  · simp [h]
  · simp [not_le.2 h]
  · simp [not_lt.2 h]
  · have hm : (if (s.pc (s.pcOf b)).passAt + 3600000000000 * fld s.hbm.ctl 8 8 ≤ s.up then
        { s.pc (s.pcOf b) with passAt := s.up, scrubbed := none } else s.pc (s.pcOf b)).mapped = false := by
      split <;> exact h
    simp [hm]
  · simp [h]
  · dsimp only
    rw [if_neg (of_decide_eq_false h)]
    simp [hb]

theorem State.scrubTakes_some {b : Nat} {s : State} (hc : bit s.hbm.ctl 0 = true) (hl : hbmLo ≤ b) (hh : b < hbmHi)
    (hm : (s.pc (s.pcOf b)).mapped = true) (hw : s.bankWaits b = false)
    (hn : s.passBegins (s.pc (s.pcOf b)) = true ∨ (s.pc (s.pcOf b)).scrubbed.all (fun x => decide (x < b)) = true) :
    s.scrubTakes b = some (s.scrubbedPc b) := by
  unfold State.scrubTakes State.scrubbedPc
  dsimp only
  cases hp : s.passBegins (s.pc (s.pcOf b)) with
  | true =>
    rw [if_pos (of_decide_eq_true hp)]
    simp [hc, hl, hh, hm, hw]
  | false =>
    rw [if_neg (of_decide_eq_false hp)]
    have ho : (s.pc (s.pcOf b)).scrubbed.any (fun x => decide (b ≤ x)) = false := by
      have ha := hn.resolve_left (by simp [hp])
      cases hs : (s.pc (s.pcOf b)).scrubbed with
      | none => rfl
      | some x =>
        rw [hs] at ha
        simpa using ha
    simp [hc, hl, hh, hm, hw, ho]

/-- The scrubber has read the burst at `b`, before what it found there has an effect. -/
def State.scrubRead (b : Nat) (s : State) : State := (s.setPc (s.pcOf b) (s.scrubbedPc b)).event 0x200 (s.pcOf b) 1

theorem State.scrubRead_hbm (b : Nat) (s : State) : (s.scrubRead b).hbm = (s.setPc (s.pcOf b) (s.scrubbedPc b)).hbm := State.event_hbm ..

theorem State.scrubRead_upset (b : Nat) (s : State) : (s.scrubRead b).hbm.upset = s.hbm.upset := by
  rw [State.scrubRead_hbm]
  rfl

theorem State.scrubRead_mem (b : Nat) (s : State) : (s.scrubRead b).hbm.mem = s.hbm.mem := by
  rw [State.scrubRead_hbm]
  rfl

theorem State.scrubRead_pc (b : Nat) (s : State) : (s.scrubRead b).pc (s.pcOf b) = s.scrubbedPc b := by
  rw [State.pc, State.scrubRead_hbm, ← State.pc, State.setPc_pc]

theorem State.scrubRead_pc_ne {b n : Nat} {s : State} (h : n ≠ s.pcOf b) : (s.scrubRead b).pc n = s.pc n := by
  rw [State.pc, State.scrubRead_hbm, ← State.pc, State.setPc_pc_ne _ _ _ _ h]

theorem State.scrubRead_pcOf (b a : Nat) (s : State) : (s.scrubRead b).pcOf a = s.pcOf a := by
  refine State.pcOf_congr (fun n => ?_) a
  by_cases h : n = s.pcOf b
  · rw [h, State.scrubRead_pc]
    rfl
  · rw [State.scrubRead_pc_ne h]

theorem State.scrubRead_up (b : Nat) (s : State) : (s.scrubRead b).up = s.up := by
  simp only [State.up, State.now, State.scrubRead, State.event_tb]
  rfl

theorem State.hbmScrub_none {a : Nat} {s : State} (h : s.scrubTakes (a / 32 * 32) = none) : s.hbmScrub a = s := by
  simp [State.hbmScrub, h]

section
variable {a : Nat} {s : State} (h : s.scrubTakes (a / 32 * 32) = some (s.scrubbedPc (a / 32 * 32)))
include h

theorem State.hbmScrub_good (hu : Tbl.get 0 (a / 32 * 32) s.hbm.upset = 0) : s.hbmScrub a = s.scrubRead (a / 32 * 32) := by
  have he := s.scrubRead_upset (a / 32 * 32)
  rw [State.scrubRead] at he ⊢
  simp only [State.hbmScrub, h, he, hu]

theorem State.hbmScrub_corrected (hu : Tbl.get 0 (a / 32 * 32) s.hbm.upset = 1) :
    s.hbmScrub a = ((s.scrubRead (a / 32 * 32)).meetBurst (a / 32 * 32) 1).setHbm
      { ((s.scrubRead (a / 32 * 32)).meetBurst (a / 32 * 32) 1).hbm with upset := Tbl.erase (a / 32 * 32) s.hbm.upset } := by
  have he := s.scrubRead_upset (a / 32 * 32)
  rw [State.scrubRead] at he ⊢
  simp only [State.hbmScrub, h, he, hu]

theorem State.hbmScrub_uncorrectable (hu : Tbl.get 0 (a / 32 * 32) s.hbm.upset = 2) :
    s.hbmScrub a = (s.scrubRead (a / 32 * 32)).meetBurst (a / 32 * 32) 2 := by
  have he := s.scrubRead_upset (a / 32 * 32)
  rw [State.scrubRead] at he ⊢
  simp only [State.hbmScrub, h, he, hu]

end

/-- A corrected burst is counted on its pseudo-channel, and nothing else of HBM changes (13 R431). -/
theorem State.meetBurst_corrected (b : Nat) (s : State) : (s.meetBurst b 1).hbm =
    (s.setPc (s.pcOf b) { s.pc (s.pcOf b) with corrected := satAdd (s.pc (s.pcOf b)).corrected 1 }).hbm := by
  rw [State.meetBurst, if_pos rfl, State.event_hbm]

theorem State.logBurst_hbm (b : Nat) (s : State) : (s.logBurst b).hbm =
    { s.hbm with logValid := true, logAddr := if s.hbm.logValid then s.hbm.logAddr else BitVec.ofNat 40 b } := by
  unfold State.logBurst
  cases hv : s.hbm.logValid with
  | true => rw [if_pos rfl, if_pos rfl, ← hv]
  | false => rfl

theorem State.burstLost_hbm (b : Nat) (s : State) : (s.burstLost b).hbm =
    let c := s.pc (s.pcOf b)
    { (s.setPc (s.pcOf b) { c with uncorrected := satAdd c.uncorrected 1, uncAt := (s.up :: c.uncAt).take 16 }).hbm with
      logValid := true, logAddr := if s.hbm.logValid then s.hbm.logAddr else BitVec.ofNat 40 b } := by
  rw [State.burstLost, State.logBurst_hbm, State.event_hbm]
  rfl

/-- The sixteenth of the latest times is the one fifteen places behind the new one. -/
theorem latest16_spec (x : Nat) (l : List Nat) :
    (((x :: l).take 16).length = 16 ↔ 15 ≤ l.length) ∧ (15 ≤ l.length → ((x :: l).take 16).getLastD 0 = l.getD 14 0) := by
  refine ⟨by simp, fun h => ?_⟩
  rw [List.getLastD_eq_getLast?, List.getLast?_eq_getElem?]
  have hl : ((x :: l).take 16).length = 16 := by simp; omega
  rw [hl]
  simp

/-- Fifteen earlier bursts were lost, the first of them at most 1 s ago (13 R434). -/
def State.lostMany (c : Pc) (s : State) : Prop := 15 ≤ c.uncAt.length ∧ s.up ≤ c.uncAt.getD 14 0 + 1000000000

theorem State.meetBurst_many {b : Nat} {s : State} (h : s.lostMany (s.pc (s.pcOf b))) :
    s.meetBurst b 2 = (s.burstLost b).pcFailed (s.pcOf b) := by
  obtain ⟨h1, h2⟩ := latest16_spec s.up (s.pc (s.pcOf b)).uncAt
  rw [State.meetBurst_uncorrectable b (by decide), if_pos ⟨h1.2 h.1, by rw [State.burstLost_up, h2 h.1]; exact h.2⟩]

theorem State.meetBurst_few {b : Nat} {s : State} (h : ¬ s.lostMany (s.pc (s.pcOf b))) : s.meetBurst b 2 = s.burstLost b := by
  obtain ⟨h1, h2⟩ := latest16_spec s.up (s.pc (s.pcOf b)).uncAt
  rw [State.meetBurst_uncorrectable b (by decide), if_neg]
  rintro ⟨hl, ht⟩
  rw [State.burstLost_up, h2 (h1.1 hl)] at ht
  exact h ⟨h1.1 hl, ht⟩

theorem State.scrubRead_lostMany (b : Nat) (s : State) :
    (s.scrubRead b).lostMany ((s.scrubRead b).pc ((s.scrubRead b).pcOf b)) ↔ s.lostMany (s.pc (s.pcOf b)) := by
  rw [State.scrubRead_pcOf, State.scrubRead_pc, State.lostMany, State.scrubRead_up]
  rfl

/-! ## What a burst of the patrol scrub leaves behind -/

section
variable {a : Nat} {s : State} (h : s.scrubTakes (a / 32 * 32) = some (s.scrubbedPc (a / 32 * 32)))
include h

theorem State.hbmScrub_good_spec (hu : Tbl.get 0 (a / 32 * 32) s.hbm.upset = 0) :
    (s.hbmScrub a).hbm.upset = s.hbm.upset ∧ (s.hbmScrub a).hbm.mem = s.hbm.mem ∧
      (s.hbmScrub a).pc (s.pcOf (a / 32 * 32)) = s.scrubbedPc (a / 32 * 32) ∧
      ∀ n, n ≠ s.pcOf (a / 32 * 32) → (s.hbmScrub a).pc n = s.pc n := by
  rw [State.hbmScrub_good h hu]
  exact ⟨State.scrubRead_upset .., State.scrubRead_mem .., State.scrubRead_pc .., fun n hn => State.scrubRead_pc_ne hn⟩

/-- A corrected burst is written back. -/
theorem State.hbmScrub_corrected_spec (hu : Tbl.get 0 (a / 32 * 32) s.hbm.upset = 1) :
    (s.hbmScrub a).hbm.upset = Tbl.erase (a / 32 * 32) s.hbm.upset ∧
      ((s.hbmScrub a).pc (s.pcOf (a / 32 * 32))).corrected = satAdd (s.pc (s.pcOf (a / 32 * 32))).corrected 1 ∧
      (s.hbmScrub a).hbm.mem = s.hbm.mem := by
  rw [State.hbmScrub_corrected h hu]
  have hm := State.meetBurst_corrected (a / 32 * 32) (s.scrubRead (a / 32 * 32))
  rw [State.scrubRead_pcOf, State.scrubRead_pc] at hm
  generalize (s.scrubRead (a / 32 * 32)).meetBurst (a / 32 * 32) 1 = y at hm ⊢
  refine ⟨rfl, ?_, ?_⟩
  · show (y.pc (s.pcOf (a / 32 * 32))).corrected = _
    rw [State.pc_congr (congrArg Hbm.pcs hm), State.setPc_pc]
    rfl
  · rw [State.setHbm_hbm, hm]
    exact State.scrubRead_mem ..

/-- The sixteenth uncorrectable burst within 1 s fails the pseudo-channel (13 R434). -/
theorem State.hbmScrub_many_spec (hu : Tbl.get 0 (a / 32 * 32) s.hbm.upset = 2) (hm : s.lostMany (s.pc (s.pcOf (a / 32 * 32)))) :
    ((s.hbmScrub a).pc (s.pcOf (a / 32 * 32))).failed = true := by
  rw [State.hbmScrub_uncorrectable h hu, State.meetBurst_many ((State.scrubRead_lostMany _ s).2 hm), State.scrubRead_pcOf]
  exact State.pcFailed_failed _ _

/-- An uncorrectable burst is counted and logged (13 R431). -/
theorem State.hbmScrub_few_spec (hu : Tbl.get 0 (a / 32 * 32) s.hbm.upset = 2) (hm : ¬ s.lostMany (s.pc (s.pcOf (a / 32 * 32)))) :
    (s.hbmScrub a).hbm.upset = s.hbm.upset ∧
      ((s.hbmScrub a).pc (s.pcOf (a / 32 * 32))).uncorrected = satAdd (s.pc (s.pcOf (a / 32 * 32))).uncorrected 1 ∧
      (s.hbmScrub a).hbm.mem = s.hbm.mem ∧ (s.hbmScrub a).hbm.logValid = true ∧
      (s.hbmScrub a).hbm.logAddr = if s.hbm.logValid then s.hbm.logAddr else BitVec.ofNat 40 (a / 32 * 32) := by
  rw [State.hbmScrub_uncorrectable h hu, State.meetBurst_few (mt (State.scrubRead_lostMany _ s).1 hm)]
  have hl := State.burstLost_hbm (a / 32 * 32) (s.scrubRead (a / 32 * 32))
  dsimp only at hl
  rw [State.scrubRead_pcOf, State.scrubRead_pc] at hl
  refine ⟨?_, ?_, ?_, ?_, ?_⟩
  · rw [hl]
    exact State.scrubRead_upset ..
  · rw [State.pc, hl]
    exact congrArg Pc.uncorrected (State.setPc_pc ..)
  · rw [hl]
    exact State.scrubRead_mem ..
  · rw [hl]
  · rw [hl]
    simp only [State.scrubRead_hbm]
    rfl

end

/-! ## Refresh (13 R433) -/

theorem State.hbmRefresh_spec (p bank : Nat) (s : State) : Tbl.get 0 bank ((s.hbmRefresh p bank).pc p).refreshed = s.up ∧
    ((s.hbmRefresh p bank).pc p).refresh2x = decide (s.hbm.stackTemp > 85) ∧ ∀ n, n ≠ p → (s.hbmRefresh p bank).pc n = s.pc n := by
  have hb : (s.hbmRefresh p bank).hbm.pcs = (s.setPc p { s.pc p with
      refreshed := Tbl.insert bank s.up (s.pc p).refreshed, refresh2x := decide (s.hbm.stackTemp > 85) }).hbm.pcs := by
    rw [State.hbmRefresh, State.event_hbm]
  refine ⟨?_, ?_, fun n hn => ?_⟩
  · rw [State.pc_congr hb, State.setPc_pc, Tbl.get_insert_same]
  · rw [State.pc_congr hb, State.setPc_pc]
  · rw [State.pc_congr hb, State.setPc_pc_ne _ _ _ _ hn]

end Sys2Proof.Machine
end

section
/-!
PROOFS. Pins, waiting requests and DATA_GET (10 R341; 13 R439 to R443); and the events of the stores and of HBM (O44).
-/

set_option Elab.async false

namespace Sys2Proof.Machine

open Sys2Proof

/-! ## An access that meets no uncorrectable burst touches no queue -/

theorem State.meetBurst_one_sameWork (b : Nat) (s : State) : s.SameWork (s.meetBurst b 1) := by
  rw [State.meetBurst, if_pos rfl]
  exact (State.setPc_sameWork ..).trans (State.event_sameWork ..)

theorem State.loadLine_none_sameWork {a : Nat} {s : State} (h : (s.loadLine a).2 = none) : s.SameWork (s.loadLine a).1 := by
  have hfold : ∀ (l : List (Nat × Nat)) (t : State), (∀ e ∈ l, e.2 = 1) → s.SameWork t → s.SameWork (l.foldl (fun s e => s.meetBurst e.1 e.2) t) := by
    intro l
    induction l with
    | nil => exact fun t _ k => k
    | cons e l ih =>
      intro t hl k
      refine ih _ (fun x hx => hl x (.tail _ hx)) ?_
      show s.SameWork (t.meetBurst e.1 e.2)
      rw [hl e (.head _)]
      exact k.trans (State.meetBurst_one_sameWork e.1 t)
  unfold State.loadLine at h ⊢
  dsimp only at h ⊢
  split at h
  · cases h
  · rename_i hp
    rw [if_neg hp]
    refine (hfold _ s (fun e he => ?_) (.rfl s)).trans (State.event_sameWork ..)
    have hf : (s.badBursts a 128).filter (fun e => decide (e.2 ≠ 1)) = [] := by simpa using h
    simpa using List.filter_eq_nil_iff.1 hf e he

theorem State.useLine_none_sameWork {a : Nat} {write whole : Bool} {s : State} (h : (s.useLine a write whole).2 = none) :
    s.SameWork (s.useLine a write whole).1 := by
  have he := State.event_sameWork 0x209 (s.sliceAt a) 1 s
  unfold State.useLine at h ⊢
  cases hc : s.cached a with
  | some x =>
    simp only [hc] at h ⊢
    by_cases hx : (if (write && whole) = true then 0 else x.err) = 2
    · rw [if_pos hx] at h
      cases h
    · rw [if_neg hx]
      exact (State.event_sameWork ..).trans (State.setHbm_sameWork ..)
  | none =>
    simp only [hc] at h ⊢
    split
    · exact he.trans (State.enterLine_sameWork ..)
    · rename_i hw
      rw [if_neg hw] at h
      cases hl : ((s.event 0x209 (s.sliceAt a) 1).loadLine a).2 with
      | some b => simp [hl] at h
      | none => exact (he.trans (State.loadLine_none_sameWork hl)).trans (State.enterLine_sameWork ..)

theorem State.useLines_none_sameWork {lo : Nat} {write whole : Bool} {ls : List Nat} {s : State} (h : (s.useLines lo write whole ls).2 = none) :
    s.SameWork (s.useLines lo write whole ls).1 := by
  induction ls generalizing s with
  | nil => exact .rfl s
  | cons m ls ih =>
    cases hu : (s.useLine m write whole).2 with
    | some b =>
      rw [State.useLines_fails lo write whole m ls hu] at h
      cases h
    | none =>
      have hs : s.useLines lo write whole (m :: ls) = (s.useLine m write whole).1.useLines lo write whole ls := by
        simp only [State.useLines, List.foldl_cons, hu, Option.map_none]
      rw [hs] at h ⊢
      exact (State.useLine_none_sameWork hu).trans (ih h)

/-! ## Pins of the hearth cache (13 R439; log entry 207) -/

theorem State.pinDone_none {q sq : Nat} {s : State} (h : s.hbm.pins.find? (fun p => decide (p.queue = q ∧ p.seq = sq)) = none) :
    s.pinDone q sq = s := by
  simp only [State.pinDone, h]

/-- A pin whose lines are all resident loads nothing. -/
theorem State.pinDone_resident {q sq : Nat} {s : State} {p : PinReq}
    (h : s.hbm.pins.find? (fun p => decide (p.queue = q ∧ p.seq = sq)) = some p) (hn : p.lines.filter (fun m => !s.hbm.pinned.contains m) = []) :
    s.pinDone q sq = (s.setHbm { s.hbm with pins := s.hbm.pins.filter (fun x => decide (¬ (x.queue = q ∧ x.seq = sq))) }).finish q sq St.done := by
  simp only [State.pinDone, h, hn, List.map_nil, State.useLines, List.foldl_nil, List.append_nil, List.isEmpty_nil, if_true]
  rfl

section
variable {q sq : Nat} {s : State} {p : PinReq} (h : s.hbm.pins.find? (fun p => decide (p.queue = q ∧ p.seq = sq)) = some p)
  {new : List Nat} (hn : p.lines.filter (fun m => !s.hbm.pinned.contains m) = new)
  {u : State} (hu : s.setHbm { s.hbm with pins := s.hbm.pins.filter (fun x => decide (¬ (x.queue = q ∧ x.seq = sq))) } = u)
include h hn hu

theorem State.pinDone_fails {x : Nat} (hr : (u.useLines 0 false false (new.map (fun m => u.lineAddr m))).2 = some x) :
    s.pinDone q sq = (u.useLines 0 false false (new.map (fun m => u.lineAddr m))).1.complete q sq { status := St.dataError, location := locHbm x } { } := by
  simp only [State.pinDone, h, hn, hu, hr]

theorem State.pinDone_loads (hne : new ≠ []) (ho : (s.outstOf q sq).isSome = true)
    (hr : (u.useLines 0 false false (new.map (fun m => u.lineAddr m))).2 = none) :
    let r := u.useLines 0 false false (new.map (fun m => u.lineAddr m))
    let t := r.1.setHbm { r.1.hbm with pinned := r.1.hbm.pinned ++ new }
    s.pinDone q sq = (t.journalNow (t.causeOf q sq) (objTarget 0x30 (p.lines.headD 0)) none none).finish q sq St.done := by
  intro r t
  have hs : s.SameWork t := (hu ▸ State.setHbm_sameWork _ s : s.SameWork u).trans
    ((State.useLines_none_sameWork hr).trans (State.setHbm_sameWork _ r.1))
  obtain ⟨o, hso⟩ := Option.isSome_iff_exists.1 ho
  have hto : t.outstOf q sq = some o := by rw [← hso, State.outstOf, State.outstOf, hs.queue]
  have he : new.isEmpty = false := by simpa using hne
  have hc : t.causeOf q sq = { queue := q, tag := o.pkt.hdr.tag, seq := sq, opcode := o.pkt.opcode.toNat } := by
    simp only [State.causeOf, hto]
  rw [hc]
  simp only [State.pinDone, h, hn, hu, hr, he]
  rw [show r.1.setHbm { r.1.hbm with pinned := r.1.hbm.pinned ++ new } = t from rfl, hto]
  rfl

end

/-! ## Requests that wait for HBM (13 R442, R443) -/

theorem State.request_none {rq : Nat} {s : State} (h : s.hbm.waiting.find? (fun r => decide (r.id = rq)) = none) :
    s.prefetchDrop rq = s ∧ s.agePromote rq = s := by
  constructor
  · simp only [State.prefetchDrop, h]
  · simp only [State.agePromote, h]

section
variable {rq : Nat} {s : State} {r : HbmReq} (h : s.hbm.waiting.find? (fun r => decide (r.id = rq)) = some r)
include h

theorem State.prefetchDrop_waits (hw : r.pf = false ∨ s.up < r.since + 5000) : s.prefetchDrop rq = s := by
  have hn : ¬ (r.pf && decide (s.up ≥ r.since + 5000)) = true := by
    rcases hw with hw | hw
    · simp [hw]
    · simp [not_le.2 hw]
  simp only [State.prefetchDrop, h, if_neg hn]

theorem State.prefetchDrop_drops (hp : r.pf = true) (hw : r.since + 5000 ≤ s.up) : s.prefetchDrop rq = (s.setHbm { s.hbm with
    waiting := s.hbm.waiting.filter (fun x => decide (x.id ≠ rq)), pfDropped := satAdd s.hbm.pfDropped 1 }).event 0x20C (s.sliceAt r.addr) 1 := by
  simp only [State.prefetchDrop, h, hp, ge_iff_le, hw, decide_true, Bool.and_self, if_true]

theorem State.agePromote_waits (hw : r.cls < 2 ∨ s.up < r.since + 20000) : s.agePromote rq = s := by
  have hn : ¬ (decide (2 ≤ r.cls) && decide (s.up ≥ r.since + 20000)) = true := by
    rcases hw with hw | hw
    · simp [not_le.2 hw]
    · simp [not_le.2 hw]
  simp only [State.agePromote, h, if_neg hn]

theorem State.agePromote_moves (hc : 2 ≤ r.cls) (hw : r.since + 20000 ≤ s.up) : s.agePromote rq = (s.setHbm { s.hbm with
    waiting := s.hbm.waiting.map (fun x => if x.id = rq then { x with cls := 1, deadline := x.arrival } else x) }).event
      0x20D (s.sliceAt r.addr) 1 := by
  simp only [State.agePromote, h, ge_iff_le, hc, hw, decide_true, Bool.and_self, if_true]

end

/-! ## DATA_GET (10 R341) -/

theorem State.getDone_still {q sq : Nat} {s : State}
    (h : s.usb.gets.find? (fun g => decide (g.queue = q ∧ g.seq = sq)) = none ∨ s.usb.u3 = true) : s.getDone q sq = s := by
  unfold State.getDone
  split
  · rfl
  · rename_i hg
    rw [if_pos (h.resolve_left (by rw [hg]; exact Option.some_ne_none _))]

section
variable {q sq : Nat} {s : State} {g : Stream} (h : s.usb.gets.find? (fun g => decide (g.queue = q ∧ g.seq = sq)) = some g)
  (hu : s.usb.u3 = false) {u : State}
  (hs : s.setUsb { s.usb with gets := s.usb.gets.filter (fun x => decide (¬ (x.queue = q ∧ x.seq = sq))) } = u)
include h hu hs

theorem State.getDone_sends (hr : (u.hbmRead g.src g.len).2.2 = none) :
    let r := u.hbmRead g.src g.len
    s.getDone q sq = ((r.2.1.setUsb { r.2.1.usb with ep2data := r.2.1.usb.ep2data ++ [(g.stream, r.1)] }).event 0x281 0 1).complete q sq
      { r0 := BitVec.ofNat 64 g.len } { } := by
  have hn : ¬ s.usb.u3 = true := by simp [hu]
  simp only [State.getDone, h, if_neg hn, hs, hr]

theorem State.getDone_fails {x : Nat} (hr : (u.hbmRead g.src g.len).2.2 = some x) :
    s.getDone q sq = (u.hbmRead g.src g.len).2.1.complete q sq { status := St.dataError, location := locHbm x } { } := by
  have hn : ¬ s.usb.u3 = true := by simp [hu]
  simp only [State.getDone, h, if_neg hn, hs, hr]

end

/-! ## A read that meets no error -/

theorem State.hbmRead_clean {s : State} (c : s.hbmClean) (a n : Nat) :
    (s.hbmRead a n).1 = s.hbmBytes a n ∧ (s.hbmRead a n).2.2 = none ∧ (s.hbmRead a n).2.1.hbmClean :=
  ⟨rfl, State.useLines_clean a false false (linesOf a n) c⟩

end Sys2Proof.Machine

open Sys2Proof.Machine

/-- Settles O44, clause by clause: each event is its operation on the state, and each operation has a lemma for the case that the clause
names. -/
theorem storeEvents : Obligations.StoreEvents := by
  unfold Obligations.StoreEvents
  refine ⟨?_, ?_, fun s t h => State.failDoomed_none h,
    fun s t x l h0 h1 hx => State.failDoomed_second h0 h1 hx, ?_, ?_, ?_, ?_, ?_, ?_, ?_, ?_, fun s a n c => State.hbmRead_clean c a n⟩
  · intro s t coil src prod n6 d ht hc T c e k
    rw [exec_receivePush ht hc]
    refine ⟨fun ha hr => ?_, fun ho hr hn hf htn hb => ⟨fun hon hd w x hw hx => ?_, fun hon => ?_⟩, fun ho hr hn hl => ?_⟩
    · rw [State.arrive_refused (e := e) rfl ha hr]
    · rw [State.arrive_taken (e := e) rfl ho hr hn (State.rxWrite_dark (e := e) rfl hf htn hb hon hd hw hx)]
    · rw [State.arrive_taken (e := e) rfl ho hr hn (State.rxWrite_on (e := e) rfl hf htn hb hon)]
    · rw [State.arrive_buffered (e := e) rfl ho hr hn hl]
  · intro s t coil word fp ws ht hc T c off done
    have he := exec_atomicAdd ht hc word fp ws s
    refine ⟨fun h => ?_, fun w x hw hx => ⟨fun hj => ?_, fun hj ho hr ha hf => ?_⟩⟩
    · exact he.trans (congrArg done (State.atomicAdd_refused_coil rfl h fp))
    · exact he.trans (congrArg done (State.atomicAdd_refused_strict rfl hw hx hj word fp ws))
    · have ad : s.Adds t coil word ws w c := ⟨rfl, hw, ⟨x, hx, hj⟩, ho, hr, ha, hf⟩
      refine ⟨fun h => ?_, fun hh hn hd => ?_, fun o hh hn hr => ?_, fun hh hn hu => ?_⟩
      · exact he.trans (congrArg done (ad.held fp h))
      · exact he.trans (congrArg done (ad.dark fp hh hn hd))
      · exact he.trans (congrArg done (ad.uncorrectable fp hh hn hr))
      · exact he.trans (congrArg done (ad.taken fp hh hn hu))
  · intro s p q d i a b x y c h1 h2 h3 h4 h5 h6 h7 h8 h9 h10
    exact State.dmaRow_own h1 h2 h3 h4 h5 h6 h7 h8 h9 h10
  · intro s t q ht hq v
    refine ⟨exec_dmaDescriptorDone_still ht hq, fun d rest hd hr => ⟨exec_dmaDescriptorDone_waiting ht hq hd hr,
      fun u i ha hl hrow => exec_dmaDescriptorDone_retires ht hq hd hr ha hl hrow,
      fun u i st loc ha hrow => exec_dmaDescriptorDone_bad ht hq hd hr ha hrow⟩⟩
  · intro s t store off ht T w
    rw [exec_storeScrub ht]
    refine ⟨fun h => congrArg _ (State.scrub_still h), fun e rest hc hi ho hu => ⟨fun h => ?_, fun h => ?_⟩⟩
    · exact ⟨_, rfl, State.scrub_corrects hc hi ho hu h⟩
    · exact ⟨_, rfl, State.scrub_logs hc hi ho hu h⟩
  · intro s a b c anew many
    refine ⟨fun h => congrArg _ (State.hbmScrub_none (State.scrubTakes_none h)), fun hc hl hh hm hw hn => ?_⟩
    have h := State.scrubTakes_some hc hl hh hm hw hn
    exact ⟨fun hu => ⟨_, rfl, State.hbmScrub_good_spec h hu⟩, fun hu hm => ⟨_, rfl, State.hbmScrub_many_spec h hu hm⟩,
      fun hu => ⟨_, rfl, State.hbmScrub_corrected_spec h hu⟩, fun hu hm => ⟨_, rfl, State.hbmScrub_few_spec h hu hm⟩⟩
  · intro s p bank hp hb
    exact ⟨_, if_pos ⟨hp, hb⟩, State.hbmRefresh_spec p bank s⟩
  · intro s q sq
    refine ⟨fun h => congrArg _ (State.pinDone_none h), fun p h hn => congrArg _ (State.pinDone_resident h hn), fun p h hn ho => ?_⟩
    exact ⟨fun hr => congrArg _ (State.pinDone_loads h rfl rfl hn ho hr), fun x hr => congrArg _ (State.pinDone_fails h rfl rfl hr)⟩
  · intro s rq
    refine ⟨fun h => ⟨congrArg _ (State.request_none h).1, congrArg _ (State.request_none h).2⟩, fun r h => ⟨?_, ?_, ?_, ?_⟩⟩
    · exact fun hw => congrArg _ (State.prefetchDrop_waits h hw)
    · exact fun hp hw => congrArg _ (State.prefetchDrop_drops h hp hw)
    · exact fun hw => congrArg _ (State.agePromote_waits h hw)
    · exact fun hc hw => congrArg _ (State.agePromote_moves h hc hw)
  · intro s q sq
    refine ⟨fun h => congrArg _ (State.getDone_still h), fun g h hu => ⟨fun hr => ?_, fun x hr => ?_⟩⟩
    · exact congrArg _ (State.getDone_sends h hu rfl hr)
    · exact congrArg _ (State.getDone_fails h hu rfl hr)
end

section
/-!
PROOFS. The sequencer's division (03 R117; O2): the quotient overflows in one case only, and each of the four operations on the numbers
that its form makes of its operands.
-/

set_option Elab.async false

namespace Sys2Proof.Machine

open Sys2Proof

/-! ## Operations of the sequencer that raise flags -/

/-- An operation with flags writes its register, and its flags are the sequencer's (03 R106; 05 R147). -/
theorem issue_flagOp {s : State} {t : Nat} {f : BitVec 48} {c : Ctx} (h : s.Runs t f c) (hg : goodAlu f = true)
    (op : Bool → W64 → W64 → W64 × W32) :
    let r := op (bit f 0) (c.reg (Fmt.a f)) (c.reg (Fmt.b f))
    issue t f (goodAlu f) (flagOp op) s = s.putFlagged t f c r.1 r.2 :=
  (issue_set h hg rfl).trans (by simp [State.putFlagged])

/-! ## The numbers of a form -/

/-- The largest signed number of a form. -/
def formTop (w : Bool) : Int := if w then 2 ^ 31 - 1 else 2 ^ 63 - 1

theorem formTop_pos (w : Bool) : 0 < formTop w := by cases w <;> decide

theorem sOf_bounds (w : Bool) (x : W64) : -formTop w - 1 ≤ sOf w x ∧ sOf w x ≤ formTop w := by
  cases w with
  | true =>
    have hl := BitVec.le_toInt (x.setWidth 32 : W32)
    have hh := BitVec.toInt_lt (x := (x.setWidth 32 : W32))
    simp only [sOf, formTop, if_true]
    omega
  | false =>
    have hl := BitVec.le_toInt x
    have hh := BitVec.toInt_lt (x := x)
    simp only [sOf, formTop, Bool.false_eq_true, if_false]
    omega

/-- The low word of a form, extended to the register, is the number that the form makes of it. -/
theorem wForm_eq_ofInt_sOf (w : Bool) (x : W64) : wForm w x = BitVec.ofInt 64 (sOf w x) := by
  cases w with
  | true => rfl
  | false => exact (BitVec.ofInt_toInt).symm

/-- A natural number in a form: its low word sign-extended, or its 64 bits. -/
theorem wForm_natCast (w : Bool) (n : Nat) :
    wForm w (i64 (n : Int)) = if w then (BitVec.ofNat 32 n).signExtend 64 else BitVec.ofNat 64 n := by
  have h : i64 (n : Int) = BitVec.ofNat 64 n := BitVec.ofInt_natCast 64 n
  cases w with
  | true => rw [wForm, if_pos rfl, if_pos rfl, h, BitVec.setWidth_ofNat_of_le (by decide)]
  | false => rw [wForm, if_neg Bool.false_ne_true, if_neg Bool.false_ne_true, h]

/-- The unsigned number of a form. -/
def nOf (w : Bool) (x : W64) : Nat := if w then (x.setWidth 32 : W32).toNat else x.toNat

theorem uOf_eq_natCast (w : Bool) (x : W64) : uOf w x = (nOf w x : Int) := by cases w <;> rfl

theorem wForm_eq_nOf (w : Bool) (x : W64) :
    wForm w x = if w then (BitVec.ofNat 32 (nOf w x)).signExtend 64 else BitVec.ofNat 64 (nOf w x) := by
  cases w with
  | true => rw [wForm, nOf, if_pos rfl, if_pos rfl, if_pos rfl, BitVec.ofNat_toNat, BitVec.setWidth_eq]
  | false => rw [wForm, nOf, if_neg Bool.false_ne_true, if_neg Bool.false_ne_true, if_neg Bool.false_ne_true, BitVec.ofNat_toNat, BitVec.setWidth_eq]

/-! ## The four operations (03 R117) -/

/-- A truncated quotient exceeds the largest number in one case only: the smallest number divided by −1. -/
theorem top_lt_tdiv_iff {a b top : Int} (ht : 0 < top) (hl : -top - 1 ≤ a) (hh : a ≤ top) :
    top < a.tdiv b ↔ a = -top - 1 ∧ b = -1 := by
  constructor
  · intro h
    have habs : (a.tdiv b).natAbs = a.natAbs / b.natAbs := Int.natAbs_tdiv a b
    have hb : b = -1 ∨ b = 0 ∨ b = 1 ∨ 2 ≤ b.natAbs := by omega
    obtain rfl | rfl | rfl | hb := hb
    · rw [Int.tdiv_neg, Int.tdiv_one] at h
      omega
    · rw [Int.tdiv_zero] at h
      omega
    · rw [Int.tdiv_one] at h
      omega
    · have := Nat.div_le_div_left hb (by decide) (a := a.natAbs)
      omega
  · rintro ⟨rfl, rfl⟩
    rw [Int.tdiv_neg, Int.tdiv_one]
    omega

theorem divS_eq (w : Bool) (x y : W64) : divS w x y =
    if sOf w y = 0 then (BitVec.ofInt 64 (if sOf w x < 0 then -formTop w - 1 else formTop w), Fl.dz)
    else if sOf w x = -formTop w - 1 ∧ sOf w y = -1 then (BitVec.ofInt 64 (formTop w), Fl.sat)
    else (BitVec.ofInt 64 ((sOf w x).tdiv (sOf w y)), 0) := by
  obtain ⟨hl, hh⟩ := sOf_bounds w x
  have hover := top_lt_tdiv_iff (b := sOf w y) (formTop_pos w) hl hh
  simp only [← hover]
  rfl

theorem remS_eq (w : Bool) (x y : W64) : remS w x y =
    if sOf w y = 0 then (BitVec.ofInt 64 (sOf w x), Fl.dz) else (BitVec.ofInt 64 ((sOf w x).tmod (sOf w y)), 0) := by
  rw [remS, wForm_eq_ofInt_sOf]
  rfl

theorem divU_eq (w : Bool) (x y : W64) : divU w x y =
    if nOf w y = 0 then (BitVec.allOnes 64, Fl.dz)
    else (if w then (BitVec.ofNat 32 (nOf w x / nOf w y)).signExtend 64 else BitVec.ofNat 64 (nOf w x / nOf w y), 0) := by
  simp only [divU, uOf_eq_natCast, ← Int.natCast_div, wForm_natCast, Int.natCast_eq_zero]

theorem remU_eq (w : Bool) (x y : W64) : remU w x y =
    if nOf w y = 0 then (if w then (BitVec.ofNat 32 (nOf w x)).signExtend 64 else BitVec.ofNat 64 (nOf w x), Fl.dz)
    else (if w then (BitVec.ofNat 32 (nOf w x % nOf w y)).signExtend 64 else BitVec.ofNat 64 (nOf w x % nOf w y), 0) := by
  rw [remU, wForm_eq_nOf w x]
  simp only [uOf_eq_natCast, ← Int.natCast_mod, wForm_natCast, Int.natCast_eq_zero]

/-- The outcome of a choice of results is the choice of their outcomes. -/
theorem State.putFlagged_ite {p : Prop} [Decidable p] (s : State) (t : Nat) (f : BitVec 48) (c : Ctx) (r r' : W64 × W32) :
    s.putFlagged t f c (if p then r else r').1 (if p then r else r').2 =
      if p then s.putFlagged t f c r.1 r.2 else s.putFlagged t f c r'.1 r'.2 := by
  split <;> rfl

end Sys2Proof.Machine

open Sys2Proof Sys2Proof.Machine

/-- Settles O2: each instruction answers its operation, which is taken apart along the cases of R117. -/
theorem divisionResults : Obligations.DivisionResults := by
  unfold Obligations.DivisionResults
  intro s t f c h hg w sx ux a b x y top ext
  refine ⟨?_, ?_, ?_, ?_, fun u fl k => ⟨rfl, rfl⟩⟩
  · refine (issue_flagOp h hg divS).trans ?_
    simp only [divS_eq, State.putFlagged_ite]
    rfl
  · refine (issue_flagOp h hg remS).trans ?_
    simp only [remS_eq, State.putFlagged_ite]
    rfl
  · refine (issue_flagOp h hg divU).trans ?_
    simp only [divU_eq, State.putFlagged_ite]
    rfl
  · refine (issue_flagOp h hg remU).trans ?_
    simp only [remU_eq, State.putFlagged_ite]
    rfl

end

section
/-!
PROOFS. The floating-point lanes of the vector engine (05 R147, R156, R158; O13): the lanes that the model walks through as lists are those
of `Ctx.lanes`, and the sign forms change the sign bit alone.
-/

set_option Elab.async false

namespace Sys2Proof.Machine

open Sys2Proof

/-! ## What the issue leaves of the vector registers -/

@[simp] theorem Ctx.after_vec (now up n : Nat) (c : Ctx) : (c.after now up).vec n = c.vec n := by rw [Ctx.after_eq]; rfl
@[simp] theorem Ctx.after_mask (now up n : Nat) (c : Ctx) : (c.after now up).mask n = c.mask n := by rw [Ctx.after_eq]; rfl

/-! ## Lanes one by one (05 R141, R156) -/

/-- A list over the lanes, with their numbers. -/
theorem zipIdx_map_range {α : Type} (g : Nat → α) (n : Nat) : ((List.range n).map g).zipIdx = (List.range n).map (fun j => (g j, j)) := by
  have hr : List.range' 0 n = (List.range n).map id := by rw [List.map_id, List.range_eq_range']
  rw [List.zipIdx_eq_zip_range', List.length_map, List.length_range, hr, List.zip_map']
  rfl

/-- The operands of the lanes of an instruction that has issued. -/
theorem laneArgs_atIssue (s : State) (t : Nat) (f : BitVec 48) (c : Ctx) :
    laneArgs (atIssue s t f c) = (List.range 64).map (fun j =>
      { a := (c.vec (Fmt.a f)).extractLsb' (32 * j) 32, b := (c.vec (Fmt.b f)).extractLsb' (32 * j) 32,
        c := (c.vec (Fmt.c f)).extractLsb' (32 * j) 32 }) := by
  simp only [laneArgs, lanesOf, atIssue_c, atIssue_f, Ctx.after_vec, List.zip_map', List.map_map, Function.comp_def]

/-- The lanes of an instruction that has issued are those of its context (05 R156). -/
theorem maskLanes_atIssue (s : State) (t : Nat) (f : BitVec 48) (c : Ctx) (op : Lane3 → W32 × W32) :
    maskLanes (c.mask (Fmt.k f)) (lanesOf (c.vec (Fmt.d f))) ((laneArgs (atIssue s t f c)).map op) =
      c.lanes f (fun a b x => op { a := a, b := b, c := x }) := by
  simp only [maskLanes, lanesOf, laneArgs_atIssue, List.map_map, List.zip_map', zipIdx_map_range, List.foldl_map, Function.comp_def, Ctx.lanes]

/-- A lane operation writes the lanes of its destination, and its flags are the vector engine's (03 R106; 05 R156). -/
theorem issue_lanesOp {s : State} {t : Nat} {f : BitVec 48} {c : Ctx} (h : s.Runs t f c) {good : Bool} (hg : good = true)
    (op : Lane3 → W32 × W32) :
    issue t f good (lanesOp op) s = s.putVec t f c (c.lanes f (fun a b x => op { a := a, b := b, c := x })) := by
  refine issue_set h hg (g := fun k => (k.setVec (Fmt.d f) (ofLanes (c.lanes f _).1)).raise 1 (c.lanes f _).2) ?_
  rw [lanesOp, atIssue_c, atIssue_f, Ctx.after_mask, Ctx.after_vec, maskLanes_atIssue]

/-! ## Forms of the vector instructions -/

theorem goodV_of {n : Nat} {f : BitVec 48} (ht : Fmt.lt f = 2) (hm : Fmt.vmod f = 0) (ha : 1 ≤ n) (hb : 2 ≤ n ∨ Fmt.b f = 0)
    (hc : 3 ≤ n ∨ Fmt.c f = 0) : goodV n [2] f = true := by
  simp [goodV, ht, hm, ha, hb, hc]

/-! ## The sign bit (03 R102) -/

/-- A word of a sign and a magnitude, bit by bit. -/
theorem getLsbD_sign_append (b : Bool) (x : W32) {i : Nat} (hi : i < 32) :
    (BitVec.ofBool b ++ x.extractLsb' 0 31 : W32).getLsbD i = if i = 31 then b else x.getLsbD i := by
  rw [BitVec.getLsbD_append, BitVec.getLsbD_ofBool, BitVec.getLsbD_extractLsb', Nat.zero_add]
  by_cases h : i = 31
  · subst h
    simp
  · have hlt : i < 31 := by omega
    simp [h, hlt]

/-- The sign bit and the magnitude bits of a word, as the masks that the model takes them with. -/
theorem getLsbD_signMask (i : Nat) : (0x80000000 : W32).getLsbD i = decide (i = 31) := by
  rw [show (0x80000000 : W32) = BitVec.twoPow 32 31 by decide, BitVec.getLsbD_twoPow]
  simp [eq_comm]

theorem getLsbD_magnitudeMask {i : Nat} (hi : i < 32) : (0x7FFFFFFF : W32).getLsbD i = decide (i ≠ 31) := by
  rw [show (0x7FFFFFFF : W32) = ~~~(0x80000000 : W32) by decide, BitVec.getLsbD_not, getLsbD_signMask i]
  simp [hi]

theorem fneg_eq_append (x : W32) : fneg x = BitVec.ofBool (!x.getLsbD 31) ++ x.extractLsb' 0 31 := by
  refine BitVec.eq_of_getLsbD_eq (fun i hi => ?_)
  rw [getLsbD_sign_append _ _ hi, fneg, BitVec.getLsbD_xor, getLsbD_signMask i]
  by_cases h : i = 31 <;> simp [h]

/-- A magnitude under the sign of another word; with a word whose sign is clear, the absolute value. -/
theorem magnitude_or_sign_eq_append (x y : W32) :
    (x &&& 0x7FFFFFFF) ||| (y &&& 0x80000000) = BitVec.ofBool (y.getLsbD 31) ++ x.extractLsb' 0 31 := by
  refine BitVec.eq_of_getLsbD_eq (fun i hi => ?_)
  rw [getLsbD_sign_append _ _ hi, BitVec.getLsbD_or, BitVec.getLsbD_and, BitVec.getLsbD_and, getLsbD_signMask i, getLsbD_magnitudeMask hi]
  by_cases h : i = 31 <;> simp [h]

theorem magnitude_eq_append (x : W32) : x &&& 0x7FFFFFFF = BitVec.ofBool false ++ x.extractLsb' 0 31 := by
  simpa using magnitude_or_sign_eq_append x 0

end Sys2Proof.Machine

open Sys2Proof Sys2Proof.Machine

/-- Settles O13: every form is its operation lane by lane, and the sign forms are written out bit by bit. -/
theorem floatLaneResults : Obligations.FloatLaneResults := by
  unfold Obligations.FloatLaneResults
  intro s t f c h ht hm out
  refine ⟨issue_lanesOp h (goodV_of ht hm (by decide) (.inl (by decide)) (.inl (by decide))) _,
    issue_lanesOp h (goodV_of ht hm (by decide) (.inl (by decide)) (.inl (by decide))) _, fun hc => ?_⟩
  have two := fun op => issue_lanesOp h (goodV_of (n := 2) ht hm (by decide) (.inl (by decide)) (.inr hc)) op
  refine ⟨two _, two _, two _, two _, two _, two _, two _, ?_, fun hb => ?_⟩
  · refine (two _).trans ?_
    simp only [magnitude_or_sign_eq_append]
    rfl
  · have one := fun op => issue_lanesOp h (goodV_of (n := 1) ht hm (by decide) (.inr hb) (.inr hc)) op
    refine ⟨(one _).trans ?_, (one _).trans ?_⟩
    · simp only [fneg_eq_append]
      rfl
    · simp only [magnitude_eq_append]
      rfl

end

section
/-!
PROOFS. MMUL and MMULZ (02 R41 to R43; 03 R88 to R92; 05 R147, R160; O22): what a command of the matrix array does once its block is good
and its ranges may be used, with plain weights and with a block-quantised tensor that dequantises whole.
-/

set_option Elab.async false

namespace Sys2Proof.Machine

open Sys2Proof

/-! ## The parts of a matrix command -/

/-- The block that the registers of a matrix command give (log entry 8). -/
def Ctx.matBlock (g : Nat) (c : Ctx) : MatBlock := matBlockOf (Config.matBlock (c.reg g) (c.reg (g + 1)) (c.reg (g + 2)) (c.reg (g + 3)))

/-- What a matrix command uses at once: its weights, its activations, and its sums; with an output coil the sums are only read. -/
def MatBlock.ranges (zero : Bool) (b : MatBlock) : List Range :=
  [Range.rd 0 b.w b.wn, Range.rd 1 b.a b.an] ++ match b.coil with
    | some _ => if zero then [] else [Range.rd 2 b.p b.pn]
    | none => [Range.wr 2 b.p b.pn]

/-- The bytes of a range, none where it is empty. -/
def State.bytesOf (t st off n : Nat) (s : State) : List Byte := if n = 0 then [] else s.bytesAt t st off n

/-- The sums of a command that is not held up by a tensor: every output takes all of its weight tiles. -/
def State.matYields (t : Nat) (zero : Bool) (b : MatBlock) (weight : Nat → Nat → Nat) (s : State) : List (Nat × W32 × W32) :=
  matSums b zero weight (fun x y => elemAt (elemBits b.path) (s.bytesOf t 1 b.a b.an) (Config.matPlace b.raw 1 x y))
    (fun x => w32At (4 * x) (if zero then [] else s.bytesOf t 2 b.p b.pn)) (fun _ => b.ins)

/-- The sums go to their places from an offset of a store on. -/
def State.putSums (t w : Nat) (ys : List (Nat × W32 × W32)) (st off : Nat) (s : State) : State :=
  ys.foldl (fun s y => s.ownWrite t w st (off + 4 * y.1) (w32Bytes y.2.1)) s

/-- The context after a command with these sums: their flags are those of the matrix array (03 R106). -/
def Ctx.summed (ys : List (Nat × W32 × W32)) (fl : W32) (c : Ctx) : Ctx := c.raise 2 (ys.foldl (fun a y => a ||| y.2.2) fl)

/-- The FP16 elements of dequantised blocks as weights; a block that is not there counts as zero (04 R125). -/
def blockWeight (q : Bq) (bs : List (Nat × Nat × Nat × List (BitVec 16))) (y o : Nat) : Nat :=
  match bs.find? (fun z => decide (z.2.1 = o ∧ z.2.2.1 = y / q.size)) with
  | some z => (z.2.2.2.getD (y % q.size) 0).toNat
  | none => 0

/-- The state of a matrix command once its arithmetic is done: the context has taken the flags, and the weight tiles are counted (17 R551). -/
def At.matCounted (h : At) (b : MatBlock) (ys : List (Nat × W32 × W32)) (fl : W32) (s : State) : State :=
  (s.withCtx h.p (h.c.summed ys fl)).tileEvent h.p 0x9 (((List.range b.outs).map (fun _ => b.ins)).sum)

/-- The sums of a command go to the P-store or, as one element, to a coil (02 R43, R66; 05 R160). -/
def At.matEnd (h : At) (b : MatBlock) (ys : List (Nat × W32 × W32)) (s : State) : State × Halt :=
  match b.coil with
  | none => (s.putSums h.p h.w ys 2 b.p, .ok)
  | some n => ({ h with c := (s.ctx h.p h.w).getD h.c } : At).push n b.pn (fun st off s => (s.putSums h.p h.w ys st off, .ok)) s

/-- An event leaves the contexts of a tile. -/
@[simp] theorem State.tileEvent_ctx (p ev n w : Nat) (s : State) : (s.tileEvent p ev n).ctx p w = s.ctx p w := by
  obtain ⟨e, he⟩ := State.tileEvent_tile p ev n s
  rw [State.ctx, he]
  rfl

/-- The executing context of a matrix command once its arithmetic is done. -/
theorem atIssue_matCounted_ctx (s : State) (t : Nat) (f : BitVec 48) (c : Ctx) (b : MatBlock) (ys : List (Nat × W32 × W32)) (fl : W32) :
    ((atIssue s t f c).matCounted b ys fl s).ctx t (s.tile t).execSlot = some ((c.after s.now s.up).summed ys fl) := by
  rw [At.matCounted, atIssue_p, State.tileEvent_ctx]
  exact State.setCtx_ctx ..

/-! ## A command whose block is good and whose ranges may be used -/

/-- What a matrix command uses may be used at once, and its output coil, if it has one, is open in the P-store with elements of the right
size (02 R41, R66). -/
def State.MatRanges (s : State) (t : Nat) (c : Ctx) (zero : Bool) (b : MatBlock) : Prop :=
  match b.coil with
  | none => s.usable t c [Range.rd 0 b.w b.wn, Range.rd 1 b.a b.an, Range.wr 2 b.p b.pn]
  | some n => (c.coil n).isOpen = true ∧ (c.coil n).receive = false ∧ (c.coil n).elem = b.pn ∧ (c.coil n).store = 2 ∧
      s.usable t c ([Range.rd 0 b.w b.wn, Range.rd 1 b.a b.an] ++ (if zero then [] else [Range.rd 2 b.p b.pn]))

theorem State.MatRanges.usable {s : State} {t : Nat} {c : Ctx} {zero : Bool} {b : MatBlock} (h : s.MatRanges t c zero b) :
    s.usable t c (b.ranges zero) := by
  unfold State.MatRanges at h
  unfold MatBlock.ranges
  cases hc : b.coil with
  | none =>
    rw [hc] at h
    exact h
  | some n =>
    rw [hc] at h
    obtain ⟨-, -, -, -, hu⟩ := h
    exact hu

/-- An output coil takes the command's sums. -/
theorem State.MatRanges.coil_good {s : State} {t : Nat} {c : Ctx} {zero : Bool} {b : MatBlock} (h : s.MatRanges t c zero b) {n : Nat}
    (hc : b.coil = some n) :
    (!(c.coil n).isOpen || (c.coil n).receive || decide ((c.coil n).elem ≠ b.pn ∨ (c.coil n).store ≠ 2)) = false := by
  unfold State.MatRanges at h
  rw [hc] at h
  obtain ⟨ho, hr, he, hst, -⟩ := h
  simp [ho, hr, he, hst]

/-- The block `b` of a matrix command passes every check, its ranges may be used, and the sums that it adds to are readable. -/
structure State.MatReady (s : State) (t : Nat) (f : BitVec 48) (c : Ctx) (zero : Bool) (b : MatBlock) : Prop extends State.Runs s t f c where
  block : c.matBlock (Fmt.d f) = b
  ok : b.ok = true
  path : b.bq = true → b.path = 2
  ranges : s.MatRanges t c zero b
  sums : zero = false → b.pn ≠ 0 → (s.tile t).upsets 2 b.p b.pn = []

/-- The weights of the command are the good block-quantised tensor `q`, wholly in the W-store and large enough, which may be read and
dequantises whole, to the blocks `bs` with the flags `fl`. -/
structure State.MatTensor (s : State) (t : Nat) (f : BitVec 48) (c : Ctx) (b : MatBlock) (q : Bq) (bs : List (Nat × Nat × Nat × List (BitVec 16)))
    (fl : W32) : Prop where
  bq : b.bq = true
  desc : bqOf (s.bytesOf t 0 b.w b.wn) = q
  good : q.good (w64At 0 (s.bytesOf t 0 b.w b.wn)) = true
  streams : refSt q.code = 0 ∧ refSt q.scale = 0 ∧ refSt q.chan = 0 ∧ refSt q.grog = 0
  groups : b.outs ≤ q.groups
  channel : b.ins * 16 ≤ q.chanLen
  usable : s.usable t c (bqRanges q b.outs)
  whole : (atIssue s t f c).dequant 2 q b.outs (s.withCtx t (c.after s.now s.up)) = ((bs, fl, none), s.withCtx t (c.after s.now s.up), none)

/-- The tensor is not refused: a weight tile of the FP16 path has 16 inputs (02 R42). -/
theorem State.MatTensor.accepted {s : State} {t : Nat} {f : BitVec 48} {c : Ctx} {b : MatBlock} {q : Bq} {bs : List (Nat × Nat × Nat × List (BitVec 16))}
    {fl : W32} (k : s.MatTensor t f c b q bs fl) (hp : b.path = 2) :
    (!q.good (w64At 0 (s.bytesOf t 0 b.w b.wn)) || decide (refSt q.code ≠ 0 ∨ refSt q.scale ≠ 0 ∨ refSt q.chan ≠ 0 ∨ refSt q.grog ≠ 0 ∨
      q.groups < b.outs ∨ q.chanLen < b.ins * (tileDims b.path).1) || !(atIssue s t f c).allows (bqRanges q b.outs)) = false := by
  obtain ⟨h1, h2, h3, h4⟩ := k.streams
  have hg := Nat.not_lt.mpr k.groups
  have hl : ¬ q.chanLen < b.ins * (tileDims b.path).1 := by
    rw [hp]
    exact Nat.not_lt.mpr k.channel
  have ha := k.usable.allows (f := f)
  simp [k.good, h1, h2, h3, h4, hg, hl, ha]

/-- The weights of a command and the flags of their dequantisation: the elements of its weight range (03 R81), or those of a tensor (03 R112). -/
inductive State.MatWeights (s : State) (t : Nat) (f : BitVec 48) (c : Ctx) (b : MatBlock) : (Nat → Nat → Nat) → W32 → Prop where
  | plain (hb : b.bq = false) : s.MatWeights t f c b (fun x y => elemAt (elemBits b.path) (s.bytesOf t 0 b.w b.wn) (Config.matPlace b.raw 0 x y)) 0
  | tensor {q : Bq} {bs : List (Nat × Nat × Nat × List (BitVec 16))} {fl : W32} (k : s.MatTensor t f c b q bs fl) :
    s.MatWeights t f c b (blockWeight q bs) fl

section
variable {s : State} {t : Nat} {f : BitVec 48} {c : Ctx} {zero : Bool} {b : MatBlock} (h : s.MatReady t f c zero b)
include h

/-- The reads of the command meet no error. -/
theorem State.MatReady.reads (k : Ctx) : ∃ l,
    (atIssue s t f c).reads 2 ([(0, b.w, b.wn), (1, b.a, b.an)] ++ (if zero then [] else [(2, b.p, b.pn)])) (s.withCtx t k) = (l, s.withCtx t k, none) ∧
      l.getD 0 [] = s.bytesOf t 0 b.w b.wn ∧ l.getD 1 [] = s.bytesOf t 1 b.a b.an ∧
      l.getD 2 [] = if zero then [] else s.bytesOf t 2 b.p b.pn := by
  obtain ⟨-, -, hup⟩ := h.ranges.usable
  have hw := hup (Range.rd 0 b.w b.wn) (by simp [MatBlock.ranges]) rfl
  have ha := hup (Range.rd 1 b.a b.an) (by simp [MatBlock.ranges]) rfl
  have hp := h.sums
  refine ⟨_, At.reads_clean _ _ _ _ (fun r hr hn => ?_), ?_⟩
  · rw [atIssue_p, State.withCtx_upsets]
    cases zero with
    | true =>
      obtain rfl | rfl : r = (0, b.w, b.wn) ∨ r = (1, b.a, b.an) := by simpa using hr
      · exact hw hn
      · exact ha hn
    | false =>
      obtain rfl | rfl | rfl : r = (0, b.w, b.wn) ∨ r = (1, b.a, b.an) ∨ r = (2, b.p, b.pn) := by simpa using hr
      · exact hw hn
      · exact ha hn
      · exact hp rfl hn
  · cases zero <;> simp [State.bytesOf]

/-- A block-quantised tensor takes the FP16 path (03 R112). -/
theorem State.MatReady.path_good : (b.bq && decide (b.path ≠ 2)) = false := by
  cases hb : b.bq with
  | true => simp [h.path hb]
  | false => rfl

/-- The command passes its checks, reads, and ends with the sums of its weights. -/
theorem State.MatReady.body {weight : Nat → Nat → Nat} {fl : W32} (k : s.MatWeights t f c b weight fl) :
    matBody zero (atIssue s t f c) (s.withCtx t (c.after s.now s.up)) =
      (atIssue s t f c).matEnd b (s.matYields t zero b weight) ((atIssue s t f c).matCounted b (s.matYields t zero b weight) fl s) := by
  have hblock : matBlockOf (Config.matBlock (c.reg (Fmt.d f)) (c.reg (Fmt.d f + 1)) (c.reg (Fmt.d f + 2)) (c.reg (Fmt.d f + 3))) = b := h.block
  have hallow := h.ranges.usable.allows (f := f)
  have hneed := h.ranges.usable.need_withCtx h.toRuns
  obtain ⟨l, hread, hw, ha, hp⟩ := h.reads (c.after s.now s.up)
  unfold matBody At.matEnd
  cases hc : b.coil with
  | none =>
    simp only [MatBlock.ranges, hc, Range.rd, Range.wr] at hallow hneed
    simp only [atIssue_c, atIssue_f, atIssue_p, Ctx.after_reg, hblock, h.ok, h.path_good, hc, hallow, hneed, hread, hw, ha, hp,
      Bool.not_true, Bool.or_self, Bool.false_eq_true, if_false]
    cases k with
    | plain hb =>
      simp only [hb, atIssue_set, Bool.false_eq_true, if_false]
      rfl
    | tensor k =>
      have hneed' := k.usable.need_withCtx h.toRuns
      simp only [k.bq, k.desc, k.accepted (h.path k.bq), hneed', k.whole, atIssue_set, Bool.false_eq_true, if_false, if_true]
      rfl
  | some n =>
    simp only [MatBlock.ranges, hc, Range.rd] at hallow hneed
    simp only [atIssue_c, atIssue_f, atIssue_p, Ctx.after_reg, Ctx.after_coil, hblock, h.ok, h.path_good, hc, h.ranges.coil_good hc, hallow, hneed, hread, hw,
      ha, hp, Bool.not_true, Bool.or_self, Bool.false_eq_true, if_false]
    cases k with
    | plain hb =>
      simp only [hb, atIssue_set, Bool.false_eq_true, if_false]
      rfl
    | tensor k =>
      have hneed' := k.usable.need_withCtx h.toRuns
      simp only [k.bq, k.desc, k.accepted (h.path k.bq), hneed', k.whole, atIssue_set, Bool.false_eq_true, if_false, if_true]
      rfl

end

/-! ## The outcome of a matrix command -/

/-- What an instruction answers that has these sums (05 R160): the state with the sums in the P-store, or what the push to the coil leaves. -/
def State.MatOutcome (s : State) (t : Nat) (f : BitVec 48) (c : Ctx) (b : MatBlock) (fl : W32) (ys : List (Nat × W32 × W32)) (r : Res) : Prop :=
  let u := (atIssue s t f c).matCounted b ys fl s
  match b.coil with
  | none => r = (u.putSums t (s.tile t).execSlot ys 2 b.p).retired t
  | some n => ∀ v, ({ atIssue s t f c with c := (c.after s.now s.up).summed ys fl } : At).push n b.pn
      (fun st off s' => (s'.putSums t (s.tile t).execSlot ys st off, .ok)) u = (v, .ok) → r = v.retired t

/-- A command that is ready has the outcome of its weights. -/
theorem State.MatReady.outcome {s : State} {t : Nat} {f : BitVec 48} {c : Ctx} {zero : Bool} {b : MatBlock} (h : s.MatReady t f c zero b)
    (hg : goodE f = true) {weight : Nat → Nat → Nat} {fl : W32} (k : s.MatWeights t f c b weight fl) :
    s.MatOutcome t f c b fl (s.matYields t zero b weight) (issue t f (goodE f) (matBody zero) s) := by
  have hb := h.body k
  unfold State.MatOutcome
  unfold At.matEnd at hb
  intro u
  cases hc : b.coil with
  | none =>
    rw [hc] at hb
    exact issue_done h.toRuns hg hb
  | some n =>
    intro v hv
    rw [hc] at hb
    simp only [atIssue_p, atIssue_w, atIssue_matCounted_ctx, Option.getD_some] at hb
    exact issue_done h.toRuns hg (hb.trans hv)

end Sys2Proof.Machine

open Sys2Proof Sys2Proof.Machine

/-- Settles O22: a command that is ready takes its plain weights or the elements of its tensor, and its sums have one of two outcomes. -/
theorem matrixResults : Obligations.MatrixResults := by
  unfold Obligations.MatrixResults
  intro s t f c zero i h hg hi g k w b read wb pb act hat out hok hsums huse
  have he : exec i s = issue t f (goodE f) (matBody zero) s := by
    obtain ⟨rfl, rfl⟩ | ⟨rfl, rfl⟩ := hi <;> rfl
  have ready : (b.bq = true → b.path = 2) → s.MatReady t f c zero b := fun hp =>
    { h with block := rfl, ok := hok, path := hp, ranges := huse, sums := hsums }
  rw [he]
  refine ⟨fun hb => (ready (by simp [hb])).outcome hg (.plain hb), fun hb hp => ?_⟩
  intro q x hgood h1 h2 h3 h4 hgroups hlen hu hs hx hn
  have tensor : s.MatTensor t f c b q x.1.1 x.1.2.1 :=
    { bq := hb, desc := rfl, good := hgood, streams := ⟨h1, h2, h3, h4⟩, groups := hgroups, channel := hlen, usable := hu,
      whole := Prod.ext (Prod.ext rfl (Prod.ext rfl hn)) (Prod.ext hs hx) }
  exact (ready (fun _ => hp)).outcome hg (.tensor tensor)

end

section
/-!
PROOFS. VQB and VREQ (04 R119 to R124, R131 to R136, R138 to R140; 05 R147, R159; O18, O20): what a read of ranges that may be used delivers,
the streams that VQB writes, and the two destinations of VREQ.
-/

set_option Elab.async false

namespace Sys2Proof.Machine

open Sys2Proof

/-! ## Reads of ranges that may be used at once -/

/-- An empty range has no bytes, so that reading it or not is the same. -/
theorem State.bytesOf_eq_bytesAt (t st off n : Nat) (s : State) : s.bytesOf t st off n = s.bytesAt t st off n := by
  unfold State.bytesOf
  split
  next hn =>
    subst hn
    rfl
  next => rfl

/-- An instruction that reads several of the ranges that it may use gets their bytes, and nothing else changes. -/
theorem State.usable.reads {s : State} {t : Nat} {c : Ctx} {rs : List Range} (hu : s.usable t c rs) {xs : List (Nat × Nat × Nat)}
    (hx : ∀ x ∈ xs, Range.rd x.1 x.2.1 x.2.2 ∈ rs) (f : BitVec 48) (k : Ctx) (eng : Nat) :
    (atIssue s t f c).reads eng xs (s.withCtx t k) = (xs.map (fun x => s.bytesOf t x.1 x.2.1 x.2.2), s.withCtx t k, none) := by
  obtain ⟨-, -, hup⟩ := hu
  have hclean := At.reads_clean (atIssue s t f c) eng xs (s.withCtx t k) (fun x hxs hn => by
    rw [atIssue_p, State.withCtx_upsets]
    exact hup _ (hx x hxs) rfl hn)
  simp only [atIssue_p, State.withCtx_bytesAt] at hclean
  exact hclean

/-! ## VQB -/

/-- The words of channel `x` in the source of a quantisation: the elements of a channel stand together (log entry 45). -/
def Bq.channel (q : Bq) (ws : List W32) (x : Nat) : List W32 := (ws.drop (x * q.chanLen)).take q.chanLen

/-- The common value of each channel of zero range (04 R132). -/
def Bq.constants (q : Bq) (count : Nat) (ws : List W32) : List (Option (BitVec 16 × W32)) :=
  (List.range (16 * count)).map (fun x => constantOf (q.channel ws x))

/-- The blocks of whole channel groups, quantised in block order with the room that the grog list has left. -/
def Bq.quantise (q : Bq) (count : Nat) (ws : List W32) : List (Nat × QBlock) :=
  quantAll q ((blockList q count).map (fun b => (b.1, (q.constants count ws).getD b.2.1 none, ((q.channel ws b.2.1).drop (b.2.2 * q.size)).take q.size)))
    (q.cap - q.used)

/-- The writes of a quantisation: codes, scales, grog entries and channel words, and the descriptor's count of grog entries used. -/
def Bq.streams (q : Bq) (d : Nat) (consts : List (Option (BitVec 16 × W32))) (bs : List (Nat × QBlock)) : List (Nat × Nat × List Byte) :=
  [(refSt q.code, refOff q.code, bs.flatMap (fun b => b.2.code q (q.seq + b.1))),
   (refSt q.scale, refOff q.scale, bs.flatMap (fun b => b.2.entry (q.seq + b.1))),
   (refSt q.grog, refOff q.grog + 4 * q.used, bs.flatMap (fun b => b.2.grog (q.seq + b.1))),
   (refSt q.chan, refOff q.chan, consts.flatMap (fun x => leBytes 4 (b2n x.isSome))),
   (refSt d, refOff d + 20, leBytes 4 ((q.used + (bs.map (fun b => b.2.escs.length)).sum) * 65536 + q.cap))]

/-- VQB reads the descriptor and the source, writes the streams one after the other, and counts what it met. -/
theorem vqb_streams {s : State} {t : Nat} {f : BitVec 48} {c : Ctx} {v : VqBlock} {q : Bq} (h : s.Runs t f c) (hg : goodE f = true)
    (hv : vqBlock false c (Fmt.d f) = some v) (hd : refVq v.d = true) (hsrc : refVq v.src = true)
    (hq : bqOf (s.bytesAt t (refSt v.d) (refOff v.d) 32) = q) (hgood : q.good (w64At 0 (s.bytesAt t (refSt v.d) (refOff v.d) 32)) = true)
    (hn : v.count ≤ q.groups) (hdesc : s.usable t c [Range.rd (refSt v.d) (refOff v.d) 32])
    (hu : s.usable t c [rangeOf false v.src (v.count * 16 * q.chanLen * 4), rangeOf true q.code (v.count * q.blocks * 16 * q.codeBytes),
      rangeOf true q.scale (4 * (v.count * q.blocks * 16)), rangeOf true q.chan (64 * v.count), rangeOf true q.grog (4 * q.cap), rangeOf true v.d 32]) :
    let ws := wordsOf (s.bytesOf t (refSt v.src) (refOff v.src) (v.count * 16 * q.chanLen * 4))
    exec (.vqb t f) s = (State.quantised (atIssue s t f c) ((q.quantise v.count ws).map (·.2))
      ((s.withCtx t (c.after s.now s.up)).stores t (q.streams v.d (q.constants v.count ws) (q.quantise v.count ws)))).retired t := by
  refine issue_done h hg ?_
  have hallow := hu.allows (f := f)
  have hneed := hu.need_withCtx h
  have hread := hu.reads (xs := [(refSt v.src, refOff v.src, v.count * 16 * q.chanLen * 4)]) (fun x hx => by
    obtain rfl := List.mem_singleton.mp hx
    exact List.mem_cons_self ..) f (c.after s.now s.up) 1
  have htensor := h.tensor (n := v.count) hdesc hd (hq.symm ▸ hgood) (hq.symm ▸ hn)
  simp only [hq] at htensor
  simp only [atIssue_c, atIssue_f, vqBlock_after, hv, htensor, hsrc, atIssue_p, atIssue_w, hallow, hneed, hread, List.map_cons, List.map_nil,
    List.headD_cons, Bool.not_true, Bool.or_self, Bool.false_eq_true, if_false, Nat.add_zero, State.stores_eq_foldl, State.withCtx_execSlot, Bq.streams,
    List.foldl_cons, List.foldl_nil]
  rfl

/-! ## VREQ -/

/-- The size of the words that a requantisation writes: the results of the output range, packed (03 R81; 04 R140). -/
def VqBlock.outSize (v : VqBlock) : Nat := roundUp 4 ((v.count * (reqRange v.range).2.2 + 7) / 8)

/-- Each channel's accumulator requantised by its record, with the flags of its rounding and clamping (04 R139, R140). -/
def State.requantised (t : Nat) (v : VqBlock) (s : State) : List (Int × W32) :=
  (List.range v.count).map (fun j =>
    let word := fun (o : Nat) => w32At o (s.bytesAt t (refSt v.d) (refOff v.d) (16 * v.count))
    requant (w32At (4 * j) (s.bytesAt t (refSt v.src) (refOff v.src) (4 * v.count))).toInt (word (16 * j)).toInt (fld (word (16 * j + 4)) 0 31)
      (fld (word (16 * j + 8)) 16 5) (sfld (word (16 * j + 8)) 0 16) (reqRange v.range).1 (reqRange v.range).2.1)

/-- The results `ys` go to an offset of a store, packed from the least significant end, and raise their flags in the vector engine. -/
def VqBlock.put (v : VqBlock) (t w : Nat) (ys : List (Int × W32)) (st off : Nat) (s : State) : State :=
  (s.ownWrite t w st off (leBytes v.outSize (packNat (reqRange v.range).2.2 (ys.map (fun y => (y.1 % 2 ^ (reqRange v.range).2.2).toNat))))).updCtx t w
    (Ctx.raise 1 (ys.foldl (fun a y => a ||| y.2) 0))

/-- The records and the accumulators that VREQ reads (04 R139). -/
def VqBlock.inputs (v : VqBlock) : List Range := [rangeOf false v.d (16 * v.count), rangeOf false v.src (4 * v.count)]

section
variable {s : State} {t : Nat} {f : BitVec 48} {c : Ctx} {v : VqBlock}

/-- What VREQ reads when it may use its ranges. -/
theorem State.usable.reads_inputs {rs : List Range} (hu : s.usable t c (v.inputs ++ rs)) (k : Ctx) :
    (atIssue s t f c).reads 1 [(refSt v.d, refOff v.d, 16 * v.count), (refSt v.src, refOff v.src, 4 * v.count)] (s.withCtx t k) =
      ([s.bytesAt t (refSt v.d) (refOff v.d) (16 * v.count), s.bytesAt t (refSt v.src) (refOff v.src) (4 * v.count)], s.withCtx t k, none) := by
  refine (hu.reads (fun x hx => List.mem_append_left _ ?_) f k 1).trans ?_
  · obtain rfl | rfl : x = (refSt v.d, refOff v.d, 16 * v.count) ∨ x = (refSt v.src, refOff v.src, 4 * v.count) := by simpa using hx
    · exact List.mem_cons_self ..
    · exact List.mem_cons_of_mem _ (List.mem_cons_self ..)
  · simp only [List.map_cons, List.map_nil, State.bytesOf_eq_bytesAt]

variable (h : s.Runs t f c) (hg : goodE f = true) (hv : vqBlock true c (Fmt.d f) = some v) (hd : refVq v.d = true) (hsrc : refVq v.src = true)
include h hg hv hd hsrc

/-- VREQ into a range writes the results there. -/
theorem vreq_range (hc : v.coil = none) (hdst : refVq v.dst = true) (hu : s.usable t c (v.inputs ++ [rangeOf true v.dst v.outSize])) :
    exec (.vreq t f) s =
      (v.put t (s.tile t).execSlot (s.requantised t v) (refSt v.dst) (refOff v.dst) (s.withCtx t (c.after s.now s.up))).retired t := by
  refine issue_done h hg ?_
  have hallow := hu.allows (f := f)
  have hneed := hu.need_withCtx h
  have hread := hu.reads_inputs (f := f) (c.after s.now s.up)
  unfold VqBlock.inputs VqBlock.outSize at hallow hneed
  simp only [atIssue_c, atIssue_f, atIssue_p, vqBlock_after, hv, hd, hsrc, hdst, hc, hallow, hneed, hread, Option.isNone_none, Option.any_none,
    Bool.not_true, Bool.and_false, Bool.or_self, Bool.false_eq_true, if_false]
  rfl

/-- VREQ into a coil pushes the results as one element (05 R159). -/
theorem vreq_coil {n : Nat} (hc : v.coil = some n) (ho : (c.coil n).isOpen = true) (hrecv : (c.coil n).receive = false)
    (helem : (c.coil n).elem = v.outSize) (hu : s.usable t c v.inputs) {u : State}
    (hp : (atIssue s t f c).push n v.outSize (fun st off u => (v.put t (s.tile t).execSlot (s.requantised t v) st off u, .ok))
      (s.withCtx t (c.after s.now s.up)) = (u, .ok)) :
    exec (.vreq t f) s = u.retired t := by
  refine issue_done h hg ?_
  rw [← List.append_nil v.inputs] at hu
  have hallow := hu.allows (f := f)
  have hneed := hu.need_withCtx h
  have hread := hu.reads_inputs (f := f) (c.after s.now s.up)
  have hcoil : (atIssue s t f c).coilGood n v.outSize = true := by simp [At.coilGood, ho, hrecv, helem]
  unfold VqBlock.inputs at hallow hneed
  unfold VqBlock.outSize at hcoil
  simp only [atIssue_c, atIssue_f, atIssue_p, vqBlock_after, hv, hd, hsrc, hc, hallow, hneed, hread, hcoil, Option.isNone_some, Option.any_some,
    Bool.not_true, Bool.false_and, Bool.or_self, Bool.false_eq_true, if_false]
  exact hp

end

end Sys2Proof.Machine

open Sys2Proof Sys2Proof.Machine

/-- Settles O18: descriptor and source are read, and the four streams and the count of grog entries are written one after the other. -/
theorem quantisation : Obligations.Quantisation := by
  unfold Obligations.Quantisation
  intro s t f c v h hg hv k w0 q n len hd hsrc hgood hn hdesc hu
  exact vqb_streams h hg hv hd hsrc rfl hgood hn hdesc hu

/-- Settles O20: the destination is a range, or a coil that takes the results as one element. -/
theorem requantisation : Obligations.Requantisation := by
  unfold Obligations.Requantisation
  intro s t f c v h hg hv lim out hat ins hd hsrc word acc ys bytes put
  exact ⟨vreq_range h hg hv hd hsrc, fun n hc ho hrecv helem hu u => vreq_coil h hg hv hd hsrc hc ho hrecv helem hu⟩

end

section
/-!
SUPPORT. What the issue of an instruction leaves of its context and of its tile (05 R141): the context differs in pc and in the fields
of the watchdog, the tile in one context slot.
-/

set_option Elab.async false

namespace Sys2Proof.Machine

open Sys2Proof

/-! ## The context -/

@[simp] theorem Ctx.after_pc (now up : Nat) (c : Ctx) : (c.after now up).pc = (c.pc + 1) % 32768 := by rw [Ctx.after_eq]
@[simp] theorem Ctx.after_pred (now up n : Nat) (c : Ctx) : (c.after now up).pred n = c.pred n := by rw [Ctx.after_eq]; rfl
@[simp] theorem Ctx.after_trap (now up : Nat) (c : Ctx) : (c.after now up).trap = c.trap := by rw [Ctx.after_eq]
@[simp] theorem Ctx.after_flagW (now up : Nat) (c : Ctx) : (c.after now up).flagW = c.flagW := by rw [Ctx.after_eq]
@[simp] theorem Ctx.after_jobAcc (now up : Nat) (c : Ctx) : (c.after now up).jobAcc = c.jobAcc := by rw [Ctx.after_eq]
@[simp] theorem Ctx.after_staged (now up : Nat) (c : Ctx) : (c.after now up).staged = c.staged := by rw [Ctx.after_eq]
@[simp] theorem Ctx.after_mbwr (now up : Nat) (c : Ctx) : (c.after now up).mbwr = c.mbwr := by rw [Ctx.after_eq]
@[simp] theorem Ctx.after_seed (now up : Nat) (c : Ctx) : (c.after now up).seed = c.seed := by rw [Ctx.after_eq]
@[simp] theorem Ctx.after_inv (now up : Nat) (c : Ctx) : (c.after now up).inv = c.inv := by rw [Ctx.after_eq]
@[simp] theorem Ctx.after_draw (now up : Nat) (c : Ctx) : (c.after now up).draw = c.draw := by rw [Ctx.after_eq]

/-! ## The tile -/

section
variable (w : Nat) (c : Option Ctx) (t : Tile)

@[simp] theorem Tile.setSlot_dma : (t.setSlot w c).dma = t.dma := by unfold Tile.setSlot; split <;> rfl
@[simp] theorem Tile.setSlot_dmaNo : (t.setSlot w c).dmaNo = t.dmaNo := by unfold Tile.setSlot; split <;> rfl
@[simp] theorem Tile.setSlot_sb : (t.setSlot w c).sb = t.sb := by unfold Tile.setSlot; split <;> rfl
@[simp] theorem Tile.setSlot_bankReq : (t.setSlot w c).bankReq = t.bankReq := by unfold Tile.setSlot; split <;> rfl
@[simp] theorem Tile.setSlot_cu : (t.setSlot w c).cu = t.cu := by unfold Tile.setSlot; split <;> rfl
@[simp] theorem Tile.setSlot_residents : (t.setSlot w c).residents = t.residents := by unfold Tile.setSlot; split <;> rfl
@[simp] theorem Tile.setSlot_restCoils : (t.setSlot w c).restCoils = t.restCoils := by unfold Tile.setSlot; split <;> rfl

end

/-! ## The rest of the device -/

@[simp] theorem State.tileEvent_mailboxes (p ev n : Nat) (s : State) : (s.tileEvent p ev n).mailboxes = s.mailboxes := by
  rcases State.tileEvent_eq p ev n s with h | ⟨e, v, h⟩ <;> rw [h]
  rfl

@[simp] theorem State.withCtx_tid (t : Nat) (k c : Ctx) (s : State) : (s.withCtx t k).tid c = s.tid c := rfl
@[simp] theorem State.after_tid (now up : Nat) (c : Ctx) (s : State) : s.tid (c.after now up) = s.tid c := by simp [State.tid]
@[simp] theorem State.withCtx_mailboxesOf (t : Nat) (k : Ctx) (j : Job) (s : State) : (s.withCtx t k).mailboxesOf j = s.mailboxesOf j := rfl

end Sys2Proof.Machine
end

section
/-!
SUPPORT. Elements packed into a vector register from its least significant end (03 R81; 05 R141): what a field of the register then holds.
-/

set_option Elab.async false

namespace Sys2Proof.Machine

open Sys2Proof

/-! ## Packed elements -/

theorem packNat_lt (w : Nat) (xs : List Nat) : packNat w xs < 2 ^ (w * xs.length) := by
  induction xs with
  | nil => simp [packNat]
  | cons x xs ih =>
    have hx := Nat.mod_lt x (Nat.two_pow_pos w)
    calc packNat w (x :: xs) < 2 ^ w + 2 ^ w * packNat w xs := Nat.add_lt_add_right hx _
      _ = 2 ^ w * (packNat w xs + 1) := by ring
      _ ≤ 2 ^ w * 2 ^ (w * xs.length) := Nat.mul_le_mul_left _ ih
      _ = 2 ^ (w * (x :: xs).length) := by rw [← Nat.pow_add, List.length_cons, Nat.mul_succ, Nat.add_comm]

/-- The elements above the first one. -/
theorem packNat_cons_div (w x : Nat) (xs : List Nat) : packNat w (x :: xs) / 2 ^ w = packNat w xs := by
  rw [packNat, Nat.add_mul_div_left _ _ (Nat.two_pow_pos w), Nat.div_eq_of_lt (Nat.mod_lt x (Nat.two_pow_pos w)), Nat.zero_add]

/-- Each element stands in its field. -/
theorem packNat_field (w j : Nat) (xs : List Nat) : packNat w xs / 2 ^ (w * j) % 2 ^ w = xs.getD j 0 % 2 ^ w := by
  induction xs generalizing j with
  | nil => simp [packNat]
  | cons x xs ih =>
    cases j with
    | zero => simp [packNat]
    | succ j => rw [Nat.mul_succ, Nat.add_comm, Nat.pow_add, ← Nat.div_div_eq_div_mul, packNat_cons_div, ih, List.getD_cons_succ]

theorem packNat_append_singleton (w : Nat) (xs : List Nat) (y : Nat) :
    packNat w (xs ++ [y]) = packNat w xs + y % 2 ^ w * 2 ^ (w * xs.length) := by
  induction xs with
  | nil => simp [packNat]
  | cons x xs ih =>
    rw [List.cons_append, packNat, packNat, ih, List.length_cons, Nat.mul_succ, Nat.pow_add]
    ring

/-- Packed elements are the sum of the elements in their places. -/
theorem packNat_map_range (w n : Nat) (g : Nat → Nat) :
    packNat w ((List.range n).map g) = ((List.range n).map (fun j => g j % 2 ^ w * 2 ^ (w * j))).sum := by
  induction n with
  | zero => rfl
  | succ n ih =>
    rw [List.range_succ, List.map_append, List.map_append, List.map_singleton, List.map_singleton, packNat_append_singleton, ih, List.sum_append,
      List.length_map, List.length_range, List.sum_singleton]

/-! ## A register of packed elements -/

theorem fld_packed {m w n j : Nat} (hn : w * n ≤ m) (hj : j < n) (g : Nat → Nat) :
    fld (BitVec.ofNat m (packNat w ((List.range n).map g))) (w * j) w = g j % 2 ^ w := by
  have hlt := packNat_lt w ((List.range n).map g)
  rw [List.length_map, List.length_range] at hlt
  rw [fld, BitVec.toNat_ofNat, Nat.mod_eq_of_lt (hlt.trans_le (Nat.pow_le_pow_right (by decide) hn)), Nat.shiftRight_eq_div_pow, packNat_field]
  simp [List.getD, hj]

/-- Above its elements the register reads zero. -/
theorem getLsbD_packed {m w n i : Nat} (hi : w * n ≤ i) (g : Nat → Nat) :
    (BitVec.ofNat m (packNat w ((List.range n).map g))).getLsbD i = false := by
  have hlt := packNat_lt w ((List.range n).map g)
  rw [List.length_map, List.length_range] at hlt
  rw [BitVec.getLsbD_ofNat, Nat.testBit_lt_two_pow (hlt.trans_le (Nat.pow_le_pow_right (by decide) hi)), Bool.and_false]

/-- A lane of a register that is made of lanes. -/
theorem extractLsb'_ofLanes {j : Nat} (hj : j < 64) (g : Nat → W32) :
    (ofLanes ((List.range 64).map g)).extractLsb' (32 * j) 32 = g j := by
  have h := fld_packed (m := 2048) (w := 32) (n := 64) (by decide) hj (fun i => (g i).toNat)
  refine BitVec.eq_of_toNat_eq ?_
  rw [BitVec.extractLsb'_toNat, ofLanes, List.map_map]
  exact h.trans (Nat.mod_eq_of_lt (g j).isLt)

end Sys2Proof.Machine
end

section
/-!
PROOFS. The sequencer's arithmetic, shifts and multiplies (05 R147, R152; 03 R116; O1): an operation on 64 bits whose low word is taken
in the .W form is the operation on the low words.
-/

set_option Elab.async false

namespace Sys2Proof.Machine

open Sys2Proof

section
variable {s : State} {t : Nat} {f : BitVec 48} {c : Ctx} (h : s.Runs t f c) {good : Bool} (hg : good = true)
include h hg

/-! ## Operations of the sequencer -/

/-- An operation without a flag writes its register. -/
theorem issue_aluOp (op : Bool → W64 → W64 → W64) :
    issue t f good (aluOp op) s = s.putReg t f c (wForm (bit f 0) (op (bit f 0) (c.reg (Fmt.a f)) (c.reg (Fmt.b f)))) :=
  (issue_set h hg rfl).trans (by simp [State.putReg])

/-- The same, with imm32 as its second operand. -/
theorem issue_immOp (op : Bool → W64 → W64 → W64) :
    issue t f good (immOp op) s = s.putReg t f c (wForm (bit f 32) (op (bit f 32) (c.reg (Fmt.a f)) (Fmt.simm f))) :=
  (issue_set h hg rfl).trans (by simp [State.putReg])

end

/-! ## The .W form (05 R152) -/

/-- A result by its form: all of it, or its low word sign-extended. -/
theorem wForm_eq_ite {w : Bool} {x d : W64} {l : W32} (hd : w = false → x = d) (hl : w = true → x.setWidth 32 = l) :
    wForm w x = if w then l.signExtend 64 else d := by
  cases w with
  | false => exact hd rfl
  | true => rw [wForm, if_pos rfl, if_pos rfl, hl rfl]

theorem wForm_self (w : Bool) (x : W64) : wForm w x = if w then (x.setWidth 32 : W32).signExtend 64 else x := rfl

/-- The low word of a sign-extended word is the word. -/
theorem setWidth_signExtend_low (v : W32) : (v.signExtend 64).setWidth 32 = v := by
  refine BitVec.eq_of_getLsbD_eq (fun i hi => ?_)
  rw [BitVec.getLsbD_setWidth, BitVec.getLsbD_signExtend, if_pos hi]
  simp [hi, show i < 64 by omega]

/-- The low word of an integer in two's complement is the integer in the low word. -/
theorem setWidth_ofInt_low (x : Int) : (BitVec.ofInt 64 x).setWidth 32 = BitVec.ofInt 32 x := by
  refine BitVec.eq_of_toNat_eq ?_
  rw [BitVec.toNat_setWidth, BitVec.toNat_ofInt, BitVec.toNat_ofInt]
  omega

variable (w : Bool) (x y : W64)

theorem wForm_aluAdd : wForm w (aluAdd w x y) = if w then (x.setWidth 32 + y.setWidth 32 : W32).signExtend 64 else x + y :=
  wForm_eq_ite (fun _ => rfl) (fun _ => BitVec.setWidth_add x y (by decide))

theorem setWidth_sub_low : (x - y).setWidth 32 = (x.setWidth 32 - y.setWidth 32 : W32) := by
  bv_omega

theorem wForm_aluSub : wForm w (aluSub w x y) = if w then (x.setWidth 32 - y.setWidth 32 : W32).signExtend 64 else x - y :=
  wForm_eq_ite (fun _ => rfl) (fun _ => setWidth_sub_low x y)

theorem wForm_aluAnd : wForm w (aluAnd w x y) = if w then (x.setWidth 32 &&& y.setWidth 32 : W32).signExtend 64 else x &&& y :=
  wForm_eq_ite (fun _ => rfl) (fun _ => BitVec.setWidth_and)

theorem wForm_aluOr : wForm w (aluOr w x y) = if w then (x.setWidth 32 ||| y.setWidth 32 : W32).signExtend 64 else x ||| y :=
  wForm_eq_ite (fun _ => rfl) (fun _ => BitVec.setWidth_or)

theorem wForm_aluXor : wForm w (aluXor w x y) = if w then (x.setWidth 32 ^^^ y.setWidth 32 : W32).signExtend 64 else x ^^^ y :=
  wForm_eq_ite (fun _ => rfl) (fun _ => BitVec.setWidth_xor)

theorem wForm_aluShl : wForm w (aluShl w x y) = if w then ((x.setWidth 32 : W32) <<< fld y 0 5).signExtend 64 else x <<< fld y 0 6 := by
  refine wForm_eq_ite (fun hw => ?_) (fun hw => ?_) <;> subst hw
  · rfl
  · exact BitVec.setWidth_shiftLeft_of_le (by decide)

theorem wForm_aluShr : wForm w (aluShr w x y) = if w then ((x.setWidth 32 : W32) >>> fld y 0 5).signExtend 64 else x >>> fld y 0 6 := by
  refine wForm_eq_ite (fun hw => ?_) (fun hw => ?_) <;> subst hw
  · rfl
  · exact (BitVec.setWidth_setWidth_of_le _ (by decide)).trans (BitVec.setWidth_eq _)

theorem wForm_aluSar :
    wForm w (aluSar w x y) = if w then ((x.setWidth 32 : W32).sshiftRight (fld y 0 5)).signExtend 64 else x.sshiftRight (fld y 0 6) := by
  refine wForm_eq_ite (fun hw => ?_) (fun hw => ?_) <;> subst hw
  · rfl
  · exact setWidth_signExtend_low _

/-! ## Immediates (05 R147) -/

theorem setWidth_simm (f : BitVec 48) : (Fmt.simm f).setWidth 32 = Fmt.imm f := setWidth_signExtend_low _

/-- A low field of a word is that of its low half. -/
theorem fld_setWidth_low (x : W64) {n : Nat} (hn : n ≤ 32) : fld (x.setWidth 32 : W32) 0 n = fld x 0 n := by
  simp only [fld, Nat.shiftRight_zero, BitVec.toNat_setWidth]
  exact Nat.mod_mod_of_dvd _ (Nat.pow_dvd_pow 2 hn)

theorem fld_simm (f : BitVec 48) {n : Nat} (hn : n ≤ 32) : fld (Fmt.simm f) 0 n = fld (Fmt.imm f) 0 n := by
  rw [← fld_setWidth_low _ hn, setWidth_simm]

/-- MOVHI's word: imm32 above the low word of a. -/
theorem movhi_eq_append (f : BitVec 48) (x : W64) : (Fmt.simm f <<< 32) ||| (x &&& 0xFFFFFFFF) = (Fmt.imm f ++ (x.setWidth 32 : W32) : BitVec 64) := by
  have hlow : (0xFFFFFFFF : W64) = (BitVec.allOnes 32).setWidth 64 := by decide
  refine BitVec.eq_of_getLsbD_eq (fun i hi => ?_)
  rw [BitVec.getLsbD_or, BitVec.getLsbD_and, hlow, BitVec.getLsbD_setWidth, BitVec.getLsbD_allOnes, BitVec.getLsbD_shiftLeft, BitVec.getLsbD_append,
    BitVec.getLsbD_setWidth, Fmt.simm, BitVec.getLsbD_signExtend]
  by_cases h : i < 32
  · simp [h, hi]
  · simp [h, hi, show i - 32 < 32 by omega, show i - 32 < 64 by omega]

/-! ## Products (05 R147) -/

theorem wForm_wForm : wForm w (wForm w x) = wForm w x := by
  cases w with
  | false => rfl
  | true => exact congrArg (BitVec.signExtend 64) (setWidth_signExtend_low _)

theorem wForm_mulLow : wForm w (mulLow w x y) = if w then (x.setWidth 32 * y.setWidth 32 : W32).signExtend 64 else x * y := by
  rw [mulLow, wForm_wForm]
  refine wForm_eq_ite (fun hw => ?_) (fun hw => ?_) <;> subst hw
  · simp [i64, sOf, BitVec.ofInt_mul]
  · rw [i64, setWidth_ofInt_low, BitVec.ofInt_mul, sOf, sOf, if_pos rfl, if_pos rfl, BitVec.ofInt_toInt, BitVec.ofInt_toInt]

/-- The high half of a product, by its form. -/
theorem wForm_highHalf {x d l : Int} (hd : w = false → x = d) (hl : w = true → x = l) :
    wForm w (highHalf w x) = if w then (BitVec.ofInt 32 (l / 2 ^ 32)).signExtend 64 else BitVec.ofInt 64 (d / 2 ^ 64) := by
  rw [highHalf, wForm_wForm]
  refine wForm_eq_ite (fun hw => ?_) (fun hw => ?_)
  · rw [hw, hd hw]; rfl
  · rw [hw, hl hw]; exact setWidth_ofInt_low _

/-! ## Saturation (03 R116) -/

/-- The first number that is too large for a form. -/
def formLimit (w : Bool) : Int := if w then 2 ^ 31 else 2 ^ 63

theorem formLimit_pos (w : Bool) : 0 < formLimit w := by cases w <;> norm_num [formLimit]

theorem clampI_eq_max_min (x : Int) {lo hi : Int} (h : lo ≤ hi) : clampI x lo hi = max lo (min hi x) := by
  unfold clampI
  split_ifs <;> omega

theorem sat32_eq (x : Int) : sat32 x = max (-2 ^ 31) (min (2 ^ 31 - 1) x) := by
  rw [sat32, clampI_eq_max_min x (by norm_num)]
  norm_num

theorem sat64_eq (x : Int) : sat64 x = max (-2 ^ 63) (min (2 ^ 63 - 1) x) := by
  rw [sat64, clampI_eq_max_min x (by norm_num)]
  norm_num

theorem sat_eq (x : Int) : (if w then sat32 x else sat64 x) = max (-(formLimit w)) (min (formLimit w - 1) x) := by
  cases w with
  | false => simp only [formLimit, sat64_eq, Bool.false_eq_true, if_false]
  | true => simp only [formLimit, sat32_eq, if_true]

theorem satForm_eq (x : Int) : satForm w x =
    (BitVec.ofInt 64 (max (-(formLimit w)) (min (formLimit w - 1) x)), if -(formLimit w) ≤ x ∧ x < formLimit w then 0 else Fl.sat) := by
  have hl := formLimit_pos w
  have hy := sat_eq w x
  have hf : max (-(formLimit w)) (min (formLimit w - 1) x) ≠ x ↔ ¬ (-(formLimit w) ≤ x ∧ x < formLimit w) := by omega
  simp only [satForm, hy, i64, Fl.when, hf, decide_not, Bool.not_eq_true', decide_eq_false_iff_not, ite_not]

end Sys2Proof.Machine

open Sys2Proof Sys2Proof.Machine

/-- Settles O1: each instruction writes its operation, whose two forms have a lemma each. -/
theorem aluResults : Obligations.AluResults := by
  unfold Obligations.AluResults
  refine ⟨⟨?_, ?_⟩, ?_, ?_⟩
  · intro s t f c h hg a b a' b' out
    have alu := fun op => issue_aluOp h hg op
    refine ⟨(alu aluAdd).trans ?_, (alu aluSub).trans ?_, (alu aluAnd).trans ?_, (alu aluOr).trans ?_, (alu aluXor).trans ?_,
      (alu aluShl).trans ?_, (alu aluShr).trans ?_, (alu aluSar).trans ?_, fun hb => issue_aluOp h (by simp [goodAlu1, hg, hb]) _⟩
    · rw [wForm_aluAdd]
    · rw [wForm_aluSub]
    · rw [wForm_aluAnd]
    · rw [wForm_aluOr]
    · rw [wForm_aluXor]
    · rw [wForm_aluShl]
    · rw [wForm_aluShr]
    · rw [wForm_aluSar]
  · intro s t f c h hf a a' m' m out
    have hg : goodAlui f = true := decide_eq_true hf
    have imm := fun op => issue_immOp h hg op
    refine ⟨(imm aluAdd).trans ?_, (imm aluAnd).trans ?_, (imm aluOr).trans ?_, (imm aluXor).trans ?_, (imm aluShl).trans ?_, (imm aluShr).trans ?_,
      (imm aluSar).trans ?_, fun ha => (issue_immOp h (by simp [hg, ha]) _).trans ?_, (imm _).trans ?_⟩
    · rw [wForm_aluAdd, setWidth_simm]; rfl
    · rw [wForm_aluAnd, setWidth_simm]; rfl
    · rw [wForm_aluOr, setWidth_simm]; rfl
    · rw [wForm_aluXor, setWidth_simm]; rfl
    · rw [wForm_aluShl, fld_simm f (by decide), fld_simm f (by decide)]; rfl
    · rw [wForm_aluShr, fld_simm f (by decide), fld_simm f (by decide)]; rfl
    · rw [wForm_aluSar, fld_simm f (by decide), fld_simm f (by decide)]; rfl
    · rw [wForm_self, setWidth_simm]; rfl
    · rw [movhi_eq_append, wForm_self, BitVec.setWidth_append_eq_right]; rfl
  · intro s t f c h a b m sx lim out
    have hsat : ∀ (w : Bool) (x : Int), s.putFlagged t f c (satForm w x).1 (satForm w x).2 = out w x := fun w x => by rw [satForm_eq]; rfl
    refine ⟨fun hg => (issue_flagOp h hg aluAdds).trans (hsat _ _), fun hg => (issue_flagOp h hg aluSubs).trans (hsat _ _), fun hf => ?_⟩
    have hi : exec (.addsi t f) s = s.putFlagged t f c (aluAdds (bit f 32) a (Fmt.simm f)).1 (aluAdds (bit f 32) a (Fmt.simm f)).2 :=
      (issue_set h (decide_eq_true hf) rfl).trans (by simp [State.putFlagged, a])
    exact hi.trans (hsat _ _)
  · intro s t f c h hg a b a' b' out
    have alu := fun op => issue_aluOp h hg op
    refine ⟨(alu mulLow).trans ?_, (alu mulHigh).trans ?_, (alu mulHighU).trans ?_, (alu mulHighSU).trans ?_⟩
    · rw [wForm_mulLow]
    · rw [mulHigh, wForm_highHalf _ (fun hw => by rw [hw]) (fun hw => by rw [hw])]
      rfl
    · rw [mulHighU, uOf_eq_natCast, uOf_eq_natCast, ← Int.natCast_mul, wForm_highHalf _ (fun hw => by rw [hw]) (fun hw => by rw [hw])]
      rfl
    · rw [mulHighSU, wForm_highHalf _ (fun hw => by rw [hw]) (fun hw => by rw [hw])]
      rfl
end

section
/-!
PROOFS. The sequencer's compares, predicates and branches (05 R147, R152; 17 R551; O3): a compare of words is the compare of the numbers of
its form, and a taken branch moves pc and is counted.
-/

set_option Elab.async false

namespace Sys2Proof.Machine

open Sys2Proof

/-! ## Compares (05 R147) -/

/-- The conditions of CMP on words of any width. -/
theorem word_conditions {n : Nat} (x y : BitVec n) :
    decide ((x.toNat : Int) = y.toNat) = (x == y) ∧ decide (x.toInt < y.toInt) = x.slt y ∧ decide (x.toInt ≤ y.toInt) = (x.slt y || x == y) ∧
      decide ((x.toNat : Int) < y.toNat) = x.ult y ∧ decide ((x.toNat : Int) ≤ y.toNat) = (x.ult y || x == y) := by
  have hs : x == y ↔ x.toInt = y.toInt := by rw [beq_iff_eq, BitVec.toInt_inj]
  have hu : x == y ↔ x.toNat = y.toNat := by rw [beq_iff_eq, BitVec.toNat_inj]
  refine ⟨?_, rfl, ?_, ?_, ?_⟩ <;> rw [Bool.eq_iff_iff]
  · simp [hu]
  · simp [hs, BitVec.slt, Int.le_iff_lt_or_eq]
  · simp [BitVec.ult]
  · simp [hu, BitVec.ult, Nat.le_iff_lt_or_eq]

/-- What CMP writes under condition code `cc`, where the operands compare as the arguments say. -/
def conditionOf (cc : Nat) (eq lt ltu : Bool) : Bool :=
  match cc with
  | 0 => eq
  | 1 => !eq
  | 2 => lt
  | 3 => lt || eq
  | 4 => ltu
  | _ => ltu || eq

/-- CMP compares words of 64 bits, or the low words in the .W form. -/
theorem cmpCc_eq (cc : Nat) (w : Bool) (x y : W64) : cmpCc cc w x y =
    conditionOf cc (if w then (x.setWidth 32 : W32) == (y.setWidth 32 : W32) else x == y)
      (if w then (x.setWidth 32 : W32).slt (y.setWidth 32 : W32) else x.slt y) (if w then (x.setWidth 32 : W32).ult (y.setWidth 32 : W32) else x.ult y) := by
  have conditions : ∀ {n : Nat} (a b : BitVec n), (match cc with
      | 0 => decide ((a.toNat : Int) = b.toNat)
      | 1 => decide ((a.toNat : Int) ≠ b.toNat)
      | 2 => decide (a.toInt < b.toInt)
      | 3 => decide (a.toInt ≤ b.toInt)
      | 4 => decide ((a.toNat : Int) < b.toNat)
      | _ => decide ((a.toNat : Int) ≤ b.toNat)) = conditionOf cc (a == b) (a.slt b) (a.ult b) := fun a b => by
    obtain ⟨he, hl, hle, hlu, hleu⟩ := word_conditions a b
    unfold conditionOf
    split
    · exact he
    · rw [← he, decide_not]
    · exact hl
    · exact hle
    · exact hlu
    · exact hleu
  cases w with
  | false => exact conditions x y
  | true => exact conditions (x.setWidth 32) (y.setWidth 32)

section
variable {s : State} {t : Nat} {f : BitVec 48} {c : Ctx} (h : s.Runs t f c) {good : Bool} (hg : good = true)
include h hg

/-! ## Predicates and branches (05 R147, R152) -/

theorem issue_predOp (op : Bool → Bool → Bool) :
    issue t f good (predOp op) s = s.putPred t f c (op (c.pred (Fmt.a f)) (c.pred (Fmt.b f))) :=
  (issue_set h hg rfl).trans (by simp [State.putPred])

/-- A taken branch: the context goes on at the target, and the branch is counted (17 R551). -/
theorem issue_branch {body : Body} (g : Ctx → Ctx) (n : Nat)
    (hb : body (atIssue s t f c) (s.withCtx t (c.after s.now s.up)) = (atIssue s t f c).branch g n (s.withCtx t (c.after s.now s.up))) :
    issue t f good body s = ((s.withCtx t { g (c.after s.now s.up) with pc := n % 32768 }).tileEvent t 0x6 1).retired t := by
  refine issue_done h hg (hb.trans ?_)
  rw [At.branch, atIssue_set]
  rfl

end

theorem execCmp_of_runs {s : State} {t : Nat} {f : BitVec 48} {c : Ctx} (h : s.Runs t f c) (hd : Fmt.d f < 8) (hc : Fmt.c f = 0)
    (hf : fld f 4 20 = 0) (hcc : fld f 0 3 ≤ 5) :
    exec (.cmp t f) s = s.putPred t f c (cmpCc (fld f 0 3) (bit f 3) (c.reg (Fmt.a f)) (c.reg (Fmt.b f))) :=
  (issue_set h (decide_eq_true ⟨hd, hc, hf, hcc⟩) rfl).trans (by simp [State.putPred])

/-- The target of a branch counts from the branch itself, modulo the words of the I-store (05 R152). -/
theorem target_atIssue (s : State) (t : Nat) (f : BitVec 48) (c : Ctx) :
    (atIssue s t f c).target = (((c.pc : Int) + (f.setWidth 32 : W32).toInt).emod 32768).toNat := by
  have hi : ((f.setWidth 32 : W32).toInt) % 32768 = (fld f 0 15 : Nat) := by
    rw [BitVec.toInt_eq_toNat_cond, BitVec.toNat_setWidth, fld, Nat.shiftRight_zero]
    split <;> omega
  have ht : (atIssue s t f c).target = ((c.pc + 1) % 32768 + 32767 + fld f 0 15) % 32768 := by
    rw [At.target, atIssue_c, atIssue_f, Ctx.after_pc]
  rw [ht, show ∀ x : Int, x.emod 32768 = x % 32768 from fun _ => rfl]
  omega

end Sys2Proof.Machine

open Sys2Proof Sys2Proof.Machine

/-- Settles O3: compares by the numbers of their form, branches by what a taken branch does. -/
theorem predicateAndBranchResults : Obligations.PredicateAndBranchResults := by
  unfold Obligations.PredicateAndBranchResults
  refine ⟨?_, ?_⟩
  · intro s t f c h w a b lo lt ltu eq
    refine ⟨fun hd hc hf hcc => ?_, fun hg => ?_⟩
    · rw [execCmp_of_runs h hd hc hf hcc, cmpCc_eq]
      rfl
    · exact ⟨issue_predOp h hg _, issue_predOp h hg _, issue_predOp h hg _, fun hb => issue_predOp h (by simp [hg, hb]) _⟩
  · intro s t f c h _ hf k go target down
    have htarget : (atIssue s t f c).target = target := target_atIssue s t f c
    have hlt : target < 32768 := htarget ▸ Nat.mod_lt _ (by decide)
    have branch : ∀ {good : Bool} {body : Body} (g : Ctx → Ctx), good = true →
        body (atIssue s t f c) (s.withCtx t k) = (atIssue s t f c).branch g (atIssue s t f c).target (s.withCtx t k) →
        issue t f good body s = go (g k) target := fun g hg hb => by
      rw [issue_branch h hg g _ hb, htarget, Nat.mod_eq_of_lt hlt]
    refine ⟨fun hd => branch id (by simp [goodB, hf, hd]) rfl, ?_, fun hi => ?_, ?_⟩
    · rw [← Ctx.after_pc s.now s.up c]
      exact branch (fun k => k.setReg (Fmt.d f) (BitVec.ofNat 64 (c.after s.now s.up).pc)) (by simp [goodB, hf]) rfl
    · rw [← Ctx.after_reg s.now s.up (Fmt.d f) c]
      exact issue_branch h (by simp [goodB, hf, hi]) id _ rfl
    · have hdown : down = k.setReg (Fmt.d f) (k.reg (Fmt.d f) - 1) := by rw [Ctx.after_reg]
      split
      · next hne =>
        rw [hdown] at hne ⊢
        exact branch (fun x => x.setReg (Fmt.d f) (k.reg (Fmt.d f) - 1)) (by simp [goodB, hf]) (if_pos hne)
      · next hz =>
        rw [hdown] at hz ⊢
        exact issue_set h (by simp [goodB, hf]) (g := fun x => x.setReg (Fmt.d f) (k.reg (Fmt.d f) - 1)) (if_neg hz)
end

section
/-!
PROOFS. Scalar loads and stores (05 R147, R152, R155; O4): a load puts the number that its bytes give into its register; a store changes
the bytes that it names and no other.
-/

set_option Elab.async false

namespace Sys2Proof.Machine

open Sys2Proof

/-! ## A write of the executing program (02 R51) -/

/-- A tile after bytes have been written into a store. -/
def Tile.stored (st off : Nat) (bs : List Byte) (T : Tile) : Tile :=
  Tile.rewritten (storeBase st + off) bs.length { T with
    mem := Mem.store (storeBase st + off) bs T.mem
    upset := T.upset.filter (fun e => decide (¬ ((storeBase st + off) / 4 * 4 ≤ e.1 ∧ e.1 < storeBase st + off + bs.length))) }

theorem State.storeWrite_eq (p st off : Nat) (bs : List Byte) (s : State) :
    s.storeWrite p st off bs = s.setTile p ((s.tile p).stored st off bs) := rfl

/-- A program's write changes its tile: the bytes, and what the tile and the context note of it. -/
theorem State.ownWrite_tile {p w : Nat} {c : Ctx} {s : State} (hc : s.ctx p w = some c) (st off : Nat) (bs : List Byte) :
    (s.ownWrite p w st off bs).tile p =
      (((s.tile p).stored st off bs).noteWrite c.job.image st off bs.length).setSlot w (some (c.noteWrite st off bs.length)) := by
  have hnote : (((s.storeWrite p st off bs).updTile p (Tile.noteWrite c.job.image st off bs.length)).ctx p w) = some c := by
    rw [State.ctx, State.updTile_eq, State.setTile_tile, State.storeWrite_eq, State.setTile_tile]
    exact hc
  rw [State.ownWrite, hc]
  show ((((s.storeWrite p st off bs).updTile p (Tile.noteWrite c.job.image st off bs.length))).updCtx p w (Ctx.noteWrite st off bs.length)).tile p = _
  rw [State.updCtx_some hnote, State.setCtx_tile, State.updTile_eq, State.setTile_tile, State.storeWrite_eq, State.setTile_tile]

theorem State.ownWrite_mem {p w : Nat} {c : Ctx} {s : State} (hc : s.ctx p w = some c) (st off : Nat) (bs : List Byte) :
    ((s.ownWrite p w st off bs).tile p).mem = Mem.store (storeBase st + off) bs (s.tile p).mem := by
  rw [State.ownWrite_tile hc, Tile.setSlot_mem]
  rfl

theorem State.ownWrite_cur {p : Nat} {c : Ctx} {s : State} (hc : (s.tile p).cur = some c) (st off : Nat) (bs : List Byte) :
    ((s.ownWrite p (s.tile p).execSlot st off bs).tile p).cur = some (c.noteWrite st off bs.length) := by
  rw [Tile.cur, State.ownWrite_execSlot, State.ownWrite_tile hc, Tile.slot_setSlot]

theorem State.updCtx_tile_ne {p q : Nat} (h : q ≠ p) (w : Nat) (g : Ctx → Ctx) (s : State) : (s.updCtx p w g).tile q = s.tile q := by
  unfold State.updCtx
  split
  · exact State.setCtx_tile_ne h _ _ _
  · rfl

theorem State.ownWrite_tile_ne {p q : Nat} (h : q ≠ p) (w st off : Nat) (bs : List Byte) (s : State) :
    (s.ownWrite p w st off bs).tile q = s.tile q := by
  unfold State.ownWrite
  split
  · exact State.setTile_tile_ne _ _ _ _ h
  · rw [State.updCtx_tile_ne h, State.updTile_eq, State.setTile_tile_ne _ _ _ _ h, State.storeWrite_eq, State.setTile_tile_ne _ _ _ _ h]

@[simp] theorem State.updCtx_hbm (p w : Nat) (g : Ctx → Ctx) (s : State) : (s.updCtx p w g).hbm = s.hbm := by
  unfold State.updCtx
  split <;> rfl

@[simp] theorem State.ownWrite_hbm (p w st off : Nat) (bs : List Byte) (s : State) : (s.ownWrite p w st off bs).hbm = s.hbm := by
  unfold State.ownWrite
  split
  · rfl
  · rw [State.updCtx_hbm]
    rfl

/-! ## Bytes and words (00 R5; 05 R155) -/

@[simp] theorem length_leBytes (n x : Nat) : (leBytes n x).length = n := by
  induction n generalizing x with
  | zero => rfl
  | succ n ih => simp [leBytes, ih]

theorem State.length_bytesAt (t st off n : Nat) (s : State) : (s.bytesAt t st off n).length = n := Mem.length_bytes ..

/-- The word that all the bytes of a list give. -/
theorem leAt_zero {n : Nat} {bs : List Byte} (h : bs.length = n) : leAt 0 n bs = leNat bs := by
  rw [leAt, List.drop_zero, ← h, List.take_length]

/-! ## Ranges that may be written at once -/

/-- The access of a range that an instruction may write. -/
theorem State.usable.access_write {s : State} {t : Nat} {f : BitVec 48} {c : Ctx} {st off n : Nat} (hu : s.usable t c [Range.wr st off n])
    (h : s.Runs t f c) (hn : n ≠ 0) : (atIssue s t f c).access true st off n (s.withCtx t (c.after s.now s.up)) = .ok := by
  have hneed : (s.withCtx t (c.after s.now s.up)).need t [{ write := true, st := st, off := off, n := n }] = .ok := hu.need_withCtx h
  obtain ⟨hall, -, -⟩ := hu
  obtain h0 | ⟨hf, hw⟩ := hall _ (List.mem_singleton_self _)
  · exact absurd h0 hn
  · have hfoot : inFoot c.job.image st off n = true := hf
    have hmay : c.mayWrite st off n = true := hw rfl
    simp only [At.access, atIssue_c, atIssue_p, Ctx.after_job, Ctx.after_mayWrite, hfoot, hmay, hneed]
    rfl

/-- An instruction that writes a range it may use writes its bytes. -/
theorem State.usable.writing {s : State} {t : Nat} {f : BitVec 48} {c : Ctx} {st off n : Nat} (hu : s.usable t c [Range.wr st off n])
    (h : s.Runs t f c) (hn : n ≠ 0) {bs : List Byte} (hl : bs.length = n) :
    (atIssue s t f c).writing st off bs (s.withCtx t (c.after s.now s.up)) =
      ((s.withCtx t (c.after s.now s.up)).ownWrite t (s.tile t).execSlot st off bs, .ok) := by
  rw [At.writing, hl, hu.access_write h hn]
  rfl

/-! ## LD and ST (05 R147, R152, R155) -/

section
variable {s : State} {t : Nat} {f : BitVec 48} {c : Ctx}

theorem atIssue_addr {a n : Nat} (ha : (c.reg (Fmt.a f) + Fmt.moff f).toNat = a) (hn : a % n = 0) : (atIssue s t f c).addr n = some a := by
  rw [At.addr, atIssue_c, atIssue_f, Ctx.after_reg, ha, if_pos hn]

variable (h : s.Runs t f c) (hg : goodM f = true) {a n : Nat} (ha : (c.reg (Fmt.a f) + Fmt.moff f).toNat = a) (hn : a % n = 0)
include h hg ha hn

theorem issue_loadBody (hpos : n ≠ 0) (ext : List Byte → W64) (hu : s.usable t c [Range.rd (Fmt.store f) a n]) :
    issue t f (goodM f) (loadBody n ext) s = s.putReg t f c (ext (s.bytesAt t (Fmt.store f) a n)) := by
  refine issue_set h hg (g := Ctx.setReg (Fmt.d f) (ext (s.bytesAt t (Fmt.store f) a n))) ?_
  simp only [loadBody, atIssue_addr ha hn]
  exact hu.reading h hpos 0 _

theorem issue_storeBody (hpos : n ≠ 0) (hu : s.usable t c [Range.wr (Fmt.store f) a n]) :
    issue t f (goodM f) (storeBody n) s =
      ((s.withCtx t (c.after s.now s.up)).stores t [(Fmt.store f, a, leBytes n (c.reg (Fmt.d f)).toNat)]).retired t := by
  refine issue_done h hg ?_
  simp only [storeBody, atIssue_addr ha hn, atIssue_c, atIssue_f, Ctx.after_reg]
  rw [hu.writing h hpos (length_leBytes _ _), State.stores_eq_foldl, State.withCtx_execSlot]
  rfl

end

/-! ## What a store changes -/

/-- What the outcome of a store to `n` bytes of the executing context is, byte by byte and unit by unit. -/
theorem State.stored_frame {s : State} {t : Nat} {k : Ctx} (st off : Nat) (bs : List Byte) :
    let u := ((s.withCtx t k).stores t [(st, off, bs)]).tileEvent t 0x2 1
    (∀ j, j < bs.length → Mem.read (storeBase st + off + j) (u.tile t).mem = bs.getD j 0) ∧
    (∀ x, ¬ (storeBase st + off ≤ x ∧ x < storeBase st + off + bs.length) → Mem.read x (u.tile t).mem = Mem.read x (s.tile t).mem) ∧
    (∀ p, p ≠ t → u.tile p = s.tile p) ∧ u.hbm = s.hbm ∧ (u.tile t).cur = some (k.noteWrite st off bs.length) := by
  intro u
  have hu : u = ((s.withCtx t k).ownWrite t ((s.withCtx t k).tile t).execSlot st off bs).tileEvent t 0x2 1 := rfl
  have hctx : ((s.withCtx t k).tile t).cur = some k := State.withCtx_cur t k s
  have hmem : (u.tile t).mem = Mem.store (storeBase st + off) bs (s.tile t).mem := by
    rw [hu, State.tileEvent_mem, State.ownWrite_mem hctx, State.withCtx_mem]
  refine ⟨fun j hj => ?_, fun x hx => ?_, fun p hp => ?_, ?_, ?_⟩
  · rw [hmem, Mem.read_store_inside bs (by omega) (by omega), Nat.add_sub_cancel_left]
  · rw [hmem, Mem.read_store_outside bs (by omega)]
  · rw [hu, State.tileEvent_tile_ne hp, State.ownWrite_tile_ne hp, State.withCtx_tile_ne hp]
  · rw [hu, State.tileEvent_hbm, State.ownWrite_hbm, State.withCtx_hbm]
  · rw [hu, State.tileEvent_cur, State.ownWrite_cur hctx]

end Sys2Proof.Machine

open Sys2Proof Sys2Proof.Machine

/-- Settles O4: loads by the bytes that they read, stores by their frame. -/
theorem loadAndStoreResults : Obligations.LoadAndStoreResults := by
  unfold Obligations.LoadAndStoreResults
  refine ⟨?_, ?_⟩
  · intro s t f c h hg st a
    refine ⟨fun hn hu => ?_, fun hn hu => ?_⟩
    · have hexec := issue_loadBody h hg rfl hn (by decide) (fun bs => (w32At 0 bs).signExtend 64) hu
      rw [w32At, leAt_zero (State.length_bytesAt ..)] at hexec
      exact hexec
    · have hexec := issue_loadBody h hg rfl hn (by decide) (fun bs => w64At 0 bs) hu
      rw [w64At, leAt_zero (State.length_bytesAt ..)] at hexec
      exact hexec
  · intro s t f c n i h hg hi st a bs hn hu
    have hexec : exec i s = ((s.withCtx t (c.after s.now s.up)).stores t [(st, a, bs)]).retired t := by
      obtain ⟨rfl, rfl⟩ | ⟨rfl, rfl⟩ := hi
      · exact issue_storeBody h hg rfl hn (by decide) hu
      · exact issue_storeBody h hg rfl hn (by decide) hu
    have hlen : bs.length = n := length_leBytes n _
    obtain ⟨hin, hout, hothers, hhbm, hcur⟩ := State.stored_frame (s := s) (t := t) (k := c.after s.now s.up) st a bs
    rw [hlen] at hin hout hcur
    exact ⟨_, hexec, rfl, hin, hout, hothers, hhbm, _, hcur, by simp [Ctx.noteWrite, Ctx.after_eq]⟩
end

section
/-!
PROOFS. The system instructions, the waits that need not wait (05 R163, R165, R172, R173; O6) and MBWR (R168, R169; O7).
-/

set_option Elab.async false

namespace Sys2Proof.Machine

open Sys2Proof

/-- The commit map of the context in slot `w` names mailbox `m` (06 R209). -/
def State.mapsMailbox (p w m : Nat) (s : State) : Bool :=
  match (s.tile p).cu with
  | some u => decide (u.owner = w) && u.mailboxes.contains m
  | none => false

theorem State.mapsMailbox_eq_false {p w m : Nat} {s : State} (h : ∀ u, (s.tile p).cu = some u → u.owner = w → m ∉ u.mailboxes) :
    s.mapsMailbox p w m = false := by
  unfold State.mapsMailbox
  split
  · next u hu => simpa using h u hu
  · rfl

theorem State.mem_mailboxesOf {s : State} {j : Job} {b m : Nat} {v : Binding} (hj : j.binding = some b) (hb : s.binding b = some v)
    (hm : m ∈ v.mailboxes) : m ∈ s.mailboxesOf j := by
  simpa only [State.mailboxesOf, hj, hb] using hm

/-- MBWR stages a value where the context may write the mailbox (05 R168, R169). -/
theorem execMbwr_of_runs {s : State} {t : Nat} {f : BitVec 48} {c : Ctx} (h : s.Runs t f c) (hg : goodI false true true f = true)
    (hf : fld f 8 24 = 0) (hown : fld f 0 8 ∈ s.mailboxesOf c.job) (hmap : s.mapsMailbox t (s.tile t).execSlot (fld f 0 8) = false) :
    exec (.mbwr t f) s = s.ran t { c.after s.now s.up with
      staged := Tbl.insert (fld f 0 8) ((c.reg (Fmt.a f)).setWidth 32) c.staged,
      mbwr := if fld f 0 8 ∈ c.mbwr then c.mbwr else c.mbwr ++ [fld f 0 8] } := by
  have hmap' : (s.withCtx t (c.after s.now s.up)).mapsMailbox t (s.tile t).execSlot (fld f 0 8) = false := by
    rw [← hmap, State.mapsMailbox, State.withCtx_tile, Tile.setSlot_cu, State.mapsMailbox]
  have hown' : ((s.withCtx t (c.after s.now s.up)).mailboxesOf (c.after s.now s.up).job).contains (fld f 0 8) = true := by
    rw [Ctx.after_job, State.withCtx_mailboxesOf]
    exact List.contains_iff_mem.mpr hown
  have hgo : ¬ ((s.withCtx t (c.after s.now s.up)).mapsMailbox t (s.tile t).execSlot (fld f 0 8) ||
      !((s.withCtx t (c.after s.now s.up)).mailboxesOf (c.after s.now s.up).job).contains (fld f 0 8)) = true := by
    rw [hmap', hown']
    decide
  refine (issue_set h (by simp [hg, hf]) (if_neg hgo)).trans ?_
  simp

end Sys2Proof.Machine

open Sys2Proof Sys2Proof.Machine

/-- Settles O6: the condition under which each body goes on is the one that the statement gives. -/
theorem systemResults : Obligations.SystemResults := by
  unfold Obligations.SystemResults
  intro s t f c h k T
  refine ⟨fun hg => ⟨issue_set h hg (g := id) rfl, issue_set h hg (g := id) rfl, fun ht => issue_set h hg (g := id) ?_,
    fun hd hs => issue_set h hg (g := id) (if_pos ?_), fun hr => issue_set h hg (g := id) (if_pos ?_)⟩,
    fun hg => (issue_set h hg rfl).trans ?_, fun hg => (issue_set h hg rfl).trans ?_, fun hg => (issue_set h hg rfl).trans ?_,
    fun hd ha he hq => issue_set h (decide_eq_true ⟨hd, ha, he⟩) (g := id) (if_pos ?_)⟩
  · simp [ht]
  · rw [atIssue_p, State.withCtx_tile, Tile.quiet, Tile.setSlot_dma, Tile.setSlot_sb, hd, hs]
    rfl
  · rw [atIssue_p, atIssue_w, State.withCtx_tile, Tile.setSlot_bankReq]
    exact List.all_eq_true.mpr (fun r hmem => decide_eq_true (hr r hmem))
  · simp [State.putReg]
  · simp [k, Fmt.imm]
  · simp [k]
  · rw [atIssue_p, atIssue_f, State.withCtx_tile, Tile.setSlot_dma, hq]
    rfl

/-- Settles O7: the binding names the mailbox, and the map of the commit unit does not. -/
theorem mailboxStaging : Obligations.MailboxStaging := by
  unfold Obligations.MailboxStaging
  intro s t f c h hg hf m k hb hmap
  obtain ⟨b, v, hjob, hbind, hmem⟩ := hb
  have hexec := execMbwr_of_runs h hg hf (State.mem_mailboxesOf hjob hbind hmem) (State.mapsMailbox_eq_false hmap)
  refine ⟨hexec, Tbl.get_insert_same .., fun u hu => ?_⟩
  obtain rfl := Host.Outcome.next.inj (hexec.symm.trans hu)
  exact State.tileEvent_mailboxes ..
end

section
/-!
PROOFS. BANKPWR, DPUSH and DQCFG (02 R45 to R48; 05 R150, R171, R173, R174; 13 R441; O10): what each looks at of its tile does not depend on
what its issue changes of its context.
-/

set_option Elab.async false

namespace Sys2Proof.Machine

open Sys2Proof

/-! ## A context that keeps its coils and its job leaves what the tile's units look at -/

section
variable {w : Nat} {c d : Ctx} {t : Tile} (hc : t.slot w = some c)
include hc

/-- What is read of both contexts is the same with a context in the place of one that agrees with it. -/
theorem Tile.map_contexts_setSlot {α : Type} (g : Ctx → α) (hg : g d = g c) :
    ((t.setSlot w (some d)).ctx0.toList ++ (t.setSlot w (some d)).ctx1.toList).map g = (t.ctx0.toList ++ t.ctx1.toList).map g := by
  unfold Tile.slot at hc
  unfold Tile.setSlot
  split_ifs at hc ⊢ <;> simp [hc, hg]

theorem Tile.spanBusy_setSlot (hd : d.coils = c.coils) (p : Nat) (q : Option Nat) (write : Bool) (st off n : Nat) :
    (t.setSlot w (some d)).spanBusy p q write st off n = t.spanBusy p q write st off n := by
  simp only [Tile.spanBusy, Tile.descs, Tile.setSlot_dma, descRanges_setSlot hc hd]

end

theorem Tile.hbmBusy_setSlot (w : Nat) (c : Option Ctx) (p q : Nat) (write : Bool) (a n : Nat) (t : Tile) :
    (t.setSlot w c).hbmBusy p q write a n = t.hbmBusy p q write a n := by
  simp only [Tile.hbmBusy, Tile.descs, Tile.setSlot_dma]

/-- What decides whether a bank may be taken off, besides the image of the context that asks. -/
theorem State.mayTakeOff_withCtx {s : State} {t : Nat} {c k : Ctx} (hc : (s.tile t).cur = some c) (hk : k.coils = c.coils) (hj : k.job = c.job)
    (b : Nat) : (s.withCtx t k).mayTakeOff t k b = s.mayTakeOff t c b := by
  have hcoils := Tile.map_contexts_setSlot hc (·.coils) hk
  have himages := Tile.map_contexts_setSlot hc (·.job.image) (congrArg Job.image hj)
  have hany : ∀ (q : Nat × Coil → Bool) (l : List Ctx), l.any (fun x => x.coils.any q) = (l.map (·.coils)).any (fun x => x.any q) :=
    fun q l => by rw [List.any_map]; rfl
  simp only [State.mayTakeOff, State.withCtx_tile, Tile.images, Tile.holdsImage, Tile.setSlot_residents, Tile.setSlot_restCoils, himages, hj,
    hany, hcoils]

/-! ## Bank power (05 R173, R174) -/

/-- The state that BANKPWR's imm32 names. -/
def bankGoalOf (imm : W32) : BankSt :=
  match imm.toNat with
  | 0 => .off
  | 1 => .retain
  | _ => .on

theorem bankGoalOf_eq (imm : W32) : bankGoalOf imm = if imm = 0 then .off else if imm = 1 then .retain else .on := by
  have h0 : imm = 0 ↔ imm.toNat = 0 := by rw [← BitVec.toNat_inj]; rfl
  have h1 : imm = 1 ↔ imm.toNat = 1 := by rw [← BitVec.toNat_inj]; rfl
  simp only [h0, h1, bankGoalOf]
  split <;> simp_all

/-- The banks that a mask names, in bank order. -/
def banksIn (m : W64) : List Nat := (List.range 40).filter (fun b => bit m b)

/-- BANKPWR requests a state of every bank of ga, where the context may take each of them there. -/
theorem execBankpwr_of_runs {s : State} {t : Nat} {f : BitVec 48} {c : Ctx} (h : s.Runs t f c) (hg : goodI false true true f = true)
    (hi : (Fmt.imm f).toNat ≤ 2) (hm : (c.reg (Fmt.a f)).toNat < 2 ^ 40)
    (hoff : bankGoalOf (Fmt.imm f) ≠ .on → ∀ b ∈ banksIn (c.reg (Fmt.a f)), s.mayTakeOff t c b = true) :
    exec (.bankpwr t f) s = ((s.withCtx t (c.after s.now s.up)).updTile t (fun T =>
      (banksIn (c.reg (Fmt.a f))).foldl (fun T b => T.requestBank b (bankGoalOf (Fmt.imm f)) (some (s.tile t).execSlot)) T)).retired t := by
  have hmay : ∀ b, (s.withCtx t (c.after s.now s.up)).mayTakeOff t (c.after s.now s.up) b = s.mayTakeOff t c b :=
    State.mayTakeOff_withCtx h.cur (Ctx.after_coils ..) (Ctx.after_job ..)
  have hhigh : fld (c.reg (Fmt.a f)) 40 24 = 0 := by rw [fld, Nat.shiftRight_eq_div_pow]; omega
  rw [← Ctx.after_reg s.now s.up]
  have hgood : ¬ (decide (fld ((c.after s.now s.up).reg (Fmt.a f)) 40 24 ≠ 0) || (decide (bankGoalOf (Fmt.imm f) ≠ .on) &&
      (banksIn ((c.after s.now s.up).reg (Fmt.a f))).any
        (fun b => !(s.withCtx t (c.after s.now s.up)).mayTakeOff t (c.after s.now s.up) b))) = true := by
    simpa [hhigh, hmay] using hoff
  exact issue_done h (by simp [hg, hi]) (if_neg hgood)

/-! ## DMA queues (02 R45, R46, R48; 05 R150, R171) -/

/-- Queue `q` of a tile. -/
def State.dmaQueue (t q : Nat) (s : State) : DmaQueue := Tbl.get { } q (s.tile t).dma

@[simp] theorem State.withCtx_dmaQueue (t q : Nat) (k : Ctx) (s : State) : (s.withCtx t k).dmaQueue t q = s.dmaQueue t q := by
  simp [State.dmaQueue]

/-- The descriptor that DPUSH of the context in slot `w` makes of four registers. -/
def State.descOf (t w q g : Nat) (c : Ctx) (s : State) : Desc :=
  { w0 := c.reg g, w1 := c.reg (g + 1), w2 := c.reg (g + 2), w3 := c.reg (g + 3), attr := (s.dmaQueue t q).attr, no := (s.tile t).dmaNo,
    active := false, slot := w, row := 0, entry := (s.dmaQueue t q).count % 16 }

@[simp] theorem State.withCtx_descOf (t w q g : Nat) (now up : Nat) (c k : Ctx) (s : State) :
    (s.withCtx t k).descOf t w q g (c.after now up) = s.descOf t w q g c := by
  simp [State.descOf]

/-- A descriptor at the end of its queue. -/
def Tile.enqueue (t q : Nat) (v : DmaQueue) (d : Desc) (T : Tile) : Tile :=
  Tile.activateAll t { T with dmaNo := T.dmaNo + 1, dma := Tbl.set { } q { v with descs := v.descs ++ [d], count := v.count + 1 } T.dma }

/-- A bit of the attributes that DQCFG takes from its word. -/
theorem bit_ofNat_fld (f : BitVec 48) {i : Nat} (hi : i < 10) : bit (BitVec.ofNat 10 (fld f 0 10)) i = bit f i := by
  rw [bit, BitVec.getLsbD_ofNat, fld, Nat.shiftRight_zero, Nat.testBit_mod_two_pow, decide_eq_true hi, Bool.true_and, Bool.true_and]
  rfl

section
variable {s : State} {t : Nat} {f : BitVec 48} {c : Ctx} (h : s.Runs t f c) (hq : Fmt.a f < 16)
include h hq

/-- DPUSH puts its descriptor at the end of a queue with room, where no span of another queue conflicts. -/
theorem execDpush_of_runs (hd : Fmt.d f % 4 = 0) (he : Fmt.emod f = 0) {d : Desc} (hdesc : s.descOf t (s.tile t).execSlot (Fmt.a f) (Fmt.d f) c = d)
    (hgood : s.descGood t c d = true) (hroom : (s.dmaQueue t (Fmt.a f)).descs.length < 16)
    (hspan : ∀ r ∈ descRanges t (s.tile t) d, (s.tile t).spanBusy t (some (Fmt.a f)) r.1 r.2.1 r.2.2.1 r.2.2.2 = false)
    (hhbm : ∀ r ∈ descHbm t d, (s.tile t).hbmBusy t (Fmt.a f) r.1 r.2.1 r.2.2 = false) :
    exec (.dpush t f) s = (((s.withCtx t (c.after s.now s.up)).updTile t
      (Tile.enqueue t (Fmt.a f) (s.dmaQueue t (Fmt.a f)) d)).requests t c.job d).retired t := by
  refine issue_done h (decide_eq_true ⟨hd, hq, he⟩) ?_
  have hgood' : ¬ (!(s.withCtx t (c.after s.now s.up)).descGood t (c.after s.now s.up)
      ((s.withCtx t (c.after s.now s.up)).descOf t (s.tile t).execSlot (Fmt.a f) (Fmt.d f) (c.after s.now s.up))) = true := by
    rw [State.withCtx_descOf, hdesc, Bool.not_eq_true', Bool.not_eq_false, ← hgood]
    simp only [State.descGood, State.sideGood, Ctx.after_job]
    rfl
  have hwait : ¬ (decide (16 ≤ ((s.withCtx t (c.after s.now s.up)).dmaQueue t (Fmt.a f)).descs.length) ||
      (descRanges t ((s.withCtx t (c.after s.now s.up)).tile t)
        ((s.withCtx t (c.after s.now s.up)).descOf t (s.tile t).execSlot (Fmt.a f) (Fmt.d f) (c.after s.now s.up))).any
          (fun r => ((s.withCtx t (c.after s.now s.up)).tile t).spanBusy t (some (Fmt.a f)) r.1 r.2.1 r.2.2.1 r.2.2.2) ||
      (descHbm t ((s.withCtx t (c.after s.now s.up)).descOf t (s.tile t).execSlot (Fmt.a f) (Fmt.d f) (c.after s.now s.up))).any
        (fun r => ((s.withCtx t (c.after s.now s.up)).tile t).hbmBusy t (Fmt.a f) r.1 r.2.1 r.2.2)) = true := by
    simp only [State.withCtx_descOf, State.withCtx_dmaQueue, State.withCtx_tile, hdesc, descRanges_setSlot h.cur (Ctx.after_coils ..),
      Tile.spanBusy_setSlot h.cur (Ctx.after_coils ..), Tile.hbmBusy_setSlot]
    have hs := List.any_eq_false.mpr (fun r hr => Bool.not_eq_true _ ▸ hspan r hr)
    have hh := List.any_eq_false.mpr (fun r hr => Bool.not_eq_true _ ▸ hhbm r hr)
    simp [hs, hh, hroom]
  refine (if_neg hgood').trans ((if_neg hwait).trans ?_)
  show (((s.withCtx t (c.after s.now s.up)).updTile t (Tile.enqueue t (Fmt.a f) ((s.withCtx t (c.after s.now s.up)).dmaQueue t (Fmt.a f))
    ((s.withCtx t (c.after s.now s.up)).descOf t (s.tile t).execSlot (Fmt.a f) (Fmt.d f) (c.after s.now s.up)))).requests t (c.after s.now s.up).job
    ((s.withCtx t (c.after s.now s.up)).descOf t (s.tile t).execSlot (Fmt.a f) (Fmt.d f) (c.after s.now s.up)), Halt.ok) = _
  rw [State.withCtx_descOf, State.withCtx_dmaQueue, Ctx.after_job, hdesc]

/-- DQCFG sets the attributes of an empty queue: at most eight queues prefetch, and adds are for a job that may use them. -/
theorem execDqcfg_of_runs (hd : Fmt.d f = 0) (hf : fld f 10 24 = 0) (h7 : bit f 7 = false) (hempty : (s.dmaQueue t (Fmt.a f)).descs = [])
    (hpf : bit f 1 = true → ((s.tile t).dma.filter (fun e => decide (e.1 ≠ Fmt.a f) && bit e.2.attr 1)).length < 8)
    (hadd : bit f 8 = true → c.job.tput = true ∧ bit c.job.image.flags 3 = true) :
    exec (.dqcfg t f) s = ((s.withCtx t (c.after s.now s.up)).updTile t (fun T =>
      { T with dma := Tbl.set { } (Fmt.a f) { s.dmaQueue t (Fmt.a f) with attr := BitVec.ofNat 10 (fld f 0 10) } T.dma })).retired t := by
  refine issue_done h (decide_eq_true ⟨hd, hq, hf, h7⟩) ?_
  have hgood : ¬ ((bit (BitVec.ofNat 10 (fld f 0 10)) 1 &&
      decide (8 ≤ (((s.withCtx t (c.after s.now s.up)).tile t).dma.filter (fun e => decide (e.1 ≠ Fmt.a f) && bit e.2.attr 1)).length)) ||
      (bit (BitVec.ofNat 10 (fld f 0 10)) 8 && !((c.after s.now s.up).job.tput && bit (c.after s.now s.up).job.image.flags 3))) = true := by
    rw [bit_ofNat_fld f (by decide), bit_ofNat_fld f (by decide), State.withCtx_tile, Tile.setSlot_dma, Ctx.after_job]
    simp only [Bool.or_eq_true, Bool.and_eq_true, Bool.not_eq_true', Bool.and_eq_false_iff, decide_eq_true_eq, not_or, not_and, not_le]
    exact ⟨hpf, fun h8 => by simp [hadd h8]⟩
  have hidle : ¬ (!((s.withCtx t (c.after s.now s.up)).dmaQueue t (Fmt.a f)).descs.isEmpty) = true := by
    simp [hempty]
  refine (if_neg hgood).trans ((if_neg hidle).trans ?_)
  rw [← State.withCtx_dmaQueue t (Fmt.a f) (c.after s.now s.up) s]
  rfl

end

end Sys2Proof.Machine

open Sys2Proof Sys2Proof.Machine

/-- Settles O10: what each command requires of its tile holds of the context that has issued as of the one that issues. -/
theorem bankAndDmaCommands : Obligations.BankAndDmaCommands := by
  unfold Obligations.BankAndDmaCommands
  refine ⟨?_, ?_⟩
  · intro s t f c h hg hi m bs g hm hoff
    have hgoal : bankGoalOf (Fmt.imm f) = g := bankGoalOf_eq _
    have hexec := execBankpwr_of_runs h hg hi hm (hgoal ▸ hoff)
    rwa [hgoal] at hexec
  · intro s t f c h hq q g T v k
    refine ⟨?_, fun hd hf h7 hempty hpf hadd => execDqcfg_of_runs h hq hd hf h7 hempty hpf hadd⟩
    intro hd he d hgood hroom hspan hhbm
    exact execDpush_of_runs h hq hd he rfl hgood hroom hspan hhbm
end

section
/-!
PROOFS. The integer lanes of the vector engine (03 R116; 05 R147, R156; O11): an instruction whose lane type is 0 or 1 is its operation
lane by lane, and the saturating forms clamp to the limits of the lane type.
-/

set_option Elab.async false

namespace Sys2Proof.Machine

open Sys2Proof

/-- The issue of an instruction depends on its body at the word that has issued, and nowhere else. -/
theorem issue_congr {s : State} {t : Nat} {f : BitVec 48} {c : Ctx} (h : s.Runs t f c) (good : Bool) {body body' : Body}
    (hb : body (atIssue s t f c) (s.withCtx t (c.after s.now s.up)) = body' (atIssue s t f c) (s.withCtx t (c.after s.now s.up))) :
    issue t f good body s = issue t f good body' s := by
  rw [issue_of_issues h.toIssues, issue_of_issues h.toIssues, h.retire, h.retire, hb]

theorem goodV_int {n : Nat} {f : BitVec 48} (ht : Fmt.lt f ≤ 1) (hm : Fmt.vmod f = 0) (ha : 1 ≤ n) (hb : 2 ≤ n ∨ Fmt.b f = 0)
    (hc : Fmt.c f = 0) : goodV n [0, 1] f = true := by
  have hlt : Fmt.lt f = 0 ∨ Fmt.lt f = 1 := by omega
  simp [goodV, hlt, hm, ha, hb, hc]

section
variable {s : State} {t : Nat} {f : BitVec 48} {c : Ctx} (h : s.Runs t f c) {good : Bool} (hg : good = true)
include h hg

/-- A lane operation that depends on its word. -/
theorem issue_lanesOp_of (op : At → Lane3 → W32 × W32) :
    issue t f good (fun h => lanesOp (op h) h) s = s.putVec t f c (c.lanes f (fun a b x => op (atIssue s t f c) { a := a, b := b, c := x })) :=
  by
  have hb : issue t f good (fun h => lanesOp (op h) h) s = issue t f good (lanesOp (op (atIssue s t f c))) s := issue_congr h good rfl
  exact hb.trans (issue_lanesOp h hg _)

/-- An integer operation without a flag, on the enabled lanes. -/
theorem issue_intOp (op : Bool → W32 → W32 → W32) :
    issue t f good (intOp op) s = s.putVec t f c (c.lanes f (fun a b _ => (op (decide (Fmt.lt f = 1)) a b, 0))) :=
  issue_lanesOp_of h hg (fun h l => (op (unsignedLane h) l.a l.b, 0))

/-- An integer operation that saturates by the lane type. -/
theorem issue_intSat (op : Int → Int → Int) :
    issue t f good (intSat op) s = s.putVec t f c (c.lanes f (fun a b _ =>
      laneSat (decide (Fmt.lt f = 1)) (op (laneInt (decide (Fmt.lt f = 1)) a) (laneInt (decide (Fmt.lt f = 1)) b)))) :=
  issue_lanesOp_of h hg (fun h l => laneSat (unsignedLane h) (op (laneInt (unsignedLane h) l.a) (laneInt (unsignedLane h) l.b)))

end

/-- The limits of a lane type. -/
def laneLo (u : Bool) : Int := if u then 0 else -(2 ^ 31)
def laneHi (u : Bool) : Int := if u then 2 ^ 32 - 1 else 2 ^ 31 - 1

theorem laneLo_le_laneHi (u : Bool) : laneLo u ≤ laneHi u := by cases u <;> norm_num [laneLo, laneHi]

/-- Saturation clamps to the limits, and raises SAT where it does (03 R116). -/
theorem laneSat_eq (u : Bool) (x : Int) : laneSat u x =
    (BitVec.ofInt 32 (max (laneLo u) (min (laneHi u) x)), if laneLo u ≤ x ∧ x ≤ laneHi u then 0 else Fl.sat) := by
  have hl := laneLo_le_laneHi u
  have hy : (if u then clampI x 0 (2 ^ 32 - 1) else sat32 x) = max (laneLo u) (min (laneHi u) x) := by
    rw [← clampI_eq_max_min x hl]
    cases u with
    | false => simp only [laneLo, laneHi, sat32, Bool.false_eq_true, if_false, Int.reducePow, Int.reduceNeg, Int.reduceSub]
    | true => simp only [laneLo, laneHi, if_true]
  have hf : max (laneLo u) (min (laneHi u) x) ≠ x ↔ ¬ (laneLo u ≤ x ∧ x ≤ laneHi u) := by omega
  simp only [laneSat, hy, i32, Fl.when, hf, decide_not, Bool.not_eq_true', decide_eq_false_iff_not, ite_not]

end Sys2Proof.Machine

open Sys2Proof Sys2Proof.Machine

/-- Settles O11: every instruction is an operation on its enabled lanes. -/
theorem integerLaneResults : Obligations.IntegerLaneResults := by
  unfold Obligations.IntegerLaneResults
  intro s t f c h ht hm hc u out num lo hi sat
  have two := fun op => issue_intOp h (goodV_int (n := 2) ht hm (by decide) (.inl (by decide)) hc) op
  have twoSat : ∀ op, issue t f (goodV 2 [0, 1] f) (intSat op) s = sat op := fun op => by
    rw [issue_intSat h (goodV_int ht hm (by decide) (.inl (by decide)) hc)]
    simp only [laneSat_eq]
    rfl
  refine ⟨two _, two _, two _, two _, two _, two _, two _, two _, two _, two _, two _, twoSat _, twoSat _, twoSat _, fun hb => ?_⟩
  have one := goodV_int (n := 1) ht hm (by decide) (.inr hb) hc
  refine ⟨issue_intOp h one _, issue_intOp h one _, ?_⟩
  rw [← Ctx.after_reg s.now s.up]
  exact issue_lanesOp_of h one (fun h _ => ((h.c.reg (Fmt.a h.f)).setWidth 32, 0))
end

section
/-!
PROOFS. VSEL and the compares of lanes (03 R103; 05 R141, R147, R156; O12): one lane from each operand, and one bit for each lane.
-/

set_option Elab.async false

namespace Sys2Proof.Machine

open Sys2Proof

section
variable {s : State} {t : Nat} {f : BitVec 48} {c : Ctx} (h : s.Runs t f c) {good : Bool} (hg : good = true)
include h hg

/-- VSEL writes every lane, from va where the mask enables it and from vb elsewhere. -/
theorem issue_selOp : issue t f good selOp s = s.ran t ((c.after s.now s.up).setVec (Fmt.d f) (ofLanes ((List.range 64).map (fun j =>
    if bit (c.mask (Fmt.k f)) j then (c.vec (Fmt.a f)).extractLsb' (32 * j) 32 else (c.vec (Fmt.b f)).extractLsb' (32 * j) 32)))) := by
  refine (issue_set h hg rfl).trans ?_
  simp only [laneArgs_atIssue, zipIdx_map_range, List.map_map, Function.comp_def, atIssue_c, atIssue_f, Ctx.after_mask]

/-- A compare writes one bit for each enabled lane, and its flags are the vector engine's (03 R106). -/
theorem issue_maskOp (op : At → W32 → W32 → Bool × W32) :
    issue t f good (fun h => maskOp (fun l => op h l.a l.b) h) s =
      s.ran t (((c.after s.now s.up).setMask (Fmt.d f) (c.laneBits f (op (atIssue s t f c))).1).raise 1
        (c.laneBits f (op (atIssue s t f c))).2) := by
  refine (issue_set h hg rfl).trans ?_
  have hbit : ∀ b : Bool, b2n b % 2 ^ 1 = b2n b := fun b => by cases b <;> rfl
  simp only [laneArgs_atIssue, zipIdx_map_range, List.map_map, List.foldl_map, Function.comp_def, atIssue_c, atIssue_f, Ctx.after_mask,
    packNat_map_range, hbit, Nat.one_mul, Ctx.laneBits]

end

theorem goodCmp_of {lts : List Nat} {f : BitVec 48} (ht : Fmt.lt f ∈ lts) (hd : Fmt.d f < 8) (hc : Fmt.c f = 0) (hf : fld f 3 16 = 0)
    (hcc : fld f 0 3 ≤ 5) : goodCmp lts f = true := by
  simp [goodCmp, ht, hd, hc, hf, hcc]

end Sys2Proof.Machine

open Sys2Proof Sys2Proof.Machine

/-- Settles O12: VSEL is read lane by lane, and a compare is its condition on each enabled lane. -/
theorem laneSelectionAndCompares : Obligations.LaneSelectionAndCompares := by
  unfold Obligations.LaneSelectionAndCompares
  refine ⟨?_, ?_⟩
  · intro s t f c i h hm hc hi
    obtain ⟨rfl, ht⟩ | ⟨rfl, ht⟩ := hi
    · exact ⟨_, issue_selOp h (goodV_int ht hm (by decide) (.inl (by decide)) hc), fun j hj => extractLsb'_ofLanes hj _⟩
    · exact ⟨_, issue_selOp h (goodV_of ht hm (by decide) (.inl (by decide)) (.inr hc)), fun j hj => extractLsb'_ofLanes hj _⟩
  · intro s t f c h hd hc hf hcc num out
    refine ⟨fun ht => ?_, fun ht => ?_⟩
    · have hlt : Fmt.lt f = 0 ∨ Fmt.lt f = 1 := by omega
      refine (issue_maskOp h (goodCmp_of (by simpa using hlt) hd hc hf hcc)
        (fun h a b => (intCc (fld h.f 0 3) (laneInt (unsignedLane h) a) (laneInt (unsignedLane h) b), 0))).trans ?_
      have hnum : laneInt (unsignedLane (atIssue s t f c)) = num := by
        funext x
        by_cases h1 : Fmt.lt f = 1 <;> simp [laneInt, unsignedLane, num, h1]
      simp only [hnum]
      rfl
    · exact issue_maskOp h (goodCmp_of (by simp [ht]) hd hc hf hcc) (fun h => fcmp (fld h.f 0 3))
end

section
/-!
PROOFS. VCVT (03 R81, R113 to R115; 05 R147; O14): the elements of the target format, packed from the least significant end.
-/

set_option Elab.async false

namespace Sys2Proof.Machine

open Sys2Proof

theorem fmtBits_le (x : Nat) : fmtBits x ≤ 32 := by
  unfold fmtBits
  split <;> decide

/-- The two formats that VCVT's minor code names (05 R147). -/
theorem fld_minor_source (m : Byte) : fld m 4 4 = m.toNat / 16 := by
  rw [fld, Nat.shiftRight_eq_div_pow]
  exact Nat.mod_eq_of_lt (by omega)

theorem fld_minor_target (m : Byte) : fld m 0 4 = m.toNat % 16 := rfl

/-- The convert of element `j` of va, or the slot that a disabled lane keeps. -/
def Ctx.converted (src dst : Nat) (f : BitVec 48) (c : Ctx) (j : Nat) : Nat × W32 :=
  if bit (c.mask (Fmt.k f)) j then cvt src dst (fld (c.vec (Fmt.a f)) (fmtBits src * j) (fmtBits src))
  else (fld (c.vec (Fmt.d f)) (fmtBits dst * j) (fmtBits dst), 0)

theorem execVcvt_of_runs {s : State} {t : Nat} {minor : Byte} {f : BitVec 48} {c : Ctx} (h : s.Runs t f c)
    (hpair : cvtPair (minor.toNat / 16) (minor.toNat % 16) = true) (hg : goodV 1 [0] f = true) :
    let e := c.converted (minor.toNat / 16) (minor.toNat % 16) f
    exec (.vcvt t minor f) s = s.ran t (((c.after s.now s.up).setVec (Fmt.d f)
      (BitVec.ofNat 2048 (packNat (fmtBits (minor.toNat % 16)) ((List.range 64).map (fun j => (e j).1))))).raise 1
      ((List.range 64).foldl (fun a j => a ||| (e j).2) 0)) := by
  rw [← fld_minor_source, ← fld_minor_target] at hpair ⊢
  refine (issue_set h (by rw [hpair, hg]; rfl) rfl).trans ?_
  simp only [atIssue_c, atIssue_f, Ctx.after_mask, Ctx.after_vec, List.map_map, List.foldl_map, Function.comp_def, Ctx.converted]

theorem fld_mod (x : BitVec n) (lo w : Nat) : fld x lo w % 2 ^ w = fld x lo w := Nat.mod_mod _ _

end Sys2Proof.Machine

open Sys2Proof Sys2Proof.Machine

/-- Settles O14: each slot of the target holds the convert of its element or what it held, and nothing stands above element 63. -/
theorem convertResults : Obligations.ConvertResults := by
  unfold Obligations.ConvertResults
  intro s t minor f c h src dst hpair hg ws wd x old
  have hwd : wd * 64 ≤ 2048 := by have := fmtBits_le dst; omega
  refine ⟨_, _, execVcvt_of_runs h hpair hg, fun j hj => ?_, fun n hn => getLsbD_packed (Nat.mul_comm wd 64 ▸ hn) _, ?_⟩
  · rw [fld_packed hwd hj, Ctx.converted]
    split
    · rfl
    · exact fld_mod ..
  · refine congrArg (fun g => (List.range 64).foldl g 0) (funext fun a => funext fun j => ?_)
    rw [Ctx.converted]
    split <;> rfl
end

section
/-!
PROOFS. The reductions of the vector engine (05 R157; O16): a level of the tree halves the lanes, and its sums are those of lane i and lane
i + 2^j.
-/

set_option Elab.async false

namespace Sys2Proof.Machine

open Sys2Proof

/-! ## The tree (05 R157) -/

/-- Level `j`: lane i takes lane i + 2^j for every i below 2^j. -/
def treeSums (op : W32 → W32 → W32 × W32) (r : List W32 × W32) (j : Nat) : List W32 × W32 :=
  let sum := fun (i : Nat) => op (r.1.getD i 0) (r.1.getD (i + 2 ^ j) 0)
  ((List.range (2 ^ j)).map (fun i => (sum i).1), (List.range (2 ^ j)).foldl (fun fl i => fl ||| (sum i).2) r.2)

/-- The two halves of a list, element by element. -/
theorem zip_halves (xs : List W32) {h : Nat} (hl : xs.length = h + h) :
    (xs.take h).zip (xs.drop h) = (List.range h).map (fun i => (xs.getD i 0, xs.getD (i + h) 0)) := by
  refine List.ext_getElem (by simp [hl]) (fun i hi hi' => ?_)
  have hlt : i < h := by simpa using hi'
  simp [List.getD, Nat.add_comm i h, show i < xs.length by omega, show h + i < xs.length by omega]

theorem treeLevel_eq_treeSums (op : W32 → W32 → W32 × W32) {j : Nat} {r : List W32 × W32} (hl : r.1.length = 2 ^ (j + 1)) :
    treeLevel op (2 ^ j) r = treeSums op r j := by
  have hh : r.1.length = 2 ^ j + 2 ^ j := by omega
  simp only [treeLevel, treeSums, zip_halves r.1 hh, List.map_map, List.foldl_map, Function.comp_def]

/-- The levels of a tree over 2^n lanes, from the widest down. -/
theorem foldl_treeLevel (op : W32 → W32 → W32 × W32) (n : Nat) (r : List W32 × W32) (hl : r.1.length = 2 ^ n) :
    ((List.range n).reverse.map (2 ^ ·)).foldl (fun r h => treeLevel op h r) r = (List.range n).reverse.foldl (treeSums op) r := by
  induction n generalizing r with
  | zero => rfl
  | succ n ih =>
    rw [List.range_succ, List.reverse_append, List.reverse_singleton, List.singleton_append, List.map_cons, List.foldl_cons, List.foldl_cons,
      treeLevel_eq_treeSums op hl]
    exact ih _ (by simp [treeSums])

theorem treeReduce_eq (op : W32 → W32 → W32 × W32) {xs : List W32} (hl : xs.length = 64) :
    treeReduce op xs = (([5, 4, 3, 2, 1, 0].foldl (treeSums op) (xs, 0)).1.getD 0 0, ([5, 4, 3, 2, 1, 0].foldl (treeSums op) (xs, 0)).2) := by
  have h := foldl_treeLevel op 6 (xs, 0) hl
  have hhead : ∀ l : List W32, l.headD 0 = l.getD 0 0 := fun l => by cases l <;> rfl
  rw [treeReduce, hhead]
  exact congrArg (fun r : List W32 × W32 => (r.1.getD 0 0, r.2)) h

/-! ## VRED (05 R147, R157) -/

theorem issue_redOp {s : State} {t : Nat} {f : BitVec 48} {c : Ctx} (h : s.Runs t f c) {good : Bool} (hg : good = true) (unit : W32)
    (op : W32 → W32 → W32 × W32) :
    let r := [5, 4, 3, 2, 1, 0].foldl (treeSums op) ((List.range 64).map (fun j =>
      if bit (c.mask (Fmt.k f)) j then (c.vec (Fmt.a f)).extractLsb' (32 * j) 32 else unit), 0)
    issue t f good (redOp unit op) s = s.ran t (((c.after s.now s.up).setVec (Fmt.d f) ((r.1.getD 0 0).setWidth 2048)).raise 1 r.2) := by
  refine (issue_set h hg rfl).trans ?_
  simp only [lanesOf, zipIdx_map_range, List.map_map, Function.comp_def, atIssue_c, atIssue_f, Ctx.after_mask, Ctx.after_vec,
    treeReduce_eq op (List.length_map .. |>.trans List.length_range)]

end Sys2Proof.Machine

open Sys2Proof Sys2Proof.Machine

/-- Settles O16: the lanes are reduced level by level. -/
theorem reductionResults : Obligations.ReductionResults := by
  unfold Obligations.ReductionResults
  intro s t f c h hm hb hc lane level out
  refine ⟨fun ht => ?_, fun ht => ?_⟩
  · have hg := goodV_of (n := 1) ht hm (by decide) (.inr hb) (.inr hc)
    exact ⟨issue_redOp h hg _ _, issue_redOp h hg _ _⟩
  · have hg : goodV 1 [0] f = true := by simp [goodV, ht, hm, hb, hc]
    have hsat : ∀ x : Int, laneSat false x =
        (BitVec.ofInt 32 (max (-(2 ^ 31)) (min (2 ^ 31 - 1) x)), if -(2 ^ 31) ≤ x ∧ x < 2 ^ 31 then 0 else Fl.sat) := fun x => by
      rw [laneSat_eq]
      simp only [laneLo, laneHi, Bool.false_eq_true, if_false, Int.le_sub_one_iff]
    refine (issue_redOp h hg _ _).trans ?_
    simp only [hsat]
    rfl
end

section
/-!
PROOFS. The lane generators and the hash assist (05 R170, R172, R175; 12 R396, R397; O17): VRAND and TSTORE draw with counters that do not
meet, and HSHA reads one range and writes its digest.
-/

set_option Elab.async false

namespace Sys2Proof.Machine

open Sys2Proof

/-! ## VRAND (05 R170) -/

/-- New words under a mask, lane by lane. -/
theorem maskLanes_words (m : W64) (old : BitVec 2048) (g : Nat → W32) :
    (maskLanes m (lanesOf old) ((List.range 64).map (fun j => (g j, 0)))).1 =
      (List.range 64).map (fun j => if bit m j then g j else old.extractLsb' (32 * j) 32) := by
  simp only [maskLanes, lanesOf, List.zip_map', zipIdx_map_range, List.map_map, Function.comp_def]
  refine List.map_congr_left (fun j _ => ?_)
  split <;> rfl

/-- Lane `j` of VRAND's result: a draw of its generator, or what a disabled lane holds. -/
def State.drawn (s : State) (c : Ctx) (f : BitVec 48) (j : Nat) : W32 :=
  if bit (c.mask (Fmt.k f)) j then laneRng c.seed (s.tid c) j c.inv (BitVec.ofNat 64 (2 ^ 47 + c.draw.toNat))
  else (c.vec (Fmt.d f)).extractLsb' (32 * j) 32

theorem execVrand_of_runs {s : State} {t : Nat} {f : BitVec 48} {c : Ctx} (h : s.Runs t f c) (hg : goodV 0 [1] f = true) :
    exec (.vrand t f) s = s.ran t { (c.after s.now s.up).setVec (Fmt.d f) (ofLanes ((List.range 64).map (s.drawn c f))) with draw := c.draw + 1 } := by
  refine (issue_set h hg rfl).trans ?_
  have hidx : BitVec.ofNat 64 (2 ^ 47) + c.draw.setWidth 64 = BitVec.ofNat 64 (2 ^ 47 + c.draw.toNat) := by
    rw [BitVec.ofNat_add, BitVec.ofNat_toNat]
  simp only [atIssue_c, atIssue_f, Ctx.after_mask, Ctx.after_vec, Ctx.after_seed, Ctx.after_inv, Ctx.after_draw, State.withCtx_tid, State.after_tid,
    maskLanes_words, hidx]
  rfl

/-! ## TSTORE's counters (05 R175) -/

/-- A TSTORE whose counter would reach 2^47 ends its job. -/
theorem execTstore_overflow {s : State} {t : Nat} {minor : Byte} {f : BitVec 48} {c : Ctx} (h : s.Runs t f c) (hminor : minor.toNat ≤ 3)
    (hc : Fmt.c f = 0) (hm : Fmt.vmod f = 0) (ht : Fmt.lt f = 2) {j : Nat} (hj : j < 64) (hbit : bit (c.mask (Fmt.k f)) j = true)
    (hlt : 2 ^ 47 ≤ (c.reg (Fmt.d f)).toNat % 2 ^ 47 + j) :
    exec (.tstore t minor f) s =
      .next (((s.withCtx t (c.after s.now s.up)).tileEvent t 0x2 1).failJob t (s.tile t).execSlot St.dataError (locInstr t c.pc)) := by
  have hany : (List.range 64).any (fun j => bit ((c.after s.now s.up).mask (Fmt.k f)) j &&
      decide (2 ^ 47 ≤ fld ((c.after s.now s.up).reg (Fmt.d f)) 0 47 + j)) = true := by
    rw [List.any_eq_true]
    refine ⟨j, List.mem_range.mpr hj, ?_⟩
    rw [Ctx.after_mask, Ctx.after_reg, hbit, Bool.true_and]
    exact decide_eq_true hlt
  exact issue_bad h (decide_eq_true ⟨hminor, hc, hm, ht⟩) (if_pos hany)

/-! ## HSHA (05 R172) -/

theorem execHsha_of_runs {s : State} {t : Nat} {f : BitVec 48} {c : Ctx} (h : s.Runs t f c) (hg : goodI false true false f = true) (ha : Fmt.a f < 30)
    {x n o : Nat} (hx : fld (c.reg (Fmt.a f)) 0 24 = x) (hn : (c.reg (Fmt.a f + 1)).toNat = n) (ho : fld (c.reg (Fmt.a f + 2)) 0 22 = o)
    (hhigh : fld (c.reg (Fmt.a f)) 24 40 = 0) (hvq : refVq x = true) (hn4 : n % 4 = 0) (hsize : n ≤ storeSize (refSt x))
    (hhigh' : fld (c.reg (Fmt.a f + 2)) 22 42 = 0) (ho64 : o % 64 = 0)
    (hu : s.usable t c [Range.rd (refSt x) (refOff x) n, Range.wr 1 o 64]) :
    exec (.hsha t f) s =
      ((s.withCtx t (c.after s.now s.up)).stores t [(1, o, sha512 (s.bytesAt t (refSt x) (refOff x) n))]).retired t := by
  refine issue_done h (by simp [hg, ha]) ?_
  have hallow : (atIssue s t f c).allows [rangeOf false x n, { write := true, st := 1, off := o, n := 64 }] = true := hu.allows
  have hneed : (s.withCtx t (c.after s.now s.up)).need t [rangeOf false x n, { write := true, st := 1, off := o, n := 64 }] = .ok := hu.need_withCtx h
  have hread := hu.reads (xs := [(refSt x, refOff x, n)]) (fun y hy => by
    obtain rfl := List.mem_singleton.mp hy
    exact List.mem_cons_self ..) f (c.after s.now s.up) 4
  simp only [atIssue_c, atIssue_f, atIssue_p, atIssue_w, Ctx.after_reg, hx, hn, ho, hhigh, hvq, hn4, Nat.not_lt.mpr hsize, hhigh', ho64, hallow, hneed, hread,
    ne_eq, not_true_eq_false, or_self, decide_false, Bool.not_true, Bool.or_self, Bool.false_eq_true, if_false, List.map_cons, List.map_nil,
    List.headD_cons, State.bytesOf_eq_bytesAt, State.stores_eq_foldl, State.withCtx_execSlot, List.foldl_cons, List.foldl_nil]

end Sys2Proof.Machine

open Sys2Proof Sys2Proof.Machine

/-- Settles O17: the draws of VRAND lane by lane, the counter that TSTORE does not reach, and HSHA. -/
theorem randomAndHash : Obligations.RandomAndHash := by
  unfold Obligations.RandomAndHash
  intro s t f c h
  refine ⟨fun hg => ⟨_, execVrand_of_runs h hg, fun j hj => extractLsb'_ofLanes hj _⟩, fun minor hminor hc hm ht => ?_, fun hg ha => ?_⟩
  · rintro ⟨j, hj, hbit, hlt⟩
    exact execTstore_overflow h hminor hc hm ht hj hbit hlt
  · intro x n o hhigh hvq hn4 hsize hhigh' ho64 hu
    exact execHsha_of_runs h hg ha rfl rfl rfl hhigh hvq hn4 hsize hhigh' ho64 hu
end

section
/-!
PROOFS. VLD, VST and VMOVG (02 R66, R68; 05 R147, R151, R156, R159; O15): the words of 256 bytes of a store or of a coil's element, under
the mask.
-/

set_option Elab.async false

namespace Sys2Proof.Machine

open Sys2Proof

/-! ## Formats (05 R147) -/

theorem goodVm_store {f : BitVec 48} (hs : Fmt.store f ≤ 2) (hf : fld f 26 6 = 0) (hb : bit f 22 = false) : goodVm f = true := by
  simp [goodVm, hs, hf, hb]

theorem goodVm_coil {f : BitVec 48} (hs : Fmt.store f ≤ 2) (hf : fld f 26 6 = 0) (ho : fld f 0 22 = 0) : goodVm f = true := by
  simp [goodVm, hs, hf, ho]

/-! ## What VLD loads and VST stores (05 R156) -/

/-- The register that VLD makes of 256 bytes: their words on the lanes that the mask enables, the old ones elsewhere. -/
def Ctx.loaded (f : BitVec 48) (bs : List Byte) (c : Ctx) : BitVec 2048 :=
  ofLanes ((List.range 64).map (fun j => if bit (c.mask (fld f 23 3)) j then w32At (4 * j) bs else (c.vec (Fmt.d f)).extractLsb' (32 * j) 32))

theorem ofLanes_maskLanes {f : BitVec 48} {bs : List Byte} {c : Ctx} (hl : bs.length = 256) :
    ofLanes (maskLanes (c.mask (fld f 23 3)) (lanesOf (c.vec (Fmt.d f))) ((wordsOf bs).map (fun w => (w, (0 : W32))))).1 = c.loaded f bs := by
  rw [wordsOf, hl, List.map_map]
  exact congrArg ofLanes (maskLanes_words _ _ _)

/-- The writes of VST at an offset of a store: the whole register, or the words of the enabled lanes where some lane is disabled. -/
def Ctx.laneWrites (f : BitVec 48) (st off : Nat) (c : Ctx) : List (Nat × Nat × List Byte) :=
  let word := fun (j : Nat) => w32Bytes ((c.vec (Fmt.d f)).extractLsb' (32 * j) 32)
  if c.mask (fld f 23 3) = BitVec.allOnes 64 then [(st, off, (List.range 64).flatMap word)]
  else ((List.range 64).filter (fun j => bit (c.mask (fld f 23 3)) j)).map (fun j => (st, off + 4 * j, word j))

theorem putLanes_eq (s : State) (t : Nat) (f : BitVec 48) (c : Ctx) (st off : Nat) :
    (atIssue s t f c).putLanes (c.mask (fld f 23 3)) (lanesOf (c.vec (Fmt.d f))) st off (s.withCtx t (c.after s.now s.up)) =
      (s.withCtx t (c.after s.now s.up)).stores t (c.laneWrites f st off) := by
  rw [State.stores_eq_foldl, State.withCtx_execSlot]
  by_cases hm : c.mask (fld f 23 3) = BitVec.allOnes 64
  · simp only [At.putLanes, Ctx.laneWrites, hm, if_true, bytesOfWords, lanesOf, List.flatMap_map, List.foldl_cons, List.foldl_nil]
    rfl
  · simp only [At.putLanes, Ctx.laneWrites, hm, if_false, lanesOf, zipIdx_map_range, List.foldl_map, List.foldl_filter]
    rfl

/-! ## The coils of the context that has issued (02 R66, R68) -/

section
variable {s : State} {t : Nat} {f : BitVec 48} {c : Ctx}

/-- An instruction pops the head of a coil that is open, of its element's size, and not empty. -/
theorem At.pop_head (h : s.Runs t f c) {n bytes : Nat} (ho : (c.coil n).isOpen = true) (he : (c.coil n).elem = bytes)
    (hne : (c.coil n).empty = false) (hb : bytes ≠ 0)
    (hu : s.usable t c [Range.rd (c.coil n).store ((c.coil n).base + (c.coil n).head) bytes]) (eng : Nat) (k : List Byte → State → State × Halt) :
    (atIssue s t f c).pop eng n bytes k (s.withCtx t (c.after s.now s.up)) =
      k (s.bytesAt t (c.coil n).store ((c.coil n).base + (c.coil n).head) bytes) (s.withCtx t ((c.after s.now s.up).setCoil n (c.coil n).pop)) := by
  simp only [At.pop, atIssue_c, Ctx.after_coil, ho, he, hne, ne_eq, not_true_eq_false, decide_false, Bool.not_true, Bool.or_self, Bool.false_eq_true,
    if_false, hu.reading h hb, atIssue_set]

variable {n bytes : Nat} (ho : (c.coil n).isOpen = true) (hr : (c.coil n).receive = false) (he : (c.coil n).elem = bytes)
include ho hr he

theorem atIssue_coilGood : (atIssue s t f c).coilGood n bytes = true := by simp [At.coilGood, ho, hr, he]

/-- At a full coil that drops, an instruction's element is dropped (02 R68). -/
theorem At.push_dropped {k' : Coil} (hroom : (c.coil n).room = .dropped k') (put : Nat → Nat → State → State × Halt) :
    (atIssue s t f c).push n bytes put (s.withCtx t (c.after s.now s.up)) =
      ((s.withCtx t ((c.after s.now s.up).setCoil n k')).tileEvent t 0x22 1, .ok) := by
  simp only [At.push, atIssue_c, atIssue_p, Ctx.after_coil, atIssue_coilGood ho hr he, hroom, atIssue_set, Bool.not_true, Bool.false_eq_true, if_false]

/-- A coil that takes the element: it is written at the tail, and then the tail advances (02 R66). -/
theorem At.push_ready (h : s.Runs t f c) {k' : Coil} (hroom : (c.coil n).room = .ready k')
    (hneed : s.need t [Range.wr k'.store (k'.base + k'.tail) bytes] = .ok) {put : Nat → Nat → State → State × Halt} {u : State}
    (hput : put k'.store (k'.base + k'.tail) (s.withCtx t (c.after s.now s.up)) = (u, .ok)) :
    let v := (u.updCtx t (s.tile t).execSlot (Ctx.setCoil n k'.pushed)).updTile t Tile.wake
    (atIssue s t f c).push n bytes put (s.withCtx t (c.after s.now s.up)) =
      (if k'.overrun ≠ (c.coil n).overrun then v.tileEvent t 0x22 1 else v, .ok) := by
  have hneed' : (s.withCtx t (c.after s.now s.up)).need t [{ write := true, st := k'.store, off := k'.base + k'.tail, n := bytes }] = .ok :=
    (State.need_withCtx h.cur (Ctx.after_coils ..) _).trans hneed
  simp only [At.push, atIssue_c, atIssue_p, Ctx.after_coil, atIssue_coilGood ho hr he, hroom, hneed', hput, Bool.not_true, Bool.false_eq_true, if_false]
  rfl

end

/-! ## VLD, VMOVG and VST (05 R147, R156, R159) -/

section
variable {s : State} {t : Nat} {f : BitVec 48} {c : Ctx} (h : s.Runs t f c)
include h

theorem execVld_store (hs : Fmt.store f ≤ 2) (hf : fld f 26 6 = 0) (hb : bit f 22 = false) {a : Nat}
    (ha : (c.reg (Fmt.a f) + Fmt.moff f).toNat = a) (hn : a % 4 = 0) (hu : s.usable t c [Range.rd (Fmt.store f) a 256]) :
    exec (.vld t f) s = s.ran t ((c.after s.now s.up).setVec (Fmt.d f) (c.loaded f (s.bytesAt t (Fmt.store f) a 256))) := by
  refine issue_set h (goodVm_store hs hf hb) (g := Ctx.setVec (Fmt.d f) (c.loaded f (s.bytesAt t (Fmt.store f) a 256))) ?_
  simp only [atIssue_addr ha hn, atIssue_f, atIssue_c, hb, Bool.false_eq_true, if_false, hu.reading h (by decide), Ctx.after_mask, Ctx.after_vec,
    ofLanes_maskLanes (State.length_bytesAt ..)]

theorem execVld_coil (hs : Fmt.store f ≤ 2) (hf : fld f 26 6 = 0) (hb : bit f 22 = true) (hoff : fld f 0 22 = 0)
    (ho : (c.coil (Fmt.a f)).isOpen = true) (he : (c.coil (Fmt.a f)).elem = 256) (hne : (c.coil (Fmt.a f)).empty = false)
    (hu : s.usable t c [Range.rd (c.coil (Fmt.a f)).store ((c.coil (Fmt.a f)).base + (c.coil (Fmt.a f)).head) 256]) :
    exec (.vld t f) s = s.ran t (((c.after s.now s.up).setCoil (Fmt.a f) (c.coil (Fmt.a f)).pop).setVec (Fmt.d f)
      (c.loaded f (s.bytesAt t (c.coil (Fmt.a f)).store ((c.coil (Fmt.a f)).base + (c.coil (Fmt.a f)).head) 256))) := by
  refine issue_done h (goodVm_coil hs hf hoff) ?_
  simp only [atIssue_f, hb, if_true, At.pop_head h ho he hne (by decide) hu, At.done, At.set, atIssue_c, atIssue_p, atIssue_w, State.withCtx_updCtx,
    Ctx.after_mask, Ctx.after_vec, ofLanes_maskLanes (State.length_bytesAt ..)]

theorem execVmovg_of_runs (ht : Fmt.lt f ≤ 2) (hk : Fmt.k f = 0) (hb : Fmt.b f = 0) (hc : Fmt.c f = 0) (hf : fld f 6 13 = 0) :
    let x : W32 := (c.vec (Fmt.a f)).extractLsb' (32 * fld f 0 6) 32
    exec (.vmovg t f) s = s.putReg t f c (if Fmt.lt f = 0 then x.signExtend 64 else x.setWidth 64) := by
  refine (issue_set h (decide_eq_true ⟨ht, hk, hb, hc, hf⟩) rfl).trans ?_
  simp only [atIssue_f, atIssue_c, Ctx.after_vec]
  rfl

theorem execVst_store (hs : Fmt.store f ≤ 2) (hf : fld f 26 6 = 0) (hb : bit f 22 = false) {a : Nat}
    (ha : (c.reg (Fmt.a f) + Fmt.moff f).toNat = a) (hn : a % 4 = 0) (hu : s.usable t c [Range.wr (Fmt.store f) a 256]) :
    exec (.vst t f) s = ((s.withCtx t (c.after s.now s.up)).stores t (c.laneWrites f (Fmt.store f) a)).retired t := by
  refine issue_done h (goodVm_store hs hf hb) ?_
  simp only [atIssue_addr ha hn, atIssue_f, atIssue_c, hb, Bool.false_eq_true, if_false, hu.access_write h (by decide), Ctx.after_mask, Ctx.after_vec,
    putLanes_eq]

section
variable (hs : Fmt.store f ≤ 2) (hf : fld f 26 6 = 0) (hb : bit f 22 = true) (hoff : fld f 0 22 = 0)
  (ho : (c.coil (Fmt.a f)).isOpen = true) (hr : (c.coil (Fmt.a f)).receive = false) (he : (c.coil (Fmt.a f)).elem = 256)
include hs hf hb hoff ho hr he

theorem execVst_dropped {k' : Coil} (hroom : (c.coil (Fmt.a f)).room = .dropped k') :
    exec (.vst t f) s = ((s.withCtx t ((c.after s.now s.up).setCoil (Fmt.a f) k')).tileEvent t 0x22 1).retired t := by
  refine issue_done h (goodVm_coil hs hf hoff) ?_
  simp only [atIssue_f, hb, if_true]
  exact At.push_dropped ho hr he hroom _

theorem execVst_ready {k' : Coil} (hroom : (c.coil (Fmt.a f)).room = .ready k')
    (hneed : s.need t [Range.wr k'.store (k'.base + k'.tail) 256] = .ok) :
    let v := ((((s.withCtx t (c.after s.now s.up)).stores t (c.laneWrites f k'.store (k'.base + k'.tail))).updCtx t (s.tile t).execSlot
      (Ctx.setCoil (Fmt.a f) k'.pushed)).updTile t Tile.wake)
    exec (.vst t f) s = (if k'.overrun ≠ (c.coil (Fmt.a f)).overrun then v.tileEvent t 0x22 1 else v).retired t := by
  refine issue_done h (goodVm_coil hs hf hoff) ?_
  simp only [atIssue_f, atIssue_c, hb, if_true, Ctx.after_mask, Ctx.after_vec]
  exact At.push_ready ho hr he h hroom hneed (congrArg (·, Halt.ok) (putLanes_eq ..))

end

end

end Sys2Proof.Machine

open Sys2Proof Sys2Proof.Machine

/-- Settles O15: each form of VLD and VST, with a store and with a coil, and VMOVG. -/
theorem vectorLoadsAndStores : Obligations.VectorLoadsAndStores := by
  unfold Obligations.VectorLoadsAndStores
  refine ⟨?_, ?_⟩
  · intro s t f c h m old pick st a k
    exact ⟨fun hs hf => ⟨fun hb hn hu => execVld_store h hs hf hb rfl hn hu,
      fun hb hoff ho he hne hu => execVld_coil h hs hf hb hoff ho he hne hu⟩, execVmovg_of_runs h⟩
  · intro s t f c h hs hf m v word puts st a n k s1
    exact ⟨fun hb hn hu => execVst_store h hs hf hb rfl hn hu, fun hb hoff ho hr he =>
      ⟨fun k' hroom => execVst_dropped h hs hf hb hoff ho hr he hroom, fun k' hroom hneed => execVst_ready h hs hf hb hoff ho hr he hroom hneed⟩⟩
end

section
/-!
PROOFS. TSTORE (03 R95, R96; 04 R137; 05 R159, R175; O21): each element is rounded by 16 bits of its lane's generator; FP16 and INT8
elements go out in words, BQ elements in whole blocks.
-/

set_option Elab.async false

namespace Sys2Proof.Machine

open Sys2Proof

/-! ## Random bits (05 R175) -/

/-- The 16 bits that round element `j`. -/
def State.tsBits (s : State) (f : BitVec 48) (c : Ctx) (j : Nat) : Nat :=
  (laneRng c.seed (s.tid c) j c.inv (BitVec.ofNat 64 ((c.reg (Fmt.d f)).toNat % 2 ^ 47 + j))).toNat % 65536

/-! ## FP16 and INT8 (03 R95) -/

/-- A part of a list over a range. -/
theorem take_drop_map_range {α : Type} (g : Nat → α) {a b n : Nat} (h : a + b ≤ n) :
    (((List.range n).map g).drop a).take b = (List.range b).map (fun y => g (a + y)) := by
  refine List.ext_getElem (by simp; omega) (fun i hi hi' => ?_)
  simp

/-- Element `j` as it is stored, with its flags: rounded on an enabled lane, zero elsewhere. -/
def Ctx.tsElement (half : Prop) [Decidable half] (bits : Nat → Nat) (f : BitVec 48) (c : Ctx) (j : Nat) : Nat × W32 :=
  let x : W32 := (c.vec (Fmt.a f)).extractLsb' (32 * j) 32
  if bit (c.mask (Fmt.k f)) j then
    if half then ((tsF16 x (bits j)).1.toNat, (tsF16 x (bits j)).2) else (((tsI8 x (bits j)).1 % 256).toNat, (tsI8 x (bits j)).2)
  else (0, 0)

/-- Elements in a word. -/
def tsPer (half : Prop) [Decidable half] : Nat := if half then 2 else 4

/-- Word `w` of the result. -/
def Ctx.tsWord (half : Prop) [Decidable half] (bits : Nat → Nat) (f : BitVec 48) (c : Ctx) (w : Nat) : List Byte :=
  leBytes 4 (packNat (32 / tsPer half) ((List.range (tsPer half)).map (fun y => (c.tsElement half bits f (w * tsPer half + y)).1)))

/-- The words that hold an enabled lane are written at an offset of a store, and the flags raised. -/
def Ctx.tsPut (half : Prop) [Decidable half] (bits : Nat → Nat) (f : BitVec 48) (c : Ctx) (t slot st off : Nat) (u : State) : State :=
  (((List.range (64 / tsPer half)).filter (fun w => (List.range (tsPer half)).any (fun y => bit (c.mask (Fmt.k f)) (w * tsPer half + y)))).foldl
    (fun u w => u.ownWrite t slot st (off + 4 * w) (c.tsWord half bits f w)) u).updCtx t slot
    (Ctx.raise 1 ((List.range 64).foldl (fun a j => a ||| (c.tsElement half bits f j).2) 0))

section
variable (s : State) (t : Nat) (f : BitVec 48) (c : Ctx) (half : Prop) [Decidable half] (bits : Nat → Nat)

/-- The elements as the model takes them from the lanes. -/
theorem tsElements_eq : (lanesOf (c.vec (Fmt.a f))).zipIdx.map (fun e => if !bit (c.mask (Fmt.k f)) e.2 then (0, (0 : W32)) else if decide half then
      ((tsF16 e.1 (bits e.2)).1.toNat, (tsF16 e.1 (bits e.2)).2) else (((tsI8 e.1 (bits e.2)).1 % 256).toNat, (tsI8 e.1 (bits e.2)).2)) =
    (List.range 64).map (c.tsElement half bits f) := by
  rw [lanesOf, zipIdx_map_range, List.map_map]
  refine List.map_congr_left (fun j _ => ?_)
  by_cases hb : bit (c.mask (Fmt.k f)) j = true
  · by_cases hh : half <;> simp [Ctx.tsElement, hb, hh]
  · simp [Ctx.tsElement, hb]

theorem tsPer_eq : (if decide half then 16 else 8) = 32 / tsPer half ∧ 32 / (32 / tsPer half) = tsPer half := by
  unfold tsPer
  by_cases hh : half <;> simp [hh]

theorem tsPer_words {w : Nat} (hw : w < 64 / tsPer half) : w * tsPer half + tsPer half ≤ 64 := by
  unfold tsPer at *
  split_ifs at * <;> omega

theorem tsPlain_eq (st off : Nat) (u : State) :
    (atIssue s t f c).tsPlain (c.mask (Fmt.k f)) (decide half) bits st off u = (c.tsPut half bits f t (s.tile t).execSlot st off u, .ok) := by
  obtain ⟨hbits, hper⟩ := tsPer_eq half
  have hword : ∀ w ∈ List.range (64 / tsPer half),
      (((List.range 64).map (c.tsElement half bits f)).drop (w * tsPer half)).take (tsPer half) =
        (List.range (tsPer half)).map (fun y => c.tsElement half bits f (w * tsPer half + y)) := fun w hw =>
    take_drop_map_range _ (tsPer_words half (List.mem_range.mp hw))
  have hwords : (List.range (64 / tsPer half)).map (fun j =>
      (j, packNat (32 / tsPer half) (((((List.range 64).map (c.tsElement half bits f)).drop (j * tsPer half)).take (tsPer half)).map (·.1)),
        (List.range (tsPer half)).any (fun x => bit (c.mask (Fmt.k f)) (j * tsPer half + x)))) =
      (List.range (64 / tsPer half)).map (fun j =>
      (j, packNat (32 / tsPer half) ((List.range (tsPer half)).map (fun y => (c.tsElement half bits f (j * tsPer half + y)).1)),
        (List.range (tsPer half)).any (fun x => bit (c.mask (Fmt.k f)) (j * tsPer half + x)))) :=
    List.map_congr_left (fun w hw => by rw [hword w hw, List.map_map]; rfl)
  simp only [At.tsPlain, atIssue_c, atIssue_f, Ctx.after_vec, tsElements_eq, hbits, hper, hwords, List.foldl_map]
  rw [Ctx.tsPut, List.foldl_filter]
  rfl

end

/-! ## BQ targets (04 R137) -/

/-- The channel of each block that a TSTORE writes. -/
def Bq.tsChannels (q : Bq) (k0 : Nat) : List Nat :=
  (List.range (64 / q.size)).map (fun j => (k0 + j) / 16 / q.blocks * 16 + (k0 + j) % 16)

/-- The elements of block `j`, a disabled lane counting as zero. -/
def Ctx.tsPart (f : BitVec 48) (q : Bq) (c : Ctx) (j : Nat) : List W32 :=
  (((List.range 64).map (fun i => if bit (c.mask (Fmt.k f)) i then (c.vec (Fmt.a f)).extractLsb' (32 * i) 32 else 0)).drop (j * q.size)).take q.size

/-- The blocks that a TSTORE quantises. -/
def Ctx.tsQuantised (f : BitVec 48) (q : Bq) (bits : Nat → Nat) (c : Ctx) : List (Nat × QBlock) :=
  tsBlocks q bits ((List.range (64 / q.size)).map (fun j => (j, c.tsPart f q j))) (q.cap - q.used)

/-- The writes of a TSTORE to a BQ target: codes, scales, grog entries and channel words, and the descriptor's count of grog entries used. -/
def Ctx.tsStreams (f : BitVec 48) (q : Bq) (bits : Nat → Nat) (d k0 : Nat) (c : Ctx) : List (Nat × Nat × List Byte) :=
  let bs := c.tsQuantised f q bits
  [(refSt q.code, refOff q.code + k0 * q.codeBytes, bs.flatMap (fun b => b.2.code q (q.seq + k0 + b.1))),
   (refSt q.scale, refOff q.scale + 4 * k0, bs.flatMap (fun b => b.2.entry (q.seq + k0 + b.1))),
   (refSt q.grog, refOff q.grog + 4 * q.used, bs.flatMap (fun b => b.2.grog (q.seq + k0 + b.1)))] ++
  ((q.tsChannels k0).zip bs).map (fun e =>
    (refSt q.chan, refOff q.chan + 4 * e.1, leBytes 4 (b2n (q.blocks = 1 && (constantOf (c.tsPart f q e.2.1)).isSome)))) ++
  [(refSt d, refOff d + 20, leBytes 4 ((q.used + (bs.map (fun b => b.2.escs.length)).sum) * 65536 + q.cap))]

/-- The ranges that a TSTORE to a BQ target writes. -/
def Bq.tsRanges (q : Bq) (d k0 : Nat) : List Range :=
  [rangeOf true (q.code + k0 * q.codeBytes) (64 / q.size * q.codeBytes), rangeOf true (q.scale + 4 * k0) (4 * (64 / q.size)),
    rangeOf true q.grog (4 * q.cap), rangeOf true d 32] ++ (q.tsChannels k0).map (fun y => rangeOf true (q.chan + 4 * y) 4)

theorem tsBlock_eq {s : State} {t : Nat} {f : BitVec 48} {c : Ctx} (h : s.Runs t f c) {d k0 : Nat} {q : Bq} {four : Bool} (bits : Nat → Nat)
    (hd : refVq d = true) (hq : bqOf (s.bytesAt t (refSt d) (refOff d) 32) = q)
    (hgood : q.good (w64At 0 (s.bytesAt t (refSt d) (refOff d) 32)) = true) (hfour : q.four = four) (hk : k0 + 64 / q.size ≤ q.groups * q.blocks * 16)
    (hdesc : s.usable t c [Range.rd (refSt d) (refOff d) 32]) (hu : s.usable t c (q.tsRanges d k0)) :
    (atIssue s t f c).tsBlock (c.mask (Fmt.k f)) four bits d k0 (s.withCtx t (c.after s.now s.up)) =
      (State.quantised (atIssue s t f c) ((c.tsQuantised f q bits).map (·.2))
        ((s.withCtx t (c.after s.now s.up)).stores t (c.tsStreams f q bits d k0)), .ok) := by
  have hallow := hu.allows (f := f)
  have hneed := hu.need_withCtx h
  unfold Bq.tsRanges Bq.tsChannels at hallow hneed
  have htensor := h.tensor (n := 0) hdesc hd (hq.symm ▸ hgood) (Nat.zero_le _)
  simp only [hq] at htensor
  have hxs : (lanesOf (c.vec (Fmt.a f))).zipIdx.map (fun e => if bit (c.mask (Fmt.k f)) e.2 then e.1 else 0) =
      (List.range 64).map (fun i => if bit (c.mask (Fmt.k f)) i then (c.vec (Fmt.a f)).extractLsb' (32 * i) 32 else 0) := by
    rw [lanesOf, zipIdx_map_range, List.map_map]
    rfl
  simp only [At.tsBlock, htensor, hfour, Nat.not_lt.mpr hk, hallow, hneed, hxs, atIssue_c, atIssue_f, atIssue_p, atIssue_w, Ctx.after_vec, ne_eq,
    not_true_eq_false, decide_false, Bool.not_true, Bool.or_self, Bool.false_eq_true, if_false]
  rw [State.stores_eq_foldl, State.withCtx_execSlot, Ctx.tsStreams, List.foldl_append, List.foldl_append, List.foldl_map]
  rfl

/-! ## The three forms -/

/-- No enabled lane's counter reaches 2^47. -/
theorem tsInRange {f : BitVec 48} {c : Ctx}
    (hidx : ∀ j, j < 64 → bit (c.mask (Fmt.k f)) j = true → (c.reg (Fmt.d f)).toNat % 2 ^ 47 + j < 2 ^ 47) :
    (List.range 64).any (fun j => bit (c.mask (Fmt.k f)) j && decide (2 ^ 47 ≤ fld (c.reg (Fmt.d f)) 0 47 + j)) = false := by
  rw [List.any_eq_false]
  intro j hj hjb
  obtain ⟨hbit, hle⟩ := (Bool.and_eq_true ..).mp hjb
  exact absurd (hidx j (List.mem_range.mp hj) hbit) (Nat.not_lt.mpr (of_decide_eq_true hle))

section
variable {s : State} {t : Nat} {minor : Byte} {f : BitVec 48} {c : Ctx} (h : s.Runs t f c) (hminor : minor.toNat ≤ 3) (hc : Fmt.c f = 0)
  (hm : Fmt.vmod f = 0) (ht : Fmt.lt f = 2) (hidx : ∀ j, j < 64 → bit (c.mask (Fmt.k f)) j = true → (c.reg (Fmt.d f)).toNat % 2 ^ 47 + j < 2 ^ 47)
include h hminor hc hm ht hidx

theorem execTstore_range (hone : minor.toNat ≤ 1) (h30 : bit (c.reg (Fmt.b f)) 30 = false) {x : Nat} (hx : fld (c.reg (Fmt.b f)) 0 24 = x)
    (hv : refVq x = true) (hu : s.usable t c [Range.wr (refSt x) (refOff x) (if minor.toNat = 0 then 128 else 64)]) :
    exec (.tstore t minor f) s = (c.tsPut (minor.toNat = 0) (s.tsBits f c) f t (s.tile t).execSlot (refSt x) (refOff x)
      (s.withCtx t (c.after s.now s.up))).retired t := by
  refine issue_done h (decide_eq_true ⟨hminor, hc, hm, ht⟩) ?_
  have hacc := hu.access_write h (by split_ifs <;> decide)
  simp only [atIssue_c, atIssue_f, Ctx.after_mask, Ctx.after_reg, tsInRange hidx, Bool.false_eq_true, if_false, if_pos hone, h30, hx,
    hv, decide_eq_true_eq, hacc, tsPlain_eq, Bool.not_true, Ctx.after_seed, Ctx.after_inv, State.withCtx_tid, State.after_tid]
  rfl

theorem execTstore_coil (hone : minor.toNat ≤ 1) (h30 : bit (c.reg (Fmt.b f)) 30 = true) {u : State}
    (hpush : (atIssue s t f c).push (fld (c.reg (Fmt.b f)) 24 5) (if minor.toNat = 0 then 128 else 64)
      (fun st off u => (c.tsPut (minor.toNat = 0) (s.tsBits f c) f t (s.tile t).execSlot st off u, .ok)) (s.withCtx t (c.after s.now s.up)) = (u, .ok)) :
    exec (.tstore t minor f) s = u.retired t := by
  refine issue_done h (decide_eq_true ⟨hminor, hc, hm, ht⟩) ?_
  simp only [atIssue_c, atIssue_f, Ctx.after_mask, Ctx.after_reg, tsInRange hidx, Bool.false_eq_true, if_false, if_pos hone, h30,
    if_true, decide_eq_true_eq, tsPlain_eq, Ctx.after_seed, Ctx.after_inv, State.withCtx_tid, State.after_tid]
  exact hpush

theorem execTstore_blocks (htwo : 2 ≤ minor.toNat) {x k0 : Nat} (hx : fld (c.reg (Fmt.b f)) 0 24 = x) (hk0 : fld (c.reg (Fmt.b f)) 24 24 = k0)
    (hv : refVq x = true) {q : Bq} (hq : bqOf (s.bytesAt t (refSt x) (refOff x) 32) = q)
    (hgood : q.good (w64At 0 (s.bytesAt t (refSt x) (refOff x) 32)) = true) (hfour : q.four = decide (minor.toNat = 3))
    (hk : k0 + 64 / q.size ≤ q.groups * q.blocks * 16) (hdesc : s.usable t c [Range.rd (refSt x) (refOff x) 32])
    (hu : s.usable t c (q.tsRanges x k0)) :
    exec (.tstore t minor f) s = (State.quantised (atIssue s t f c) ((c.tsQuantised f q (s.tsBits f c)).map (·.2))
      ((s.withCtx t (c.after s.now s.up)).stores t (c.tsStreams f q (s.tsBits f c) x k0))).retired t := by
  refine issue_done h (decide_eq_true ⟨hminor, hc, hm, ht⟩) ?_
  have hnot : ¬ minor.toNat ≤ 1 := by omega
  simp only [atIssue_c, atIssue_f, Ctx.after_mask, Ctx.after_reg, tsInRange hidx, Bool.false_eq_true, if_false, if_neg hnot, hx, hk0,
    Ctx.after_seed, Ctx.after_inv, State.withCtx_tid, State.after_tid]
  exact tsBlock_eq h _ hv hq hgood hfour hk hdesc hu

end

end Sys2Proof.Machine

open Sys2Proof Sys2Proof.Machine

/-- Settles O21: elements to a range and to a coil, and blocks of a BQ tensor. -/
theorem temperingStores : Obligations.TemperingStores := by
  unfold Obligations.TemperingStores
  intro s t minor f c h hminor hc hm ht m base dest x rnd k at' hidx
  refine ⟨?_, ?_⟩
  · intro hone half one el per words put
    exact ⟨fun h30 hv hu => execTstore_range h hminor hc hm ht hidx hone h30 rfl hv hu,
      fun h30 _ _ _ u hpush => execTstore_coil h hminor hc hm ht hidx hone h30 hpush⟩
  · intro htwo hv w0 q k0 n chans hgood hfour hk hdesc hu xs part bs used
    exact execTstore_blocks h hminor hc hm ht hidx htwo rfl rfl hv rfl hgood hfour hk hdesc hu
end

section
/-!
PROOFS. JEND of a program and of a built-in solver (05 R176; 06 R186, R209 to R212; O25).
-/

set_option Elab.async false

namespace Sys2Proof.Machine

open Sys2Proof

/-! ## Which of its two meanings JEND has (05 R176; 06 R186) -/

theorem State.builtinAt_of_program {s : State} {t : Nat} {c : Ctx} (hc : (s.tile t).cur = some c) (hp : c.job.builtin = false) :
    s.builtinAt t = none := by
  simp [State.builtinAt, hc, hp]

theorem execJend_of_program {s : State} {t : Nat} (f : BitVec 48) (h : s.builtinAt t = none) :
    exec (.jend t f) s = issue t f (goodI false false false f) (fun h s =>
      if !(s.tile h.p).quiet then (s, .hold)
      else if h.c.trap then (s, .bad St.fpTrap 0)
      else (s.commitEnd h.p h.w h.c, .ok)) s := by
  show execJend t f s = _
  rw [execJend, h]

theorem execJend_of_builtin {s : State} {t : Nat} {f : BitVec 48} {c : Ctx} (ht : t < 68) (h : s.builtinAt t = some c) :
    exec (.jend t f) s = .next (s.endBuiltin t (s.tile t).execSlot c none) := by
  show execJend t f s = _
  rw [execJend, h]
  exact if_pos ht

/-! ## The end of a job with and without the commit unit (06 R209 to R212) -/

/-- A context that does not hold the commit unit is DONE, with the values of MBWR. -/
theorem State.commitEnd_done {p w : Nat} {c : Ctx} {s : State} (h : ∀ u, (s.tile p).cu = some u → u.owner ≠ w) :
    s.commitEnd p w c = s.endJob p w { st := St.done, staged := c.staged, r0 := c.result } := by
  unfold State.commitEnd
  split
  · next u hu => rw [if_neg (h u hu)]
  · rfl

/-- A context that holds the commit unit ends with the unit's status and staged values. -/
theorem State.commitEnd_frozen {p w : Nat} {c : Ctx} {s : State} {u : CommitUnit} (h : (s.tile p).cu = some u) (ho : u.owner = w) :
    s.commitEnd p w c = (s.freeze p w c u).endJob p w
      { st := u.status c.jobAcc, flags := u.flags, staged := mergeStaged c.staged u.staged, mapped := !u.mailboxes.isEmpty, r0 := c.result } := by
  have hm : (s.tile p).mapped w = !u.mailboxes.isEmpty := by simp [Tile.mapped, h, ho]
  rw [State.commitEnd, h]
  simp only [ho, if_true, hm]

section
variable {s : State} {t : Nat} {f : BitVec 48} {c : Ctx} (h : s.Runs t f c) (hg : goodI false false false f = true) (htrap : c.trap = false)
  (hd : (s.tile t).dma.all (fun e => e.2.descs.isEmpty) = true) (hs : (s.tile t).sb.all (fun e => !e.2.valid) = true)
include h hg htrap hd hs

/-- JEND of a program on a quiet tile ends its job as its commit unit says. -/
theorem execJend_of_runs : exec (.jend t f) s =
    ((s.withCtx t (c.after s.now s.up)).commitEnd t (s.tile t).execSlot (c.after s.now s.up)).retired t := by
  rw [execJend_of_program f (State.builtinAt_of_program h.cur h.program)]
  refine issue_done h hg ?_
  simp [Tile.quiet, hd, hs, htrap]

end

end Sys2Proof.Machine

open Sys2Proof Sys2Proof.Machine

/-- Settles O25: the end of a program with and without the commit unit, and of a built-in image. -/
theorem jobEnds : Obligations.JobEnds := by
  unfold Obligations.JobEnds
  refine ⟨?_, fun s t f c ht hc hl hb hr => execJend_of_builtin ht (by simp [State.builtinAt, hc, hl, hb, hr])⟩
  intro s t f c h hg htrap hd hs w k s1
  have hcu : (s1.tile t).cu = (s.tile t).cu := by rw [State.withCtx_tile, Tile.setSlot_cu]
  refine ⟨fun hu => ?_, fun u hu ho => ?_⟩
  · rw [execJend_of_runs h hg htrap hd hs, State.commitEnd_done (hcu ▸ hu), Ctx.after_staged]
  · rw [execJend_of_runs h hg htrap hd hs, State.commitEnd_frozen (hcu.trans hu) ho, Ctx.after_staged, Ctx.after_jobAcc]
end

section
/-!
PROOFS. The events of a tile's contexts (05 R184; 06 R210; 11 R363 to R367, R378; O39): the budget watchdog, the switch to the other context, and
the contexts that leave a tile and come to it.
-/

set_option Elab.async false

namespace Sys2Proof.Machine

open Sys2Proof

/-- An event of a unit that exists has its effect. -/
theorem within_of_lt {n bound : Nat} (h : n < bound) (u : State) : within n bound u = .next u := if_pos h

variable {s : State} {t : Nat}

/-! ## The budget watchdog (05 R184; 06 R210) -/

/-- The context in slot `w` ends where it has run its budget before its deadline. -/
def State.expire (t w : Nat) (s : State) : State :=
  match s.ctx t w with
  | some c =>
    if c.live = true ∧ c.job.deadline.all (fun d => decide (s.now < d)) = true ∧ c.job.image.wcet ≠ 0 ∧ c.job.image.wcet ≤ s.wdCycles t c then
      s.failJob t w St.overrun 0 else s
  | none => s

theorem State.watchdogBudget_eq (t : Nat) (s : State) : s.watchdogBudget t = (s.expire t 0).expire t 1 := by
  unfold State.watchdogBudget
  rw [List.foldl_ext _ (fun u w => u.expire t w) s (fun u w _ => ?_), List.foldl_cons, List.foldl_cons, List.foldl_nil]
  unfold State.expire
  cases u.ctx t w with
  | none => rfl
  | some c =>
    refine if_congr ?_ rfl rfl
    rw [Bool.and_eq_true, Bool.and_eq_true, decide_eq_true_eq, and_assoc]
    refine and_congr_right' (and_congr_left' (Bool.eq_iff_iff.mp ?_))
    cases c.job.deadline with
    | none => rfl
    | some d =>
      rw [Option.all_some]
      exact (decide_not (p := d ≤ u.now)).symm.trans (decide_eq_decide.mpr Nat.not_le)

/-! ## The switch to the other context (11 R363, R378) -/

theorem State.shut_iff : s.shut t = true ↔ (s.dom t).closed = true ∧ (s.dom t).target ≠ 0 := by
  simp [State.shut]

theorem State.shut_eq_false (h : (s.dom t).closed = false ∨ (s.dom t).target = 0) : s.shut t = false := by
  rw [Bool.eq_false_iff, ne_eq, State.shut_iff]
  rintro ⟨hclosed, htarget⟩
  cases h with
  | inl h => exact absurd (hclosed.symm.trans h) (by decide)
  | inr h => exact htarget h

theorem State.contextSwitch_shut (h : s.shut t = true) : s.contextSwitch t = s := if_pos h

section
variable (h : s.shut t = false)
include h

theorem State.contextSwitch_running (hr : (s.tile t).running = true) : s.contextSwitch t = s.wake t := by
  simp only [State.contextSwitch, h, hr, Bool.false_eq_true, if_false, if_true]

theorem State.contextSwitch_other (hr : (s.tile t).running = false) {c : Ctx} (hc : (s.tile t).slot (1 - (s.tile t).execSlot) = some c) :
    s.contextSwitch t = if c.live && decide (c.wait = none) then
      ((s.setTile t { s.tile t with exec1 := !(s.tile t).exec1 }).tileEvent t 0x28 1).wake t else s := by
  simp only [State.contextSwitch, h, hr, hc, Bool.false_eq_true, if_false]

theorem State.contextSwitch_alone (hr : (s.tile t).running = false) (hn : (s.tile t).slot (1 - (s.tile t).execSlot) = none) :
    s.contextSwitch t = s := by
  simp only [State.contextSwitch, h, hr, hn, Bool.false_eq_true, if_false]

end

/-! ## Evictions (11 R364, R367) -/

/-- A live context has been blocked for longer than block_us. -/
def State.longBlocked (s : State) (c : Ctx) : Bool :=
  c.live && decide (c.wait ≠ none) && decide (c.waitSince + 1000 * fld s.kiln.admitCtl 16 16 < s.now)

theorem State.longBlocked_of {c : Ctx} (hl : c.live = true) (hw : c.wait ≠ none) (ht : c.waitSince + 1000 * fld s.kiln.admitCtl 16 16 < s.now) :
    s.longBlocked c = true := by
  simp [State.longBlocked, hl, hw, ht]

theorem State.not_longBlocked_of {c : Ctx} (h : c.live = false ∨ c.wait = none ∨ s.now ≤ c.waitSince + 1000 * fld s.kiln.admitCtl 16 16) :
    s.longBlocked c = false := by
  obtain h | h | h := h <;> simp [State.longBlocked, h]

theorem State.contextEvict_reserved (h : (s.tile t).reserved = true) : s.contextEvict t = (s.swapAll t).loadReserved t := if_pos h

section
variable (hres : (s.tile t).reserved = false)
include hres

/-- Nothing leaves a tile one of whose contexts is not blocked for that long. -/
theorem State.contextEvict_still {w : Nat} (hw : w < 2) (h : s.ctx t w = none ∨ ∃ c, s.ctx t w = some c ∧ s.longBlocked c = false) :
    s.contextEvict t = s := by
  have hw : w = 0 ∨ w = 1 := by omega
  obtain h | ⟨c, h, hc⟩ := h
  · replace h : (s.tile t).slot w = none := h
    obtain rfl | rfl := hw <;> simp [State.contextEvict, hres, h]
  · replace h : (s.tile t).slot w = some c := h
    unfold State.longBlocked at hc
    obtain rfl | rfl := hw <;>
      simp only [State.contextEvict, hres, h, hc, Bool.false_and, Bool.and_false, Bool.not_false, Bool.false_eq_true, if_false, if_true]

/-- The first runnable context that no tile but `t` can take, and that `t` could host with slot `w` free (R364). -/
def State.homeless (t w : Nat) (s : State) : Option Swapped :=
  (s.runnable.filter (fun e => (s.setTile t ((s.tile t).setSlot w none)).canHost t e &&
    s.mapped.all (fun q => decide (q = t) || !s.eligible q e.ctx.job.image))).head?

/-- Of two contexts that have been blocked for that long, the one that leaves makes room for the first runnable context without another tile. -/
theorem State.contextEvict_blocked {c0 c1 : Ctx} (h0 : (s.tile t).ctx0 = some c0) (h1 : (s.tile t).ctx1 = some c1)
    (hb0 : s.longBlocked c0 = true) (hb1 : s.longBlocked c1 = true) {w : Nat}
    (hw : ((if c1.waitSince < c0.waitSince then [1, 0] else [0, 1]).filter (fun w => (s.tile t).evictable w)).head? = some w) :
    s.contextEvict t = match s.homeless t w with
      | some e => ((s.swapOut t w).event 0x1C7 0 1).swapIn t e
      | none => s := by
  obtain ⟨ws, hws⟩ : ∃ ws, (if c1.waitSince < c0.waitSince then [1, 0] else [0, 1]).filter (fun w => (s.tile t).evictable w) = w :: ws :=
    List.head?_eq_some_iff.mp hw
  have hs0 : (s.tile t).slot 0 = some c0 := h0
  have hs1 : (s.tile t).slot 1 = some c1 := h1
  unfold State.longBlocked at hb0 hb1
  simp only [State.contextEvict, hres, hs0, hs1, hb0, hb1, hws, Bool.and_self, Bool.not_true, Bool.false_eq_true, if_false]
  unfold State.homeless
  generalize s.runnable.filter _ = es
  cases es <;> rfl

end

/-! ## Swap-ins (11 R365) -/

theorem State.contextSwapIn_held (h : s.noDispatch = true) : s.contextSwapIn t = s := if_pos h

theorem State.contextSwapIn_none (h : s.noDispatch = false) (hn : State.firstFor t s.readyList s = none) : s.contextSwapIn t = s := by
  simp only [State.contextSwapIn, h, hn, Bool.false_eq_true, if_false]

theorem State.contextSwapIn_some (h : s.noDispatch = false) {e : Swapped} (he : State.firstFor t s.readyList s = some e) :
    s.contextSwapIn t = s.swapIn t e := by
  simp only [State.contextSwapIn, h, he, Bool.false_eq_true, if_false]

end Sys2Proof.Machine

open Sys2Proof Sys2Proof.Machine

/-- Settles O39: each event by the cases of its effect. -/
theorem contextEvents : Obligations.ContextEvents := by
  unfold Obligations.ContextEvents
  intro s t ht
  have hswitch : exec (.contextSwitch t) s = .next (s.contextSwitch t) := within_of_lt ht _
  have hevict : exec (.contextEvict t) s = .next (s.contextEvict t) := within_of_lt ht _
  have hswapIn : exec (.contextSwapIn t) s = .next (s.contextSwapIn t) := within_of_lt ht _
  rw [hswitch, hevict, hswapIn]
  refine ⟨?_, ⟨fun hc hg => ?_, fun hopen => ?_⟩, fun hres => ?_, fun hres => ⟨?_, ?_⟩, fun hd => ?_, fun hd => ?_⟩
  · exact (within_of_lt ht _).trans (congrArg _ (State.watchdogBudget_eq t s))
  · rw [State.contextSwitch_shut (State.shut_iff.mpr ⟨hc, hg⟩)]
  · have hshut := State.shut_eq_false hopen
    refine ⟨fun c hc hl hw hr => ?_, fun hr => ?_, fun c hr hc hblocked => ?_, fun hr hn => ?_⟩
    · rw [State.contextSwitch_other hshut hr hc, if_pos (by simp [hl, hw])]
    · rw [State.contextSwitch_running hshut hr]
    · rw [State.contextSwitch_other hshut hr hc, if_neg (by obtain h | h := hblocked <;> simp [h])]
    · rw [State.contextSwitch_alone hshut hr hn]
  · rw [State.contextEvict_reserved hres]
  · intro w hw h
    rw [State.contextEvict_still hres hw (h.imp id (fun ⟨c, hc, hb⟩ => ⟨c, hc, State.not_longBlocked_of hb⟩))]
  · intro c0 c1 h0 h1 hl0 hl1 hw0 hw1 ht0 ht1 w hw room
    rw [State.contextEvict_blocked hres h0 h1 (State.longBlocked_of hl0 hw0 ht0) (State.longBlocked_of hl1 hw1 ht1) hw]
    show match s.homeless t w with
      | some e => _
      | none => _
    cases s.homeless t w <;> rfl
  · rw [State.contextSwapIn_held hd]
  · cases he : State.firstFor t s.readyList s with
    | none => exact congrArg _ (State.contextSwapIn_none hd he)
    | some e => exact congrArg _ (State.contextSwapIn_some hd he)
end

section
/-!
PROOFS. The frame of the register instructions (05 R141, R147; 03 R106; O58): the flags of an instruction go to its unit's sticky copy too, which
the stated frame keeps as it was.
-/

set_option Elab.async false

namespace Sys2Proof.Machine

open Sys2Proof

/-! ## An instruction that raises a flag, and its unit's sticky copy (03 R106) -/

/-- What an instruction that changed its context alone leaves there. -/
theorem State.OnlyCtx.of_ran {s u : State} {t : Nat} {k k' : Ctx} (h : s.OnlyCtx u t k) (hr : s.ran t k' = .next u) : k = k' := by
  obtain rfl := Host.Outcome.next.inj hr
  have hcur := h.cur
  rw [State.tileEvent_cur, State.withCtx_cur] at hcur
  exact (Option.some.inj hcur).symm

@[simp] theorem Ctx.after_unitFlags (now up : Nat) (c : Ctx) : (c.after now up).unitFlags = c.unitFlags := by rw [Ctx.after_eq]

theorem Ctx.setReg_unitFlags (n : Nat) (v : W64) (c : Ctx) : (c.setReg n v).unitFlags = c.unitFlags := by
  unfold Ctx.setReg
  split <;> rfl

/-- A DIV by zero leaves DZ in the sequencer's sticky copy (03 R106, R117). -/
theorem execDiv_zero_unitFlags {s u : State} {t : Nat} {f : BitVec 48} {c k : Ctx} (h : s.Runs t f c) (hg : goodAlu f = true)
    (hb : sOf (bit f 0) (c.reg (Fmt.b f)) = 0) (hu : exec (.div t f) s = .next u) (honly : s.OnlyCtx u t k) :
    k.unitFlags = Tbl.set 0 0 (Tbl.get 0 0 c.unitFlags ||| Fl.dz) c.unitFlags := by
  have hrun : s.putFlagged t f c _ _ = .next u := (issue_flagOp h hg divS).symm.trans hu
  have hfl : (divS (bit f 0) (c.reg (Fmt.a f)) (c.reg (Fmt.b f))).2 = Fl.dz := by rw [divS_eq, if_pos hb]
  rw [honly.of_ran hrun, hfl]
  show Tbl.set 0 0 (Tbl.get 0 0 (Ctx.setReg _ _ _).unitFlags ||| (Fl.dz &&& Fl.arith)) (Ctx.setReg _ _ _).unitFlags = _
  rw [Ctx.setReg_unitFlags, Ctx.after_unitFlags, show Fl.dz &&& Fl.arith = Fl.dz by decide]

/-! ## A tile whose job divides by zero -/

/-- A program of one CODE section. -/
def divImage : Image :=
  { sections := [{ kind := 1, persistent := false, reload := false, store := 3, fileOff := 0, length := 0, storeOff := 0, size := 0x40000 }] }

/-- A job of it at its first instruction, all registers zero and no flag raised. -/
def divCtx : Ctx := { job := { image := divImage }, live := true }

/-- Tile 0 at FIRE with that job. -/
def divState : State := { tiles := [(0, { ctx0 := some divCtx })], doms := [(0, { rung := 0, target := 0 })] }

theorem divState_runs : divState.Runs 0 0 divCtx :=
  { unit := by decide, cur := rfl, live := rfl, fire := rfl, program := rfl, ready := rfl, budget := .inl rfl, unhurt := rfl, noTrap := rfl,
    code := by decide, clean := rfl, word := rfl, guard := by decide }

end Sys2Proof.Machine

open Sys2Proof Sys2Proof.Machine

/-- Refutes O58: a DIV of 0 by 0 raises DZ also in the sticky copy of its unit (03 R106), a field of the context that the frame of the scalar
instructions does not name among those that change. -/
theorem not_instructionIssueAndFrame : ¬ Obligations.InstructionIssueAndFrame := by
  unfold Obligations.InstructionIssueAndFrame
  rintro ⟨-, -, hframe⟩
  obtain ⟨hscalar, -⟩ := hframe (.div 0 0) divState 0 0 divCtx rfl divState_runs
  obtain ⟨u, k, hu, honly, -, hk⟩ := hscalar (by decide)
  have hraised : k.unitFlags = [(0, Fl.dz)] := execDiv_zero_unitFlags divState_runs rfl rfl hu honly
  have hkept : k.unitFlags = (divCtx.after divState.now divState.up).unitFlags  := by
    rw [hk]
  rw [hraised, Ctx.after_unitFlags] at hkept
  exact absurd hkept (by decide)
end

section
/-!
PROOFS. The factor unit (06 R189 to R197; O23): a command whose block is good and whose ranges may be used writes what its factorisation, its
update or its solve gives, where that meets no singular pivot.
-/

set_option Elab.async false

namespace Sys2Proof.Machine

open Sys2Proof

/-! ## The command block -/

@[simp] theorem facBlock_after (now up a : Nat) (c : Ctx) : facBlock (c.after now up) a = facBlock c a := by
  simp only [facBlock, Ctx.after_reg]

@[simp] theorem facBlockGood_after (now up a : Nat) (stream solve : Bool) (modes : Nat) (c : Ctx) :
    facBlockGood (c.after now up) a stream solve modes = facBlockGood c a stream solve modes := by
  simp only [facBlockGood, facBlock_after, Ctx.after_reg]

@[simp] theorem Ctx.after_refGood (now up x n : Nat) (c : Ctx) : (c.after now up).refGood x n = c.refGood x n := by
  simp only [Ctx.refGood, Ctx.after_job]

/-! ## A command that may use its ranges -/

/-- The bytes that a factor command has of each range that it reads. -/
def FacJob.inputs (t : Nat) (s : State) (j : FacJob) : List (List Byte) := j.reads.map (fun x => s.bytesOf t (refSt x.1) (refOff x.1) x.2)

/-- The references of a factor command are good and its ranges may be used at once (06 R189; 05 R160). -/
structure State.FacReady (s : State) (t : Nat) (f : BitVec 48) (c : Ctx) (j : FacJob) : Prop extends State.Runs s t f c where
  refs : ∀ x ∈ j.reads ++ j.writes, c.refGood x.1 x.2 = true
  usable : s.usable t c (j.reads.map (facRange false) ++ j.writes.map (facRange true))

/-- What a factor command leaves that writes `ws` and has gathered `acc`: the flags are those of the factor unit (03 R106). -/
def State.factored (s : State) (t : Nat) (c : Ctx) (ws : List (Nat × List Byte)) (acc : FacAcc) : State :=
  (s.withCtx t ((c.after s.now s.up).raise 3 acc.flags)).stores t (ws.map (fun w => (refSt w.1, refOff w.1, w.2)))

/-- FCHOL and FLDL read the source matrix and write a factor without right-hand sides. -/
def FacBlock.cholJob (b : FacBlock) : FacJob := { reads := [(b.src, 4 * b.n * b.n)], writes := [(b.fac, facBytes b.n 0)] }

/-- FQR and FGIVENS read rows with their right-hand sides, FGIVENS also the factor, and write a factor. -/
def FacBlock.streamJob (cleared : Bool) (b : FacBlock) : FacJob where
  reads := [(b.src, 4 * b.n * b.rows), (b.rhs, b.rhsBytes)] ++ (if cleared then [] else [(b.fac, facBytes b.n b.r)])
  writes := [(b.fac, facBytes b.n b.r)]

/-- FUPDATE reads a factor and a vector and writes the factor. -/
def FacBlock.updateJob (b : FacBlock) : FacJob := { reads := [(b.fac, facBytes b.n 0), (b.src, 4 * b.n)], writes := [(b.fac, facBytes b.n 0)] }

/-- FTRSV reads a factor and right-hand sides and writes as many solutions. -/
def FacBlock.solveJob (b : FacBlock) : FacJob := { reads := [(b.fac, facBytes b.n 0), (b.rhs, 4 * b.n * b.r)], writes := [(b.out, 4 * b.n * b.r)] }

section
variable {s : State} {t : Nat} {f : BitVec 48} {c : Ctx}

/-- A command that has all its inputs and meets no singular pivot writes its results (06 R195, R197). -/
theorem State.FacReady.factor_eq {j : FacJob} (h : s.FacReady t f c j) (fac : Option Nat)
    {go : List (List Byte) → Option (List (Nat × List Byte) × FacAcc)} {ws : List (Nat × List Byte)} {acc : FacAcc}
    (hgo : go (j.inputs t s) = some (ws, acc)) (hbad : acc.bad = false) :
    (atIssue s t f c).factor j fac go (s.withCtx t (c.after s.now s.up)) = (s.factored t c ws acc, .ok) := by
  have hrefs : (j.reads ++ j.writes).all (fun r => c.refGood r.1 r.2) = true := List.all_eq_true.mpr h.refs
  have hallow := h.usable.allows (f := f)
  have hneed := h.usable.need_withCtx h.toRuns
  have hread : (atIssue s t f c).reads 3 (j.reads.map (fun x => (refSt x.1, refOff x.1, x.2))) (s.withCtx t (c.after s.now s.up)) =
      (j.inputs t s, s.withCtx t (c.after s.now s.up), none) := by
    refine (h.usable.reads (fun y hy => ?_) f _ 3).trans (by rw [List.map_map]; rfl)
    obtain ⟨x, hx, rfl⟩ := List.mem_map.mp hy
    exact List.mem_append_left _ (List.mem_map_of_mem (f := facRange false) hx)
  simp only [At.factor, atIssue_c, atIssue_p, atIssue_w, Ctx.after_refGood, hrefs, hallow, hneed, hread, hgo, hbad, atIssue_set, Bool.not_true,
    Bool.or_self, Bool.false_eq_true, if_false]
  rw [State.factored, State.stores_eq_foldl, State.withCtx_execSlot, List.foldl_map]

variable (hg : goodE f = true) {b : FacBlock} (hb : facBlock c (Fmt.d f) = b)
include hg hb

/-! ## Factorisations (06 R191 to R193) -/

/-- FCHOL and FLDL, by what they make of the triangle of the source matrix. -/
theorem issue_cholBody (kind : Pivot → List (List W32) → Fac Factor) (hgood : facBlockGood c (Fmt.d f) false false 1 = true)
    (h : s.FacReady t f c b.cholJob) {r : Factor × FacAcc}
    (hr : kind b.pivot (triangle b.n b.upper (wordsOf (s.bytesOf t (refSt b.src) (refOff b.src) (4 * b.n * b.n)))) { } = r)
    (hbad : r.2.bad = false) :
    issue t f (goodE f) (cholBody kind) s = (s.factored t c [(b.fac, facArea b.n r)] r.2).retired t := by
  subst hb hr
  refine issue_done h.toRuns hg ?_
  simp only [cholBody, atIssue_c, atIssue_f, facBlock_after, facBlockGood_after, hgood, Bool.not_true, Bool.false_eq_true, if_false]
  exact h.factor_eq _ rfl hbad

/-- FQR and FGIVENS, by the square-root-free factor `f0` into which they stream their rows. -/
theorem issue_streamBody (cleared : Bool) (hgood : facBlockGood c (Fmt.d f) true false 1 = true) (hrows : cleared = true → b.n ≤ b.rows)
    (h : s.FacReady t f c (b.streamJob cleared)) {f0 : Factor}
    (hf : (if cleared then some (clearedFactor b.n b.r) else factorOf b.n b.r (s.bytesOf t (refSt b.fac) (refOff b.fac) (facBytes b.n b.r))) = some f0)
    (hkind : f0.kind = 2) {r : Factor × FacAcc}
    (hr : fgivens b.pivot f0 (streamRows b (wordsOf (s.bytesOf t (refSt b.src) (refOff b.src) (4 * b.n * b.rows)))
      (wordsOf (s.bytesOf t (refSt b.rhs) (refOff b.rhs) b.rhsBytes))) f0.acc = r) (hbad : r.2.bad = false) :
    issue t f (goodE f) (streamBody cleared) s = (s.factored t c [(b.fac, facArea b.n r)] r.2).retired t := by
  subst hb hr
  refine issue_done h.toRuns hg ?_
  have hrows' : (cleared && decide ((facBlock c (Fmt.d f)).rows < (facBlock c (Fmt.d f)).n)) = false := by
    cases cleared with
    | false => rfl
    | true => exact decide_eq_false (Nat.not_lt.mpr (hrows rfl))
  simp only [streamBody, atIssue_c, atIssue_f, facBlock_after, facBlockGood_after, hgood, hrows', Bool.not_true, Bool.or_self, Bool.false_eq_true,
    if_false]
  refine h.factor_eq _ ?_ hbad
  cases cleared with
  | false =>
    simp only [Bool.false_eq_true, if_false] at hf
    simp only [FacJob.inputs, FacBlock.streamJob, Bool.false_eq_true, if_false, List.map_cons, List.map_nil, List.cons_append,
      List.nil_append, List.getD_cons_succ, List.getD_cons_zero, hf, hkind, ne_eq, not_true_eq_false]
  | true =>
    obtain rfl := Option.some.inj hf
    rfl

/-- FUPDATE, by the LDLᵀ factor `f0` that it changes (06 R193, R194). -/
theorem issue_updateBody (hgood : facBlockGood c (Fmt.d f) false false 2 = true)
    (h : s.FacReady t f c b.updateJob) {f0 : Factor}
    (hf : factorOf b.n 0 (s.bytesOf t (refSt b.fac) (refOff b.fac) (facBytes b.n 0)) = some f0) (hkind : f0.kind = 1) {r : Factor × FacAcc}
    (hr : fupdate b.pivot (decide (b.mode = 1)) f0 (wordsOf (s.bytesOf t (refSt b.src) (refOff b.src) (4 * b.n))) f0.acc = r)
    (hbad : r.2.bad = false) :
    issue t f (goodE f) updateBody s = (s.factored t c [(b.fac, facArea b.n r)] r.2).retired t := by
  subst hb hr
  refine issue_done h.toRuns hg ?_
  simp only [updateBody, atIssue_c, atIssue_f, facBlock_after, facBlockGood_after, hgood, Bool.not_true, Bool.false_eq_true, if_false]
  refine h.factor_eq _ ?_ hbad
  simp only [FacJob.inputs, FacBlock.updateJob, List.map_cons, List.getD_cons_zero, hf, hkind, ne_eq, not_true_eq_false, if_false]
  rfl

/-! ## Solves (06 R189, R190) -/

/-- FTRSV, by the factor `f0` with which it solves for each right-hand side. -/
theorem issue_solveBody (hgood : facBlockGood c (Fmt.d f) false true 6 = true)
    (h : s.FacReady t f c b.solveJob) {f0 : Factor}
    (hf : factorOf b.n 0 (s.bytesOf t (refSt b.fac) (refOff b.fac) (facBytes b.n 0)) = some f0) (hkind : modeKind b.mode f0.kind = true)
    {r : List (List W32) × FacAcc}
    (hr : mapFac (fun k => ftrsv b.mode f0 (column b.r k (wordsOf (s.bytesOf t (refSt b.rhs) (refOff b.rhs) (4 * b.n * b.r)))))
      (List.range b.r) { } = r) (hbad : r.2.bad = false) :
    issue t f (goodE f) solveBody s = (s.factored t c [(b.out, bytesOfWords (fromColumns b.n r.1))] r.2).retired t := by
  subst hb hr
  refine issue_done h.toRuns hg ?_
  simp only [solveBody, atIssue_c, atIssue_f, facBlock_after, facBlockGood_after, hgood, Bool.not_true, Bool.false_eq_true, if_false]
  refine h.factor_eq _ ?_ hbad
  simp only [FacJob.inputs, FacBlock.solveJob, List.map_cons, List.getD_cons_zero, hf, hkind, Bool.not_true, Bool.false_eq_true, if_false]
  rfl

end

end Sys2Proof.Machine

open Sys2Proof Sys2Proof.Machine

/-- Settles O23: each command is ready, and its body gives the factor or the solutions that the statement names. -/
theorem factorResults : Obligations.FactorResults := by
  unfold Obligations.FactorResults
  refine ⟨?_, ?_⟩
  · intro s t f c h hg b read put may fb rows
    refine ⟨?_, ?_, ?_, ?_⟩
    · rintro hgood ⟨hrefs, hu⟩
      exact ⟨issue_cholBody hg rfl fchol hgood { h with refs := hrefs, usable := hu } rfl,
        issue_cholBody hg rfl fldl hgood { h with refs := hrefs, usable := hu } rfl⟩
    · rintro hgood hrows ⟨hrefs, hu⟩ r hbad
      exact issue_streamBody hg rfl true hgood (fun _ => hrows) { h with refs := hrefs, usable := hu } rfl rfl rfl hbad
    · rintro hgood ⟨hrefs, hu⟩ f0 hf hkind r hbad
      exact issue_streamBody hg rfl false hgood (fun hc => absurd hc (by decide)) { h with refs := hrefs, usable := hu } hf hkind rfl hbad
    · rintro hgood ⟨hrefs, hu⟩ f0 hf hkind r hbad
      exact issue_updateBody hg rfl hgood { h with refs := hrefs, usable := hu } hf hkind rfl hbad
  · intro s t f c h hg b read hgood hrefs hu f0 hf hkind r hbad
    exact issue_solveBody hg rfl hgood { h with refs := hrefs, usable := hu } hf hkind rfl hbad
end

section
/-!
PROOFS. CMINIT (06 R204, R205, R207, R215; O24): a command that is ready installs offer 0 of each problem. Where a replay has recorded the cut
of each problem as 0, offer 0 is the recorded offer, and the unit freezes with it (R213).
-/

set_option Elab.async false

namespace Sys2Proof.Machine

open Sys2Proof

/-! ## The command block and its ranges (06 R204) -/

/-- The block that the registers of a CMINIT give. -/
def Ctx.cmBlock (g : Nat) (c : Ctx) : CmBlock := Machine.cmBlock (c.reg g) (c.reg (g + 1)) (c.reg (g + 2)) (c.reg (g + 3))

/-- The commit map, the iterates, the records, the bounds, and the blobs where they are used. -/
def CmBlock.ranges (u : CmBlock) : List Range :=
  [rangeOf false u.map (u.b * u.k * 16), rangeOf true u.iter (u.b * iterStride u.n u.m), rangeOf true u.record (u.b * recordStride u.k),
   rangeOf false u.lu (u.b * 2 * vecBytes u.m), rangeOf false u.blob (if u.blobEn then u.b * blobStride u.n u.m else 0)]

/-- A batch has a problem, and where the block is good each has an entry of the commit map. -/
theorem cmBlock_sizes {w0 w1 w2 w3 : W64} {c : Ctx} (h : cmBlockGood w0 w1 w2 w3 c = true) :
    0 < (cmBlock w0 w1 w2 w3).b ∧ 0 < (cmBlock w0 w1 w2 w3).k := by
  simp only [cmBlockGood, Bool.and_eq_true, decide_eq_true_eq] at h
  obtain ⟨⟨⟨⟨⟨⟨⟨⟨-, -, -, -, hk⟩, -⟩, -⟩, -⟩, -⟩, -⟩, -⟩, -⟩ := h
  exact ⟨Nat.succ_pos _, Nat.pos_of_ne_zero hk⟩

theorem cmBlockGood_after (now up : Nat) (w0 w1 w2 w3 : W64) (c : Ctx) :
    cmBlockGood w0 w1 w2 w3 (c.after now up) = cmBlockGood w0 w1 w2 w3 c := by
  simp only [cmBlockGood, Ctx.after_refGood, Ctx.after_mayWrite]

theorem vecBytes_pos {n : Nat} (h : n ≠ 0) : 0 < vecBytes n := by
  unfold vecBytes roundUp
  omega

theorem noRepeat_of_nodup {xs : List Nat} (h : xs.Nodup) : noRepeat xs = true := by
  induction xs with
  | nil => rfl
  | cons x xs ih =>
    obtain ⟨hx, hxs⟩ := List.nodup_cons.mp h
    simp [noRepeat, hx, ih hxs]

/-! ## What CMINIT reads and installs (06 R205, R207, R215) -/

section
variable (t : Nat) (s : State) (u : CmBlock)

/-- The commit map, byte by byte. -/
def CmBlock.mapBytes : List Byte := s.bytesAt t (refSt u.map) (refOff u.map) (u.b * u.k * 16)

/-- The bounds of all problems, none where there are no rows. -/
def CmBlock.boundBytes : List Byte := if u.m = 0 then [] else s.bytesAt t (refSt u.lu) (refOff u.lu) (u.b * 2 * vecBytes u.m)

/-- The warm-start blobs of all problems, none where they are not used. -/
def CmBlock.blobBytes : List Byte := if u.blobEn then s.bytesAt t (refSt u.blob) (refOff u.blob) (u.b * blobStride u.n u.m) else []

/-- The entries of the commit map, problem by problem. -/
def CmBlock.entries : List (List (List Byte)) :=
  (List.range u.b).map (fun i => (List.range u.k).map (fun j => slice (16 * (i * u.k + j)) 16 (u.mapBytes t s)))

/-- The commit map of each problem. -/
def CmBlock.maps : List (List MapEntry) := (u.entries t s).map (fun m => m.map mapEntryOf)

/-- The mailboxes that the commit map names. -/
def CmBlock.named : List Nat := (u.maps t s).flatMap (fun m => m.filterMap (·.mailbox))

/-- The lower bounds of a problem, or its upper ones. -/
def CmBlock.bounds (i n : Nat) : List W32 := (List.range u.m).map (fun j => w32At ((2 * i + n) * vecBytes u.m + 4 * j) (u.boundBytes t s))

/-- The warm-start blob of a problem, where blobs are used. -/
def CmBlock.blobOf (i : Nat) : Option (List Byte) :=
  if u.blobEn then some (slice (i * blobStride u.n u.m) (blobStride u.n u.m) (u.blobBytes t s)) else none

/-- The warm or cold start of each problem, with its flags. -/
def CmBlock.starts (c : Ctx) : List (Iterate × W32) :=
  (List.range u.b).map (fun i => startIterate c.job.image.structSig (u.blobOf t s i) u.n u.m (u.bounds t s i 0) (u.bounds t s i 1))

/-- The commit unit with offer 0 of each problem. -/
def CmBlock.unit (c : Ctx) : CommitUnit where
  n := u.n
  m := u.m
  k := u.k
  recordRef := u.record
  map := u.maps t s
  owner := (s.tile t).execSlot
  held := ((u.maps t s).zip (u.starts t s c)).map (fun e => offerZero e.1 e.2)

/-- The iterates are written and the unit is taken. -/
def CmBlock.install (c : Ctx) : State :=
  ((u.starts t s c).zipIdx.foldl (fun s' e => s'.writeIterate t (s.tile t).execSlot (u.iter + e.2 * iterStride u.n u.m) u.n u.m e.1.1)
    (s.withCtx t (c.after s.now s.up))).updTile t (fun T => { T with cu := some (u.unit t s c) })

end

/-- A reference that an instruction may read delivers its bytes, and nothing else changes. -/
theorem State.usable.storeRead {s : State} {t : Nat} {c : Ctx} {rs : List Range} (hu : s.usable t c rs) {x n : Nat} (hx : rangeOf false x n ∈ rs)
    (hn : 0 < n) (k : Ctx) (eng : Nat) :
    (s.withCtx t k).storeRead t eng (refSt x) (refOff x) n = (s.bytesAt t (refSt x) (refOff x) n, s.withCtx t k, none) := by
  obtain ⟨-, -, hup⟩ := hu
  have hclean : ((s.withCtx t k).tile t).upsets (refSt x) (refOff x) n = [] :=
    (State.withCtx_upsets ..).trans (hup _ hx rfl (Nat.pos_iff_ne_zero.mp hn))
  rw [State.storeRead_clean hclean, State.withCtx_bytesAt]

/-- The block of a CMINIT is good and its ranges may be used, the commit unit is free, and the commit map is good: it names each mailbox once,
one of the job's that the job does not write by MBWR (06 R204, R205). -/
structure State.CmReady (s : State) (t : Nat) (f : BitVec 48) (c : Ctx) (u : CmBlock) : Prop extends State.Runs s t f c where
  free : (s.tile t).cu = none
  block : c.cmBlock (Fmt.d f) = u
  good : cmBlockGood (c.reg (Fmt.d f)) (c.reg (Fmt.d f + 1)) (c.reg (Fmt.d f + 2)) (c.reg (Fmt.d f + 3)) c = true
  usable : s.usable t c u.ranges
  entries : ∀ m ∈ u.entries t s, ∀ e ∈ m, mapEntryGood u.n e = true
  distinct : (u.named t s).Nodup
  own : ∀ x ∈ u.named t s, x ∈ s.mailboxesOf c.job ∧ x ∉ c.mbwr

section
variable {s : State} {t : Nat} {f : BitVec 48} {c : Ctx} {u : CmBlock} (h : s.CmReady t f c u)
include h

/-- The reads of CMINIT meet no error. -/
theorem State.CmReady.reads (k : Ctx) :
    (s.withCtx t k).cmReads t u = (u.mapBytes t s, u.boundBytes t s, u.blobBytes t s, s.withCtx t k, none) := by
  obtain ⟨hb, hk⟩ : 0 < u.b ∧ 0 < u.k := h.block ▸ cmBlock_sizes h.good
  have hmap := h.usable.storeRead (x := u.map) (n := u.b * u.k * 16) (by simp [CmBlock.ranges]) (by positivity) k 1
  have hlu : (if u.m = 0 then ([], s.withCtx t k, none) else (s.withCtx t k).storeRead t 1 (refSt u.lu) (refOff u.lu) (u.b * 2 * vecBytes u.m)) =
      (u.boundBytes t s, s.withCtx t k, none) := by
    unfold CmBlock.boundBytes
    split
    next => rfl
    next hm =>
      have := vecBytes_pos hm
      exact h.usable.storeRead (by simp [CmBlock.ranges]) (by positivity) k 1
  have hblob : (if u.blobEn then (s.withCtx t k).storeRead t 1 (refSt u.blob) (refOff u.blob) (u.b * blobStride u.n u.m) else ([], s.withCtx t k, none)) =
      (u.blobBytes t s, s.withCtx t k, none) := by
    unfold CmBlock.blobBytes
    split
    next he => exact h.usable.storeRead (by simp [CmBlock.ranges, he]) (by unfold blobStride; positivity) k 1
    next => rfl
  simp only [State.cmReads, hmap, hlu, hblob, CmBlock.mapBytes]

/-- CMINIT installs offer 0; in a replay the unit may freeze with it (06 R207, R213). -/
theorem State.CmReady.cminit (hg : goodE f = true) :
    exec (.cminit t f) s = ((u.install t s c).freezeReplayed t (s.tile t).execSlot (c.after s.now s.up)).retired t := by
  refine issue_done h.toRuns hg ?_
  have hfree : ((s.withCtx t (c.after s.now s.up)).tile t).cu = none := by rw [State.withCtx_tile, Tile.setSlot_cu, h.free]
  have hneed := h.usable.need_withCtx h.toRuns
  have hentries : (u.entries t s).all (fun m => m.all (mapEntryGood u.n)) = true := by simpa [List.all_eq_true] using h.entries
  have hown : (u.named t s).any (fun x => !(s.mailboxesOf c.job).contains x || c.mbwr.contains x) = false := by
    simpa [List.any_eq_false] using h.own
  have hdistinct := noRepeat_of_nodup h.distinct
  have hblock : cmBlock (c.reg (Fmt.d f)) (c.reg (Fmt.d f + 1)) (c.reg (Fmt.d f + 2)) (c.reg (Fmt.d f + 3)) = u := h.block
  unfold CmBlock.named CmBlock.maps at hown hdistinct
  unfold CmBlock.entries at hentries hown hdistinct
  unfold CmBlock.ranges at hneed
  simp only [cmBody, State.cmInit, atIssue_c, atIssue_f, atIssue_p, atIssue_w, Ctx.after_reg, hfree, cmBlockGood_after, h.good, hblock, hneed,
    h.reads, hentries, hdistinct, hown, Ctx.after_job, Ctx.after_mbwr, State.withCtx_mailboxesOf, Bool.not_true, Bool.or_self, Bool.false_eq_true,
    if_false]
  rfl

end

/-! ## The freeze in a replay (06 R213) -/

@[simp] theorem State.updCtx_wit (p w : Nat) (g : Ctx → Ctx) (s : State) : (s.updCtx p w g).wit = s.wit := by
  unfold State.updCtx
  split <;> rfl

@[simp] theorem State.ownWrite_wit (p w st off : Nat) (bs : List Byte) (s : State) : (s.ownWrite p w st off bs).wit = s.wit := by
  unfold State.ownWrite
  split
  · rfl
  · rw [State.updCtx_wit]
    rfl

@[simp] theorem State.writeIterate_wit (p w x n m : Nat) (i : Iterate) (s : State) : (s.writeIterate p w x n m i).wit = s.wit := by
  unfold State.writeIterate
  split <;> simp only [State.ownWrite_wit]

theorem CmBlock.install_wit (t : Nat) (s : State) (u : CmBlock) (c : Ctx) : (u.install t s c).wit = s.wit := by
  have hfold : ∀ (es : List ((Iterate × W32) × Nat)) (v : State),
      (es.foldl (fun s' e => s'.writeIterate t (s.tile t).execSlot (u.iter + e.2 * iterStride u.n u.m) u.n u.m e.1.1) v).wit = v.wit := by
    intro es
    induction es with
    | nil => exact fun _ => rfl
    | cons e es ih => exact fun v => (ih _).trans (State.writeIterate_wit ..)
  exact hfold ..

/-- A unit that is put into a tile is there. -/
theorem State.updTile_cu (t : Nat) (v : CommitUnit) (s : State) : ((s.updTile t (fun T => { T with cu := some v })).tile t).cu = some v := by
  rw [State.updTile_eq, State.setTile_tile]

@[simp] theorem State.tileEvent_cu (p ev n : Nat) (s : State) : ((s.tileEvent p ev n).tile p).cu = (s.tile p).cu := by
  obtain ⟨e, he⟩ := State.tileEvent_tile p ev n s
  rw [he]

/-- What has been recorded of the cuts is all that decides which offer of a problem is the recorded one. -/
theorem State.cutOf_congr {s v : State} (h : v.wit = s.wit) (q sq pr : Nat) : v.cutOf q sq pr = s.cutOf q sq pr := by
  unfold State.cutOf
  rw [h]

theorem State.freezeReplayed_cu {p w : Nat} {c : Ctx} {s : State} {v : CommitUnit} (hv : (s.tile p).cu = some v) (hf : v.frozen = false)
    (hcut : ∀ e ∈ v.held.zipIdx, s.cutMet c.job.queue c.job.seq e.2 e.1 = true) :
    ((s.freezeReplayed p w c).tile p).cu = some { v with frozen := true } := by
  have hall : v.held.zipIdx.all (fun e => s.cutMet c.job.queue c.job.seq e.2 e.1) = true := List.all_eq_true.mpr hcut
  simp only [State.freezeReplayed, hv, hf, hall, Bool.not_false, Bool.and_self, if_true]
  exact State.updTile_cu ..

/-- A recorded cut of 0 is met by a problem that has had offer 0. -/
theorem State.cutMet_zero {q sq pr : Nat} {x : Held} {s : State} (hcut : s.cutOf q sq pr = some 0) (hx : 0 < x.offers) :
    s.cutMet q sq pr x = true := by
  simp [State.cutMet, hcut, hx]

/-- In a replay that has recorded the cut of each problem as 0, CMINIT leaves a frozen unit. -/
theorem State.CmReady.cminit_frozen {s : State} {t : Nat} {f : BitVec 48} {c : Ctx} {u : CmBlock} (h : s.CmReady t f c u) (hg : goodE f = true)
    (hcut : ∀ pr, pr < u.b → s.cutOf c.job.queue c.job.seq pr = some 0) :
    ∃ v, exec (.cminit t f) s = .next v ∧ (v.tile t).cu = some { u.unit t s c with frozen := true } := by
  refine ⟨_, h.cminit hg, ?_⟩
  rw [State.tileEvent_cu]
  refine State.freezeReplayed_cu (State.updTile_cu ..) rfl (fun e he => ?_)
  obtain ⟨hpr, hx⟩ := List.mem_zipIdx' he
  have hlen : e.2 < u.b := by simpa [CmBlock.unit, CmBlock.maps, CmBlock.entries, CmBlock.starts] using hpr
  have hone : e.1.offers = 1 := by
    rw [hx]
    simp only [CmBlock.unit, List.getElem_map]
    rfl
  rw [Ctx.after_job]
  exact State.cutMet_zero ((State.cutOf_congr (CmBlock.install_wit ..) ..).trans (hcut _ hlen)) (by omega)

/-! ## A replay whose recorded cut is 0 -/

/-- A program in the I-store with a region at the start of the A-store. -/
def replayImage : Image :=
  { sections := [
      { kind := 1, persistent := false, reload := false, store := 3, fileOff := 0, length := 0, storeOff := 0, size := 0x40000 },
      { kind := 3, persistent := false, reload := false, store := 1, fileOff := 0, length := 0, storeOff := 0, size := 0x20000 }] }

/-- A job of it whose registers 4 to 7 hold the CMINIT block of one problem of one variable, mapped to no mailbox. -/
def replayCtx : Ctx :=
  { job := { image := replayImage }, live := true
    g := [(4, BitVec.ofNat 64 (2 ^ 48 + 2 ^ 24)), (5, BitVec.ofNat 64 (0x400000 * 2 ^ 24 + 0x401000)), (6, 0x402000)] }

/-- CMINIT of those registers. -/
def replayWord : BitVec 48 := BitVec.ofNat 48 (4 * 2 ^ 39)

/-- Tile 0 at FIRE with that job, in a replay that has recorded offer 0 as the cut of its problem. -/
def replayState : State :=
  { tiles := [(0, { ctx0 := some replayCtx, banks := [(16, .on)] })], doms := [(0, { rung := 0, target := 0 })],
    wit := { mode := .replay, cuts := [(0, 0, 0, 0)] } }

theorem replayState_ready : replayState.CmReady 0 replayWord replayCtx (replayCtx.cmBlock 4) where
  unit := by decide
  cur := rfl
  live := rfl
  fire := rfl
  program := rfl
  ready := rfl
  budget := .inl rfl
  unhurt := rfl
  noTrap := rfl
  code := by decide
  clean := rfl
  word := rfl
  guard := by decide
  free := rfl
  block := rfl
  good := by decide +kernel
  usable := by unfold State.usable; decide +kernel
  entries := by decide +kernel
  distinct := by decide +kernel
  own := by decide +kernel

end Sys2Proof.Machine

open Sys2Proof Sys2Proof.Machine

/-- Refutes O24: its clause on CMINIT does not exclude a replay. On `replayState` the recorded cut is offer 0, so that the unit freezes as CMINIT
installs it (06 R213), while the clause leaves it unfrozen. -/
theorem not_commitUnitResults : ¬ Obligations.CommitUnitResults := by
  unfold Obligations.CommitUnitResults
  rintro ⟨hinit, -⟩
  have h := replayState_ready
  have stated := hinit replayState 0 replayWord replayCtx h.toRuns rfl h.free h.good h.usable h.entries h.distinct h.own
  obtain ⟨v, hv, hfrozen⟩ := h.cminit_frozen rfl (fun pr hpr => by
    obtain rfl : pr = 0 := Nat.lt_one_iff.mp hpr
    rfl)
  obtain rfl := Host.Outcome.next.inj (hv.symm.trans stated)
  rw [State.tileEvent_cu, State.updTile_cu] at hfrozen
  exact Bool.noConfusion (congrArg CommitUnit.frozen (Option.some.inj hfrozen))
end

section
/-!
PROOFS. The events of a loop slot: start, sample, commit, and the shadow that a STANDBY device takes (07 R224, R227, R235, R245, R246; 14 R473).
-/

set_option Elab.async false

namespace Sys2Proof.Machine

open Sys2Proof

theorem withinSlot_of_lt {e sl : Nat} (he : e < 16) (hsl : sl < 8) (t : State) : withinSlot e sl t = .next t := if_pos ⟨he, hsl⟩

@[simp] theorem State.event_slot (ev inst k : Nat) (s : State) (m : Nat) : (s.event ev inst k).slot m = s.slot m := by
  obtain ⟨e, h⟩ := State.event_eq ev inst k s
  rw [h]
  rfl

section
variable {s : State} {n c : Nat}

/-! ## Start (07 R224) -/

theorem State.slotStart_waiting (h : (s.slot n).st ≠ .armed ∨ (s.slot n).start = none) : s.slotStart n = s := by
  unfold State.slotStart
  dsimp only
  split
  · next hst hc =>
    obtain h | h := h
    · exact absurd hst h
    · exact absurd (h.symm.trans hc) (Option.some_ne_none _).symm
  · rfl

theorem State.slotStart_armed (hst : (s.slot n).st = .armed) (hc : (s.slot n).start = some c) :
    s.slotStart n = if c ≤ s.now then s.setSlot n { s.slot n with st := .running, lastEval := c - 1 } else s := by
  simp only [State.slotStart, hst, hc]

/-! ## A phase that is due (07 R224, R235) -/

theorem State.slotSample_idle (hd : s.duePhase n = none) (hu : (s.slot n).unbindAt = none) : s.slotSample n = s := by
  simp only [State.slotSample, hd, hu]

theorem State.slotSample_removed {a : Nat} {k : Cause} (hd : s.duePhase n = some c) (hu : (s.slot n).unbindAt = some (a, k)) (ha : a ≤ c) :
    s.slotSample n = s.slotUnbound n a k := by
  simp only [State.slotSample, hd, hu, if_pos ha]

/-- Before the boundary of an UNBIND the sample is computed from its inputs; without them it waits until it is late. -/
theorem State.slotSample_due (hd : s.duePhase n = some c) (hu : (s.slot n).unbindAt.all (fun u => decide (c < u.1)) = true) :
    s.slotSample n = (s.inputsAt n c).elim (if s.isLate n c then s.lateSample n c else s) (fun v => s.computeSample n c v) := by
  cases hx : (s.slot n).unbindAt with
  | none =>
    simp only [State.slotSample, hd, hx]
    cases s.inputsAt n c <;> rfl
  | some u =>
    have hc : ¬ u.1 ≤ c := by simpa [hx] using hu
    simp only [State.slotSample, hd, hx, if_neg hc]
    cases s.inputsAt n c <;> rfl

/-! ## A computed sample (07 R227) -/

theorem State.target_paired (n c : Nat) (s : State) : (s.target n c).2.1.paired = (s.slot n).paired := by
  unfold State.target
  dsimp only
  split <;> rfl

theorem State.target_register (h : (s.slot n).targetSrc = 0) :
    s.target n c = ((s.slot n).manTgt, { s.slot n with lastEval := c }, 0, 0) := by
  simp only [State.target, h]

/-- The input of the chain at a phase with no change and no swap due: the integrator does not preset. -/
def State.chainInput (n c : Nat) (v : W32 × W32 × W32) (s : State) : SampleIn :=
  let t := s.target n c
  { x := v.1, d := v.2.1, f := v.2.2, tgt := t.1, man := t.2.1.manUse, manual := !t.2.1.autoEff, preset := false, first := !t.2.1.computed }

/-- What the chain answers there, on the slot as its target leaves it. -/
def State.chainOut (n c : Nat) (v : W32 × W32 × W32) (s : State) : SampleOut :=
  let y := (s.target n c).2.1
  runChain y.cfg y.bank y.chain y.atHi y.atLo (s.chainInput n c v)

/-- A slot whose sample brings in no change: none waits, no swap does, the recorder wants no snapshot, and it has no second copy. -/
structure State.Steady (n : Nat) (s : State) : Prop where
  settled : (s.slot n).pend = []
  noSwap : (s.slot n).swapAt = none
  noSnap : n ∉ s.wit.snapSlots
  single : (s.slot n).paired = false

/-- The slot after the sample: the chain's state, and its output staged for the commit count. -/
def State.sampled (n c : Nat) (v : W32 × W32 × W32) (s : State) : Slot :=
  let y := (s.target n c).2.1
  let o := s.chainOut n c v
  { y.took c o with shadowCrc := none, staged := some { at_ := c + y.commitDly, phase := c, out := o.out, copy := none, stateMis := false } }

/-- Of the slots a computed sample changes its own alone. -/
theorem State.Steady.computeSample_slot (h : s.Steady n) (v : W32 × W32 × W32) (m : Nat) :
    (s.computeSample n c v).slot m = (s.setSlot n (s.sampled n c v)).slot m := by
  have ha : s.applyDue n c (s.slot n).pend = (s, false) := by rw [h.settled]; rfl
  have hs : s.swapDue n c = (s, false) := by simp only [State.swapDue, h.noSwap]
  have hw : s.snapSlot n c = s := by
    rw [State.snapSlot, if_neg]
    simpa using h.noSnap
  have hp : (s.target n c).2.1.paired = false := (State.target_paired n c s).trans h.single
  simp only [State.computeSample, ha, hs, hw, hp, Bool.false_and, Bool.false_eq_true, if_false, Bool.or_self, apply_ite (State.slot m),
    State.event_slot, ite_self]
  rfl

/-! ## The commit phase (07 R245, R246) -/

theorem State.slotCommit_nothing (h : (s.slot n).staged = none) : s.slotCommit n = s := by simp only [State.slotCommit, h]

/-- The slot with one more mismatch in a row, flagged and counted. -/
def State.mismatched (n : Nat) (s : State) : State :=
  let x := s.slot n
  (s.setSlot n { x with staged := none, misRun := x.misRun + 1, flags := x.flags ||| Lf.pairMismatch, pairMis := satAdd x.pairMis 1 }).event
    0x107 (n / 8) 1

section
variable {g : Staged} (hg : (s.slot n).staged = some g)
include hg

theorem State.slotCommit_early (ht : s.now < g.at_) : s.slotCommit n = s := by simp only [State.slotCommit, hg, if_pos ht]

/-- Equal outputs are written. -/
theorem State.slotCommit_equal (ht : g.at_ ≤ s.now) (ho : g.copy.all (fun o => decide (o = g.out)) = true) (hm : g.stateMis = false)
    (hs : (s.slot n).stopped = false) :
    s.slotCommit n = ((s.setSlot n { s.slot n with staged := none, misRun := 0 }).writeOut n g).sendShadow n := by
  have hany : g.copy.any (fun o => decide (o ≠ g.out)) = false := by
    cases hc : g.copy with
    | none => rfl
    | some o => simpa [hc] using ho
  have hfl : ∀ fl : BitVec 10, fl ||| Lf.when false Lf.pairMismatch = fl := fun fl => BitVec.or_zero
  simp only [State.slotCommit, hg, if_neg (Nat.not_lt.mpr ht), hany, hm, Bool.or_self, Bool.false_eq_true, if_false,
    State.setSlot_slot, hs, hfl, OfNat.zero_ne_ofNat]

/-- Differing outputs are withheld, and the second mismatch in a row fails the pair. -/
theorem State.slotCommit_differ {o : W32} (ht : g.at_ ≤ s.now) (hc : g.copy = some o) (ho : o ≠ g.out) :
    s.slotCommit n = (if (s.slot n).misRun = 1 then (s.mismatched n).pairFail n else s.mismatched n).sendShadow n := by
  have hany : g.copy.any (fun o => decide (o ≠ g.out)) = true := by simpa [hc] using ho
  have hfl : Lf.when true Lf.pairMismatch = Lf.pairMismatch := rfl
  simp only [State.slotCommit, hg, if_neg (Nat.not_lt.mpr ht), hany, Bool.true_or, if_true, hfl, Nat.reduceEqDiff]
  rfl

end

/-! ## The loop-state shadow (14 R473) -/

theorem State.shadowIn_ignored {image : List Byte} {crc : W32} (h : (s.slot n).st ≠ .running ∨ s.twin.role ≠ .standby ∨ crc32c image ≠ crc) :
    s.shadowIn n image crc = s := if_pos h

/-- The slot has its shadow of the sample. -/
def State.shadowed (n : Nat) (crc : W32) (s : State) : State :=
  (s.setSlot n { s.slot n with shadowCrc := some crc }).setTwin { s.twin with shadowDone := n :: s.twin.shadowDone }

section
variable {image : List Byte} {crc : W32} (hst : (s.slot n).st = .running) (hr : s.twin.role = .standby) (hi : crc32c image = crc)
  (hn : n ∉ s.twin.shadowDone)
include hst hr hi hn

theorem State.shadowIn_agrees (h : crc32c (shadowImage (s.slot n).chain (s.slot n).lastOut) = crc) : s.shadowIn n image crc = s.shadowed n crc := by
  have hk : ¬ ((s.slot n).st ≠ .running ∨ s.twin.role ≠ .standby ∨ crc32c image ≠ crc) := by simp [hst, hr, hi]
  simp only [State.shadowIn, if_neg hk, if_pos h, State.setSlot_twin, List.contains_eq_mem, hn, decide_false, Bool.false_eq_true, if_false]
  rfl

/-- A slot without a second copy takes the chain's state of a shadow that differs; outside SYNCED and CATCHUP that is no divergence. -/
theorem State.shadowIn_differs (h : crc32c (shadowImage (s.slot n).chain (s.slot n).lastOut) ≠ crc) (hp : (s.slot n).paired = false)
    (h1 : s.twin.pair ≠ .synced) (h2 : s.twin.pair ≠ .catchup) :
    s.shadowIn n image crc = (s.shadowed n crc).updSlot n (fun y =>
      { y with chain := Chain.ofWords ((List.range 10).map (fun i => w64At (8 * i) image)), lastOut := w32At 80 image, computed := true }) := by
  have hk : ¬ ((s.slot n).st ≠ .running ∨ s.twin.role ≠ .standby ∨ crc32c image ≠ crc) := by simp [hst, hr, hi]
  have hq : ∀ t : State, t.twin.pair = s.twin.pair → ¬ (t.twin.pair = .synced ∨ t.twin.pair = .catchup) := fun t ht =>
    not_or.mpr ⟨ht ▸ h1, ht ▸ h2⟩
  simp only [State.shadowIn, if_neg hk, if_neg h, State.setSlot_twin, List.contains_eq_mem, hn, decide_false, Bool.false_eq_true, if_false, hp]
  exact if_neg (hq _ rfl)

end

end

end Sys2Proof.Machine

open Sys2Proof Sys2Proof.Machine

/-- Settles O45, event by event: the start, the phase that is due, the computed sample, the commit phase and the shadow. -/
theorem loopEvents : Obligations.LoopEvents := by
  unfold Obligations.LoopEvents
  intro s e sl he hsl n x
  have hstart : exec (.slotStart e sl) s = .next (s.slotStart n) := withinSlot_of_lt he hsl _
  have hsample : exec (.slotSample e sl) s = .next (s.slotSample n) := withinSlot_of_lt he hsl _
  have hcommit : exec (.slotCommit e sl) s = .next (s.slotCommit n) := withinSlot_of_lt he hsl _
  have hshadow : ∀ image crc, exec (.loopShadowReceived e sl image crc) s = .next (s.shadowIn n image crc).catchupEnd :=
    fun _ _ => withinSlot_of_lt he hsl _
  rw [hstart, hsample, hcommit]
  simp only [hshadow]
  refine ⟨fun h => congrArg _ (State.slotStart_waiting h), fun c hst hc => ?_, fun hd hu => congrArg _ (State.slotSample_idle hd hu),
    fun c hd => ⟨fun a k hu ha => congrArg _ (State.slotSample_removed hd hu ha), fun hu => ?_⟩, fun c v hp hw hn h1 => ?_,
    fun h => congrArg _ (State.slotCommit_nothing h), fun g hg => ?_, fun image crc => ⟨fun h => ?_, fun hst hr hi hn => ?_⟩⟩
  · rw [State.slotStart_armed hst hc]
    exact ⟨fun ht => congrArg _ (if_neg (Nat.not_le.mpr ht)), fun ht => congrArg _ (if_pos ht)⟩
  · rw [State.slotSample_due hd hu]
    refine ⟨fun v hv => ?_, fun hv hl => ?_, fun hv hl => ?_⟩
    · rw [hv]
      rfl
    · rw [hv, hl]
      rfl
    · rw [hv, hl]
      rfl
  · have h : s.Steady n := ⟨hp, hw, hn, h1⟩
    refine ⟨?_, fun m hm => ?_, fun h0 => State.target_register h0⟩
    · rw [h.computeSample_slot, State.setSlot_slot]
      rfl
    · rw [h.computeSample_slot, State.setSlot_slot_ne _ _ _ _ hm]
  · refine ⟨fun ht => congrArg _ (State.slotCommit_early hg ht), fun ht ho hm hs => congrArg _ (State.slotCommit_equal hg ht ho hm hs),
      fun o ht hc ho => ?_⟩
    rw [State.slotCommit_differ hg ht hc ho]
    exact ⟨fun h1 => by rw [if_neg h1]; rfl, fun h1 => by rw [if_pos h1]; rfl⟩
  · rw [State.shadowIn_ignored h]
  · exact ⟨fun h => by rw [State.shadowIn_agrees hst hr hi hn h]; rfl, fun h hp h1 h2 => by rw [State.shadowIn_differs hst hr hi hn h hp h1 h2]; rfl⟩
end

section
/-!
SUPPORT. The acceptance of a command leaves every loop-engine slot as it was: not even a read of HBM that fails a pseudo-channel and takes the
device out of its pair touches one (10 R321; 13 R434; 14 R479).
-/

set_option Elab.async false

namespace Sys2Proof.Machine

open Sys2Proof

/-! ## Events, the recorder and the journal -/

@[simp] theorem State.event_slots (ev inst n : Nat) (s : State) : (s.event ev inst n).slots = s.slots := by
  obtain ⟨e, h⟩ := State.event_eq ev inst n s
  rw [h]

@[simp] theorem State.witness_slots (typ src stamp : Nat) (pl : List Byte) (s : State) : (s.witness typ src stamp pl).slots = s.slots := by
  obtain ⟨w, e, h⟩ := State.witness_eq typ src stamp pl s
  rw [h]

@[simp] theorem State.toHost_slots (m : Ep1In) (s : State) : (s.toHost m).slots = s.slots := by
  unfold State.toHost
  dsimp only
  split <;> simp

@[simp] theorem State.reply_slots (p : Packet) (code : Byte) (sq reason stamp : Nat) (s : State) : (s.reply p code sq reason stamp).slots = s.slots := by
  simp [State.reply]

@[simp] theorem State.raiseAlert_slots (a : Alert) (s : State) : (s.raiseAlert a).slots = s.slots := by
  have ha : (s.alert a).slots = s.slots := by
    unfold State.alert
    split <;> rfl
  have hw : ∀ t : State, t.signalWake.slots = t.slots := by
    intro t
    unfold State.signalWake
    split <;> rfl
  unfold State.raiseAlert
  split
  · rw [hw, ha]
  · exact ha

theorem State.frees_slots (n : Nat) (s : State) : (s.frees n).2.slots = s.slots := by
  induction n generalizing s with
  | zero => rfl
  | succ n ih => exact ih s.free.2

theorem State.digest128_slots (x : Option (List Byte)) (s : State) : (s.digest128 x).2.slots = s.slots := by
  cases x with
  | some b => rfl
  | none => exact State.frees_slots 2 s

@[simp] theorem State.journalAt_slots (at_ : Nat) (c : Cause) (target : W64) (before after : Option (List Byte)) (s : State) :
    (s.journalAt at_ c target before after).slots = s.slots := by
  simp only [State.journalAt, State.event_slots, State.setMg_slots, State.digest128_slots]

@[simp] theorem State.journalNow_slots (c : Cause) (target : W64) (before after : Option (List Byte)) (s : State) :
    (s.journalNow c target before after).slots = s.slots := State.journalAt_slots ..

/-! ## A command completes, and the device leaves its pair -/

theorem State.reorderPut_slots (q : Nat) (r : Record) (e : Effects) (cap : Nat) (s : State) : (s.reorderPut q r e cap).slots = s.slots := by
  show (s.commitEntry e r).2.2.slots = s.slots
  unfold State.commitEntry
  split
  · rfl
  · dsimp only
    split <;> rfl

theorem State.bareExt_slots (o : Outst) (r : Record) (s : State) : (s.bareExt o r).2.slots = s.slots := by
  unfold State.bareExt
  split
  · rfl
  · split <;> rfl

theorem State.closeMerged_slots (q : Nat) (s : State) : (s.closeMerged q).slots = s.slots := by
  unfold State.closeMerged
  dsimp only
  split
  · split
    · exact State.reorderPut_slots ..
    · rfl
  · rfl

@[simp] theorem State.complete_slots (q sq : Nat) (r : Record) (e : Effects) (s : State) : (s.complete q sq r e).slots = s.slots := by
  unfold State.complete State.completeAt
  cases s.outstOf q sq with
  | none => rfl
  | some o =>
    dsimp only
    split
    · split
      · rw [State.closeMerged_slots]
        exact State.bareExt_slots ..
      · rw [State.reorderPut_slots]
        exact State.bareExt_slots ..
    · rw [State.reorderPut_slots]
      exact State.bareExt_slots ..

theorem State.resumeMode_slots (s : State) : s.resumeMode.slots = s.slots := by
  unfold State.resumeMode
  dsimp only
  split
  · rfl
  · simp [timeEvent, State.journalDev]

theorem State.twinChange_slots (v : Twin) (s : State) : (s.twinChange v).slots = s.slots := by
  unfold State.twinChange
  dsimp only
  split
  · rfl
  · simp only [apply_ite State.slots, State.resumeMode_slots, State.witness_slots, State.journalNow_slots, State.setTwin_slots, ite_self]

theorem State.attachEnds_slots (st : Byte) (s : State) : (s.attachEnds st).slots = s.slots := by
  unfold State.attachEnds
  split
  · simp
  · rfl

theorem State.swapEnds_slots (s : State) : s.swapEnds.slots = s.slots := by
  unfold State.swapEnds
  split
  · simp
  · rfl

theorem State.leavePair_slots (reason : BitVec 4) (s : State) : (s.leavePair reason).slots = s.slots := by
  have hf : s.unmirror.forgetWork.slots = s.slots := by
    unfold State.forgetWork
    split <;> rfl
  unfold State.leavePair
  split
  · rfl
  · rw [State.swapEnds_slots, State.attachEnds_slots, State.twinChange_slots, hf]

/-! ## A read of HBM (13 R430 to R438) -/

theorem State.pcFailed_slots (n : Nat) (s : State) : (s.pcFailed n).slots = s.slots := by
  have hr : ∀ f : State → State, (f s).slots = s.slots → (s.recordFailure f .pseudoChannel).slots = s.slots := fun f hf => by
    simp only [State.recordFailure, State.journalNow_slots, State.raiseAlert_slots, State.setMg_slots, hf]
  have hh : ∀ f t, (State.health f t).slots = t.slots := fun _ _ => rfl
  unfold State.pcFailed
  dsimp only
  split
  · rfl
  · simp only [apply_ite State.slots, State.leavePair_slots, State.setHbm_slots, hh, ite_self]
    exact hr _ rfl

theorem State.logBurst_slots (b : Nat) (s : State) : (s.logBurst b).slots = s.slots := by
  unfold State.logBurst
  split <;> rfl

theorem State.meetBurst_slots (b kind : Nat) (s : State) : (s.meetBurst b kind).slots = s.slots := by
  unfold State.meetBurst
  dsimp only
  split
  · simp
  · simp only [apply_ite State.slots, State.pcFailed_slots, State.logBurst_slots, State.event_slots, State.setPc_slots, ite_self]

theorem State.loadLine_slots (a : Nat) (s : State) : (s.loadLine a).1.slots = s.slots := by
  have hfold : ∀ l : List (Nat × Nat), (l.foldl (fun t e => t.meetBurst e.1 e.2) s).slots = s.slots := fun l =>
    foldl_keeps (p := fun t : State => t.slots = s.slots) rfl fun t e ht => (State.meetBurst_slots e.1 e.2 t).trans ht
  unfold State.loadLine
  dsimp only
  split
  · exact State.logBurst_slots a s
  · rw [State.event_slots, hfold]

theorem State.enterLine_slots (x : Line) (front : Bool) (s : State) : (s.enterLine x front).slots = s.slots := by
  have hw : ∀ y, (s.writeBack y).slots = s.slots := fun y => by simp [State.writeBack]
  have he : ∀ a, (s.evictFor a).slots = s.slots := fun a => by
    unfold State.evictFor
    split
    · rfl
    · split
      · rfl
      · simp only [State.setHbm_slots, apply_ite State.slots, hw, ite_self]
  exact he x.addr

theorem State.useLine_slots (a : Nat) (write whole : Bool) (s : State) : (s.useLine a write whole).1.slots = s.slots := by
  unfold State.useLine
  cases s.cached a with
  | some x => simp only [apply_ite Prod.fst, apply_ite State.slots, State.setHbm_slots, State.event_slots, ite_self]
  | none =>
    dsimp only
    split
    · rw [State.enterLine_slots, State.event_slots]
    · split
      · rw [State.loadLine_slots, State.event_slots]
      · rw [State.enterLine_slots, State.loadLine_slots, State.event_slots]

theorem State.hbmRead_slots (a n : Nat) (s : State) : (s.hbmRead a n).2.1.slots = s.slots :=
  foldl_keeps (p := fun r : State × Option Nat => r.1.slots = s.slots) rfl fun r m hr => (State.useLine_slots m false false r.1).trans hr

theorem State.readHbm_slots (rs : List (Nat × Nat)) (s : State) : (s.readHbm rs).2.1.slots = s.slots :=
  foldl_keeps (p := fun r : List (Nat × List Byte) × State × Option W64 => r.2.1.slots = s.slots) rfl fun r e hr =>
    (State.hbmRead_slots e.1 e.2 r.2.1).trans hr

theorem State.pairRead_slots (kind a b n : Nat) (s : State) : (s.pairRead kind a b n).1.slots = s.slots := by
  show (s.devRead kind a b n).1.slots = s.slots
  unfold State.devRead
  dsimp only
  split <;> exact State.hbmRead_slots ..

/-! ## The state in which a command begins (10 R321) -/

/-- A command begins with every slot as it was when the command arrived. -/
theorem State.begun_slots (p : Packet) (s : State) : (s.begun p).slots = s.slots := by
  have he : (s.entered p).slots = s.slots := by simp [State.entered, State.received]
  have hr : ∀ (o : Outst) (t : State), (t.readEntry o).1.slots = t.slots := fun o t => by
    unfold State.readEntry
    dsimp only
    split <;> simp only [State.pairRead_slots]
  rw [State.begun, State.inputsRead, hr, State.accepting, State.readHbm_slots, he]

end Sys2Proof.Machine
end

section
/-!
PROOFS. A write of the inactive coefficient bank (07 R241) is a REG_WRITE, which journals the cause that its queue holds when it is carried out
(10 R346), and not always the one with which it was accepted.
-/

set_option Elab.async false

namespace Sys2Proof.Machine

open Sys2Proof

/-- REG_WRITE of 1 to the first word of bank B of slot 0. -/
def bankWrite : Instr := .leSlotBankWrite healthClearHdr 0 0 true 0 1

/-- Its packet. -/
def bankPacket : Packet := regPacket healthClearHdr 0x200400 1 0

/-- Slot 0, of which nothing was written before, with the word, and the journal entry of the change. -/
def State.bankWritten (c : Cause) (s : State) : State :=
  (s.setSlot 0 { bankB := Bank.set 0 1 [] }).journalNow c (at64 0x200400 0) (some (w64Bytes 0)) (some (w64Bytes 1))

/-- Bank A is in force and no swap is pending, so that the write of bank B changes the word, and is journaled. -/
theorem State.pokeLogged_bankB {s : State} (hs : s.slot 0 = { }) (stamp : Nat) (c : Cause) :
    s.pokeLogged 0x200400 1 (BitVec.allOnes 64) stamp c = some (s.bankWritten c) := by
  have peeks : ∀ {t : State} {x : Slot}, t.slot 0 = x → x.st = .unbound → t.peek 0x200400 = some (Bank.word x.bankB 0) := by
    intro t x ht hx
    show t.lePeek 0x400 = _
    simp [State.lePeek, State.slotOwner, ht, hx]
  have pokes : s.poke 0x200400 1 (BitVec.allOnes 64) stamp c = some (s.setSlot 0 { bankB := Bank.set 0 1 [] }) := by
    show s.lePoke 0x400 1 (BitVec.allOnes 64) stamp c = _
    simp [State.lePoke, State.slotOwner, State.slotPoke, hs, Bank.word]
    rfl
  have waits : slotDeferred 0x200400 = false := by decide
  have acts : actingBits 0x200400 (1 &&& BitVec.allOnes 64) = false := by decide
  simp only [State.pokeLogged, peeks hs rfl, pokes, peeks (State.setSlot_slot s 0 { bankB := Bank.set 0 1 [] }) rfl, waits, acts]
  rfl

/-- A command that is no longer outstanding writes the bank and leaves no completion. -/
theorem State.Gone.complete_bankWritten {q sq : Nat} {s : State} (g : s.Gone q sq) (c : Cause) (r : Record) (e : Effects) :
    (s.bankWritten c).complete q sq r e = s.bankWritten c :=
  have h : s.SameWork (s.bankWritten c) := State.SameWork.trans (t := s.setSlot 0 _) ⟨rfl, rfl⟩ (State.journalNow_sameWork ..)
  State.complete_of_outstOf_none (g.congr h).done r e

theorem swappingDev_bankBegins : swappingDev.Begins bankPacket where
  running := by decide +kernel
  alone := by decide +kernel
  header := by decide +kernel
  fresh := by decide +kernel
  allowed := by decide +kernel
  own := by decide +kernel
  named := by decide +kernel
  ready := by decide +kernel
  readable := by rfl


theorem State.devRead_gone {kind a b n q sq : Nat} {s : State}
    (g : (s.hbmRead (hbmDev + 32 * (Config.devPlace kind a b % 0x7000000)) n).2.1.Gone q sq) : (s.devRead kind a b n).1.Gone q sq := by
  unfold State.devRead
  dsimp only
  split
  · exact g.congr (State.setMg_sameWork _ _)
  · exact g

/-- As its entry is read, the number of the command goes to the ROLE_SWAP, and it is no longer outstanding. -/
theorem swappingDev_bankGone : (swappingDev.begun bankPacket).Gone 0 1 := by
  have failing : (swappingDev.accepting bankPacket).2.1.Failing entryPlace :=
    { upset := by rfl, cache := by rfl, pcs := by decide +kernel, young := by decide +kernel }
  have swapping : (swappingDev.accepting bankPacket).2.1.Swapping 0 1 :=
    { role := by rfl, paired := by rfl, swap := ⟨100000, by rfl⟩, attach := by rfl, merged := by rfl }
  exact State.devRead_gone (failing.hbmRead_gone swapping (by decide))

end Sys2Proof.Machine

open Sys2Proof Sys2Proof.Machine

/-- Refutes O36: its last clause lets the journal entry of a write that succeeds bear the cause with which the command was accepted. On
`swappingDev` the command is no longer outstanding when it writes, so that the entry bears no tag. The statement ranges over every state: in
this one the ROLE_SWAP bears a number that its queue has not given yet, which no run is shown to reach. -/
theorem not_coefficientBanks : ¬ Obligations.CoefficientBanks := by
  unfold Obligations.CoefficientBanks
  intro hall
  have hb := swappingDev_bankBegins
  have hg := swappingDev_bankGone
  have hslots : (swappingDev.begun bankPacket).slots = [] := State.begun_slots bankPacket swappingDev
  have hc : swappingDev.causeFor bankPacket = { queue := 0, tag := 7, seq := 1, opcode := 5 } := by decide +kernel
  have done : exec bankWrite swappingDev = .next ((swappingDev.begun bankPacket).regWrite (swappingDev.outOf bankPacket)) := exec_regWrite hb
  obtain ⟨-, -, -, -, hwrite⟩ := hall swappingDev healthClearHdr 0 0 0 true 1 bankPacket rfl (by show 0 < 16 ∧ 0 < 8 ∧ 0 < 64; decide) hb
  generalize swappingDev.begun bankPacket = u at hg hslots hwrite done
  have hs : u.slot 0 = { } := by rw [State.slot, hslots]; rfl
  have ho : u.slotOwner (8 * 0 + 0) = 0 := by rw [State.slotOwner, hs]; rfl
  have hq : u.causeOf 0 1 = { queue := 0, seq := 1 } := hg.causeOf
  have hdone : exec bankWrite swappingDev = .next (u.bankWritten { queue := 0, seq := 1 }) := by
    have hw : u.regWrite (swappingDev.outOf bankPacket) = (u.bankWritten (u.causeOf 0 1)).complete 0 1 _ _ :=
      State.regWrite_some (State.pokeLogged_bankB hs _ _)
    rw [done, hw, hg.complete_bankWritten, hq]
  have hstated : exec bankWrite swappingDev = .next (u.bankWritten { queue := 0, tag := 7, seq := 1, opcode := 5 }) := by
    rw [ho, hs] at hwrite
    obtain ⟨stated, -⟩ := hwrite (by decide) rfl
    simp only [↓reduceIte] at stated
    rw [if_neg (by decide), hc] at stated
    exact stated.trans (congrArg Host.Outcome.next (hg.complete_bankWritten _ _ _))
  have ht := State.journalNow_tag (Host.Outcome.next.inj (hdone.symm.trans hstated)) rfl
  exact absurd ht (by decide)
end

section
/-!
PROOFS. UNBIND of a slot (07 R224) notes the cause that its queue holds when it is carried out, and not always the one with which it was
accepted: the read of its entry can make the device leave its pair (13 R434), and a ROLE_SWAP under way then completes (14 R463).
-/

set_option Elab.async false

namespace Sys2Proof.Machine

open Sys2Proof

/-! ## A device that is not STANDBY leaves its pair (14 R463, R479) -/

/-- Out of the pair, with the queues and the commands under way as they were, an ATTACH and a ROLE_SWAP end. -/
theorem State.leavePair_eq {s : State} (hr : s.twin.role ≠ .standby) (hp : s.twin.pair ≠ .none) (reason : BitVec 4) :
    ∃ y : State, s.leavePair reason = (y.attachEnds St.flagged).swapEnds ∧ y.twin.pair = .none ∧ y.twin.attachBy = s.twin.attachBy ∧
      y.twin.swapAt = s.twin.swapAt ∧ ∀ q, (y.queue q).merged = (s.queue q).merged := by
  have hf : s.unmirror.forgetWork = s.unmirror := by rw [State.forgetWork, if_neg (show s.unmirror.twin.role ≠ .standby from hr)]
  rw [State.leavePair, if_neg hp]
  dsimp only
  rw [hf]
  refine ⟨_, rfl, ?_⟩
  obtain ⟨o, ht, hq⟩ := State.twinChange_keeps (s := s.unmirror)
    (v := { s.unmirror.twin with leaveReason := reason, role := .solo, pair := .none, active := false,
                                 peerLowAt := if s.unmirror.twin.peerActive then s.unmirror.twin.peerLowAt else some s.unmirror.up,
                                 out := s.unmirror.twin.out ++ [.leaving] }) hr
  refine ⟨by rw [ht]; rfl, by rw [ht]; rfl, by rw [ht]; rfl, fun q => ?_⟩
  rw [State.queue, hq, ← State.unmirror_merged]
  rfl

/-- A ROLE_SWAP is under way under the number `sq` of queue `q`, on a device of a pair that is not STANDBY. -/
structure State.SwapNumbered (q sq : Nat) (s : State) : Prop where
  role : s.twin.role ≠ .standby
  paired : s.twin.pair ≠ .none
  swap : ∃ c, s.twin.swapAt = some (c, q, sq)
  attach : s.twin.attachBy = none
  merged : (s.queue q).merged = none

section
variable {q sq : Nat} {s : State}

theorem State.SwapNumbered.congr {t : State} (h : s.SameWork t) (w : s.SwapNumbered q sq) : t.SwapNumbered q sq := by
  obtain ⟨h1, h2, h3, h4, h5⟩ := w
  exact ⟨by rwa [h.1], by rwa [h.1], by rwa [h.1], by rwa [h.1], by rwa [h.queue]⟩

theorem State.SwapNumbered.leavePair_gone (w : s.SwapNumbered q sq) (reason : BitVec 4) : (s.leavePair reason).Gone q sq := by
  obtain ⟨c, hc⟩ := w.swap
  obtain ⟨y, he, hp, ha, hs, hm⟩ := State.leavePair_eq w.role w.paired reason
  rw [he, State.attachEnds, ha, w.attach]
  dsimp only
  rw [State.swapEnds, hs, hc]
  exact State.complete_gone (s := y.setTwin { y.twin with swapAt := none }) ((hm q).trans w.merged) hp _ _

/-! ## A read that fails its pseudo-channel (13 R434) -/

variable {b : Nat}

theorem State.SwapNumbered.meetBurst_gone (w : s.SwapNumbered q sq) (h : s.Failing b) : (s.meetBurst b 2).Gone q sq := by
  have hc := h.pcs _ (h.pcOf_lt b)
  have hl : ((s.burstLost b).pc (s.pcOf b)).failed = false := by rw [State.burstLost_failed, hc]
  have sixteenth : ((s.up :: (s.pc (s.pcOf b)).uncAt).take 16).length = 16 := by rw [hc]; rfl
  have first : ((s.up :: (s.pc (s.pcOf b)).uncAt).take 16).getLastD 0 = 0 := by rw [hc]; rfl
  obtain ⟨y, hy, he⟩ := State.pcFailed_eq hl
  have wy : y.SwapNumbered q sq := w.congr ((State.burstLost_sameWork b s).trans hy)
  rw [State.meetBurst_uncorrectable b (by decide), if_pos ⟨sixteenth, by rw [State.burstLost_up, first]; exact h.young⟩, he, if_neg wy.paired]
  exact wy.leavePair_gone 7

theorem State.SwapNumbered.useLine_gone (w : s.SwapNumbered q sq) (h : s.Failing b) : (s.useLine (b / 128 * 128) false false).1.Gone q sq := by
  have hn : s.cached (b / 128 * 128) = none := by simp [State.cached, h.cache]
  have he := h.event 0x209 (s.sliceAt (b / 128 * 128)) 1
  have we := w.congr (State.event_sameWork 0x209 (s.sliceAt (b / 128 * 128)) 1 s)
  simp only [State.useLine, hn]
  generalize s.event 0x209 _ 1 = t at he we ⊢
  have hf : (t.pc (t.pcOf (b / 128 * 128))).failed = false := by rw [he.pcs _ (he.pcOf_lt _)]
  have hb : t.badBursts (b / 128 * 128) 128 = [(b, 2)] := by
    have : b / 128 * 128 / 32 * 32 ≤ b ∧ b < b / 128 * 128 + 128 := by omega
    simp [State.badBursts, he.upset, this]
  simp only [State.loadLine, hf, hb, Bool.false_and, Bool.false_eq_true, if_false]
  exact (we.meetBurst_gone he).congr (State.event_sameWork ..)

theorem State.SwapNumbered.hbmRead_gone (w : s.SwapNumbered q sq) (h : s.Failing b) {n : Nat} (hn : 0 < n) : (s.hbmRead b n).2.1.Gone q sq := by
  obtain ⟨ls, hl⟩ : ∃ ls, linesOf b n = b / 128 * 128 :: ls := by
    rw [linesOf, if_neg (by omega), List.range_succ_eq_map, List.map_cons, Nat.add_zero]
    exact ⟨_, rfl⟩
  have hg := w.useLine_gone h
  show (s.useLines b false false (linesOf b n)).1.Gone q sq
  rw [hl, State.useLines_cons]
  exact hg.congr (State.useLines_sameWork _ _ _ _ hg.unpaired)

end

/-! ## UNBIND of a slot (07 R224) -/

theorem exec_unbind {s : State} {h : Header} {pl : List Byte} (hb : s.Begins (packet 0x1002 h pl)) :
    exec (.unbind h pl) s = .next ((s.begun (packet 0x1002 h pl)).unbind (s.outOf (packet 0x1002 h pl))) := by
  have hop : (s.outOf (packet 0x1002 h pl)).pkt.op = 0x1002 := State.outOf_op _ _
  have hr : s.submit (packet 0x1002 h pl) = _ := hb.submit_eq (by simp) (by simp [Packet.isData])
  show Host.Outcome.next (s.submit (packet 0x1002 h pl)) = _
  rw [hr]
  simp only [State.runOp, hop]

/-- UNBIND completes at its acceptance, and a slot with phases stays until its next one. -/
theorem State.unbind_slot {o : Outst} {u : State} (hk : fld o.pkt.hdr.w0 0 4 = 0) :
    u.unbind o = ((u.leaveLaunch true (fld o.pkt.hdr.w0 8 16)).unbindSlot (fld o.pkt.hdr.w0 8 16) (u.causeOf o.pkt.q o.seq)).complete
      o.pkt.q o.seq { } { } := by
  simp only [State.unbind, unbindKind, hk]
  rfl

theorem State.grid_running {n c : Nat} {s : State} (hst : (s.slot n).st = .running) (hc : (s.slot n).start = some c) (hd : (s.slot n).destKind ≠ 2) :
    s.grid n = some (c + (s.slot n).sampleOff, (s.slot n).period) := by
  rw [State.grid, State.gridOf]
  simp only [hst, hc, if_neg hd]

theorem State.unbindSlot_unbindAt {n b d : Nat} {s : State} (hg : s.grid n = some (b, d)) (c : Cause) :
    ((s.unbindSlot n c).slot n).unbindAt = some (nextAt b d s.now, c) := by
  simp only [State.unbindSlot, hg, State.updSlot_eq, State.setSlot_slot]

theorem State.unbindSlot_sameWork {n b d : Nat} {s : State} (hg : s.grid n = some (b, d)) (c : Cause) : s.SameWork (s.unbindSlot n c) := by
  simp only [State.unbindSlot, hg]
  exact ⟨rfl, rfl⟩

/-- Where the entry of the first command of Q1 lies in the device region: the place is not given (log entry 158). -/
def entryPlace1 : Nat := hbmDev + 32 * (Config.devPlace 5 1 1 % 0x7000000)

/-- A slot that runs, with a phase every 1,000 ns. -/
def unbindingSlot : Slot := { st := .running, start := some 0, phase := 0x0003E80000000100 }

/-- A SOLO device, in service, that still has a SYNCED peer, with a slot that runs. Its ROLE_SWAP under way bears the number that Q1 gives
next, and the place of the entry with that number is uncorrectable, the sixteenth burst within 1 s that its pseudo-channel loses. -/
def unbindingDev : State :=
  { mg := { dev := .service, inReset := false }
    queues := [(1, { Queue.reset 1 with enabled := true })]
    slots := [(0, unbindingSlot)]
    hbm := { upset := [(entryPlace1, 2)], pcs := (List.range 32).map (fun n => (n, { mapped := true, uncAt := List.replicate 15 0 })) }
    twin := { role := .solo, pair := .synced, swapAt := some (100000, 1, 1) } }

/-- UNBIND of slot 0 on Q1, with tag 7. -/
def unbindHdr : Header :=
  { flags := 0, queue := 1, payloadLen := 0, tag := 7, cones := 0, dlSec := 0, dlNs := 0, rsvd := 0, w0 := 0, w1 := 0, w2 := 0, w3 := 0 }

theorem unbindingDev_begins : unbindingDev.Begins (packet 0x1002 unbindHdr []) where
  running := by decide +kernel
  alone := by decide +kernel
  header := by decide +kernel
  fresh := by decide +kernel
  allowed := by decide +kernel
  own := by decide +kernel
  named := by decide +kernel
  ready := by decide +kernel
  readable := by rfl

/-- As its entry is read, the number of the command goes to the ROLE_SWAP, and it is no longer outstanding. -/
theorem unbindingDev_gone : (unbindingDev.begun (packet 0x1002 unbindHdr [])).Gone 1 1 := by
  have failing : (unbindingDev.accepting (packet 0x1002 unbindHdr [])).2.1.Failing entryPlace1 :=
    { upset := by rfl, cache := by rfl, pcs := by decide +kernel, young := by decide +kernel }
  have numbered : (unbindingDev.accepting (packet 0x1002 unbindHdr [])).2.1.SwapNumbered 1 1 :=
    { role := by decide +kernel, paired := by decide +kernel, swap := ⟨100000, by rfl⟩, attach := by rfl, merged := by rfl }
  exact State.devRead_gone (numbered.hbmRead_gone failing (by decide))

end Sys2Proof.Machine

open Sys2Proof Sys2Proof.Machine

/-- Refutes O32: its clause on UNBIND of a slot notes the cause with which the command was accepted. On `unbindingDev` the command is no
longer outstanding when it has its effect, so that the cause bears no tag. The statement ranges over every state: in this one a SOLO device
has a SYNCED peer and a ROLE_SWAP with a number that its queue has not given yet, which no run is shown to reach. -/
theorem not_bindingCommands : ¬ Obligations.BindingCommands := by
  unfold Obligations.BindingCommands
  rintro ⟨-, hall⟩
  have hb := unbindingDev_begins
  have hg := unbindingDev_gone
  have hslots : (unbindingDev.begun (packet 0x1002 unbindHdr [])).slots = unbindingDev.slots := State.begun_slots _ _
  have hc : unbindingDev.causeFor (packet 0x1002 unbindHdr []) = { queue := 1, tag := 7, seq := 1, opcode := 0x1002 } := by decide +kernel
  have done := exec_unbind hb
  obtain ⟨hslot, -⟩ := hall unbindingDev unbindHdr [] hb
  have stated := hslot rfl
  generalize unbindingDev.begun (packet 0x1002 unbindHdr []) = u at hg hslots stated done
  have hs : (u.leaveLaunch true 0).slot 0 = unbindingSlot := by
    show Tbl.get _ _ u.slots = _
    rw [hslots]
    rfl
  have hgrid : (u.leaveLaunch true 0).grid 0 = some (0, 1000) := by
    rw [State.grid_running (c := 0) (by rw [hs]; rfl) (by rw [hs]; rfl) (by rw [hs]; decide), hs]
    rfl
  have completes : ∀ c, ((u.leaveLaunch true 0).unbindSlot 0 c).complete 1 1 { } { } = (u.leaveLaunch true 0).unbindSlot 0 c := by
    intro c
    have left : (u.leaveLaunch true 0).Gone 1 1 := State.Gone.congr (s := u) ⟨rfl, rfl⟩ hg
    exact State.complete_of_outstOf_none (left.congr (State.unbindSlot_sameWork hgrid c)).done _ _
  have hq : u.causeOf 1 1 = { queue := 1, seq := 1 } := hg.causeOf
  have hdone : exec (.unbind unbindHdr []) unbindingDev = .next ((u.leaveLaunch true 0).unbindSlot 0 { queue := 1, seq := 1 }) := by
    have hu : u.unbind (unbindingDev.outOf (packet 0x1002 unbindHdr [])) =
        ((u.leaveLaunch true 0).unbindSlot 0 (u.causeOf 1 1)).complete 1 1 { } { } := State.unbind_slot rfl
    rw [done, hu, completes, hq]
  have hstated : exec (.unbind unbindHdr []) unbindingDev =
      .next ((u.leaveLaunch true 0).unbindSlot 0 { queue := 1, tag := 7, seq := 1, opcode := 0x1002 }) := by
    rw [hc] at stated
    exact stated.trans (congrArg Host.Outcome.next (completes _))
  have he := congrArg (fun t : State => (t.slot 0).unbindAt) (Host.Outcome.next.inj (hdone.symm.trans hstated))
  simp only [State.unbindSlot_unbindAt hgrid] at he
  have tags : (0 : BitVec 32) = 7 := congrArg (fun x : Nat × Cause => x.2.tag) (Option.some.inj he)
  exact absurd tags (by decide)
end

section
/-!
SUPPORT. The line code of the cell links (09 R292, R293; log entry 193): a code group is a six-bit and a four-bit sub-block, at either running
disparity no two characters share one, and a frame is read back whole.
-/

set_option Elab.async false

namespace Sys2Proof.Machine

open Sys2Proof

/-! ## The two sub-blocks of a code group -/

/-- The row of a character in the six-bit table, to which K28 adds a row of its own. -/
def Sym.row (c : Sym) : Nat := if c.k && decide (c.x = 28) then 32 else c.x

/-- The six-bit sub-block of a row at a running disparity. -/
def sixForm (rd : Bool) (i : Nat) : Nat :=
  let six := (sixTable ++ [0b001111]).getD i 0
  subBlock 6 six (decide (2 * onesOf 6 six ≠ 6) || decide (six = 0b111000)) rd

/-- The rows at which Dx.7 takes its alternate form at a running disparity. -/
def alternateRow (rd : Bool) (x : Nat) : Bool := if rd then decide (x = 11 ∨ x = 13 ∨ x = 14) else decide (x = 17 ∨ x = 18 ∨ x = 20)

/-- The four-bit sub-block of a control or data character at a running disparity, where `alt` marks a row with an alternate form of Dx.7. -/
def fourForm (rd k alt : Bool) (y : Nat) : Nat :=
  let four := if k then fourTableK.getD y 0 else if !k && decide (y = 7) && alt then 0b0111 else fourTable.getD y 0
  subBlock 4 four (k || decide (2 * onesOf 4 four ≠ 4) || decide (four = 0b1100)) rd

/-- The running disparity between the two sub-blocks of a character. -/
def Sym.between (rd : Bool) (c : Sym) : Bool := rdAfter 6 (sixForm rd c.row) rd

/-- The four-bit sub-block of a character. -/
def Sym.four (rd : Bool) (c : Sym) : Nat := fourForm (c.between rd) c.k (alternateRow (c.between rd) c.x) c.y

theorem Sym.x_lt (c : Sym) : c.x < 32 := Nat.mod_lt _ (by decide)

theorem Sym.y_lt (c : Sym) : c.y < 8 := by
  have := c.b.isLt
  unfold Sym.y
  omega

theorem Sym.ext_parts {c d : Sym} (hk : c.k = d.k) (hx : c.x = d.x) (hy : c.y = d.y) : c = d := by
  obtain ⟨k, b⟩ := c
  obtain ⟨l, e⟩ := d
  have hb : b = e := BitVec.eq_of_toNat_eq (by simp only [Sym.x, Sym.y] at hx hy; omega)
  simp only at hk
  rw [hk, hb]

theorem Sym.row_lt (c : Sym) : c.row < 33 := by
  have := c.x_lt
  unfold Sym.row
  split <;> omega

theorem Sym.row_special {c : Sym} (hk : c.k = true) (hx : c.x = 28) : c.row = 32 := by simp [Sym.row, hk, hx]

theorem Sym.row_plain {c : Sym} (h : c.k = false ∨ c.x ≠ 28) : c.row = c.x := by
  obtain h | h := h <;> simp [Sym.row, h]

theorem Sym.getD_row (c : Sym) : (sixTable ++ [0b001111]).getD c.row 0 = if c.k && decide (c.x = 28) then 0b001111 else sixTable.getD c.x 0 := by
  unfold Sym.row
  split
  · rfl
  · exact List.getD_append _ _ _ _ c.x_lt

/-- A code group is its two sub-blocks, and the disparity after it is that after the second. -/
theorem codeGroup_eq (rd : Bool) (c : Sym) :
    codeGroup rd c = (BitVec.ofNat 10 (16 * sixForm rd c.row + c.four rd), rdAfter 4 (c.four rd) (c.between rd)) := by
  simp only [Sym.four, Sym.between, sixForm, Sym.getD_row]
  rfl

theorem sixForm_lt : ∀ rd, ∀ i < 33, sixForm rd i < 64 := by decide +kernel

theorem fourForm_lt : ∀ rd k alt, ∀ y < 8, fourForm rd k alt y < 16 := by decide +kernel

theorem Sym.four_lt (rd : Bool) (c : Sym) : c.four rd < 16 := fourForm_lt _ _ _ _ c.y_lt

theorem codeGroup_toNat (rd : Bool) (c : Sym) : (codeGroup rd c).1.toNat = 16 * sixForm rd c.row + c.four rd := by
  have hs := sixForm_lt rd c.row c.row_lt
  have hf := c.four_lt rd
  rw [codeGroup_eq]
  exact (BitVec.toNat_ofNat _ _).trans (Nat.mod_eq_of_lt (by omega))

/-- The first six bits of a code group are the sub-block of the row. -/
theorem codeGroup_six (rd : Bool) (c : Sym) : (codeGroup rd c).1.toNat / 16 = sixForm rd c.row := by
  have := c.four_lt rd
  rw [codeGroup_toNat]
  omega

theorem codeGroup_four (rd : Bool) (c : Sym) : (codeGroup rd c).1.toNat % 16 = c.four rd := by
  have := c.four_lt rd
  rw [codeGroup_toNat]
  omega

/-! ## No two characters share a code group -/

theorem sixForm_nodup : ∀ rd, ((List.range 33).map (sixForm rd)).Nodup := by decide +kernel

theorem sixForm_inj {rd : Bool} {i j : Nat} (hi : i < 33) (hj : j < 33) (h : sixForm rd i = sixForm rd j) : i = j :=
  List.inj_on_of_nodup_map (sixForm_nodup rd) (List.mem_range.mpr hi) (List.mem_range.mpr hj) h

/-- Among data characters of one row, and among control characters, the second sub-block gives y. -/
theorem fourForm_inj : ∀ rd k alt, ∀ y < 8, ∀ z < 8, fourForm rd k alt y = fourForm rd k alt z → y = z := by decide +kernel

/-- In a row without an alternate form no data character has the second sub-block of Kx.7. -/
theorem fourForm_data_ne_control : ∀ rd, ∀ y < 8, fourForm rd false false y ≠ fourForm rd true false 7 := by decide +kernel

/-- The rows of the control characters other than K28 have no alternate form. -/
theorem alternateRow_control {x : Nat} (hx : x ∈ [23, 27, 29, 30]) (rd : Bool) : alternateRow rd x = false := by
  revert x
  cases rd <;> decide

/-- A control character is a K28, or a K23.7, K27.7, K29.7 or K30.7. -/
theorem Sym.control_of_mem {c : Sym} (h : c ∈ symbols) (hk : c.k = true) : c.x = 28 ∨ (c.x ∈ [23, 27, 29, 30] ∧ c.y = 7) := by
  have controls : ∀ b ∈ ([0x1C, 0x3C, 0x5C, 0x7C, 0x9C, 0xBC, 0xDC, 0xFC, 0xF7, 0xFB, 0xFD, 0xFE] : List Byte),
      b.toNat % 32 = 28 ∨ (b.toNat % 32 ∈ [23, 27, 29, 30] ∧ b.toNat / 32 = 7) := by decide
  obtain h | h := List.mem_append.mp h
  · obtain ⟨b, -, rfl⟩ := List.mem_map.mp h
    exact absurd hk Bool.false_ne_true
  · obtain ⟨b, hb, rfl⟩ := List.mem_map.mp h
    exact controls b hb

theorem Sym.data_mem_symbols (b : Byte) : { k := false, b := b } ∈ symbols :=
  List.mem_append_left _ (List.mem_map.mpr ⟨b.toNat, List.mem_range.mpr b.isLt, by rw [BitVec.ofNat_toNat, BitVec.setWidth_eq]⟩)

/-- A data character and a control character of one row differ in the second sub-block. -/
theorem Sym.four_data_ne_control {rd : Bool} {c d : Sym} (hd : d ∈ symbols) (hc : c.k = false) (hk : d.k = true) (hrow : c.row = d.row) :
    c.four rd ≠ d.four rd := by
  rw [Sym.row_plain (.inl hc)] at hrow
  obtain h28 | ⟨hx, hy⟩ := Sym.control_of_mem hd hk
  · rw [Sym.row_special hk h28] at hrow
    exact absurd hrow (Nat.ne_of_lt c.x_lt)
  · have hne : d.x ≠ 28 := fun h => by simp [h] at hx
    rw [Sym.row_plain (.inr hne)] at hrow
    have hb : c.between rd = d.between rd := by
      simp only [Sym.between, Sym.row_plain (.inl hc), Sym.row_plain (.inr hne), hrow]
    simp only [Sym.four, hb, hc, hk, hrow, hy, alternateRow_control hx]
    exact fourForm_data_ne_control _ _ c.y_lt

theorem codeGroup_inj {rd : Bool} {c d : Sym} (hc : c ∈ symbols) (hd : d ∈ symbols) (h : (codeGroup rd c).1 = (codeGroup rd d).1) : c = d := by
  have hrow : c.row = d.row := sixForm_inj c.row_lt d.row_lt (by rw [← codeGroup_six, h, codeGroup_six])
  have hfour : c.four rd = d.four rd := by rw [← codeGroup_four, h, codeGroup_four]
  have hk : c.k = d.k := by
    cases hck : c.k <;> cases hdk : d.k
    · rfl
    · exact absurd hfour (Sym.four_data_ne_control hd hck hdk hrow)
    · exact absurd hfour.symm (Sym.four_data_ne_control hc hdk hck hrow.symm)
    · rfl
  have hx : c.x = d.x := by
    have := c.x_lt
    have := d.x_lt
    simp only [Sym.row, hk] at hrow
    grind
  have hb : c.between rd = d.between rd := by rw [Sym.between, hrow, Sym.between]
  exact Sym.ext_parts hk hx (fourForm_inj _ _ _ _ c.y_lt _ d.y_lt (by simpa only [Sym.four, hb, hk, hx] using hfour))

/-! ## What is sent is read back (R292) -/

theorem charOf_codeGroup {rd : Bool} {c : Sym} (hc : c ∈ symbols) : charOf rd (codeGroup rd c).1 = some c := by
  cases hf : charOf rd (codeGroup rd c).1 with
  | none => exact absurd (decide_eq_true rfl) (List.find?_eq_none.mp hf c hc)
  | some d =>
    have hg := List.find?_some hf
    exact congrArg some (codeGroup_inj (List.mem_of_find?_eq_some hf) hc (of_decide_eq_true hg))

/-- The receiver's disparity follows that of the transmitter. -/
theorem rdAfter_codeGroup (rd : Bool) (c : Sym) :
    rdAfter 4 ((codeGroup rd c).1.toNat % 16) (rdAfter 6 ((codeGroup rd c).1.toNat / 16) rd) = (codeGroup rd c).2 := by
  rw [codeGroup_four, codeGroup_six, codeGroup_eq]
  rfl

theorem received_codeGroups {cs : List Sym} (h : ∀ c ∈ cs, c ∈ symbols) (rd : Bool) : received rd (codeGroups rd cs).1 = cs.map some := by
  induction cs generalizing rd with
  | nil => rfl
  | cons c cs ih =>
    obtain ⟨hc, hcs⟩ := List.forall_mem_cons.mp h
    simp only [codeGroups, received, List.map_cons, charOf_codeGroup hc, rdAfter_codeGroup, ih hcs]

theorem frameSyms_mem_symbols {bs : List Byte} {c : Sym} (h : c ∈ frameSyms bs) : c ∈ symbols := by
  simp only [frameSyms, List.mem_cons, List.mem_append, List.mem_map, List.not_mem_nil, or_false] at h
  obtain rfl | ⟨b, -, rfl⟩ | rfl := h
  · decide
  · exact Sym.data_mem_symbols b
  · decide

/-- A frame received at the disparity at which it was sent is read back whole, with no invalid character. -/
theorem frameIn_codeGroups (rd : Bool) (bs : List Byte) : frameIn rd (codeGroups rd (frameSyms bs)).1 = (bs, false) := by
  have hcs : received rd (codeGroups rd (frameSyms bs)).1 = some Sym.sof :: (bs.map (fun b => some { k := false, b := b }) ++ [some Sym.eof]) := by
    rw [received_codeGroups (fun _ => frameSyms_mem_symbols)]
    simp [frameSyms]
  have hbytes : (bs.map (fun b => some ({ k := false, b := b } : Sym))).filterMap (fun c => c.bind (fun d => if d.k then none else some d.b)) = bs := by
    simp [List.filterMap_map]
  have hlast : (some Sym.sof :: (bs.map (fun b => some ({ k := false, b := b } : Sym)) ++ [some Sym.eof])).getLast? = some (some Sym.eof) := by
    rw [← List.cons_append, List.getLast?_concat]
  simp only [frameIn, hcs, hlast, List.drop_succ_cons, List.drop_zero, List.dropLast_concat, hbytes]
  simp [invalidChar, Sym.sof, Sym.eof]

/-! ## A frame with an invalid character is not good (R293) -/

theorem goodFrame_invalid (fr : List Byte) : goodFrame true fr = false := rfl

/-- A code group that is no character at its disparity, or a K character that the link does not use, is invalid. -/
theorem invalidChar_of {c : Option Sym} (h : c = none ∨ ∃ d, c = some d ∧ d.k = true ∧ d ≠ Sym.sof ∧ d ≠ Sym.eof ∧ d.b ≠ 0xBC) :
    invalidChar c = true := by
  obtain rfl | ⟨⟨k, b⟩, rfl, hk, hsof, heof, hb⟩ := h
  · rfl
  · simp_all [invalidChar, Sym.sof, Sym.eof]

theorem frameIn_invalid {rd : Bool} {gs : List (BitVec 10)} {c : Option Sym} (hc : c ∈ received rd gs) (h : invalidChar c = true) :
    (frameIn rd gs).2 = true := by
  have hany : (received rd gs).any invalidChar = true := List.any_eq_true.mpr ⟨c, hc, h⟩
  simp only [frameIn, hany, Bool.true_or]

end Sys2Proof.Machine
end

section
/-!
SUPPORT. Trips and PWM pairs: what becomes of each pair as the causes settle, and when a pair loads its shadow and drives again
(08 R271 to R275, R280, R282).
-/

set_option Elab.async false

namespace Sys2Proof.Machine

open Sys2Proof

/-! ## What an event of the counters leaves unchanged -/

@[simp] theorem State.event_pair (ev inst n : Nat) (s : State) (p : Nat) : (s.event ev inst n).pair p = s.pair p := by
  obtain ⟨e, h⟩ := State.event_eq ev inst n s
  rw [h]
  rfl

@[simp] theorem State.event_trips (ev inst n : Nat) (s : State) : (s.event ev inst n).trips = s.trips := by
  obtain ⟨e, h⟩ := State.event_eq ev inst n s
  rw [h]

@[simp] theorem State.event_now (ev inst n : Nat) (s : State) : (s.event ev inst n).now = s.now := by
  rw [State.now, State.event_tb, State.now]

section
variable {s : State} {src n p : Nat}

/-! ## Causes (R273, R274) -/

theorem State.caused_eq_false : s.caused p = false ↔ (s.pair p).pairCause = false ∧ (s.pair p).unitCause = false ∧
    ∀ m < 83, ((s.tripSrc m).latch && bit (s.tripSrc m).mask p) = false := by
  simp only [State.caused, Bool.or_eq_false_iff, List.any_eq_false, List.mem_range, Bool.not_eq_true, and_assoc]

theorem State.caused_of_latch (hn : n < 83) (hl : (s.tripSrc n).latch = true) (hm : bit (s.tripSrc n).mask p = true) : s.caused p = true := by
  by_contra h
  obtain ⟨-, -, hall⟩ := State.caused_eq_false.mp (Bool.eq_false_iff.mpr h)
  have := hall n hn
  rw [hl, hm] at this
  exact absurd this (by decide)

theorem State.caused_congr {t : State} (hp : t.pair p = s.pair p) (ht : t.trips = s.trips) : t.caused p = s.caused p := by
  simp only [State.caused, State.tripSrc, hp, ht]

/-- A pair after its causes settle, `caused` being whether it has one (R274, R275). -/
def Pair.settled (caused : Bool) (src now : Nat) (x : Pair) : Pair :=
  if caused then
    if x.safe then { x with clearAt := none }
    else { x with safe := true, clearAt := none, hOn := false, lOn := false, firstSrc := BitVec.ofNat 7 src, firstStamp := short now,
                  firstValid := true }
  else if x.safe && x.loaded && x.clearAt.isNone then { x with clearAt := some now } else x

theorem Pair.settled_caused_safe {now : Nat} (x : Pair) : (x.settled true src now).safe = true := by
  simp only [Pair.settled, if_true]
  split
  · assumption
  · rfl

theorem Pair.settled_first {now : Nat} {x : Pair} (h : x.safe = false) : x.settled true src now =
    { x with safe := true, clearAt := none, hOn := false, lOn := false, firstSrc := BitVec.ofNat 7 src, firstStamp := short now, firstValid := true } := by
  simp [Pair.settled, h]

theorem Pair.settled_uncaused_safe {now : Nat} (x : Pair) : (x.settled false src now).safe = x.safe := by
  simp only [Pair.settled, Bool.false_eq_true, if_false]
  split <;> rfl

theorem State.settlePair_pair : (s.settlePair src p).pair p = (s.pair p).settled (s.caused p) src s.now := by
  unfold State.settlePair Pair.settled
  split_ifs <;> simp [*]

theorem State.settlePair_pair_ne {q : Nat} (h : q ≠ p) : (s.settlePair src p).pair q = s.pair q := by
  unfold State.settlePair
  dsimp only
  split_ifs <;> simp [State.setPair_pair_ne _ _ _ _ h]

theorem State.settlePair_trips : (s.settlePair src p).trips = s.trips := by
  unfold State.settlePair
  dsimp only
  split_ifs <;> simp

theorem State.settlePair_now : (s.settlePair src p).now = s.now := by
  unfold State.settlePair
  dsimp only
  split_ifs <;> simp

/-- As the first `k` pairs settle, each of them does by its own causes, and the others, the sources and the count stay. -/
theorem State.settleFirst (k : Nat) (s : State) :
    let t := (List.range k).foldl (fun s p => s.settlePair src p) s
    t.trips = s.trips ∧ t.now = s.now ∧ ∀ p, t.pair p = if p < k then (s.pair p).settled (s.caused p) src s.now else s.pair p := by
  induction k with
  | zero => exact ⟨rfl, rfl, fun p => (if_neg (Nat.not_lt_zero p)).symm⟩
  | succ k ih =>
    obtain ⟨htrips, hnow, hpair⟩ := ih
    simp only [List.range_succ, List.foldl_append, List.foldl_cons, List.foldl_nil]
    generalize (List.range k).foldl (fun s p => s.settlePair src p) s = t at htrips hnow hpair
    refine ⟨State.settlePair_trips.trans htrips, State.settlePair_now.trans hnow, fun p => ?_⟩
    obtain rfl | hp := eq_or_ne p k
    · have hk : t.pair p = s.pair p := by rw [hpair, if_neg (Nat.lt_irrefl p)]
      rw [State.settlePair_pair, State.caused_congr hk htrips, hk, hnow, if_pos (Nat.lt_succ_self p)]
    · rw [State.settlePair_pair_ne hp, hpair]
      exact if_congr (by omega) rfl rfl

theorem State.settlePairs_trips : (s.settlePairs src).trips = s.trips := (State.settleFirst 48 s).1

theorem State.settlePairs_pair (hp : p < 48) : (s.settlePairs src).pair p = (s.pair p).settled (s.caused p) src s.now :=
  ((State.settleFirst 48 s).2.2 p).trans (if_pos hp)

/-! ## A source that is raised (R273, R274) -/

theorem State.raiseTrip_tripSrc : (s.raiseTrip n).tripSrc n = { s.tripSrc n with raised := true, latch := true } := by
  rw [State.tripSrc, State.raiseTrip, State.settlePairs_trips]
  exact State.setTrip_tripSrc ..

theorem State.raiseTrip_pair (hp : p < 48) :
    (s.raiseTrip n).pair p = (s.pair p).settled ((s.updTrip n (fun t => { t with raised := true, latch := true })).caused p) n s.now :=
  State.settlePairs_pair hp

theorem State.latched_caused (hn : n < 83) (hm : bit (s.tripSrc n).mask p = true) :
    (s.updTrip n (fun t => { t with raised := true, latch := true })).caused p = true := by
  rw [State.updTrip_eq]
  refine State.caused_of_latch hn ?_ ?_ <;> rw [State.setTrip_tripSrc]
  exact hm

theorem State.latched_caused_unmapped (hm : bit (s.tripSrc n).mask p = false) (hc : s.caused p = false) :
    (s.updTrip n (fun t => { t with raised := true, latch := true })).caused p = false := by
  obtain ⟨hpair, hunit, hall⟩ := State.caused_eq_false.mp hc
  rw [State.updTrip_eq]
  refine State.caused_eq_false.mpr ⟨hpair, hunit, fun m hlt => ?_⟩
  obtain rfl | h := eq_or_ne m n
  · rw [State.setTrip_tripSrc]
    exact hm
  · rw [State.setTrip_tripSrc_ne _ _ _ _ h]
    exact hall m hlt

theorem State.tripInput_ignored {low : Bool} {width : Nat}
    (h : s.wit.mode = .replay ∨ (low = true ∧ width < (s.tripSrc n).filterNs) ∨ (s.tripSrc n).raised = low) : s.tripInput n low width = s :=
  if_pos h

theorem State.tripInput_taken {low : Bool} {width : Nat} (hw : s.wit.mode ≠ .replay) (hf : ¬ (low = true ∧ width < (s.tripSrc n).filterNs))
    (hr : (s.tripSrc n).raised ≠ low) : s.tripInput n low width = s.tripEdge n low :=
  if_neg (by simp only [not_or]; exact ⟨hw, hf, hr⟩)

/-! ## Resume (R275) -/

theorem State.pairResume_none (h : (s.pair p).clearAt = none) : s.pairResume p = s := by simp only [State.pairResume, h]

theorem State.pairResume_some {c : Nat} (h : (s.pair p).clearAt = some c) : s.pairResume p =
    if (s.pair p).en && (s.pair p).loaded && (s.pair p).safe && !s.caused p && s.pwmRuns p && decide (nextAt (s.pair p).off (s.pair p).per c ≤ s.now)
    then s.setPair p ((s.pair p).begin_ s.tb.steps12) else s := by
  simp only [State.pairResume, h]

theorem State.pairResume_held (h : (s.pair p).clearAt = none ∨ (s.pair p).en = false ∨ (s.pair p).loaded = false ∨ (s.pair p).safe = false ∨
    s.caused p = true ∨ s.pwmRuns p = false) : s.pairResume p = s := by
  cases hc : (s.pair p).clearAt with
  | none => exact State.pairResume_none hc
  | some c =>
    rw [State.pairResume_some hc, if_neg]
    simp only [hc, reduceCtorEq, false_or] at h
    obtain h | h | h | h | h := h <;> simp [h]

theorem State.pairResume_early {c : Nat} (hc : (s.pair p).clearAt = some c) (ht : s.now < nextAt (s.pair p).off (s.pair p).per c) : s.pairResume p = s := by
  rw [State.pairResume_some hc, if_neg]
  simp [Nat.not_le.mpr ht]

theorem State.pairResume_due {c : Nat} (hc : (s.pair p).clearAt = some c) (he : (s.pair p).en = true) (hl : (s.pair p).loaded = true)
    (hs : (s.pair p).safe = true) (hu : s.caused p = false) (hr : s.pwmRuns p = true) (ht : nextAt (s.pair p).off (s.pair p).per c ≤ s.now) :
    s.pairResume p = s.setPair p ((s.pair p).begin_ s.tb.steps12) := by
  rw [State.pairResume_some hc, if_pos]
  simp [he, hl, hs, hu, hr, ht]

/-! ## The shadow load (R26, R280, R282) -/

/-- The image that a load point at count `l` takes: a shadow written at `l` or later is not yet it (R26). -/
def Pair.imageAt (l : Nat) (x : Pair) : W64 := if x.shadowAt.any (fun w => decide (l ≤ w)) then x.shadowOld else x.shadow

/-- The pair with what it loads at count `l`. -/
def Pair.load (l : Nat) (x : Pair) : Pair :=
  { x with active := x.imageAt l, loaded := true, loadedTo := l,
           clamp := if (Pair.compare x.top (x.imageAt l)).2 then satAdd x.clamp 1 else x.clamp }

/-- The pair after a load: the first one starts a pair without a cause. -/
def State.loadedPair (p l : Nat) (s : State) : Pair :=
  if !(s.pair p).loaded && !s.caused p then ((s.pair p).load l).begin_ s.tb.steps12 else (s.pair p).load l

theorem State.shadowLoad_none (h : (s.pair p).loadPoint s.now = none) : s.shadowLoad p = s := by simp only [State.shadowLoad, h]

theorem Pair.imageAt_unwritten {x : Pair} (hw : x.shadowAt = none) (l : Nat) : x.imageAt l = x.shadow := by simp [Pair.imageAt, hw]

theorem Pair.imageAt_written {x : Pair} {w : Nat} (hw : x.shadowAt = some w) (l : Nat) : x.imageAt l = if w < l then x.shadow else x.shadowOld := by
  by_cases h : w < l <;> simp [Pair.imageAt, hw, h]

theorem State.shadowLoad_some {l : Nat} (h : (s.pair p).loadPoint s.now = some l) : s.shadowLoad p =
    if !(s.pair p).en || l ≤ (s.pair p).loadedTo || !s.pwmRuns p then s
    else
      let t := (s.setPair p (s.loadedPair p l)).event 0x148 p 1
      if (Pair.compare (s.pair p).top ((s.pair p).imageAt l)).2 then t.event 0x149 p 1 else t := by
  cases hw : (s.pair p).shadowAt with
  | none => simp only [State.shadowLoad, h, hw, State.loadedPair, Pair.load, Pair.imageAt_unwritten hw]
  | some w => simp only [State.shadowLoad, h, hw, State.loadedPair, Pair.load, Pair.imageAt_written hw]

theorem State.shadowLoad_held (h : (s.pair p).loadPoint s.now = none ∨ (s.pair p).en = false ∨ s.pwmRuns p = false) : s.shadowLoad p = s := by
  cases hl : (s.pair p).loadPoint s.now with
  | none => exact State.shadowLoad_none hl
  | some l =>
    rw [State.shadowLoad_some hl, if_pos]
    simp only [hl, reduceCtorEq, false_or] at h
    obtain h | h := h <;> simp [h]

theorem State.shadowLoad_again {l : Nat} (hl : (s.pair p).loadPoint s.now = some l) (h : l ≤ (s.pair p).loadedTo) : s.shadowLoad p = s := by
  rw [State.shadowLoad_some hl, if_pos]
  simp [h]

/-- A load changes its own pair, and event counters. -/
theorem State.shadowLoad_pair {l : Nat} (hl : (s.pair p).loadPoint s.now = some l) (he : (s.pair p).en = true) (h : (s.pair p).loadedTo < l)
    (hr : s.pwmRuns p = true) (m : Nat) : (s.shadowLoad p).pair m = (s.setPair p (s.loadedPair p l)).pair m := by
  have hgo : ¬ (!(s.pair p).en || decide (l ≤ (s.pair p).loadedTo) || !s.pwmRuns p) = true := by simp [he, hr, Nat.not_le.mpr h]
  rw [State.shadowLoad_some hl, if_neg hgo]
  dsimp only
  split_ifs <;> simp only [State.event_pair]

theorem Pair.begin_loaded (u : Nat) (x : Pair) :
    (x.begin_ u).active = x.active ∧ (x.begin_ u).loaded = x.loaded ∧ (x.begin_ u).loadedTo = x.loadedTo ∧ (x.begin_ u).safe = false := by
  unfold Pair.begin_ Pair.advance
  dsimp only
  split_ifs <;> exact ⟨rfl, rfl, rfl, rfl⟩

theorem State.loadedPair_image (l : Nat) : (s.loadedPair p l).active = (s.pair p).imageAt l ∧ (s.loadedPair p l).loaded = true ∧
    (s.loadedPair p l).loadedTo = l := by
  unfold State.loadedPair
  split_ifs
  · obtain ⟨ha, hl, ht, -⟩ := Pair.begin_loaded s.tb.steps12 ((s.pair p).load l)
    exact ⟨ha, hl, ht⟩
  · exact ⟨rfl, rfl, rfl⟩

theorem State.loadedPair_keeps {l : Nat} (h : (s.pair p).loaded = true ∨ s.caused p = true) : (s.loadedPair p l).safe = (s.pair p).safe := by
  rw [State.loadedPair, if_neg]
  · rfl
  · obtain h | h := h <;> simp [h]

theorem State.loadedPair_first {l : Nat} (hl : (s.pair p).loaded = false) (hc : s.caused p = false) : (s.loadedPair p l).safe = false := by
  rw [State.loadedPair, if_pos (by simp [hl, hc])]
  exact (Pair.begin_loaded ..).2.2.2

end

end Sys2Proof.Machine
end

section
/-!
SUPPORT. The cell links: what a frame leaves on its link and on the line, and when a downlink, an uplink, a push, a beacon and an echo have
their effect (09 R292 to R308).
-/

set_option Elab.async false

namespace Sys2Proof.Machine

open Sys2Proof

@[simp] theorem State.event_link (ev inst n : Nat) (s : State) (l : Nat) : (s.event ev inst n).link l = s.link l := by
  obtain ⟨e, h⟩ := State.event_eq ev inst n s
  rw [h]
  rfl

@[simp] theorem State.event_sends (ev inst n : Nat) (s : State) (l : Nat) : (s.event ev inst n).sends l = s.sends l := by
  obtain ⟨e, h⟩ := State.event_eq ev inst n s
  rw [h]
  rfl

@[simp] theorem State.setLink_sends (s : State) (n : Nat) (v : Link) (l : Nat) : (s.setLink n v).sends l = s.sends l := rfl

section
variable {s : State} {l : Nat}

/-! ## A frame on the line (R292, R293, R309) -/

theorem Link.place_first {x : Link} (h : x.wire = []) (c : Nat) : x.place c = (c, 2) := by simp [Link.place, Link.lineEnd, h]

/-- A frame begins at its count or two IDLE sets after the frame before it, whichever is later. -/
theorem Link.place_after {x : Link} {e : Nat} (h : x.lineEnd = some e) (c : Nat) :
    c ≤ (x.place c).1 ∧ e + 8 * (x.place c).2 ≤ (x.place c).1 ∧ 2 ≤ (x.place c).2 := by
  simp only [Link.place, h]
  omega

/-- The link after a frame, `drives` being whether its transmitter drives the pin. -/
def Link.withFrame (drives : Bool) (c : Nat) (bs : List Byte) (x : Link) : Link :=
  let g := codeGroups x.txRd (frameSyms bs)
  { x with txRd := g.2, out := if drives then x.out ++ [(c, bs)] else x.out,
           wire := if drives then x.wire ++ [((x.place c).1, (x.place c).2, g.1)] else x.wire }

theorem State.transmit_sends (c : Nat) (bs : List Byte) : (s.transmit l c bs).sends l = s.sends l := by
  unfold State.transmit
  dsimp only
  split <;> rfl

theorem State.transmit_link (c : Nat) (bs : List Byte) : (s.transmit l c bs).link l = (s.link l).withFrame (s.sends l) c bs := by
  unfold State.transmit Link.withFrame
  dsimp only
  simp only [State.updLink_eq, State.setLink_sends, State.setLink_link]
  split
  · exact State.setLink_link ..
  · exact State.setLink_link ..

theorem State.transmit_link_ne {m : Nat} (h : m ≠ l) (c : Nat) (bs : List Byte) : (s.transmit l c bs).link m = s.link m := by
  unfold State.transmit
  dsimp only
  split <;> simp only [State.updLink_eq, State.setLink_link_ne _ _ _ _ h]

theorem State.transmit_driven (h : s.sends l = true) (c : Nat) (bs : List Byte) :
    ((s.transmit l c bs).link l).out = (s.link l).out ++ [(c, bs)] ∧ ((s.transmit l c bs).link l).wire =
      (s.link l).wire ++ [(((s.link l).place c).1, ((s.link l).place c).2, (codeGroups (s.link l).txRd (frameSyms bs)).1)] := by
  rw [State.transmit_link, h]
  exact ⟨rfl, rfl⟩

theorem State.sends_of_underTest (h : s.underTest (99 + l / 8) = true) : s.sends l = false := by simp [State.sends, h]

theorem State.sends_or_underTest : s.sends l = s.linkDrives ∨ s.underTest (99 + l / 8) = true := by
  cases h : s.underTest (99 + l / 8) with
  | false => exact .inl (by simp [State.sends, h])
  | true => exact .inr rfl

/-- While no frame is on the line of a link that sends, the line carries IDLE. -/
theorem State.clTx_idle (hs : s.sends l = true) (hr : s.mg.inReset = false) (hd : (s.dom (99 + l / 8)).rung = 0)
    (hw : ∀ w ∈ (s.link l).wire, ¬ (w.1 ≤ s.now ∧ s.now < w.1 + 4 * w.2.2.length)) :
    s.clTx l = (codeGroups (s.link l).txRd Sym.idle).1[s.now / 4 % 2]? := by
  have hnone : (s.link l).wire.find? (fun w => decide (w.1 ≤ s.now ∧ s.now < w.1 + 4 * w.2.2.length)) = none :=
    List.find?_eq_none.mpr (fun w h => by simpa using hw w h)
  simp only [State.clTx, hs, hr, hd, hnone, Bool.not_true, Bool.or_self, ne_eq, not_true_eq_false, decide_false, Bool.false_eq_true, if_false]

/-! ## BLOCK (R297, R298) -/

theorem State.cellWord_blocked (h : s.blocked l = true) (c a : Nat) : s.cellWord l c a = 0xFFFF := if_pos h

theorem State.blocked_of (h : (s.tripSrc 80).latch = true ∨ (s.tripSrc 82).latch = true ∨ (s.link l).unitHold = true) : s.blocked l = true := by
  obtain h | h | h := h <;> simp [State.blocked, h]

/-! ## The downlink of a period (R298, R299, R303) -/

/-- The link as a period begins: an uplink that the last one did not have is counted. -/
def Link.periodEnded (x : Link) : Link := { x with ulMissing := if x.ulDue && !x.ulSeen then satAdd x.ulMissing 1 else x.ulMissing, ulDue := false }

theorem State.uplinkMissed_link : (s.uplinkMissed l).link l = (s.link l).periodEnded := by
  unfold State.uplinkMissed Link.periodEnded
  dsimp only
  split <;> simp

theorem State.uplinkMissed_link_ne {m : Nat} (h : m ≠ l) : (s.uplinkMissed l).link m = s.link m := by
  unfold State.uplinkMissed
  dsimp only
  split <;> simp [State.setLink_link_ne _ _ _ _ h]

theorem State.uplinkMissed_sends : (s.uplinkMissed l).sends l = s.sends l := by
  unfold State.uplinkMissed
  dsimp only
  split <;> simp

/-- The downlink with send count `c` carries a stale command. -/
def State.downStale (l c : Nat) (s : State) : Bool := !(s.link l).fromRegs && (s.mailbox (s.link l).mbBase).staleBefore c

/-- The bytes of the downlink with send count `c`, or of its copy. -/
def State.downBytes (l c : Nat) (copy : Bool) (s : State) : List Byte :=
  let x := s.link l
  downFrame l x.cells copy (s.downStale l c) (x.seq + 1) (c + x.applyDly) ((List.range x.cells).map (fun j => s.cellWord l j c))

/-- The link as the downlink with send count `c` leaves. -/
def State.downBegun (l c : Nat) (s : State) : Link :=
  let x := s.link l
  { x.periodEnded with seq := x.seq + 1, sent := some (c - x.sendOff, c + x.applyDly), uplink := none, ulSeen := false, fStale := x.fStale || s.downStale l c }

/-- The link after its downlink, which a link with double sending repeats. -/
def State.downSent (l c : Nat) (s : State) : Link :=
  let x := s.link l
  let y := (s.downBegun l c).withFrame (s.sends l) c (s.downBytes l c false)
  if x.dbl then y.withFrame (s.sends l) (c + 4 * (14 + 2 * x.cells) + 16) (s.downBytes l c true) else y

/-- The effect of a downlink with send count `c`. -/
def State.sendDown (l c : Nat) (s : State) : State :=
  let x := s.link l
  let t := s.uplinkMissed l
  let t := (t.setLink l { t.link l with
    seq := x.seq + 1, sent := some (c - x.sendOff, c + x.applyDly), uplink := none, ulSeen := false,
    fStale := (t.link l).fStale || s.downStale l c }).transmit l c (s.downBytes l c false)
  let t := if x.dbl then t.transmit l (c + 4 * (14 + 2 * x.cells) + 16) (s.downBytes l c true) else t
  let t := t.event 0x180 l 1
  if s.downStale l c then t.event 0x181 l 1 else t

theorem State.sendDown_link (c : Nat) : (s.sendDown l c).link l = s.downSent l c := by
  simp only [State.sendDown, apply_ite (State.link l), State.event_link, ite_self, State.transmit_link, State.transmit_sends, State.setLink_sends,
    State.setLink_link, State.uplinkMissed_link, State.uplinkMissed_sends]
  rfl

theorem State.sendDown_link_ne {m : Nat} (h : m ≠ l) (c : Nat) : (s.sendDown l c).link m = s.link m := by
  simp only [State.sendDown, apply_ite (State.link m), State.event_link, ite_self, State.transmit_link_ne h, State.setLink_link_ne _ _ _ _ h,
    State.uplinkMissed_link_ne h]

/-- What the downlink event does, by its send count, for `lastAt` under another name `f`: the kernel unfolds the match on `lastAt` and would
evaluate it on the counter, which it cannot do with a variable. -/
theorem State.downlink_through {f : Nat → Nat → Nat → Option Nat} (hf : lastAt = f) :
    s.downlink l = (f ((s.link l).start + (s.link l).sendOff) (s.link l).period s.now).elim s (fun c =>
      if !(s.link l).en || !(s.link l).wasUp || (s.link l).sent.any (fun p => decide (c - (s.link l).sendOff ≤ p.1)) then s else s.sendDown l c) := by
  have hdbl : ((s.uplinkMissed l).link l).dbl = (s.link l).dbl := by rw [State.uplinkMissed_link]; rfl
  have hcells : ((s.uplinkMissed l).link l).cells = (s.link l).cells := by rw [State.uplinkMissed_link]; rfl
  generalize hF : @State.downlink = F
  delta State.downlink at hF
  rw [hf] at hF
  subst hF
  dsimp only
  cases f ((s.link l).start + (s.link l).sendOff) (s.link l).period s.now with
  | none => rfl
  | some c =>
    simp only [hdbl, hcells]
    rfl

theorem State.downlink_eq : s.downlink l = (lastAt ((s.link l).start + (s.link l).sendOff) (s.link l).period s.now).elim s (fun c =>
    if !(s.link l).en || !(s.link l).wasUp || (s.link l).sent.any (fun p => decide (c - (s.link l).sendOff ≤ p.1)) then s else s.sendDown l c) :=
  State.downlink_through rfl

theorem State.downlink_held (h : (s.link l).en = false ∨ (s.link l).wasUp = false ∨
    lastAt ((s.link l).start + (s.link l).sendOff) (s.link l).period s.now = none) : s.downlink l = s := by
  cases hc : lastAt ((s.link l).start + (s.link l).sendOff) (s.link l).period s.now with
  | none => rw [State.downlink_eq, hc, Option.elim_none]
  | some c =>
    rw [State.downlink_eq, hc, Option.elim_some, if_pos]
    simp only [hc, reduceCtorEq, or_false] at h
    obtain h | h := h <;> simp [h]

section
variable {c : Nat} (hc : lastAt ((s.link l).start + (s.link l).sendOff) (s.link l).period s.now = some c)
include hc

theorem State.downlink_again (h : (s.link l).sent.any (fun p => decide (c - (s.link l).sendOff ≤ p.1)) = true) : s.downlink l = s := by
  rw [State.downlink_eq, hc, Option.elim_some, if_pos]
  rw [h, Bool.or_true]

theorem State.downlink_sends (he : (s.link l).en = true) (hu : (s.link l).wasUp = true)
    (hs : (s.link l).sent.any (fun p => decide (c - (s.link l).sendOff ≤ p.1)) = false) : s.downlink l = s.sendDown l c := by
  rw [State.downlink_eq, hc, Option.elim_some, if_neg]
  rw [he, hu, hs]
  decide

end

theorem State.downSent_period (c : Nat) : (s.downSent l c).seq = (s.link l).seq + 1 ∧
    (s.downSent l c).sent = some (c - (s.link l).sendOff, c + (s.link l).applyDly) ∧ (s.downSent l c).ulSeen = false ∧
    (s.downSent l c).ulMissing = (s.link l).periodEnded.ulMissing := by
  unfold State.downSent
  dsimp only
  split <;> exact ⟨rfl, rfl, rfl, rfl⟩

theorem State.downSent_silent (h : s.sends l = false) (c : Nat) :
    (s.downSent l c).out = (s.link l).out ∧ (s.downSent l c).wire = (s.link l).wire := by
  unfold State.downSent
  dsimp only
  rw [h]
  split <;> exact ⟨rfl, rfl⟩

theorem State.downSent_single (h : s.sends l = true) (hd : (s.link l).dbl = false) (c : Nat) :
    (s.downSent l c).out = (s.link l).out ++ [(c, s.downBytes l c false)] ∧ (s.downSent l c).wire = (s.link l).wire ++
      [(((s.link l).place c).1, ((s.link l).place c).2, (codeGroups (s.link l).txRd (frameSyms (s.downBytes l c false))).1)] := by
  unfold State.downSent
  dsimp only
  rw [h, hd]
  exact ⟨rfl, rfl⟩

/-! ## Uplinks and their elements (R303) -/

variable {fr : List Byte} {inv : Bool}

theorem State.uplinkIn_closed (h : (s.link l).sent = none ∨ (s.link l).en = false ∨ s.wit.mode = .replay ∨ ((s.link l).st ≠ .sync ∧ (s.link l).st ≠ .up)) :
    s.uplinkIn l fr inv = s := by
  unfold State.uplinkIn
  dsimp only
  split
  · rfl
  · next b a hb =>
    simp only [hb, reduceCtorEq, false_or] at h
    refine if_pos ?_
    obtain h | h | h := h <;> simp [h]

section
variable {b a : Nat} (hb : (s.link l).sent = some (b, a)) (he : (s.link l).en = true) (hw : s.wit.mode ≠ .replay)
include hb he hw

/-- What a frame does to a link that listens: it is bad, no uplink of this period, late, or taken. -/
theorem State.uplinkIn_open (hst : (s.link l).st = .sync ∨ (s.link l).st = .up) : s.uplinkIn l fr inv =
    if !goodFrame inv fr then (s.setLink l { s.link l with ulCrc := satAdd (s.link l).ulCrc 1, ulSeen := true, fUlMiss := true }).event 0x184 l 1
    else if (fr.getD 0 0).toNat / 64 ≠ 2 ∨ (fr.getD 0 0).toNat % 32 + 1 ≠ (s.link l).cells ∨ leAt 2 2 fr ≠ (s.link l).seq.toNat then s
    else if b + (s.link l).upDue ≤ s.now then
      (s.setLink l { s.link l with ulLate := satAdd (s.link l).ulLate 1, ulSeen := true, fUlMiss := true }).event 0x185 l 1
    else (s.setLink l { s.link l with uplink := some ((fr.drop 4).take (4 * (s.link l).cells)), ulSeen := true }).event 0x182 l 1 := by
  have hgo : ¬ (!(s.link l).en || s.wit.mode = .replay || (decide ((s.link l).st ≠ .sync) && decide ((s.link l).st ≠ .up))) = true := by
    obtain hst | hst := hst <;> simp [he, hw, hst]
  simp only [State.uplinkIn, hb]
  exact if_neg hgo

theorem State.uplinkIn_bad (hst : (s.link l).st = .sync ∨ (s.link l).st = .up) (hg : goodFrame inv fr = false) : s.uplinkIn l fr inv =
    (s.setLink l { s.link l with ulCrc := satAdd (s.link l).ulCrc 1, ulSeen := true, fUlMiss := true }).event 0x184 l 1 := by
  rw [State.uplinkIn_open hb he hw hst, if_pos (by rw [hg]; rfl)]

theorem State.uplinkIn_good (hst : (s.link l).st = .sync ∨ (s.link l).st = .up) (hg : goodFrame inv fr = true) : s.uplinkIn l fr inv =
    if (fr.getD 0 0).toNat / 64 = 2 ∧ (fr.getD 0 0).toNat % 32 + 1 = (s.link l).cells ∧ leAt 2 2 fr = (s.link l).seq.toNat then
      if b + (s.link l).upDue ≤ s.now then
        (s.setLink l { s.link l with ulLate := satAdd (s.link l).ulLate 1, ulSeen := true, fUlMiss := true }).event 0x185 l 1
      else (s.setLink l { s.link l with uplink := some ((fr.drop 4).take (4 * (s.link l).cells)), ulSeen := true }).event 0x182 l 1
    else s := by
  rw [State.uplinkIn_open hb he hw hst, if_neg (by simp [hg])]
  simp only [ne_eq, ← not_and_or, ite_not]

omit he hw in
theorem State.uplinkDue_waits (h : s.now < b + (s.link l).upDue ∨ (s.link l).pushedAt.any (fun p => decide (b ≤ p)) = true) : s.uplinkDue l = s := by
  simp only [State.uplinkDue, hb]
  refine if_pos ?_
  obtain h | h := h <;> simp [h]

theorem State.uplinkDue_pushes (hn : b + (s.link l).upDue ≤ s.now) (hp : (s.link l).pushedAt.any (fun p => decide (b ≤ p)) = false) :
    s.uplinkDue l = (s.setLink l { s.link l with pushedAt := some b, ulDue := true, fUlMiss := (s.link l).fUlMiss || !(s.link l).ulSeen }).pushElement l
      ((s.link l).element l a) := by
  have hgo : ¬ (!(s.link l).en || s.wit.mode = .replay || decide (s.now < b + (s.link l).upDue) ||
      (s.link l).pushedAt.any (fun p => decide (b ≤ p))) = true := by
    simp [he, hw, hp, Nat.not_lt.mpr hn]
  simp only [State.uplinkDue, hb]
  rw [if_neg hgo, State.setLink_link]
  rfl

end

theorem State.uplinkDue_closed (h : (s.link l).sent = none ∨ (s.link l).en = false ∨ s.wit.mode = .replay) : s.uplinkDue l = s := by
  unfold State.uplinkDue
  dsimp only
  split
  · rfl
  · next b a hb =>
    simp only [hb, reduceCtorEq, false_or] at h
    refine if_pos ?_
    obtain h | h := h <;> simp [h]

/-! ## Beacons and their echoes (R304, R305, R307) -/

/-- The effect of a beacon with count `c`. -/
def State.sendBeacon (l c : Nat) (s : State) : State :=
  let x := s.link l
  ((s.setLink l { x with beaconAt := some c, bseq := x.bseq + 1, echoFor := some x.bseq }).transmit l c
    (beaconFrame l x.bseq c x.delayUi x.holdUs)).event 0x186 l 1

/-- What the beacon event does, by its count, for `lastAt` under another name as for a downlink. -/
theorem State.beacon_through {f : Nat → Nat → Nat → Option Nat} (hf : lastAt = f) :
    s.beacon l = (f ((s.link l).start + (s.link l).beaconOff) ((s.link l).period * (s.link l).bcnDiv) s.now).elim s (fun c =>
      if !(s.link l).en || !((s.link l).wasUp || decide ((s.link l).st = .sync)) || (s.link l).beaconAt.any (fun p => decide (c ≤ p)) then s
      else s.sendBeacon l c) := by
  generalize hF : @State.beacon = F
  delta State.beacon at hF
  rw [hf] at hF
  subst hF
  dsimp only
  cases f ((s.link l).start + (s.link l).beaconOff) ((s.link l).period * (s.link l).bcnDiv) s.now with
  | none => rfl
  | some c => rfl

theorem State.beacon_eq :
    s.beacon l = (lastAt ((s.link l).start + (s.link l).beaconOff) ((s.link l).period * (s.link l).bcnDiv) s.now).elim s (fun c =>
      if !(s.link l).en || !((s.link l).wasUp || decide ((s.link l).st = .sync)) || (s.link l).beaconAt.any (fun p => decide (c ≤ p)) then s
      else s.sendBeacon l c) :=
  State.beacon_through rfl

theorem State.beacon_held (h : (s.link l).en = false ∨ ((s.link l).wasUp = false ∧ (s.link l).st ≠ .sync) ∨
    lastAt ((s.link l).start + (s.link l).beaconOff) ((s.link l).period * (s.link l).bcnDiv) s.now = none) : s.beacon l = s := by
  cases hc : lastAt ((s.link l).start + (s.link l).beaconOff) ((s.link l).period * (s.link l).bcnDiv) s.now with
  | none => rw [State.beacon_eq, hc, Option.elim_none]
  | some c =>
    rw [State.beacon_eq, hc, Option.elim_some, if_pos]
    simp only [hc, reduceCtorEq, or_false] at h
    obtain h | ⟨h1, h2⟩ := h
    · simp [h]
    · simp [h1, h2]

section
variable {c : Nat} (hc : lastAt ((s.link l).start + (s.link l).beaconOff) ((s.link l).period * (s.link l).bcnDiv) s.now = some c)
include hc

theorem State.beacon_again (h : (s.link l).beaconAt.any (fun p => decide (c ≤ p)) = true) : s.beacon l = s := by
  rw [State.beacon_eq, hc, Option.elim_some, if_pos]
  rw [h, Bool.or_true]

theorem State.beacon_leaves (he : (s.link l).en = true) (hu : (s.link l).wasUp = true ∨ (s.link l).st = .sync)
    (h : (s.link l).beaconAt.any (fun p => decide (c ≤ p)) = false) : s.beacon l = s.sendBeacon l c := by
  rw [State.beacon_eq, hc, Option.elim_some, if_neg]
  rw [he, h]
  obtain hu | hu := hu <;> simp [hu]

end

variable {rtt : Nat}

theorem State.echoIn_ignored (h : (s.link l).en = false ∨ ((s.link l).st ≠ .sync ∧ (s.link l).st ≠ .up) ∨ goodFrame inv fr = false ∨
    (fr.getD 0 0).toNat / 64 ≠ 3 ∨ (s.link l).echoFor ≠ some (fr.getD 2 0)) : s.echoIn l fr inv rtt = s := by
  refine if_pos ?_
  obtain h | ⟨h1, h2⟩ | h | h | h := h
  · simp [h]
  · simp [h1, h2]
  · simp [h]
  · rw [decide_eq_true h, Bool.or_true, Bool.true_or]
  · rw [decide_eq_true h, Bool.or_true]

theorem State.echoIn_taken (he : (s.link l).en = true) (hst : (s.link l).st = .sync ∨ (s.link l).st = .up) (hg : goodFrame inv fr = true)
    (ht : (fr.getD 0 0).toNat / 64 = 3) (hf : (s.link l).echoFor = some (fr.getD 2 0)) : s.echoIn l fr inv rtt =
    let d := (rtt - 10000 + 4) / 8
    if 2 * d > 5 * (s.link l).cableMax then
      s.setLink l { s.link l with fDelay := true, echoFor := none, delayUi := BitVec.ofNat 16 (min d 0xFFFE) }
    else s.setLink l { s.link l with st := .up, wasUp := true, echoFor := none, delayUi := BitVec.ofNat 16 (min d 0xFFFE) } := by
  refine if_neg ?_
  simp only [he, hg, ht, hf]
  obtain hst | hst := hst <;> simp [hst]

/-! ## Synchronisation (R307, R308) -/

theorem State.linkSync_eq : s.linkSync l = s.setLink l (if (s.link l).en = true ∧ (s.link l).st = .align then { s.link l with st := .sync } else s.link l) := by
  simp only [State.linkSync, State.updLink_eq, Bool.and_eq_true, decide_eq_true_eq]

theorem State.syncLost_ignored (h : (s.link l).en = false ∨ ((s.link l).st ≠ .sync ∧ (s.link l).st ≠ .up)) : s.syncLost l = s := by
  refine if_neg ?_
  obtain h | ⟨h1, h2⟩ := h
  · simp [h]
  · simp [h1, h2]

theorem State.syncLost_taken (he : (s.link l).en = true) (hst : (s.link l).st = .sync ∨ (s.link l).st = .up) : s.syncLost l =
    (s.setLink l { s.link l with st := .align, fSyncLost := true, syncLost := satAdd (s.link l).syncLost 1 }).event 0x187 l 1 := by
  refine if_pos ?_
  obtain hst | hst := hst <;> simp [he, hst]

end

end Sys2Proof.Machine
end

section
open Sys2Proof Sys2Proof.Machine

/-- Settles O47, clause by clause: each event is its operation on the state, and each operation has a lemma for the case that the clause names. -/
theorem pairAndLinkEvents : Obligations.PairAndLinkEvents := by
  unfold Obligations.PairAndLinkEvents
  refine ⟨fun s n hn => ?trips, fun s n low width hn => ?inputs, fun s n hn => ?pairs, fun s l hl => ?links, frameIn_codeGroups,
    fun rd c hc => charOf_codeGroup hc, fun rd gs ⟨c, hc, h⟩ fr => ?bad⟩
  case trips =>
    refine ⟨by rw [State.raiseTrip_tripSrc], by rw [State.raiseTrip_tripSrc], fun p hp => ⟨fun hm => ?_, fun hm hc => ?_⟩, State.setTrip_tripSrc ..⟩
    · rw [State.raiseTrip_pair hp, State.latched_caused hn hm]
      refine ⟨Pair.settled_caused_safe _, fun hs => ?_⟩
      rw [Pair.settled_first hs]
      exact ⟨rfl, rfl, rfl⟩
    · rw [State.raiseTrip_pair hp, State.latched_caused_unmapped hm hc, Pair.settled_uncaused_safe]
  case inputs =>
    have hexec : exec (.tripInput n low width) s = .next (s.tripInput n low width) := within_of_lt hn _
    rw [hexec]
    exact ⟨fun h => congrArg _ (State.tripInput_ignored h), fun hw hf hr => congrArg _ (State.tripInput_taken hw hf hr)⟩
  case pairs =>
    have hresume : exec (.pairResume n) s = .next (s.pairResume n) := within_of_lt hn _
    have hload : exec (.shadowLoad n) s = .next (s.shadowLoad n) := within_of_lt hn _
    dsimp only
    rw [hresume, hload]
    refine ⟨fun h => congrArg _ (State.pairResume_held h),
      fun c hc => ⟨fun ht => congrArg _ (State.pairResume_early hc ht), fun he hl hs hu hr ht => congrArg _ (State.pairResume_due hc he hl hs hu hr ht)⟩,
      fun h => congrArg _ (State.shadowLoad_held h),
      fun c hc => ⟨fun h => congrArg _ (State.shadowLoad_again hc h), fun he h hr => ⟨_, rfl, ?_⟩⟩⟩
    simp only [State.shadowLoad_pair hc he h hr, State.setPair_pair]
    obtain ⟨hactive, hloaded, hto⟩ := State.loadedPair_image (s := s) (p := n) c
    exact ⟨hactive, hloaded, hto, fun m hm => State.setPair_pair_ne _ _ _ _ hm, State.loadedPair_keeps, State.loadedPair_first⟩
  case links =>
    have hdown : exec (.downlinkSend l) s = .next (s.downlink l) := within_of_lt hl _
    have hin : ∀ rd gs, exec (.uplinkReceived l rd gs) s = .next (s.uplinkIn l (frameIn rd gs).1 (frameIn rd gs).2) := fun _ _ => within_of_lt hl _
    have hpush : exec (.uplinkPush l) s = .next (s.uplinkDue l) := within_of_lt hl _
    have hbeacon : exec (.beaconSend l) s = .next (s.beacon l) := within_of_lt hl _
    have hecho : ∀ rd gs rtt, exec (.beaconEchoReceived l rd gs rtt) s = .next (s.echoIn l (frameIn rd gs).1 (frameIn rd gs).2 rtt) :=
      fun _ _ _ => within_of_lt hl _
    have hsync : exec (.linkSync l) s = .next (s.linkSync l) := within_of_lt hl _
    have hlost : exec (.syncLost l) s = .next (s.syncLost l) := within_of_lt hl _
    simp only [hdown, hin, hpush, hbeacon, hecho, hsync, hlost]
    refine ⟨fun h => congrArg _ (State.downlink_held h),
      fun c hc he hu => ⟨fun h => congrArg _ (State.downlink_again hc h), fun h => ⟨_, congrArg _ (State.downlink_sends hc he hu h), ?downlink⟩⟩,
      fun h => State.cellWord_blocked h, State.blocked_of,
      fun rd gs => ⟨fun h => congrArg _ (State.uplinkIn_closed h), fun b a hb he hw hst =>
        ⟨fun hg => congrArg _ (State.uplinkIn_bad hb he hw hst hg), fun hg h => ?other, fun hg h1 h2 h3 ht => ?late, fun hg h1 ht h2 h3 => ?taken⟩⟩,
      fun h => congrArg _ (State.uplinkDue_closed h),
      fun b a hb he hw => ⟨fun h => congrArg _ (State.uplinkDue_waits hb h), fun ht h => congrArg _ (State.uplinkDue_pushes hb he hw ht h)⟩,
      fun h => congrArg _ (State.beacon_held h),
      fun c hc he hu => ⟨fun h => congrArg _ (State.beacon_again hc h), fun h => congrArg _ (State.beacon_leaves hc he hu h)⟩,
      fun rd gs rtt => ⟨fun h => congrArg _ (State.echoIn_ignored h), fun he hst hg ht hf => ⟨fun hd => ?up, fun hd => ?delay⟩⟩,
      fun c bs h => State.transmit_driven h c bs, State.sends_or_underTest, State.sends_of_underTest,
      fun c e => ⟨fun h => Link.place_first h c, fun h => Link.place_after h c⟩,
      State.clTx_idle, congrArg _ State.linkSync_eq, fun h => congrArg _ (State.syncLost_ignored h),
      fun he hst => congrArg _ (State.syncLost_taken he hst)⟩
    case downlink =>
      rw [State.sendDown_link]
      obtain ⟨hseq, hsent, hseen, hmissing⟩ := State.downSent_period (s := s) (l := l) c
      refine ⟨hseq, hsent, hseen, hmissing.trans ?_, fun hs => State.downSent_silent hs c, fun hs hd => State.downSent_single hs hd c,
        fun m hm => State.sendDown_link_ne hm c⟩
      simp [Link.periodEnded]
    case other => rw [State.uplinkIn_good hb he hw hst hg, if_neg h]
    case late => rw [State.uplinkIn_good hb he hw hst hg, if_pos ⟨h1, h2, h3⟩, if_pos ht]
    case taken => rw [State.uplinkIn_good hb he hw hst hg, if_pos ⟨h1, h2, h3⟩, if_neg (Nat.not_le.mpr ht)]
    case up => rw [State.echoIn_taken he hst hg ht hf, if_neg (Nat.not_lt.mpr hd)]
    case delay => rw [State.echoIn_taken he hst hg ht hf, if_pos hd]
  case bad => rw [frameIn_invalid hc (invalidChar_of h), goodFrame_invalid]
end

section
/-!
PROOFS. The hard-wired registers of a context (05 R141), and the state that a power-on reset leaves (15 R492).
-/

set_option Elab.async false

namespace Sys2Proof.Machine

open Sys2Proof

/-! ## The registers of a context (05 R141) -/

theorem Ctx.setReg_zero (v : W64) (c : Ctx) : c.setReg 0 v = c := rfl
theorem Ctx.setPred_zero (v : Bool) (c : Ctx) : c.setPred 0 v = c := rfl
theorem Ctx.setMask_zero (v : W64) (c : Ctx) : c.setMask 0 v = c := rfl

section
variable {n : Nat} (h : n ≠ 0) (c : Ctx)
include h

theorem Ctx.reg_setReg_same (v : W64) : (c.setReg n v).reg n = v := by simp [Ctx.setReg, Ctx.reg, h]
theorem Ctx.pred_setPred_same (v : Bool) : (c.setPred n v).pred n = v := by simp [Ctx.setPred, Ctx.pred, h]
theorem Ctx.mask_setMask_same (v : W64) : (c.setMask n v).mask n = v := by simp [Ctx.setMask, Ctx.mask, h]

variable {m : Nat} (hm : m ≠ n)
include hm

theorem Ctx.reg_setReg_ne (v : W64) : (c.setReg n v).reg m = c.reg m := by simp [Ctx.setReg, Ctx.reg, h, Tbl.get_set_ne _ hm]
theorem Ctx.pred_setPred_ne (v : Bool) : (c.setPred n v).pred m = c.pred m := by simp [Ctx.setPred, Ctx.pred, h, Tbl.get_set_ne _ hm]
theorem Ctx.mask_setMask_ne (v : W64) : (c.setMask n v).mask m = c.mask m := by simp [Ctx.setMask, Ctx.mask, h, Tbl.get_set_ne _ hm]

end

/-! ## The reset values that differ from unit to unit -/

/-- A queue above Q0 is disabled, and of data class from Q16 upward (10 R313; log entry 82). -/
theorem Queue.reset_of_ne_zero {q : Nat} (h : q ≠ 0) : Queue.reset q = { dataClass := decide (16 ≤ q) } := by
  cases q with
  | zero => exact absurd rfl h
  | succ q => rfl

theorem State.reset_queue (q : Nat) : State.reset.queue q = Queue.reset q := rfl

theorem Link.en_default : ({ } : Link).en = false := by decide
theorem Pair.en_default : ({ } : Pair).en = false := by decide

theorem TripSrc.reset_latch (n : Nat) : (TripSrc.reset n).latch = false := by
  unfold TripSrc.reset
  split <;> rfl

theorem TripSrc.reset_mask (n : Nat) : (TripSrc.reset n).mask = if n = 80 ∨ n = 82 then 0xFFFFFFFFFFFF else 0 := by
  unfold TripSrc.reset
  split <;> rfl

end Sys2Proof.Machine

open Sys2Proof Sys2Proof.Machine

/-- Settles O57: after a reset no table lists a unit, so that each one holds its reset value; and a write of a register but the hard-wired one is
read back from there, and from there alone. -/
theorem resetAndHardWired : Obligations.ResetAndHardWired := by
  unfold Obligations.ResetAndHardWired
  refine ⟨⟨rfl, rfl, rfl, rfl, rfl, rfl, rfl, rfl, rfl, rfl, fun q hq => ?queues, fun n => ⟨rfl, rfl, Link.en_default, rfl, Pair.en_default, rfl⟩,
    fun n => ⟨TripSrc.reset_latch n, TripSrc.reset_mask n⟩, fun t a => ⟨rfl, rfl, rfl, rfl⟩, fun a => rfl, fun m => ⟨rfl, rfl⟩,
    rfl, rfl, rfl, rfl, rfl, rfl, State.Inv.reset⟩,
    fun c v b => ⟨rfl, rfl, rfl, Ctx.setReg_zero v c, Ctx.setPred_zero b c, Ctx.setMask_zero v c, fun n hn => ?written⟩⟩
  case queues =>
    rw [State.reset_queue, Queue.reset_of_ne_zero hq]
    exact ⟨rfl, rfl, rfl, rfl⟩
  case written =>
    exact ⟨Ctx.reg_setReg_same hn c v, Ctx.pred_setPred_same hn c b, Ctx.mask_setMask_same hn c v,
      fun m hm => ⟨Ctx.reg_setReg_ne hn c hm v, Ctx.pred_setPred_ne hn c hm b, Ctx.mask_setMask_ne hn c hm v⟩⟩
end

section
open Sys2Proof Sys2Proof.Machine

/-- Settles O56: a step is `exec` of the command at the front. -/
theorem stepRunsFront : Obligations.StepRunsFront := by
  unfold Obligations.StepRunsFront
  refine ⟨fun s c => rfl, fun s c rest h => ?waits, fun s h => ?idles⟩
  case waits => rw [step, h]
  case idles => rw [step, h]
end


section
/-!
SUPPORT. A command of the host, and a write of a named field, is submitted as its packet (10 R321).
-/

set_option Elab.async false

namespace Sys2Proof.Machine

open Sys2Proof

/-! ## The command of a packet (10 R321; log entry 6) -/

theorem slotReg_eq (e sl o : Nat) : slotReg e sl o = 0x200000 + o + e * 0x10000 + sl * 0x1000 := by
  unfold slotReg
  omega

section
variable {e sl : Nat} (h : Header) (he : e < 16) (hsl : sl < 8) (s : State)
include he hsl

/-- A REG_WRITE of a slot that exists is submitted. -/
theorem writesSlot_of_lt (o : Nat) (v m : W64) :
    withinSlot e sl (s.writes h (slotReg e sl o) v m) = .next (s.submit (regPacket h (0x200000 + o + e * 0x10000 + sl * 0x1000) v m)) := by
  rw [withinSlot_of_lt he hsl, slotReg_eq]
  rfl

end

/-- A command of the host that names units that exist is submitted as its packet. -/
theorem exec_of_packet {i : Instr} {p : Packet} (hp : i.packet = some p) (hi : i.wf) (s : State) : exec i s = .next (s.submit p) := by
  cases i
  case tileCtlBconfClear h t =>
    cases hp
    exact (within_of_lt hi _).trans (by rw [State.writes, Nat.add_right_comm])
  case leSlotModeAuto h e sl auto => cases hp; exact writesSlot_of_lt h hi.1 hi.2 s 0x30 _ _
  case leSlotModeFbExit h e sl => cases hp; exact writesSlot_of_lt h hi.1 hi.2 s 0x30 _ _
  case leSlotModeManFromLast h e sl => cases hp; exact writesSlot_of_lt h hi.1 hi.2 s 0x30 _ _
  case leSlotManWrite h e sl v => cases hp; exact writesSlot_of_lt h hi.1 hi.2 s 0x28 _ _
  case leSlotFbWrite h e sl v => cases hp; exact writesSlot_of_lt h hi.1 hi.2 s 0x20 _ _
  case leSlotBankWrite h e sl bankB word v =>
    obtain ⟨he, hsl, hw⟩ := hi
    have ha : 0x200000 + ((if bankB = true then 0x400 else 0x200) + 8 * word) + e * 0x10000 + sl * 0x1000 =
        (if bankB = true then 0x200400 else 0x200200) + e * 0x10000 + sl * 0x1000 + 8 * word := by
      split <;> omega
    cases hp
    rw [← ha]
    exact (if_pos hw).trans (writesSlot_of_lt h he hsl s _ _ _)
  case snsLaneSwap h n v =>
    cases hp
    exact (within_of_lt hi _).trans (by rw [State.writes, Nat.add_right_comm])
  case tripLatchClear h n => cases hp; exact within_of_lt hi _
  case ethCtlWrite h port v => cases hp; exact within_of_lt hi _
  case evcSelWrite h tile n v =>
    cases tile with
    | none => cases hp; exact within_of_lt hi _
    | some t =>
      obtain ⟨ht, hn⟩ := hi
      have ha : 0x1000000 + t * 0x10000 + 0xE00 + 16 * n = 0x1000E00 + t * 0x10000 + 16 * n := by omega
      cases hp
      rw [← ha]
      exact (if_pos hn).trans (within_of_lt ht _)
  all_goals cases hp <;> rfl

end Sys2Proof.Machine
end


section
/-!
SUPPORT. What an acceptance reads from HBM can take a paired device out of its pair (13 R434), and never makes a device STANDBY (14 R479).
-/

set_option Elab.async false

namespace Sys2Proof.Machine

open Sys2Proof

/-! ## What every read of HBM keeps -/

/-- `P` is a property of the twin and the queues that a device keeps as it leaves its pair, so that every read of HBM keeps it. -/
structure State.ReadStable (P : State → Prop) : Prop where
  same : ∀ {s t : State}, s.SameWork t → P s → P t
  leaves : ∀ {s : State}, s.twin.pair ≠ .none → P s → P (s.leavePair 7)

section
variable {P : State → Prop} (k : State.ReadStable P) {s : State} (h : P s)
include k h

theorem State.ReadStable.pcFailed (n : Nat) : P (s.pcFailed n) := by
  cases hf : (s.pc n).failed with
  | true =>
    have he : s.pcFailed n = s := if_pos hf
    rwa [he]
  | false =>
    obtain ⟨y, hy, he⟩ := State.pcFailed_eq hf
    have hPy := k.same hy h
    rw [he]
    split
    · exact k.same (State.setHbm_sameWork _ y) hPy
    · rename_i hp
      exact k.leaves hp hPy

theorem State.ReadStable.meetBurst (b kind : Nat) : P (s.meetBurst b kind) := by
  by_cases hk : kind = 1
  · rw [State.meetBurst, if_pos hk]
    exact k.same ((State.setPc_sameWork ..).trans (State.event_sameWork ..)) h
  · have hl := k.same (State.burstLost_sameWork b s) h
    rw [State.meetBurst_uncorrectable b hk]
    split
    · exact State.ReadStable.pcFailed k hl _
    · exact hl

theorem State.ReadStable.loadLine (a : Nat) : P (s.loadLine a).1 := by
  unfold State.loadLine
  dsimp only
  split
  · exact k.same (State.logBurst_sameWork a s) h
  · exact k.same (State.event_sameWork ..) (foldl_keeps h fun t e ht => State.ReadStable.meetBurst k ht e.1 e.2)

theorem State.ReadStable.useLine (a : Nat) : P (s.useLine a false false).1 := by
  have he : ∀ ev, P (s.event ev (s.sliceAt a) 1) := fun ev => k.same (State.event_sameWork ..) h
  unfold State.useLine
  cases s.cached a with
  | some x =>
    have hd : ∀ (t : State) (v : Hbm) (c d : Prop) [Decidable c] [Decidable d], P t →
        P (if c then ((if d then t.setHbm v else t), some a) else (t, none)).1 := by
      intro t v c d _ _ ht
      by_cases hc : c
      · by_cases hd : d
        · simpa only [if_pos hc, if_pos hd] using k.same (State.setHbm_sameWork v t) ht
        · simpa only [if_pos hc, if_neg hd] using ht
      · simpa only [if_neg hc] using ht
    exact hd _ _ _ _ (k.same (State.setHbm_sameWork _ _) (he 0x208))
  | none =>
    have hl := State.ReadStable.loadLine k (he 0x209) a
    dsimp only
    split
    · exact k.same (State.enterLine_sameWork ..) (he 0x209)
    · split
      · exact hl
      · exact k.same (State.enterLine_sameWork ..) hl

theorem State.ReadStable.hbmRead (a n : Nat) : P (s.hbmRead a n).2.1 :=
  foldl_keeps (p := fun r : State × Option Nat => P r.1) h fun _ m hr => State.ReadStable.useLine k hr m

theorem State.ReadStable.readHbm (rs : List (Nat × Nat)) : P (s.readHbm rs).2.1 :=
  foldl_keeps (p := fun r : List (Nat × List Byte) × State × Option W64 => P r.2.1) h fun _ e hr => State.ReadStable.hbmRead k hr e.1 e.2

end

/-! ## The role of the device (14 R452, R479) -/

theorem State.commitEntry_role (e : Effects) (r : Record) (s : State) : (s.commitEntry e r).2.2.twin.role = s.twin.role := by
  unfold State.commitEntry
  split
  · rfl
  · dsimp only
    split <;> rfl

theorem State.reorderPut_role (q : Nat) (r : Record) (e : Effects) (cap : Nat) (s : State) :
    (s.reorderPut q r e cap).twin.role = s.twin.role := State.commitEntry_role e r s

theorem State.closeMerged_role (q : Nat) (s : State) : (s.closeMerged q).twin.role = s.twin.role := by
  unfold State.closeMerged
  dsimp only
  split
  · split
    · exact State.reorderPut_role ..
    · rfl
  · rfl

theorem State.complete_role (q sq : Nat) (r : Record) (e : Effects) (s : State) : (s.complete q sq r e).twin.role = s.twin.role := by
  have hb : ∀ o r, (s.bareExt o r).2.twin.role = s.twin.role := fun o r => by rw [(State.bareExt_sameWork o r s).1]
  unfold State.complete State.completeAt
  cases s.outstOf q sq with
  | none => rfl
  | some o =>
    dsimp only
    split
    · split
      · exact (State.closeMerged_role ..).trans (hb ..)
      · exact (State.reorderPut_role ..).trans (hb ..)
    · exact (State.reorderPut_role ..).trans (hb ..)

theorem State.attachEnds_role (st : Byte) (s : State) : (s.attachEnds st).twin.role = s.twin.role := by
  unfold State.attachEnds
  split
  · exact State.complete_role ..
  · rfl

theorem State.swapEnds_role (s : State) : s.swapEnds.twin.role = s.twin.role := by
  unfold State.swapEnds
  split
  · exact State.complete_role ..
  · rfl

/-- A device that leaves its pair is SOLO. -/
theorem State.leavePair_role {s : State} (hr : s.twin.role ≠ .standby) (hp : s.twin.pair ≠ .none) (reason : BitVec 4) :
    (s.leavePair reason).twin.role = .solo := by
  have hu : s.unmirror.twin.role ≠ .standby := hr
  have hf : s.unmirror.forgetWork = s.unmirror := if_neg hu
  have ht : ∀ v : Twin, (s.unmirror.twinChange v).twin.role = v.role := fun v => by
    obtain ⟨o, h, -⟩ := State.twinChange_keeps (v := v) hu
    rw [h]
    rfl
  rw [State.leavePair, if_neg hp]
  dsimp only
  rw [hf, State.swapEnds_role, State.attachEnds_role, ht]

theorem State.notStandby_readStable : State.ReadStable (fun s => s.twin.role ≠ .standby) where
  same h hr := by rwa [h.1]
  leaves hp hr := by rw [State.leavePair_role hr hp]; decide

end Sys2Proof.Machine
end

section
/-!
PROOFS. What the acceptance of a packet does (10 R321, R322, R324, R325, R337; 13 R431; 14 R480).
-/

set_option Elab.async false

namespace Sys2Proof.Machine

open Sys2Proof

/-! ## The acceptance reply (R325) -/

/-- The device with another port, recorder and event counters. -/
def State.withPort (u : Usb) (w : Witness) (e : Tbl Counter) (s : State) : State := { s with usb := u, wit := w, evc := e }

section
variable (s : State)

theorem State.event_withPort (ev inst n : Nat) : ∃ e, s.event ev inst n = s.withPort s.usb s.wit e := State.event_eq ev inst n s

theorem State.witness_withPort (typ src stamp : Nat) (pl : List Byte) : ∃ w e, s.witness typ src stamp pl = s.withPort s.usb w e :=
  State.witness_eq typ src stamp pl s

theorem State.toHost_withPort (m : Ep1In) : ∃ u e, s.toHost m = s.withPort u s.wit e ∧ (s.usb.u3 = false → u.ep1 = s.usb.ep1 ++ [m]) := by
  obtain ⟨e, he⟩ := s.event_withPort 0x281 0 1
  have hu : (s.event 0x281 0 1).usb = s.usb := by rw [he]; rfl
  unfold State.toHost
  dsimp only
  rw [hu, he]
  split
  · rename_i h
    exact ⟨_, e, rfl, fun hn => absurd (hn.symm.trans h) (by decide)⟩
  · exact ⟨_, e, rfl, fun _ => rfl⟩

/-- Outside U3 a reply is on EP1 IN at once (16 R521). -/
theorem State.reply_withPort (p : Packet) (code : Byte) (sq reason stamp : Nat) : ∃ u w e, s.reply p code sq reason stamp = s.withPort u w e ∧
    (s.usb.u3 = false → u.ep1 = s.usb.ep1 ++ [.reply code p.hdr.queue p.hdr.tag sq reason stamp]) := by
  obtain ⟨u, e, ht, hu⟩ := s.toHost_withPort (.reply code p.hdr.queue p.hdr.tag sq reason stamp)
  obtain ⟨w, e', hw⟩ := (s.withPort u s.wit e).witness_withPort 0x21 0 stamp
    (leBytes 2 p.hdr.queue.toNat ++ w32Bytes p.hdr.tag ++ leBytes 6 sq ++ [code])
  exact ⟨u, w, e', by rw [State.reply, ht, hw]; rfl, hu⟩

theorem State.received_withPort (p : Packet) : ∃ w e, s.received p = s.withPort s.usb w e := by
  obtain ⟨e, he⟩ := s.event_withPort 0x280 0 1
  obtain ⟨w, e', hw⟩ := (s.withPort s.usb s.wit e).witness_withPort 0x20 0 s.now (leBytes 1 0 ++ packetBytes p)
  exact ⟨w, e', by rw [State.received, he, hw]; rfl⟩

/-- What the queue of a command holds once it has taken it (10 R321, R324). -/
def State.withEntry (p : Packet) : Queue :=
  let v := s.queue p.q
  { v with nextSeq := v.nextSeq + 1, outst := v.outst ++ [s.outOf p], tags := v.tags ++ [(p.hdr.tag, v.nextSeq, s.now)] }

/-- An acceptance writes the entry and gives the reply; the recorder and event counters change with it, and nothing else. -/
theorem State.entered_withPort (p : Packet) : ∃ u w e, s.entered p = (s.setQueue p.q (s.withEntry p)).withPort u w e ∧
    (s.usb.u3 = false → u.ep1 = s.usb.ep1 ++ [.reply Code.accepted p.hdr.queue p.hdr.tag (s.queue p.q).nextSeq 0 s.now]) := by
  obtain ⟨w, e, hr⟩ := s.received_withPort p
  obtain ⟨u, w', e', hp, hu⟩ := ((s.withPort s.usb w e).setQueue p.q (s.withEntry p)).reply_withPort p Code.accepted (s.queue p.q).nextSeq 0 s.now
  obtain ⟨e'', he⟩ := (((s.withPort s.usb w e).setQueue p.q (s.withEntry p)).withPort u w' e').event_withPort 0x1C0 0 1
  refine ⟨u, w', e'', ?_, hu⟩
  show (((s.received p).setQueue p.q (s.withEntry p)).reply p Code.accepted (s.queue p.q).nextSeq 0 s.now).event 0x1C0 0 1 = _
  rw [hr, hp, he]
  rfl

end

/-! ## The acceptance (10 R321, R337) -/

section
variable {s : State} {p : Packet} (h : s.Takes p)
include h

/-- An ACK takes no sequence number (R337). -/
theorem State.Takes.submit_ack (hop : p.op = 1) :
    s.submit p = (((s.received p).event 0x1C0 0 1).reply p Code.accepted 0 0 s.now).acknowledge p.q p.hdr.w0.toNat (bit p.hdr.w1 0) := by
  have hp : ((s.received p).arrival p).pkt = p := rfl
  rw [State.submit_of_takes h, State.accept, hp, if_pos hop, State.ack, State.received_now]

/-- Any other command is entered, and what it names in HBM is read: where that fails the command ends (13 R431). -/
theorem State.Takes.submit_lost (hop : p.op ≠ 1) {x : W64} (hx : (s.accepting p).2.2 = some x) :
    s.submit p = (s.accepting p).2.1.inputLost (s.outOf p) x := by
  have ho : (s.received p).outstFor p ((s.received p).captureOf p) s.now ((s.received p).arrival p).pin = s.outOf p := rfl
  have hp : ((s.received p).arrival p).pkt = p := rfl
  rw [State.submit_of_takes h, State.accept]
  simp only [hp, hop, if_false, State.received_now, h.mirrorsFirst, Bool.false_eq_true, ho, State.entered_eq]
  show (match (s.accepting p).2.2 with
    | some loc => (s.accepting p).2.1.inputLost (s.outOf p) loc
    | none => (s.accepting p).2.1.begin_ (s.outOf p) ((s.received p).arrival p).arrival) = _
  rw [hx]

theorem State.Takes.submit_named (hop : p.op ≠ 1) (hx : (s.accepting p).2.2 = none) :
    s.submit p = (s.accepting p).2.1.begin_ (s.outOf p) s.now := by
  have ho : (s.received p).outstFor p ((s.received p).captureOf p) s.now ((s.received p).arrival p).pin = s.outOf p := rfl
  have hp : ((s.received p).arrival p).pkt = p := rfl
  have ha : ((s.received p).arrival p).arrival = s.now := State.received_now p s
  rw [State.submit_of_takes h, State.accept]
  simp only [hp, ha, hop, if_false, State.received_now, h.mirrorsFirst, Bool.false_eq_true, ho, State.entered_eq]
  show (match (s.accepting p).2.2 with
    | some loc => (s.accepting p).2.1.inputLost (s.outOf p) loc
    | none => (s.accepting p).2.1.begin_ (s.outOf p) s.now) = _
  rw [hx]

end

/-! ## The command whose entry or captured inputs do not read (14 R480) -/

/-- A job takes no inline data, so that no descriptor stands for any (10 R319). -/
theorem Packet.inlined_of_isJob {p : Packet} (hj : p.isJob = true) (bs : List Byte) : p.inlined bs = p := by
  have hop : 0x2001 ≤ p.op ∧ p.op ≤ 0x2006 := of_decide_eq_true hj
  have ht : p.takesData = false := by
    simp only [Packet.takesData, List.contains_eq_mem, List.mem_cons, List.not_mem_nil, or_false, decide_eq_false_iff_not]
    omega
  have hd : p.byDesc = false := by rw [Packet.byDesc, ht, Bool.and_false]
  rw [Packet.inlined, hd]
  rfl

/-- The command of an entry is a job with the provenance bit where the packet is one. -/
theorem State.outOf_provenance (s : State) (p : Packet) : ((s.outOf p).pkt.isJob && bit (s.outOf p).pkt.hdr.flags 0) = true ↔
    0x2001 ≤ p.op ∧ p.op ≤ 0x2006 ∧ bit p.hdr.flags 0 = true := by
  have hi : (s.outOf p).pkt.isJob = p.isJob := by rw [Packet.isJob, State.outOf_op, Packet.isJob]
  rw [hi, Bool.and_eq_true, ← and_assoc]
  cases hj : p.isJob with
  | true =>
    have hp : (s.outOf p).pkt = p := Packet.inlined_of_isJob hj _
    have hop : 0x2001 ≤ p.op ∧ p.op ≤ 0x2006 := of_decide_eq_true hj
    rw [hp]
    exact and_congr_left fun _ => iff_of_true rfl hop
  | false =>
    have hop : ¬ (0x2001 ≤ p.op ∧ p.op ≤ 0x2006) := of_decide_eq_false hj
    exact iff_of_false (fun h => absurd h.1 (by decide)) fun h => hop h.1

/-- The completion of a command whose inputs cannot be read (13 R431; 14 R475, R480). -/
theorem State.inputLost_outOf (s : State) (p : Packet) (x : W64) (u : State) : u.inputLost (s.outOf p) x =
    u.complete p.q (s.queue p.q).nextSeq { status := St.dataError, location := x, ext :=
      if 0x2001 ≤ p.op ∧ p.op ≤ 0x2006 ∧ bit p.hdr.flags 0 = true then zeros 64 else [] } { tput := (s.outOf p).tput } := by
  rw [State.inputLost, State.outOf_q, State.outOf_seq, if_congr (State.outOf_provenance s p) rfl rfl]

theorem State.withCaptured_lost {o : Outst} {u : State} {x : Nat} (hx : (u.readEntry o).2 = some x) (f : State → State) :
    u.withCaptured o f = (u.readEntry o).1.inputLost o (locHbm x) := by
  rw [State.withCaptured, hx]

/-- What the acceptance reads makes no device STANDBY. -/
theorem State.accepting_role {s : State} (p : Packet) (h : s.twin.role ≠ .standby) : (s.accepting p).2.1.twin.role ≠ .standby := by
  obtain ⟨u, w, e, he, -⟩ := s.entered_withPort p
  exact State.notStandby_readStable.readHbm (by rw [he]; exact h) _

/-- A command ends where its entry or its captured inputs do not read (14 R480), but for the data plane of a STANDBY device, which holds it
(14 R465). -/
theorem State.Starts.submit_unreadable {s : State} {p : Packet} (h : s.Starts p) (hop : p.op ≠ 1) {x : Nat} (hx : (s.inputsRead p).2 = some x)
    (hr : ¬ (s.twin.role = .standby ∧ p.isData = true)) : s.submit p = (s.begun p).inputLost (s.outOf p) (locHbm x) := by
  have hi : (s.outOf p).pkt.isData = p.isData := by rw [Packet.isData, State.outOf_op, Packet.isData]
  rw [h.submit_eq hop, State.run, hi]
  cases hd : p.isData with
  | true =>
    rw [if_pos rfl, State.dataRun, if_neg (State.accepting_role p fun hs => hr ⟨hs, hd⟩)]
    exact State.withCaptured_lost hx _
  | false =>
    rw [if_neg (by decide)]
    exact State.withCaptured_lost hx _

end Sys2Proof.Machine

open Sys2Proof Sys2Proof.Machine

/-- Settles O26: the command is submitted as its packet, and the state in which it begins differs from the one before by its entry, the reply, the
recorder and event counters. -/
theorem acceptedCommands : Obligations.AcceptedCommands := by
  unfold Obligations.AcceptedCommands
  intro s i p hp hi h
  obtain ⟨u, w, e, he, hu⟩ := s.entered_withPort p
  have hq : (s.entered p).queue p.q = s.withEntry p := by
    rw [he]
    exact State.setQueue_queue ..
  rw [exec_of_packet hp hi]
  refine ⟨?outcome, State.inputLost_outOf s p, ⟨by rw [hq]; rfl, by rw [hq]; rfl, by rw [hq]; rfl⟩, fun q hne => ?others,
    fun h3 => by rw [he]; exact hu h3, by rw [he]; rfl, by rw [he]; rfl, by rw [he]; rfl, by rw [he]; rfl, by rw [he]; rfl, by rw [he]; rfl,
    by rw [he]; rfl, fun x hs hop hx hr => ?unreadable⟩
  case outcome =>
    by_cases hop : p.op = 1
    · rw [if_pos hop, h.submit_ack hop]
    · rw [if_neg hop]
      cases hx : (s.accepting p).2.2 with
      | some x => rw [h.submit_lost hop hx]
      | none => rw [h.submit_named hop hx]
  case others =>
    rw [he]
    exact State.setQueue_queue_ne _ _ _ _ hne
  case unreadable => rw [hs.submit_unreadable hop hx fun hd => hr ⟨hd.1, of_decide_eq_true hd.2⟩]
end


section
/-!
PROOFS. The first check that fails decides the reply (10 R321 to R326).
-/

set_option Elab.async false

namespace Sys2Proof.Machine

open Sys2Proof

/-! ## What neither reads nor writes the twin -/

/-- `f` neither reads nor writes the twin's state. -/
structure State.TwinFree (f : State → State) : Prop where
  eq : ∀ (v : Twin) (s : State), f (s.setTwin v) = (f s).setTwin v

theorem State.TwinFree.comp {f g : State → State} (hf : State.TwinFree f) (hg : State.TwinFree g) : State.TwinFree (fun s => f (g s)) where
  eq v s := by rw [hg.eq, hf.eq]

theorem State.TwinFree.ite {f g : State → State} (c : Prop) [Decidable c] (hf : State.TwinFree f) (hg : State.TwinFree g) :
    State.TwinFree (fun s => if c then f s else g s) where
  eq v s := by
    split
    · exact hf.eq v s
    · exact hg.eq v s

theorem State.event_twinFree (ev inst n : Nat) : State.TwinFree (State.event ev inst n) where
  eq v s := by
    rw [State.event, State.event, apply_ite (State.setTwin v)]
    rfl

theorem State.witness_twinFree (typ src stamp : Nat) (pl : List Byte) : State.TwinFree (State.witness typ src stamp pl) where
  eq v s := by
    rw [State.witness, State.witness, apply_ite (State.setTwin v), State.witPut, State.witPut, apply_ite (State.setTwin v),
      ← (State.event_twinFree ..).eq, ← (State.event_twinFree ..).eq]
    rfl

theorem State.toHost_twinFree (m : Ep1In) : State.TwinFree (State.toHost m) where
  eq v s := by
    rw [State.toHost, State.toHost, (State.event_twinFree ..).eq]
    dsimp only
    rw [apply_ite (State.setTwin v)]
    rfl

theorem State.reply_twinFree (p : Packet) (code : Byte) (sq reason stamp : Nat) : State.TwinFree (State.reply p code sq reason stamp) := by
  show State.TwinFree fun s => (s.toHost (.reply code p.hdr.queue p.hdr.tag sq reason stamp)).witness 0x21 0 stamp
    (leBytes 2 p.hdr.queue.toNat ++ w32Bytes p.hdr.tag ++ leBytes 6 sq ++ [code])
  exact .comp (State.witness_twinFree ..) (State.toHost_twinFree _)

theorem State.refuse_twinFree (p : Packet) (row : Nat) : State.TwinFree (State.refuse p row) := by
  have hf : State.TwinFree (fun s => (s.reply p (rowCode row) 0 row 0).event 0x1C1 0 1) :=
    .comp (State.event_twinFree ..) (State.reply_twinFree ..)
  exact .ite _ (.comp (State.event_twinFree ..) hf) hf

/-- Where no other command waits, an answer to the arriving one leaves none waiting. -/
theorem State.TwinFree.dropArrival {f : State → State} (hf : State.TwinFree f) {s : State} (hm : s.twin.mirrors = []) (p : Packet) :
    (f (s.arrived p)).dropArrival = f (s.received p) := by
  have hs : f (s.received p) = (f (s.received p)).setTwin (s.received p).twin := hf.eq (s.received p).twin (s.received p)
  have ht : (f (s.received p)).twin = (s.received p).twin := by
    rw [hs]
    rfl
  have hv : ({ (s.received p).twin with mirrors := [] } : Twin) = (f (s.received p)).twin := by
    rw [ht, State.received_twin, ← hm]
  rw [State.arrived, hf.eq]
  show (f (s.received p)).setTwin { (s.received p).twin with mirrors := [] } = _
  rw [hv]
  rfl

/-! ## Commands that are not checked (10 R321; 15 R494, R514) -/

section
variable {s : State} {p : Packet}

theorem State.mute_iff : s.mute = true ↔ s.mg.inReset = true ∨ (s.mg.dev = .test ∧ s.wit.mode ≠ .replay) ∨ s.mg.recoveryWhy = 4 := by
  simp only [State.mute, Bool.or_eq_true, Bool.and_eq_true, decide_eq_true_eq, or_assoc]

theorem State.submit_of_mute (h : s.mute = true) : s.submit p = s := if_pos h

theorem State.submit_of_waiting (h : s.mute = false) (hm : s.twin.mirrors ≠ []) :
    s.submit p = (s.received p).setTwin { s.twin with mirrors := s.twin.mirrors ++ [(s.received p).arrival p] } := by
  have hi : (s.received p).twin.mirrors.isEmpty = false := by
    rw [State.received_twin]
    exact List.isEmpty_eq_false_iff.mpr hm
  have he : s.submit p = if (s.received p).twin.mirrors.isEmpty = true then State.takeArrivals 1 ((s.received p).setTwin
      { (s.received p).twin with mirrors := (s.received p).twin.mirrors ++ [(s.received p).arrival p] })
      else (s.received p).setTwin { (s.received p).twin with mirrors := (s.received p).twin.mirrors ++ [(s.received p).arrival p] } :=
    if_neg (by rw [h]; decide)
  rw [he, hi, if_neg (by decide), State.received_twin]

/-! ## A command whose turn it is at once -/

theorem State.Free.submit_eq (h : s.Free) : s.submit p = State.takeArrivals 1 (s.arrived p) := by
  have hi : (s.received p).twin.mirrors.isEmpty = true := by rw [State.received_twin, h.alone]; rfl
  have he : s.submit p = if (s.received p).twin.mirrors.isEmpty = true then State.takeArrivals 1 ((s.received p).setTwin
      { (s.received p).twin with mirrors := (s.received p).twin.mirrors ++ [(s.received p).arrival p] })
      else (s.received p).setTwin { (s.received p).twin with mirrors := (s.received p).twin.mirrors ++ [(s.received p).arrival p] } :=
    if_neg (by rw [h.running]; decide)
  rw [he, if_pos hi, State.arrived, State.received_twin, h.alone]
  rfl

/-- The answer of a check that fails is the whole outcome. -/
theorem State.Free.submit_turnedAway (h : s.Free) {f : State → State} (hf : State.TwinFree f)
    (ht : (s.arrived p).turnAway ((s.received p).arrival p) = some (f (s.arrived p))) : s.submit p = f (s.received p) := by
  have hm : (s.arrived p).twin.mirrors = [(s.received p).arrival p] := rfl
  rw [h.submit_eq, State.takeArrivals, hm]
  dsimp only
  rw [ht]
  exact hf.dropArrival h.alone p

theorem State.Free.submit_badHeader (h : s.Free) (hh : (s.arrived p).headerGood p = false) : s.submit p = (s.received p).refuse p 1 :=
  h.submit_turnedAway (State.refuse_twinFree p 1) (if_pos (by rw [show ((s.received p).arrival p).pkt = p from rfl, hh]; rfl))

section
variable (h : s.Free) (hh : (s.arrived p).headerGood p = true)
include h hh

theorem State.Free.submit_duplicate {sq st : Nat} (ht : ((s.arrived p).queue p.q).tagHeld p.hdr.tag = some (sq, st)) :
    s.submit p = (s.received p).reply p Code.duplicate sq 2 st := by
  have hp : ((s.received p).arrival p).pkt = p := rfl
  refine h.submit_turnedAway (State.reply_twinFree ..) ?_
  simp only [State.turnAway, hp, hh, ht, Bool.not_true, Bool.false_eq_true, if_false]

variable (ht : ((s.arrived p).queue p.q).tagHeld p.hdr.tag = none)
include ht

/-- A command that rows 1 and 2 let pass is refused by the first row of the others that fails. -/
theorem State.Free.submit_refused {r : Nat} (hr : (s.arrived p).refusedBy ((s.received p).arrival p) = r + 1) :
    s.submit p = State.refuse p (r + 1) { s.received p with freeIx := (s.received p).freeIx + 1 } := by
  have hp : ((s.received p).arrival p).pkt = p := rfl
  have hf : State.TwinFree (fun s => State.refuse p (r + 1) { s with freeIx := s.freeIx + 1 }) :=
    State.TwinFree.comp (State.refuse_twinFree p (r + 1)) ⟨fun _ _ => rfl⟩
  refine h.submit_turnedAway hf ?_
  simp only [State.turnAway, hp, hh, ht, hr, Bool.not_true, Bool.false_eq_true, if_false]

/-- One that no row refuses waits for its mirror where the device has a peer (R321). -/
theorem State.Free.submit_mirrored (hr : (s.arrived p).refusedBy ((s.received p).arrival p) = 0) (hm : (s.arrived p).mirrorsFirst p = true) :
    s.submit p = (s.arrived p).tell (.mirror p ((s.arrived p).captureOf p) (s.queue p.q).nextSeq) := by
  have hp : ((s.received p).arrival p).pkt = p := rfl
  have hq : (s.arrived p).queue p.q = s.queue p.q := State.received_queue p s p.q
  have ha : (s.arrived p).twin.mirrors = [(s.received p).arrival p] := rfl
  have hn : (s.arrived p).turnAway ((s.received p).arrival p) = none := by
    simp only [State.turnAway, hp, hh, ht, hr, Bool.not_true, Bool.false_eq_true, if_false]
  rw [h.submit_eq, State.takeArrivals, ha]
  dsimp only
  rw [hn, hp, ← hq]
  exact if_pos hm

end

/-! ## Rows 3 to 7 in their order (R322) -/

/-- Rows 3 to 7 on the arriving command, each of them read after those before it have passed. -/
theorem State.refusedBy_arrival : (s.arrived p).refusedBy ((s.received p).arrival p) =
    if ((s.arrived p).descriptorGood p && (s.arrived p).parametersGood ((s.arrived p).inlined p)) = false then 3
    else if (s.arrived p).synced ((s.arrived p).inlined p) = false then 4
    else if (s.arrived p).roomFor p = false then 5
    else if (s.arrived p).testBusy ((s.arrived p).inlined p) s.now = true then 6
    else if ((s.received p).stateAllows p && (s.received p).opFeasible ((s.received p).inlined p) s.now) = false then 7
    else 0 := by
  have hp : ((s.received p).arrival p).pkt = p := rfl
  have ha : ((s.received p).arrival p).arrival = s.now := State.received_now p s
  have hm : ((s.received p).arrival p).admitted = ((s.received p).stateAllows p && (s.received p).opFeasible ((s.received p).inlined p) s.now) := by
    show (s.received p).admits p (s.received p).now = _
    rw [State.received_now, State.admits]
  simp only [State.refusedBy, hp, ha, hm, Bool.not_eq_true']

end

end Sys2Proof.Machine

open Sys2Proof Sys2Proof.Machine

/-- Settles O27: the checks are read in their order, and the answer of the first that fails is the whole outcome. -/
theorem refusedCommands : Obligations.RefusedCommands := by
  unfold Obligations.RefusedCommands
  intro s i p hp hi
  rw [exec_of_packet hp hi]
  refine ⟨fun h => by rw [State.submit_of_mute (State.mute_iff.mpr h)], fun hu hm => by rw [State.submit_of_waiting hu hm], fun h =>
    ⟨fun hh => by rw [h.submit_badHeader hh]; rfl, fun hh => ⟨fun sq st ht => by rw [h.submit_duplicate hh ht], fun ht => ?rows⟩⟩⟩
  case rows =>
    have hrow := State.refusedBy_arrival (s := s) (p := p)
    have refused := fun {r : Nat} => h.submit_refused hh ht (r := r)
    refine ⟨fun h3 => ?three, fun h3 h4 => ?four, fun h3 h4 h5 => ?five, fun h3 h4 h5 h6 => ?six, fun h3 h4 h5 h6 h7 => ?seven,
      fun h0 hm => by rw [h.submit_mirrored hh ht h0 hm]⟩
    case three =>
      rw [h3] at hrow
      exact congrArg _ (refused hrow)
    case four =>
      rw [h3, h4] at hrow
      exact congrArg _ (refused hrow)
    case five =>
      rw [h3, h4, h5] at hrow
      exact congrArg _ (refused hrow)
    case six =>
      rw [h3, h4, h5, h6] at hrow
      exact congrArg _ (refused hrow)
    case seven =>
      rw [h3, h4, h5, h6, h7] at hrow
      exact congrArg _ (refused hrow)
end


section
/-!
PROOFS. The host's ports: the pending map, telemetry, the states of USB and the SMBus target (10 R349; 16 R519 to R523; 18 R571, R572).
-/

set_option Elab.async false

namespace Sys2Proof.Machine

open Sys2Proof

variable {s : State}

/-! ## The pending map (10 R349) -/

section
variable {i : Nat}

theorem State.pendingPiece_held (h : s.usb.u3 = true ∨ s.usb.speed = 0 ∨ s.mapPiece i = Tbl.get (zeros 32) i s.usb.mapSent) :
    s.pendingPiece i = s := by
  refine if_pos ?_
  obtain h | h | h := h <;> simp [h]

/-- A piece that came less than coalesce_us ago holds the next one back. -/
theorem State.pendingPiece_early {t : Nat} (hl : s.usb.lastPiece = some t) (ht : s.up < t + 1000 * s.usb.coalesce.toNat) : s.pendingPiece i = s := by
  refine if_pos ?_
  simp [hl, ht]

theorem State.pendingPiece_sends (hu : s.usb.u3 = false) (hs : s.usb.speed ≠ 0) (hm : s.mapPiece i ≠ Tbl.get (zeros 32) i s.usb.mapSent)
    (hl : s.usb.lastPiece.all (fun t => decide (t + 1000 * s.usb.coalesce.toNat ≤ s.up)) = true) : s.pendingPiece i = s.sendPiece i := by
  refine if_neg ?_
  rw [hu, decide_eq_false hs, decide_eq_false hm]
  cases hp : s.usb.lastPiece with
  | none => simp
  | some t =>
    rw [hp] at hl
    simpa using hl

end

/-! ## Telemetry (16 R523) -/

/-- The device with other Ethernet ports and event counters. -/
def State.withEth (x : Tbl EthPort) (e : Tbl Counter) (s : State) : State := { s with eth := x, evc := e }

@[simp] theorem State.withEth_queues (x : Tbl EthPort) (e : Tbl Counter) (s : State) : (s.withEth x e).queues = s.queues := rfl
@[simp] theorem State.withEth_tb (x : Tbl EthPort) (e : Tbl Counter) (s : State) : (s.withEth x e).tb = s.tb := rfl

theorem State.withEth_withEth (x x' : Tbl EthPort) (e e' : Tbl Counter) (s : State) : (s.withEth x e).withEth x' e' = s.withEth x' e' := rfl

/-- A frame leaves a port, or waits there, with its event. -/
theorem State.send_withEth (p : Nat) (o : EthOut) (s : State) : ∃ x e, s.send p o = s.withEth x e := by
  unfold State.send
  dsimp only
  split
  · exact ⟨s.eth, s.evc, rfl⟩
  · split
    · obtain ⟨e, he⟩ := State.event_eq 0x281 (p + 1) 1 (s.setPort p { s.port p with
        out := (s.port p).out ++ [o], wire := (s.port p).wire ++ [(s.port p).bytesOf o],
        busy := s.up + (s.port p).frameNs ((s.port p).bytesOf o).length })
      exact ⟨_, e, he⟩
    · exact ⟨_, s.evc, rfl⟩

theorem State.teleEth_withEth (p : Nat) (bs : List Byte) (s : State) : ∃ x e, s.teleEth p bs = s.withEth x e := by
  unfold State.teleEth
  dsimp only
  split
  · obtain ⟨x, e, h⟩ := (s.setPort p { s.port p with teleNo := (s.port p).teleNo + 1 }).send_withEth p
      (.stream 0x88B6 ((s.port p).teleNo % 2 ^ 32) 0 bs)
    exact ⟨x, e, h⟩
  · exact ⟨s.eth, s.evc, rfl⟩

/-- The port once a record has joined the buffer of 215. -/
def State.recorded (s : State) : Usb :=
  { s.usb with ep2tele := (s.usb.ep2tele ++ [s.telemetryBytes]).drop (s.usb.ep2tele.length + 1 - 215), teleNo := s.usb.teleNo + 1 }

theorem State.recorded_teleNo (s : State) : s.recorded.teleNo = s.usb.teleNo + 1 := by rw [State.recorded]

theorem State.recorded_ep2tele (s : State) :
    s.recorded.ep2tele = (s.usb.ep2tele ++ [s.telemetryBytes]).drop (s.usb.ep2tele.length + 1 - 215) := by rw [State.recorded]

/-- A record joins the buffer, and goes to the Ethernet ports. -/
theorem State.telemetry_withEth (h : s.mg.inReset = false) : ∃ x e, s.telemetry = (s.setUsb s.recorded).withEth x e := by
  obtain ⟨x, e, h0⟩ := (s.setUsb s.recorded).teleEth_withEth 0 s.telemetryBytes
  obtain ⟨x', e', h1⟩ := ((s.setUsb s.recorded).teleEth 0 s.telemetryBytes).teleEth_withEth 1 s.telemetryBytes
  have hl : (s.usb.ep2tele ++ [s.telemetryBytes]).length = s.usb.ep2tele.length + 1 := List.length_append
  have ht : s.telemetry = ((s.setUsb s.recorded).teleEth 0 s.telemetryBytes).teleEth 1 s.telemetryBytes := by
    rw [State.telemetry, h, State.recorded, ← hl]
    rfl
  exact ⟨x', e', by rw [ht, h1, h0, State.withEth_withEth]⟩

/-! ## The states of USB (16 R519, R521, R522) -/

theorem State.suspend_unconnected (h : s.usb.speed = 0) : s.suspend = s := if_pos h

theorem State.suspend_connected (h : s.usb.speed ≠ 0) : s.suspend =
    ({ s with freeIx := s.freeIx + 1 } : State).setUsb { s.usb with u3 := true, lowPower := 0, remoteWake := Config.remoteWake s.freeIx } := if_neg h

theorem State.usbTrained_not {v : BitVec 3} (h : s.mg.inReset = true ∨ v = 0 ∨ 5 ≤ v.toNat ∨ (v = 1 ∧ s.up < s.mg.releasedAt + 100000000)) :
    s.usbTrained v = s := if_pos h

theorem State.usbTrained_trains {v : BitVec 3} (hr : s.mg.inReset = false) (h0 : v ≠ 0) (h5 : v.toNat < 5)
    (h1 : ¬ (v = 1 ∧ s.up < s.mg.releasedAt + 100000000)) :
    s.usbTrained v = (s.setUsb { s.usb with speed := v, u3 := false, lowPower := 0 }).sendAllPieces := by
  refine if_neg ?_
  rintro (h | h | h | h)
  · rw [hr] at h
    cases h
  · exact h0 h
  · exact absurd h5 (Nat.not_lt.mpr h)
  · exact h1 h

theorem State.lowPowerRequest_rejected {u2 : Bool}
    (h : s.usb.u3 = true ∨ s.usb.speed = 0 ∨ bit s.usb.ctl (if u2 then 1 else 0) = false) : s.lowPowerRequest u2 = s := by
  refine if_pos ?_
  obtain h | h | h := h <;> simp [h]

theorem State.lowPowerRequest_taken {u2 : Bool} (hu : s.usb.u3 = false) (hs : s.usb.speed ≠ 0)
    (hc : bit s.usb.ctl (if u2 then 1 else 0) = true) : s.lowPowerRequest u2 = s.setUsb { s.usb with lowPower := if u2 then 2 else 1 } := by
  refine if_neg ?_
  rintro (h | h | h)
  · rw [hu] at h
    cases h
  · exact hs h
  · rw [hc] at h
    cases h

/-! ## The SMBus target (18 R571, R572) -/

section
variable {addr : BitVec 7} {code : Byte} {pec : Bool}

/-- A read that the target does not acknowledge. -/
theorem State.smbus_unacknowledged (h : s.mg.inReset = true ∨ s.up < s.mg.releasedAt + 2000000 ∨ addr ≠ (if s.mg.twinPref then 0x5B else 0x5A) ∨
    pec = false ∨ s.smbusValue code = none) : s.smbus addr code pec = s.setMg { s.mg with smb := none } := by
  by_cases hc : s.mg.inReset ∨ s.up < s.mg.releasedAt + 2000000 ∨ addr ≠ (if s.mg.twinPref then 0x5B else 0x5A) ∨ !pec
  · exact if_pos hc
  · have hv : s.smbusValue code = none := by
      obtain h | h | h | h | h := h
      · exact absurd (.inl h) hc
      · exact absurd (.inr (.inl h)) hc
      · exact absurd (.inr (.inr (.inl h))) hc
      · exact absurd (.inr (.inr (.inr (by rw [h]; rfl)))) hc
      · exact h
    rw [State.smbus, if_neg hc, hv]

theorem State.smbus_answers {v : W64} (hr : s.mg.inReset = false) (hu : s.mg.releasedAt + 2000000 ≤ s.up)
    (ha : addr = (if s.mg.twinPref then 0x5B else 0x5A)) (hp : pec = true) (hv : s.smbusValue code = some v) :
    s.smbus addr code pec = s.setMg { s.mg with smb := some (leBytes 1 8 ++ w64Bytes v ++
      [crc8 (leBytes 1 (2 * addr.toNat) ++ [code] ++ leBytes 1 (2 * addr.toNat + 1) ++ (leBytes 1 8 ++ w64Bytes v))]) } := by
  have hc : ¬ (s.mg.inReset ∨ s.up < s.mg.releasedAt + 2000000 ∨ addr ≠ (if s.mg.twinPref then 0x5B else 0x5A) ∨ !pec) := by
    simp [hr, ha, hp, hu]
  rw [State.smbus, if_neg hc, hv]

end

end Sys2Proof.Machine

open Sys2Proof Sys2Proof.Machine

/-- Settles O51: each event is one operation on the port, and each clause names a case of it. -/
theorem portEvents : Obligations.PortEvents := by
  unfold Obligations.PortEvents
  intro s
  refine ⟨fun i hi => ?pieces, fun h => congrArg _ (if_pos h), fun h => ?telemetry, ⟨fun h => ?idle, fun g h => ?streaming⟩,
    fun h => congrArg _ (State.suspend_unconnected h), fun h => ⟨_, congrArg _ (State.suspend_connected h)⟩, rfl,
    fun v => ⟨fun h => congrArg _ (State.usbTrained_not h), fun hr h0 h5 h1 => congrArg _ (State.usbTrained_trains hr h0 h5 h1)⟩,
    fun u2 => ⟨fun h => congrArg _ (State.lowPowerRequest_rejected h), fun hu hs hc => congrArg _ (State.lowPowerRequest_taken hu hs hc)⟩,
    fun addr code pec => ⟨fun h => congrArg _ (State.smbus_unacknowledged h),
      fun v hr hu ha hp hv => congrArg _ (State.smbus_answers hr hu ha hp hv)⟩, rfl, rfl, rfl, rfl⟩
  case pieces =>
    have hexec : exec (.pendingMapPiece i) s = .next (s.pendingPiece i) := within_of_lt hi _
    rw [hexec]
    exact ⟨fun h => congrArg _ (State.pendingPiece_held h), fun t hl ht => congrArg _ (State.pendingPiece_early hl ht),
      fun hu hs hm hl => congrArg _ (State.pendingPiece_sends hu hs hm hl)⟩
  case telemetry =>
    obtain ⟨x, e, ht⟩ := State.telemetry_withEth h
    exact ⟨_, congrArg Host.Outcome.next ht, State.recorded_teleNo s, State.recorded_ep2tele s, by simp, by simp⟩
  case idle =>
    show Host.Outcome.next s.busReset = _
    rw [State.busReset, h]
    rfl
  case streaming =>
    show Host.Outcome.next s.busReset = _
    rw [State.busReset, h]
    rfl
end


section
/-!
SUPPORT. What a completion and a journal entry change of the device (10 R327, R346; 14 R464), and what a binding's mailboxes hold once each of
them has changed (01 R19).
-/

set_option Elab.async false

namespace Sys2Proof.Machine

open Sys2Proof

/-! ## A completion (10 R327, R329) -/

/-- The device with other free values, queues and twin. -/
def State.withWork (f : Nat) (q : Tbl Queue) (t : Twin) (s : State) : State := { s with freeIx := f, queues := q, twin := t }

section
variable (s : State)

theorem State.commitEntry_withWork (e : Effects) (r : Record) : ∃ t, (s.commitEntry e r).2.2 = s.withWork s.freeIx s.queues t := by
  unfold State.commitEntry
  split
  · exact ⟨_, rfl⟩
  · dsimp only
    split <;> exact ⟨_, rfl⟩

theorem State.reorderPut_withWork (q : Nat) (r : Record) (e : Effects) (cap : Nat) : ∃ v t, s.reorderPut q r e cap = s.withWork s.freeIx v t := by
  obtain ⟨t, h⟩ := s.commitEntry_withWork e r
  unfold State.reorderPut
  dsimp only
  rw [h]
  exact ⟨_, t, rfl⟩

theorem State.closeMerged_withWork (q : Nat) : ∃ v t, s.closeMerged q = s.withWork s.freeIx v t := by
  unfold State.closeMerged
  dsimp only
  split
  · split
    · exact State.reorderPut_withWork _ ..
    · exact ⟨s.queues, s.twin, rfl⟩
  · exact ⟨s.queues, s.twin, rfl⟩

theorem State.bareExt_withWork (o : Outst) (r : Record) : ∃ f, (s.bareExt o r).2 = s.withWork f s.queues s.twin := by
  unfold State.bareExt
  split
  · exact ⟨s.freeIx, rfl⟩
  · split
    · exact ⟨s.freeIx, rfl⟩
    · exact ⟨_, rfl⟩

/-- A completion changes free values, the queues and the twin's log. -/
theorem State.completeAt_withWork (stop : W32) (q sq : Nat) (r : Record) (e : Effects) :
    ∃ f v t, s.completeAt stop q sq r e = s.withWork f v t := by
  unfold State.completeAt
  cases s.outstOf q sq with
  | none => exact ⟨s.freeIx, s.queues, s.twin, rfl⟩
  | some o =>
    dsimp only
    generalize ({ r with queue := q, seq := sq, tag := _, opcode := _, accept := _, cflags := _, stop := stop, flags := _ } : Record) = r'
    obtain ⟨f, hf⟩ := s.bareExt_withWork o r'
    have put : ∀ (x : Queue) (r : Record), ∃ f v t,
        ((s.bareExt o r').2.setQueue q x).reorderPut q r e o.captured.length = s.withWork f v t := by
      intro x r
      obtain ⟨v, t, h⟩ := ((s.bareExt o r').2.setQueue q x).reorderPut_withWork q r e o.captured.length
      exact ⟨_, v, t, by rw [h, hf]; rfl⟩
    split
    · split
      · obtain ⟨v, t, h⟩ := ((s.bareExt o r').2.setQueue q _).closeMerged_withWork q
        exact ⟨_, v, t, by rw [h, hf]; rfl⟩
      · exact put ..
    · exact put ..

theorem State.completeAt_mailbox (stop : W32) (q sq : Nat) (r : Record) (e : Effects) (m : Nat) :
    (s.completeAt stop q sq r e).mailbox m = s.mailbox m := by
  obtain ⟨f, v, t, h⟩ := s.completeAt_withWork stop q sq r e
  rw [h]
  rfl

theorem State.finish_tile (q sq : Nat) (st : Byte) (p : Nat) : (s.finish q sq st).tile p = s.tile p := by
  obtain ⟨f, v, t, h⟩ := s.completeAt_withWork (short s.now) q sq { status := st } { }
  rw [State.finish, State.complete, h]
  rfl

/-! ## A journal entry (10 R346) -/

theorem State.digest128_tiles (x : Option (List Byte)) : (s.digest128 x).2.tiles = s.tiles := by
  cases x with
  | some b => rfl
  | none => rfl

theorem State.journalNow_tile (c : Cause) (target : W64) (before after : Option (List Byte)) (p : Nat) :
    (s.journalNow c target before after).tile p = s.tile p := by
  have h : (s.journalNow c target before after).tiles = s.tiles := by
    unfold State.journalNow State.journalAt
    dsimp only
    obtain ⟨e, he⟩ := State.event_eq 0x2C5 0 1 (((s.digest128 before).2.digest128 after).2.setMg _)
    rw [he]
    show ((s.digest128 before).2.digest128 after).2.tiles = s.tiles
    rw [State.digest128_tiles, State.digest128_tiles]
  rw [State.tile, h, State.tile]

end

/-! ## Mailboxes that change together (01 R19, R20) -/

/-- Each of several mailboxes changes by a function of its own. -/
theorem State.foldl_updMailbox (g : Nat → Mailbox → Mailbox) {ms : List Nat} (hn : ms.Nodup) (s : State) (m : Nat) :
    (ms.foldl (fun s m => s.updMailbox m (g m)) s).mailbox m = if m ∈ ms then g m (s.mailbox m) else s.mailbox m := by
  induction ms generalizing s with
  | nil => rfl
  | cons k ms ih =>
    obtain ⟨hk, hn⟩ := List.nodup_cons.mp hn
    rw [List.foldl_cons, ih hn, State.updMailbox_eq]
    by_cases hm : m = k
    · subst hm
      rw [if_neg hk, if_pos List.mem_cons_self, State.setMailbox_mailbox]
    · rw [State.setMailbox_mailbox_ne _ _ _ _ hm]
      simp only [List.mem_cons, hm, false_or]

end Sys2Proof.Machine
end


section
/-!
PROOFS. Standing jobs: boundaries, invocations, publishes and releases; and deadlines (01 R19, R20; 06 R210; 10 R328; 11 R357, R368).
-/

set_option Elab.async false

namespace Sys2Proof.Machine

open Sys2Proof

variable {s : State} {b : Nat}

/-! ## Without a binding nothing happens -/

section
variable (h : s.binding b = none)
include h

theorem State.standingBoundary_unbound : s.standingBoundary b = s := by rw [State.standingBoundary, h]
theorem State.invocationStart_unbound : s.invocationStart b = s := by rw [State.invocationStart, h]
theorem State.publish_unbound : s.publish b = s := by rw [State.publish, h]
theorem State.standingRelease_unbound : s.standingRelease b = s := by rw [State.standingRelease, h]

end

section
variable {v : Binding} (hb : s.binding b = some v)
include hb

/-! ## Boundaries (10 R328) -/

theorem State.standingBoundary_held (h : v.first = none ∨ v.unbindAt.isSome = true ∨ s.now < v.next) : s.standingBoundary b = s := by
  rw [State.standingBoundary, hb]
  refine if_pos ?_
  obtain h | h | h := h <;> simp [h]

omit hb in
theorem State.enterInvocation_phys (q : Nat) (tag : BitVec 32) (n l : Nat) : (s.enterInvocation q tag n).2.phys l = s.phys l := by
  have hm : ∀ (t : State) (sq : Nat), (t.mapInvocation q sq).tileMap = t.tileMap := by
    intro t sq
    unfold State.mapInvocation
    dsimp only
    split <;> rfl
  have h : (s.enterInvocation q tag n).2.tileMap = s.tileMap := by
    unfold State.enterInvocation
    dsimp only
    split
    · rfl
    · exact hm ..
  rw [State.phys, h, State.phys]

/-- The publish that an invocation awaits, 64 ns after its deadline (01 R19). -/
def Binding.publishDue (sq : Nat) (v : Binding) : Pub :=
  { due := v.next + v.deadline + 64, seq := v.inv, qseq := sq, ended := false, publishes := false, status := 0, staged := [], held := none }

/-- The binding once an invocation has taken its numbers. -/
def Binding.entered (sq : Nat) (v : Binding) : Binding :=
  { v with
    boundary := v.next, next := v.next + v.period, inv := v.inv + 1, seq := some sq, running := true, toStart := true,
    pubs := v.pubs ++ [v.publishDue sq] }

theorem State.standingBoundary_enters {p : Nat} (hf : v.first.isSome = true) (hu : v.unbindAt = none) (ht : v.next ≤ s.now)
    (hbe : v.behind = false) (ha : v.awaitImage = none) (hp : s.phys v.ltile = some p) : s.standingBoundary b =
    ((s.enterInvocation v.cqueue v.tag v.next).2.setBinding b (v.entered (s.enterInvocation v.cqueue v.tag v.next).1)).rouse p := by
  have hn : ¬ (v.first.isNone || v.unbindAt.isSome || decide (s.now < v.next)) = true := by
    rw [Option.isNone_eq_false_iff.mpr hf, hu, decide_eq_false (Nat.not_lt.mpr ht)]
    decide
  have hphys : ((s.enterInvocation v.cqueue v.tag v.next).2.setBinding b (v.entered (s.enterInvocation v.cqueue v.tag v.next).1)).phys v.ltile =
      some p := (State.enterInvocation_phys ..).trans hp
  unfold Binding.entered Binding.publishDue at hphys ⊢
  rw [State.standingBoundary, hb]
  dsimp only
  rw [if_neg hn, if_neg (by rw [hbe]; decide), hphys, ha]

/-! ## Invocations (11 R368) -/

theorem State.invocationStart_held (h : v.toStart = false ∨ s.now < v.boundary + 120) : s.invocationStart b = s := by
  rw [State.invocationStart, hb]
  refine if_pos ?_
  obtain h | h := h <;> simp [h]

section
variable (hs : v.toStart = true) (ht : v.boundary + 120 ≤ s.now)
include hs ht

omit hb in
theorem State.invocation_due : ¬ (!v.toStart || decide (s.now < v.boundary + 120)) = true := by
  rw [hs, decide_eq_false (Nat.not_lt.mpr ht)]
  decide

/-- The invocation before still runs. -/
theorem State.invocationStart_overrun (hi : s.invoking b v = true) : s.invocationStart b = s.failInvocation b St.overrun 0 := by
  rw [State.invocationStart, hb]
  exact (if_neg (State.invocation_due hs ht)).trans (if_pos hi)

variable {p w : Nat} (hi : s.invoking b v = false) (hp : s.phys v.ltile = some p)
include hi hp

/-- The invocation takes the slot that the last one had, or else one that is free. -/
theorem State.invocationStart_begins (hw : ((s.swapAll p).tile p).slotOf b = some w ∨
    (((s.swapAll p).tile p).slotOf b = none ∧ ((s.swapAll p).tile p).freeSlot = some w)) :
    s.invocationStart b = (s.swapAll p).beginInvocation b p w v := by
  have hn : ¬ s.invoking b v = true := by rw [hi]; decide
  rw [State.invocationStart, hb]
  refine (if_neg (State.invocation_due hs ht)).trans ((if_neg hn).trans ?_)
  rw [hp]
  dsimp only
  obtain hw | ⟨h0, hw⟩ := hw
  · rw [hw]
  · rw [h0, hw]

end

/-! ## Publishes (01 R19, R20; 07 R237) -/

omit hb in
/-- What a mailbox holds after the publish count of an invocation: a fresh value, or none. -/
def Pub.reach (x : Pub) (m : Nat) (y : Mailbox) : Mailbox :=
  if x.ended && x.publishes then y.publish x.due (if x.staged.any (fun e => decide (e.1 = m)) then some (Tbl.get 0 m x.staged) else none) x.status
  else y.missed x.due

omit hb in
theorem Pub.reach_published {x : Pub} (he : x.ended = true) (hp : x.publishes = true) (m : Nat) (y : Mailbox) : x.reach m y =
    y.publish x.due (if x.staged.any (fun e => decide (e.1 = m)) then some (Tbl.get 0 m x.staged) else none) x.status := by
  rw [Pub.reach, he, hp]
  rfl

omit hb in
theorem Pub.reach_missed {x : Pub} (h : ¬ (x.ended = true ∧ x.publishes = true)) (m : Nat) (y : Mailbox) : x.reach m y = y.missed x.due := by
  rw [Pub.reach, if_neg (by rwa [Bool.and_eq_true])]

omit hb in
/-- The value that is published: the staged one, where the invocation has staged one. -/
theorem Mailbox.publish_value (due : Nat) (c : Bool) (x : W32) (status : Byte) (y : Mailbox) :
    (y.publish due (if c then some x else none) status).value = if c then x else y.value := by
  cases c <;> rfl

section
variable {x : Pub} {rest : List Pub} (hx : v.pubs = x :: rest)
include hx

theorem State.publish_early (h : s.now < x.due) : s.publish b = s := by
  rw [State.publish, hb]
  dsimp only
  rw [hx]
  exact if_pos h

/-- All mailboxes of the binding reach the publish count together, and the others stay. -/
theorem State.publish_mailbox (h : x.due ≤ s.now) (hn : v.mailboxes.Nodup) (m : Nat) :
    (s.publish b).mailbox m = if m ∈ v.mailboxes then x.reach m (s.mailbox m) else s.mailbox m := by
  have hf := State.foldl_updMailbox x.reach hn (s.setBinding b { v with pubs := rest }) m
  have he : s.publish b = match x.held with
      | some r => (v.mailboxes.foldl (fun s m => s.updMailbox m (x.reach m)) (s.setBinding b { v with pubs := rest })).completeAt
          r.1.stop v.cqueue x.qseq r.1 r.2
      | none => v.mailboxes.foldl (fun s m => s.updMailbox m (x.reach m)) (s.setBinding b { v with pubs := rest }) := by
    rw [State.publish, hb]
    dsimp only
    rw [hx]
    exact if_neg (Nat.not_lt.mpr h)
  rw [he]
  cases x.held with
  | some r => exact (State.completeAt_mailbox ..).trans hf
  | none => exact hf

end

/-! ## Releases (11 R368) -/

theorem State.standingRelease_held (h : v.unbindAt = none ∨ v.pubs ≠ [] ∨ v.toStart = true ∨ s.invoking b v = true) :
    s.standingRelease b = s := by
  rw [State.standingRelease, hb]
  dsimp only
  split
  · rfl
  · rename_i hu
    refine if_pos ?_
    obtain h | h | h | h := h
    · rw [hu] at h
      cases h
    · simp [h]
    · simp [h]
    · simp [h]

/-- Without the binding: its mailboxes have lost their writer (07 R237). -/
def State.unboundAt (b : Nat) (ms : List Nat) (s : State) : State :=
  ms.foldl (fun s m => s.updMailbox m (·.release s.now)) (s.dropBinding b).unmappedCheck

omit hb in
theorem State.unboundAt_keeps (ms : List Nat) : (s.unboundAt b ms).tileMap = s.tileMap ∧ (s.unboundAt b ms).doms = s.doms := by
  have hd : (s.dropBinding b).unmappedCheck.tileMap = s.tileMap ∧ (s.dropBinding b).unmappedCheck.doms = s.doms := by
    unfold State.unmappedCheck
    split <;> exact ⟨rfl, rfl⟩
  exact foldl_keeps (p := fun t : State => t.tileMap = s.tileMap ∧ t.doms = s.doms) hd fun _ _ h => h

section
variable {u : Nat × Cause} (hu : v.unbindAt = some u) (hq : v.pubs = []) (hs : v.toStart = false) (hi : s.invoking b v = false)
include hu hq hs hi

omit hb hu in
theorem State.release_due : ¬ (!v.pubs.isEmpty || v.toStart || s.invoking b v) = true := by
  rw [hq, hs, hi]
  decide

theorem State.standingRelease_unmapped (hp : s.phys v.ltile = none) : s.standingRelease b =
    ((s.unboundAt b v.mailboxes).journalNow u.2 (objTarget 0x10 b) none none).finish u.2.queue u.2.seq St.done := by
  have hphys : (s.unboundAt b v.mailboxes).phys v.ltile = none := by rw [State.phys, (State.unboundAt_keeps _).1]; exact hp
  unfold State.unboundAt at hphys ⊢
  rw [State.standingRelease, hb]
  dsimp only
  rw [hu]
  refine (if_neg (State.release_due hq hs hi)).trans ?_
  rw [hphys]

/-- The tile is open to on-demand work again, where the kiln has not shut it out. -/
theorem State.standingRelease_mapped {p : Nat} (hp : s.phys v.ltile = some p) : ∃ (t : Tile) (n : Nat), s.standingRelease b =
    (((s.unboundAt b v.mailboxes).setTile p { t with reserved := false, closed := (s.dom p).shutOut, idleSince := n }).journalNow
      u.2 (objTarget 0x10 b) none none).finish u.2.queue u.2.seq St.done := by
  have hphys : (s.unboundAt b v.mailboxes).phys v.ltile = some p := by rw [State.phys, (State.unboundAt_keeps _).1]; exact hp
  have hdom : (s.unboundAt b v.mailboxes).dom p = s.dom p := by rw [State.dom, (State.unboundAt_keeps _).2, State.dom]
  refine ⟨match ((s.unboundAt b v.mailboxes).tile p).slotOf b with
    | some w => ((s.unboundAt b v.mailboxes).tile p).setSlot w none
    | none => (s.unboundAt b v.mailboxes).tile p, (s.unboundAt b v.mailboxes).now, ?_⟩
  rw [← hdom]
  unfold State.unboundAt at hphys ⊢
  rw [State.standingRelease, hb]
  dsimp only
  rw [hu]
  refine (if_neg (State.release_due hq hs hi)).trans ?_
  rw [hphys] <;> rfl

end

end

/-! ## Deadlines (06 R210; 11 R357) -/

/-- A job whose deadline has passed. -/
def Job.dueBy (now : Nat) (j : Job) : Bool :=
  match j.deadline with
  | some d => decide (d ≤ now)
  | none => false

theorem Job.dueBy_eq_any (now : Nat) (j : Job) : j.dueBy now = j.deadline.any (fun d => decide (d ≤ now)) := by
  unfold Job.dueBy
  cases j.deadline <;> rfl

/-- The context of a slot freezes where the deadline of its job has passed. -/
def State.freezeDue (p cut now w : Nat) (u : State) : State :=
  match u.ctx p w with
  | some c => if c.live && c.job.dueBy now then u.freezeAt p w cut c else u
  | none => u

/-- The ready list and the contexts swapped out without those whose deadline has passed. -/
def State.withoutDue (now : Nat) (u : State) : State :=
  u.setKiln { u.kiln with ready := u.kiln.ready.filter (fun j => !j.dueBy now), swapped := u.kiln.swapped.filter (fun e => !e.ctx.job.dueBy now) }

/-- Outside a replay no freeze waits for a recorded cut: both contexts of the tile freeze, and the jobs that no tile has end. -/
theorem State.deadlineFreeze_eq (p cut : Nat) (h : s.wit.mode ≠ .replay) : s.deadlineFreeze p cut =
    let u := (s.freezeDue p cut s.now 0).freezeDue p cut s.now 1
    (u.kiln.swapped.filter (fun e => e.ctx.job.dueBy s.now)).foldl (fun s e => s.endSwapped e St.overrun 0)
      ((u.kiln.ready.filter (fun j => j.dueBy s.now)).foldl (fun s j => s.endReady j St.overrun 0) (u.withoutDue s.now)) := by
  have hcut : ∀ q sq pr, s.cutOf q sq pr = none := fun _ _ _ => if_neg h
  have hall : ∀ l : List (Held × Nat), l.all (fun _ => true) = true := fun l => by simp
  unfold State.deadlineFreeze
  simp only [hcut, hall, Bool.or_true, List.foldl]
  cases (s.tile p).cu with
  | none =>
    simp only [Bool.and_true]
    rfl
  | some u =>
    simp only [Bool.and_true]
    rfl

end Sys2Proof.Machine

open Sys2Proof Sys2Proof.Machine

/-- Settles O40: each event is one operation on a binding, and each clause names a case of it. -/
theorem standingEvents : Obligations.StandingEvents := by
  unfold Obligations.StandingEvents
  refine fun s b => ⟨fun hb => ?unbound, fun v hb => ?bound, fun p cut hp hm => ?deadlines⟩
  case unbound =>
    exact ⟨congrArg _ (State.standingBoundary_unbound hb), congrArg _ (State.invocationStart_unbound hb), congrArg _ (State.publish_unbound hb),
      congrArg _ (State.standingRelease_unbound hb)⟩
  case bound =>
    refine ⟨fun h => congrArg _ (State.standingBoundary_held hb h),
      fun p hf hu ht hbe ha hp => congrArg _ (State.standingBoundary_enters hb hf hu ht hbe ha hp),
      fun h => congrArg _ (State.invocationStart_held hb h),
      fun hs ht => ⟨fun hi => congrArg _ (State.invocationStart_overrun hb hs ht hi),
        fun p w hi hp hw => congrArg _ (State.invocationStart_begins hb hs ht hi hp (.inl hw)),
        fun p w hi hp h0 hw => congrArg _ (State.invocationStart_begins hb hs ht hi hp (.inr ⟨h0, hw⟩))⟩,
      fun x rest hx => ⟨fun h => congrArg _ (State.publish_early hb hx h), fun h hn => ⟨s.publish b, rfl, ?publishes⟩⟩,
      fun h => congrArg _ (State.standingRelease_held hb h),
      fun u hu hq hs hi hp => congrArg _ (State.standingRelease_unmapped hb hu hq hs hi hp),
      fun u p hu hq hs hi hp => ?released⟩
    case publishes =>
      have hmail := State.publish_mailbox hb hx h hn
      refine ⟨fun m hm => by rw [hmail, if_neg hm], fun m hm he hp => ?_, fun m hm hne => ?_⟩
      · have hval := Mailbox.publish_value x.due (x.staged.any fun e => decide (e.1 = m)) (Tbl.get 0 m x.staged) x.status (s.mailbox m)
        rw [hmail, if_pos hm, Pub.reach_published he hp]
        exact ⟨hval, rfl, rfl, rfl, rfl⟩
      · rw [hmail, if_pos hm, Pub.reach_missed hne]
        exact ⟨rfl, rfl, rfl, rfl⟩
    case released =>
      obtain ⟨t, n, h⟩ := State.standingRelease_mapped hb hu hq hs hi hp
      refine ⟨_, congrArg Host.Outcome.next h, ?_⟩
      rw [State.finish_tile, State.journalNow_tile, State.setTile_tile]
      exact ⟨rfl, rfl⟩
  case deadlines =>
    have hexec : exec (.deadlineFreeze p cut) s = .next (s.deadlineFreeze p cut) := within_of_lt hp _
    rw [hexec, State.deadlineFreeze_eq p cut hm]
    simp only [State.freezeDue, State.withoutDue, Job.dueBy_eq_any]
    rfl
end


section
/-!
PROOFS. The writes of named fields are REG_WRITEs, which journal the cause that their queue holds when they are carried out (10 R346), and not
always the one with which they were accepted.
-/

set_option Elab.async false

namespace Sys2Proof.Machine

open Sys2Proof

/-- The write of health_clear alone, on Q0, with tag 7. -/
def healthPacket : Packet := regPacket healthClearHdr 0x10 2 2

/-- The bit reads as zero, and its write is journaled all the same (log entry 81). -/
theorem State.pokeLogged_healthBit (stamp : Nat) (c : Cause) (s : State) : s.pokeLogged 0x10 2 2 stamp c = some (s.clearHealth c) := by
  have hr : ∀ t : State, t.peek 0x10 = some 0 := fun _ => rfl
  have hw : s.poke 0x10 2 2 stamp c = some (s.setMg { s.mg with healthClear := true }) := rfl
  simp only [State.pokeLogged, hr, hw]
  rfl

theorem swappingDev_healthBegins : swappingDev.Begins healthPacket where
  running := by decide +kernel
  alone := by decide +kernel
  header := by decide +kernel
  fresh := by decide +kernel
  allowed := by decide +kernel
  own := by decide +kernel
  named := by decide +kernel
  ready := by decide +kernel
  readable := by rfl

/-- As its entry is read, the number of the command goes to the ROLE_SWAP, and it is no longer outstanding. -/
theorem swappingDev_healthGone : (swappingDev.begun healthPacket).Gone 0 1 := by
  have failing : (swappingDev.accepting healthPacket).2.1.Failing entryPlace :=
    { upset := by rfl, cache := by rfl, pcs := by decide +kernel, young := by decide +kernel }
  have swapping : (swappingDev.accepting healthPacket).2.1.Swapping 0 1 :=
    { role := by rfl, paired := by rfl, swap := ⟨100000, by rfl⟩, attach := by rfl, merged := by rfl }
  exact State.devRead_gone (failing.hbmRead_gone swapping (by decide))

end Sys2Proof.Machine

open Sys2Proof Sys2Proof.Machine

/-- Refutes O35: its clause on health_clear lets the journal entry bear the cause with which the command was accepted. On `swappingDev` the
command is no longer outstanding when it writes, so that the entry bears no tag. The statement ranges over every state: in this one the
ROLE_SWAP bears a number that its queue has not given yet, which no run is shown to reach. -/
theorem not_namedFieldWrites : ¬ Obligations.NamedFieldWrites := by
  unfold Obligations.NamedFieldWrites
  intro hall
  have hb := swappingDev_healthBegins
  have hg := swappingDev_healthGone
  have hc : swappingDev.causeFor healthPacket = { queue := 0, tag := 7, seq := 1, opcode := 5 } := by decide +kernel
  obtain ⟨-, -, -, -, -, -, -, -, -, hclear, -⟩ := hall swappingDev healthClearHdr
  have stated := hclear healthPacket rfl trivial hb
  dsimp only at stated
  have done : exec (.mgResetCtlHealthClear healthClearHdr) swappingDev =
      .next ((swappingDev.begun healthPacket).regWrite (swappingDev.outOf healthPacket)) := exec_regWrite hb
  generalize swappingDev.begun healthPacket = u at hg stated done
  have hdone : exec (.mgResetCtlHealthClear healthClearHdr) swappingDev = .next (u.clearHealth { queue := 0, seq := 1 }) := by
    have hq : u.causeOf 0 1 = { queue := 0, seq := 1 } := hg.causeOf
    have hw : u.regWrite (swappingDev.outOf healthPacket) = (u.clearHealth (u.causeOf 0 1)).complete 0 1 _ _ :=
      State.regWrite_some (State.pokeLogged_healthBit swappingDev.now (u.causeOf 0 1) u)
    rw [done, hw, hg.complete_clearHealth, hq]
  have hstated : exec (.mgResetCtlHealthClear healthClearHdr) swappingDev =
      .next (u.clearHealth { queue := 0, tag := 7, seq := 1, opcode := 5 }) := by
    rw [hc] at stated
    exact stated.trans (congrArg Host.Outcome.next (hg.complete_clearHealth _ _ _))
  have ht := State.clearHealth_tag (Host.Outcome.next.inj (hdone.symm.trans hstated)) rfl
  exact absurd ht (by decide)
end


section
/-!
PROOFS. An ACK that asks for the released records again reads them back from HBM (10 R337). Such a read can fail a pseudo-channel, so that the
device leaves its pair (13 R434; 14 R479), and the entries of every queue wait for their mirrors no more (14 R471).
-/

set_option Elab.async false

namespace Sys2Proof.Machine

open Sys2Proof

/-! ## A device that leaves its pair waits for no mirror -/

section
variable {s : State}

/-- An ACTIVE device of a pair, with no ATTACH and no ROLE_SWAP under way. -/
structure State.Paired (s : State) : Prop where
  role : s.twin.role = .active
  paired : s.twin.pair ≠ .none
  attach : s.twin.attachBy = none
  swap : s.twin.swapAt = none

theorem State.Paired.congr {t : State} (h : s.SameWork t) (k : s.Paired) : t.Paired := by
  obtain ⟨h1, h2, h3, h4⟩ := k
  exact ⟨by rwa [h.1], by rwa [h.1], by rwa [h.1], by rwa [h.1]⟩

/-- As it leaves its pair, the queues change by nothing but the mirrors that they wait for. -/
theorem State.Paired.leavePair_unmirrors (k : s.Paired) (reason : BitVec 4) :
    (s.leavePair reason).twin.pair = .none ∧ (s.leavePair reason).queues = s.unmirror.queues := by
  have hu : s.unmirror.twin.role ≠ .standby := by
    show s.twin.role ≠ .standby
    rw [k.role]
    decide
  have hf : s.unmirror.forgetWork = s.unmirror := if_neg hu
  rw [State.leavePair, if_neg k.paired]
  dsimp only
  rw [hf]
  obtain ⟨o, ht, hq⟩ := State.twinChange_keeps (s := s.unmirror)
    (v := { s.unmirror.twin with leaveReason := reason, role := .solo, pair := .none, active := false,
                                 peerLowAt := if s.unmirror.twin.peerActive then s.unmirror.twin.peerLowAt else some s.unmirror.up,
                                 out := s.unmirror.twin.out ++ [.leaving] }) hu
  generalize s.unmirror.twinChange _ = y at ht hq ⊢
  have ha : y.twin.attachBy = none := by rw [ht]; exact k.attach
  have hs : y.twin.swapAt = none := by rw [ht]; exact k.swap
  have hay : y.attachEnds St.flagged = y := by rw [State.attachEnds, ha]
  have hsy : y.swapEnds = y := by rw [State.swapEnds, hs]
  rw [hay, hsy, ht, hq]
  exact ⟨rfl, rfl⟩

/-! ## A read whose first burst is the sixteenth loss of its channel (13 R434) -/

variable {b : Nat} (h : s.Failing b) (hp : s.twin.pair ≠ .none)
include h hp

/-- The burst fails its pseudo-channel, and a device of a pair leaves it. -/
theorem State.Failing.meetBurst_leaves : ∃ y, s.SameWork y ∧ s.meetBurst b 2 = y.leavePair 7 := by
  have hc := h.pcs _ (h.pcOf_lt b)
  have hl : ((s.burstLost b).pc (s.pcOf b)).failed = false := by rw [State.burstLost_failed, hc]
  have sixteenth : ((s.up :: (s.pc (s.pcOf b)).uncAt).take 16).length = 16 := by rw [hc]; rfl
  have first : ((s.up :: (s.pc (s.pcOf b)).uncAt).take 16).getLastD 0 = 0 := by rw [hc]; rfl
  obtain ⟨y, hy, he⟩ := State.pcFailed_eq hl
  have hsy := (State.burstLost_sameWork b s).trans hy
  refine ⟨y, hsy, ?_⟩
  rw [State.meetBurst_uncorrectable b (by decide), if_pos ⟨sixteenth, by rw [State.burstLost_up, first]; exact h.young⟩, he,
    if_neg (by rwa [hsy.1])]

/-- So does the line that holds it, which is in no cache. -/
theorem State.Failing.useLine_leaves : ∃ y, s.SameWork y ∧ (y.leavePair 7).SameWork (s.useLine (b / 128 * 128) false false).1 := by
  have hmiss : s.cached (b / 128 * 128) = none := by simp [State.cached, h.cache]
  have hev := State.event_sameWork 0x209 (s.sliceAt (b / 128 * 128)) 1 s
  obtain ⟨y, hy, hmeet⟩ := (h.event 0x209 (s.sliceAt (b / 128 * 128)) 1).meetBurst_leaves (by rwa [hev.1])
  refine ⟨y, hev.trans hy, ?_⟩
  rw [← hmeet, State.useLine, hmiss]
  have ht := h.event 0x209 (s.sliceAt (b / 128 * 128)) 1
  generalize s.event 0x209 (s.sliceAt (b / 128 * 128)) 1 = t at ht ⊢
  have hok : (t.pc (t.pcOf (b / 128 * 128))).failed = false := by rw [ht.pcs _ (ht.pcOf_lt _)]
  have hbad : t.badBursts (b / 128 * 128) 128 = [(b, 2)] := by
    have : b / 128 * 128 / 32 * 32 ≤ b ∧ b < b / 128 * 128 + 128 := by omega
    simp [State.badBursts, ht.upset, this]
  simp only [State.loadLine, hok, hbad, Bool.false_and, Bool.false_eq_true, if_false]
  exact State.event_sameWork ..

/-- The rest of the read changes neither the twin nor a queue. -/
theorem State.Failing.hbmRead_leaves (hout : ∀ y, s.SameWork y → (y.leavePair 7).twin.pair = .none) {n : Nat} (hn : 0 < n) :
    ∃ y, s.SameWork y ∧ (y.leavePair 7).SameWork (s.hbmRead b n).2.1 := by
  obtain ⟨ls, hl⟩ : ∃ ls, linesOf b n = b / 128 * 128 :: ls := by
    rw [linesOf, if_neg (by omega), List.range_succ_eq_map, List.map_cons, Nat.add_zero]
    exact ⟨_, rfl⟩
  obtain ⟨y, hy, hline⟩ := h.useLine_leaves hp
  refine ⟨y, hy, ?_⟩
  show (y.leavePair 7).SameWork (s.useLines b false false (linesOf b n)).1
  rw [hl, State.useLines_cons]
  exact hline.trans (State.useLines_sameWork _ _ _ _ (hline.1 ▸ hout y hy))

end

theorem State.devRead_sameWork (kind a b n : Nat) (s : State) :
    (s.hbmRead (hbmDev + 32 * (Config.devPlace kind a b % 0x7000000)) n).2.1.SameWork (s.devRead kind a b n).1 := by
  unfold State.devRead
  dsimp only
  split
  · exact State.setMg_sameWork _ _
  · exact .rfl _

/-- An item of the device region whose first burst is the sixteenth loss of its channel: every queue waits for no mirror afterwards. -/
theorem State.Paired.devRead_queues {s : State} (k : s.Paired) {kind a b n : Nat}
    (h : s.Failing (hbmDev + 32 * (Config.devPlace kind a b % 0x7000000))) (hn : 0 < n) : (s.devRead kind a b n).1.queues = s.unmirror.queues := by
  obtain ⟨y, hy, hread⟩ := h.hbmRead_leaves k.paired (fun y hy => ((k.congr hy).leavePair_unmirrors 7).1) hn
  rw [(State.devRead_sameWork ..).2, hread.2, ((k.congr hy).leavePair_unmirrors 7).2]
  show y.queues.map _ = s.queues.map _
  rw [hy.2]

/-! ## The records of a queue are offered again (10 R337) -/

section
variable {s : State} {q : Nat}

theorem State.closeMerged_unmerged (h : (s.queue q).merged = none) : s.closeMerged q = s := by rw [State.closeMerged, h]

/-- The queue of an ACK whose overflow area is empty. -/
def Queue.acked (upTo : Nat) (v : Queue) : Queue :=
  { v with ring := v.ring.filter (fun r => decide (r.seq > upTo)), overflow := v.overflow.filter (fun r => decide (r.seq > upTo)),
           tags := v.tags.filter (fun e => decide (e.2.1 > upTo)) }

theorem State.acknowledge_again {upTo : Nat} (ho : (s.queue q).overflow = []) :
    s.acknowledge q upTo true = (((s.setQueue q ((s.queue q).acked upTo)).reoffer q).updQueue q
      (fun x => { x with stopped := x.stopped && decide (x.overflow.length ≥ 4096) })).closeMerged q := by
  rw [State.acknowledge, ho]
  simp only [Queue.acked, ho]
  rfl

/-- Another queue than that of an ACK which offers the one record of its queue again is as the read of that record leaves it. -/
theorem State.acknowledge_queue_ne {upTo m : Nat} {r : Record} {a : State} (hm : m ≠ q) (ho : (s.queue q).overflow = [])
    (ha : s.setQueue q ((s.queue q).acked upTo) = a) (hr : ((s.queue q).acked upTo).ring = [r])
    (hu : ((a.readRecord q r).2.queue q).merged = none) : (s.acknowledge q upTo true).queue m = (a.readRecord q r).2.queue m := by
  have hto : ∀ (e : Ep1In) (t : State) (k : Nat), (t.toHost e).queue k = t.queue k := fun e t k => by
    obtain ⟨u, x, h, -⟩ := t.toHost_withPort e
    rw [h]
    rfl
  have hlist : (a.queue q).ring ++ (a.queue q).overflow = [r] := by
    rw [← ha, State.setQueue_queue, hr, Queue.acked, ho]
    rfl
  have hoffer : a.reoffer q = (a.readRecord q r).2.toHost (.completion { (a.readRecord q r).1 with cflags := r.cflags ||| 1 }) := by
    rw [State.reoffer, hlist]
    rfl
  have hmerged : ((((a.readRecord q r).2.toHost (.completion { (a.readRecord q r).1 with cflags := r.cflags ||| 1 })).updQueue q
      (fun x => { x with stopped := x.stopped && decide (x.overflow.length ≥ 4096) })).queue q).merged = none := by
    rw [State.updQueue_eq, State.setQueue_queue, hto]
    exact hu
  rw [State.acknowledge_again ho, ha, hoffer, State.closeMerged_unmerged hmerged, State.updQueue_eq, State.setQueue_queue_ne _ _ _ _ hm, hto]

end

/-! ## The state of the refutation -/

/-- Where the record of the first command of Q0 lies in the device region: the place is not given (log entry 158). -/
def recordPlace : Nat := hbmDev + 32 * (Config.devPlace 1 0 1 % 0x7000000)

/-- The released record of Q0 that waits for its ACK. -/
def releasedRecord : Record := { seq := 1 }

/-- The completion of Q1 that waits for its mirror. -/
def unmirroredDone : Done :=
  { record := { queue := 1, seq := 1 }, commit := 1, mirrored := false, capBytes := 0, tput := false, vals := [] }

/-- An ACTIVE device of a SYNCED pair, in service. Q0 holds one released record, whose place is uncorrectable, the sixteenth burst within 1 s
that its pseudo-channel loses; a completion of Q1 waits for its mirror. -/
def mirroringDev : State :=
  { mg := { dev := .service, inReset := false }
    hbm := { upset := [(recordPlace, 2)], pcs := (List.range 32).map (fun n => (n, { mapped := true, uncAt := List.replicate 15 0 })) }
    twin := { role := .active, pair := .synced, applied := 1, commitIx := 1 }
    queues := [(0, { Queue.reset 0 with nextSeq := 2, released := 1, ring := [releasedRecord] }),
               (1, { Queue.reset 1 with enabled := true, nextSeq := 2, reorder := [unmirroredDone] })] }

/-- An ACK on Q0 of nothing, that asks for the records again. -/
def askAgainHdr : Header :=
  { flags := 0, queue := 0, payloadLen := 0, tag := 7, cones := 0, dlSec := 0, dlNs := 0, rsvd := 0, w0 := 0, w1 := 1, w2 := 0, w3 := 0 }

def askAgain : Packet := packet 0x0001 askAgainHdr []

theorem mirroringDev_takes : mirroringDev.Takes askAgain where
  running := by decide +kernel
  alone := by decide +kernel
  header := by decide +kernel
  fresh := by decide +kernel
  allowed := by decide +kernel
  own := by decide +kernel

/-- The state that reads the record: nothing is acknowledged, and only the reply has been given. -/
def mirroringDev.asked : State := mirroringDev.setQueue 0 ((mirroringDev.queue 0).acked 0)

theorem mirroringDev.asked_failing (u : Usb) (w : Witness) (e : Tbl Counter) : (mirroringDev.asked.withPort u w e).Failing recordPlace where
  upset := by rfl
  cache := by rfl
  pcs := by
    have h : ∀ n < 32, mirroringDev.pc n = { mapped := true, uncAt := List.replicate 15 0 } := by decide +kernel
    exact h
  young := by
    have h : mirroringDev.up ≤ 1000000000 := by decide +kernel
    exact h

theorem mirroringDev.asked_paired (u : Usb) (w : Witness) (e : Tbl Counter) : (mirroringDev.asked.withPort u w e).Paired where
  role := rfl
  paired := nofun
  attach := rfl
  swap := rfl

/-- The read of the record leaves the queues as the loss of the peer leaves them. -/
theorem mirroringDev.asked_readRecord (u : Usb) (w : Witness) (e : Tbl Counter) :
    ((mirroringDev.asked.withPort u w e).readRecord 0 releasedRecord).2.queues = mirroringDev.asked.unmirror.queues :=
  (asked_paired u w e).devRead_queues (asked_failing u w e) (by decide)

/-- After the ACK the completion of Q1 waits for no mirror. -/
theorem mirroringDev_acked : ((mirroringDev.submit askAgain).queue 1).reorder = [{ unmirroredDone with mirrored := true }] := by
  obtain ⟨w, e, hr⟩ := mirroringDev.received_withPort askAgain
  obtain ⟨e', he⟩ := (mirroringDev.received askAgain).event_withPort 0x1C0 0 1
  obtain ⟨u, w', e'', hp, -⟩ := ((mirroringDev.received askAgain).event 0x1C0 0 1).reply_withPort askAgain Code.accepted 0 0 mirroringDev.now
  have hring : ((mirroringDev.queue 0).acked 0).ring = [releasedRecord] := by decide +kernel
  have hs : mirroringDev.submit askAgain = (mirroringDev.withPort u w' e'').acknowledge 0 0 true := by
    rw [mirroringDev_takes.submit_ack rfl, hp, he, hr]
    rfl
  have hq := mirroringDev.asked_readRecord u w' e''
  have hread : ∀ q, ((mirroringDev.asked.withPort u w' e'').readRecord 0 releasedRecord).2.queue q = mirroringDev.asked.unmirror.queue q :=
    fun q => congrArg (Tbl.get (Queue.reset q) q) hq
  have hmerged : (((mirroringDev.asked.withPort u w' e'').readRecord 0 releasedRecord).2.queue 0).merged = none := by
    rw [hread, State.unmirror_merged]
    decide +kernel
  rw [hs, State.acknowledge_queue_ne (s := mirroringDev.withPort u w' e'') (a := mirroringDev.asked.withPort u w' e'') (by decide) rfl rfl
    hring hmerged, hread]
  decide +kernel

end Sys2Proof.Machine

open Sys2Proof Sys2Proof.Machine

/-- Refutes O28: its clause on ACK leaves every other queue as it was. An ACK that asks for the released records again reads them back (10 R337);
on `mirroringDev` that read fails its pseudo-channel, the device leaves its pair, and the completion of Q1 waits for its mirror no more. The
statement ranges over every state, and no run is shown to reach this one. -/
theorem not_queueAndModeCommands : ¬ Obligations.QueueAndModeCommands := by
  unfold Obligations.QueueAndModeCommands
  intro hall
  obtain ⟨hack, -⟩ := hall mirroringDev askAgainHdr []
  obtain ⟨t, ht, -, -, -, -, -, hothers⟩ := hack mirroringDev_takes
  have hsub : exec (.ack askAgainHdr []) mirroringDev = .next (mirroringDev.submit askAgain) :=
    exec_of_packet (i := .ack askAgainHdr []) rfl trivial mirroringDev
  have hkept : (mirroringDev.submit askAgain).queue 1 = mirroringDev.queue 1 := by
    rw [← Host.Outcome.next.inj (ht.symm.trans hsub)]
    exact hothers 1 (by decide)
  have hwait : (mirroringDev.queue 1).reorder = [unmirroredDone] := by decide +kernel
  rw [← hkept, mirroringDev_acked] at hwait
  exact absurd hwait (by decide)
end


section
/-!
SUPPORT. What a journal entry and an alert change, whatever they are about (10 R346; 14 R487), and what a change of the twin's state leaves of the
queues, whatever the role (14 R452).
-/

set_option Elab.async false

namespace Sys2Proof.Machine

open Sys2Proof

section
variable (s : State)

theorem State.digest128_eq (x : Option (List Byte)) : ∃ f, (s.digest128 x).2 = { s with freeIx := f } := by
  cases x with
  | some b => exact ⟨s.freeIx, rfl⟩
  | none => exact ⟨_, rfl⟩

/-- A journal entry changes free values, the journal and event counters. -/
theorem State.journalNow_eq (c : Cause) (target : W64) (before after : Option (List Byte)) :
    ∃ f m e, s.journalNow c target before after = { s with freeIx := f, mg := m, evc := e } := by
  obtain ⟨f, hb⟩ := s.digest128_eq before
  obtain ⟨f', ha⟩ := State.digest128_eq { s with freeIx := f } after
  unfold State.journalNow State.journalAt
  dsimp only
  rw [hb, ha]
  obtain ⟨e, he⟩ := State.event_eq 0x2C5 0 1 (State.setMg _ { s with freeIx := f' })
  rw [he]
  exact ⟨f', _, e, rfl⟩

/-- An alert that rises changes the device's management and the USB port, which wakes the host. -/
theorem State.raiseAlert_eq (a : Alert) : ∃ u m, s.raiseAlert a = { s with usb := u, mg := m } := by
  obtain ⟨m, hm⟩ : ∃ m, s.alert a = { s with mg := m } := by
    unfold State.alert
    split
    · exact ⟨s.mg, rfl⟩
    · exact ⟨_, rfl⟩
  unfold State.raiseAlert State.signalWake
  rw [hm]
  split
  · split
    · exact ⟨_, m, rfl⟩
    · exact ⟨s.usb, m, rfl⟩
  · exact ⟨s.usb, m, rfl⟩

theorem State.resumeMode_sameWork : s.SameWork s.resumeMode := by
  unfold State.resumeMode
  dsimp only
  split
  · exact ⟨rfl, rfl⟩
  · refine State.SameWork.trans (t := State.journalDev 0x40 1 _) ?_ (State.witness_sameWork ..)
    obtain ⟨f, m, e, h⟩ := State.journalNow_eq (s.setTb _) byDevice (objTarget 0x40 1) none none
    rw [State.journalDev, h]
    exact ⟨rfl, rfl⟩

/-- A device that is STANDBY no more takes its new twin state, but for a message to the peer, and no queue is touched. -/
theorem State.twinChange_leaves {v : Twin} (hr : s.twin.role = .standby) (hv : v.role ≠ .standby) :
    ∃ o, (s.setTwin { v with out := o }).SameWork (s.twinChange v) := by
  obtain ⟨o, ho⟩ : ∃ o, (if v.pair = s.twin.pair then v else { v with out := v.out ++ [.pairState v.pair] }) = { v with out := o } := by
    split
    · exact ⟨v.out, rfl⟩
    · exact ⟨_, rfl⟩
  have hne : v.role ≠ s.twin.role := hr ▸ hv
  refine ⟨o, ?_⟩
  rw [State.twinChange, if_neg (fun h => hne h.1), ho]
  dsimp only
  rw [if_neg hne, if_pos ⟨hr, hv⟩]
  exact ((State.journalNow_sameWork ..).trans (State.witness_sameWork ..)).trans (State.resumeMode_sameWork _)

end

end Sys2Proof.Machine
end


section
/-!
PROOFS. SELF_TEST on a STANDBY device whose entry reads only from the peer (14 R480, R481): the read of its own copy can make the device leave its
pair (13 R434; 14 R479), so that the test begins on a SOLO device.
-/

set_option Elab.async false

namespace Sys2Proof.Machine

open Sys2Proof

/-! ## A STANDBY device leaves its pair (14 R479) -/

/-- With no ATTACH and no ROLE_SWAP under way it is SOLO, and in no pair. -/
theorem State.leavePair_solo {s : State} (hr : s.twin.role = .standby) (hp : s.twin.pair ≠ .none) (ha : s.twin.attachBy = none)
    (hs : s.twin.swapAt = none) (reason : BitVec 4) : (s.leavePair reason).twin.role = .solo ∧ (s.leavePair reason).twin.pair = .none := by
  have hforget : s.unmirror.forgetWork.twin = s.unmirror.twin := by
    unfold State.forgetWork
    split <;> rfl
  have hur : s.unmirror.forgetWork.twin.role = .standby := (congrArg Twin.role hforget).trans hr
  have hua : s.unmirror.forgetWork.twin.attachBy = none := (congrArg Twin.attachBy hforget).trans ha
  have hus : s.unmirror.forgetWork.twin.swapAt = none := (congrArg Twin.swapAt hforget).trans hs
  rw [State.leavePair, if_neg hp]
  generalize s.unmirror.forgetWork = u at hur hua hus ⊢
  dsimp only
  obtain ⟨o, ht, -⟩ := u.twinChange_leaves
    (v := { u.twin with leaveReason := reason, role := .solo, pair := .none, active := false,
                        peerLowAt := if u.twin.peerActive then u.twin.peerLowAt else some u.up, out := u.twin.out ++ [.leaving] }) hur nofun
  generalize u.twinChange _ = y at ht ⊢
  have hya : y.twin.attachBy = none := by rw [ht]; exact hua
  have hys : y.twin.swapAt = none := by rw [ht]; exact hus
  have hends : (y.attachEnds St.flagged).swapEnds = y := by simp only [State.attachEnds, hya, State.swapEnds, hys]
  rw [hends, ht]
  exact ⟨rfl, rfl⟩

/-! ## SELF_TEST (14 R481) -/

theorem exec_selfTest {s : State} {h : Header} {pl : List Byte} (hb : s.Begins (packet 0x0020 h pl)) :
    exec (.selfTest h pl) s = .next ((s.begun (packet 0x0020 h pl)).selfTest (s.outOf (packet 0x0020 h pl))) := by
  have hop : (s.outOf (packet 0x0020 h pl)).pkt.op = 0x20 := State.outOf_op _ _
  have hr : s.submit (packet 0x0020 h pl) = _ := hb.submit_eq (by simp) (by simp [Packet.isData])
  show Host.Outcome.next (s.submit (packet 0x0020 h pl)) = _
  rw [hr]
  simp only [State.runOp, hop]

/-- The test of a block that is no tile leaves the twin of a device that is not STANDBY. -/
theorem State.selfTest_twin {o : Outst} {u : State} (hd : ¬ o.pkt.hdr.w0.toNat < 68) (hr : u.twin.role ≠ .standby) :
    (u.selfTest o).twin = u.twin := by
  unfold State.selfTest
  dsimp only
  rw [if_neg hd, if_neg fun h => hr h.1]
  rfl

/-! ## The state of the refutation -/

/-- SELF_TEST of domain 102 on Q0, with tag 7. -/
def testPacket : Packet :=
  packet 0x0020 { flags := 0, queue := 0, payloadLen := 0, tag := 7, cones := 0, dlSec := 0, dlNs := 0, rsvd := 0, w0 := 102, w1 := 0, w2 := 0, w3 := 0 } []

/-- The STANDBY device of a SYNCED pair, in service. The place of the entry that Q0 takes next is uncorrectable, the sixteenth burst within 1 s
that its pseudo-channel loses. -/
def testingDev : State :=
  { mg := { dev := .service, inReset := false }
    hbm := { upset := [(entryPlace, 2)], pcs := (List.range 32).map (fun n => (n, { mapped := true, uncAt := List.replicate 15 0 })) }
    twin := { role := .standby, pair := .synced } }

theorem testingDev_begins : testingDev.Begins testPacket where
  running := by decide +kernel
  alone := by decide +kernel
  header := by decide +kernel
  fresh := by decide +kernel
  allowed := by decide +kernel
  own := by decide +kernel
  named := by decide +kernel
  ready := by decide +kernel
  readable := by rfl

/-- As its entry is read, the device leaves its pair. -/
theorem testingDev_begun : (testingDev.begun testPacket).twin.role = .solo ∧ (testingDev.begun testPacket).twin.pair = .none := by
  have failing : (testingDev.accepting testPacket).2.1.Failing entryPlace :=
    { upset := by rfl, cache := by rfl, pcs := by decide +kernel, young := by decide +kernel }
  have standby : (testingDev.accepting testPacket).2.1.twin = testingDev.twin := by rfl
  have leaves : ∀ y, (testingDev.accepting testPacket).2.1.SameWork y → (y.leavePair 7).twin.role = .solo ∧ (y.leavePair 7).twin.pair = .none := by
    intro y hy
    have ht : y.twin = testingDev.twin := hy.1.trans standby
    exact State.leavePair_solo (by rw [ht]; rfl) (by rw [ht]; decide) (by rw [ht]; rfl) (by rw [ht]; rfl) 7
  obtain ⟨y, hy, hread⟩ := failing.hbmRead_leaves (by rw [standby]; decide) (fun y hy => (leaves y hy).2) (n := 64) (by decide)
  have hbegun : (y.leavePair 7).SameWork (testingDev.begun testPacket) := hread.trans (State.devRead_sameWork 5 0 1 64 _)
  rw [hbegun.1]
  exact leaves y hy

end Sys2Proof.Machine

open Sys2Proof Sys2Proof.Machine

/-- Refutes O31: its clause on SELF_TEST takes a STANDBY device of a SYNCED pair into CATCHUP. On `testingDev` the entry of the command reads only
from the peer, and the read of the device's own copy fails a pseudo-channel (13 R434), so that the device leaves its pair before the test begins:
it is then SOLO, and in no pair. The statement ranges over every state, and no run is shown to reach this one. -/
theorem not_blockAndPairCommands : ¬ Obligations.BlockAndPairCommands := by
  unfold Obligations.BlockAndPairCommands
  intro hall
  obtain ⟨-, hself, -⟩ := hall testingDev testPacket.hdr []
  obtain ⟨t, ht, -, -, hcatchup⟩ := hself testingDev_begins
  obtain ⟨hrole, hpair⟩ := testingDev_begun
  have htest : t = (testingDev.begun testPacket).selfTest (testingDev.outOf testPacket) :=
    Host.Outcome.next.inj (ht.symm.trans (exec_selfTest testingDev_begins))
  have htwin : t.twin = (testingDev.begun testPacket).twin := by
    rw [htest]
    exact State.selfTest_twin (by decide) (by rw [hrole]; decide)
  have hnone : t.twin.pair = .none := by rw [htwin, hpair]
  have hstated : t.twin.pair = .catchup := hcatchup rfl rfl
  exact absurd (hnone.symm.trans hstated) (by decide)
end


section
/-!
PROOFS. The work of the data plane as it begins: jobs on demand, DATA_PUT, DATA_GET and HEARTH_PIN (10 R341; 11 R353, R357; 13 R431, R439;
14 R465).
-/

set_option Elab.async false

namespace Sys2Proof.Machine

open Sys2Proof

/-! ## From the acceptance to the effect (14 R465) -/

theorem Packet.isData_of_isJob {p : Packet} (hj : p.isJob = true) : p.isData = true := by
  have h : 0x2001 ≤ p.op ∧ p.op ≤ 0x2006 := of_decide_eq_true hj
  exact decide_eq_true (by omega)

@[simp] theorem State.outOf_isJob (p : Packet) (s : State) : (s.outOf p).pkt.isJob = p.isJob := by
  rw [Packet.isJob, State.outOf_op, Packet.isJob]

/-- What a command of the data plane does, once its entry and its captured inputs have been read. -/
def State.dataEffect (o : Outst) (a : Nat) (s : State) : State :=
  if o.pkt.isJob then s.queueJob o a
  else if o.pkt.op = 0x3001 then s.runPut o
  else if o.pkt.op = 0x3002 then s.runGet o
  else s.runPin o

theorem State.dataRun_standby {s : State} (h : s.twin.role = .standby) (o : Outst) (a : Nat) : s.dataRun o a = s := if_pos h

theorem State.dataRun_readable {s : State} (h : s.twin.role ≠ .standby) {o : Outst} (hr : (s.readEntry o).2 = none) (a : Nat) :
    s.dataRun o a = (s.readEntry o).1.dataEffect o a := by
  rw [State.dataRun, if_neg h, State.withCaptured, hr]
  rfl

/-- A command of the data plane has its effect on the state in which it begins, but on a STANDBY device. -/
theorem State.Begins.submit_data {s : State} {p : Packet} (h : s.Begins p) (hd : p.isData = true) (hr : s.twin.role ≠ .standby) :
    s.submit p = (s.begun p).dataEffect (s.outOf p) s.now := by
  have hop : 0x2000 ≤ p.op ∧ p.op < 0x4000 := of_decide_eq_true hd
  have hi : (s.outOf p).pkt.isData = true := by rwa [Packet.isData, State.outOf_op]
  rw [h.toStarts.submit_eq (by omega), State.run, hi, if_pos rfl, State.dataRun_readable (s.accepting_role p hr) h.readable]
  rfl

/-- A STANDBY device holds its part of the work (14 R465). -/
theorem State.begin_standby {s : State} {o : Outst} (hr : s.twin.role = .standby) (hn : s.deferred o = none) (hd : o.pkt.isData = true) (a : Nat) :
    s.begin_ o a = s := by
  rw [State.begin_, hn]
  dsimp only
  rw [State.run, hd, if_pos rfl, State.dataRun_standby hr]

/-! ## Jobs on demand (11 R353, R357; 13 R431) -/

/-- The job of the command `p`, with what admission reserved for it at its arrival. -/
def State.admittedJob (p : Packet) (s : State) : Job :=
  let j := (s.begun p).jobOf (s.outOf p)
  match ((s.received p).jobAdmission p s.now).join with
  | some b => { j with pin := some b.1, startAt := b.2.1, finishAt := b.2.2 }
  | none => j

def State.enlist (j : Job) (s : State) : State := s.setKiln { s.kiln with ready := s.kiln.ready ++ [j] }

section
variable {s : State} {p : Packet} (hj : p.isJob = true)
include hj

theorem State.outOf_pin : (s.outOf p).pin = ((s.received p).jobAdmission p s.now).join := by
  show (s.received p).pinOf p (s.received p).now = _
  rw [State.pinOf, if_pos hj, State.received_now]

theorem State.Begins.submit_job (h : s.Begins p) (hr : s.twin.role ≠ .standby) : s.submit p = (s.begun p).enlist (s.admittedJob p) := by
  have hrerun : (s.outOf p).rerun = false := rfl
  rw [h.submit_data (Packet.isData_of_isJob hj) hr, State.dataEffect, State.outOf_isJob, if_pos hj, State.queueJob, hrerun]
  simp only [Bool.false_eq_true, if_false, State.outOf_pin hj]
  rfl

/-- A job whose inputs cannot be read ends, with an extension of zeros where it asks for its provenance. -/
theorem State.Takes.submit_job_lost (h : s.Takes p) {x : W64} (hx : (s.accepting p).2.2 = some x) :
    s.submit p = (s.accepting p).2.1.complete p.q (s.queue p.q).nextSeq
      { status := St.dataError, location := x, ext := if bit p.hdr.flags 0 then zeros 64 else [] } { tput := (s.outOf p).tput } := by
  have hop : 0x2001 ≤ p.op ∧ p.op ≤ 0x2006 := of_decide_eq_true hj
  have hext : (0x2001 ≤ p.op ∧ p.op ≤ 0x2006 ∧ bit p.hdr.flags 0 = true) ↔ bit p.hdr.flags 0 = true :=
    ⟨fun hp => hp.2.2, fun hb => ⟨hop.1, hop.2, hb⟩⟩
  rw [h.submit_lost (by omega) hx, State.inputLost_outOf, if_congr hext rfl rfl]

/-- Both ways in which a job on demand can go. -/
theorem exec_job {i : Instr} (hp : i.packet = some p) (hi : i.wf) :
    (s.twin.role ≠ .standby → s.Begins p → exec i s = .next ((s.begun p).enlist (s.admittedJob p))) ∧
    (∀ x, s.Takes p → (s.accepting p).2.2 = some x →
      exec i s = s.ends p { status := St.dataError, location := x, ext := if bit p.hdr.flags 0 then zeros 64 else [] }
        { tput := (s.outOf p).tput } (s.accepting p).2.1) := by
  rw [exec_of_packet hp hi]
  exact ⟨fun hr hb => congrArg _ (hb.submit_job hj hr), fun x ht hx => congrArg _ (ht.submit_job_lost hj hx)⟩

end

/-- A solver's acceptance reads its problem data (10 R321, R344). -/
theorem State.acceptReads_solve {s : State} {p : Packet} (h : p.isSolve = true) :
    (fld p.hdr.w1 0 40, inputBytes p.op (dimsOf p.hdr.w0) (settingsOf (s.settingsBytes p)).blobEn) ∈ s.acceptReads p := by
  rw [State.acceptReads, State.inputRanges, if_pos h]
  exact List.mem_append_right _ (List.mem_append_right _ (List.mem_singleton_self _))

/-- The acceptance of a job with an image of its own reads the range of its input words. -/
theorem State.acceptReads_image {s : State} {p : Packet} (h : p.isImage = true) : (fld p.hdr.w1 0 40, fld p.hdr.w1 40 24) ∈ s.acceptReads p := by
  have hop : 0x2004 ≤ p.op ∧ p.op ≤ 0x2006 := of_decide_eq_true h
  have hs : ¬ p.isSolve = true := fun hs => by
    have : 0x2001 ≤ p.op ∧ p.op ≤ 0x2003 := of_decide_eq_true hs
    omega
  rw [State.acceptReads, State.inputRanges, if_neg hs, if_pos h]
  exact List.mem_append_right _ (List.mem_singleton_self _)

/-! ## DATA_PUT, DATA_GET and HEARTH_PIN as they begin (10 R341) -/

section
variable {s : State} {i : Instr} {p : Packet} (hp : i.packet = some p) (hi : i.wf) (hr : s.twin.role ≠ .standby) (hb : s.Begins p)
include hp hi hr hb

/-- What a command of the data plane that is no job does. -/
theorem exec_move (hop : 0x3000 ≤ p.op ∧ p.op < 0x4000) : exec i s = .next (
    if p.op = 0x3001 then (s.begun p).runPut (s.outOf p)
    else if p.op = 0x3002 then (s.begun p).runGet (s.outOf p)
    else (s.begun p).runPin (s.outOf p)) := by
  have hj : p.isJob = false := decide_eq_false (by omega)
  rw [exec_of_packet hp hi, hb.submit_data (decide_eq_true (by omega)) hr, State.dataEffect, State.outOf_isJob, hj, State.outOf_op]
  rfl

theorem exec_put (hop : p.op = 0x3001) : exec i s = .next ((s.begun p).runPut (s.outOf p)) := by
  rw [exec_move hp hi hr hb (by omega), if_pos hop]

theorem exec_get (hop : p.op = 0x3002) : exec i s = .next ((s.begun p).runGet (s.outOf p)) := by
  rw [exec_move hp hi hr hb (by omega), if_neg (by omega), if_pos hop]

theorem exec_pin (hop : p.op = 0x3003) : exec i s = .next ((s.begun p).runPin (s.outOf p)) := by
  rw [exec_move hp hi hr hb (by omega), if_neg (by omega), if_neg (by omega)]

end

/-! ## DATA_PUT (10 R319, R341) -/

/-- The bytes of a put come with it, or lie where its descriptor names them. -/
theorem State.captureOf_put {s : State} {p : Packet} (hop : p.op = 0x3001) :
    s.captureOf p = if p.desc then s.hbmBytes p.descAddr p.descLen else p.put := by
  have hby : p.byDesc = p.desc := by simp [Packet.byDesc, Packet.takesData, hop]
  have hs : p.isSolve = false := by simp [Packet.isSolve, hop]
  have him : p.isImage = false := by simp [Packet.isImage, hop]
  rw [State.captureOf, hby, State.inputRanges, hs, him, hby]
  cases p.desc <;> simp [hop]

section
variable {s : State} {p : Packet} {u t : State}

theorem State.runPut_stored (h : u.hbmWrite (fld p.hdr.w0 0 40) (s.outOf p).captured = (t, none)) :
    .next (u.runPut (s.outOf p)) = s.ends p { } { kind := 1, payload := rangeEffect (fld p.hdr.w0 0 40) (s.outOf p).captured } t := by
  simp only [State.runPut, State.ends, State.outOf_w0, State.outOf_q, State.outOf_seq, h]

theorem State.runPut_lost {x : Nat} (h : u.hbmWrite (fld p.hdr.w0 0 40) (s.outOf p).captured = (t, some x)) :
    .next (u.runPut (s.outOf p)) = s.ends p { status := St.dataError, location := locHbm x } { } t := by
  simp only [State.runPut, State.ends, State.outOf_w0, State.outOf_q, State.outOf_seq, h]

end

/-! ## HEARTH_PIN (13 R439) -/

section
variable {o : Outst} {u : State}

theorem State.runPin_pin (h : o.pkt.hdr.w2 = 1) : u.runPin o = u.setHbm { u.hbm with
    pins := u.hbm.pins ++ [{ queue := o.pkt.q, seq := o.seq, lines := u.lines (fld o.pkt.hdr.w0 0 40) o.pkt.hdr.w1.toNat }] } := if_pos h

/-- The pinned lines among `ls` are written back and released. -/
def State.releaseLines (ls : List Nat) (u : State) : State :=
  let c := u.cleanLines (ls.filter (fun m => u.hbm.pinned.contains m))
  c.setHbm { c.hbm with pinned := c.hbm.pinned.filter (fun m => !ls.contains m) }

theorem State.runPin_unpin (h : o.pkt.hdr.w2 = 0) :
    let ls := u.lines (fld o.pkt.hdr.w0 0 40) o.pkt.hdr.w1.toNat
    let t := u.releaseLines ls
    u.runPin o = (if u.hbm.pinned.any (fun m => ls.contains m) then
      t.journalNow (t.causeOf o.pkt.q o.seq) (objTarget 0x30 (ls.headD 0)) none none else t).complete o.pkt.q o.seq { } { } :=
  if_neg (by rw [h]; decide)

end

end Sys2Proof.Machine

open Sys2Proof Sys2Proof.Machine

/-- Settles O33: each job enters the ready list as it was admitted, and each other command of the data plane has its own effect. -/
theorem workCommands : Obligations.WorkCommands := by
  unfold Obligations.WorkCommands
  intro s h pl d
  refine ⟨⟨exec_job rfl rfl trivial, State.acceptReads_solve rfl⟩, ⟨exec_job rfl rfl trivial, State.acceptReads_solve rfl⟩,
    ⟨exec_job rfl rfl trivial, State.acceptReads_solve rfl⟩, ⟨exec_job rfl rfl trivial, State.acceptReads_image rfl⟩,
    ⟨exec_job rfl rfl trivial, State.acceptReads_image rfl⟩, ⟨exec_job rfl rfl trivial, State.acceptReads_image rfl⟩,
    fun o a hr hn h1 h2 => State.begin_standby hr hn (decide_eq_true ⟨h1, h2⟩) a, fun hr hb => ⟨fun hd => ?inline, fun hd => ?named, ?put⟩,
    fun hr hb => ?get, fun hr hb => ⟨fun hw => ?pin, fun hw => ?unpin⟩⟩
  case inline =>
    show State.captureOf _ _ = d
    rw [State.captureOf_put rfl, hd]
    rfl
  case named =>
    show State.captureOf _ _ = _
    rw [State.captureOf_put rfl, hd]
    rfl
  case put =>
    rw [exec_put (i := .dataPut h pl d) rfl trivial hr hb rfl]
    split
    · rename_i hw
      exact State.runPut_stored hw
    · rename_i hw
      exact State.runPut_lost hw
  case get =>
    rw [exec_get (i := .dataGet h pl) rfl trivial hr hb rfl, State.runGet, State.outOf_w0, State.outOf_w1, State.outOf_w2, State.outOf_q, State.outOf_seq]
    rfl
  case pin =>
    rw [exec_pin (i := .hearthPin h pl) rfl trivial hr hb rfl, State.runPin_pin ((State.outOf_w2 _ _).trans hw), State.outOf_w0,
      State.outOf_w1, State.outOf_q, State.outOf_seq]
    rfl
  case unpin =>
    rw [exec_pin (i := .hearthPin h pl) rfl trivial hr hb rfl, State.runPin_unpin ((State.outOf_w2 _ _).trans hw), State.outOf_w0,
      State.outOf_w1, State.outOf_q, State.outOf_seq]
    rfl
end


section
/-!
PROOFS. The dispatch of the ready list, and the refill tick (01 R17, R29; 11 R353 to R370; 14 R463).
-/

set_option Elab.async false

namespace Sys2Proof.Machine

open Sys2Proof

/-! ## Where an entry of the ready list can go (11 R356, R359, R360, R365) -/

/-- A fold that keeps what it holds or takes the next element ends with an element, or with what it held. -/
theorem foldl_choice {α : Type} {f : Option α → α → Option α} (hf : ∀ m x y, f m x = some y → y = x ∨ m = some y) {xs : List α}
    {m : Option α} {y : α} (h : xs.foldl f m = some y) : y ∈ xs ∨ m = some y := by
  induction xs generalizing m with
  | nil => exact .inr h
  | cons x xs ih =>
    rcases ih h with hy | hy
    · exact .inl (List.mem_cons_of_mem x hy)
    · exact (hf m x y hy).imp (fun hx => List.mem_cons.mpr (.inl hx)) id

section
variable {s : State}

/-- The tile that is preferred is one of those that the test admits. -/
theorem State.prefer_admits {ok : Nat → Bool} {j : Job} {p : Nat} (h : s.prefer ok j = some p) : ok p = true := by
  have hmem : p ∈ s.mapped.filter ok ∨ (none : Option Nat) = some p := by
    refine foldl_choice (fun m x y hy => ?_) h
    cases m with
    | none => exact .inl (Option.some.inj hy).symm
    | some b =>
      dsimp only at hy
      split at hy
      · exact .inl (Option.some.inj hy).symm
      · exact .inr hy
  exact (List.mem_filter.mp (hmem.resolve_right nofun)).2

theorem State.startable_iff {p : Nat} {im : Image} : s.startable p im = true ↔ s.eligible p im = true ∧ (s.tile p).executing = false := by
  rw [State.startable, Bool.and_eq_true, Bool.not_eq_true']

/-- A swapped-out context goes to a tile that can host it. -/
theorem State.place_swapped {j : Job} {p : Nat} {e : Swapped} (he : s.swappedOf j = some e) (h : s.place j = some p) : s.canHost p e = true := by
  rw [State.place, he] at h
  exact State.prefer_admits h

/-- A job that has not started goes to the tile to which it is pinned, or to one that its cones and its budget admit. -/
theorem State.place_waiting {j : Job} {p : Nat} (hn : s.swappedOf j = none) (h : s.place j = some p) :
    (s.queue j.queue).stopped = false ∧ s.startable p j.image = true ∧
      (j.pin = some p ∨ (j.pin = none ∧ s.conesOk j = true ∧ s.fitsBefore p j = true)) := by
  rw [State.place, hn] at h
  dsimp only at h
  split at h
  · cases h
  · rename_i hstop
    refine ⟨Bool.eq_false_iff.mpr hstop, ?_⟩
    cases hpin : j.pin with
    | some q =>
      rw [hpin] at h
      dsimp only at h
      split at h
      · rename_i hstart
        cases h
        exact ⟨hstart, .inl rfl⟩
      · cases h
    | none =>
      rw [hpin] at h
      dsimp only at h
      split at h
      · rename_i hcones
        have hfit := State.prefer_admits h
        rw [Bool.and_eq_true] at hfit
        exact ⟨hfit.1, .inr ⟨rfl, hcones, hfit.2⟩⟩
      · cases h

/-- An entry that is picked stands in the list, and its tile is where it can go. -/
theorem State.pick_some {l : List Job} {a b : Bool} {j : Job} {p : Nat} (h : State.pick a b l s = some (j, p)) : j ∈ l ∧ s.place j = some p := by
  induction l generalizing a b with
  | nil => cases h
  | cons k ks ih =>
    have later : ∀ {a b : Bool}, State.pick a b ks s = some (j, p) → j ∈ k :: ks ∧ s.place j = some p := fun hk =>
      ⟨List.mem_cons_of_mem k (ih hk).1, (ih hk).2⟩
    rw [State.pick] at h
    split at h
    · exact later h
    · cases hk : s.place k with
      | some q =>
        rw [hk] at h
        cases h
        exact ⟨List.mem_cons_self, hk⟩
      | none =>
        rw [hk] at h
        exact later h

/-! ## JOB_DISPATCH (11 R353, R359, R375; 14 R463) -/

/-- The head of the ready list, and the marks of jobs that wait for cones, are all that is noted. -/
theorem State.noteHead_eq (s : State) : ∃ h r, s.noteHead = s.setKiln { s.kiln with headSince := h, ready := r } := by
  unfold State.noteHead
  split
  · exact ⟨none, s.kiln.ready, rfl⟩
  · exact ⟨_, _, rfl⟩

theorem State.noteHead_noDispatch (s : State) : s.noteHead.noDispatch = s.noDispatch := by
  obtain ⟨h, r, he⟩ := s.noteHead_eq
  rw [he]
  rfl

theorem State.noDispatch_iff : s.noDispatch = true ↔ s.kiln.critical = true ∨ s.twin.role = .standby ∨ s.twin.swapAt.isSome = true := by
  rw [State.noDispatch, Bool.or_eq_true, Bool.or_eq_true, decide_eq_true_eq, or_assoc]

theorem State.jobDispatch_idle (h : s.noDispatch = true) : s.jobDispatch = s.noteHead := by
  rw [State.jobDispatch]
  exact if_pos (s.noteHead_noDispatch.trans h)

theorem State.jobDispatch_eq (h : s.noDispatch = false) : s.jobDispatch =
    match State.pick true false s.noteHead.readyList s.noteHead with
    | some (j, p) => (s.noteHead.start j p).noteHead
    | none => s.noteHead := by
  rw [State.jobDispatch]
  exact if_neg (by rw [s.noteHead_noDispatch, h]; decide)

/-! ## A dispatch (05 R182; 11 R370) -/

/-- The job `j` on its way to slot `w` of tile `p`, before its image is placed: its cones are deducted, and its context stands in the slot. -/
def State.dispatched (w : Nat) (j : Job) (p : Nat) (u : State) : State :=
  let v := u.setKiln { u.kiln with level := u.kiln.level - 1000 * (j.cones : Int), ready := u.kiln.ready.erase j }
  let j' := { j with throttled := j.throttled || decide ((v.tile p).clkStep ≠ 0) }
  let c := { (Ctx.fresh j' j'.pkt.words j'.pkt.hdr.w3) with charged := 1000 * j.cones, coils := (v.tile p).restOf j.image }
  ((v.readyTile p).updTile p (fun t =>
    { (t.setSlot w (some (if j.builtin then c.begin_ (u.now + 120) (u.up + 120) else c))) with
      exec1 := decide (w = 1), restCoils := t.restCoils.filter (fun e => !e.1.same j.image) })).event 0x1C3 0 1

theorem State.dispatch_eq {u : State} {j : Job} {p w : Nat} (hw : (u.tile p).freeSlot = some w) :
    u.dispatch j p = match (u.dispatched w j p).placeImage p j.image with
      | (x, .ok) => x
      | (x, .bad loc) => x.failLoad p w loc := by
  have h : u.dispatch j p = match ((u.dispatched w j p).placeImage p j.image).2 with
      | .ok => ((u.dispatched w j p).placeImage p j.image).1
      | .bad loc => ((u.dispatched w j p).placeImage p j.image).1.failLoad p w loc := by
    rw [State.dispatch, hw]
    rfl
  rw [h]
  rcases (u.dispatched w j p).placeImage p j.image with ⟨x, _ | loc⟩ <;> rfl

/-! ## The refill tick (01 R17; 11 R369) -/

/-- Cap and depth that the next refill tick puts in force. -/
def State.nextCap (s : State) : W32 := match s.kiln.newBudget with
  | some b => b.1
  | none => s.kiln.capMw

def State.nextDepth (s : State) : W32 := match s.kiln.newBudget with
  | some b => b.2.1
  | none => s.kiln.depth

/-- A new budget is journaled where it differs, and nothing but the budget in force changes in the kiln. -/
theorem State.newBudget_eq (s : State) : ∃ f m e, s.newBudget =
    { s with kiln := { s.kiln with capMw := s.nextCap, depth := s.nextDepth, newBudget := none }, freeIx := f, mg := m, evc := e } := by
  unfold State.newBudget State.nextCap State.nextDepth
  cases hb : s.kiln.newBudget with
  | none =>
    have hk : s.kiln = { s.kiln with newBudget := none } := by rw [← hb]
    exact ⟨s.freeIx, s.mg, s.evc, congrArg (fun k => { s with kiln := k }) hk⟩
  | some b =>
    dsimp only
    split
    · exact ⟨s.freeIx, s.mg, s.evc, rfl⟩
    · obtain ⟨f, m, e, h⟩ := State.journalNow_eq (s.setKiln _) b.2.2 kilnCfgAddr _ _
      exact ⟨f, m, e, h⟩

/-- The standing-throttle condition changes nothing in the kiln but its bit (11 R374). -/
theorem State.standingCheck_kiln (s : State) : ∃ r, s.standingCheck.kiln = { s.kiln with standingReq := r } := by
  unfold State.standingCheck
  split
  · obtain ⟨u, m, h⟩ := (s.setKiln { s.kiln with standingReq := true }).raiseAlert_eq .standing
    exact ⟨true, by rw [h]; rfl⟩
  · split
    · exact ⟨s.kiln.standingReq, rfl⟩
    · exact ⟨s.kiln.standingReq, rfl⟩

/-- What a refill tick leaves in the bucket. -/
def State.refilled (s : State) : Int :=
  min (s.kiln.level + ((s.nextCap.toNat * derate s.kiln.tMax.toInt / 10 : Nat) : Int) - (s.reservedRate : Int)) ((s.nextDepth.toNat * 1000 : Nat) : Int)

/-- A tick puts the new budget in force and refills the bucket; beyond that it changes the note of the head, throttle marks and the standing
throttle. -/
theorem State.refillTick_kiln (s : State) : ∃ h r q, s.refillTick.kiln =
    { s.kiln with capMw := s.nextCap, depth := s.nextDepth, newBudget := none, level := s.refilled, headSince := h, ready := r, standingReq := q } := by
  obtain ⟨f, m, e, hb⟩ := s.newBudget_eq
  have hl : min (s.newBudget.kiln.level + s.newBudget.onDemandRate) ((s.newBudget.kiln.depth.toNat * 1000 : Nat) : Int) = s.refilled := by
    rw [hb, State.refilled, add_sub_assoc]
    rfl
  have noted : ∀ u : State, u.kiln = { s.kiln with capMw := s.nextCap, depth := s.nextDepth, newBudget := none, level := s.refilled } →
      ∃ h r q, u.noteHead.standingCheck.kiln = { s.kiln with
        capMw := s.nextCap, depth := s.nextDepth, newBudget := none, level := s.refilled, headSince := h, ready := r, standingReq := q } := by
    intro u hu
    obtain ⟨h, r, hn⟩ := u.noteHead_eq
    obtain ⟨q, hq⟩ := u.noteHead.standingCheck_kiln
    exact ⟨h, r, q, by rw [hq, hn, hu]; rfl⟩
  have hfill : (s.newBudget.setKiln { s.newBudget.kiln with level := s.refilled }).kiln =
      { s.kiln with capMw := s.nextCap, depth := s.nextDepth, newBudget := none, level := s.refilled } := by
    rw [hb]
    rfl
  rw [State.refillTick]
  dsimp only
  rw [hl]
  generalize s.newBudget.setKiln _ = v at hfill ⊢
  split
  · split
    · obtain ⟨e', he⟩ := v.event_eq 0x1C6 0 1
      exact noted _ (by rw [he, ← hfill])
    · exact noted v hfill
  · exact noted v hfill

end

end Sys2Proof.Machine

open Sys2Proof Sys2Proof.Machine

/-- Settles O37: an entry that is picked is one that can go, a dispatch is written out for the slot that is free, and a tick changes the bucket. -/
theorem kilnDispatchAndRefill : Obligations.KilnDispatchAndRefill := by
  unfold Obligations.KilnDispatchAndRefill
  refine ⟨fun s => ⟨fun h => ?nothing, fun hc hr hs => ?first⟩, fun u l a b j p hp => ?picked, fun u j p w hw => ?dispatched, fun s => ?refill⟩
  case nothing => exact congrArg _ (State.jobDispatch_idle (State.noDispatch_iff.mpr h))
  case first =>
    have hgo : s.noDispatch = false := Bool.eq_false_iff.mpr fun h => by
      rcases State.noDispatch_iff.mp h with h | h | h
      · rw [hc] at h; cases h
      · exact hr h
      · rw [hs] at h; cases h
    exact congrArg _ (State.jobDispatch_eq hgo)
  case picked =>
    obtain ⟨hmem, hplace⟩ := State.pick_some hp
    refine ⟨hmem, fun hn => ?_, fun e he => ?_⟩
    · obtain ⟨hstop, hstart, hpin⟩ := State.place_waiting hn hplace
      obtain ⟨helig, hidle⟩ := State.startable_iff.mp hstart
      exact ⟨hstop, helig, hidle, hpin⟩
    · have hhost := State.place_swapped he hplace
      rw [State.canHost, Bool.and_eq_true, State.startable_iff] at hhost
      exact ⟨hhost.1.1, hhost.1.2, hhost.2⟩
  case dispatched => exact State.dispatch_eq hw
  case refill =>
    obtain ⟨h, r, q, hk⟩ := s.refillTick_kiln
    refine ⟨s.refillTick, rfl, ?_⟩
    rw [hk]
    exact ⟨rfl, rfl, rfl, rfl⟩
end


section
/-!
PROOFS. PPS_OUT (12 R410).
-/

set_option Elab.async false

namespace Sys2Proof.Machine

open Sys2Proof

theorem exec_ppsOutEdge_on {s : State} (h : bit s.tb.servo 60 = true) :
    exec .ppsOutEdge s = .next (s.setTb { s.tb with pps := decide (s.tb.ns.toNat < 100000000) }) :=
  congrArg Host.Outcome.next (if_pos h)

end Sys2Proof.Machine

open Sys2Proof Sys2Proof.Machine

/-- Settles O49: where the pin is enabled, its level is a comparison of the nanoseconds alone, which neither holdover nor a mode enters. -/
theorem pulsePerSecondOut : Obligations.PulsePerSecondOut := by
  unfold Obligations.PulsePerSecondOut
  refine fun s => ⟨fun hon => ⟨exec_ppsOutEdge_on hon, fun t ht => ?_⟩, fun hoff => ?_⟩
  · obtain rfl := Host.Outcome.next.inj ((exec_ppsOutEdge_on hon).symm.trans ht)
    refine ⟨fun h0 => ?_, fun h => ?_, fun m b => exec_ppsOutEdge_on hon⟩
    · rw [State.setTb, h0]
      rfl
    · exact decide_eq_false (by omega)
  · exact congrArg Host.Outcome.next (if_neg (Bool.eq_false_iff.mp hoff))
end


section
/-!
PROOFS. WITNESS_START keeps the cause that its queue holds when it is carried out (12 R416; 10 R346), and not always the one with which it was
accepted.
-/

set_option Elab.async false

namespace Sys2Proof.Machine

open Sys2Proof

theorem exec_witnessStart {s : State} {h : Header} {pl : List Byte} (hb : s.Begins (packet 0x4001 h pl)) :
    exec (.witnessStart h pl) s = .next ((s.begun (packet 0x4001 h pl)).witStart (s.outOf (packet 0x4001 h pl))) := by
  have hop : (s.outOf (packet 0x4001 h pl)).pkt.op = 0x4001 := State.outOf_op _ _
  have hr : s.submit (packet 0x4001 h pl) = _ := hb.submit_eq (by simp) (by simp [Packet.isData])
  show Host.Outcome.next (s.submit (packet 0x4001 h pl)) = _
  rw [hr]
  simp only [State.runOp, hop]

/-- A start of the recorder waits for its effect count with the outputs and the cause of its command. -/
def State.startsAt (c : Nat) (out : BitVec 3) (cause : Cause) (s : State) : State := s.setWit { s.wit with startAt := some (c, out, cause) }

theorem State.startsAt_inj {c d : Nat} {out o : BitVec 3} {a b : Cause} {s : State} (h : s.startsAt c out a = s.startsAt d o b) : a = b :=
  congrArg (fun x : Nat × BitVec 3 × Cause => x.2.2) (Option.some.inj (congrArg (fun t : State => t.wit.startAt) h))

/-- A command that is no longer outstanding sets the start and leaves no completion. -/
theorem State.Gone.complete_startsAt {q sq c : Nat} {out : BitVec 3} {s : State} (g : s.Gone q sq) (a : Cause) (r : Record) (e : Effects) :
    (s.startsAt c out a).complete q sq r e = s.startsAt c out a :=
  State.complete_of_outstOf_none (State.Gone.congr (s := s) (t := s.startsAt c out a) ⟨rfl, rfl⟩ g).done r e

/-- WITNESS_START on Q0, with tag 7, and no output selected. -/
def recordHdr : Header :=
  { flags := 0, queue := 0, payloadLen := 0, tag := 7, cones := 0, dlSec := 0, dlNs := 0, rsvd := 0, w0 := 1, w1 := 0, w2 := 0, w3 := 0 }

theorem swappingDev_recordBegins : swappingDev.Begins (packet 0x4001 recordHdr []) where
  running := by decide +kernel
  alone := by decide +kernel
  header := by decide +kernel
  fresh := by decide +kernel
  allowed := by decide +kernel
  own := by decide +kernel
  named := by decide +kernel
  ready := by decide +kernel
  readable := by rfl

/-- As its entry is read, the number of the command goes to the ROLE_SWAP, and it is no longer outstanding. -/
theorem swappingDev_recordGone : (swappingDev.begun (packet 0x4001 recordHdr [])).Gone 0 1 := by
  have failing : (swappingDev.accepting (packet 0x4001 recordHdr [])).2.1.Failing entryPlace :=
    { upset := by rfl, cache := by rfl, pcs := by decide +kernel, young := by decide +kernel }
  have swapping : (swappingDev.accepting (packet 0x4001 recordHdr [])).2.1.Swapping 0 1 :=
    { role := by rfl, paired := by rfl, swap := ⟨100000, by rfl⟩, attach := by rfl, merged := by rfl }
  exact State.devRead_gone (failing.hbmRead_gone swapping (by decide))

end Sys2Proof.Machine

open Sys2Proof Sys2Proof.Machine

/-- Refutes O34: its clause on WITNESS_START keeps the cause with which the command was accepted. On `swappingDev` the command is no longer
outstanding when it has its effect, so that the cause bears no tag. The statement ranges over every state: in this one the ROLE_SWAP bears a
number that its queue has not given yet, which no run is shown to reach. -/
theorem not_recorderCommands : ¬ Obligations.RecorderCommands := by
  unfold Obligations.RecorderCommands
  intro hall
  have hb := swappingDev_recordBegins
  have hg := swappingDev_recordGone
  have hc : swappingDev.causeFor (packet 0x4001 recordHdr []) = { queue := 0, tag := 7, seq := 1, opcode := 0x4001 } := by decide +kernel
  obtain ⟨hstart, -⟩ := hall swappingDev recordHdr []
  have stated := hstart hb
  have done := exec_witnessStart hb
  generalize swappingDev.begun (packet 0x4001 recordHdr []) = u at hg stated done
  have hdone : exec (.witnessStart recordHdr []) swappingDev = .next (u.startsAt 10000 0 { queue := 0, seq := 1 }) := by
    have hq : u.causeOf 0 1 = { queue := 0, seq := 1 } := hg.causeOf
    have hw : u.witStart (swappingDev.outOf (packet 0x4001 recordHdr [])) = (u.startsAt 10000 0 (u.causeOf 0 1)).complete 0 1 _ _ := rfl
    rw [done, hw, hg.complete_startsAt, hq]
  have hstated : exec (.witnessStart recordHdr []) swappingDev =
      .next (u.startsAt 10000 0 { queue := 0, tag := 7, seq := 1, opcode := 0x4001 }) := by
    rw [hc] at stated
    exact stated.trans (congrArg Host.Outcome.next (hg.complete_startsAt _ _ _))
  have causes := State.startsAt_inj (Host.Outcome.next.inj (hdone.symm.trans hstated))
  exact absurd causes (by decide)
end


section
/-!
SUPPORT. What the operations that many events share leave of the device, field by field: an entry in the journal or the recorder (10 R346;
12 R414), a new state of the twin (14 R452), commands that end (10 R327), and a device that leaves its pair (14 R455, R479).
-/

set_option Elab.async false

namespace Sys2Proof.Machine

open Sys2Proof

/-! ## Changes that are noted -/

/-- The device with another timebase, journal and recorder, other event counters and free values. -/
def State.noted (f : Nat) (b : Timebase) (j : Journal) (w : Witness) (e : Tbl Counter) (s : State) : State :=
  { s with freeIx := f, tb := b, mg := { s.mg with journal := j }, wit := w, evc := e }

theorem State.noted_noted (f f' : Nat) (b b' : Timebase) (j j' : Journal) (w w' : Witness) (e e' : Tbl Counter) (s : State) :
    (s.noted f b j w e).noted f' b' j' w' e' = s.noted f' b' j' w' e' := rfl

theorem State.journalAt_noted (a : Nat) (c : Cause) (target : W64) (before after : Option (List Byte)) (s : State) :
    ∃ f j e, s.journalAt a c target before after = s.noted f s.tb j s.wit e := by
  obtain ⟨f, hb⟩ := s.digest128_eq before
  obtain ⟨f', ha⟩ := State.digest128_eq { s with freeIx := f } after
  unfold State.journalAt
  dsimp only
  rw [hb, ha]
  obtain ⟨e, he⟩ := State.event_eq 0x2C5 0 1 (State.setMg _ { s with freeIx := f' })
  rw [he]
  exact ⟨f', _, e, rfl⟩

theorem State.journalNow_noted (c : Cause) (target : W64) (before after : Option (List Byte)) (s : State) :
    ∃ f j e, s.journalNow c target before after = s.noted f s.tb j s.wit e := State.journalAt_noted ..

theorem State.witness_noted (typ src stamp : Nat) (pl : List Byte) (s : State) :
    ∃ w e, s.witness typ src stamp pl = s.noted s.freeIx s.tb s.mg.journal w e := State.witness_eq ..

theorem State.resumeMode_noted (s : State) : ∃ f b j w e, s.resumeMode = s.noted f b j w e := by
  unfold State.resumeMode
  dsimp only
  split
  · exact ⟨s.freeIx, _, s.mg.journal, s.wit, s.evc, rfl⟩
  · unfold State.journalDev timeEvent
    obtain ⟨f, j, e, hj⟩ := State.journalNow_noted byDevice (objTarget 0x40 1) none none (s.setTb _)
    rw [hj]
    obtain ⟨w, e', hw⟩ := State.witness_noted 0x05 0 _ _ (State.noted f _ j _ e (s.setTb _))
    rw [hw]
    exact ⟨f, _, j, w, e', rfl⟩

/-- The twin takes its new state, with a message to the peer at most, and the change is noted. -/
theorem State.twinChange_noted (v : Twin) (s : State) :
    ∃ o f b j w e, s.twinChange v = (s.setTwin { v with out := v.out ++ o }).noted f b j w e := by
  unfold State.twinChange
  dsimp only
  split
  · exact ⟨[], s.freeIx, s.tb, s.mg.journal, s.wit, s.evc, by rw [List.append_nil]; rfl⟩
  · obtain ⟨o, ho⟩ : ∃ o, (if v.pair = s.twin.pair then v else { v with out := v.out ++ [.pairState v.pair] }) = { v with out := v.out ++ o } := by
      split
      · exact ⟨[], by rw [List.append_nil]⟩
      · exact ⟨_, rfl⟩
    rw [ho]
    obtain ⟨f, j, e, hj⟩ := State.journalNow_noted byDevice twStatAddr (some (w64Bytes s.twin.stat))
      (some (w64Bytes ({ v with out := v.out ++ o } : Twin).stat)) (s.setTwin { v with out := v.out ++ o })
    rw [hj]
    obtain ⟨w, e', hw⟩ : ∃ w e', (if v.role = s.twin.role then (s.setTwin { v with out := v.out ++ o }).noted f s.tb j s.wit e
        else ((s.setTwin { v with out := v.out ++ o }).noted f s.tb j s.wit e).witness 0x24 0
          ((s.setTwin { v with out := v.out ++ o }).noted f s.tb j s.wit e).now [BitVec.ofNat 8 v.role.num]) =
        (s.setTwin { v with out := v.out ++ o }).noted f s.tb j w e' := by
      split
      · exact ⟨_, _, rfl⟩
      · obtain ⟨w, e', hw⟩ := State.witness_noted 0x24 0 _ _ ((s.setTwin { v with out := v.out ++ o }).noted f s.tb j s.wit e)
        exact ⟨w, e', hw⟩
    refine ⟨o, ?_⟩
    split
    · obtain ⟨f', b', j', w', e'', hr⟩ := State.resumeMode_noted ((s.setTwin { v with out := v.out ++ o }).noted f s.tb j w e')
      exact ⟨f', b', j', w', e'', (congrArg State.resumeMode hw).trans hr⟩
    · exact ⟨f, s.tb, j, w, e', hw⟩

/-- An alert that rises is among the alerts; of the device it changes these, and the USB port, which wakes the host. -/
theorem State.raiseAlert_alerts (a : Alert) (s : State) :
    ∃ u l, s.raiseAlert a = { s with usb := u, mg := { s.mg with alerts := l } } ∧ a ∈ l := by
  obtain ⟨l, hl, ha⟩ : ∃ l, s.alert a = { s with mg := { s.mg with alerts := l } } ∧ a ∈ l := by
    unfold State.alert
    split
    · exact ⟨s.mg.alerts, rfl, List.contains_iff_mem.mp ‹_›⟩
    · exact ⟨_, rfl, List.mem_cons_self⟩
  unfold State.raiseAlert State.signalWake
  rw [hl]
  split
  · split <;> exact ⟨_, l, rfl, ha⟩
  · exact ⟨s.usb, l, rfl, ha⟩

/-! ## Commands that end -/

/-- The twin once commands have ended: their commit entries, what they tell the peer, and the ATTACH and the ROLE_SWAP under way. -/
def Twin.ended (a : Option (Nat × Nat)) (w : Option (Nat × Nat × Nat)) (ix : W64) (c : Nat) (en l : List (Nat × List Byte)) (o : List TwinOut)
    (t : Twin) : Twin :=
  { t with attachBy := a, swapAt := w, applied := ix, commitIx := c, entries := en, log := l, out := t.out ++ o }

/-- From `s` to `t` commands end, and nothing has changed but free values, the queues and the twin's side of it. -/
def State.Ends (s t : State) : Prop := ∃ f v a w ix c en l o, t = s.withWork f v (s.twin.ended a w ix c en l o)

section
variable {s t u : State}

theorem State.Ends.of_queues (f : Nat) (v : Tbl Queue) : s.Ends (s.withWork f v s.twin) :=
  ⟨f, v, s.twin.attachBy, s.twin.swapAt, s.twin.applied, s.twin.commitIx, s.twin.entries, s.twin.log, [], by rw [Twin.ended, List.append_nil]⟩

theorem State.Ends.rfl (s : State) : s.Ends s := .of_queues s.freeIx s.queues

theorem State.Ends.trans (h : s.Ends t) (k : t.Ends u) : s.Ends u := by
  obtain ⟨f, v, a, w, ix, c, en, l, o, rfl⟩ := h
  obtain ⟨f', v', a', w', ix', c', en', l', o', rfl⟩ := k
  exact ⟨f', v', a', w', ix', c', en', l', o ++ o', by simp only [State.withWork, Twin.ended, List.append_assoc]⟩

theorem State.commitEntry_ends (e : Effects) (r : Record) (s : State) : s.Ends (s.commitEntry e r).2.2 := by
  unfold State.commitEntry State.logEntry
  have none : s.twin.out = s.twin.out ++ [] := (List.append_nil _).symm
  split
  · exact ⟨s.freeIx, s.queues, s.twin.attachBy, s.twin.swapAt, s.twin.applied, s.twin.commitIx, s.twin.entries, _, [], by
      rw [Twin.ended, ← none]; rfl⟩
  · dsimp only
    split
    · exact ⟨s.freeIx, s.queues, s.twin.attachBy, s.twin.swapAt, _, _, _, _, _, rfl⟩
    · exact ⟨s.freeIx, s.queues, s.twin.attachBy, s.twin.swapAt, _, _, s.twin.entries, _, [], by rw [Twin.ended, ← none]; rfl⟩

theorem State.reorderPut_ends (q : Nat) (r : Record) (e : Effects) (cap : Nat) (s : State) : s.Ends (s.reorderPut q r e cap) :=
  (State.commitEntry_ends e r s).trans (.of_queues (s := (s.commitEntry e r).2.2) _ _)

theorem State.closeMerged_ends (q : Nat) (s : State) : s.Ends (s.closeMerged q) := by
  unfold State.closeMerged
  dsimp only
  split
  · split
    · exact State.Ends.trans (.of_queues s.freeIx _) (State.reorderPut_ends ..)
    · exact .rfl s
  · exact .rfl s

theorem State.complete_ends (q sq : Nat) (r : Record) (e : Effects) (s : State) : s.Ends (s.complete q sq r e) := by
  unfold State.complete State.completeAt
  cases s.outstOf q sq with
  | none => exact .rfl s
  | some o =>
    dsimp only
    generalize ({ r with queue := q, seq := sq, tag := _, opcode := _, accept := _, cflags := _, stop := _, flags := _ } : Record) = r'
    obtain ⟨f, hf⟩ := s.bareExt_withWork o r'
    rw [hf]
    split
    · split
      · exact State.Ends.trans (.of_queues f _) (State.closeMerged_ends ..)
      · exact State.Ends.trans (.of_queues f _) (State.reorderPut_ends ..)
    · exact State.Ends.trans (.of_queues f _) (State.reorderPut_ends ..)

/-- The ATTACH and the ROLE_SWAP under way are others. -/
theorem State.Ends.underWay (a : Option (Nat × Nat)) (w : Option (Nat × Nat × Nat)) : s.Ends (s.setTwin { s.twin with attachBy := a, swapAt := w }) :=
  ⟨s.freeIx, s.queues, a, w, s.twin.applied, s.twin.commitIx, s.twin.entries, s.twin.log, [], by rw [Twin.ended, List.append_nil]; rfl⟩

theorem State.attachEnds_ends (st : Byte) (s : State) : s.Ends (s.attachEnds st) := by
  unfold State.attachEnds
  split
  · exact (State.Ends.underWay none s.twin.swapAt).trans (State.complete_ends ..)
  · exact .rfl s

theorem State.swapEnds_ends (s : State) : s.Ends s.swapEnds := by
  unfold State.swapEnds
  split
  · exact (State.Ends.underWay s.twin.attachBy none).trans (State.complete_ends ..)
  · exact .rfl s

end

/-! ## A device that leaves its pair (14 R455, R479) -/

/-- The twin as the device leaves its pair for a reason. -/
def State.leaving (reason : BitVec 4) (s : State) : Twin :=
  { s.twin with
    leaveReason := reason, role := .solo, pair := .none, active := false
    peerLowAt := if s.twin.peerActive then s.twin.peerLowAt else some s.up
    out := s.twin.out ++ [.leaving] }

/-- What has left a pair: SOLO with the pin low, for the reason given, having told the peer; a watchdog and a conflict stay on record. -/
structure Twin.Left (reason : BitVec 4) (t old : Twin) : Prop where
  pair : t.pair = .none
  role : t.role = .solo
  active : t.active = false
  reason : t.leaveReason = reason
  gone : t.wdGone = old.wdGone
  conflict : t.roleConflict = old.roleConflict
  told : .leaving ∈ t.out

theorem State.unpaired_eq (s : State) : ∃ q, s.unmirror.forgetWork = { s with queues := q, twin := s.unmirror.twin } := by
  unfold State.forgetWork
  split <;> exact ⟨_, rfl⟩

theorem State.leavePair_left (reason : BitVec 4) {s : State} (hp : s.twin.pair ≠ .none) : ∃ f b j w e q t,
    s.leavePair reason = { s.noted f b j w e with queues := q, twin := t } ∧ t.Left reason s.twin := by
  obtain ⟨q, hq⟩ := s.unpaired_eq
  have hleave : s.leavePair reason =
      ((s.unmirror.forgetWork.twinChange (s.unmirror.forgetWork.leaving reason)).attachEnds St.flagged).swapEnds := if_neg hp
  rw [hleave, hq]
  generalize hu : ({ s with queues := q, twin := s.unmirror.twin } : State) = u
  obtain ⟨o, f, b, j, w, e, hc⟩ := u.twinChange_noted (u.leaving reason)
  obtain ⟨f', v, _, _, _, _, _, _, o', he⟩ :=
    (State.attachEnds_ends St.flagged (u.twinChange (u.leaving reason))).trans (State.swapEnds_ends _)
  rw [he, hc, ← hu]
  refine ⟨f', b, j, w, e, v, _, rfl, ⟨rfl, rfl, rfl, rfl, rfl, rfl, ?_⟩⟩
  show TwinOut.leaving ∈ ((s.twin.out ++ [.leaving]) ++ o) ++ o'
  simp

end Sys2Proof.Machine
end


section
/-!
PROOFS. The device watchdog expires (14 R455; 15 R491).
-/

set_option Elab.async false

namespace Sys2Proof.Machine

open Sys2Proof

/-- As the pairs settle, pairs and event counters change. -/
theorem State.settlePairs_eq (src : Nat) (s : State) : ∃ x e, s.settlePairs src = { s with pairs := x, evc := e } := by
  refine List.foldlRecOn (motive := fun t : State => ∃ x e, t = { s with pairs := x, evc := e }) _ _ ⟨s.pairs, s.evc, rfl⟩ ?_
  rintro _ ⟨x, e, rfl⟩ p -
  unfold State.settlePair
  dsimp only
  split
  · split
    · exact ⟨_, e, rfl⟩
    · obtain ⟨e', he⟩ := State.event_eq 0x14B p 1 (State.setPair p _ { s with pairs := x, evc := e })
      exact ⟨_, e', he⟩
  · split
    · exact ⟨_, e, rfl⟩
    · exact ⟨x, e, rfl⟩

/-- A source that is raised changes the sources, pairs and event counters. -/
theorem State.raiseTrip_eq (n : Nat) (s : State) : ∃ x y e, s.raiseTrip n = { s with trips := x, pairs := y, evc := e } := by
  obtain ⟨x, e, h⟩ := State.settlePairs_eq n (s.updTrip n (fun t => { t with raised := true, latch := true }))
  exact ⟨_, x, e, h⟩

@[simp] theorem State.noted_tripSrc (f : Nat) (b : Timebase) (j : Journal) (w : Witness) (e : Tbl Counter) (s : State) (n : Nat) :
    (s.noted f b j w e).tripSrc n = s.tripSrc n := rfl

/-- The device with its pin low and its heartbeats off, and with the reset that is due, as the watchdog has expired. -/
def State.expired (s : State) : State :=
  let t := s.setTwin { s.twin with active := false, wdGone := true }
  t.setMg { t.mg with wdExpired := true, warmAt := t.mg.warmAt ++ [(t.up + 1000000, 3)] }

/-- What the watchdog has done as the device comes to leave its pair: besides, the alert and trip source 82 stand. -/
structure State.WatchdogBarked (s y : State) : Prop where
  twin : y.twin = { s.twin with active := false, wdGone := true }
  expired : y.mg.wdExpired = true
  reset : y.mg.warmAt = s.mg.warmAt ++ [(s.up + 1000000, 3)]
  alert : .watchdog ∈ y.mg.alerts
  trip : y.tripSrc 82 = { s.tripSrc 82 with raised := true, latch := true }

theorem State.watchdog_barks {s : State} (hr : s.mg.inReset = false) (hg : s.twin.wdGone = false) :
    ∃ y, s.watchdog = y.leavePair 5 ∧ s.WatchdogBarked y := by
  obtain ⟨u, l, ha, hmem⟩ := State.raiseAlert_alerts .watchdog s.expired
  obtain ⟨x, p, e, ht⟩ := State.raiseTrip_eq 82 (s.expired.raiseAlert .watchdog)
  have hsrc : ((s.expired.raiseAlert .watchdog).raiseTrip 82).tripSrc 82 = { (s.expired.raiseAlert .watchdog).tripSrc 82 with raised := true, latch := true } :=
    State.raiseTrip_tripSrc
  have hgo : ¬ (s.mg.inReset || s.twin.wdGone) = true := by simp [hr, hg]
  have hall : s.watchdog = (((s.expired.raiseAlert .watchdog).raiseTrip 82).journalNow byDevice faultAddr
      (some (w64Bytes (s.setTwin { s.twin with active := false, wdGone := true }).faultReg))
      (some (w64Bytes ((s.expired.raiseAlert .watchdog).raiseTrip 82).faultReg))).leavePair 5 := if_neg hgo
  obtain ⟨f, j, e', hj⟩ := State.journalNow_noted byDevice faultAddr
      (some (w64Bytes (s.setTwin { s.twin with active := false, wdGone := true }).faultReg))
      (some (w64Bytes ((s.expired.raiseAlert .watchdog).raiseTrip 82).faultReg)) ((s.expired.raiseAlert .watchdog).raiseTrip 82)
  refine ⟨_, hall, ?_⟩
  rw [hj]
  refine ⟨?twin, ?expired, ?reset, ?alert, ?trip⟩
  case trip =>
    rw [State.noted_tripSrc, hsrc, ha]
    rfl
  all_goals rw [ht, ha]
  case twin => rfl
  case expired => rfl
  case reset => rfl
  case alert => exact hmem

/-- The device has left its pair, if it was in one, after the watchdog had done the rest. -/
theorem State.watchdog_leaves {s y : State} (h : s.WatchdogBarked y) : ∃ f b j w e q t,
    y.leavePair 5 = { y.noted f b j w e with queues := q, twin := t } ∧ t.active = false ∧ t.wdGone = true ∧ t.pair = .none ∧
      (s.twin.pair ≠ .none → t.leaveReason = 5 ∧ t.role = .solo ∧ .leaving ∈ t.out) ∧
      (s.twin.pair = .none → t.leaveReason = s.twin.leaveReason) := by
  have hpair : y.twin.pair = s.twin.pair := by rw [h.twin]
  by_cases hp : y.twin.pair = .none
  · refine ⟨y.freeIx, y.tb, y.mg.journal, y.wit, y.evc, y.queues, y.twin, ?_, ?_, ?_, hp, fun hn => absurd (hpair ▸ hp) hn, fun _ => ?_⟩
    · exact if_pos hp
    all_goals rw [h.twin]
  · obtain ⟨f, b, j, w, e, q, t, he, hl⟩ := State.leavePair_left 5 hp
    refine ⟨f, b, j, w, e, q, t, he, hl.active, ?_, hl.pair, fun _ => ⟨hl.reason, hl.role, hl.told⟩, fun hn => absurd (hpair.trans hn) hp⟩
    rw [hl.gone, h.twin]

end Sys2Proof.Machine

open Sys2Proof Sys2Proof.Machine

/-- Settles O55: what the watchdog does before the device leaves its pair, and what of that the leaving keeps. -/
theorem watchdogExpiry : Obligations.WatchdogExpiry := by
  unfold Obligations.WatchdogExpiry
  refine fun s => ⟨fun h => congrArg Host.Outcome.next (if_pos (by rw [Bool.or_eq_true]; exact h)), fun hr hg => ?_⟩
  obtain ⟨y, hw, hy⟩ := State.watchdog_barks hr hg
  obtain ⟨f, b, j, w, e, q, t, hl, hactive, hgone, hpair, hleft, hstay⟩ := State.watchdog_leaves hy
  refine ⟨_, congrArg Host.Outcome.next (hw.trans hl), hactive, ?_, ?_, ?_, hpair, hleft, hstay, hy.expired, hy.reset, hy.alert⟩
  · exact congrArg TripSrc.raised hy.trip
  · exact congrArg TripSrc.latch hy.trip
  · exact congrArg Host.Outcome.next (if_pos (.inr (.inr (.inl hgone))))
end


section
/-!
PROOFS. A LAUNCH at its count, and an UNBIND of an object that a LAUNCH names (12 R413).
-/

set_option Elab.async false

namespace Sys2Proof.Machine

open Sys2Proof

/-! ## The bindings of a LAUNCH -/

theorem State.updBinding_binding (b : Nat) (g : Binding → Binding) (s : State) (c : Nat) :
    (s.updBinding b g).binding c = if c = b then (s.binding b).map g else s.binding c := by
  unfold State.updBinding
  split
  next v hv =>
    split
    next h => rw [h, State.setBinding_binding, hv]; rfl
    next h => exact State.setBinding_binding_ne _ _ _ _ h
  next hn =>
    split
    next h => rw [h, hn]; rfl
    next h => rfl

theorem State.updBinding_eq_self_or_set (b : Nat) (g : Binding → Binding) (s : State) :
    s.updBinding b g = s ∨ ∃ v, s.updBinding b g = s.setBinding b v := by
  unfold State.updBinding
  split
  · exact .inr ⟨_, rfl⟩
  · exact .inl rfl

/-- The first period boundary of a binding is the count of its LAUNCH. -/
def Binding.launched (c : Nat) (v : Binding) : Binding := { v with first := some c, next := c }

/-- Each binding of the list has the count as its first period boundary. -/
def State.launchBindings (c : Nat) (bs : List Nat) (s : State) : State :=
  bs.foldl (fun s b => s.updBinding b (Binding.launched c)) s

theorem State.launchBindings_binding (c : Nat) (bs : List Nat) (s : State) (b : Nat) :
    (s.launchBindings c bs).binding b = if b ∈ bs then (s.binding b).map (Binding.launched c) else s.binding b := by
  induction bs generalizing s with
  | nil => rfl
  | cons a bs ih =>
    have hstep : s.launchBindings c (a :: bs) = (s.updBinding a (Binding.launched c)).launchBindings c bs := rfl
    rw [hstep, ih, State.updBinding_binding]
    by_cases ha : b = a
    · subst ha
      cases hb : s.binding b <;> simp [Binding.launched]
    · simp [ha]

theorem State.launchBindings_keeps (c : Nat) (bs : List Nat) (s : State) :
    (s.launchBindings c bs).slots = s.slots ∧ (s.launchBindings c bs).tb = s.tb := by
  refine List.foldlRecOn (motive := fun t : State => t.slots = s.slots ∧ t.tb = s.tb) _ _ ⟨rfl, rfl⟩ ?_
  rintro t ⟨hs, ht⟩ b -
  obtain h | ⟨v, h⟩ := t.updBinding_eq_self_or_set b (Binding.launched c) <;> rw [h]
  · exact ⟨hs, ht⟩
  · exact ⟨hs, ht⟩

/-! ## The slots of a LAUNCH -/

/-- A slot has the count of its LAUNCH as its start. -/
def State.launchSlot (c n : Nat) (s : State) : State := (s.updSlot n (fun x => { x with start := some c })).slotStart n

/-- An armed slot runs from a count that has come; one that runs goes on. -/
def Slot.launched (c : Nat) (x : Slot) : Slot :=
  if x.st = .armed then { x with start := some c, st := .running, lastEval := c - 1 } else { x with start := some c }

theorem State.launchSlot_eq {c : Nat} {s : State} (h : c ≤ s.now) (n : Nat) : s.launchSlot c n = s.setSlot n (Slot.launched c (s.slot n)) := by
  let x : Slot := { s.slot n with start := some c }
  let u := s.setSlot n x
  have hx : u.slot n = x := State.setSlot_slot ..
  show u.slotStart n = _
  rw [Slot.launched]
  by_cases hst : (s.slot n).st = .armed
  · have hne : x ≠ { } := fun h => nomatch congrArg Slot.start h
    rw [State.slotStart_armed (c := c) (by rw [hx]; exact hst) (by rw [hx]), if_pos hst, if_pos (by exact h), hx]
    exact congrArg (fun t => ({ s with slots := t } : State)) (Tbl.set_set hne _ _ _)
  · rw [State.slotStart_waiting (.inl (by rw [hx]; exact hst)), if_neg hst]

/-- Each slot of the list has the count as its start. -/
def State.launchSlots (c : Nat) (ns : List Nat) (s : State) : State := ns.foldl (fun s n => s.launchSlot c n) s

theorem State.launchSlots_cons {c : Nat} {s : State} (h : c ≤ s.now) (n : Nat) (ns : List Nat) :
    s.launchSlots c (n :: ns) = (s.setSlot n (Slot.launched c (s.slot n))).launchSlots c ns :=
  congrArg (State.launchSlots c ns) (State.launchSlot_eq h n)

theorem State.launchSlots_bindings {c : Nat} {s : State} (h : c ≤ s.now) (ns : List Nat) : (s.launchSlots c ns).bindings = s.bindings := by
  induction ns generalizing s with
  | nil => rfl
  | cons n ns ih => rw [State.launchSlots_cons h, ih (by exact h)]; rfl

theorem State.launchSlots_slot_of_notMem {c n : Nat} {s : State} (h : c ≤ s.now) {ns : List Nat} (hn : n ∉ ns) :
    (s.launchSlots c ns).slot n = s.slot n := by
  induction ns generalizing s with
  | nil => rfl
  | cons m ns ih =>
    obtain ⟨hm, hn⟩ := not_or.mp (mt List.mem_cons.mpr hn)
    rw [State.launchSlots_cons h, ih (by exact h) hn, State.setSlot_slot_ne _ _ _ _ hm]

theorem State.launchSlots_running {c n : Nat} {s : State} (h : c ≤ s.now) (ns : List Nat) (hst : (s.slot n).st = .running) (hc : (s.slot n).start = some c) :
    ((s.launchSlots c ns).slot n).st = .running ∧ ((s.launchSlots c ns).slot n).start = some c := by
  induction ns generalizing s with
  | nil => exact ⟨hst, hc⟩
  | cons m ns ih =>
    rw [State.launchSlots_cons h]
    by_cases hm : n = m
    · subst hm
      have hx : Slot.launched c (s.slot n) = { s.slot n with start := some c } := if_neg (by rw [hst]; nofun)
      exact ih (by exact h) (by rw [State.setSlot_slot, hx]; exact hst) (by rw [State.setSlot_slot, hx])
    · exact ih (by exact h) (by rw [State.setSlot_slot_ne _ _ _ _ hm]; exact hst) (by rw [State.setSlot_slot_ne _ _ _ _ hm]; exact hc)

theorem State.launchSlots_armed {c n : Nat} {s : State} (h : c ≤ s.now) {ns : List Nat} (hn : n ∈ ns) (hst : (s.slot n).st = .armed) :
    ((s.launchSlots c ns).slot n).st = .running ∧ ((s.launchSlots c ns).slot n).start = some c := by
  induction ns generalizing s with
  | nil => nomatch hn
  | cons m ns ih =>
    rw [State.launchSlots_cons h]
    by_cases hm : n = m
    · subst hm
      have hx : Slot.launched c (s.slot n) = { s.slot n with start := some c, st := .running, lastEval := c - 1 } := if_pos hst
      exact State.launchSlots_running (by exact h) ns (by rw [State.setSlot_slot, hx]) (by rw [State.setSlot_slot, hx])
    · refine ih (by exact h) ((List.mem_cons.mp hn).resolve_left hm) ?_
      rw [State.setSlot_slot_ne _ _ _ _ hm]
      exact hst

/-! ## The count of a LAUNCH -/

/-- The device as the bindings and slots of a LAUNCH have their count. -/
def State.launchedAll (q sq : Nat) (l : Launch) (s : State) : State :=
  ((s.setKiln { s.kiln with launches := s.kiln.launches.filter (fun x => decide (¬ (x.queue = q ∧ x.seq = sq))) }).launchBindings l.at_ l.bindings).launchSlots
    l.at_ l.slots

/-- Each object that has started is one journal entry. -/
def State.journalAll (c : Nat) (by_ : Cause) (ns : List Nat) (s : State) : State :=
  ns.foldl (fun s n => s.journalAt c by_ (objTarget 0x10 n) none none) s

theorem State.journalAll_noted (c : Nat) (by_ : Cause) (ns : List Nat) (s : State) : ∃ f j e, s.journalAll c by_ ns = s.noted f s.tb j s.wit e := by
  refine List.foldlRecOn (motive := fun t : State => ∃ f j e, t = s.noted f s.tb j s.wit e) _ _ ⟨s.freeIx, s.mg.journal, s.evc, rfl⟩ ?_
  rintro _ ⟨f, j, e, rfl⟩ n -
  exact State.journalAt_noted ..

section
variable {s : State} {q sq : Nat} {l : Launch}

theorem State.launchCount_none (h : s.kiln.launches.find? (fun l => decide (l.queue = q ∧ l.seq = sq)) = none) : s.launchCount q sq = s := by
  rw [State.launchCount, h]

theorem State.launchCount_early (h : s.kiln.launches.find? (fun l => decide (l.queue = q ∧ l.seq = sq)) = some l) (ht : s.now < l.at_) :
    s.launchCount q sq = s := by
  rw [State.launchCount, h]
  exact if_pos ht

theorem State.launchCount_due (h : s.kiln.launches.find? (fun l => decide (l.queue = q ∧ l.seq = sq)) = some l) (ht : l.at_ ≤ s.now) :
    s.launchCount q sq = ((s.launchedAll q sq l).journalAll l.at_ ((s.launchedAll q sq l).causeOf q sq) (l.bindings ++ l.slots)).finish q sq
      (if l.dropped then St.flagged else St.done) := by
  rw [State.launchCount, h]
  exact if_neg (Nat.not_lt.mpr ht)

/-- The bindings and slots as the LAUNCH leaves them. -/
theorem State.launchedAll_objects (ht : l.at_ ≤ s.now) (c : Cause) :
    let u := (s.launchedAll q sq l).journalAll l.at_ c (l.bindings ++ l.slots)
    (∀ b, u.binding b = if b ∈ l.bindings then (s.binding b).map (Binding.launched l.at_) else s.binding b) ∧
    (∀ n, n ∈ l.slots → (s.slot n).st = .armed → (u.slot n).st = .running ∧ (u.slot n).start = some l.at_) ∧
    (∀ n, n ∉ l.slots → u.slot n = s.slot n) := by
  intro u
  let k := s.setKiln { s.kiln with launches := s.kiln.launches.filter (fun x => decide (¬ (x.queue = q ∧ x.seq = sq))) }
  obtain ⟨hslots, htb⟩ := State.launchBindings_keeps l.at_ l.bindings k
  have hb := fun b => State.launchBindings_binding l.at_ l.bindings k b
  obtain ⟨f, j, e, hu⟩ := State.journalAll_noted l.at_ c (l.bindings ++ l.slots) (s.launchedAll q sq l)
  have hu' : u = _ := hu
  have hall : s.launchedAll q sq l = (k.launchBindings l.at_ l.bindings).launchSlots l.at_ l.slots := rfl
  generalize k.launchBindings l.at_ l.bindings = m at hslots htb hb hall
  have hm : l.at_ ≤ m.now := by rw [State.now, htb]; exact ht
  have hslot : ∀ n, m.slot n = s.slot n := fun n => by rw [State.slot, hslots]; rfl
  have ubind : ∀ b, u.binding b = m.binding b := fun b => by
    show Tbl.get none b (List.map _ u.bindings) = _
    rw [hu', hall]
    exact congrArg (fun t : Tbl Binding => Tbl.get none b (t.map fun e => (e.1, some e.2))) (State.launchSlots_bindings hm l.slots)
  have uslot : ∀ n, u.slot n = (m.launchSlots l.at_ l.slots).slot n := fun n => by rw [hu', hall]; rfl
  refine ⟨fun b => (ubind b).trans (hb b), fun n hn hst => ?_, fun n hn => ?_⟩
  · rw [uslot]
    exact State.launchSlots_armed hm hn ((congrArg Slot.st (hslot n)).trans hst)
  · rw [uslot, State.launchSlots_slot_of_notMem hm hn, hslot]

/-! ## An object that leaves its LAUNCH -/

/-- A LAUNCH without the object that is unbound. -/
def Launch.without (sl : Bool) (i : Nat) (l : Launch) : Launch :=
  if sl && l.slots.contains i then { l with slots := l.slots.filter (fun n => decide (n ≠ i)), dropped := true }
  else if !sl && l.bindings.contains i then { l with bindings := l.bindings.filter (fun n => decide (n ≠ i)), dropped := true } else l

theorem State.without_mem {sl : Bool} {i : Nat} (h : l ∈ s.kiln.launches) : l.without sl i ∈ (s.leaveLaunch sl i).kiln.launches :=
  List.mem_map_of_mem h

theorem Launch.without_slot {i : Nat} (h : i ∈ l.slots) :
    l.without true i = { l with slots := l.slots.filter (fun n => decide (n ≠ i)), dropped := true } :=
  if_pos (by simp [h])

theorem Launch.without_binding {i : Nat} (h : i ∈ l.bindings) :
    l.without false i = { l with bindings := l.bindings.filter (fun n => decide (n ≠ i)), dropped := true } := by
  rw [Launch.without, if_neg (by simp), if_pos (by simp [h])]

/-! ## UNBIND leaves the LAUNCHes as they are without its object -/

theorem State.Ends.kiln {t : State} (h : s.Ends t) : t.kiln = s.kiln := by
  obtain ⟨_, _, _, _, _, _, _, _, _, rfl⟩ := h
  rfl

theorem State.leaveSwaps_kiln (n : Nat) (s : State) : (s.leaveSwaps n).kiln = s.kiln := by
  refine List.foldlRecOn (motive := fun t : State => t.kiln = s.kiln) _ _ rfl ?_
  rintro t ht k -
  split
  · dsimp only
    split
    · exact (State.complete_ends ..).kiln.trans ht
    · exact ht
  · exact ht

theorem State.unbindSlot_kiln (n : Nat) (c : Cause) (s : State) : (s.unbindSlot n c).kiln = s.kiln := by
  unfold State.unbindSlot State.slotUnbound
  split
  · rfl
  · obtain ⟨f, j, e, h⟩ := State.journalAt_noted s.now c (objTarget 0x10 n) none none ((s.dropSlot n).leaveSwaps n)
    have hd : (s.dropSlot n).kiln = s.kiln := by
      unfold State.dropSlot
      dsimp only
      split <;> rfl
    rw [h]
    exact (State.leaveSwaps_kiln n _).trans hd

theorem State.unbind_slot_launches {o : Outst} (h : fld o.pkt.hdr.w0 0 4 = 0) :
    (s.unbind o).kiln.launches = (s.leaveLaunch true (fld o.pkt.hdr.w0 8 16)).kiln.launches := by
  rw [State.unbind_slot h, (State.complete_ends ..).kiln, State.unbindSlot_kiln]

theorem State.unbind_binding_launches {o : Outst} (h : fld o.pkt.hdr.w0 0 4 = 1) :
    (s.unbind o).kiln.launches = (s.leaveLaunch false (fld o.pkt.hdr.w0 8 16)).kiln.launches := by
  simp only [State.unbind, unbindKind, h]
  obtain h | ⟨v, h⟩ := (s.leaveLaunch false (unbindIx o.pkt)).updBinding_eq_self_or_set (unbindIx o.pkt)
    (fun v => { v with unbindAt := some (o.accept, s.causeOf o.pkt.q o.seq) })
  · rw [h]; rfl
  · rw [h]; rfl

end

end Sys2Proof.Machine

open Sys2Proof Sys2Proof.Machine

/-- Settles O41: a LAUNCH that is due, what its bindings and slots have then, and what a LAUNCH is without an object that is unbound. -/
theorem launchAtItsCount : Obligations.LaunchAtItsCount := by
  unfold Obligations.LaunchAtItsCount
  refine fun s q sq => ⟨fun h => congrArg _ (State.launchCount_none h),
    fun l hl => ⟨fun ht => congrArg _ (State.launchCount_early hl ht), fun ht => ?_⟩, fun sl i l hl hi => ?_, fun h pl hb => ?_⟩
  · intro t t' t'' c u
    obtain ⟨hbind, harmed, hother⟩ := State.launchedAll_objects (q := q) (sq := sq) ht c
    exact ⟨congrArg _ (State.launchCount_due hl ht),
      fun b v hb hv => by
        have := hbind b
        rw [if_pos hb, hv] at this
        exact this,
      fun b hb => (hbind b).trans (if_neg hb), harmed, hother⟩
  · refine ⟨l.without sl i, State.without_mem hl, ?_⟩
    cases sl with
    | true => rw [Launch.without_slot hi]; exact ⟨rfl, rfl, rfl, rfl, rfl, rfl⟩
    | false => rw [Launch.without_binding hi]; exact ⟨rfl, rfl, rfl, rfl, rfl, rfl⟩
  · have w0 : (s.outOf (packet 0x1002 h pl)).pkt.hdr.w0 = h.w0 := State.outOf_w0 _ _
    refine ⟨fun hk => ⟨_, exec_unbind hb, ?_⟩, fun hk => ⟨_, exec_unbind hb, ?_⟩⟩
    · rw [State.unbind_slot_launches (by rw [w0]; exact hk), w0]
    · rw [State.unbind_binding_launches (by rw [w0]; exact hk), w0]
end


section
/-!
PROOFS. The counter, its servo, steps, holdover, PPS_IN and the lock of the twin (12 R400 to R409; 01 R34).
-/

set_option Elab.async false

namespace Sys2Proof.Machine

open Sys2Proof

/-! ## The counter (12 R400) -/

theorem tickBy_sum {sec ns frac inc : Nat} (hn : ns < 1000000000) (hf : frac < 2 ^ 32) (hi : inc < 2 ^ 33) :
    ((tickBy sec ns frac inc).1 * 1000000000 + (tickBy sec ns frac inc).2.1) * 2 ^ 32 + (tickBy sec ns frac inc).2.2 =
      (sec * 1000000000 + ns) * 2 ^ 32 + frac + inc ∧
    (tickBy sec ns frac inc).1 ≤ sec + 1 ∧ (tickBy sec ns frac inc).2.1 < 1000000000 ∧ (tickBy sec ns frac inc).2.2 < 2 ^ 32 := by
  unfold tickBy
  dsimp only
  split
  case isTrue h => dsimp only; omega
  case isFalse h => dsimp only; omega

theorem Timebase.tick_sum {b : Timebase} (hn : b.ns.toNat < 1000000000) (hi : b.inc.toNat < 2 ^ 33) (hs : b.sec.toNat + 1 < 2 ^ 48) :
    (b.tick.sec.toNat * 1000000000 + b.tick.ns.toNat) * 2 ^ 32 + b.tick.frac.toNat =
      (b.sec.toNat * 1000000000 + b.ns.toNat) * 2 ^ 32 + b.frac.toNat + b.inc.toNat ∧ b.tick.ns.toNat < 1000000000 := by
  obtain ⟨hsum, hsec, hns, hfrac⟩ := tickBy_sum (sec := b.sec.toNat) hn b.frac.isLt hi
  unfold Timebase.tick
  dsimp only
  rw [BitVec.toNat_ofNat, BitVec.toNat_ofNat, BitVec.toNat_ofNat, Nat.mod_eq_of_lt (by omega), Nat.mod_eq_of_lt (by omega), Nat.mod_eq_of_lt hfrac]
  exact ⟨hsum, hns⟩

/-! ## A tick of a quiet device -/

/-- What the event counters count, without their counts. -/
def State.sels (s : State) : List W64 := s.evc.map (·.2.sel)

/-- A tick that only moves the counter, the carriers and the flits of the twin link. -/
def State.Ticked (s t : State) : Prop :=
  (∃ p v e f u, t = { s with pairs := p, twin := v, evc := e, freeIx := f, usb := u }) ∧ t.sels = s.sels

theorem State.Ticked.rfl (s : State) : s.Ticked s := ⟨⟨s.pairs, s.twin, s.evc, s.freeIx, s.usb, Eq.refl _⟩, Eq.refl _⟩

theorem State.Ticked.trans {s t u : State} (h : s.Ticked t) (k : t.Ticked u) : s.Ticked u := by
  obtain ⟨⟨_, _, _, _, _, rfl⟩, hs⟩ := h
  obtain ⟨⟨p, v, e, f, x, rfl⟩, ks⟩ := k
  exact ⟨⟨p, v, e, f, x, Eq.refl _⟩, ks.trans hs⟩

theorem State.event_sels (ev inst n : Nat) (s : State) : (s.event ev inst n).sels = s.sels := by
  unfold State.event
  split
  · exact Eq.refl _
  · show List.map _ (List.map _ s.evc) = List.map _ s.evc
    rw [List.map_map]
    refine List.map_congr_left fun e _ => ?_
    dsimp only [Function.comp]
    split <;> exact Eq.refl _

theorem State.event_ticked (ev inst n : Nat) (s : State) : s.Ticked (s.event ev inst n) := by
  refine ⟨?_, State.event_sels ..⟩
  obtain ⟨e, h⟩ := State.event_eq ev inst n s
  exact ⟨s.pairs, s.twin, e, s.freeIx, s.usb, h⟩

theorem State.setTwin_ticked (v : Twin) (s : State) : s.Ticked (s.setTwin v) := ⟨⟨s.pairs, v, s.evc, s.freeIx, s.usb, rfl⟩, rfl⟩

theorem State.setPair_ticked (n : Nat) (y : Pair) (s : State) : s.Ticked (s.setPair n y) := ⟨⟨_, s.twin, s.evc, s.freeIx, s.usb, rfl⟩, rfl⟩

/-- The carriers move pairs and count swallowed edges; the twin is as it was. -/
theorem State.runPairs_ticked (a b : Nat) (s : State) : s.Ticked (s.runPairs a b) ∧ (s.runPairs a b).twin = s.twin := by
  refine List.foldlRecOn (motive := fun t : State => s.Ticked t ∧ t.twin = s.twin) _ _ ⟨.rfl s, rfl⟩ ?_
  rintro t ⟨ht, hv⟩ e -
  dsimp only
  generalize (if t.pwmRuns e.1 then e.2.run a b else e.2) = y
  split
  · exact ⟨ht, hv⟩
  · split
    · exact ⟨ht.trans ((t.setPair_ticked e.1 y).trans (State.event_ticked ..)), (State.event_twin ..).trans hv⟩
    · exact ⟨ht.trans (t.setPair_ticked e.1 y), hv⟩

theorem State.interlock_of_none {s : State} (h : s.twin.bothHighAt = none) : s.interlock = s := by
  have hc : s.pinConflict = false := by
    rw [State.pinConflict, h]
    exact Bool.and_false _
  rw [State.interlock, hc]
  rfl

theorem State.raisePin_ticked (s : State) : s.Ticked s.raisePin := by
  unfold State.raisePin
  dsimp only
  split
  · exact s.setTwin_ticked _
  · exact .rfl s

theorem State.sendFlit_ticked (cls : Nat) (bytes : List Byte) (s : State) : s.Ticked (s.sendFlit cls bytes) :=
  (s.setTwin_ticked _).trans (State.event_ticked ..)

theorem State.messageBytes_ticked (m : TwinOut) (s : State) : s.Ticked (s.messageBytes m).2 := by
  unfold State.messageBytes
  split
  case h_3 => exact ⟨⟨s.pairs, s.twin, s.evc, s.freeIx + 1, s.usb, rfl⟩, rfl⟩
  all_goals exact .rfl s

theorem State.pump_ticked (s : State) : s.Ticked s.pump := by
  unfold State.pump
  dsimp only
  split
  · exact .rfl s
  · split
    · exact s.setTwin_ticked _
    · split
      · exact s.setTwin_ticked _
      · split
        · exact (s.setTwin_ticked _).trans ((State.messageBytes_ticked ..).trans (State.sendFlit_ticked ..))
        · exact State.sendFlit_ticked ..

theorem State.streamsOn_ticked (s : State) : s.Ticked s.streamsOn := by
  unfold State.streamsOn
  split
  · exact .rfl s
  · exact ⟨⟨s.pairs, s.twin, s.evc, s.freeIx + 1, _, rfl⟩, rfl⟩

theorem State.witDrain_idle {s : State} (h : s.wit.buffer = [] ∨ s.wit.outputs = 0) : s.witDrain = s := by
  unfold State.witDrain
  split
  · rfl
  next e rest hb =>
    obtain h | h := h
    · exact nomatch hb.symm.trans h
    · rw [h]; rfl

theorem State.portNext_idle {p : Nat} {s : State} (h : (s.port p).wait = []) : s.portNext p = s := by
  unfold State.portNext
  dsimp only
  rw [h]
  rfl

theorem State.clockSteps_idle {s : State} (h : s.kiln.stepsDue = []) : s.clockSteps = s := by
  unfold State.clockSteps
  dsimp only
  rw [h]
  rfl

theorem State.failures_idle {s : State} (hl : s.hbm.losing = false) (hf : ∀ e ∈ s.tiles, e.2.failing = false) : s.failures = s := by
  have hnone : s.tiles.filter (fun e => e.2.failing && !e.2.failed) = [] :=
    List.filter_eq_nil_iff.mpr fun e he => by rw [hf e he]; nofun
  rw [State.failures, hnone, List.foldl_nil, State.loseNow, hl]
  rfl

theorem State.countCycles_idle {a b : Nat} {s : State} (h : ∀ p, p < 68 → s.countsCycles p = false) : s.countCycles a b = s := by
  have hnone : (List.range 68).filter (fun p => s.countsCycles p) = [] :=
    List.filter_eq_nil_iff.mpr fun p hp => by rw [h p (List.mem_range.mp hp)]; nofun
  rw [State.countCycles, hnone, List.foldl_nil]

theorem State.countsCycles_eq (p : Nat) (s : State) :
    s.countsCycles p = ((s.tile p).evc.any (fun e => bit e.2.sel 8 && cycleEvents.contains (fld e.2.sel 0 8)) ||
      s.sels.any (fun x => bit x 10 && cycleEvents.contains (fld x 0 10))) := by
  rw [State.countsCycles, State.sels, List.any_map]
  rfl

theorem State.Ticked.countsCycles {s t : State} (h : s.Ticked t) (p : Nat) : t.countsCycles p = s.countsCycles p := by
  obtain ⟨⟨_, _, _, _, _, rfl⟩, hs⟩ := h
  rw [State.countsCycles_eq, State.countsCycles_eq, hs]
  rfl

theorem State.Ticked.keeps {s t : State} (h : s.Ticked t) :
    t.wit = s.wit ∧ t.kiln = s.kiln ∧ t.hbm = s.hbm ∧ t.tiles = s.tiles ∧ (∀ p, t.port p = s.port p) := by
  obtain ⟨⟨_, _, _, _, _, rfl⟩, -⟩ := h
  exact ⟨Eq.refl _, Eq.refl _, Eq.refl _, Eq.refl _, fun _ => Eq.refl _⟩

/-- The counter and the shadow counter of a replay after one tick. -/
def State.counted (s : State) : State := s.setTb { s.tb.tick with shadow := s.tb.shadow.map ShadowCtr.tick }

theorem State.tick_held {s : State} (hr : s.mg.inReset = true) (hc : s.mg.resetCause = 0) : s.tick = s := by
  rw [State.tick, hr, hc]
  rfl

/-- Nothing but the counter, the carriers and the link moves where nothing waits. -/
theorem State.tick_quiet {s : State} (hr : s.mg.inReset = false ∨ s.mg.resetCause ≠ 0) (hboth : s.twin.bothHighAt = none)
    (hsteps : s.kiln.stepsDue = []) (hwit : s.wit.buffer = [] ∨ s.wit.outputs = 0) (hp0 : (s.port 0).wait = []) (hp1 : (s.port 1).wait = []) (hlose : s.hbm.losing = false)
    (hfail : ∀ e ∈ s.tiles, e.2.failing = false) (hcyc : ∀ p, p < 68 → s.countsCycles p = false) : s.counted.Ticked s.tick := by
  have hrun : (s.mg.inReset && decide (s.mg.resetCause = 0)) = false := by
    obtain h | h := hr
    · rw [h]; rfl
    · rw [decide_eq_false h]; exact Bool.and_false _
  unfold State.tick
  rw [hrun]
  dsimp only [Bool.false_eq_true, if_false]
  obtain ⟨hr, htw⟩ := State.runPairs_ticked s.tb.steps12 (Timebase.steps12 { s.tb.tick with shadow := s.tb.shadow.map ShadowCtr.tick }) s.counted
  have hlock := State.interlock_of_none (congrArg Twin.bothHighAt htw |>.trans hboth)
  have hpin := hr.trans (State.raisePin_ticked _)
  have hdrain := State.witDrain_idle (s := State.raisePin _) (by rw [hpin.keeps.1]; exact hwit)
  have hpump := hpin.trans (State.pump_ticked _)
  obtain ⟨-, hkiln, -, -, hport⟩ := hpump.keeps
  have hsteps' := State.clockSteps_idle (s := State.pump _) (by rw [hkiln]; exact hsteps)
  have hnext0 := State.portNext_idle (p := 0) (s := State.pump _) (by rw [hport]; exact hp0)
  have hnext1 := State.portNext_idle (p := 1) (s := State.pump _) (by rw [hport]; exact hp1)
  have hstream := hpump.trans (State.streamsOn_ticked _)
  obtain ⟨-, -, hhbm, htiles, -⟩ := hstream.keeps
  have hfailed := State.failures_idle (s := State.streamsOn _) (by rw [hhbm]; exact hlose) (by rw [htiles]; exact hfail)
  rw [State.counted] at *
  rw [hlock, hdrain, hnext0, hnext1, hsteps', hfailed, State.countCycles_idle fun p hp => (hstream.countsCycles p).trans (hcyc p hp)]
  exact hstream

/-! ## The servo (12 R407, R425) -/

theorem Timebase.ready_of_no_preset {b : Timebase} (h : b.preset = false) : b.ready = { b with servo := b.written, servoNext := none } := by
  unfold Timebase.ready
  dsimp only
  rw [h]
  rfl

theorem Timebase.ready_of_preset {b : Timebase} (h : b.preset = true) :
    b.ready = { b with servo := b.written, servoNext := none, preset := false,
                       acc := ({ b with servo := b.written, servoNext := none } : Timebase).presetAcc } := by
  unfold Timebase.ready
  dsimp only
  rw [h]
  rfl

theorem Timebase.ready_servo (b : Timebase) : b.ready.servo = b.written ∧ b.ready.servoNext = none ∧ b.ready.preset = false := by
  cases h : b.preset with
  | false => rw [b.ready_of_no_preset h]; exact ⟨rfl, rfl, h⟩
  | true => rw [b.ready_of_preset h]; exact ⟨rfl, rfl, rfl⟩

/-- The accumulator that a resumption left open takes its preset under the gains of this update. -/
theorem Timebase.ready_acc {b : Timebase} (h : b.preset = true) (hk : b.ready.ki ≠ 0) :
    b.ready.acc = tdiv ((incNominal - (b.inc.toNat : Int)) * 2 ^ 24) b.ready.ki := by
  rw [b.ready_of_preset h] at hk ⊢
  exact if_neg hk

@[simp] theorem State.setInc_tb (v : W64) (s : State) : (s.setInc v).tb = { s.tb with inc := v, incHist := (v.toNat :: s.tb.incHist).take 16 } :=
  State.witness_tb ..

theorem State.servoUpdate_tb (theta : Int) (s : State) :
    (s.servoUpdate theta true).tb = { s.tb.ready with
      acc := (servoStep s.tb.ready theta).1, inc := i64 (servoStep s.tb.ready theta).2,
      incHist := ((i64 (servoStep s.tb.ready theta).2).toNat :: s.tb.ready.incHist).take 16 } := by
  unfold State.servoUpdate
  dsimp only
  rw [if_pos rfl, State.setInc_tb, State.event_tb]
  rfl

theorem State.servoUpdate_unapplied_tb (theta : Int) (s : State) :
    (s.servoUpdate theta false).tb.inc = s.tb.inc ∧ (s.servoUpdate theta false).tb.acc = s.tb.acc := by
  unfold State.servoUpdate
  dsimp only
  rw [if_neg nofun, State.event_tb]
  exact ⟨rfl, rfl⟩

/-! ## The lock of the twin (01 R34) -/

/-- The servo of a device that follows its twin, moved by an offset; `h` is the holdover that the device shows. -/
def State.followed (theta : Int) (h : Bool) (s : State) : State :=
  (({ s with freeIx := s.freeIx + 1 } : State).setTb { s.tb with theta := theta, lastOffset := s.up, holdover := h }).servoUpdate theta true

/-- The offset of one flit of the lock. -/
def State.lockOffset (egress arrival : Int) (s : State) : Int := arrival - (fld s.twin.dly 0 32 : Int) - egress - Config.twinDelay

section
variable {s : State} {e a : Int}

theorem State.twinLock_ignored {r : Bool} (h : r = true ∨ (s.twin.role ≠ .standby ∧ s.joining = false)) : s.twinLock e a r = s := by
  refine if_pos (h.imp id fun h => ?_)
  rw [decide_eq_false h.1, h.2]
  rfl

theorem State.twinLock_standby (h : s.twin.role = .standby) :
    s.twinLock e a false =
      (if Config.peerFree s.freeIx = s.tb.holdover then s.followed (s.lockOffset e a) (Config.peerFree s.freeIx)
       else timeEvent (if Config.peerFree s.freeIx then 1 else 2) (s.followed (s.lockOffset e a) (Config.peerFree s.freeIx))) := by
  unfold State.twinLock
  dsimp only
  rw [decide_eq_true h]
  rfl

theorem State.twinLock_joining (h : s.twin.role ≠ .standby) (hj : s.joining = true) :
    s.twinLock e a false =
      (if (s.lockOffset e a).natAbs ≤ 131072 then (s.followed (s.lockOffset e a) s.tb.holdover).enterBulk
       else s.followed (s.lockOffset e a) s.tb.holdover) := by
  unfold State.twinLock
  dsimp only
  rw [decide_eq_false h, hj]
  simp only [Bool.false_or, Bool.not_true, Bool.false_eq_true, or_self, if_false, if_true, Bool.not_false, Bool.true_and, decide_eq_true_eq]
  rfl

end

/-! ## Steps (12 R403, R404) -/

@[simp] theorem State.journalDev_tb (cls ix : Nat) (s : State) : (s.journalDev cls ix).tb = s.tb := by
  obtain ⟨f, j, e, h⟩ := State.journalNow_noted byDevice (objTarget cls ix) none none s
  rw [State.journalDev, h]
  rfl

theorem State.stepTo_tb (v : Nat) (s : State) : ∃ d, (s.stepTo v).tb =
    { s.tb with sec := BitVec.ofNat 48 (v / 2 ^ 32 / 1000000000), ns := BitVec.ofNat 30 (v / 2 ^ 32 % 1000000000), frac := BitVec.ofNat 32 v,
                steps := satAdd s.tb.steps 1, stepped := d } :=
  ⟨_, (State.journalDev_tb ..).trans (State.event_tb ..)⟩

theorem State.stepBack_tb (theta : Int) (s : State) (v : Int) (hv : v = (s.now * 2 ^ 32 + s.tb.frac.toNat : Nat) - theta * 65536) :
    let t := s.stepBack theta
    t.tb.timescale = true ∧ t.tb.stepWait = false ∧ t.tb.steps = satAdd s.tb.steps 1 ∧
      (0 ≤ v → v < 2 ^ 48 * 1000000000 * 2 ^ 32 → ((t.now * 2 ^ 32 + t.tb.frac.toNat : Nat) : Int) = v) := by
  intro t
  obtain ⟨d, hd⟩ := s.stepTo_tb v.toNat
  have ht : t.tb = { (s.stepTo v.toNat).tb with timescale := true, stepWait := false } := by subst hv; rfl
  rw [hd] at ht
  refine ⟨by rw [ht], by rw [ht], by rw [ht], fun h0 h1 => ?_⟩
  have hnow : t.now = t.tb.sec.toNat * 1000000000 + t.tb.ns.toNat := rfl
  rw [hnow, ht]
  dsimp only
  rw [BitVec.toNat_ofNat, BitVec.toNat_ofNat, BitVec.toNat_ofNat]
  omega

/-! ## Holdover (12 R409) -/

theorem timeEvent_tb (code : Nat) (s : State) : (timeEvent code s).tb = s.tb := State.witness_tb ..

/-- The timebase as holdover begins; the increment is the mean of the last ones, where there are any. -/
def Timebase.held (b : Timebase) : Timebase :=
  { b.takeWrite with modeEff := 2, holdover := true, holdovers := satAdd b.holdovers 1, validRun := 0, qualified := false }

theorem State.enterHoldover_tb {s : State} (hm : s.tb.modeCfg = 0) (hh : s.tb.holdover = false) (hr : s.twin.role ≠ .standby)
    (hw : s.wit.mode ≠ .replay) :
    s.enterHoldover.tb =
      (if s.tb.incHist.isEmpty then s.setTb s.tb.held
       else (s.setTb s.tb.held).setInc (BitVec.ofNat 64 ((2 * s.tb.incHist.sum + s.tb.incHist.length) / (2 * s.tb.incHist.length)))).tb := by
  have hgo : ¬ (s.tb.modeCfg ≠ 0 ∨ s.tb.holdover = true ∨ s.twin.role = .standby ∨ s.wit.mode = .replay) := by
    rintro (h | h | h | h)
    · exact h hm
    · exact nomatch hh.symm.trans h
    · exact hr h
    · exact hw h
  rw [State.enterHoldover, if_neg hgo]
  dsimp only
  rw [timeEvent_tb, State.journalDev_tb, State.event_tb]
  rfl

theorem State.enterHoldover_idle {s : State} (h : s.twin.role = .standby ∨ s.wit.mode = .replay ∨ s.tb.modeCfg ≠ 0 ∨ s.tb.holdover = true) :
    s.enterHoldover = s := by
  refine if_pos ?_
  obtain h | h | h | h := h
  · exact .inr (.inr (.inl h))
  · exact .inr (.inr (.inr h))
  · exact .inl h
  · exact .inr (.inl h)

end Sys2Proof.Machine

open Sys2Proof Sys2Proof.Machine

/-- Settles O48: the sum of a tick, the tick of a quiet device, the servo and the lock of the twin, a step, holdover and PPS_IN. -/
theorem timebaseEvents : Obligations.TimebaseEvents := by
  unfold Obligations.TimebaseEvents
  refine ⟨fun b => Timebase.tick_sum, fun s => ⟨fun hr hc => congrArg Host.Outcome.next (State.tick_held hr hc), fun hr => ⟨_, rfl, ?_⟩⟩, fun s theta => ?_, fun s => ?_,
    fun s => ?_, fun s => ?_⟩
  · intro hboth hsteps hwit hp0 hp1 hlose hfail hcyc
    obtain ⟨⟨_, _, _, _, _, h⟩, -⟩ := State.tick_quiet hr hboth hsteps hwit hp0 hp1 hlose hfail hcyc
    rw [h]
    exact ⟨rfl, rfl, rfl, rfl, rfl⟩
  · obtain ⟨hservo, hnext, hpreset⟩ := s.tb.ready_servo
    obtain ⟨hinc, hacc⟩ := s.servoUpdate_unapplied_tb theta
    have ht := s.servoUpdate_tb theta
    refine ⟨Timebase.ready_of_no_preset, Timebase.ready_acc, ?_⟩
    refine ⟨by rw [ht]; rfl, by rw [ht]; rfl, by rw [ht]; exact hservo, by rw [ht]; exact hnext, by rw [ht]; exact hpreset, hinc, hacc, fun e a r => ?_⟩
    refine ⟨fun h => congrArg Host.Outcome.next (State.twinLock_ignored h), fun hs heq => congrArg Host.Outcome.next ?_,
      fun hs hne => congrArg Host.Outcome.next ?_,
      fun hs hj => ⟨fun hb => congrArg Host.Outcome.next ?_, fun hb => congrArg Host.Outcome.next ?_⟩⟩
    · exact (State.twinLock_standby hs).trans (if_pos heq)
    · exact (State.twinLock_standby hs).trans (if_neg hne)
    · exact (State.twinLock_joining hs hj).trans (if_neg (Nat.not_le.mpr hb))
    · exact (State.twinLock_joining hs hj).trans (if_pos hb)
  · refine ⟨fun h => congrArg Host.Outcome.next (if_neg ?_), fun h1 h2 h3 => ⟨_, congrArg Host.Outcome.next (if_pos ?_),
      s.stepBack_tb s.tb.theta _ rfl⟩⟩
    · obtain h | h | h := h <;> simp [h]
    · rw [h1, h2, h3]; rfl
  · refine ⟨fun h => ?_, fun hl hr hw hm hh => ⟨_, congrArg Host.Outcome.next (if_pos ⟨hl, hr, hw⟩), ?_⟩⟩
    · obtain h | h := h
      · exact congrArg Host.Outcome.next (if_neg fun k => Nat.not_le.mpr h k.1)
      · refine congrArg Host.Outcome.next ?_
        rw [State.enterHoldover_idle h]
        exact ite_self _
    · have ht := State.enterHoldover_tb hm hh hr hw
      by_cases hist : s.tb.incHist = []
      · rw [hist, List.isEmpty_nil, if_pos rfl] at ht
        rw [State.now, ht]
        exact ⟨rfl, rfl, rfl, rfl, fun _ => rfl, fun h => absurd hist h⟩
      · rw [if_neg (by rwa [List.isEmpty_iff]), State.setInc_tb] at ht
        rw [State.now, ht]
        exact ⟨rfl, rfl, rfl, rfl, fun h => absurd h hist, fun _ => rfl⟩
  · refine ⟨fun h => congrArg Host.Outcome.next (if_neg fun k => ?_), fun h1 h2 => ⟨fun hn => ?_, fun hn => ?_⟩⟩
    · exact h.elim (fun h => h k.1) k.2
    · refine congrArg Host.Outcome.next ((if_pos ⟨h1, h2⟩).trans ?_)
      rw [if_neg (Nat.not_le.mpr hn)]
    · refine congrArg Host.Outcome.next ((if_pos ⟨h1, h2⟩).trans ?_)
      rw [if_pos hn]
end


section
/-!
PROOFS. PTP messages and Ethernet frames, and the transparent clock (12 R406, R411; 16 R524 to R531).
-/

set_option Elab.async false

namespace Sys2Proof.Machine

open Sys2Proof

/-! ## Ports -/

@[simp] theorem State.event_port (ev inst n : Nat) (s : State) (p : Nat) : (s.event ev inst n).port p = s.port p := by
  obtain ⟨e, h⟩ := State.event_eq ev inst n s
  rw [h]
  rfl

theorem State.witness_port (typ src stamp : Nat) (pl : List Byte) (s : State) (p : Nat) : (s.witness typ src stamp pl).port p = s.port p := by
  obtain ⟨w, e, h⟩ := State.witness_eq typ src stamp pl s
  rw [h]
  rfl

theorem State.send_tb (p : Nat) (o : EthOut) (s : State) : (s.send p o).tb = s.tb := by
  obtain ⟨x, e, h⟩ := s.send_withEth p o
  rw [h]
  rfl

theorem State.depart_port (p : Nat) (o : EthOut) (s : State) : (s.depart p o).port p = { s.port p with
    out := (s.port p).out ++ [o], wire := (s.port p).wire ++ [(s.port p).bytesOf o],
    busy := s.up + (s.port p).frameNs ((s.port p).bytesOf o).length } :=
  (State.event_port ..).trans (State.setPort_port ..)

section
variable {s u : State} {p : Nat} {m : PtpMsg} {o : EthOut}

/-! ## Sending (16 R526) -/

theorem State.send_disabled (h : bit (s.port p).ctl 0 = false) : s.send p o = s := by
  unfold State.send
  dsimp only
  rw [h]
  rfl

theorem State.send_free (h : bit (s.port p).ctl 0 = true) (hw : (s.port p).wait = []) (hb : (s.port p).busy ≤ s.up) : s.send p o = s.depart p o := by
  unfold State.send
  dsimp only
  rw [h, hw, decide_eq_true hb]
  rfl

theorem State.send_busy (h : bit (s.port p).ctl 0 = true) (hb : (s.port p).wait ≠ [] ∨ s.up < (s.port p).busy) :
    s.send p o = s.setPort p { s.port p with wait := (s.port p).wait ++ [o] } := by
  have hgo : ((s.port p).wait.isEmpty && decide ((s.port p).busy ≤ s.up)) = false := by
    obtain h | h := hb
    · rw [Bool.eq_false_iff.mpr (mt List.isEmpty_iff.mp h)]
      rfl
    · rw [decide_eq_false (Nat.not_le.mpr h)]
      exact Bool.and_false _
  unfold State.send
  dsimp only
  rw [h, hgo]
  rfl

/-- What a frame that is sent leaves of its port as it was. -/
theorem State.send_port (p : Nat) (o : EthOut) (s : State) :
    ((s.send p o).port p).seqId = (s.port p).seqId ∧ ((s.send p o).port p).reqAt = (s.port p).reqAt := by
  unfold State.send
  dsimp only
  split
  · exact ⟨rfl, rfl⟩
  · split
    · rw [State.depart_port]
      exact ⟨rfl, rfl⟩
    · rw [State.setPort_port]
      exact ⟨rfl, rfl⟩

/-! ## A message that the port takes (16 R527; 01 R36) -/

/-- A message taken is counted and recorded. -/
def State.ptpTaken (p : Nat) (m : PtpMsg) (s : State) : State :=
  (((s.setPort p { s.port p with rxPtp := satAdd (s.port p).rxPtp 1 }).event 0x283 (p + 1) 1).event 0x280 (p + 1) 1).ptpRecord p m

theorem State.ptpTake_some (hon : (s.port p).ptpOn = true) (hd : m.domain = fld (s.port p).ctl 40 8) (hw : s.wit.mode ≠ .replay) :
    s.ptpTake p m = some (s.ptpTaken p m) := by
  unfold State.ptpTake
  dsimp only
  rw [hon, decide_eq_false (not_not_intro hd), if_neg nofun, if_neg hw]
  rfl

theorem State.ptpTaken_tb (p : Nat) (m : PtpMsg) (s : State) : (s.ptpTaken p m).tb = s.tb := by
  rw [State.ptpTaken, State.ptpRecord, State.witness_tb, State.event_tb, State.event_tb]
  rfl

theorem State.ptpTaken_port (p : Nat) (m : PtpMsg) (s : State) :
    (s.ptpTaken p m).port p = { s.port p with rxPtp := satAdd (s.port p).rxPtp 1 } := by
  rw [State.ptpTaken, State.ptpRecord, State.witness_port, State.event_port, State.event_port, State.setPort_port]

theorem State.ptpTake_none (h : (s.port p).ptpOn = false ∨ m.domain ≠ fld (s.port p).ctl 40 8 ∨ s.wit.mode = .replay) : s.ptpTake p m = none := by
  unfold State.ptpTake
  dsimp only
  split
  · rfl
  next hgo =>
    rw [Bool.or_eq_true, not_or] at hgo
    obtain ⟨hon, hd⟩ := hgo
    obtain h | h | h := h
    · exact absurd (by rw [h]; rfl) hon
    · exact absurd (decide_eq_true h) hd
    · exact if_pos h

theorem State.ptpDrop_eq (p : Nat) (m : PtpMsg) (s : State) : s.ptpDrop p m =
    if (s.port p).ptpOn = false then s
    else if s.wit.mode = .replay then s.setPort p { s.port p with rxDropped := satAdd (s.port p).rxDropped 1 } else s.ptpRecord p m := by
  unfold State.ptpDrop
  cases (s.port p).ptpOn <;> rfl

/-! ## Sync and Follow_Up (12 R406) -/

theorem State.ptpSync_none (h : s.ptpTake p m = none) : s.ptpSync p m = s.ptpDrop p m := by rw [State.ptpSync, h]

theorem State.ptpSync_other (h : s.ptpTake p m = some u) (hl : u.fromLeader p m = false) : s.ptpSync p m = u := by
  rw [State.ptpSync, h]
  dsimp only
  rw [hl]
  rfl

theorem State.ptpSync_leader (h : s.ptpTake p m = some u) (hl : u.fromLeader p m = true) :
    let t2 := m.ingress - (u.port p).rxDly
    let v := u.setTb { u.tb with syncIvl := logNs m.logInterval }
    s.ptpSync p m = if m.twoStep = true then v.setTb { v.tb with sync := some (p, { m with ingress := t2 }) }
      else v.syncOffset p (ptpTs m + m.correction) t2 := by
  rw [State.ptpSync, h]
  dsimp only
  rw [hl]
  rfl

theorem State.ptpFollowUp_none (h : s.ptpTake p m = none) : s.ptpFollowUp p m = s.ptpDrop p m := by rw [State.ptpFollowUp, h]

theorem State.ptpFollowUp_idle (h : s.ptpTake p m = some u) (hs : u.tb.sync = none) : s.ptpFollowUp p m = u := by
  rw [State.ptpFollowUp, h]
  dsimp only
  rw [hs]

theorem State.ptpFollowUp_waiting {q : Nat} {y : PtpMsg} (h : s.ptpTake p m = some u) (hs : u.tb.sync = some (q, y)) :
    s.ptpFollowUp p m =
      if q = p ∧ y.clockId = m.clockId ∧ y.portNum = m.portNum ∧ y.seqId = m.seqId ∧ u.fromLeader p m = true then
        u.syncOffset p (ptpTs m + m.correction + y.correction) y.ingress
      else u := by
  rw [State.ptpFollowUp, h]
  dsimp only
  rw [hs]

/-! ## Delay_Resp (12 R406) -/

theorem State.ptpDelayResp_none (h : s.ptpTake p m = none) : s.ptpDelayResp p m = s.ptpDrop p m := by rw [State.ptpDelayResp, h]

theorem State.ptpDelayResp_idle (h : s.ptpTake p m = some u)
    (hn : u.tb.lastSync = none ∨ u.tb.delayReq.find? (fun x => decide (x.1 = p ∧ x.2.1 = m.seqId)) = none) : s.ptpDelayResp p m = u := by
  rw [State.ptpDelayResp, h]
  dsimp only
  split
  next hl hf => exact hn.elim (fun h => nomatch hl.symm.trans h) (fun h => nomatch hf.symm.trans h)
  next => rfl

/-- The delay that a Delay_Resp gives joins the last eight, whose mean is the path delay. -/
theorem State.ptpDelayResp_measured {t1 t2 : Int} {x : Nat × BitVec 16 × Int} (h : s.ptpTake p m = some u) (hl : u.tb.lastSync = some (p, t1, t2))
    (hf : u.tb.delayReq.find? (fun x => decide (x.1 = p ∧ x.2.1 = m.seqId)) = some x) (hc : m.reqClockId = (u.port p).clockId)
    (hlead : u.fromLeader p m = true) :
    let ds := (tdiv ((t2 - t1) + (ptpTs m - x.2.2 - m.correction)) 2 :: u.tb.delays).take 8
    s.ptpDelayResp p m = u.setTb { u.tb with delays := ds, pd := tdiv ds.sum ds.length, reqIvl := logNs m.logInterval,
                                             delayReq := u.tb.delayReq.filter (fun e => decide ¬ (e.1 = p ∧ e.2.1 = m.seqId)) } := by
  rw [State.ptpDelayResp, h]
  dsimp only
  rw [hl, hf]
  exact if_pos ⟨rfl, hc, hlead⟩

/-! ## Announce (16 R528) -/

theorem State.ptpAnnounce_none (h : s.ptpTake p m = none) : s.ptpAnnounce p m = s.ptpDrop p m := by rw [State.ptpAnnounce, h]

/-- The leader of a message, as one of those that have been heard. -/
def sameLeader (p : Nat) (m : PtpMsg) (f : Foreign) : Bool :=
  decide (f.port = p ∧ f.msg.clockId = m.clockId ∧ f.msg.portNum = m.portNum)

theorem State.ptpAnnounce_eq (h : s.ptpTake p m = some u) : s.ptpAnnounce p m =
    (u.setTb { u.tb with foreign :=
      { port := p, msg := m, heard := (u.up :: ((u.tb.foreign.find? (sameLeader p m)).map Foreign.heard).getD []).take 4 } ::
        u.tb.foreign.filter (fun g => !sameLeader p m g) }).selectLeader := by
  rw [State.ptpAnnounce, h]
  dsimp only
  unfold sameLeader
  split
  next hf => rw [hf]; rfl
  next hf => rw [hf]; rfl

/-! ## Delay_Req, and the messages of a leader (16 R529, R530) -/

theorem State.ptpDelayReq_none (h : s.ptpTake p m = none) : s.ptpDelayReq p m = s.ptpDrop p m := by rw [State.ptpDelayReq, h]

theorem State.ptpDelayReq_eq (h : s.ptpTake p m = some u) : s.ptpDelayReq p m =
    if (u.port p).ptpState = 3 then
      let t4 := m.ingress - (u.port p).rxDly
      u.send p (.ptp .delayResp m.seqId (ns16 t4).1 (ns16 t4).2 (m.correction - t4 % 65536) (some m))
    else u := by
  rw [State.ptpDelayReq, h]

/-- The follower as its Delay_Req is about to leave. -/
def State.delayReqReady (p : Nat) (s : State) : State :=
  (s.setTb { s.tb with delayReq := (p, (s.port p).seqId, s.egress p) :: s.tb.delayReq.take 7 }).setPort p
    { s.port p with seqId := (s.port p).seqId + 1, reqAt := some (s.up / s.tb.reqIvl) }

theorem State.delayReqOut_due (h : (s.port p).ptpState = 2) (hr : (s.port p).reqAt ≠ some (s.up / s.tb.reqIvl)) :
    s.delayReqOut p = (s.delayReqReady p).send p (.ptp .delayReq (s.port p).seqId 0 0 0 none) :=
  if_pos ⟨h, hr⟩

theorem State.delayReqOut_idle (h : (s.port p).ptpState ≠ 2 ∨ (s.port p).reqAt = some (s.up / s.tb.reqIvl)) : s.delayReqOut p = s :=
  if_neg fun k => h.elim (fun h => h k.1) k.2

theorem passed_early {c ivl now : Nat} (h : now < c + ivl) : passed (some c) ivl now = false := by
  simp only [passed, Option.all_some, decide_eq_false_iff_not, Nat.not_le, h]

/-! ## The transparent clock (12 R411; 16 R531) -/

/-- A PTP frame leaves on the other port with a correction. -/
def State.tcOut (p : Nat) (m : PtpMsg) (c : Int) (s : State) : State :=
  s.depart (1 - p) (.ptp m.kind m.seqId m.tsSec m.tsNs c (some { m with correction := c }))

/-- How long a frame has been in the device. -/
def State.residence (p : Nat) (m : PtpMsg) (g : Int) (s : State) : Int := (g + (s.port (1 - p)).txDly) - (m.ingress - (s.port p).rxDly)

variable {g : Int}

theorem State.tcForward_refused (h : s.tcOn = false ∨ s.wit.mode = .replay ∨ m.kind = .pdelay) : s.tcForward p m g = s := by
  unfold State.tcForward
  dsimp only
  split
  · rfl
  next hgo =>
    obtain ⟨hon, hw⟩ := not_or.mp hgo
    obtain h | h | h := h
    · exact absurd (by rw [h]; rfl) hon
    · exact absurd h hw
    · rw [h]

section
variable (hon : s.tcOn = true) (hw : s.wit.mode ≠ .replay)
include hon hw

theorem State.tc_runs : ¬ ((!s.tcOn) = true ∨ s.wit.mode = .replay) := by
  rw [hon]
  exact not_or.mpr ⟨nofun, hw⟩

theorem State.tcForward_corrected (hk : m.kind = .delayReq ∨ (m.kind = .sync ∧ m.twoStep = false)) :
    s.tcForward p m g = s.tcOut p m (m.correction + s.residence p m g) := by
  unfold State.tcForward
  rw [if_neg (State.tc_runs hon hw)]
  dsimp only
  obtain hk | ⟨hk, h1⟩ := hk
  · rw [State.tcOut, hk]
    rfl
  · rw [State.tcOut, hk, h1]
    rfl

theorem State.tcForward_held (hk : m.kind = .sync) (h2 : m.twoStep = true) (hr : (s.port p).residences.length < 16) :
    s.tcForward p m g = (s.setPort p { s.port p with
      residences := (s.port p).residences ++ [(m.clockId, m.portNum, m.seqId, s.residence p m g, s.up)] }).tcOut p m m.correction := by
  unfold State.tcForward State.updPort
  rw [if_neg (State.tc_runs hon hw)]
  dsimp only
  rw [State.tcOut, hk, h2, if_pos hr]
  rfl

theorem State.tcForward_followUp {r : BitVec 64 × BitVec 16 × BitVec 16 × Int × Nat} (hk : m.kind = .followUp)
    (hr : (s.port p).residences.find? (sameSync m) = some r) :
    s.tcForward p m g = (s.setPort p { s.port p with residences := (s.port p).residences.filter (fun x => !sameSync m x) }).tcOut p m
      (m.correction + r.2.2.2.1) := by
  unfold State.tcForward
  rw [if_neg (State.tc_runs hon hw)]
  dsimp only
  rw [State.tcOut, hk, hr]
  rfl

theorem State.tcForward_general (hk : m.kind = .delayResp ∨ m.kind = .announce ∨ m.kind = .signaling ∨ m.kind = .management) :
    s.tcForward p m g = s.tcOut p m m.correction := by
  unfold State.tcForward
  rw [if_neg (State.tc_runs hon hw)]
  dsimp only
  obtain hk | hk | hk | hk := hk <;> rw [State.tcOut, hk]

end

/-! ## Frames that no PTP command consumes (16 R525) -/

variable {fr : EthFrame}

/-- A frame is dropped and counted. -/
def State.frameDropped (p : Nat) (s : State) : State := (s.setPort p { s.port p with rxDropped := satAdd (s.port p).rxDropped 1 }).event 0x280 (p + 1) 1

theorem State.ethFrame_disabled (h : bit (s.port p).ctl 0 = false) : s.ethFrame p fr = s := by
  unfold State.ethFrame
  dsimp only
  rw [h]
  rfl

theorem State.ethFrame_fcs (h : bit (s.port p).ctl 0 = true) (hf : fr.fcsOk = false) :
    s.ethFrame p fr = (s.setPort p { s.port p with fcsErr := satAdd (s.port p).fcsErr 1 }).event 0x282 (p + 1) 1 := by
  unfold State.ethFrame
  dsimp only
  rw [h, hf]
  rfl

section
variable (h : bit (s.port p).ctl 0 = true) (hf : fr.fcsOk = true)
include h hf

theorem State.ethFrame_unconsumed (hc : (s.port p).consumes fr = false ∨ fr.ptp = none) : s.ethFrame p fr = s.frameDropped p := by
  unfold State.ethFrame
  dsimp only
  rw [h, hf, if_neg nofun, if_neg nofun]
  split
  next hc' hp => exact hc.elim (fun h => nomatch hc'.symm.trans h) (fun h => nomatch hp.symm.trans h)
  next => rfl

theorem State.ethFrame_consumed (hc : (s.port p).consumes fr = true) (hm : fr.ptp = some m) : s.ethFrame p fr =
    if m.kind = .pdelay ∨ m.kind = .signaling ∨ m.kind = .management then
      (if (s.port p).ptpOn = true then (s.frameDropped p).ptpRecord p m else s.frameDropped p)
    else s := by
  unfold State.ethFrame
  dsimp only
  rw [h, hf, hc, hm, if_neg nofun, if_neg nofun]
  dsimp only
  by_cases hk : m.kind = .pdelay ∨ m.kind = .signaling ∨ m.kind = .management
  · rw [if_pos hk]
    exact if_neg (by rw [decide_eq_true hk]; nofun)
  · rw [if_neg hk]
    exact if_pos (by rw [decide_eq_false hk]; rfl)

end

end

end Sys2Proof.Machine

open Sys2Proof Sys2Proof.Machine

/-- Settles O50, command by command: what a port takes, what each PTP message does, what leaves, the transparent clock and other frames. -/
theorem ptpAndEthernetEvents : Obligations.PtpAndEthernetEvents := by
  unfold Obligations.PtpAndEthernetEvents
  intro s p hp e
  have run : ∀ {t u : State}, t = u → within p 2 t = .next u := fun h => (within_of_lt hp _).trans (congrArg Host.Outcome.next h)
  refine ⟨fun m hon hd hw => ⟨_, State.ptpTake_some hon hd hw, State.ptpTaken_tb .., ?_, ?_⟩, fun m h => ?_, fun m u hu => ?_,
    fun h => run (State.delayReqOut_idle h), fun h hr => ?_, fun h => ?_, fun c hc ht => ?_, fun c hc ht => ?_, fun h => ?_, fun o => ?_, fun m g => ?_,
    fun sid sq => ?_, fun fr => ?_, fun link fec => run rfl⟩
  · rw [State.ptpTaken_port]
  · rw [State.ptpTaken_port]
  · have hn := State.ptpTake_none h
    exact ⟨hn, run ((State.ptpSync_none hn).trans (s.ptpDrop_eq p m)), run ((State.ptpFollowUp_none hn).trans (s.ptpDrop_eq p m)),
      run ((State.ptpDelayResp_none hn).trans (s.ptpDrop_eq p m)), run ((State.ptpAnnounce_none hn).trans (s.ptpDrop_eq p m)),
      run ((State.ptpDelayReq_none hn).trans (s.ptpDrop_eq p m))⟩
  · refine ⟨fun hl => run (State.ptpSync_other hu hl), fun hl => ?_, fun hs => run (State.ptpFollowUp_idle hu hs), fun q y hs => ?_,
      fun hn => run (State.ptpDelayResp_idle hu hn), fun t1 t2 x hl hf hc hlead => ?_, ?_, fun h => ?_, fun h => ?_⟩
    · exact ⟨fun h2 => run ((State.ptpSync_leader hu hl).trans (if_pos h2)),
        fun h1 => run ((State.ptpSync_leader hu hl).trans (if_neg (ne_true_of_eq_false h1)))⟩
    · refine ⟨fun hne => run ((State.ptpFollowUp_waiting hu hs).trans (if_neg ?_)),
        fun h1 h2 h3 h4 h5 => run ((State.ptpFollowUp_waiting hu hs).trans (if_pos ⟨h1, h2, h3, h4, h5⟩))⟩
      rintro ⟨h1, h2, h3, h4, h5⟩
      obtain h | h | h | h | h := hne
      · exact h h1
      · exact h h2
      · exact h h3
      · exact h h4
      · exact nomatch h5.symm.trans h
    · exact ⟨_, run (State.ptpDelayResp_measured hu hl hf hc hlead), rfl, rfl, rfl⟩
    · refine ⟨fun hf => run ((State.ptpAnnounce_eq hu).trans ?_), fun f hf => run ((State.ptpAnnounce_eq hu).trans ?_)⟩
      · have hf' : u.tb.foreign.find? (sameLeader p m) = none := hf
        rw [hf']
        rfl
      · have hf' : u.tb.foreign.find? (sameLeader p m) = some f := hf
        rw [hf']
        rfl
    · exact run ((State.ptpDelayReq_eq hu).trans (if_neg h))
    · exact run ((State.ptpDelayReq_eq hu).trans (if_pos h))
  · have hport : (s.delayReqReady p).port p = { e with seqId := e.seqId + 1, reqAt := some (s.up / s.tb.reqIvl) } := State.setPort_port ..
    refine ⟨_, run (State.delayReqOut_due h hr), ?_, fun hc hw hb => ?_, fun hc hb => ?_, ?_, ?_⟩
    · rw [State.send_tb]
      rfl
    · rw [State.send_free (by rw [hport]; exact hc) (by rw [hport]; exact hw) (by rw [hport]; exact hb), State.depart_port, hport]
      exact ⟨rfl, hw⟩
    · rw [State.send_busy (by rw [hport]; exact hc) (by rw [hport]; exact hb), State.setPort_port, hport]
      exact ⟨rfl, rfl⟩
    · rw [(State.send_port ..).1, hport]
    · rw [(State.send_port ..).2, hport]
  · exact ⟨run (if_neg fun k => h k.1), run (if_neg fun k => h k.1)⟩
  · exact run (if_neg fun k => nomatch (hc ▸ k.2).symm.trans (passed_early ht))
  · exact run (if_neg fun k => nomatch (hc ▸ k.2).symm.trans (passed_early ht))
  · exact ⟨fun hd => run (if_pos ⟨h, hd⟩), fun hd => run (if_pos ⟨h, hd⟩)⟩
  · exact ⟨State.send_disabled, State.send_free, State.send_busy, rfl⟩
  · refine ⟨fun h => run (State.tcForward_refused h), fun hon hw => ⟨fun hk => run (State.tcForward_corrected hon hw hk),
      fun hk h2 hr => run (State.tcForward_held hon hw hk h2 hr), fun r hk hr => run (State.tcForward_followUp hon hw hk hr),
      fun hk => run (State.tcForward_general hon hw hk)⟩⟩
  · exact ⟨fun h => run (if_neg (ne_true_of_eq_false h)), fun h => run (if_pos h)⟩
  · refine ⟨fun h => run (State.ethFrame_disabled h), fun h hf => run (State.ethFrame_fcs h hf), fun h hf =>
      ⟨fun hc => run (State.ethFrame_unconsumed h hf hc), fun m hc hm => ⟨fun hk => run ((State.ethFrame_consumed h hf hc hm).trans (if_pos hk)), fun h1 h2 h3 => ?_⟩⟩⟩
    refine run ((State.ethFrame_consumed h hf hc hm).trans (if_neg ?_))
    rintro (h | h | h)
    · exact h1 h
    · exact h2 h
    · exact h3 h
end


section
/-!
PROOFS. Heartbeats and a lost peer, the interlock of the pins, promotion, the phases of an ATTACH, DETACH and ROLE_SWAP, and the link
(14 R452 to R470; 16 R532).
-/

set_option Elab.async false

namespace Sys2Proof.Machine

open Sys2Proof

section
variable {s : State}

/-! ## Heartbeats (14 R457, R458) -/

theorem State.heartbeat_idle (h : s.now / 1000 = s.twin.hbCount ∨ s.twin.linkState ≠ 3 ∨ s.twin.wdGone = true ∨ s.mg.inReset = true) :
    s.heartbeat = s := if_pos h

theorem State.heartbeat_sent (hk : s.now / 1000 ≠ s.twin.hbCount) (hl : s.twin.linkState = 3) (hg : s.twin.wdGone = false) (hr : s.mg.inReset = false) :
    let t := s.setTwin { s.twin with hbCount := s.now / 1000, out := s.twin.out ++ [.heartbeat s.twin.role s.twin.pair s.twin.applied (short s.now)] }
    s.heartbeat = if s.now / 1000 % 10 = 0 then t.tell .lock else t := by
  refine if_neg ?_
  rintro (h | h | h | h)
  · exact hk h
  · exact h hl
  · exact nomatch hg.symm.trans h
  · exact nomatch hr.symm.trans h

theorem State.intervalEnd_idle (h : s.now / 1000 = s.twin.hbEnd ∨ s.mg.inReset = true) : s.intervalEnd = s := if_pos h

section
variable (hk : s.now / 1000 ≠ s.twin.hbEnd) (hr : s.mg.inReset = false)
include hk hr

theorem State.interval_ends : ¬ (s.now / 1000 = s.twin.hbEnd ∨ s.mg.inReset = true) :=
  not_or.mpr ⟨hk, ne_true_of_eq_false hr⟩

theorem State.intervalEnd_heard (h : (s.together = false ∧ s.joining = false) ∨ s.twin.hbSeen = true) :
    s.intervalEnd = s.setTwin { s.twin with hbEnd := s.now / 1000, hbSeen := false, hbMissed := 0 } := by
  unfold State.intervalEnd
  dsimp only
  rw [if_neg (State.interval_ends hk hr)]
  obtain ⟨ht, hj⟩ | h := h
  · rw [ht, hj]
    rfl
  · rw [h]
    exact ite_self _

theorem State.intervalEnd_missed (h : s.together = true ∨ s.joining = true) (hb : s.twin.hbSeen = false) :
    let t := (s.setTwin { s.twin with hbEnd := s.now / 1000, hbMissed := s.twin.hbMissed + 1 }).event 0x285 3 1
    s.intervalEnd = if 3 ≤ s.twin.hbMissed + 1 then t.peerLost 1 else t := by
  have hpair : (!s.together && !s.joining) = false := by
    obtain h | h := h
    · rw [h]; rfl
    · rw [h]; exact Bool.and_false _
  unfold State.intervalEnd
  dsimp only
  rw [if_neg (State.interval_ends hk hr), hpair, hb]
  rfl

end

/-! ## A peer that is lost (14 R458, R470) -/

theorem State.peerLost_joining (h : s.joining = true) (why : BitVec 4) : s.peerLost why = s.failAttach why := if_pos h

theorem State.together_pair (h : s.together = true) : s.twin.pair ≠ .none ∧ s.twin.pair ≠ .lost := by
  obtain ⟨hn, hl⟩ := (Bool.and_eq_true ..).mp h
  exact ⟨of_decide_eq_true hn, of_decide_eq_true hl⟩

/-- A device that joins has no pair yet. -/
theorem State.not_joining_of_pair (h : s.twin.pair ≠ .none) : s.joining = false := by
  rw [State.joining, decide_eq_false h]
  exact Bool.and_false _

theorem State.peerLost_alone (hj : s.joining = false) (h : s.together = false ∨ s.twin.role = .solo) (why : BitVec 4) : s.peerLost why = s := by
  unfold State.peerLost
  rw [hj, if_neg nofun]
  split
  · rfl
  next ht =>
    obtain h | h := h
    · exact absurd (by rw [h]; rfl) ht
    · rw [h]

theorem State.peerLost_active (h : s.together = true) (hr : s.twin.role = .active) (why : BitVec 4) :
    s.peerLost why = s.goAlone .lost .active why := by
  unfold State.peerLost
  rw [State.not_joining_of_pair (State.together_pair h).1, h, if_neg nofun, if_neg nofun, hr]

theorem State.peerLost_unmirrored (h : s.together = true) (hr : s.twin.role = .standby) (hm : s.mirrored = false) (why : BitVec 4) :
    s.peerLost why = s.failAttach why := by
  unfold State.peerLost
  rw [State.not_joining_of_pair (State.together_pair h).1, h, if_neg nofun, if_neg nofun, hr]
  dsimp only
  rw [hm, if_neg nofun]

theorem State.mirrored_together (h : s.mirrored = true) : s.together = true := by
  unfold State.mirrored at h
  unfold State.together
  obtain h | h := (Bool.or_eq_true ..).mp h <;> rw [of_decide_eq_true h] <;> rfl

/-- The twin of a STANDBY device in LOST, which is declared for a promotion unless the peer's pin is high. -/
def State.lostTwin (why : BitVec 4) (s : State) : Twin :=
  { s.twin with pair := .lost, leaveReason := why, swapAt := none, declared := if s.twin.peerActive then none else some s.up }

theorem State.peerLost_mirrored (hr : s.twin.role = .standby) (hm : s.mirrored = true) (why : BitVec 4) :
    s.peerLost why =
      if s.twin.peerActive = true then (s.twinChange (s.lostTwin why)).raiseAlert .promoteBlocked else s.twinChange (s.lostTwin why) := by
  obtain ⟨o, f, b, j, w, e, hc⟩ := s.twinChange_noted (s.lostTwin why)
  have ht := State.mirrored_together hm
  have hp : (s.twinChange (s.lostTwin why)).twin.peerActive = s.twin.peerActive := by rw [hc]; rfl
  unfold State.peerLost
  rw [State.not_joining_of_pair (State.together_pair ht).1, ht, if_neg nofun, if_neg nofun, hr]
  dsimp only
  rw [hm, if_pos rfl]
  show (if (s.twinChange (s.lostTwin why)).twin.peerActive = true then (s.twinChange (s.lostTwin why)).raiseAlert .promoteBlocked
    else s.twinChange (s.lostTwin why)) = _
  rw [hp]

/-- What a STANDBY device is once it has lost its peer. -/
theorem State.peerLost_standby (hr : s.twin.role = .standby) (hm : s.mirrored = true) (why : BitVec 4) :
    let t := s.peerLost why
    t.twin.pair = .lost ∧ t.twin.role = .standby ∧ t.twin.leaveReason = why ∧
      t.twin.declared = (if s.twin.peerActive then none else some s.up) ∧ (s.twin.peerActive = true → .promoteBlocked ∈ t.mg.alerts) := by
  intro t
  have ht : t = _ := State.peerLost_mirrored hr hm why
  obtain ⟨o, f, b, j, w, e, hc⟩ := s.twinChange_noted (s.lostTwin why)
  obtain ⟨u, l, ha, hl⟩ := (s.twinChange (s.lostTwin why)).raiseAlert_alerts .promoteBlocked
  rw [ha, hc] at ht
  cases hp : s.twin.peerActive with
  | true =>
    rw [hp, if_pos rfl] at ht
    rw [ht]
    exact ⟨rfl, hr, rfl, if_pos hp, fun _ => hl⟩
  | false =>
    rw [hp, if_neg nofun] at ht
    rw [ht]
    exact ⟨rfl, hr, rfl, if_neg (ne_true_of_eq_false hp), nofun⟩

/-! ## The interlock (14 R453) -/

theorem State.interlock_idle (h : s.pinConflict = false) : s.interlock = s := by
  unfold State.interlock
  rw [h]
  rfl

theorem State.interlock_differ (h : s.pinConflict = true) (hp : Config.peerPref ≠ s.mg.twinPref) :
    s.interlock = if s.mg.twinPref then s else s.setTwin { s.twin with active := false, bothHighAt := none } := by
  unfold State.interlock
  rw [h, if_neg nofun, if_neg hp]

/-- A conflict that is on record stays there as the device leaves its pair. -/
theorem State.conflict_recorded (c : Cause) (target : W64) (old new : Option (List Byte)) (ha : s.twin.active = false)
    (hc : s.twin.roleConflict = true) (hl : .roleConflict ∈ s.mg.alerts) :
    let t := (s.journalNow c target old new).leavePair 6
    t.twin.active = false ∧ t.twin.roleConflict = true ∧ .roleConflict ∈ t.mg.alerts := by
  obtain ⟨f, j, e, hj⟩ := State.journalNow_noted c target old new s
  rw [hj]
  by_cases hn : s.twin.pair = .none
  · have hstay : (s.noted f s.tb j s.wit e).leavePair 6 = s.noted f s.tb j s.wit e := if_pos hn
    rw [hstay]
    exact ⟨ha, hc, hl⟩
  · obtain ⟨_, _, _, _, _, _, t, ht, hleft⟩ := State.leavePair_left 6 (s := s.noted f s.tb j s.wit e) hn
    rw [ht]
    exact ⟨hleft.active, hleft.conflict.trans hc, hl⟩

/-- Two pins of one preference: this one falls, and the device leaves its pair, if it has one. -/
theorem State.interlock_equal (h : s.pinConflict = true) (hp : Config.peerPref = s.mg.twinPref) :
    s.interlock.twin.active = false ∧ s.interlock.twin.roleConflict = true ∧ .roleConflict ∈ s.interlock.mg.alerts := by
  obtain ⟨u, l, ha, hl⟩ := State.raiseAlert_alerts .roleConflict
    (s.setTwin { s.twin with active := false, bothHighAt := none, roleConflict := true, blocked := true })
  unfold State.interlock
  rw [h, if_neg nofun, if_pos hp, ha]
  exact State.conflict_recorded _ _ _ _ rfl rfl hl

/-! ## Promotion (14 R468) -/

theorem State.promotion_idle (h : s.twin.declared = none ∨ s.twin.role ≠ .standby ∨ s.twin.pair ≠ .lost ∨ s.twin.peerActive = true) :
    s.promotion = s := by
  unfold State.promotion
  split
  · rfl
  next d hd => exact if_pos (h.resolve_left fun h => nomatch hd.symm.trans h)

/-- The pin rises 50 ns after `t0`, where no conflict keeps it low. -/
def State.pinRaised (t0 : Nat) (s : State) : State := if t0 + 50 ≤ s.up ∧ !s.twin.blocked then s.setTwin { s.twin with active := true } else s

/-- The outputs are enabled 2 µs after `t0`. -/
def State.outputsOn (t0 : Nat) (s : State) : State := if t0 + 2000 ≤ s.up then s.setTwin { s.twin with enabled := true } else s

/-- The promotion ends 4 µs after `t0`. -/
def State.promotionEnds (t0 : Nat) (s : State) : State := if t0 + 4000 ≤ s.up then s.promoted else s

section
variable {t0 : Nat}

theorem State.pinRaised_early (h : s.up < t0 + 50) : s.pinRaised t0 = s := if_neg fun k => Nat.not_le.mpr h k.1
theorem State.pinRaised_due (h : t0 + 50 ≤ s.up) (hb : s.twin.blocked = false) : s.pinRaised t0 = s.setTwin { s.twin with active := true } :=
  if_pos ⟨h, by rw [hb]; rfl⟩
theorem State.outputsOn_early (h : s.up < t0 + 2000) : s.outputsOn t0 = s := if_neg (Nat.not_le.mpr h)
theorem State.outputsOn_due (h : t0 + 2000 ≤ s.up) : s.outputsOn t0 = s.setTwin { s.twin with enabled := true } := if_pos h
theorem State.promotionEnds_early (h : s.up < t0 + 4000) : s.promotionEnds t0 = s := if_neg (Nat.not_le.mpr h)
theorem State.promotionEnds_due (h : t0 + 4000 ≤ s.up) : s.promotionEnds t0 = s.promoted := if_pos h

theorem State.promotion_stages {d : Nat} (hd : s.twin.declared = some d) (hr : s.twin.role = .standby) (hp : s.twin.pair = .lost)
    (ha : s.twin.peerActive = false) (ht : max d (s.twin.peerLowAt.getD d) = t0) :
    s.promotion = ((s.pinRaised t0).outputsOn t0).promotionEnds t0 := by
  subst ht
  unfold State.promotion
  rw [hd]
  refine if_neg ?_
  rintro (h | h | h)
  · exact h hr
  · exact h hp
  · exact nomatch ha.symm.trans h

theorem State.stages_declared (h : s.up < t0 + 50) : ((s.pinRaised t0).outputsOn t0).promotionEnds t0 = s := by
  rw [State.pinRaised_early h, State.outputsOn_early (by omega), State.promotionEnds_early (by omega)]

theorem State.stages_raised (h : t0 + 50 ≤ s.up) (h' : s.up < t0 + 2000) (hb : s.twin.blocked = false) :
    ((s.pinRaised t0).outputsOn t0).promotionEnds t0 = s.setTwin { s.twin with active := true } := by
  have h4 : s.up < t0 + 4000 := by omega
  rw [State.pinRaised_due h hb, State.outputsOn_early (by exact h'), State.promotionEnds_early (by exact h4)]

theorem State.stages_enabled (h : t0 + 2000 ≤ s.up) (hb : s.twin.blocked = false) :
    ((s.pinRaised t0).outputsOn t0).promotionEnds t0 = (s.setTwin { s.twin with active := true, enabled := true }).promotionEnds t0 := by
  rw [State.pinRaised_due (by omega) hb, State.outputsOn_due (by exact h)]
  rfl

end

/-! ## The phases of an ATTACH (14 R460) -/

theorem State.bulkDone_active (hp : s.twin.pair = .bulk) (hr : s.twin.role ≠ .standby) (mem : List (Nat × List Byte)) (copies : BulkCopy)
    (binds : List (Nat × Packet)) : s.bulkDone mem copies binds = s.sendFinal.twinChange { s.sendFinal.twin with pair := .final } := by
  unfold State.bulkDone
  rw [if_neg (not_not_intro hp), if_neg hr]

/-- The joining device as what BULK brought stands. -/
def State.bulkJoined (mem : List (Nat × List Byte)) (copies : BulkCopy) (binds : List (Nat × Packet)) (s : State) : State :=
  let t := mem.foldl (fun s e => (s.hbmWrite e.1 e.2).1) s
  let u := binds.foldl (fun s e => s.joinBinding e.1 e.2) (t.setKiln { t.kiln with copies := copies.sections })
  copies.links.foldl (fun s k => s.joinLink k) u

theorem State.bulkDone_standby (hp : s.twin.pair = .bulk) (hr : s.twin.role = .standby) (mem : List (Nat × List Byte)) (copies : BulkCopy)
    (binds : List (Nat × Packet)) :
    s.bulkDone mem copies binds = (s.bulkJoined mem copies binds).twinChange { (s.bulkJoined mem copies binds).twin with pair := .final } := by
  unfold State.bulkDone State.bulkJoined
  rw [if_neg (not_not_intro hp), if_pos hr]

theorem State.joinLink_eq (k : LinkCopy) (s : State) : s.joinLink k = s.setLink k.link { s.link k.link with
    seq := k.seq, bseq := k.bseq, echoFor := k.echoFor, wasUp := k.wasUp, delayUi := k.delayUi,
    sent := k.sent, beaconAt := k.beaconAt, records := k.records, txRd := k.txRd, cmd := k.cmd } :=
  State.updLink_eq ..

/-- Queues that FINAL brought stand as they are. -/
def State.takeQueues (qs : List (Nat × Queue)) (s : State) : State := qs.foldl (fun s e => s.setQueue e.1 e.2) s

theorem State.takeQueues_eq (qs : List (Nat × Queue)) (s : State) : ∃ v, s.takeQueues qs = { s with queues := v } := by
  refine List.foldlRecOn (motive := fun t : State => ∃ v, t = { s with queues := v }) _ _ ⟨s.queues, rfl⟩ ?_
  rintro _ ⟨v, rfl⟩ e -
  exact ⟨_, rfl⟩

theorem State.join_nothing {qs : List (Nat × Queue)} (h : ∀ e ∈ qs, e.2.outst = []) (s : State) :
    qs.foldl (fun s e => (e.2.outst.filter (fun o => !o.inv)).foldl (fun s o => s.joinCommand o) s) s = s := by
  refine List.foldlRecOn (motive := fun t : State => t = s) _ _ rfl ?_
  rintro t rfl e he
  rw [h e he]
  rfl

theorem State.twinChange_bindings (v : Twin) (s : State) : (s.twinChange v).bindings = s.bindings := by
  obtain ⟨o, f, b, j, w, e, h⟩ := s.twinChange_noted v
  rw [h]
  rfl

theorem State.Ends.bindings {t : State} (h : s.Ends t) : t.bindings = s.bindings := by
  obtain ⟨_, _, _, _, _, _, _, _, _, rfl⟩ := h
  rfl

theorem State.finalDone_active (hp : s.twin.pair = .final) (hr : s.twin.role ≠ .standby) (qs : List (Nat × Queue)) (ix : BitVec 64) :
    s.finalDone qs ix = s.twinChange { s.twin with pair := .synced } :=
  (if_neg (not_not_intro hp)).trans (if_neg hr)

/-- FINAL ends with SYNCED where every binding is caught up and no command waits in the queues. -/
theorem State.finalDone_standby {qs : List (Nat × Queue)} (hp : s.twin.pair = .final) (hr : s.twin.role = .standby)
    (hb : s.bindings.any (fun e => e.2.catchup) = false) (hq : ∀ e ∈ qs, e.1 = 0 ∨ e.2.outst = []) (ix : BitVec 64) :
    let t := s.takeQueues (qs.filter (fun e => decide (e.1 ≠ 0 ∧ e.1 < 4096)))
    let u := t.setTwin { s.twin with applied := ix, commitIx := ix.toNat }
    s.finalDone qs ix = (u.twinChange { u.twin with pair := .synced }).attachEnds St.done := by
  have hnone : ∀ e ∈ qs.filter (fun e => decide (e.1 ≠ 0 ∧ e.1 < 4096)), e.2.outst = [] := by
    intro e he
    obtain ⟨hmem, hq0⟩ := List.mem_filter.mp he
    exact (hq e hmem).resolve_left (of_decide_eq_true hq0).1
  unfold State.finalDone
  rw [if_neg (not_not_intro hp), if_pos hr]
  dsimp only
  rw [State.join_nothing hnone]
  obtain ⟨v, hv⟩ := s.takeQueues_eq (qs.filter (fun e => decide (e.1 ≠ 0 ∧ e.1 < 4096)))
  have hfold : (qs.filter (fun e => decide (e.1 ≠ 0 ∧ e.1 < 4096))).foldl (fun s e => s.setQueue e.1 e.2) s = { s with queues := v } := hv
  rw [hfold, hv]
  generalize hu : State.setTwin _ _ = u
  have hub : u.bindings = s.bindings := by rw [← hu]; rfl
  have hsync : u.syncedState = .synced := if_neg (by rw [hub, hb]; nofun)
  have hcatch : ((u.twinChange { u.twin with pair := .synced }).attachEnds St.done).bindings.filter (fun e => e.2.catchup) = [] := by
    rw [(State.attachEnds_ends ..).bindings, State.twinChange_bindings, hub]
    exact List.filter_eq_nil_iff.mpr (List.any_eq_false.mp hb)
  rw [hsync, hcatch]
  rfl

/-! ## DETACH and ROLE_SWAP (14 R462, R463) -/

section
variable {c q sq : Nat}

/-- The DETACH has had its effect, and completes with the role that it leaves. -/
def State.detached (q sq : Nat) (s : State) : State := s.complete q sq { r0 := BitVec.ofNat 64 s.twin.role.num } { }

theorem State.detachEffect_early (hd : s.twin.detachAt = some (c, q, sq)) (h : s.now < c) : s.detachEffect = s := by
  unfold State.detachEffect
  rw [hd]
  exact if_pos h

theorem State.detachEffect_none (hd : s.twin.detachAt = none) : s.detachEffect = s := by
  unfold State.detachEffect
  rw [hd]

theorem State.detachEffect_solo (hd : s.twin.detachAt = some (c, q, sq)) (h : c ≤ s.now) (hr : s.twin.role = .solo) :
    s.detachEffect = ((s.setTwin { s.twin with detachAt := none }).attachEnds St.flagged).detached q sq := by
  unfold State.detachEffect
  rw [hd]
  dsimp only
  rw [if_neg (Nat.not_lt.mpr h), State.setTwin_twin]
  dsimp only
  rw [hr]
  rfl

theorem State.detachEffect_active (hd : s.twin.detachAt = some (c, q, sq)) (h : c ≤ s.now) (hr : s.twin.role = .active) :
    s.detachEffect = ((s.setTwin { s.twin with detachAt := none }).goAlone .none .solo 3).detached q sq := by
  unfold State.detachEffect
  rw [hd]
  dsimp only
  rw [if_neg (Nat.not_lt.mpr h), State.setTwin_twin]
  dsimp only
  rw [hr]
  rfl

theorem State.swapCount_none (hs : s.twin.swapAt = none) : s.swapCount = s := by
  unfold State.swapCount
  rw [hs]

/-- The twin of an ACTIVE device that has handed over. -/
def Twin.swapped (t : Twin) : Twin :=
  { t with role := .standby, active := false, enabled := false, swapAt := none, received := [], declared := none }

section
variable (hs : s.twin.swapAt = some (c, q, sq)) (hr : s.twin.role = .active)
include hs hr

theorem State.swapCount_waits (h : s.now < c ∨ s.mirrored = false ∨ s.onDemandRunning = true ∨ s.twin.entries ≠ []) : s.swapCount = s := by
  unfold State.swapCount
  rw [hs]
  dsimp only
  rw [if_pos hr]
  refine if_pos (h.imp id (Or.imp_left fun h => ?_))
  rw [h]
  rfl

theorem State.swapCount_active (h : c ≤ s.now) (hm : s.mirrored = true) (hd : s.onDemandRunning = false) (he : s.twin.entries = []) :
    let t := s.handOver.tell (.roleSwap s.now)
    s.swapCount = (t.twinChange t.twin.swapped).complete q sq { r0 := 2 } { } := by
  intro t
  obtain ⟨o, f, b, j, w, e, hc⟩ := t.twinChange_noted t.twin.swapped
  have hrole : (t.twinChange t.twin.swapped).twin.role = .standby := by rw [hc]; rfl
  have hgo : ¬ (s.now < c ∨ (!s.mirrored) = true ∨ s.onDemandRunning = true ∨ s.twin.entries ≠ []) := by
    rintro (k | k | k | k)
    · exact Nat.not_le.mpr k h
    · rw [hm] at k
      exact Bool.false_ne_true k
    · exact nomatch hd.symm.trans k
    · exact k he
  unfold State.swapCount
  rw [hs]
  dsimp only
  rw [if_pos hr, if_neg hgo]
  show (t.twinChange t.twin.swapped).complete q sq { r0 := BitVec.ofNat 64 (t.twinChange t.twin.swapped).twin.role.num } { } = _
  rw [hrole]
  rfl

end

section
variable (hs : s.twin.swapAt = some (c, q, sq)) (hr : s.twin.role ≠ .active)
include hs hr

/-- Before C + 100 ns the peer of the swap does no more than to raise its pin. -/
theorem State.swapCount_raises (h : s.now < c + 100) :
    s.swapCount = if c + 50 ≤ s.now ∧ s.peerLow = true ∧ (!s.twin.blocked) = true then s.setTwin { s.twin with active := true } else s := by
  have hlate : ∀ t : State, t.now = s.now → ¬ c + 100 ≤ t.now := fun t ht => by rw [ht]; exact Nat.not_le.mpr h
  unfold State.swapCount
  rw [hs]
  dsimp only
  rw [if_neg hr]
  by_cases hraise : c + 50 ≤ s.now ∧ s.peerLow = true ∧ (!s.twin.blocked) = true
  · rw [if_pos hraise]
    exact if_neg (hlate _ rfl)
  · rw [if_neg hraise]
    exact if_neg (hlate _ rfl)

end

end

end

end Sys2Proof.Machine

open Sys2Proof Sys2Proof.Machine

/-- Settles O52: each event of the twin by what it does to the pair. -/
theorem twinStateEvents : Obligations.TwinStateEvents := by
  unfold Obligations.TwinStateEvents
  intro s
  have run : ∀ {t u : State}, t = u → (Host.Outcome.next t : Res) = .next u := fun h => congrArg _ h
  refine ⟨fun h => run (State.heartbeat_idle h), fun hk hl hg hr => run (State.heartbeat_sent hk hl hg hr), fun h => run (State.intervalEnd_idle h),
    fun hk hr => ⟨fun h => run (State.intervalEnd_heard hk hr h), fun h hb => ⟨fun hm => ?_, fun hm => ?_⟩⟩, fun why => ?_, rfl, fun level => rfl,
    State.interlock_idle, State.interlock_differ, State.interlock_equal, fun h => run (State.promotion_idle h), fun d hd hr hp ha => ?_,
    fun mem copies binds => ⟨fun h => run (if_pos h), fun hp hr => run (State.bulkDone_active hp hr mem copies binds),
      fun hp hr => run (State.bulkDone_standby hp hr mem copies binds)⟩, fun k => ?_, fun qs ix => ⟨fun h => run (if_pos h),
      fun hp hr => run (State.finalDone_active hp hr qs ix), fun hp hr hb hq => run (State.finalDone_standby hp hr hb hq ix)⟩,
    fun h => run (State.detachEffect_none h), fun c q sq hd => ⟨fun h => run (State.detachEffect_early hd h),
      fun h hr => run (State.detachEffect_solo hd h hr), fun h hr => run (State.detachEffect_active hd h hr)⟩,
    fun h => run (State.swapCount_none h), fun c q sq hs hr => ⟨fun h => run (State.swapCount_waits hs hr h),
      fun h hm hd he => run (State.swapCount_active hs hr h hm hd he)⟩, fun c q sq hs hr => ⟨fun h => ?_, fun hl h => ?_, fun h h' hl hb => ?_⟩,
    fun h => run (if_neg h), fun h => run (if_pos h), fun n hn => within_of_lt hn _⟩
  · exact run ((State.intervalEnd_missed hk hr h hb).trans (if_neg (by omega)))
  · exact run ((State.intervalEnd_missed hk hr h hb).trans (if_pos (by omega)))
  · refine ⟨fun h => State.peerLost_joining h why, fun hj h => State.peerLost_alone hj h why, fun h hr => State.peerLost_active h hr why,
      fun h hr hm => State.peerLost_unmirrored h hr hm why, fun hr hm => ?_⟩
    obtain ⟨hpair, hrole, hwhy, hdecl, halert⟩ := State.peerLost_standby hr hm why
    exact ⟨hpair, hrole, hwhy, fun hp => by rw [hdecl, hp]; rfl, fun hp => ⟨by rw [hdecl, hp]; rfl, halert hp⟩⟩
  · have hst := State.promotion_stages hd hr hp ha rfl
    exact ⟨fun h => run (hst.trans (State.stages_declared h)), fun h h' hb => run (hst.trans (State.stages_raised h h' hb)),
      fun h h' hb => run (hst.trans ((State.stages_enabled h hb).trans (State.promotionEnds_early h'))),
      fun h hb => run (hst.trans ((State.stages_enabled (by omega) hb).trans (State.promotionEnds_due h)))⟩
  · rw [State.joinLink_eq, State.setLink_link]
    exact ⟨rfl, rfl, rfl, rfl, fun l hl => State.setLink_link_ne _ _ _ _ hl⟩
  · exact run ((State.swapCount_raises hs hr (by omega)).trans (if_neg fun k => Nat.not_le.mpr h k.1))
  · exact run ((State.swapCount_raises hs hr h).trans (if_neg fun k => Bool.false_ne_true (hl.symm.trans k.2.1)))
  · exact run ((State.swapCount_raises hs hr h').trans (if_pos ⟨h, hl, by rw [hb]; rfl⟩))
end


section
/-!
PROOFS. Power-on and warm resets, the ROM, the end of a firmware load, the recorder and the end of a replay (12 R416 to R422; 15 R490 to R514).
-/

set_option Elab.async false

namespace Sys2Proof.Machine

open Sys2Proof

section
variable {s : State}

/-! ## Resets (15 R490 to R493) -/

/-- A cause of a warm reset is due: RESET_N at once, the others when their time has come. -/
def State.warmDue (cause : Nat) (s : State) : Prop := cause = 1 ∨ s.mg.warmAt.any (fun w => decide (w.2 = cause ∧ w.1 ≤ s.up)) = true

/-- The device in a warm reset: what it keeps, and why. -/
def State.inWarmReset (cause : Nat) (s : State) : State :=
  s.cutOff.flushCache.keptOver.setMg { s.cutOff.flushCache.keptOver.mg with resetCause := BitVec.ofNat 3 cause, inReset := true }

theorem State.warmReset_refused {cause : Nat} (h : s.mg.inReset = true ∨ ¬ s.warmDue cause) : s.warmReset cause = s := if_pos h

theorem State.warmReset_due {cause : Nat} (hr : s.mg.inReset = false) (h : s.warmDue cause) :
    s.warmReset cause = if cause = 1 then s.inWarmReset cause else (s.inWarmReset cause).boot true [] :=
  if_neg (not_or.mpr ⟨ne_true_of_eq_false hr, not_not_intro h⟩)

theorem execWarmReset_eq {cause : Nat} {t : State} (h1 : 1 ≤ cause) (h3 : cause ≤ 3) (h : s.warmReset cause = t) :
    exec (.warmReset cause) s = .next t :=
  (if_pos ⟨h1, h3⟩).trans (congrArg Host.Outcome.next h)

/-- A warm reset keeps the stores of every tile. -/
theorem State.keptOver_tile_mem (p : Nat) (s : State) : (s.keptOver.tile p).mem = (s.tile p).mem := by
  have hmap : s.keptOver.tile p = Tile.warm (s.tile p) := Tbl.get_map (g := Tile.warm) (d := { }) rfl p s.tiles
  rw [hmap]
  rfl

theorem State.keptOver_queues (s : State) : s.keptOver.queues = s.queues := List.map_id' s.queues

theorem State.release_held (h : s.mg.inReset = false) (sel : BitVec 3) (pref : Bool) (safe : BitVec 2) (bad : List Nat) :
    s.release sel pref safe bad = s := by
  unfold State.release
  rw [h]
  rfl

theorem State.release_rising (h : s.mg.inReset = true) (sel : BitVec 3) (pref : Bool) (safe : BitVec 2) (bad : List Nat) :
    s.release sel pref safe bad =
      (s.setMg { s.mg with bootSel := sel, twinPref := pref, pwmSafe := safe, safeBall := safe }).boot (decide (s.mg.resetCause ≠ 0)) bad := by
  unfold State.release
  rw [h]
  rfl

/-! ## The ROM (15 R494, R514) -/

theorem State.trainHbm_mg (warm : Bool) (s : State) : (s.trainHbm warm).mg = s.mg := by
  unfold State.trainHbm
  extract_lets bad old keep pcs hbm t
  have ht : t.mg = s.mg := State.setHbm_mg ..
  clear_value t
  dsimp only
  split
  · exact ht
  · dsimp only [State.setTwin_mg, State.setWit_mg, State.setHbm_mg]
    exact ht

/-- RECOVERY as the ROM leaves it: without a pseudo-channel the queues are closed, and the status says so. -/
structure State.Recovered (why : BitVec 3) (s t : State) : Prop where
  dev : t.mg.dev = .recovery
  why : t.mg.recoveryWhy = if t.pcSlots = [] then 4 else why
  inReset : t.mg.inReset = s.mg.inReset
  strapErr : t.mg.strapErr = s.mg.strapErr
  enabled : (t.queue 0).enabled = decide (t.pcSlots ≠ [])

theorem State.recover_recovered (why : BitVec 3) (warm : Bool) (s : State) : s.Recovered why (s.recover why warm) := by
  unfold State.recover State.noHbm State.updQueue
  have hmg := s.trainHbm_mg warm
  have hreset : (s.trainHbm warm).mg.inReset = s.mg.inReset := congrArg Mgmt.inReset hmg
  have hstrap : (s.trainHbm warm).mg.strapErr = s.mg.strapErr := congrArg Mgmt.strapErr hmg
  clear hmg
  generalize s.trainHbm warm = u at hreset hstrap ⊢
  dsimp only
  by_cases hp : u.pcSlots = []
  · rw [hp, List.isEmpty_nil, if_pos rfl]
    refine ⟨rfl, (if_pos hp).symm, hreset, hstrap, ?_⟩
    rw [State.setQueue_queue]
    exact (decide_eq_false (not_not_intro hp)).symm
  · rw [if_neg (mt List.isEmpty_iff.mp hp)]
    refine ⟨rfl, (if_neg hp).symm, hreset, hstrap, ?_⟩
    rw [State.setQueue_queue]
    exact (decide_eq_true hp).symm

/-- The device as the ROM starts. -/
def State.booting (s : State) : State :=
  let s := s.setMg { s.mg with dev := .startUp, inReset := false, strapErr := decide (5 ≤ s.mg.bootSel.toNat), recoveryWhy := 0,
                               startUpTest := false, cfgSkipped := 0, releasedAt := s.up }
  s.setTwin { s.twin with peerLowAt := if s.twin.peerActive then none else some s.up }

/-- The device once the ROM has read the identity, unless it has it already, and the configuration. -/
def State.configured (warm : Bool) (s : State) : State := (if warm then s.booting else s.booting.unlock).readConfig

theorem State.configured_mg (warm : Bool) (s : State) :
    (s.configured warm).mg.inReset = false ∧ (s.configured warm).mg.strapErr = decide (5 ≤ s.mg.bootSel.toNat) ∧
      (s.configured warm).mg.bootSel = s.mg.bootSel ∧ (warm = true → (s.configured warm).mg.identityOk = s.mg.identityOk) := by
  cases warm with
  | false => exact ⟨rfl, rfl, rfl, nofun⟩
  | true => exact ⟨rfl, rfl, rfl, fun _ => rfl⟩

theorem State.boot_test (h : s.mg.bootSel = 4) (warm : Bool) (bad : List Nat) :
    s.boot warm bad = s.booting.setMg { s.booting.mg with dev := .test, fwVersion := 0 } := if_pos h

theorem State.boot_strapped (h : s.mg.bootSel = 2 ∨ 5 ≤ s.mg.bootSel.toNat) (warm : Bool) (bad : List Nat) :
    s.boot warm bad = (s.configured warm).recover 1 warm := by
  have h4 : s.mg.bootSel ≠ 4 := by
    rintro h4
    rw [h4] at h
    exact absurd h (by decide)
  have hsel := (s.configured_mg warm).2.2.1
  refine (if_neg h4).trans ?_
  exact if_pos (by rw [← hsel] at h; exact h)

theorem State.boot_unidentified (h : s.mg.bootSel.toNat < 2 ∨ s.mg.bootSel = 3) (hi : s.mg.identityOk = false) (bad : List Nat) :
    s.boot true bad = (s.configured true).recover 3 true := by
  obtain ⟨-, -, hsel, hid⟩ := s.configured_mg true
  have h4 : s.mg.bootSel ≠ 4 := by
    rintro h4
    rw [h4] at h
    exact absurd h (by decide)
  have hrom : ¬ (s.mg.bootSel = 2 ∨ 5 ≤ s.mg.bootSel.toNat) := by
    rintro (h2 | h5)
    · rw [h2] at h
      exact absurd h (by decide)
    · obtain h | h := h
      · omega
      · rw [h] at h5
        exact absurd h5 (by decide)
  rw [← hsel] at hrom
  refine (if_neg h4).trans ((if_neg (by exact hrom)).trans (if_pos ?_))
  have : (s.configured true).mg.identityOk = false := (hid rfl).trans hi
  exact (Bool.not_eq_true' _).mpr this

/-! ## A firmware load ends (15 R507) -/

/-- The flash as the load has written it, and the area that it wrote. -/
def State.loaded (l : FwLoad) (s : State) : State := s.setMg { s.mg with load := none, flash := s.mg.flash.store (s.mg.areaFor l.object) l.object }

theorem State.fwLoadDone_none (h : s.mg.load = none) : s.fwLoadDone = s := by
  unfold State.fwLoadDone
  rw [h]

theorem State.fwLoadDone_eq {l : FwLoad} (h : s.mg.load = some l) : s.fwLoadDone =
    if (s.loaded l).mg.accepts ((s.loaded l).mg.flash.content (s.mg.areaFor l.object)) = true then
      ((s.loaded l).journalNow (s.causeOf l.queue l.seq) (objTarget 0 0x31) none none).complete l.queue l.seq
        { r0 := BitVec.ofNat 64 (objVersion l.object) } { }
    else (s.loaded l).complete l.queue l.seq
      { status := St.dataError, location := ((s.outstOf l.queue l.seq).map (fun o => locHbm o.pkt.descAddr)).getD 0 } { } := by
  unfold State.fwLoadDone
  rw [h]
  dsimp only
  cases ha : (s.loaded l).mg.accepts ((s.loaded l).mg.flash.content (s.mg.areaFor l.object)) with
  | true => exact if_neg (by rw [State.loaded] at ha; rw [ha]; nofun)
  | false => exact if_pos (by rw [State.loaded] at ha; rw [ha]; rfl)

/-! ## The recorder (12 R416, R417) -/

/-- A device that records on its outputs, with the queues, the slots and the timebase of another. -/
structure State.Records (out : BitVec 3) (s t : State) : Prop where
  mode : t.wit.mode = .record
  recording : t.wit.recording = true
  outputs : t.wit.outputs = out
  startAt : t.wit.startAt = none
  queues : t.queues = s.queues
  slots : t.slots = s.slots
  tb : t.tb = s.tb

/-- An entry changes the buffer of the recorder, and its counts. -/
theorem State.witPut_buffer (typ src stamp : Nat) (pl : List Byte) (s : State) : ∃ b l n k e,
    s.witPut typ src stamp pl = { s with wit := { s.wit with buffer := b, lost := l, lseq := n, entries := k }, evc := e } := by
  unfold State.witPut
  dsimp only
  split
  · obtain ⟨e, he⟩ := State.event_eq 0x2C4 0 1 (s.setWit { s.wit with lost := s.wit.lost + 1 })
    exact ⟨_, _, _, _, e, he⟩
  · obtain ⟨e, he⟩ := State.event_eq 0x2C3 0 1 (s.setWit { s.wit with
      buffer := s.wit.buffer ++ [witBytes typ src stamp (s.wit.lseq % 65536) pl], lseq := s.wit.lseq + 1, entries := s.wit.entries + 1 })
    exact ⟨_, _, _, _, e, he⟩

section
variable {t : State} {out : BitVec 3}

theorem State.Records.witness (h : s.Records out t) (typ src stamp : Nat) (pl : List Byte) : s.Records out (t.witness typ src stamp pl) := by
  unfold State.witness
  split
  · obtain ⟨b, l, n, k, e, hput⟩ := t.witPut_buffer typ src stamp pl
    rw [hput]
    exact ⟨h.mode, h.recording, h.outputs, h.startAt, h.queues, h.slots, h.tb⟩
  · exact h

theorem State.Records.snapAll (h : s.Records out t) (kind c : Nat) (ixs : List Nat) (content : Nat → State → List Byte) :
    s.Records out (t.snapAll kind c ixs content) :=
  List.foldlRecOn (motive := fun u : State => s.Records out u) _ _ h (fun _ hu _ _ => hu.witness ..)

theorem State.Records.journalNow (h : s.Records out t) (c : Cause) (target : W64) (before after : Option (List Byte)) :
    s.Records out (t.journalNow c target before after) := by
  obtain ⟨f, j, e, hj⟩ := State.journalNow_noted c target before after t
  rw [hj]
  exact ⟨h.mode, h.recording, h.outputs, h.startAt, h.queues, h.slots, h.tb⟩

theorem State.moveDom_eq (d : Nat) (r : BitVec 3) (s : State) : ∃ x k, s.moveDom d r = { s with doms := x, kiln := k } := by
  unfold State.moveDom
  dsimp only
  split <;> exact ⟨_, _, rfl⟩

/-- Domains that are brought to FIRE change nothing that is recorded. -/
theorem State.fireHeld_eq (s : State) : ∃ x k, s.fireHeld = { s with doms := x, kiln := k } := by
  refine List.foldlRecOn (motive := fun t : State => ∃ x k, t = { s with doms := x, kiln := k }) _ _ ⟨s.doms, s.kiln, rfl⟩ ?_
  rintro _ ⟨x, k, rfl⟩ d -
  split
  · obtain ⟨x', k', h⟩ := State.moveDom_eq d 0 { s with doms := x, kiln := k }
    rw [h]
    exact ⟨_, k', rfl⟩
  · exact ⟨x, k, rfl⟩

theorem State.Records.fireHeld (h : s.Records out t) : s.Records out t.fireHeld := by
  obtain ⟨x, k, hf⟩ := t.fireHeld_eq
  rw [hf]
  exact ⟨h.mode, h.recording, h.outputs, h.startAt, h.queues, h.slots, h.tb⟩

end

theorem State.witChange_eq (c : Cause) (f : State → State) (s : State) :
    s.witChange c f = f s ∨ ∃ target old new, s.witChange c f = (f s).journalNow c target old new := by
  unfold State.witChange
  dsimp only
  split
  · exact .inl rfl
  · exact .inr ⟨_, _, _, rfl⟩

theorem State.recordStart_none (h : s.wit.startAt = none) : s.recordStart = s := by
  unfold State.recordStart
  rw [h]

section
variable {c : Nat} {out : BitVec 3} {cause : Cause} (hs : s.wit.startAt = some (c, out, cause))
include hs

theorem State.recordStart_early (h : s.now < c) : s.recordStart = s := by
  unfold State.recordStart
  rw [hs]
  exact if_pos h

theorem State.recordStart_records (h : c ≤ s.now) : s.Records out s.recordStart := by
  unfold State.recordStart
  rw [hs]
  dsimp only
  rw [if_neg (Nat.not_lt.mpr h)]
  refine State.Records.fireHeld (.witness (.snapAll (.snapAll (.snapAll (.snapAll (.snapAll (.witness ?_ ..) ..) ..) ..) ..) ..) ..)
  have hstart : ∀ t : State, s.Records out t → s.Records out t.dropUnlogged := fun t h =>
    ⟨h.mode, h.recording, h.outputs, h.startAt, h.queues, h.slots, h.tb⟩
  refine hstart _ ?_
  have hset : ∀ a b, s.Records out (s.setWit { s.wit with
      startAt := none, mode := .record, outputs := out, recording := true, lost := 0, lseq := 0, entries := 0, snapSlots := a, snapBindings := b }) :=
    fun a b => ⟨rfl, rfl, rfl, rfl, rfl, rfl, rfl⟩
  obtain hw | ⟨target, old, new, hw⟩ := State.witChange_eq cause (fun s => s.setWit { s.wit with
      startAt := none, mode := .record, outputs := out, recording := true, lost := 0, lseq := 0, entries := 0,
      snapSlots := (s.slots.filter (fun e => e.2.bound)).map (·.1), snapBindings := s.bindings.map (·.1) }) s
  · rw [hw]
    exact hset ..
  · rw [hw]
    exact (hset ..).journalNow ..

end

theorem State.gap_idle (h : s.wit.lost = 0 ∨ s.wit.mode ≠ .record ∨ witRoom < witFill s.wit + 65536) : s.gap = s := if_pos h

theorem State.gap_written (hl : s.wit.lost ≠ 0) (hm : s.wit.mode = .record) (hr : witFill s.wit + 65536 ≤ witRoom) :
    s.gap = (s.setWit { s.wit with lost := 0, gaps := satAdd s.wit.gaps 1 }).witPut 0x3F 0 s.now (leBytes 8 s.wit.lost) := by
  refine if_neg ?_
  rintro (h | h | h)
  · exact hl h
  · exact h hm
  · exact Nat.not_lt.mpr hr h

/-! ## A replay (12 R420 to R422) -/

/-- The next entry of the log. -/
def State.nextEntry (s : State) : List Byte := s.logRest.take (entrySize s.logRest)

theorem State.replayEntry_idle (h : s.wit.mode ≠ .replay ∨ s.logRest = []) : s.replayEntry = s := if_pos h

theorem State.replayEntry_eq (hm : s.wit.mode = .replay) (hl : s.logRest ≠ []) : s.replayEntry =
    if logType s.nextEntry = 0x3E ∨ logType s.nextEntry = 0x3F ∨ s.now < logStamp s.nextEntry then s
    else (s.setWit { s.wit with logPos := s.wit.logPos + entrySize s.logRest }).replayOne s.nextEntry :=
  if_neg (not_or.mpr ⟨not_not_intro hm, hl⟩)

theorem State.replayOver_idle (h : s.wit.mode ≠ .replay) : s.replayOver = s := if_pos h

theorem State.replayOver_done (hm : s.wit.mode = .replay) (hl : s.logRest = []) : s.replayOver = s.replayEnd false :=
  (if_neg (not_not_intro hm)).trans (if_pos hl)

theorem State.replayOver_eq (hm : s.wit.mode = .replay) (hl : s.logRest ≠ []) : s.replayOver =
    if s.now < logStamp s.logRest then s
    else if logType s.logRest = 0x3E then s.replayEnd false
    else if logType s.logRest = 0x3F then (s.setWit { s.wit with gaps := satAdd s.wit.gaps 1, gapMet := true }).replayEnd false
    else s :=
  (if_neg (not_not_intro hm)).trans (if_neg hl)

/-- An INCREMENT of the log is put in force as far as the limits go. -/
theorem State.replayOne_increment {e : List Byte} (h : logType e = 3) (s : State) :
    s.replayOne e = s.setTb { s.tb with inc := limitInc (w64At 0 (logPayload e)) } := by
  unfold State.replayOne
  dsimp only
  rw [h]
  rfl

theorem limitInc_bounds (v : W64) : incMin ≤ ((limitInc v).toNat : Int) ∧ ((limitInc v).toNat : Int) ≤ incMax := by
  have hlo : incMin ≤ clampI (v.toNat : Int) incMin incMax ∧ clampI (v.toNat : Int) incMin incMax ≤ incMax := by
    rw [clampI_eq_max_min _ (by decide)]
    exact ⟨le_max_left .., max_le (by decide) (min_le_left ..)⟩
  unfold limitInc i64
  generalize clampI (v.toNat : Int) incMin incMax = x at hlo ⊢
  unfold incMin incMax at *
  rw [BitVec.toNat_ofInt]
  omega

/-- The recorder once a replay has ended. -/
def State.forgetLog (s : State) : State :=
  s.setWit { s.wit with mode := .off, log := [], logPos := 0, by_ := none, gapMet := false, strictMis := false,
                        cuts := [], orders := [], accepts := [], results := [], seqMap := [] }

/-- REPLAY_START completes, and the device is in SERVICE. -/
def State.replayClosed (q sq : Nat) (st : Byte) (s : State) : State :=
  ((s.witChange byDevice State.forgetLog).finish q sq st).setMg { ((s.witChange byDevice State.forgetLog).finish q sq st).mg with dev := .service }

theorem State.Ends.kept {t : State} (h : s.Ends t) : t.wit = s.wit ∧ t.lanes = s.lanes := by
  obtain ⟨_, _, _, _, _, _, _, _, _, rfl⟩ := h
  exact ⟨Eq.refl _, Eq.refl _⟩

theorem State.replayClosed_off (q sq : Nat) (st : Byte) (s : State) :
    (s.replayClosed q sq st).wit.mode = .off ∧ (s.replayClosed q sq st).wit.log = [] ∧ (s.replayClosed q sq st).mg.dev = .service ∧
      (s.replayClosed q sq st).lanes = s.lanes := by
  obtain ⟨hwit, hlanes⟩ := (State.complete_ends q sq { status := st } { } (s.witChange byDevice State.forgetLog)).kept
  have hchange : (s.witChange byDevice State.forgetLog).wit = s.forgetLog.wit ∧ (s.witChange byDevice State.forgetLog).lanes = s.lanes := by
    obtain h | ⟨target, old, new, h⟩ := State.witChange_eq byDevice State.forgetLog s
    · rw [h]
      exact ⟨rfl, rfl⟩
    · obtain ⟨f, j, e, hj⟩ := State.journalNow_noted byDevice target old new s.forgetLog
      rw [h, hj]
      exact ⟨rfl, rfl⟩
  have hw : (s.replayClosed q sq st).wit = s.forgetLog.wit := hwit.trans hchange.1
  exact ⟨congrArg Witness.mode hw, congrArg Witness.log hw, rfl, hlanes.trans hchange.2⟩

/-- The counter goes back to the shadow counter, which moves no lane. -/
theorem State.steppedBack_lanes (b : Timebase) (s : State) : (((s.setTb b).event 0x2C2 0 1).journalDev 0x40 0).resumeMode.lanes = s.lanes := by
  obtain ⟨f, b', j, w, e, hr⟩ := (((s.setTb b).event 0x2C2 0 1).journalDev 0x40 0).resumeMode_noted
  obtain ⟨f', j', e', hj⟩ := State.journalNow_noted byDevice (objTarget 0x40 0) none none ((s.setTb b).event 0x2C2 0 1)
  obtain ⟨e'', he⟩ := State.event_eq 0x2C2 0 1 (s.setTb b)
  rw [hr, State.journalDev, hj, he]
  rfl

theorem State.replayEnd_closed {q sq : Nat} (hm : s.wit.mode = .replay) (hb : s.wit.by_ = some (q, sq)) (bad : Bool) :
    ∃ (u : State) (st : Byte), u.lanes = [] ∧ s.replayEnd bad = u.replayClosed q sq st := by
  unfold State.replayEnd
  rw [hm, hb]
  dsimp only
  generalize s.removeAll = r
  refine ⟨_, _, ?_, rfl⟩
  split
  · exact State.steppedBack_lanes ..
  · rfl

theorem State.replayEnd_off {q sq : Nat} (hm : s.wit.mode = .replay) (hb : s.wit.by_ = some (q, sq)) (bad : Bool) :
    (s.replayEnd bad).wit.mode = .off ∧ (s.replayEnd bad).wit.log = [] ∧ (s.replayEnd bad).mg.dev = .service ∧ (s.replayEnd bad).lanes = [] := by
  obtain ⟨u, st, hu, h⟩ := State.replayEnd_closed hm hb bad
  obtain ⟨hmode, hlog, hdev, hlanes⟩ := u.replayClosed_off q sq st
  rw [h]
  exact ⟨hmode, hlog, hdev, hlanes.trans hu⟩

end

end Sys2Proof.Machine

open Sys2Proof Sys2Proof.Machine

/-- Settles O54: the resets and the ROM, SERVICE, a firmware load, the TRNG, the recorder, and a replay. -/
theorem resetAndRecorderEvents : Obligations.ResetAndRecorderEvents := by
  unfold Obligations.ResetAndRecorderEvents
  intro s
  have run : ∀ {t u : State}, t = u → (Host.Outcome.next t : Res) = .next u := fun h => congrArg _ h
  refine ⟨rfl, fun cause h1 h3 => ?_, ?_, fun sel pref safe bad => ⟨fun h => run (State.release_held h ..), fun h => run (State.release_rising h ..)⟩,
    fun warm bad => ?_, fun h => run (if_neg (ne_true_of_eq_false h)), fun h => run (if_pos h), fun h => run (State.fwLoadDone_none h),
    fun l h => run (State.fwLoadDone_eq h), rfl, rfl, fun h => run (State.recordStart_none h), fun c out cause hs => ?_,
    fun h => run (State.gap_idle h),
    fun hl hm hr => run (State.gap_written hl hm hr), ?_, fun e h => State.replayOne_increment h s, limitInc_bounds,
    fun b q sq hm hb => State.replayEnd_off hm hb b⟩
  · refine ⟨fun h => execWarmReset_eq h1 h3 (State.warmReset_refused (.inl h)), fun hc h => execWarmReset_eq h1 h3 (State.warmReset_refused (.inr ?_)),
      fun hr => ⟨fun hc => ?_, fun hc hdue => ?_⟩⟩
    · rintro (h' | h')
      · exact hc h'
      · exact nomatch h.symm.trans h'
    · exact execWarmReset_eq h1 h3 ((State.warmReset_due hr (.inl hc)).trans (if_pos hc))
    · exact execWarmReset_eq h1 h3 ((State.warmReset_due hr (.inr hdue)).trans (if_neg hc))
  · exact ⟨rfl, rfl, rfl, rfl, s.keptOver_queues, fun p => s.keptOver_tile_mem p, rfl, rfl, rfl, rfl, rfl, rfl, rfl, rfl, rfl, rfl, rfl, rfl, rfl⟩
  · refine ⟨fun h => ?_, fun h => ?_, fun h hw hi => ?_⟩
    · rw [State.boot_test h]
      exact ⟨rfl, rfl⟩
    · obtain ⟨hreset, hstrap, -, -⟩ := s.configured_mg warm
      obtain ⟨rdev, rwhy, rreset, rstrap, renabled⟩ := State.recover_recovered 1 warm (s.configured warm)
      rw [State.boot_strapped h]
      refine ⟨rdev, rreset.trans hreset, rstrap.trans hstrap, rwhy, renabled, ?_⟩
      rw [State.mute, rreset, hreset, rdev, rwhy]
      split
      next hp => rw [decide_eq_true hp]; rfl
      next hp => rw [decide_eq_false hp]; rfl
    · subst hw
      obtain ⟨rdev, rwhy, -, -, -⟩ := State.recover_recovered 3 true (s.configured true)
      rw [State.boot_unidentified h hi]
      exact ⟨rdev, rwhy⟩
  · refine ⟨fun h => run (State.recordStart_early hs h), fun h => ?_⟩
    obtain ⟨hmode, hrec, hout, hstart, hqueues, hslots, htb⟩ := State.recordStart_records hs h
    exact ⟨_, rfl, hmode, hrec, hout, hstart, hqueues, hslots, htb⟩
  · refine ⟨fun h => ⟨run (State.replayEntry_idle (.inl h)), run (State.replayOver_idle h)⟩, fun h => run (State.replayEntry_idle (.inr h)),
      fun hm hl => run (State.replayOver_done hm hl), fun hm hl => ?_⟩
    have hentry := State.replayEntry_eq hm hl
    have hover := State.replayOver_eq hm hl
    refine ⟨fun h => run (hentry.trans (if_pos h)), fun h1 h2 h3 => run (hentry.trans (if_neg ?_)), fun h => run (hover.trans ?_),
      fun ht h => run (hover.trans ((if_neg (Nat.not_lt.mpr ht)).trans (if_pos h))), fun ht h => run (hover.trans ((if_neg (Nat.not_lt.mpr ht)).trans ?_))⟩
    · rintro (h | h | h)
      · exact h1 h
      · exact h2 h
      · exact Nat.not_lt.mpr h3 h
    · obtain h | ⟨hend, hgap⟩ := h
      · exact if_pos h
      · rw [if_neg hend, if_neg hgap]
        exact ite_self _
    · rw [h]
      rfl
end
